-- ==== Sys2Proof/Word.lean ====
section
/-!
DEFINITION. The word types of the Gracel G4 and the shape of its sparse stores.

A G4 register is 32 bits wide, a register pair 64, an activity mask or predicate one bit per lane (96 lanes, R205).
Everything the machine keeps by number or address (bytes, registers, lanes) is kept as a list of key and value pairs.
-/

namespace Sys2Proof

/-- One 32-bit register, or one lane of a vector register (R205). -/
abbrev Word := BitVec 32

/-- A 64-bit value: a register pair, an address, an operation word (R3, R26). -/
abbrev Dword := BitVec 64

/-- One bit for each of the lanes 0 to 95 of a wave (R10, R205). -/
abbrev Lanes := BitVec 96

/-- One byte of a memory space. -/
abbrev Byte := BitVec 8

/-- A sparse store of `w`-bit values by key: keys strictly rising, no listed value equal to zero, which is what an
unlisted key reads as (`Cells.wf` in `Machine/Cells.lean` says so). -/
abbrev Cells (w : Nat) := List (Nat × BitVec w)

end Sys2Proof
end

