-- ==== Sys2Proof/Config.lean ====
section
/-!
DEFINITION. What one G4 part fixes and the manual leaves open.

Every constant here is opaque: no proof can see its value, so what is proved holds for every part.
-/

namespace Sys2Proof.Config

/-- Which of the results R241 allows for a special function this part returns: applied to the function's number and
its operand's bits it picks among the candidates the bound admits, the same for the same input (R241). -/
opaque sfPick : Nat → Word → Nat

/-- The 256-bit seal root fused in I/O die 0, which no register reads (R429). -/
opaque sealRoot : BitVec 256

/-- The bytes of the public half of the attestation key, derived from the seal root (R434). -/
opaque attestationPublicKey : List Byte

/-- The signature this part's attestation key makes over a digest, given the count of signatures made before
(ECDSA P-521 draws a nonce; R432, R435). -/
opaque ecdsaSign : Nat → List Byte → List Byte

/-- The boot ROM's measurement digests of the front-end firmware and the service operating system, which an attestation
report holds (R435). -/
opaque measurements : List Byte

/-- The number of this package among the packages of the fabric (R420, R421). -/
opaque packageNumber : Nat

/-- What a byte of a sealed window decrypts to while the window's key slot is empty, by key slot and raw offset: R429
lets a slot be emptied under an enabled window and states no value for the decoded alias then. -/
opaque keylessByte : Nat → Nat → Byte

/-- A byte of a team save area whose contents R408 and R409 leave open, by the team, the time of the save and its offset. -/
opaque saveByte : Nat → Nat → Nat → Byte

/-- A byte of a divergence stack entry in the encoding private to the core, by kind and owner, PC, lanes and its number
(R341). -/
opaque stackByte : Nat → Nat → Nat → Nat → Byte

/-- The rate correction, in parts per million, that this part makes for an offset from the grandmaster below 1 ms; it is cut
to 200 (R423). -/
opaque slewPpm : Int → Nat

/-- The boot ROM's check of the front-end firmware's signature passes, by the number of restarts since reset (R425). -/
opaque firmwareSigned : Nat → Bool

/-- The value the front-end firmware writes to FEHB, by the count of events: R425 gives none. -/
opaque firmwareBeat : Nat → Dword

/-- The lines an L2 holds, by time and die (R110, R111, R439). -/
opaque l2Lines : Nat → Nat → List Nat

/-- A line an L2 holds is dirty, by time and line: where the L2s hold what was written is no state of the model (R115, R405). -/
opaque l2Dirty : Nat → Nat → Bool

/-- The way of its set that holds a line of an L2, by time and line (R110, R115). -/
opaque l2Way : Nat → Nat → Nat

/-- A line is replaced in its L2, by time and line (R405). -/
opaque l2Replaced : Nat → Nat → Bool

/-- What a core reads from divergence stack bytes that are not its own, by the 512 bytes: kind and owner, PC and lanes of each
entry (R341, R410). -/
opaque stackRead : List Byte → List (Nat × Nat × Nat)

/-- What a host read of a device address that no mapped range holds returns: R415 and R416 state no data for it. -/
opaque unmappedByte : Nat → Byte

/-- Whether an L2 still holds a decoded line, by the count of events and the line's number: R108 lets it (log entry 38). -/
opaque l2Holds : Nat → Nat → Bool

end Sys2Proof.Config
end

