-- ==== Sys2Proof/Machine/Cells.lean ====
section
/-!
DEFINITION. Sparse stores: reading and writing one cell of a `Cells` list, and its canonical form.

Registers, scratchpads, accumulators and memory are all kept this way, so one set of laws serves them all.
-/

namespace Sys2Proof.Machine

/-- The value at key `a`; what is not listed reads as zero. -/
def cellGet {w : Nat} (m : Cells w) (a : Nat) : BitVec w :=
  match m with
  | [] => 0
  | (k, x) :: r => if k = a then x else cellGet r a

/-- Put `x` in front of the cells `r`, unless it is zero. -/
def cellCons {w : Nat} (a : Nat) (x : BitVec w) (r : Cells w) : Cells w :=
  if x = 0 then r else (a, x) :: r

/-- List `x` at key `a`, keeping keys rising. -/
def cellPut {w : Nat} (m : Cells w) (a : Nat) (x : BitVec w) : Cells w :=
  match m with
  | [] => [(a, x)]
  | (k, y) :: r =>
    if k < a then (k, y) :: cellPut r a x
    else if k = a then (a, x) :: r
    else (a, x) :: (k, y) :: r

/-- Write `x` at key `a`, keeping keys rising and zeros unlisted. -/
def cellSet {w : Nat} (m : Cells w) (a : Nat) (x : BitVec w) : Cells w :=
  if x = 0 then m.filter fun c => decide (c.1 ≠ a) else cellPut m a x

/-- Write several cells, the last of equal keys last. -/
def cellSetAll {w : Nat} (m : Cells w) (l : List (Nat × BitVec w)) : Cells w :=
  l.foldl (fun m p => cellSet m p.1 p.2) m

/-- The canonical form above a bound: keys rising from `lo`, no listed zero. -/
def cellsWfFrom {w : Nat} (lo : Nat) (m : Cells w) : Bool :=
  match m with
  | [] => true
  | (k, x) :: r => decide (lo ≤ k) && decide (x ≠ 0) && cellsWfFrom (k + 1) r

/-- The canonical form: keys strictly rising, no listed value zero. Equal stores are then equal lists. -/
def Cells.wf {w : Nat} (m : Cells w) : Bool := cellsWfFrom 0 m

/-- The cells whose keys satisfy `p`. -/
def cellFilter {w : Nat} (p : Nat → Bool) (m : Cells w) : Cells w := m.filter fun c => p c.1

/-- The memory of the package: bytes by physical address. -/
abbrev Memory := Cells 8

/-- The canonical form of memory. -/
abbrev Memory.wf (m : Memory) : Bool := Cells.wf m

/-- `n` bytes from address `a`, least significant first, as a number (R2). -/
def cellBytes (m : Cells 8) (a : Nat) : Nat → Nat
  | 0 => 0
  | n + 1 => (cellGet m a).toNat + 256 * cellBytes m (a + 1) n

/-- The `n` bytes of `v`, least significant first (R2). -/
def bytesOf (v : Nat) : Nat → List Byte
  | 0 => []
  | n + 1 => BitVec.ofNat 8 v :: bytesOf (v / 256) n

/-- The number whose bytes, least significant first, are `l` (R2). -/
def ofBytes : List Byte → Nat
  | [] => 0
  | b :: r => b.toNat + 256 * ofBytes r

/-- Pair the bytes of a list with the addresses from `a`. -/
def addrBytes (a : Nat) : List Byte → List (Nat × Byte)
  | [] => []
  | b :: r => (a, b) :: addrBytes (a + 1) r

/-- `n` bytes of a store from `a`. -/
def cellList (m : Cells 8) (a n : Nat) : List Byte := (List.range n).map fun i => cellGet m (a + i)

end Sys2Proof.Machine
end

