-- ==== Sys2Proof/Machine/Crypto.lean ====
section
/-!
DEFINITION. The published algorithms the manual names: AES-256 and AES-CMAC (R382), AES-256-XTS (R104), SHA-512 and
HKDF (R429, R432).

PRESUMED: the manual names these algorithms and does not repeat them; they are FIPS 197, SP 800-38B, IEEE 1619,
FIPS 180-4 and RFC 5869.
Tables are computed from their definitions (field inverses, roots of primes) instead of being listed.
-/

namespace Sys2Proof.Machine

/-! ### AES-256 -/

/-- Multiplication by x in the AES field. -/
def xtime (b : Byte) : Byte := if b.msb then (b <<< 1) ^^^ 0x1B else b <<< 1

/-- Multiplication in the AES field, over the low `n` bits of `a`. -/
def gfMulBits (a b : Byte) : Nat → Byte
  | 0 => 0
  | n + 1 => xtime (gfMulBits a b n) ^^^ (if a.getLsbD (7 - n) then b else 0)

/-- Multiplication in the AES field. -/
def gfMul (a b : Byte) : Byte := gfMulBits a b 8

/-- The inverse in the AES field, the 254th power; 0 for 0. -/
def gfInv (a : Byte) : Byte :=
  let a2 := gfMul a a
  let a3 := gfMul a2 a
  let a6 := gfMul a3 a3
  let a12 := gfMul a6 a6
  let a15 := gfMul a12 a3
  let a30 := gfMul a15 a15
  let a60 := gfMul a30 a30
  let a120 := gfMul a60 a60
  let a126 := gfMul a120 a6
  let a127 := gfMul a126 a
  gfMul a127 a127

/-- The substitution box. -/
def sbox (a : Byte) : Byte :=
  let b := gfInv a
  b ^^^ b.rotateLeft 1 ^^^ b.rotateLeft 2 ^^^ b.rotateLeft 3 ^^^ b.rotateLeft 4 ^^^ 0x63

/-- The inverse substitution box. -/
def invSbox (a : Byte) : Byte := gfInv (a.rotateLeft 1 ^^^ a.rotateLeft 3 ^^^ a.rotateLeft 6 ^^^ 0x05)

/-- Byte `i` of a list, 0 past its end. -/
def byteAt (l : List Byte) (i : Nat) : Byte := (l[i]?).getD 0

/-- Exclusive or of two lists of bytes. -/
def xorBytes (a b : List Byte) : List Byte := List.zipWith (· ^^^ ·) a b

/-- The next four bytes of the AES-256 key schedule, for word number `i`, from the words so far, newest first. -/
def keyWord (ws : List (List Byte)) (i : Nat) (rcon : Byte) : List Byte :=
  let t := ws.headD []
  let g :=
    if i % 8 = 0 then
      xorBytes ([byteAt t 1, byteAt t 2, byteAt t 3, byteAt t 0].map sbox) [rcon, 0, 0, 0]
    else if i % 8 = 4 then t.map sbox
    else t
  xorBytes ((ws[7]?).getD []) g

/-- Extend the key schedule by `n` words. -/
def keyExtend : Nat → Nat → Byte → List (List Byte) → List (List Byte)
  | 0, _, _, ws => ws
  | n + 1, i, rcon, ws => keyExtend n (i + 1) (if i % 8 = 0 then xtime rcon else rcon) (keyWord ws i rcon :: ws)

/-- A list of bytes in groups of `n`, at most `k` groups. -/
def chunks (n : Nat) : Nat → List Byte → List (List Byte)
  | 0, _ => []
  | k + 1, l => if l.isEmpty then [] else l.take n :: chunks n k (l.drop n)

/-- The fifteen round keys of a 32-byte key. -/
def roundKeys (key : List Byte) : List (List Byte) :=
  chunks 16 15 ((keyExtend 52 8 1 (chunks 4 8 key).reverse).reverse.flatten)

/-- Rows shifted left, or right for the inverse; the state is in column order. -/
def shiftRows (inv : Bool) (l : List Byte) : List Byte :=
  (List.range 16).map fun i =>
    let r := i % 4
    byteAt l ((if inv then i + 16 - 4 * r else i + 4 * r) % 16)

/-- One column mixed by a circulant of the field with first row `m`. -/
def mixColumn (m : List Byte) (c : List Byte) : List Byte :=
  (List.range 4).map fun r =>
    (List.range 4).foldl (fun x j => x ^^^ gfMul (byteAt m ((j + 4 - r) % 4)) (byteAt c j)) 0

/-- All four columns mixed. -/
def mixColumns (m l : List Byte) : List Byte := ((chunks 4 4 l).map (mixColumn m)).flatten

/-- AES rounds with the keys left; the last key has no column mixing before it. -/
def aesRounds : List (List Byte) → List Byte → List Byte
  | [], x => x
  | [k], x => xorBytes (shiftRows false (x.map sbox)) k
  | k :: ks, x => aesRounds ks (xorBytes (mixColumns [2, 3, 1, 1] (shiftRows false (x.map sbox))) k)

/-- AES-256 encryption of a 16-byte block. -/
def aesEncrypt (key block : List Byte) : List Byte :=
  match roundKeys key with
  | [] => block
  | k :: ks => aesRounds ks (xorBytes block k)

/-- Inverse rounds: the keys in reverse order. -/
def aesInvRounds : List (List Byte) → List Byte → List Byte
  | [], x => x
  | [k], x => xorBytes ((shiftRows true x).map invSbox) k
  | k :: ks, x => aesInvRounds ks (mixColumns [14, 11, 13, 9] (xorBytes ((shiftRows true x).map invSbox) k))

/-- AES-256 decryption of a 16-byte block. -/
def aesDecrypt (key block : List Byte) : List Byte :=
  match (roundKeys key).reverse with
  | [] => block
  | k :: ks => aesInvRounds ks (xorBytes block k)

/-! ### CMAC (R382) -/

/-- Doubling of a 16-byte value, most significant byte first. -/
def cmacDouble (l : List Byte) : List Byte :=
  let x := BitVec.ofNat 128 (ofBytes l.reverse)
  let y := if x.msb then (x <<< 1) ^^^ 0x87 else x <<< 1
  (bytesOf y.toNat 16).reverse

/-- CBC over the blocks of a message. -/
def cbcMac (key : List Byte) : List (List Byte) → List Byte → List Byte
  | [], acc => acc
  | b :: r, acc => cbcMac key r (aesEncrypt key (xorBytes acc b))

/-- AES-CMAC of a nonempty message. -/
def aesCmac (key msg : List Byte) : List Byte :=
  let l := aesEncrypt key (List.replicate 16 0)
  let k1 := cmacDouble l
  let n := (msg.length + 15) / 16
  let blocks := chunks 16 n msg
  let last := (blocks[n - 1]?).getD []
  let fin :=
    if last.length = 16 then xorBytes last k1
    else xorBytes (last ++ 0x80 :: List.replicate (15 - last.length) 0) (cmacDouble k1)
  cbcMac key (blocks.take (n - 1) ++ [fin]) (List.replicate 16 0)

/-- The code tag of a line: the first 8 bytes of the CMAC of its address and bytes (R382). -/
def codeTag (ckey : BitVec 256) (va : Nat) (line : List Byte) : List Byte :=
  (aesCmac (bytesOf ckey.toNat 32) (bytesOf va 8 ++ line)).take 8

/-! ### XTS (R104) -/

/-- Multiplication of an XTS tweak by x, least significant byte first. -/
def xtsDouble (l : List Byte) : List Byte :=
  let x := BitVec.ofNat 128 (ofBytes l)
  let y := if x.msb then (x <<< 1) ^^^ 0x87 else x <<< 1
  bytesOf y.toNat 16

/-- XTS over whole 16-byte blocks with a block cipher. -/
def xtsBlocks (f : List Byte → List Byte) : List (List Byte) → List Byte → List Byte
  | [], _ => []
  | b :: r, t => xorBytes (f (xorBytes b t)) t ++ xtsBlocks f r (xtsDouble t)

/-- AES-256-XTS of one 128-byte unit number `unit` under a key pair, data key in the low half (R104, R429). -/
def xtsUnit (decrypt : Bool) (keys : BitVec 512) (unit : Nat) (data : List Byte) : List Byte :=
  let k := bytesOf keys.toNat 64
  let t := aesEncrypt (k.drop 32) (bytesOf unit 16)
  xtsBlocks (if decrypt then aesDecrypt (k.take 32) else aesEncrypt (k.take 32)) (chunks 16 8 data) t

/-! ### SHA-512, HMAC, HKDF -/

/-- Floor of the cube root, from `b` base-8 digits. -/
def icbrtDigits (n : Nat) : Nat → Nat
  | 0 => 0
  | b + 1 =>
    let r := 2 * icbrtDigits (n / 8) b
    if (r + 1) * (r + 1) * (r + 1) ≤ n then r + 1 else r

/-- Floor of the square root, from `b` base-4 digits. -/
def rootDigits (n : Nat) : Nat → Nat
  | 0 => 0
  | b + 1 =>
    let r := 2 * rootDigits (n / 4) b
    if (r + 1) * (r + 1) ≤ n then r + 1 else r

/-- Primes below 410, the first eighty. -/
def primes80 : List Nat :=
  (List.range 410).filter fun p => decide (2 ≤ p) && (List.range 21).all fun d => d < 2 || p ≤ d || p % d != 0

/-- The eighty constants: fractions of the cube roots of the primes. -/
def shaK : List Dword := primes80.map fun p => BitVec.ofNat 64 (icbrtDigits (p * 2 ^ 192) 70)

/-- The eight initial words: fractions of the square roots of the first primes. -/
def shaH : List Dword := (primes80.take 8).map fun p => BitVec.ofNat 64 (rootDigits (p * 2 ^ 128) 70)

/-- Extend the message schedule, newest first, by `n` words. -/
def shaSchedule : Nat → List Dword → List Dword
  | 0, w => w
  | n + 1, w =>
    let at' (i : Nat) := (w[i]?).getD 0
    let a := at' 14
    let b := at' 1
    let s0 := a.rotateRight 1 ^^^ a.rotateRight 8 ^^^ a >>> 7
    let s1 := b.rotateRight 19 ^^^ b.rotateRight 61 ^^^ b >>> 6
    shaSchedule n ((at' 15 + s0 + at' 6 + s1) :: w)

/-- One round on the eight working words. -/
def shaRound (v : List Dword) (kw : Dword) : List Dword :=
  match v with
  | [a, b, c, d, e, f, g, h] =>
    let s1 := e.rotateRight 14 ^^^ e.rotateRight 18 ^^^ e.rotateRight 41
    let ch := (e &&& f) ^^^ (~~~e &&& g)
    let t1 := h + s1 + ch + kw
    let s0 := a.rotateRight 28 ^^^ a.rotateRight 34 ^^^ a.rotateRight 39
    let maj := (a &&& b) ^^^ (a &&& c) ^^^ (b &&& c)
    [t1 + s0 + maj, a, b, c, d + t1, e, f, g]
  | _ => v

/-- A big-endian 64-bit word. -/
def bigWord (l : List Byte) : Dword := BitVec.ofNat 64 (ofBytes l.reverse)

/-- One 128-byte block. -/
def shaBlock (h : List Dword) (block : List Byte) : List Dword :=
  let w := (shaSchedule 64 ((chunks 8 16 block).map bigWord).reverse).reverse
  List.zipWith (· + ·) h ((List.zipWith (· + ·) shaK w).foldl shaRound h)

/-- SHA-512 of a message, 64 bytes. -/
def sha512 (msg : List Byte) : List Byte :=
  let n := msg.length
  let pad := (256 - (n + 17) % 128) % 128
  let m := msg ++ 0x80 :: List.replicate pad 0 ++ (bytesOf (8 * n) 16).reverse
  (((chunks 128 (m.length / 128) m).foldl shaBlock shaH).map fun w => (bytesOf w.toNat 8).reverse).flatten

/-- HMAC with SHA-512. -/
def hmac512 (key msg : List Byte) : List Byte :=
  let k0 := if 128 < key.length then sha512 key else key
  let k := k0 ++ List.replicate (128 - k0.length) 0
  sha512 (k.map (· ^^^ 0x5C) ++ sha512 (k.map (· ^^^ 0x36) ++ msg))

/-- The ASCII bytes of "G4 window seal" (R429). -/
def sealInfo : List Byte := [0x47, 0x34, 0x20, 0x77, 0x69, 0x6E, 0x64, 0x6F, 0x77, 0x20, 0x73, 0x65, 0x61, 0x6C]

/-- HKDF-SHA-512 with 64 bytes of output: the key pair of a key slot (R429). -/
def sealKey (root salt : BitVec 256) (n : Nat) : BitVec 512 :=
  let prk := hmac512 (bytesOf salt.toNat 32) (bytesOf root.toNat 32)
  BitVec.ofNat 512 (ofBytes (hmac512 prk (sealInfo ++ [BitVec.ofNat 8 n, 1])))

/-- SEALID: the first 8 bytes of the SHA-512 of the attestation key's public half (R434). -/
def sealId : List Byte := (sha512 Config.attestationPublicKey).take 8

end Sys2Proof.Machine
end

