-- ==== Sys2Proof/Machine/Num.lean ====
section
/-!
DEFINITION. Number formats and their arithmetic (manual chapter "Number formats and arithmetic").

A finite number is an exact dyadic: a sign, a magnitude `m` and an exponent `e`, meaning `m * 2^e`.
Every operation computes exactly and rounds once with `roundTo` (R73).
-/

namespace Sys2Proof.Machine

/-! ### Integers -/

/-- `wrap(x, w)` of R4. -/
def wrapInt (x : Int) (w : Nat) : BitVec w := BitVec.ofInt w x

/-- Clamp to a range (`sat` of R4). -/
def clampInt (x lo hi : Int) : Int := if x < lo then lo else if hi < x then hi else x

/-- The least value of a `w`-bit type, signed or unsigned (R64). -/
def minOf (sg : Bool) (w : Nat) : Int := if sg then -(2 ^ (w - 1) : Int) else 0

/-- The greatest value of a `w`-bit type (R64). -/
def maxOf (sg : Bool) (w : Nat) : Int := if sg then 2 ^ (w - 1) - 1 else 2 ^ w - 1

/-- The bits of `x` as a signed or unsigned number. -/
def toNum {w : Nat} (sg : Bool) (x : BitVec w) : Int := if sg then x.toInt else (x.toNat : Int)

/-- An integer result: clamped to its type when `sat`, wrapped otherwise. -/
def narrowInt (sg sat : Bool) (w : Nat) (x : Int) : BitVec w :=
  wrapInt (if sat then clampInt x (minOf sg w) (maxOf sg w) else x) w

/-- Element `i` of width `w` of a lane (R65). -/
def elemOf (w : Nat) (x : Word) (i : Nat) : BitVec w := x.extractLsb' (w * i) w

/-- A lane of elements of width `w`, element 0 lowest (R65). -/
def packElems (w : Nat) (f : Nat → BitVec w) : Word :=
  (List.range (32 / w)).foldl (fun r i => r ||| ((f i).zeroExtend 32 <<< (w * i))) 0

/-! ### Float formats -/

/-- The float formats of R67. -/
inductive FloatTy
  | f32 | f16 | bf16 | e4m3 | e5m2 | e2m1
  deriving DecidableEq, Repr, Inhabited

/-- Width in bits (R67). -/
def FloatTy.width : FloatTy → Nat
  | .f32 => 32 | .f16 => 16 | .bf16 => 16 | .e4m3 => 8 | .e5m2 => 8 | .e2m1 => 4

/-- Fraction bits (R67). -/
def FloatTy.frac : FloatTy → Nat
  | .f32 => 23 | .f16 => 10 | .bf16 => 7 | .e4m3 => 3 | .e5m2 => 2 | .e2m1 => 1

/-- Exponent bias (R67). -/
def FloatTy.bias : FloatTy → Nat
  | .f32 => 127 | .f16 => 15 | .bf16 => 127 | .e4m3 => 7 | .e5m2 => 15 | .e2m1 => 1

/-- Precision with the implicit bit (R66). -/
def FloatTy.prec (t : FloatTy) : Nat := t.frac + 1

/-- Exponent of the smallest normal value (R67). -/
def FloatTy.emin (t : FloatTy) : Int := 1 - t.bias

/-- The encoding of the largest finite value (R68). -/
def FloatTy.maxBits : FloatTy → Nat
  | .f32 => 0x7F7FFFFF | .f16 => 0x7BFF | .bf16 => 0x7F7F | .e4m3 => 0x7E | .e5m2 => 0x7B | .e2m1 => 0x7

/-- The encoding of +infinity, where the format has one (R68). -/
def FloatTy.infBits : FloatTy → Option Nat
  | .f32 => some 0x7F800000 | .f16 => some 0x7C00 | .bf16 => some 0x7F80 | .e4m3 => none | .e5m2 => some 0x7C
  | .e2m1 => none

/-- The canonical NaN, where the format has one (R68). -/
def FloatTy.nanBits : FloatTy → Option Nat
  | .f32 => some 0x7FC00000 | .f16 => some 0x7E00 | .bf16 => some 0x7FC0 | .e4m3 => some 0x7F | .e5m2 => some 0x7E
  | .e2m1 => none

/-- The canonical NaN; +0 where the format has none (R76). -/
def FloatTy.nan (t : FloatTy) : Nat := t.nanBits.getD 0

/-- A sign bit in front of a magnitude. -/
def FloatTy.signed (t : FloatTy) (neg : Bool) (mag : Nat) : Nat := if neg then 2 ^ (t.width - 1) + mag else mag

/-- A float value: a NaN (quiet or signalling), an infinity, or `m * 2^e` with its sign. -/
inductive FVal
  | nan (signalling : Bool)
  | inf (neg : Bool)
  | fin (neg : Bool) (m : Nat) (e : Int)
  deriving DecidableEq, Repr, Inhabited

/-- Read an encoding of format `t` (R66, R68). -/
def fread (t : FloatTy) (bits : Nat) : FVal :=
  let mag := bits % 2 ^ (t.width - 1)
  let neg := bits / 2 ^ (t.width - 1) % 2 = 1
  let ex := mag / 2 ^ t.frac
  let fr := mag % 2 ^ t.frac
  if t.maxBits < mag then
    if t.infBits = some mag then .inf neg
    else .nan (decide (t ≠ .e4m3 ∧ t ≠ .e5m2) && decide (fr < 2 ^ (t.frac - 1)))
  else if ex = 0 then .fin neg fr (t.emin - t.frac)
  else .fin neg (2 ^ t.frac + fr) (ex - t.bias - t.frac)

/-- Rounding modes of R30. -/
inductive RMode
  | rne | rtz | rup | rdn
  deriving DecidableEq, Repr, Inhabited

/-- The mode of a rounding field (R30). -/
def RMode.ofBits (b : BitVec 2) : RMode :=
  match b.toNat with
  | 0 => .rne | 1 => .rtz | 2 => .rup | _ => .rdn

/-- The exception conditions of R75. -/
structure Conds where
  nv : Bool := false
  dz : Bool := false
  ovf : Bool := false
  unf : Bool := false
  nx : Bool := false
  deriving DecidableEq, Repr, Inhabited

/-- Conditions raised by either of two elements or lanes. -/
def Conds.or (a b : Conds) : Conds :=
  { nv := a.nv || b.nv, dz := a.dz || b.dz, ovf := a.ovf || b.ovf, unf := a.unf || b.unf, nx := a.nx || b.nx }

/-- `m * 2^e` compared with `n * 2^f`: is the first below the second? -/
def dyLt (m : Nat) (e : Int) (n : Nat) (f : Int) : Bool :=
  if e ≤ f then decide (m < n * 2 ^ (f - e).toNat) else decide (m * 2 ^ (e - f).toNat < n)

/-- `floor(m * 2^e / 2^q)` and whether it is exact, at least half, more than half: what R73's choice needs. -/
structure Cut where
  k : Nat
  exact : Bool
  half : Bool
  more : Bool
  deriving DecidableEq, Repr

/-- Cut `m * 2^e` at the spacing `2^q`. -/
def cutAt (m : Nat) (e q : Int) : Cut :=
  if q ≤ e then { k := m * 2 ^ (e - q).toNat, exact := true, half := false, more := false }
  else
    let d := 2 ^ (q - e).toNat
    let r := m % d
    { k := m / d, exact := decide (r = 0), half := decide (d ≤ 2 * r), more := decide (d < 2 * r) }

/-- Does rounding the magnitude in mode `md` step away from zero? (R73) -/
def roundsAway (md : RMode) (neg : Bool) (c : Cut) : Bool :=
  if c.exact then false
  else match md with
  | .rtz => false
  | .rup => !neg
  | .rdn => neg
  | .rne => c.more || (c.half && decide (c.k % 2 = 1))

/-- The magnitude rounded in mode `md`, in units of the spacing. -/
def cutRound (md : RMode) (neg : Bool) (c : Cut) : Nat := if roundsAway md neg c then c.k + 1 else c.k

/-- What an overflowing finite result becomes (R74). -/
def overflowBits (t : FloatTy) (md : RMode) (sat neg : Bool) : Nat :=
  if sat then t.signed neg t.maxBits
  else match t.infBits with
  | none => if t = .e4m3 then t.nan else t.signed neg t.maxBits
  | some i =>
    match md with
    | .rne => t.signed neg i
    | .rtz => t.signed neg t.maxBits
    | .rup => t.signed neg (if neg then t.maxBits else i)
    | .rdn => t.signed neg (if neg then i else t.maxBits)

/-- What an infinite input becomes on conversion to format `t`, and whether that is not an infinity (R74, R76). -/
def infTo (t : FloatTy) (sat neg : Bool) : Nat × Bool :=
  if sat then (t.signed neg t.maxBits, true)
  else match t.infBits with
  | none => (if t = .e4m3 then t.nan else t.signed neg t.maxBits, true)
  | some i => (t.signed neg i, false)

/-- The spacing exponent of values near a nonzero `m * 2^e` (R73). -/
def spacing (t : FloatTy) (m : Nat) (e : Int) : Int := max (e + (Nat.log2 m : Int)) t.emin - t.prec + 1

/-- `round` of R73 with the overflow of R74 and the conditions of R75; a zero keeps its sign. -/
def roundTo (t : FloatTy) (md : RMode) (sat neg : Bool) (m : Nat) (e : Int) : Nat × Conds :=
  if m = 0 then (t.signed neg 0, {})
  else
    let q := spacing t m e
    let c := cutAt m e q
    let k := cutRound md neg c
    let mag := k + ((q + t.prec - 2 + t.bias).toNat) * 2 ^ t.frac
    if t.maxBits < mag then (overflowBits t md sat neg, { ovf := true, nx := true })
    else (t.signed neg mag, { nx := !c.exact, unf := !c.exact && decide (mag < 2 ^ t.frac) })

/-! ### Exact sums of products (R232, R72, R91) -/

/-- Is the value a NaN? -/
def FVal.isNan : FVal → Bool
  | .nan _ => true
  | _ => false

/-- Is the value a signalling NaN? -/
def FVal.isSnan : FVal → Bool
  | .nan true => true
  | _ => false

/-- Change the sign; a NaN stays. -/
def FVal.negate : FVal → FVal
  | .nan q => .nan q
  | .inf n => .inf (!n)
  | .fin n m e => .fin (!n) m e

/-- The product of two values and whether it is the invalid 0 times infinity; then it stands as a NaN (R232). -/
def fprod (a b : FVal) : FVal × Bool :=
  match a, b with
  | .nan q, .nan r => (.nan (q || r), false)
  | .nan q, _ => (.nan q, false)
  | _, .nan r => (.nan r, false)
  | .inf n, .inf k => (.inf (n != k), false)
  | .inf n, .fin k m _ => if m = 0 then (.nan false, true) else (.inf (n != k), false)
  | .fin k m _, .inf n => if m = 0 then (.nan false, true) else (.inf (n != k), false)
  | .fin n m e, .fin k l f => (.fin (n != k) (m * l) (e + f), false)

/-- An exact dyadic with integer mantissa. -/
structure Exact where
  m : Int
  e : Int
  deriving DecidableEq, Repr

/-- The sum of two dyadics, at the lesser exponent. -/
def Exact.plus (a b : Exact) : Exact :=
  let e := min a.e b.e
  ⟨a.m * 2 ^ (a.e - e).toNat + b.m * 2 ^ (b.e - e).toNat, e⟩

/-- A finite value as a dyadic; infinities and NaNs do not reach here. -/
def FVal.exact : FVal → Exact
  | .fin n m e => ⟨if n then -(m : Int) else m, e⟩
  | _ => ⟨0, 0⟩

/-- Is the value -0? -/
def FVal.isNegZero : FVal → Bool
  | .fin true 0 _ => true
  | _ => false

/-- The exact sum of terms before any rounding: `none` where it is a NaN; with `inv` where infinities of opposite sign
meet. `rdn` gives the sign of an exact zero sum (R72). -/
def fsum (rdn : Bool) (ts : List FVal) : FVal × Bool :=
  let pinf := ts.any fun t => t = .inf false
  let ninf := ts.any fun t => t = .inf true
  if pinf && ninf then (.nan false, true)
  else if ts.any FVal.isNan then (.nan false, false)
  else if pinf then (.inf false, false)
  else if ninf then (.inf true, false)
  else
    let d := ts.foldl (fun (a : Exact) t => a.plus t.exact) (⟨0, 0⟩ : Exact)
    if d.m = 0 then
      (.fin (match ts with
        | [.fin n _ _] => n
        | _ => ts.all FVal.isNegZero || rdn) 0 0, false)
    else (.fin (decide (d.m < 0)) d.m.natAbs d.e, false)

/-- One element of a float operation (R232): products `ps` and addends `as`, rounded once into format `t`.
`snan` says that some input is a signalling NaN. -/
def froundSum (t : FloatTy) (md : RMode) (sat snan : Bool) (ps : List (FVal × Bool)) (as : List FVal) : Nat × Conds :=
  let inv := ps.any Prod.snd
  let (x, clash) := fsum (md = .rdn) (ps.map Prod.fst ++ as)
  let nv := inv || clash || snan
  match x with
  | .nan _ => (t.nan, { nv := nv })
  | .inf n => (t.signed n (t.infBits.getD t.maxBits), { nv := nv })
  | .fin n m e =>
    let (r, c) := roundTo t md sat n m e
    (r, { c with nv := nv })

/-! ### Conversions (R76 to R79) -/

/-- Conversion between two float formats (R76). -/
def fconvert (src dst : FloatTy) (md : RMode) (sat : Bool) (bits : Nat) : Nat × Conds :=
  match fread src bits with
  | .nan q => (dst.nan, { nv := q || decide (dst = .e2m1) })
  | .inf n => let (r, notInf) := infTo dst sat n; (r, { nv := notInf })
  | .fin n m e => roundTo dst md sat n m e

/-- A finite value rounded to an integer in mode `md`, and whether that is exact (R77). -/
def roundInt (md : RMode) (neg : Bool) (m : Nat) (e : Int) : Int × Bool :=
  let c := cutAt m e 0
  let k : Int := cutRound md neg c
  (if neg then -k else k, c.exact)

/-- The indefinite value of an integer target (R77). -/
def indefinite (sg : Bool) (w : Nat) : BitVec w := if sg then BitVec.ofNat w (2 ^ (w - 1)) else BitVec.allOnes w

/-- Float to integer (R77). -/
def floatToInt (src : FloatTy) (sg : Bool) (w : Nat) (md : RMode) (sat : Bool) (bits : Nat) : BitVec w × Conds :=
  match fread src bits with
  | .nan _ => (if sat then 0 else indefinite sg w, { nv := true })
  | .inf n => (if sat then wrapInt (if n then minOf sg w else maxOf sg w) w else indefinite sg w, { nv := true })
  | .fin n m e =>
    let (x, ex) := roundInt md n m e
    if minOf sg w ≤ x ∧ x ≤ maxOf sg w then (wrapInt x w, { nx := !ex })
    else (if sat then wrapInt (clampInt x (minOf sg w) (maxOf sg w)) w else indefinite sg w, { nv := true })

/-- Integer to float (R78). -/
def intToFloat (dst : FloatTy) (md : RMode) (sat : Bool) (x : Int) : Nat × Conds :=
  roundTo dst md sat (decide (x < 0)) x.natAbs 0

/-- Integer to integer (R79). -/
def intToInt (sat sg : Bool) (w : Nat) (x : Int) : BitVec w := narrowInt sg sat w x

/-- Round to an integral value in the same format (R239). A nonzero value that becomes zero raises NX alone, not UF: the model's
choice (log entry 154). -/
def roundIntegral (t : FloatTy) (md : RMode) (bits : Nat) : Nat × Conds :=
  match fread t bits with
  | .nan q => (t.nan, { nv := q })
  | .inf n => (t.signed n (t.infBits.getD t.maxBits), {})
  | .fin n m e =>
    let (x, ex) := roundInt md n m e
    ((roundTo t .rne false n x.natAbs 0).1, { nx := !ex })

/-! ### Minimum, maximum, compare, classify (R234 to R236) -/

/-- The order key of a number: -infinity below all, -0 below +0 (R234). -/
def forderBits (bits : Nat) : Int :=
  let mag : Int := bits % 2 ^ 31
  if bits / 2 ^ 31 % 2 = 1 then -mag - 1 else mag

/-- VFMIN and VFMAX (R234) on two .f32 encodings. -/
def fminmax (wantMax : Bool) (a b : Nat) : Nat × Conds :=
  let va := fread .f32 a
  let vb := fread .f32 b
  let nv := va.isSnan || vb.isSnan
  let r :=
    if va.isNan then (if vb.isNan then FloatTy.f32.nan else b)
    else if vb.isNan then a
    else if decide (forderBits a ≤ forderBits b) = wantMax then b
    else a
  (r, { nv := nv })

/-- The value order of two numbers, zeros equal. -/
def fcompare (a b : Nat) : Ordering :=
  let key (x : Nat) : Int := if x / 2 ^ 31 % 2 = 1 then -((x % 2 ^ 31 : Nat) : Int) else (x % 2 ^ 31 : Nat)
  compare (key a) (key b)

/-- The ten-bit class of an encoding (R236). -/
def fclassBits (t : FloatTy) (bits : Nat) : Nat :=
  let small (n : Bool) (m : Nat) : Nat :=
    if m = 0 then (if n then 3 else 4) else if m < 2 ^ t.frac then (if n then 2 else 5) else if n then 1 else 6
  match fread t bits with
  | .nan true => 2 ^ 8
  | .nan false => 2 ^ 9
  | .inf true => 1
  | .inf false => 2 ^ 7
  | .fin n m _ => 2 ^ small n m

/-! ### Scaled elements and TRI24 (R80 to R82) -/

/-- The product of a value and an E8M0 scale code; a NaN scale gives a NaN (R70, R80). -/
def scaled (x : FVal) (s : Nat) : FVal :=
  if s = 0xFF then .nan false
  else match x with
  | .fin n m e => .fin n m (e + (s - 127))
  | y => y

/-- The product of a value and an FP32 scale: NaN where either is one or 0 meets an infinity. -/
def scaledF32 (x : FVal) (s : Nat) : FVal := (fprod x (fread .f32 s)).1

/-- Round a decoded element into its target, saturating for FP8 (R80). -/
def decodeInto (t : FloatTy) (x : FVal) : Nat :=
  let sat := t = .e4m3 ∨ t = .e5m2
  match x with
  | .nan _ => t.nan
  | .inf n => (infTo t sat n).1
  | .fin n m e => (roundTo t .rne sat n m e).1

/-- The signed value of a TRI24 triple (R82). -/
def tri24Value (c b a : Nat) : Int :=
  let c : Int := c % 256
  let b : Int := b % 255
  let a : Int := a % 253
  let t1 := (b - c) % 255
  let t2 := ((a - c - 256 * t1) * 211) % 253
  let u := c + 256 * t1 + 65280 * t2
  if u ≤ 8257919 then u else u - 16515840

/-- The residues of an integer as C + 256 * B + 65536 * A (R81, R82). -/
def tri24Of (n : Int) : Nat := (n % 256).toNat + 256 * (n % 255).toNat + 65536 * (n % 253).toNat

/-- The value of three packed residue bytes. -/
def tri24Read (x : Nat) : Int := tri24Value (x % 256) (x / 256 % 256) (x / 65536 % 256)

/-- Packed residues with an exact integer added channel by channel (R83, R86). -/
def tri24Add (x : Nat) (n : Int) : Nat :=
  (((x % 256 : Nat) + n) % 256).toNat + 256 * (((x / 256 % 256 : Nat) + n) % 255).toNat
    + 65536 * (((x / 65536 % 256 : Nat) + n) % 253).toNat

end Sys2Proof.Machine
end

