-- ==== Sys2Proof/Syntax.lean ====
section
/-!
DEFINITION. The steps of the Gracel G4 as syntax: one constructor for each row of the opcode table.

An operation carries every field of its 64-bit word (R26), grouped by its format (R29 to R34), so a word and an
operation determine each other.
An illegal encoding is an operation too: issuing it kills the wave (R56), so no word is turned away here.
An event of the package (what a copy queue, the front end, the host, ... does next) carries what it is about.
-/

namespace Sys2Proof

/-- The fields every operation has beside its class and opcode: CH, NW, KP, KN (R26). -/
structure Ctl where
  ch : Bool
  nw : Bool
  kp : BitVec 3
  kn : Bool
  deriving DecidableEq, Repr, Inhabited

/-- Format A of classes 0 and 1, with M split by R30. -/
structure FmtA where
  c : Ctl
  d : BitVec 8
  sa : BitVec 8
  sb : BitVec 8
  sc : BitVec 8
  ty : BitVec 4
  rm : BitVec 2
  sat : Bool
  opb : BitVec 9
  deriving DecidableEq, Repr, Inhabited

/-- Format A of classes 2 to 7, where each entry defines all of M (R30). -/
structure FmtW where
  c : Ctl
  d : BitVec 8
  sa : BitVec 8
  sb : BitVec 8
  sc : BitVec 8
  m : BitVec 16
  deriving DecidableEq, Repr, Inhabited

/-- Format I: bits 31 to 0 are the immediate (R29). -/
structure FmtI where
  c : Ctl
  d : BitVec 8
  sa : BitVec 8
  imm : BitVec 32
  deriving DecidableEq, Repr, Inhabited

/-- Format M, with the modifier fields of R32. -/
structure FmtM where
  c : Ctl
  d : BitVec 8
  sa : BitVec 8
  sb : BitVec 8
  sc : BitVec 8
  str : BitVec 4
  spc : BitVec 3
  sz : BitVec 3
  sco : BitVec 3
  cp : BitVec 3
  deriving DecidableEq, Repr, Inhabited

/-- Format B: bits 31 to 0 are the signed displacement (R29, R35). -/
structure FmtB where
  c : Ctl
  d : BitVec 8
  sa : BitVec 8
  disp : BitVec 32
  deriving DecidableEq, Repr, Inhabited

/-- Format C, with the flags of SC and the scope (R33). -/
structure FmtC where
  c : Ctl
  d : BitVec 8
  sa : BitVec 8
  sb : BitVec 8
  rsv : Bool
  far : Bool
  near : Bool
  acq : Bool
  rel : Bool
  scope : BitVec 3
  mask : BitVec 16
  deriving DecidableEq, Repr, Inhabited

/-- Format X, with the modifier fields of R34. -/
structure FmtX where
  c : Ctl
  d : BitVec 8
  sa : BitVec 8
  sb : BitVec 8
  sc : BitVec 8
  fa : BitVec 4
  fb : BitVec 4
  str : BitVec 4
  xb : BitVec 4
  deriving DecidableEq, Repr, Inhabited

/-- Format P, the REP word (R45): bits 53 to 48, n - 1, the four strides, and bits 29 to 0. -/
structure FmtP where
  hi : BitVec 6
  n1 : BitVec 6
  sd : BitVec 3
  sa : BitVec 3
  sb : BitVec 3
  sc : BitVec 3
  lo : BitVec 30
  deriving DecidableEq, Repr, Inhabited

/-- A slot of a wave: the team's number in the machine, the wave's index in the team, and A or B (R22). -/
structure SlotId where
  team : Nat
  wave : Nat
  b : Bool
  deriving DecidableEq, Repr, Inhabited

/-- The classes of tracked results (R48). -/
inductive ResClass
  | ld
  | sf
  | xl
  deriving DecidableEq, Repr, Inhabited

/-- Who makes an access (R309, and the host driver and device operating system of R411). -/
inductive Agent
  | slot (sl : SlotId)
  | queue (q team : Nat)
  | segEngine (cluster : Nat)
  | host (n : Nat)
  | peer (pkg : Nat)
  | frontEnd
  | faultUnit
  | service (die : Nat)
  | walker
  deriving DecidableEq, Repr, Inhabited

/-- A link-layer management message (R419): link training, with the lanes trained and whether they run below their full
rate (R414), a change of a route, a notice of a loss. -/
inductive MgmtMessage
  | training (link lanes : Nat) (slow : Bool)
  | route (pkg : Nat) (link : Option Nat)
  | loss (pkg : Nat)
  deriving DecidableEq, Repr, Inhabited

/-- A private register of a service pair's port (R411, R412): the structures only the device operating system
writes. -/
inductive PrivReg
  | ctxWord (ctx off : Nat)
  | binding (slot : Nat) (hi : Bool)
  | osRing (off : Nat)
  | routeEntry (pkg : Nat)
  /-- a condition count of a core and a context (R231), read only -/
  | cond (core ctx i : Nat)
  deriving DecidableEq, Repr, Inhabited

/-- One access of the device operating system running on a service pair (R309, R411). -/
inductive ServiceAccess
  | load (pa size : Nat)
  | store (pa : Nat) (data : List Byte)
  /-- with the scope of its release, if it is one (R309) -/
  | counterAdd (pa : Nat) (v : Dword) (rel : Option Nat)
  | counterRead (pa : Nat)
  | privWrite (r : PrivReg) (v : Dword)
  | privRead (r : PrivReg)
  | clearStuck (ctx name : Nat)
  /-- the debug port reads physical memory (R109) -/
  | debugRead (pa size : Nat)
  /-- a save area that another package has written, at an offset of a context's pool, is taken as that of a team of a launch
  saved here (R410) -/
  | adopt (ctx off launch cluster : Nat)
  /-- the waiter tables of a home slice's or a core's island are moved (R290) -/
  | moveWaiters (island : Nat)
  deriving DecidableEq, Repr, Inhabited

/-- Who requests pre-emption (R407): the device operating system, of teams it names, or the dispatcher, for a ready launch
that cannot be placed (R354). -/
inductive PreemptAsk
  | os (teams : List Nat)
  | dispatcher (launch : Nat)
  deriving DecidableEq, Repr, Inhabited

/-- One constructor for each row of the opcode table: the operations of the seven formats, then the events. -/
inductive Instr
  /-- R216: Scalar 32-bit add, wrapping or saturating. -/
  | sadd (f : FmtA)
  /-- R216: Scalar 32-bit subtract, wrapping or saturating. -/
  | ssub (f : FmtA)
  /-- R219: Scalar add with carry-in, writing the sum and carry-out to a pair. -/
  | saddc (f : FmtA)
  /-- R219: Scalar subtract with borrow-in, writing the difference and borrow-out to a pair. -/
  | ssubb (f : FmtA)
  /-- R216: Scalar multiply, low 32 bits of the product. -/
  | smul (f : FmtA)
  /-- R216: Scalar signed multiply, high 32 bits. -/
  | smulhs (f : FmtA)
  /-- R216: Scalar unsigned multiply, high 32 bits. -/
  | smulhz (f : FmtA)
  /-- R216: Scalar bitwise AND. -/
  | sand (f : FmtA)
  /-- R216: Scalar bitwise OR. -/
  | sor (f : FmtA)
  /-- R216: Scalar bitwise XOR. -/
  | sxor (f : FmtA)
  /-- R216: Scalar AND with the complement of the second operand. -/
  | sandn (f : FmtA)
  /-- R217: Scalar shift left with an unmasked count. -/
  | sshl (f : FmtA)
  /-- R217: Scalar logical shift right with an unmasked count. -/
  | sshrz (f : FmtA)
  /-- R217: Scalar arithmetic shift right with an unmasked count. -/
  | sshrs (f : FmtA)
  /-- R217: Scalar rotate left by the count modulo 32. -/
  | srot (f : FmtA)
  /-- R218: Scalar bit-field extract, signed or unsigned. -/
  | sbfx (f : FmtA)
  /-- R218: Scalar bit-field insert under a packed control word. -/
  | sbfi (f : FmtA)
  /-- R216: Scalar count of leading zero bits. -/
  | sclz (f : FmtA)
  /-- R216: Scalar count of trailing zero bits. -/
  | sctz (f : FmtA)
  /-- R216: Scalar population count. -/
  | spopc (f : FmtA)
  /-- R216: Scalar bit reverse. -/
  | sbrev (f : FmtA)
  /-- R216: Scalar signed minimum. -/
  | smins (f : FmtA)
  /-- R216: Scalar unsigned minimum. -/
  | sminz (f : FmtA)
  /-- R216: Scalar signed maximum. -/
  | smaxs (f : FmtA)
  /-- R216: Scalar unsigned maximum. -/
  | smaxz (f : FmtA)
  /-- R215: Scalar compare writing 1 or 0 under a condition code. -/
  | scmp (f : FmtA)
  /-- R216: Scalar select of a or b by c being nonzero. -/
  | ssel (f : FmtA)
  /-- R216: Scalar register move. -/
  | smov (f : FmtA)
  /-- R220: Scalar move of a 32-bit immediate. -/
  | smovi (f : FmtI)
  /-- R221: Scalar 64-bit add on pairs. -/
  | sadd64 (f : FmtA)
  /-- R221: Scalar 64-bit subtract on pairs. -/
  | ssub64 (f : FmtA)
  /-- R221: Scalar 64-bit shift left. -/
  | sshl64 (f : FmtA)
  /-- R221: Scalar 64-bit shift right, logical or arithmetic. -/
  | sshr64 (f : FmtA)
  /-- R221: Scalar 64-bit multiply, low 64 bits. -/
  | smul64 (f : FmtA)
  /-- R223: Vector packed add, wrapping or saturating. -/
  | vadd (f : FmtA)
  /-- R223: Vector packed subtract, wrapping or saturating. -/
  | vsub (f : FmtA)
  /-- R222: Vector 32-bit multiply, low half. -/
  | vmul (f : FmtA)
  /-- R222: Vector signed multiply, high half. -/
  | vmulhs (f : FmtA)
  /-- R222: Vector unsigned multiply, high half. -/
  | vmulhz (f : FmtA)
  /-- R222: Vector multiply-add, wrapped to 32 bits. -/
  | vmad (f : FmtA)
  /-- R222: Vector bitwise AND. -/
  | vand (f : FmtA)
  /-- R222: Vector bitwise OR. -/
  | vor (f : FmtA)
  /-- R222: Vector bitwise XOR. -/
  | vxor (f : FmtA)
  /-- R222: Vector AND with complement. -/
  | vandn (f : FmtA)
  /-- R222: Vector shift left with per-lane counts. -/
  | vshl (f : FmtA)
  /-- R222: Vector logical shift right with per-lane counts. -/
  | vshrz (f : FmtA)
  /-- R222: Vector arithmetic shift right with per-lane counts. -/
  | vshrs (f : FmtA)
  /-- R222: Vector packed signed minimum. -/
  | vmins (f : FmtA)
  /-- R222: Vector packed unsigned minimum. -/
  | vminz (f : FmtA)
  /-- R222: Vector packed signed maximum. -/
  | vmaxs (f : FmtA)
  /-- R222: Vector packed unsigned maximum. -/
  | vmaxz (f : FmtA)
  /-- R223: Vector packed absolute value, optionally saturating. -/
  | vabs (f : FmtA)
  /-- R224: Vector integer compare writing a predicate. -/
  | vcmp (f : FmtA)
  /-- R224: Vector select by a predicate. -/
  | vsel (f : FmtA)
  /-- R222: Vector move. -/
  | vmov (f : FmtA)
  /-- R222: Vector bit-field extract as SBFX per lane. -/
  | vbfx (f : FmtA)
  /-- R222: Vector bit-field insert as SBFI per lane. -/
  | vbfi (f : FmtA)
  /-- R222: Vector population count. -/
  | vpopc (f : FmtA)
  /-- R222: Vector leading-zero count. -/
  | vclz (f : FmtA)
  /-- R225: Vector 64-bit add on register pairs. -/
  | vadd64 (f : FmtA)
  /-- R226: Vector four-way byte dot product with accumulation. -/
  | vqdot (f : FmtA)
  /-- R232: Vector FP32 add with one rounding. -/
  | vfadd (f : FmtA)
  /-- R232: Vector FP32 subtract with one rounding. -/
  | vfsub (f : FmtA)
  /-- R232: Vector FP32 multiply with one rounding. -/
  | vfmul (f : FmtA)
  /-- R232: Vector FP32 fused multiply-add. -/
  | vfma (f : FmtA)
  /-- R234: Vector FP32 minimum with NaN-avoiding rules. -/
  | vfmin (f : FmtA)
  /-- R234: Vector FP32 maximum with NaN-avoiding rules. -/
  | vfmax (f : FmtA)
  /-- R235: Vector FP32 compare writing a predicate. -/
  | vfcmp (f : FmtA)
  /-- R236: Vector float classification into a one-hot mask. -/
  | vfclass (f : FmtA)
  /-- R238: Vector conversion between float formats with packing or unpacking. -/
  | vfcvt (f : FmtA)
  /-- R238: Vector conversion between float and integer formats. -/
  | vcvti (f : FmtA)
  /-- R239: Vector round to integral value in the same format. -/
  | vfrnd (f : FmtA)
  /-- R232: Vector packed 16-bit fused multiply-add. -/
  | vhfma (f : FmtA)
  /-- R232: Vector 16-bit pair dot product accumulated into FP32. -/
  | vhdot (f : FmtA)
  /-- R241: Vector reciprocal special function, tracked in class sf. -/
  | vrcp (f : FmtA)
  /-- R241: Vector reciprocal square root special function. -/
  | vrsq (f : FmtA)
  /-- R241: Vector correctly rounded square root. -/
  | vsqrt (f : FmtA)
  /-- R241: Vector base-2 exponential. -/
  | vexp2 (f : FmtA)
  /-- R241: Vector base-2 logarithm. -/
  | vlog2 (f : FmtA)
  /-- R241: Vector sine of pi times x. -/
  | vsin (f : FmtA)
  /-- R241: Vector cosine of pi times x. -/
  | vcos (f : FmtA)
  /-- R241: Vector hyperbolic tangent. -/
  | vtanh (f : FmtA)
  /-- R245: Cross-lane shuffle by index within a group. -/
  | vshfl (f : FmtA)
  /-- R245: Cross-lane shuffle by XOR mask. -/
  | vshflx (f : FmtA)
  /-- R245: Cross-lane shuffle up by a distance. -/
  | vshflup (f : FmtA)
  /-- R245: Cross-lane shuffle down by a distance. -/
  | vshfldn (f : FmtA)
  /-- R246: Read one lane of a vector into a scalar. -/
  | vreadl (f : FmtA)
  /-- R246: Write a scalar into one active lane of a vector. -/
  | vwritel (f : FmtA)
  /-- R246: Gather a predicate over active lanes into a scalar quad with a count. -/
  | vballot (f : FmtA)
  /-- R246: Predicate vote: any active lane set. -/
  | vany (f : FmtA)
  /-- R246: Predicate vote: every active lane set. -/
  | vall (f : FmtA)
  /-- R248: Reduction sum over active lanes, float in a fixed tree. -/
  | vredadd (f : FmtA)
  /-- R247: Reduction minimum over active lanes. -/
  | vredmin (f : FmtA)
  /-- R247: Reduction maximum over active lanes. -/
  | vredmax (f : FmtA)
  /-- R249: Inclusive or exclusive running scan over active lanes. -/
  | vscan (f : FmtA)
  /-- R227: Predicate AND. -/
  | kand (f : FmtA)
  /-- R227: Predicate OR. -/
  | kor (f : FmtA)
  /-- R227: Predicate XOR. -/
  | kxor (f : FmtA)
  /-- R227: Predicate NOT. -/
  | knot (f : FmtA)
  /-- R227: Predicate move. -/
  | kmov (f : FmtA)
  /-- R227: Predicate built from three scalar words. -/
  | kmovFs (f : FmtA)
  /-- R186: Scalar load from a memory space into scalar registers. -/
  | ld (f : FmtM)
  /-- R186: Scalar store from scalar registers to memory. -/
  | st (f : FmtM)
  /-- R187: Vector gather load with per-lane offsets. -/
  | vld (f : FmtM)
  /-- R187: Vector scatter store with per-lane offsets. -/
  | vst (f : FmtM)
  /-- R187: Vector block load at consecutive lane addresses. -/
  | vldb (f : FmtM)
  /-- R187: Vector block store at consecutive lane addresses. -/
  | vstb (f : FmtM)
  /-- R192: Per-lane atomic read-modify-write returning the old value. -/
  | atom (f : FmtM)
  /-- R193: Per-lane relaxed reduction, possibly combined in the buffer. -/
  | red (f : FmtM)
  /-- R200: Prefetch of 2^SZ lines into L2 without faults. -/
  | pref (f : FmtM)
  /-- R201: Instruction-cache prefetch of four code lines. -/
  | ipref (f : FmtB)
  /-- R203: Order one lane's accesses across named streams. -/
  | fence (f : FmtC)
  /-- R203: Order both slots' earlier accesses before the slot's later ones. -/
  | fencew (f : FmtC)
  /-- R298: Add to a counter, optionally as a release. -/
  | cadd (f : FmtC)
  /-- R298: Add to a counter returning its old value. -/
  | caddx (f : FmtC)
  /-- R299: Park the slot until a counter reaches a threshold. -/
  | cwait (f : FmtC)
  /-- R300: Park until two counters reach thresholds, all or any. -/
  | cwait2 (f : FmtC)
  /-- R301: Test a counter against a threshold without parking. -/
  | ctest (f : FmtC)
  /-- R302: Privileged overwrite of a counter's value. -/
  | cset (f : FmtC)
  /-- R166: Create and attach a named segment. -/
  | segnew (f : FmtW)
  /-- R167: Attach to a named segment, optionally refilling it. -/
  | segatt (f : FmtW)
  /-- R169: Release and detach from a segment. -/
  | segdet (f : FmtW)
  /-- R169: Release a segment's accesses while staying attached. -/
  | segrel (f : FmtW)
  /-- R170: End a segment by name without write-back. -/
  | segfree (f : FmtW)
  /-- R171: Request eviction of a segment with a completion add. -/
  | segevict (f : FmtW)
  /-- R172: Read a snapshot of a segment's state. -/
  | segqry (f : FmtW)
  /-- R176: Make the team's core a member of the sharing group. -/
  | cjoin (f : FmtW)
  /-- R177: Remove the team's core from the sharing group with a release. -/
  | cleave (f : FmtW)
  /-- R261: Clear an accumulator and set its type. -/
  | mzero (f : FmtX)
  /-- R262: Load a weight-store slot from the core scratchpad. -/
  | mldb (f : FmtX)
  /-- R263: One unmasked K step on an accumulator. -/
  | mma (f : FmtX)
  /-- R263: One masked K step on an accumulator. -/
  | mmam (f : FmtX)
  /-- R265: Accumulate squared differences. -/
  | mdist (f : FmtX)
  /-- R266: Select the k smallest or largest elements per row. -/
  | mtopk (f : FmtX)
  /-- R271: Store an accumulator through the epilogue pipe. -/
  | mstore (f : FmtX)
  /-- R268: Bind an epilogue block to the slot. -/
  | mepi (f : FmtW)
  /-- R272: Save an accumulator image to the scratchpad. -/
  | mspill (f : FmtX)
  /-- R272: Restore an accumulator from an image. -/
  | mfill (f : FmtX)
  /-- R278: Run a tiled product from a descriptor. -/
  | mgemm (f : FmtW)
  /-- R273: Read accumulator, slot or element state. -/
  | mstat (f : FmtW)
  /-- R132: Queue a strided copy with optional conversion. -/
  | copy (f : FmtW)
  /-- R134: Queue a halo copy from the gang's tiles. -/
  | copyh (f : FmtW)
  /-- R135: Queue a gather of indexed rows. -/
  | copyg (f : FmtW)
  /-- R136: Queue a load of weight-store slots from .glob. -/
  | copyw (f : FmtW)
  /-- R141: Order earlier commands of named queues before later ones. -/
  | qfence (f : FmtC)
  /-- R142: Read a copy queue's status. -/
  | qstat (f : FmtW)
  /-- R340: Unconditional branch. -/
  | br (f : FmtB)
  /-- R340: Branch if a scalar is nonzero. -/
  | brc (f : FmtB)
  /-- R341: Divergent branch splitting lanes between slots or the stack. -/
  | brdiv (f : FmtB)
  /-- R342: Reconverge lanes at the top owned stack entry. -/
  | join (f : FmtW)
  /-- R340: Branch writing a return address to a pair. -/
  | call (f : FmtB)
  /-- R340: Return to the address in a pair. -/
  | ret (f : FmtW)
  /-- R340: Indirect jump to the address in a pair. -/
  | jmpi (f : FmtW)
  /-- R343: End the active lanes and possibly the slot and wave. -/
  | exit (f : FmtW)
  /-- R344: Pre-emption point that stops the slot if a request stands. -/
  | ppt (f : FmtW)
  /-- R52: Wait until a tracked class count is at most n. -/
  | waitc (f : FmtI)
  /-- R345: Lower the slot's issue priority for 32 cycles. -/
  | yield (f : FmtW)
  /-- R345: No operation. -/
  | nop (f : FmtW)
  /-- R346: Breakpoint stopping the slot and delivering a code. -/
  | brk (f : FmtI)
  /-- R346: Trap stopping the slot and delivering a code. -/
  | trap (f : FmtI)
  /-- R45: Repeat the next operation n times with register strides. -/
  | rep (f : FmtP)
  /-- R210: Read special state into registers. -/
  | srd (f : FmtW)
  /-- R211: Write special state from registers. -/
  | swr (f : FmtW)
  /-- R347: Add gangs to the running launch. -/
  | grow (f : FmtW)
  /-- R348: Append a launch record to a device-fed queue. -/
  | launch (f : FmtW)
  /-- R377: Switch the slot into a personality at a target address. -/
  | gsw (f : FmtW)
  /-- R378: Return from the emulation handler to the guest. -/
  | gret (f : FmtW)
  /-- R413: Privileged end of the issuing context. -/
  | halt (f : FmtW)
  /-- R42: An open chain ends after its 128th operation. -/
  | chainHoldLimit (sl : SlotId)
  /-- R49: A long-latency result is written, clearing its pending mark. -/
  | trackedResultWrite (sl : SlotId) (cls : ResClass)
  /-- R314: A write is performed at its home in a scope instance. -/
  | writePerform (id : Nat)
  /-- R119: A page walk completes and its leaf is checked and cached. -/
  | tlbFill (core ctx va : Nat)
  /-- R384: A code line and its tag are fetched and the tag checked. -/
  | instructionCacheFill (core ctx va : Nat)
  /-- R367: A guest instruction is matched and expanded into native operations. -/
  | guestDecode (sl : SlotId)
  /-- R130: A copy command reaches the front of its queue and its descriptor is checked. -/
  | copyCommandStart (core q team : Nat)
  /-- R131: One transfer of a copy command is performed. -/
  | copyTransfer (core q team : Nat)
  /-- R139: A command's transfers are done and its completion add is made. -/
  | copyCompletion (core q team : Nat)
  /-- R198: An entry that rested 2,048 cycles is flushed. -/
  | combiningBufferTimeout (core idx : Nat)
  /-- R197: A line's PP state decreases after 256 quiet home cycles. -/
  | predictorDecay (line : Nat)
  /-- R288: A parked-polling slot's core re-reads its counter. -/
  | parkedPollingReread (sl : SlotId)
  /-- R289: A reached waiter entry is removed and its slot woken. -/
  | waiterWake (seq : Nat)
  /-- R167: A refilled granule arrives; the last one makes the segment resident and adds. -/
  | segmentRefillGranule (ctx name g : Nat)
  /-- R174: A dirty granule is written back; the last ends the eviction. -/
  | segmentWritebackGranule (ctx name g : Nat)
  /-- R103: Writing EN = 1 checks and enables a region window. -/
  | windowEnable (w : Nat) (v : Dword)
  /-- R108: Writing EN = 0 disables and flushes a window. -/
  | windowDisable (w : Nat) (v : Dword)
  /-- R108: Writing FLUSH = 1 starts invalidation of decoded lines. -/
  | windowFlush (w : Nat) (v : Dword)
  /-- R108: A window flush or disable completes and BSY clears. -/
  | windowFlushDone (w : Nat)
  /-- R114: A write of L2CFG requests a chip scratchpad size change. -/
  | carveoutChange (d : Nat) (v : Dword)
  /-- R115: A waiting shrink proceeds once high granules are released. -/
  | carveoutShrinkProceed (d : Nat)
  /-- R115: A size change finishes and CUR takes the new size. -/
  | carveoutChangeDone (d : Nat)
  /-- R113: Reserve or unreserve chip scratchpad granules for alias use. -/
  | chrsvWrite (d : Nat) (v : Dword)
  /-- R123: Writing GO starts a translation shootdown. -/
  | shootdown (v : Dword)
  /-- R306: A host write to a window slot adds to the bound counter. -/
  | counterAddWindowWrite (slot size : Nat) (v : Dword)
  /-- R416: A host read through an HDM decoder. -/
  | hostHdmRead (host dec off : Nat) (own : Bool)
  /-- R416: A host write through an HDM decoder. -/
  | hostHdmWrite (host dec off : Nat) (data : List Byte)
  /-- R416: The host answers a back-invalidate and the waiting access proceeds. -/
  | hostSnoopAnswer (line : Nat)
  /-- R418: The host snoops a host line held by the device. -/
  | hostSnoop (line : Nat)
  /-- R416: A host silent for 100 ms on a back-invalidate is marked lost. -/
  | hostLost (host : Nat)
  /-- R419: A remote read request arrives over a span link. -/
  | peerReadRequest (pkg : Nat) (fctx : Dword) (va size tag : Nat)
  /-- R419: A remote write arrives over a span link, with its request's tag. -/
  | peerWrite (tag : Nat) (fctx : Dword) (va : Nat) (data : List Byte)
  /-- R307: A counter message from a peer is performed at its home. -/
  | peerCounterAdd (pkg : Nat) (fctx : Dword) (va : Nat) (v : Dword) (tag : Option Nat)
  /-- R422: A response or error to a remote access returns to its originator. -/
  | remoteResponse (tag : Nat) (ok : Bool) (data : List Byte)
  /-- R419: A flit failing its CRC is replayed. -/
  | flitReplay (link : Nat)
  /-- R419: A training, route or loss notice message arrives. -/
  | managementMessage (msg : MgmtMessage)
  /-- R423: An IEEE 1588 message disciplines the Equinox counter. -/
  | timingMessage (ofs : Int)
  /-- R438: A peer unreachable for 50 ms is marked lost and FEVC counters advance. -/
  | peerLost (pkg : Nat)
  /-- R442: A link goes down and training starts again. -/
  | linkDown (n : Nat)
  /-- R442: A failed link is retried once each second. -/
  | linkRetry (n lanes : Nat)
  /-- R323: Writing EN = 1 in a QCB checks and enables a queue. -/
  | queueEnable (q : Nat)
  /-- R424: A QVER write switches the QCB copy in force. -/
  | qverUpdate (q : Nat) (v : Dword)
  /-- R323: Writing 1 to bit 63 clears REASON and IDX. -/
  | reasonClear (q : Nat)
  /-- R324: The front end takes the next record once the tail reaches it. -/
  | frontEndTake (q : Nat)
  /-- R331: A pending launch becomes ready after its WADDR and START conditions. -/
  | launchReady (launch : Nat)
  /-- R332: The dispatcher places a gang-stage on a cluster. -/
  | gangStagePlace (launch gang stage : Nat)
  /-- R328: All teams of a launch end and its completion add is made. -/
  | launchComplete (launch : Nat)
  /-- R407: A request to pre-empt named teams begins stopping them. -/
  | preemptionRequest (ask : PreemptAsk)
  /-- R344: PDIST + 4,096 cycles after a request, unstopped slots stop at chain end. -/
  | forcedStop (team : Nat)
  /-- R408: A stopped team's state is written to its save area and its holdings freed. -/
  | teamSave (team : Nat)
  /-- R410: A saved team is checked and restored onto a core. -/
  | teamRestore (team core : Nat)
  /-- R350: After 2,048 parked cycles a core saves teams for a candidate. -/
  | yieldSwap (core : Nat)
  /-- R343: A team whose waves and commands have ended performs its exit release. -/
  | teamExit (team : Nat)
  /-- R399: The fault unit writes a record to a ring once room exists. -/
  | faultRecordWrite (rec : Nat)
  /-- R400: The fault unit performs ACT once the disposition counter reaches the record. -/
  | disposition (ring : Nat)
  /-- R406: An uncorrectable error in wave state stops the owning team. -/
  | mchk (team unit : Nat)
  /-- R423: One forward step of the Equinox counter after reset. -/
  | eqsetWrite (v : Dword)
  /-- R439: Arm a snapshot at Equinox time T. -/
  | snapgo (t : Dword)
  /-- R440: A write of ISL changes an island's clock or halts it. -/
  | islandControl (n : Nat) (v : Dword)
  /-- R440: Measured power over PWRLIM lowers compute island clocks. -/
  | powerLimitThrottle (watts : Nat)
  /-- R429: Writing FULL derives a key slot from the seal root. -/
  | keyDerive (n : Nat)
  /-- R429: Writing CLR empties a key slot. -/
  | keyClear (n : Nat)
  /-- R431: Metered traffic waiting for tokens proceeds as the bucket refills. -/
  | egressRelease (cls : Nat)
  /-- R432: The first write of ALMBASE places the Almanac region. -/
  | almbaseWrite (v : Dword)
  /-- R433: Release signed Almanac blocks for overwriting. -/
  | almack (k : Nat)
  /-- R433: Select an Almanac entry or block signature for reading. -/
  | almanacPortSelect (v : Dword)
  /-- R428: After 10 ms of silence a follower contends for leadership. -/
  | leaderTakeover (die : Nat)
  /-- R427: A lock-step comparison mismatch stops a service pair. -/
  | servicePairMismatch (die : Nat)
  /-- R427: Package reset sets reset values and elects the leader. -/
  | packageReset (selfTest : BitVec 4)
  /-- R435: Produce a signed attestation report for a nonce. -/
  | attestationRequest (nonce : List Byte)
  /-- R430: Plaintext is written encrypted into a sealed window's raw alias. -/
  | sealImport (w off : Nat) (data : List Byte)
  /-- R411: A write to a register with no behaviour of its own. -/
  | registerWrite (who : Agent) (off size : Nat) (v : Dword)
  /-- R54: A slot issues a word whose OP value is unassigned in its class, and the wave is killed with cause 0x01. -/
  | unassignedOpcode (word : Dword)
  /-- R278: The MGEMM sequencer completes a step row or stored row; after the last one it makes the completion add, clears %mxst and lets the slot go on. -/
  | mgemmSequencerStep (sl : SlotId)
  /-- R260: A class 4 operation other than MGEMM finishes reading its operands and is accepted or faults, releasing the held slot. -/
  | matrixAcceptance (sl : SlotId)
  /-- R189: The host answers a home slice's CXL.cache request for a host-memory line, and the waiting device access proceeds. -/
  | cxlCacheResponse (line : Nat) (data : List Byte)
  /-- R309: The device operating system on a service pair performs a load, store, counter operation or private register port access. -/
  | servicePairAccess (die : Nat) (acc : ServiceAccess)
  /-- R124: All removed translations and dependent accesses are gone and BSY clears. -/
  | shootdownDone
  /-- R330: A FEED record's entries are copied to a work ring once room exists. -/
  | feed
  /-- R331: Waves held for START begin to issue. -/
  | startTimeReached
  /-- R389: Writing GO replaces a kernel indirection entry. -/
  | kernelReplace
  /-- R425: The firmware heartbeat write, ending Winter mode. -/
  | fehbWrite
  /-- R425: FEHB unwritten for 4 ms enters Winter mode and restarts firmware. -/
  | frontEndWatchdog
  /-- R439: At time T every block's snapshot registers latch. -/
  | snapshotLatch
  /-- R427: Each millisecond the leader adds to the heartbeat and followers test it. -/
  | leaderHeartbeat
  deriving DecidableEq, Repr

end Sys2Proof
end

