-- ==== Sys2Proof/Machine/State.lean ====
section
/-!
DEFINITION. The state of one Gracel G4 package, as plain data.

The package is many agents; `agenda` says which of them moves next, so that one step is a function of the state.
A store of registers or bytes is a `Cells` list; what it does not list reads as zero.
-/

namespace Sys2Proof.Machine

/-! ### A slot, a wave, a team -/

/-- The kind and width of a latched result (R43). -/
inductive LatchKind
  | scalar
  | vector
  | pred
  deriving DecidableEq, Repr, Inhabited

/-- A valid latch: its kind, whether it is 64 bits wide, and its value by lane; a scalar has key 0 only, a predicate
lane holds 1 or nothing (R43, R44). -/
structure Latch where
  kind : LatchKind
  wide : Bool
  val : Cells 64
  deriving DecidableEq, Repr, Inhabited

/-- A field-stepping REP in progress: instance `j` of `n`, the repeated word and its strides (R45, R46). -/
structure RepRun where
  j : Nat
  n : Nat
  word : Dword
  sd : BitVec 3
  sa : BitVec 3
  sb : BitVec 3
  sc : BitVec 3
  deriving DecidableEq, Repr, Inhabited

/-- The expansion of one guest instruction in progress (R369, R370): its words, the next word, its length in bytes, and
the temporaries e0 to e7 (key 96 * register + lane) and x0 to x7. -/
structure Expansion where
  words : List Dword
  idx : Nat
  len : Nat
  e : Cells 32
  x : Cells 32
  deriving DecidableEq, Repr, Inhabited

/-- The fault classes of R394. -/
inductive FaultClass
  | mem | copy | cntr | matrix | attach | pers | code | dstk | trap | kill | reject | queue | charge | mchk
  deriving DecidableEq, Repr, Inhabited

/-- A fault record (R397), with the slot or copy command it holds. `TIME` is filled when it is raised. -/
structure FRec where
  id : Nat
  cls : FaultClass
  cause : Nat
  sub : Nat
  rst : Bool
  exp : Bool
  slv : Bool
  qv : Bool
  fwd : Bool
  core : Nat
  wave : Nat
  slotB : Bool
  qid : Nat
  repj : Nat
  xop : Nat
  pc : Dword
  addr : Dword
  info : Dword
  info2 : Word
  team : Nat
  stage : Nat
  gang : Nat
  ctx : Nat
  time : Dword
  toOs : Bool
  sl : Option SlotId
  cmd : Option Nat
  /-- bytes by which SKIP goes on past what the slot is held at, where SKIP is accepted (R403) -/
  skipLen : Option Nat
  /-- it stopped a vector memory operation, whose fault mask SKIP clears; it stopped an MGEMM (R403) -/
  vec : Bool := false
  mg : Bool := false
  /-- the cycle it was raised in (R404) -/
  cycle : Nat := 0
  deriving DecidableEq, Repr, Inhabited

/-- A long-latency result bound at issue and not yet written (R48, R49): the registers it marks pending and the values
it will write. Vector and temporary keys are 96 * register + lane. -/
structure Pend where
  cls : ResClass
  /-- raised by an expansion, so that it is dropped with the temporaries (R370) -/
  inExp : Bool
  vMarks : List Nat
  sMarks : List Nat
  kMarks : List Nat
  eMarks : List Nat
  xMarks : List Nat
  vWrites : Cells 32
  vLanes : Lanes
  /-- the lanes in which `vMarks` and `eMarks` are pending (R240, R243); a result of class ld marks whole registers (R49) -/
  mLanes : Lanes := BitVec.allOnes 96
  /-- the order of issue among the results outstanding in the wave, and the writes of its shared scalars (R208) -/
  at_ : Nat := 0
  sWrites : List (Nat × Word)
  kWrite : Option (Nat × Lanes × Lanes)
  eWrites : Cells 32
  xWrites : List (Nat × Word)
  /-- lanes whose data met an uncorrectable error, with the record to raise (R183) -/
  poison : Option FRec
  deriving DecidableEq, Repr, Inhabited

/-- Where a counter lives (R283). -/
inductive CtrPlace
  | phys (pa : Nat)
  | seg (ctx name off : Nat)
  deriving DecidableEq, Repr, Inhabited

/-- The register operands of a class 4 operation, read when it issued (R260). -/
structure MxArgs where
  a : BitVec 128
  b : Word
  c : BitVec 128
  deriving DecidableEq, Repr, Inhabited

/-- What a slot is doing (R337, R346, R407). -/
inductive SlotStatus
  /-- its next operation may issue -/
  | running
  /-- parked by CWAIT (one entry) or CWAIT2; `any` is CWAIT2's mode (R299, R300) -/
  | parkedCtr (any : Bool)
  /-- parked at a JOIN (R342) -/
  | parkedJoin
  /-- a class 4 operation has not been accepted yet (R260) -/
  | accepting (word : Dword) (x : MxArgs)
  /-- held at an MGEMM the sequencer runs (R276) -/
  | mgemm
  /-- held on a fault record (R393) -/
  | held (rec : Nat)
  /-- stopped for pre-emption (R344) -/
  | stopped
  /-- placed before its launch's START (R331) -/
  | startHold
  deriving DecidableEq, Repr, Inhabited

/-- One MGEMM the sequencer is running (R276 to R278): the descriptor's and the epilogue block's bytes, where it is,
and its stream. -/
structure MgRun where
  desc : BitVec 1024
  epi : Option (BitVec 512)
  m : Nat
  n : Nat
  k : Nat
  row : Nat
  store : Bool
  str : Nat
  /-- the tile's accumulator has been cleared -/
  started : Bool
  deriving DecidableEq, Repr, Inhabited

/-- A FENCE or FENCEW passed: its streams, whether it orders across lanes, and the writes before it that are not yet
performed everywhere (R203). -/
structure FenceMark where
  mask : BitVec 16
  across : Bool
  ids : List Nat
  deriving DecidableEq, Repr, Inhabited

/-- One of the two slots of a wave (R22, R205, R206). -/
structure Slot where
  /-- holds lanes, or is parked in EXIT's course; a slot that is not live is free -/
  live : Bool
  pc : Dword
  pers : Nat
  owned : Lanes
  mask : Lanes
  /-- s32 to s59 and s63, by register number -/
  bank : Cells 32
  /-- the previous operation left the chain open, and how many operations it has (R42) -/
  chainOpen : Bool
  chainLen : Nat
  l0 : Option Latch
  l1 : Option Latch
  l2 : Option Latch
  l3 : Option Latch
  /-- outstanding results in issue order (R49) -/
  pend : List Pend
  status : SlotStatus
  rep : Option RepRun
  exp : Option Expansion
  mxst : Dword
  fmask : Lanes
  epib : Dword
  /-- the epilogue block MEPI bound (R268) -/
  epi : Option (BitVec 512)
  mg : Option MgRun
  /-- replay exactly the lanes of `fmask` at the next issue (R185) -/
  replay : Bool
  /-- the slot entered the service range by a placement (R395) -/
  svcOk : Bool
  /-- a poison fault waits for the slot's next issue (R183) -/
  poisonStop : Option FRec
  /-- fences passed, with the writes they order before later accesses (R203) -/
  fences : List FenceMark
  /-- writes of the other slot that a BRDIV or a JOIN has put before this slot's later operations in program order
  (R311) -/
  before : List Nat := []
  /-- cycles left in which YIELD keeps the slot behind the others (R345) -/
  yieldLeft : Nat
  /-- the last issue of the slot had to wait, and the saved team it waited for (R352) -/
  stalled : Bool
  waitTeam : Option Nat
  /-- the slot stops before its next operation outside a chain, a REP and an expansion: a PPT of an expansion asked it
  (R372), or a forced stop (R344) -/
  stopAtBoundary : Bool
  /-- cycles the slot has been parked (R350) -/
  idle : Nat
  deriving DecidableEq, Repr, Inhabited

/-- A divergence stack entry (R341). -/
inductive DivKind
  | unif
  | split
  | defer
  | merge
  deriving DecidableEq, Repr, Inhabited

/-- One entry of a wave's divergence stack: kind, owner (slot B or A), PC and lanes (R341). -/
structure DivEntry where
  kind : DivKind
  ownerB : Bool
  pc : Dword
  lanes : Lanes
  deriving DecidableEq, Repr, Inhabited

/-- Whether a wave still runs (R57, R343). -/
inductive WaveStatus
  | running
  | exited
  | killed
  deriving DecidableEq, Repr, Inhabited

/-- A wave: 96 lanes, the registers both slots share, its two slots and its divergence stack (R205, R341). -/
structure Wave where
  /-- wave place of its core, 0 to 15 -/
  place : Nat
  status : WaveStatus
  /-- v0 to v63: key 96 * register + lane -/
  v : Cells 32
  /-- s0 to s31 -/
  s : Cells 32
  /-- shared scalars written while the other slot has a result outstanding for them, each with the order of that write
  (R208) -/
  sAt : List (Nat × Nat) := []
  /-- k1 to k7; k0 reads all ones (R38) -/
  k : Cells 96
  a : Slot
  b : Slot
  /-- the top entry is the first -/
  stack : List DivEntry
  deriving DecidableEq, Repr, Inhabited

/-- A matrix accumulator (R251): TYPE (true: I), RES, SAT, and the elements, key 32 * row + column. In residue mode an
element holds its residues as C + 256 * B + 65536 * A (R81). -/
structure Acc where
  tyI : Bool
  res : Bool
  sat : Bool
  el : Cells 32
  deriving DecidableEq, Repr, Inhabited

/-- A weight-store slot (R253): the tag, the line bytes (key 128 * line + byte) and the scale area (key 8 * line +
byte). -/
structure WSlot where
  v : Bool
  win : Bool
  sk : Nat
  stf : Nat
  window : Nat
  ks : Nat
  roff : List Nat
  lines : Cells 8
  scale : Cells 8
  deriving DecidableEq, Repr, Inhabited

/-- What QSTAT reads of one queue for one team (R142). -/
structure QStat where
  iss : BitVec 16
  cmp : BitVec 16
  fcause : Nat
  frow : Nat
  deriving DecidableEq, Repr, Inhabited

/-- Whether a team holds a core. -/
inductive TeamStatus
  | placed
  | saved
  deriving DecidableEq, Repr, Inhabited

/-- A team of a gang-stage (R20, R332) with what it holds. -/
structure Team where
  id : Nat
  ctx : Nat
  launch : Nat
  gang : Nat
  stage : Nat
  /-- %team -/
  num : Nat
  gx : Nat
  gy : Nat
  gz : Nat
  cluster : Nat
  /-- package core index 0 to 767 -/
  core : Nat
  status : TeamStatus
  waves : List Wave
  /-- unnamed core scratchpad in bytes, and its contents (R149) -/
  scratchSize : Nat
  scratch : Cells 8
  /-- lane-slice bytes per lane; key (wave * 96 + lane) * laneBytes + offset (R151) -/
  laneBytes : Nat
  lane : Cells 8
  /-- physical chip scratchpad granules of the die, in grant order (R112) -/
  chip : List Nat
  accs : List Acc
  wslots : List WSlot
  /-- names attached, with the handle (R159) -/
  attach : List (Nat × Word)
  /-- its core is a member of the gang's sharing group (R153) -/
  member : Bool
  qstats : List QStat
  /-- a machine check struck it, with this record: it is not saved (R406) -/
  checked : Option Nat
  /-- a pre-emption request stands since this cycle of the core's island (R407) -/
  preempt : Option Nat
  /-- placement pins it holds (R333) -/
  pins : List Nat
  /-- order of placement, and of the save -/
  placedAt : Nat
  savedAt : Nat
  /-- where in the save pool its area lies (R408) -/
  saveOff : Nat
  /-- the commands its area holds, in order (R408) -/
  savedCmds : List Nat := []
  /-- it was saved by another package; the number stands for the records that hold its slots (R410) -/
  adopted : Option Nat := none
  deriving DecidableEq, Repr, Inhabited

/-! ### Work -/

/-- The state of a launch (R331, R328). -/
inductive LaunchStatus
  | pending
  | ready
  deriving DecidableEq, Repr, Inhabited

/-- A taken launch record with every value resolved (R326, R327, R388). -/
structure Launch where
  id : Nat
  ctx : Nat
  queue : Nat
  /-- its record's index in the queue, and its 128 bytes, resolved again when the first gang binds the kernel (R327,
  R328) -/
  idx : Nat
  raw : List Byte
  status : LaunchStatus
  cores : Bool
  prio : Nat
  kidx : Nat
  gx : Nat
  gy : Nat
  gz : Nat
  /-- %gcount: gangs of the grid, raised by GROW (R347) -/
  gcount : Nat
  teams : Nat
  waves : Nat
  stages : Nat
  accs : Nat
  scrg : Nat
  lanes : Nat
  chipg : Nat
  pdist : Nat
  start : Nat
  args : Dword
  waddr : Dword
  wthr : Dword
  caddr : Dword
  csco : Nat
  cval : Nat
  segs : List Nat
  /-- the entry and personality found when the record was taken, and again when the first gang is placed (R328) -/
  entry : Dword
  pers : Nat
  bound : Bool
  /-- gang-stages placed so far, as gang * 16 + stage, and the cluster of stage 0 of each gang -/
  placed : List Nat
  stage0 : List (Nat × Nat)
  /-- the front end has observed WADDR reaching WTHR (R331) -/
  seen : Bool := false
  /-- writes that happened before a team of the launch ended: the completion release covers them (R317, R328) -/
  covers : List Nat := []
  deriving DecidableEq, Repr, Inhabited

/-- One copy of a queue control block (R323, R424). -/
structure QcbCopy where
  ctx : Nat
  logn : Nat
  dev : Bool
  en : Bool
  /-- a reserved bit was written 1: of word 0x00, and of words 0x28, 0x30 and 0x38 -/
  rsvd : Bool
  rsvd5 : Bool := false
  rsvd6 : Bool := false
  rsvd7 : Bool := false
  ring : Dword
  tail : Dword
  head : Dword
  deriving DecidableEq, Repr, Inhabited

/-- A launch queue (R323, R424): two QCB copies, the version word, and the fields that follow the switch. -/
structure Queue where
  c0 : QcbCopy
  c1 : QcbCopy
  seq : BitVec 63
  sel : Bool
  sts : Nat
  next : Dword
  reason : BitVec 8
  idx : Word
  deriving DecidableEq, Repr, Inhabited

/-- A FEED the front end performs (R329, R330); `t` is the work ring's tail when it first found no room. -/
structure FeedRun where
  queue : Nat
  ctx : Nat
  wsco : Nat
  count : Nat
  logw : Nat
  rsz : Nat
  src : Dword
  wring : Dword
  wtail : Dword
  whead : Dword
  t : Option Dword
  deriving DecidableEq, Repr, Inhabited

/-- A location outside the lane slices: a byte of physical memory, of a team's unnamed core scratchpad, or of a named
segment (R310). -/
inductive Loc
  | phys (a : Nat)
  | scratch (team off : Nat)
  | seg (ctx name off : Nat)
  deriving DecidableEq, Repr, Inhabited

/-- An agent with the scope instances it lies in (R7, R314). -/
structure Seat where
  who : Agent
  team : Nat
  wave : Nat
  launch : Nat
  gang : Nat
  stage : Nat
  die : Nat
  /-- a segment engine's: the gang-stages (launch, gang, stage) attached to the segment it works on (R314) -/
  gangs : List (Nat × Nat × Nat) := []
  deriving DecidableEq, Repr, Inhabited

/-- A cached translation (R119 to R121). `page` is the virtual page base; `level2` marks the cluster's TLB. -/
structure TlbEntry where
  level2 : Bool
  unit : Nat
  ctx : Nat
  page : Nat
  size : Nat
  pa : Nat
  pte : Dword
  /-- where the leaf lies -/
  leaf : Nat
  rd : Bool
  wr : Bool
  ex : Bool
  ct : Bool
  ckp : Bool
  dirty : Bool
  mt : Nat
  deriving DecidableEq, Repr, Inhabited

/-- A non-leaf entry in a die's walk cache: the level it stands at, the address bits it answers for (`va / 2^(12 + 9 * level)`)
and the table it names (R121). -/
structure WalkEntry where
  die : Nat
  ctx : Nat
  level : Nat
  tag : Nat
  table : Nat
  deriving DecidableEq, Repr, Inhabited

/-- A translation a copy command holds while it moves data within the page: of its destination or its source, and
whether a shootdown has removed it (R124). -/
structure HeldTr where
  dst : Bool
  e : TlbEntry
  stale : Bool
  deriving DecidableEq, Repr, Inhabited

/-- The state of a copy command (R142, R144): `row` and `off` are the row and destination byte of the next transfer. -/
inductive CmdStatus
  /-- waiting for the front of its queue -/
  | queued
  /-- its descriptor passed -/
  | active (row off : Nat)
  /-- held on a restartable fault at a transfer -/
  | held (row off : Nat)
  /-- halted, at a transfer or at its completion add -/
  | halted
  deriving DecidableEq, Repr, Inhabited

/-- A command, or a QFENCE marker, in the copy queues of a core (R125 to R129, R141). -/
structure CopyCmd where
  id : Nat
  core : Nat
  team : Nat
  ctx : Nat
  sl : SlotId
  /-- 0 COPY, 1 COPYH, 2 COPYG, 3 COPYW, 8 QFENCE marker -/
  op : Nat
  qid : Nat
  m : BitVec 16
  /-- the twelve descriptor words -/
  words : List Word
  /-- COPYG: the index read for the row under way -/
  rowIdx : Nat
  /-- COPYW: the window and raw offset of each line so far of the slot under way (R136) -/
  load : List (Option Nat × Nat) := []
  /-- QFENCE: the queues named -/
  fenceMask : BitVec 8
  status : CmdStatus
  trs : List HeldTr
  /-- commands that must have ended first (R141) -/
  after : List Nat
  deriving DecidableEq, Repr, Inhabited

/-! ### Segments, counters, memory -/

/-- A named segment's state (R154). -/
inductive SegState
  | resident
  | evicting
  | refilling
  | evicted
  deriving DecidableEq, Repr, Inhabited

/-- A counter add to be made when a segment event ends (R167, R171, R457). -/
structure SegAdd where
  clus : Bool
  addr : Dword
  scope : Nat
  team : Nat
  /-- the add to a fabric event counter (R438), whose failure no rule reports -/
  event : Bool := false
  deriving DecidableEq, Repr, Inhabited

/-- An entry of a context's segment directory with the descriptor's contents (R154 to R160). -/
structure Segment where
  ctx : Nat
  name : Nat
  level1 : Bool
  persist : Bool
  cnt : Bool
  size : Nat
  backing : Dword
  state : SegState
  stuck : Bool
  launch : Nat
  cluster : Nat
  desc : Nat
  gen : BitVec 16
  /-- core indices within the package of the stripe cores c0, c1, ... (R158) -/
  stripe : List Nat
  data : Cells 8
  dirty : List Nat
  /-- granules still to arrive in a refill -/
  missing : List Nat
  /-- poisoned granules with the bytes written since (R167) -/
  poison : List (Nat × List Nat)
  /-- placement pins (R333) -/
  pins : Nat
  /-- when the pin count last reached 0 (R173) -/
  freeAt : Nat
  adds : List SegAdd
  deriving DecidableEq, Repr, Inhabited

/-- A waiter entry (R288). -/
structure Waiter where
  seq : Nat
  sl : SlotId
  ctx : Nat
  ctr : CtrPlace
  thr : Dword
  scope : Nat
  polling : Bool
  /-- it has left its home, and its wake is to come: an add has reached its threshold, or it was `bad` (R289, R290) -/
  hit : Bool
  /-- its stored state holds an uncorrectable error (R290, R405) -/
  bad : Bool := false
  deriving DecidableEq, Repr, Inhabited

/-- A write that is not yet performed in every scope instance (R314): performed up to scope `level`, after the writes
`deps`. `lane` is none for an access that counts as one of every lane (R311). -/
structure PWrite where
  id : Nat
  seat : Seat
  stream : Option (BitVec 4)
  lane : Option Nat
  bytes : List (Loc × Byte)
  level : Nat
  deps : List Nat
  deriving DecidableEq, Repr, Inhabited

/-- The predictor state of a line (R197). -/
structure PredLine where
  line : Nat
  pp : Nat
  grantee : Option Nat
  since : Nat
  deriving DecidableEq, Repr, Inhabited

/-- A combining-buffer entry (R198). -/
structure CombEntry where
  core : Nat
  team : Nat
  sl : SlotId
  ctx : Nat
  pa : Nat
  fn : Nat
  w64 : Bool
  str : BitVec 4
  pl : Nat
  operand : Dword
  /-- cycle of the core's island when the entry was last touched -/
  born : Nat
  deriving DecidableEq, Repr, Inhabited

/-- A line the core's instruction cache holds (R384), key core, context and virtual line address. -/
structure ILine where
  core : Nat
  ctx : Nat
  va : Nat
  bits : BitVec 1024
  deriving DecidableEq, Repr, Inhabited

/-- A decoder slot of a cluster (R364): the image it holds, and where the load failed the fault's class, cause, subcause,
whether it can be restarted, and the number of the image line it met. -/
structure DecSlot where
  cluster : Nat
  ctx : Nat
  pers : Nat
  gen : Nat
  /-- header, planes and patterns, 0x3080 bytes from IMG -/
  image : Cells 8
  bad : Option (FaultClass × Nat × Nat × Bool × Nat)
  used : Nat
  deriving DecidableEq, Repr, Inhabited

/-- An entry set of a cluster's decoded-operation cache (R380): a guest instruction's substituted operations and length. -/
structure DecOps where
  cluster : Nat
  ctx : Nat
  pers : Nat
  gen : Nat
  va : Nat
  words : List Dword
  len : Nat
  deriving DecidableEq, Repr, Inhabited

/-- A decoded line the L2s hold (R107, R108): the window, the line's number in its decoded alias, and the scale bytes it
was filled with, by physical address. -/
structure DecLine where
  w : Nat
  line : Nat
  scale : List (Nat × Byte)
  deriving DecidableEq, Repr, Inhabited

/-- A region window (R99, R100). -/
structure Window where
  en : Bool
  bsy : Bool
  sts : Nat
  rowl : Nat
  ks : Nat
  ec : Nat
  dt : Nat
  stf : Nat
  raw : Dword
  size : Dword
  scl : Dword
  deriving DecidableEq, Repr, Inhabited

/-- L2CFG of a die and the course of a change (R114, R115). -/
structure L2Cfg where
  cur : Nat
  sts : Nat
  csz : Nat
  deriving DecidableEq, Repr, Inhabited

/-- The shootdown registers (R123). -/
structure Shoot where
  ctx : Dword
  va : Dword
  len : Dword
  kind : Nat
  sts : Nat
  bsy : Bool
  /-- kind and context of the one under way, or the last -/
  run : Nat × Nat := (0, 0)
  deriving DecidableEq, Repr, Inhabited

/-! ### System -/

/-- The kills of a context in the cycle of its last kill (R58): %err before them, and of each its place, the number of its
record and the word it writes alone, those of lower places first. -/
structure ErrCycle where
  cycle : Nat
  base : BitVec 128
  kills : List (Nat × Nat × BitVec 128)
  deriving DecidableEq, Repr, Inhabited

/-- A context descriptor with its code block and fault block (R412, R355, R396). -/
structure Context where
  num : Nat
  /-- which descriptor it is: `num` is its CTXN (R412) -/
  desc : Nat := num
  ptroot : Nat
  fen : Bool
  fctx : Dword
  fevc : Dword
  spool : Dword
  splen : Nat
  ckey : BitVec 256
  tbase : Nat
  kitb : Nat
  kitn : Nat
  /-- PERS1 to PERS15 as decodes use them: IMG, V, GEN -/
  pers : List (Nat × Bool × Nat)
  /-- the entries as written since, in use from the end of the next shootdown of the context on (R356) -/
  persNext : Option (List (Nat × Bool × Nat)) := none
  /-- those of them that were written before the shootdown under way began, in use from its end on (R356) -/
  persDue : Option (List (Nat × Bool × Nat)) := none
  fring : Dword
  ftail : Dword
  fdisp : Dword
  svlo : Dword
  svhi : Dword
  route : Bool
  logf : Nat
  fovf : Nat
  /-- records of the context go to the device operating system's ring (R455) -/
  diverted : Bool
  /-- next record to write and to dispose of -/
  fnext : Nat
  fdone : Nat
  err : BitVec 128
  /-- the kills that %err may still put in order (R58) -/
  errNow : ErrCycle := { cycle := 0, base := 0, kills := [] }
  ended : Bool
  deriving DecidableEq, Repr, Inhabited

/-- A record written to a ring and not yet disposed of (R399): ring 0 is the device operating system's, otherwise the
context's number. -/
structure Written where
  ring : Nat
  index : Nat
  record : FRec
  deriving DecidableEq, Repr, Inhabited

/-- The state a host cache holds a device line in (R416). -/
inductive HostState
  | i | s | e | m
  deriving DecidableEq, Repr, Inhabited

/-- A device line a host cache may hold (R416), with the bytes it has dirtied. -/
structure HostLine where
  line : Nat
  host : Nat
  st : HostState
  dirty : List (Nat × Byte)
  used : Nat
  deriving DecidableEq, Repr, Inhabited

/-- A back-invalidate sent and not answered (R416). -/
structure SnoopReq where
  line : Nat
  inv : Bool
  since : Nat
  deriving DecidableEq, Repr, Inhabited

/-- A remote access sent to another package (R419, R422): `part` tells the lanes or transfers of one operation apart,
`ans` is the answer once it has come: data, or the cause and subcause of the failed check. -/
structure RemoteReq where
  tag : Nat
  who : Agent
  part : Nat
  pkg : Nat
  va : Nat
  size : Nat
  /-- 0 read, 1 write, 2 counter add, 3 counter add returning the old value -/
  kind : Nat
  data : List Byte
  ans : Option (Bool × List Byte)
  deriving DecidableEq, Repr, Inhabited

/-- A counter-add window binding (R305). -/
structure Binding where
  slot : Nat
  v : Bool
  err : Bool
  ctx : Nat
  addr : Dword
  deriving DecidableEq, Repr, Inhabited

/-- A voltage and frequency island (R440), with its clock's count since reset (R210). -/
structure Island where
  fmhz : Nat
  cur : Nat
  thr : Bool
  off : Bool
  clock : Nat
  /-- thousandths of a cycle begun -/
  part : Nat := 0
  deriving DecidableEq, Repr, Inhabited

/-- A link's status (R442). -/
structure Link where
  replay : Nat
  wid : Nat
  st : Nat
  /-- trained below its full rate (R414) -/
  slow : Bool := false
  /-- Equinox time of the last change of ST -/
  since : Nat
  /-- Equinox time since which it carries no messages (R438) -/
  down : Nat := 0
  deriving DecidableEq, Repr, Inhabited

/-- An egress class (R431); `bucket` is the tokens, in thousandths of a byte. -/
structure Egress where
  rate : Nat
  burst : Nat
  total : Nat
  held : Nat
  bucket : Nat
  deriving DecidableEq, Repr, Inhabited

/-- Metered traffic waiting for tokens (R431): a copy's transfer, a host read through a decoder, or a peer's read. -/
inductive Waiting
  | copy (who : Agent)
  | hostRead (host dec off : Nat) (own : Bool)
  | peerRead (pkg : Nat) (fctx : Dword) (va size tag : Nat)
  | debugRead (pa size : Nat)
  deriving DecidableEq, Repr, Inhabited

/-- One such wait: its class and bytes. -/
structure MeterWait where
  cls : Nat
  bytes : Nat
  what : Waiting
  deriving DecidableEq, Repr, Inhabited

/-- A key slot (R429): FULL, SALT and the derived key pair. -/
structure KeySlot where
  full : Bool
  salt : BitVec 256
  key : BitVec 512
  deriving DecidableEq, Repr, Inhabited

/-- The Almanac's registers (R432, R433). -/
structure Almanac where
  base : Option Nat
  seq : Nat
  released : Nat
  port : Dword
  signs : Nat
  /-- SHA-512 of the latest entry -/
  prev : BitVec 512
  deriving DecidableEq, Repr, Inhabited

/-- A service pair (R427, R428). -/
structure Pair where
  live : Bool
  /-- its register port is not revoked -/
  port : Bool
  /-- the heartbeat and the leader epoch as it last read them -/
  seen : Nat
  epoch : Nat
  quiet : Nat
  deriving DecidableEq, Repr, Inhabited

/-- The front end's firmware and the replace command (R425, R426, R389). -/
structure FrontEnd where
  rboot : Nat
  /-- FEHB as last written -/
  fehb : Dword := 0
  /-- the firmware is back, and takes over when the FEED that Winter has taken has ended (R426) -/
  back : Bool := false
  win : Bool
  fwup : Bool
  fehbAge : Nat
  turn : Nat
  krctx : Nat
  kridx : Nat
  krnew : BitVec 128
  krbsy : Bool
  krsts : Bool
  /-- launches bound to the entry the last replace replaced (DRN); none before the first replace -/
  krold : Option (List Nat)
  /-- launches bound to entries replaced earlier (R389) -/
  krpast : List Nat := []
  deriving DecidableEq, Repr, Inhabited

/-- The Equinox time base (R423); `half` is the half nanosecond that a hold has left over. -/
structure Equinox where
  now : Dword
  half : Bool
  /-- the correction still to be made by slewing, and the part of a nanosecond begun, in millionths of a nanosecond -/
  fix : Int := 0
  part : Nat := 0
  ofs : Int
  gm : Bool
  hold : Bool
  lock : Bool
  lockRun : Nat
  setUsed : Bool
  deriving DecidableEq, Repr, Inhabited

/-- Who moves next: a slot issues, an event of the package happens, or nanoseconds pass. -/
inductive Turn
  | issue (sl : SlotId)
  | event (i : Instr)
  | pass (ns : Nat)
  deriving DecidableEq, Repr

/-- The state of one package. -/
structure State where
  /-- the model's own: which agent moves next, and then who -/
  agenda : List Turn
  /-- the model's own: the slot whose operation a step runs -/
  cur : SlotId
  islands : List Island
  pwrlim : Nat
  eqx : Equinox
  /-- physical memory: near and far tier, chip scratchpads at their aliases, host memory (R95) -/
  mem : Cells 8
  /-- writes not yet performed everywhere, oldest first (R314) -/
  writes : List PWrite
  nextWrite : Nat
  /-- 128-byte physical lines that hold an uncorrectable error -/
  poison : List Nat
  tlb : List TlbEntry
  /-- the dies' walk caches (R121) -/
  walkCache : List WalkEntry
  pred : List PredLine
  /-- lines granted to a core's near-line store, most recent first (R196) -/
  near : List (Nat × Nat)
  comb : List CombEntry
  /-- reductions flushed to host lines the L2s do not hold, performed when the line comes (R189, R198) -/
  lateReds : List CombEntry
  l2cfg : List L2Cfg
  chrsv : List Dword
  /-- bits written 1 while a team held the granule (R113) -/
  chrsvWant : List Dword
  windows : List Window
  /-- decoded lines the L2s may hold (R108) -/
  decoded : List DecLine
  shoot : Shoot
  icache : List ILine
  decs : List DecSlot
  /-- decoded-operation caches, most recently used first (R380) -/
  decOps : List DecOps
  /-- lines a prefetch has asked for that have still to come or to be given up by a host cache: core, context, address,
  and whether it is IPREF's (R200, R201) -/
  prefs : List (Nat × Nat × Nat × Bool)
  ctxs : List Context
  teams : List Team
  nextTeam : Nat
  /-- saved teams that a plain .clus access waits for (R352) -/
  awaited : List Nat
  launches : List Launch
  nextLaunch : Nat
  queues : List Queue
  fe : FrontEnd
  /-- FEED records taken, in order; the front end performs the first (R330) -/
  feeds : List FeedRun
  cmds : List CopyCmd
  /-- the queue each core's copy unit served last (R125) -/
  served : List (Nat × Nat)
  nextCmd : Nat
  segs : List Segment
  /-- adds of segment events, with their context, whose counter cannot be reached yet (R304, R457) -/
  owedAdds : List (Nat × SegAdd)
  /-- generation of each descriptor assigned so far, key 256 * cluster + descriptor (R155) -/
  gens : Cells 16
  waiters : List Waiter
  nextSeq : Nat
  /-- condition counts NV DZ OF UF NX, key (core * 2^32 + context) * 8 + index (R231) -/
  conds : Cells 32
  /-- records the fault unit has still to write, oldest first (R399) -/
  recs : List FRec
  nextRec : Nat
  /-- how often time has passed: what happens between two such turns is of one cycle (R404) -/
  cycle : Nat
  written : List Written
  /-- the device operating system's ring: FRING, FTAIL, FDISP, LOGF, FOVF, next, done (R396) -/
  osRing : Dword
  osTail : Dword
  osDisp : Dword
  osLogf : Nat
  osFovf : Nat
  osNext : Nat
  osDone : Nat
  hostLines : List HostLine
  snoops : List SnoopReq
  hostsLost : List Nat
  /-- host lines the L2s hold, and lines asked for through CXL.cache (R418) -/
  hostMem : List Nat
  cxlReqs : List Nat
  bindings : List Binding
  routes : List (Nat × Nat)
  /-- packages that have lost their route, with the Equinox time of the loss (R438, R442) -/
  unrouted : List (Nat × Nat)
  /-- packages marked lost, whose counter messages have stopped (R438) -/
  peersLost : List Nat
  remote : List RemoteReq
  nextTag : Nat
  links : List Link
  egress : List Egress
  /-- metered traffic waiting for tokens, oldest first -/
  metered : List MeterWait
  keys : List KeySlot
  alm : Almanac
  /-- actions waiting for room in the Almanac, oldest first: event code, context, data (R433) -/
  almWait : List (Nat × Nat × List Byte)
  pairs : List Pair
  leader : Nat
  /-- physical address of the service page: the heartbeat counter at its start, the leader epoch counter 8 bytes on
  (R427, R428) -/
  svcPage : Nat
  snapgo : Option Dword
  /-- registers of the performance region, latched, key offset / 8 (R439) -/
  snap : Cells 64
  /-- data an outside reader got last: host reads, peer reads, reports -/
  reply : List Byte
  /-- those data carry the poison mark (R104) -/
  replyBad : Bool
  tick : Nat
  deriving DecidableEq, Repr

/-- Reasons the model stops; the hardware has none of these. -/
inductive Fault
  /-- Raised by an operation, and by `step` for a slot's turn, when the slot in turn may not issue: no wave of the state has
  it, or it is free, parked, held or stopped, or its wave has ended or its team is saved. The machine issues nothing from such
  a slot (R337), so there is no operation to give a meaning. Safe: no claim can be proved past it. -/
  | noIssuingSlot
  deriving DecidableEq, Repr

/-- Reasons the model gives no meaning. -/
inductive Refusal
  /-- An instruction whose meaning the model does not give, by its mnemonic. Safe. -/
  | notModelled (mnemonic : String)
  /-- The agenda lists an operation as if it were an event of the package; only a slot issues operations. Raised by
  `step`. Safe. -/
  | notAnEvent
  deriving DecidableEq, Repr

/-! ### Reset -/

/-- A free slot: nothing owned, every register zero (R205, R206, R336). -/
def Slot.free : Slot :=
  { live := false, pc := 0, pers := 0, owned := 0, mask := 0, bank := [], chainOpen := false, chainLen := 0
    l0 := none, l1 := none, l2 := none, l3 := none, pend := [], status := .running, rep := none, exp := none
    mxst := 0, fmask := 0, epib := 0, epi := none, mg := none, replay := false, svcOk := false, poisonStop := none
    fences := [], yieldLeft := 0, stalled := false, waitTeam := none, stopAtBoundary := false, idle := 0 }

/-- The zero QCB (R323). -/
def QcbCopy.zero : QcbCopy :=
  { ctx := 0, logn := 0, dev := false, en := false, rsvd := false, ring := 0, tail := 0, head := 0 }

/-- A queue at reset: every field 0 (R323, R424). -/
def Queue.zero : Queue :=
  { c0 := .zero, c1 := .zero, seq := 0, sel := false, sts := 0, next := 0, reason := 0, idx := 0 }

/-- A window at reset: every field 0 (R100). -/
def Window.zero : Window :=
  { en := false, bsy := false, sts := 0, rowl := 0, ks := 0, ec := 0, dt := 0, stf := 0, raw := 0, size := 0, scl := 0 }

/-- The state of the package right after reset: no context, no work, every register at its reset value. -/
def State.reset : State :=
  { agenda := [], cur := ⟨0, 0, false⟩
    islands := List.replicate 24 { fmhz := 850, cur := 850, thr := false, off := false, clock := 0 }
    pwrlim := 1650
    eqx := { now := 0, half := false, ofs := 0, gm := false, hold := false, lock := false, lockRun := 0, setUsed := false }
    mem := [], writes := [], nextWrite := 0, poison := [], tlb := [], walkCache := [], pred := [], near := [], comb := [], lateReds := []
    l2cfg := List.replicate 4 { cur := 4, sts := 0, csz := 4 }
    chrsv := List.replicate 4 0, chrsvWant := List.replicate 4 0
    windows := List.replicate 64 .zero, decoded := []
    shoot := { ctx := 0, va := 0, len := 0, kind := 0, sts := 0, bsy := false }
    icache := [], decs := [], decOps := [], prefs := [], ctxs := [], teams := [], nextTeam := 0, awaited := [], launches := [], nextLaunch := 0
    queues := List.replicate 64 .zero
    fe := { rboot := 0, win := false, fwup := false, fehbAge := 0, turn := 0, krctx := 0, kridx := 0, krnew := 0
            krbsy := false, krsts := false, krold := none }
    feeds := [], cmds := [], served := [], nextCmd := 0, segs := [], owedAdds := [], gens := [], waiters := [], nextSeq := 0, conds := []
    recs := [], nextRec := 0, cycle := 0, written := []
    osRing := 0, osTail := 0, osDisp := 0, osLogf := 0, osFovf := 0, osNext := 0, osDone := 0
    hostLines := [], snoops := [], hostsLost := [], hostMem := [], cxlReqs := [], bindings := []
    routes := [], unrouted := [], peersLost := [], remote := [], nextTag := 0
    links := List.replicate 18 { replay := 0, wid := 0, st := 0, since := 0 }
    egress := List.replicate 8 { rate := 0, burst := 0, total := 0, held := 0, bucket := 0 }
    metered := []
    keys := List.replicate 64 { full := false, salt := 0, key := 0 }
    alm := { base := none, seq := 0, released := 0, port := 0, signs := 0, prev := 0 }
    almWait := []
    pairs := List.replicate 4 { live := true, port := true, seen := 0, epoch := 0, quiet := 0 }
    leader := 0, svcPage := 0, snapgo := none, snap := [], reply := [], replyBad := false, tick := 0 }

end Sys2Proof.Machine
end

