-- ==== Sys2Proof/Machine/Ops.lean ====
section
/-!
DEFINITION. The named operations over the state: finding the issuing slot, reading and writing registers, retiring an
operation, killing a wave, taking a fault and returning from one.
-/

namespace Sys2Proof.Machine

/-! ### Finding and changing teams, waves, slots -/

/-- The team with an identity. -/
def State.team? (s : State) (id : Nat) : Option Team := s.teams.find? fun t => t.id = id

/-- The context with a number; 0 is never a context (R412). -/
def State.ctx? (s : State) (n : Nat) : Option Context := s.ctxs.find? fun c => decide (c.num = n) && decide (n ≠ 0)

/-- A context there is: it has a number and has not ended (R402, R412). -/
def Context.inUse (c : Context) : Bool := !c.ended && decide (c.num ≠ 0)

/-- Slot A or slot B of a wave (R22). -/
def Wave.slot (w : Wave) (b : Bool) : Slot := if b then w.b else w.a

/-- Put a slot into a wave. -/
def Wave.setSlot (w : Wave) (b : Bool) (p : Slot) : Wave := if b then { w with b := p } else { w with a := p }

/-- Change the team with an identity. -/
def State.modTeam (s : State) (id : Nat) (f : Team → Team) : State :=
  { s with teams := s.teams.map fun t => if t.id = id then f t else t }

/-- Put a wave into a team. -/
def Team.setWave (t : Team) (i : Nat) (w : Wave) : Team := { t with waves := t.waves.set i w }

/-- Put a wave into the state. -/
def State.setWave (s : State) (sl : SlotId) (w : Wave) : State := s.modTeam sl.team fun t => t.setWave sl.wave w

/-- Change every context with a number. -/
def State.modCtx (s : State) (n : Nat) (f : Context → Context) : State :=
  { s with ctxs := s.ctxs.map fun c => if c.num = n then f c else c }

/-- A slot with what holds it: the team, the wave, and the two slots of the wave. -/
structure View where
  sl : SlotId
  t : Team
  w : Wave
  p : Slot
  deriving DecidableEq, Repr

/-- A slot that exists: its team and wave. -/
def State.find (s : State) (sl : SlotId) : Option View :=
  match s.team? sl.team with
  | none => none
  | some t =>
    match t.waves[sl.wave]? with
    | none => none
    | some w => some { sl := sl, t := t, w := w, p := w.slot sl.b }

/-- May the slot issue: its team is on a core, its wave runs, it is live and neither parked, held nor stopped (R337). -/
def View.issues (v : View) : Bool :=
  decide (v.t.status = .placed) && decide (v.w.status = .running) && v.p.live && decide (v.p.status = .running)

/-- The slot does not wait any more. -/
def View.unstall (v : View) : View :=
  let p := { v.p with stalled := false, waitTeam := none }
  { v with p := p, w := v.w.setSlot v.sl.b p }

/-- The slot an operation issues from: the one the state names, if it may issue; it is not waiting any more. -/
def State.view (s : State) : Option View :=
  match s.find s.cur with
  | none => none
  | some v => if v.issues then some v.unstall else none

/-- Put back a changed slot of the view. -/
def State.putSlot (s : State) (v : View) (p : Slot) : State := s.setWave v.sl (v.w.setSlot v.sl.b p)

/-- Put back a changed wave of the view. -/
def State.putWave (s : State) (v : View) (w : Wave) : State := s.setWave v.sl w

/-! ### Registers (R205, R207) -/

/-- Lanes 32i to 32i + 31 of a mask. -/
def maskWord (m : Lanes) (i : Nat) : Word := m.extractLsb' (32 * i) 32

/-- Replace lanes 32i to 32i + 31 of a mask. -/
def setMaskWord (m : Lanes) (i : Nat) (x : Word) : Lanes :=
  (m &&& ~~~((BitVec.allOnes 32).zeroExtend 96 <<< (32 * i))) ||| (x.zeroExtend 96 <<< (32 * i))

/-- Scalar register `n` as slot `p` of wave `w` reads it: shared, the mask, or banked (R205, R207). -/
def readSReg (w : Wave) (p : Slot) (n : Nat) : Word :=
  if n < 32 then cellGet w.s n
  else if 60 ≤ n ∧ n ≤ 62 then maskWord p.mask (n - 60)
  else cellGet p.bank n

/-- The order the next write of a shared scalar, or the next tracked result of the wave, takes: after all that are
outstanding (R208). -/
def Wave.nextAt (w : Wave) : Nat :=
  (w.sAt.map Prod.snd ++ (w.a.pend ++ w.b.pend).map Pend.at_).foldl max 0 + 1

/-- The order of the last write of a shared scalar that can meet an outstanding one. -/
def Wave.lastAt (w : Wave) (n : Nat) : Nat := ((w.sAt.find? fun p => p.1 = n).map Prod.snd).getD 0

/-- Note the order of a write of shared scalar `n` by slot `b`, if the other slot has a result outstanding for it: that
result, issued earlier, must not undo it (R208). -/
def Wave.noteWrite (w : Wave) (b : Bool) (n at_ : Nat) : Wave :=
  { w with
    sAt := if (w.slot (!b)).pend.any fun q => q.sMarks.contains n then (n, at_) :: w.sAt.filter fun p => p.1 ≠ n else w.sAt }

/-- Write scalar register `n` from slot B (`b`) or A; a mask word keeps only owned lanes (R207). -/
def writeSReg (w : Wave) (b : Bool) (n : Nat) (x : Word) : Wave :=
  if n < 32 then { w.noteWrite b n w.nextAt with s := cellSet w.s n x }
  else
    let p := w.slot b
    if 60 ≤ n ∧ n ≤ 62 then w.setSlot b { p with mask := setMaskWord p.mask (n - 60) (x &&& maskWord p.owned (n - 60)) }
    else w.setSlot b { p with bank := cellSet p.bank n x }

/-- Lane `l` of vector register `r` of a store of vectors. -/
def laneGet (m : Cells 32) (r l : Nat) : Word := cellGet m (96 * r + l)

/-- Write register `r` in the lanes `act`. -/
def lanesSet (m : Cells 32) (r : Nat) (act : Lanes) (f : Nat → Word) : Cells 32 :=
  (List.range 96).foldl (fun m l => if act.getLsbD l then cellSet m (96 * r + l) (f l) else m) m

/-- Predicate `n`; k0 reads all ones (R38). -/
def readKReg (w : Wave) (n : Nat) : Lanes := if n = 0 then BitVec.allOnes 96 else cellGet w.k n

/-- Write predicate `n` in the lanes `act`; a write of k0 is discarded (R38). -/
def writeKReg (w : Wave) (n : Nat) (act x : Lanes) : Wave :=
  if n = 0 then w else { w with k := cellSet w.k n ((cellGet w.k n &&& ~~~act) ||| (x &&& act)) }

/-- A register by kind and number; e and x are the temporaries of an expansion (R370). -/
inductive Reg
  | v (n : Nat) | s (n : Nat) | k (n : Nat) | e (n : Nat) | x (n : Nat)
  deriving DecidableEq, Repr, Inhabited

/-! ### Pending results (R48 to R51) -/

/-- Does an outstanding result mark this register? k0 is never marked, since nothing is written to it. -/
def Pend.marks (q : Pend) : Reg → Bool
  | .v n => q.vMarks.contains n
  | .s n => q.sMarks.contains n
  | .k n => q.kMarks.contains n
  | .e n => q.eMarks.contains n
  | .x n => q.xMarks.contains n

/-- Is the register pending in the slot? -/
def Slot.pending (p : Slot) (r : Reg) : Bool := p.pend.any fun q => q.marks r

/-- Is it pending from a class other than `c` (R50)? -/
def Slot.pendingOther (p : Slot) (c : Option ResClass) (r : Reg) : Bool :=
  p.pend.any fun q => q.marks r && decide (some q.cls ≠ c)

/-- Outstanding results of a class (R49). -/
def Slot.count (p : Slot) (c : ResClass) : Nat := (p.pend.filter fun q => q.cls = c).length

/-- A result that writes nothing. -/
def Pend.empty (c : ResClass) : Pend :=
  { cls := c, inExp := false, vMarks := [], sMarks := [], kMarks := [], eMarks := [], xMarks := [], vWrites := []
    vLanes := 0, sWrites := [], kWrite := none, eWrites := [], xWrites := [], poison := none }

/-- Drop what a result would have written to the temporaries of an expansion that has ended (R370). -/
def Pend.dropTemps (q : Pend) : Pend := { q with eMarks := [], xMarks := [], eWrites := [], xWrites := [] }

/-- The view with only the marks that an access to the lanes `act` of a vector register meets: those of class ld are on whole
registers (R49, R50, R240, R243). -/
def View.within (v : View) (act : Lanes) : View :=
  { v with p := { v.p with pend := v.p.pend.map fun q =>
      if q.cls ≠ .ld ∧ q.mLanes &&& act = 0 then { q with vMarks := [], eMarks := [] } else q } }

/-- Add a result to the slot's outstanding ones. -/
def Slot.addPend (p : Slot) (q : Pend) : Slot := { p with pend := p.pend ++ [q] }

/-- A result with its place in the wave's order of issue (R208). -/
def View.ordered (v : View) (q : Pend) : Pend := { q with at_ := v.w.nextAt }

/-- Write scalar `n` of a result of order `at_`: a shared scalar only where no later write has been made (R208). -/
def landSReg (b : Bool) (at_ : Nat) (w : Wave) (n : Nat) (x : Word) : Wave :=
  if n < 32 then (if w.lastAt n < at_ then { w.noteWrite b n at_ with s := cellSet w.s n x } else w)
  else writeSReg w b n x

/-- Write a result into its wave, for slot B or A. -/
def Wave.land (w : Wave) (b : Bool) (q : Pend) : Wave :=
  let w1 : Wave := { w with v := q.vMarks.foldl (fun m r => lanesSet m r q.vLanes fun l => cellGet q.vWrites (96 * r + l)) w.v }
  let w2 := q.sWrites.foldl (fun w x => landSReg b q.at_ w x.1 x.2) w1
  let w3 := match q.kWrite with
    | none => w2
    | some (n, act, x) => writeKReg w2 n act x
  let p := w3.slot b
  match p.exp with
  | none => w3
  | some x =>
    w3.setSlot b { p with exp := some { x with
      e := q.eMarks.foldl (fun m r => lanesSet m r q.vLanes fun l => cellGet q.eWrites (96 * r + l)) x.e
      x := cellSetAll x.x q.xWrites } }

/-- The oldest outstanding result of a class, and the others. -/
def takePend (c : ResClass) : List Pend → Option (Pend × List Pend)
  | [] => none
  | q :: r =>
    if q.cls = c then some (q, r)
    else match takePend c r with
    | none => none
    | some (x, r') => some (x, q :: r')

/-! ### Chains and latches (R42, R43) -/

/-- A slot whose chain has ended: no latch is valid. -/
def Slot.endChain (p : Slot) : Slot :=
  { p with chainOpen := false, chainLen := 0, l0 := none, l1 := none, l2 := none, l3 := none }

/-- Is a chain open that has not reached its 128th operation (R42)? -/
def Slot.inChain (p : Slot) : Bool := p.chainOpen && decide (p.chainLen < 128)

/-- Latch `n` as the next operation finds it: none is valid outside a chain. -/
def Slot.latch (p : Slot) (n : Nat) : Option Latch :=
  if p.inChain then
    match n with
    | 0 => p.l0 | 1 => p.l1 | 2 => p.l2 | _ => p.l3
  else none

/-- Count an issued operation into the chain and end the chain unless its CH is set. -/
def Slot.chainStep (p : Slot) (ch : Bool) : Slot :=
  if ch then { p with chainOpen := true, chainLen := (if p.inChain then p.chainLen else 0) + 1 } else p.endChain

/-- Push an ALU result (R43). -/
def Slot.push (p : Slot) (x : Latch) : Slot :=
  { p with l3 := p.latch 2, l2 := p.latch 1, l1 := p.latch 0, l0 := some x }

/-- An operation that is not ALU-class invalidates all latches (R43). -/
def Slot.dropLatches (p : Slot) : Slot := { p with l0 := none, l1 := none, l2 := none, l3 := none }

/-! ### Retiring an operation (R45, R367, R369) -/

/-- Leave the expansion: its temporaries are discarded, and a stop that waited for the guest boundary happens
(R370, R372). -/
def Slot.leaveExp (p : Slot) : Slot :=
  { p with exp := none, rep := none, pend := p.pend.map Pend.dropTemps, chainOpen := false, chainLen := 0
           l0 := none, l1 := none, l2 := none, l3 := none, stopAtBoundary := false
           status := if p.stopAtBoundary then .stopped else p.status }

/-- A slot stops where it stands, what an expansion held dropped (R342, R372). -/
def Slot.stopHere (p : Slot) : Slot :=
  { (if p.exp.isSome then p.leaveExp else { p with chainOpen := false, chainLen := 0, l0 := none, l1 := none, l2 := none, l3 := none }) with
    status := .stopped, stopAtBoundary := false }

/-- Go on past `k` words of the program: in an expansion past `k` of its words, at its end past the guest
instruction. -/
def Slot.pastWords (p : Slot) (k : Nat) : Slot :=
  match p.exp with
  | none => { p with pc := p.pc + BitVec.ofNat 64 (8 * k) }
  | some x =>
    if x.words.length ≤ x.idx + k then { p.leaveExp with pc := p.pc + BitVec.ofNat 64 x.len }
    else { p with exp := some { x with idx := x.idx + k } }

/-- Retire an operation that did not branch: the next instance of a REP, or the next word. -/
def Slot.retire (p : Slot) : Slot :=
  match p.rep with
  | some r => if r.j + 1 < r.n then { p with rep := some { r with j := r.j + 1 } } else { p with rep := none }.pastWords 2
  | none => p.pastWords 1

/-- Retire an operation that continues at `target`. -/
def Slot.jump (p : Slot) (target : Dword) : Slot :=
  match p.exp with
  | none => { p with pc := target }
  | some _ => { p.leaveExp with pc := target }

/-- Target of a format B operation: words from the PC, or bytes from the guest PC in an expansion (R35, R368). -/
def Slot.branchTarget (p : Slot) (disp : BitVec 32) : Dword :=
  match p.exp with
  | none => p.pc + disp.signExtend 64 * 8
  | some _ => (p.pc + disp.signExtend 64) &&& ~~~3

/-- The address CALL saves: after the operation, or after the guest instruction (R340, R368). -/
def Slot.linkAddr (p : Slot) : Dword :=
  match p.exp with
  | none => p.pc + 8
  | some x => p.pc + BitVec.ofNat 64 x.len

/-- An indirect target: on an operation boundary, or on a guest boundary in an expansion (R340, R368). -/
def Slot.indirect (p : Slot) (x : Dword) : Dword :=
  match p.exp with
  | none => x &&& ~~~7
  | some _ => x &&& ~~~3

/-- Bytes by which the record of a held operation lets SKIP go on: the word, the REP, or the guest instruction
(R403). -/
def Slot.skipBytes (p : Slot) : Nat :=
  match p.exp with
  | some x => x.len
  | none => if p.rep.isSome then 16 else 8

/-! ### Privilege (R395) -/

/-- Does an address lie in the context's service range? -/
def Context.inService (c : Context) (pc : Dword) : Bool := decide (c.svlo ≤ pc) && decide (pc < c.svhi)

/-- Is the slot's operation privileged service code (R395)? -/
def State.privileged (s : State) (t : Team) (p : Slot) : Bool :=
  match s.ctx? t.ctx with
  | none => false
  | some c => decide (p.pers = 0) && p.svcOk && c.inService p.pc

/-! ### Records (R393 to R399) -/

/-- The cluster of a core, and the first core of a cluster. -/
def clusterOf (core : Nat) : Nat := core / 24

/-- The die of a core. -/
def dieOf (core : Nat) : Nat := core / 192

/-- A record of nothing in particular for a context. -/
def FRec.blank (s : State) (cls : FaultClass) (cause ctx : Nat) : FRec :=
  { id := s.nextRec, cls := cls, cause := cause, sub := 0, rst := false, exp := false, slv := false, qv := false
    fwd := false, core := 0, wave := 0, slotB := false, qid := 0, repj := 0, xop := 0, pc := 0, addr := 0, info := 0
    info2 := 0, team := 0, stage := 0, gang := 0, ctx := ctx, time := s.eqx.now, toOs := false, sl := none, cmd := none
    skipLen := none }

/-- A record with the fields of a team (R397). -/
def FRec.ofTeam (s : State) (t : Team) (cls : FaultClass) (cause : Nat) : FRec :=
  { FRec.blank s cls cause t.ctx with core := t.core, team := t.num, stage := t.stage, gang := t.gang }

/-- A record with the fields of a slot (R397): its place, PC, expansion and REP index. -/
def FRec.ofSlot (s : State) (v : View) (cls : FaultClass) (cause : Nat) : FRec :=
  { FRec.ofTeam s v.t cls cause with
    wave := v.w.place, slotB := v.sl.b, pc := v.p.pc, exp := v.p.exp.isSome
    xop := (v.p.exp.map fun x => x.idx + if v.p.rep.isSome then 1 else 0).getD 0, repj := (v.p.rep.map RepRun.j).getD 0 }

/-- Does the record go to the device operating system's ring (R399)? -/
def State.recToOs (s : State) (r : FRec) (priv : Bool) : Bool :=
  match s.ctx? r.ctx with
  | none => true
  | some c => r.rst || priv || c.route || c.diverted || (decide (r.cls = .charge) && decide (r.cause < 0x10))

/-- Hand a record to the fault unit. Records of an ended context are dropped, but for those CHARGE records the device
operating system receives (R402). -/
def State.addRec (s : State) (r : FRec) (priv : Bool) : State :=
  let os := s.recToOs r priv
  let dead : Bool := match s.ctx? r.ctx with
    | some c => c.ended && !(decide (r.cls = .charge) && os)
    | none => false
  if dead then s else { s with recs := s.recs ++ [{ r with id := s.nextRec, toOs := os, cycle := s.cycle }], nextRec := s.nextRec + 1 }

/-- A CHARGE record (R398, R405). -/
def State.charge (s : State) (ctx code : Nat) (addr : Dword) (info2 : Word) : State :=
  s.addRec { FRec.blank s .charge code ctx with addr := addr, info := BitVec.ofNat 64 code, info2 := info2 } false

/-! ### Killing a wave (R56 to R58) -/

/-- The least of the causes met, the one recorded (R56). -/
def leastCause : List Nat → Option Nat
  | [] => none
  | c :: r =>
    match leastCause r with
    | none => some c
    | some d => some (min c d)

/-- %err as the first kill writes it (R58). -/
def errWord (cause core place xop : Nat) (b exp : Bool) (pc : Dword) : BitVec 128 :=
  pc.zeroExtend 128 <<< 64 ||| 1 <<< 63 ||| BitVec.ofNat 128 cause <<< 56 ||| BitVec.ofNat 128 core <<< 46
    ||| BitVec.ofNat 128 place <<< 42 ||| (BitVec.ofBool b).zeroExtend 128 <<< 41
    ||| (BitVec.ofBool exp).zeroExtend 128 <<< 40 ||| BitVec.ofNat 128 xop <<< 37

/-- %err after a kill: the first kill writes it, a later one sets MK (R58). -/
def errAfterKill (err new : BitVec 128) : BitVec 128 :=
  if err.getLsbD 63 then err ||| 1 <<< 62 else new ||| (err &&& (1 <<< 62))

/-- %err after some kills, in their order. -/
def errFold (err : BitVec 128) (kills : List (Nat × Nat × BitVec 128)) : BitVec 128 :=
  kills.foldl (fun e k => errAfterKill e k.2.2) err

/-- Put a kill at its place among those of its cycle: core, wave place, slot A before slot B (R58). -/
def putKill (k : Nat × Nat × BitVec 128) : List (Nat × Nat × BitVec 128) → List (Nat × Nat × BitVec 128)
  | [] => [k]
  | x :: r => if k.1 < x.1 then k :: x :: r else x :: putKill k r

/-- The kills of the current cycle with one more: a kill of a later cycle starts anew from %err as it is. -/
def Context.killed (c : Context) (cycle : Nat) (k : Nat × Nat × BitVec 128) : ErrCycle :=
  let old : ErrCycle := if c.errNow.cycle = cycle ∧ c.errNow.kills ≠ [] then c.errNow else { cycle := cycle, base := c.err, kills := [] }
  { old with kills := putKill k old.kills }

/-- %err after the kills of the cycle (R58). -/
def ErrCycle.word (e : ErrCycle) : BitVec 128 := errFold e.base e.kills

/-- %err as the kill of record `id` wrote it (R398), if it is one of this cycle. -/
def ErrCycle.wrote (e : ErrCycle) (id : Nat) : Option (BitVec 128) :=
  if e.kills.any fun k => decide (k.2.1 = id) then
    some (errFold e.base (e.kills.take ((e.kills.findIdx fun k => decide (k.2.1 = id)) + 1)))
  else none

/-- A slot as its wave's end leaves it: what the matrix engine still runs of it completes, nothing else does (R57). -/
def Slot.ended (p : Slot) : Slot :=
  match p.status with
  | .mgemm => { p with live := false }
  | .accepting _ _ => { p with live := false }
  | _ => { p with live := false, status := .running, exp := none, rep := none }

/-- Withdraw the waits of the slots that satisfy `q` (R57, R290). -/
def State.dropWaits (s : State) (q : SlotId → Bool) : State :=
  { s with waiters := s.waiters.filter fun x => !q x.sl }

/-- The wave stops for good: both slots stop and its parked waits are withdrawn (R57). -/
def State.stopWave (s : State) (sl : SlotId) : State :=
  let s1 := s.modTeam sl.team fun t =>
    { t with waves := t.waves.modify sl.wave fun w => { w with status := .killed, a := w.a.ended, b := w.b.ended } }
  s1.dropWaits fun x => decide (x.team = sl.team) && decide (x.wave = sl.wave)

/-- The address of the operation a slot issues: under a REP the word after it, in an expansion the guest PC (R58). -/
def Slot.opAddr (p : Slot) : Dword := if p.exp.isNone && p.rep.isSome then p.pc + 8 else p.pc

/-- A record of a kill of this cycle with %err as its kill wrote it. -/
def FRec.withErr (e : ErrCycle) (x : FRec) : FRec :=
  if x.cls = .kill then (match e.wrote x.id with
    | some w => { x with info := w.truncate 64 }
    | none => x) else x

/-- Kill the issuing wave for a cause: %err, the kill record, and the wave stops. Of the kills of one cycle the first in order
of core, wave place and slot is the one %err records (R56 to R58, R393, R398). -/
def State.killWave (s : State) (v : View) (cause : Nat) : State :=
  let r := FRec.ofSlot s v .kill cause
  let new := errWord cause v.t.core v.w.place r.xop v.sl.b r.exp v.p.opAddr
  let k := ((v.t.core * 16 + v.w.place) * 2 + v.sl.b.toNat, s.nextRec, new)
  let priv := s.privileged v.t v.p
  let s1 := s.modCtx v.t.ctx fun c => { c with err := (c.killed s.cycle k).word, errNow := c.killed s.cycle k }
  let s2 := s1.addRec r priv
  let s3 := match s.ctx? v.t.ctx with
    | none => s2
    | some c => { s2 with recs := s2.recs.map (FRec.withErr (c.killed s.cycle k)) }
  s3.stopWave v.sl

/-! ### Taking a fault (R393, R397, R46, R371) -/

/-- The slot a fault leaves: held on record `id`, its chain ended, an expansion's temporaries discarded. The PC stays
at the operation, the REP word or the guest instruction. -/
def Slot.holdOn (p : Slot) (id : Nat) : Slot :=
  let q := { p.endChain with idle := 0 }
  match q.exp with
  | none => { q with status := .held id }
  | some _ => { q.leaveExp with status := .held id, rep := none }

/-- A fault of the issuing slot: the record `r` is handed to the fault unit and the slot stops on it. -/
def State.stopSlot (s : State) (v : View) (r : FRec) : State :=
  let s1 := s.addRec { r with slv := true, sl := some v.sl } (s.privileged v.t v.p)
  s1.putSlot v (v.p.holdOn s.nextRec)

/-- RESUME: the slot issues again at its resume point, which its PC, REP index, fault mask and the replay it owes hold
(R185, R403). -/
def Slot.resume (p : Slot) : Slot := { p with status := .running }

/-- SKIP: the slot goes on past the held operation, which owes no replay any more; the fault mask of a vector memory
operation is cleared (R403). -/
def Slot.skipPast (p : Slot) (vec : Bool) (bytes : Nat) : Slot :=
  { p with
    status := .running, rep := none, fmask := if vec then 0 else p.fmask, replay := decide (bytes = 0) && p.replay
    pc := p.pc + BitVec.ofNat 64 bytes }

/-! ### Conditions (R231) -/

/-- Count key of a condition of a core and context. -/
def condKey (core ctx idx : Nat) : Nat := (core * 2 ^ 32 + ctx) * 8 + idx

/-- Add 1 to a saturating count. -/
def satInc (x : Word) : Word := if x = BitVec.allOnes 32 then x else x + 1

/-- Count a condition, if it was raised. -/
def countCond (raised : Bool) (key : Nat) (m : Cells 32) : Cells 32 :=
  if raised then cellSet m key (satInc (cellGet m key)) else m

/-! ### Issuing -/

/-- The common course of an operation: find the slot, kill the wave for the least cause met, wait, or act. -/
def issue (s : State) (causes : View → List Nat) (wait : View → Bool) (run : View → State) :
    Host.Outcome State Fault Refusal :=
  match s.view with
  | none => .fault .noIssuingSlot
  | some v =>
    match leastCause (causes v) with
    | some c => .next (s.killWave v c)
    | none => if wait v then .next (s.putSlot v { v.p with stalled := true }) else .next (run v)

/-- The bits %mxst has: 27 to 5 are reserved, read zero and ignore writes (R8, R279). -/
def mxstBits : Dword := 0xFFFFFFFFF000001F

/-- The lanes of a guard: KP, inverted by KN (R40). -/
def guardLanes (w : Wave) (c : Ctl) : Lanes :=
  let k := readKReg w c.kp.toNat
  if c.kn then ~~~k else k

/-- `active` of R10. -/
def View.active (v : View) (c : Ctl) : Lanes := v.p.mask &&& guardLanes v.w c

/-- The lanes that decide whether an operation with a scalar destination takes effect: `active`, over the owned lanes when
it writes the mask (R207). -/
def View.activeTo (v : View) (c : Ctl) (d : BitVec 8) : Lanes :=
  if 60 ≤ d.toNat ∧ d.toNat ≤ 62 then v.p.owned &&& guardLanes v.w c else v.active c

/-- The operation of the view came from an expansion. -/
def View.inExp (v : View) : Bool := v.p.exp.isSome

end Sys2Proof.Machine
end

