-- ==== Sys2Proof/Machine/Memory.lean ====
section
/-!
DEFINITION. Memory: the physical address map (R95), region windows (R99 to R109), and the performance of writes scope
by scope (R309 to R318).

A slot's or copy queue's write is kept in `State.writes` until it is performed in every scope instance; a read takes
the last write in coherence order among those performed in the narrowest instance that holds writer and reader.
-/

namespace Sys2Proof.Machine

/-! ### The physical address map (R95) -/

/-- A mapped range of R95. -/
inductive Region
  | near (die : Nat)
  | far
  | chip (die : Nat)
  | dec (w : Nat)
  | host
  deriving DecidableEq, Repr, Inhabited

/-- Base of the far tier. -/
def farBase : Nat := 0x010000000000

/-- Bytes of the far tier: 768 GiB. -/
def farSize : Nat := 0xC000000000

/-- Base of the chip scratchpad alias of a die. -/
def chipBase (d : Nat) : Nat := 0x200000000000 + d * 2 ^ 26

/-- Base of the decoded alias of a window. -/
def decBase (w : Nat) : Nat := 0x400000000000 + w * 2 ^ 38

/-- Base of the host range. -/
def hostBase : Nat := 0x800000000000

/-- A window by number. -/
def State.window (s : State) (w : Nat) : Window := (s.windows[w]?).getD .zero

/-- The stored format without its seal (R101). -/
def Window.stored (x : Window) : Nat := x.stf % 8

/-- The window is sealed (R101). -/
def Window.isSealed (x : Window) : Bool := decide (8 ≤ x.stf)

/-- Raw bytes of a window (R100). -/
def Window.rawSize (x : Window) : Nat := 65536 * x.size.toNat

/-- Bytes of a decoded value: `tb` of R106. -/
def Window.width (x : Window) : Nat := match x.dt with
  | 1 => 2 | 2 => 2 | 4 => 4 | _ => 1

/-- Decoded bytes of a window: ratio times raw bytes (R101). -/
def Window.decSize (x : Window) : Nat :=
  match x.stored with
  | 0 => x.rawSize
  | 1 => 2 * x.width * x.rawSize
  | 2 => x.width * x.rawSize
  | 3 => x.width * x.rawSize
  | _ => x.rawSize / 3 * 4

/-- The L2CFG register of a die. -/
def State.carve (s : State) (d : Nat) : L2Cfg := (s.l2cfg[d]?).getD { cur := 0, sts := 0, csz := 0 }

/-- The mapped range that holds all of `n` bytes from physical address `a` (R95, R96). -/
def regionOf (s : State) (a n : Nat) : Option Region :=
  if a < 2 ^ 34 then (if (a + n - 1) / 2 ^ 32 = a / 2 ^ 32 then some (.near (a / 2 ^ 32)) else none)
  else if farBase ≤ a ∧ a + n ≤ farBase + farSize then some .far
  else if chipBase 0 ≤ a ∧ a < chipBase 4 then
    let d := (a - chipBase 0) / 2 ^ 26
    if a % 2 ^ 26 + n ≤ (s.carve d).cur * 2 ^ 23 then some (.chip d) else none
  else if decBase 0 ≤ a ∧ a < decBase 64 then
    let w := (a - decBase 0) / 2 ^ 38
    let x := s.window w
    if x.en && decide (a % 2 ^ 38 + n ≤ x.decSize) then some (.dec w) else none
  else if hostBase ≤ a ∧ a + n ≤ 2 * hostBase then some .host
  else none

/-- The home die of a line (R98). -/
def homeDie (a : Nat) : Nat := if a < 2 ^ 34 then a / 2 ^ 32 else Nat.xor (a / 2 ^ 12 % 4) (a / 2 ^ 20 % 4)

/-- The home slice of a line (R98). -/
def homeSlice (a : Nat) : Nat :=
  Nat.xor (Nat.xor (a / 2 ^ 7 % 32) (a / 2 ^ 12 % 32)) (Nat.xor (a / 2 ^ 17 % 32) (a / 2 ^ 22 % 32))

/-- The 128-byte line of an address. -/
def lineOf (a : Nat) : Nat := a / 128

/-- The die of a core's or far-tier access to a home: the uncore island of a line's home die (R6, R23). -/
def homeClock (s : State) (line : Nat) : Nat := ((s.islands[5 * homeDie (128 * line) + 4]?).map Island.clock).getD 0

/-- The island of a core: cluster pairs 2i and 2i + 1 of die d are island 5d + i (R23). -/
def islandOf (core : Nat) : Nat := 5 * dieOf core + clusterOf core % 8 / 2

/-- %clock of a core (R23). -/
def coreClock (s : State) (core : Nat) : Nat := ((s.islands[islandOf core]?).map Island.clock).getD 0

/-! ### Locations and agents (R309, R310, R314) -/

/-- The seat of a slot. -/
def View.seat (v : View) : Seat :=
  { who := .slot v.sl, team := v.t.id, wave := v.sl.wave, launch := v.t.launch, gang := v.t.gang, stage := v.t.stage
    die := dieOf v.t.core }

/-- The seat of an agent outside the teams. -/
def Seat.of (who : Agent) (die : Nat) : Seat :=
  { who := who, team := 0, wave := 0, launch := 0, gang := 0, stage := 0, die := die }

/-- The seat of a copy queue acting for a team; it stays the same agent wherever the team is restored (R322). -/
def Seat.queue (t : Team) (q : Nat) : Seat :=
  { who := .queue q t.id, team := t.id, wave := 0, launch := t.launch, gang := t.gang, stage := t.stage
    die := dieOf t.core }

/-- Is the agent a slot? -/
def agentIsSlot : Agent → Bool
  | .slot _ => true
  | _ => false

/-- Does the agent act for a team: a slot or a copy queue? -/
def agentOfTeam : Agent → Bool
  | .slot _ => true
  | .queue _ _ => true
  | _ => false

/-- The seat of a cluster's segment engine at work on a segment (R314): its die, and the gang-stages of the teams attached
to the segment. -/
def Seat.engine (s : State) (g : Segment) : Seat :=
  { who := .segEngine g.cluster, team := 0, wave := 0, launch := 0, gang := 0, stage := 0, die := g.cluster / 8
    gangs := (s.teams.filter fun t => decide (t.ctx = g.ctx) && t.attach.any fun a => decide (a.1 = g.name)).map fun t =>
      (t.launch, t.gang, t.stage) }

/-- J(W, b) of R314 as a scope value: the narrowest instance that holds writer `w` and reader `b`. -/
def joinScope (w b : Seat) : Nat :=
  match b.who with
  | .host _ => 5
  | .peer _ => 6
  | .service d => if w.die = d then 3 else 4
  | .frontEnd => 4
  | .faultUnit => 4
  | .walker => 4
  | .segEngine _ =>
    if agentOfTeam w.who && b.gangs.contains (w.launch, w.gang, w.stage) then 2 else if w.die = b.die then 3 else 4
  | _ =>
    if !agentOfTeam w.who then (if w.die = b.die then 3 else 4)
    else if w.team = b.team then
      (if agentIsSlot w.who && agentIsSlot b.who && decide (w.wave = b.wave) then 0 else 1)
    else if w.launch = b.launch ∧ w.gang = b.gang ∧ w.stage = b.stage then 2
    else if w.die = b.die then 3
    else 4

/-- A segment of a context by name (R154). -/
def State.segment? (s : State) (ctx name : Nat) : Option Segment :=
  s.segs.find? fun g => g.ctx = ctx ∧ g.name = name

/-- Change a segment. -/
def State.modSeg (s : State) (ctx name : Nat) (f : Segment → Segment) : State :=
  { s with segs := s.segs.map fun g => if g.ctx = ctx ∧ g.name = name then f g else g }

/-- Bytes of a line that a host cache has dirtied (R416). -/
def hostDirty (s : State) (a : Nat) : Option Byte :=
  match s.hostLines.find? fun x => x.line = lineOf a with
  | none => none
  | some x => (x.dirty.find? fun p => p.1 = a).map Prod.snd

/-- The byte of a location once every write is performed everywhere. -/
def locBase (s : State) : Loc → Byte
  | .phys a => cellGet s.mem a
  | .scratch t o => match s.team? t with
    | none => 0
    | some t => cellGet t.scratch o
  | .seg c n o => match s.segment? c n with
    | none => 0
    | some g => cellGet g.data o

/-- Insert a granule number into a rising list. -/
def insertNat (n : Nat) : List Nat → List Nat
  | [] => [n]
  | x :: r => if n < x then n :: x :: r else if n = x then x :: r else x :: insertNat n r

/-- A byte written into a segment: its granule becomes dirty (R160), and a poisoned granule counts the byte; once every
byte of it is written the poison clears (R167). A counter operation that writes nothing leaves the dirty bit as it is: the
model's choice (log entry 119). -/
def Segment.touch (g : Segment) (o : Nat) : Segment :=
  let n := o / 4096
  { g with
    dirty := insertNat n g.dirty
    poison := (g.poison.map fun p => if p.1 = n then (p.1, insertNat o p.2) else p).filter fun p =>
      decide (p.2.length < 4096) }

/-- Write the byte of a location everywhere. -/
def setBase (s : State) (l : Loc) (b : Byte) : State :=
  match l with
  | .phys a => { s with mem := cellSet s.mem a b }
  | .scratch t o => s.modTeam t fun t => { t with scratch := cellSet t.scratch o b }
  | .seg c n o => s.modSeg c n fun g => { g.touch o with data := cellSet g.data o b }

/-- The value a write has for a location. -/
def PWrite.at? (w : PWrite) (l : Loc) : Option Byte := (w.bytes.find? fun p => p.1 = l).map Prod.snd

/-- The byte a reader sees at a location (R314, binding a read). -/
def seenByte (s : State) (r : Seat) (l : Loc) : Byte :=
  let base := match l with
    | .phys a => (hostDirty s a).getD (locBase s l)
    | _ => locBase s l
  s.writes.foldl (fun b w => if joinScope w.seat r ≤ w.level then (w.at? l).getD b else b) base

/-! ### Performing writes (R314, R315) -/

/-- Two writes touch a common location. -/
def PWrite.meets (x y : PWrite) : Bool := x.bytes.any fun p => (y.at? p.1).isSome

/-- The writes, in order, that must be performed so that those of `p` are: what they depend on, and what is earlier in
coherence order at their locations. -/
def neededFor (p : PWrite → Bool) : List PWrite → List PWrite
  | [] => []
  | w :: r =>
    let n := neededFor p r
    if p w || n.any fun y => y.deps.contains w.id || w.meets y then w :: n else n

/-- Raw bytes that the element at decoded offset `q` of a window derives from: the first's offset, and how many. -/
def Window.rawOf (x : Window) (q : Nat) : Nat × Nat :=
  let i := q / x.width
  match x.stored with
  | 1 => (i / 2, 1)
  | 4 => (3 * i, 3)
  | _ => (i, 1)

/-- Scale bytes of element `i` of a window: the first's address, and how many (R102). -/
def Window.scaleOf (x : Window) (i : Nat) : Nat × Nat :=
  match x.stored with
  | 1 => (x.scl.toNat + i / 32, 1)
  | 2 => (x.scl.toNat + 4 * (i / 2 ^ (x.rowl + 7)), 4)
  | 3 => (x.scl.toNat + 4 * (i / 2 ^ (x.rowl + 7)), 4)
  | _ => (0, 0)

/-- The held decoded line derives from one of some raw lines of its window; a sealed one from whole units, which are
lines (R106, R107). -/
def DecLine.derives (s : State) (d : DecLine) (lines : List Nat) : Bool :=
  let x := s.window d.w
  let lo := (x.rawOf (128 * d.line)).1
  let hi := x.rawOf (128 * d.line + 127)
  lines.any fun l => decide (lineOf (x.raw.toNat + lo) ≤ l) && decide (l ≤ lineOf (x.raw.toNat + hi.1 + hi.2 - 1))

/-- The L2s drop the decoded lines that derive from some raw lines (R107). -/
def State.dropDecoded (s : State) (lines : List Nat) : State :=
  { s with decoded := s.decoded.filter fun d => !d.derives s lines }

/-- The physical lines of some bytes. -/
def physLines (bytes : List (Loc × Byte)) : List Nat :=
  bytes.foldr (fun p r => match p.1 with
    | .phys a => insertNat (lineOf a) r
    | _ => r) []

/-- Move writes that are performed everywhere into their locations; those visible at package scope leave no decoded line
that derives from them (R107). -/
def State.settle (s : State) : State :=
  let done := s.writes.filter fun w => decide (6 ≤ w.level)
  let s1 := ({ s with writes := s.writes.filter fun w => decide (w.level < 6) } : State).dropDecoded
    ((s.writes.filter fun w => decide (4 ≤ w.level)).flatMap fun (w : PWrite) => physLines w.bytes)
  done.foldl (fun s w => w.bytes.foldl (fun s p => setBase s p.1 p.2) s) s1

/-- Perform the writes of `p` up to scope `lvl`, with all that must come before them. -/
def State.perform (s : State) (lvl : Nat) (p : PWrite → Bool) : State :=
  let ids := (neededFor p s.writes).map PWrite.id
  let ws := s.writes.map fun w => if ids.contains w.id then { w with level := max w.level lvl } else w
  State.settle { s with writes := ws }

/-- Lines that a host cache must give up before the writes of `p`, with all that must come before them, are performed
for hosts (R314, R416). -/
def writeSnoops (s : State) (p : PWrite → Bool) : List Nat :=
  if s.hostLines = [] then []
  else (((neededFor p s.writes).filter fun w => decide (w.level < 5)).flatMap fun w => physLines w.bytes).filter fun l =>
    s.hostLines.any fun x => decide (x.line = l) && decide (x.st ≠ .i)

/-- Send a back-invalidate for a line, unless one that does as much is under way (R416). -/
def State.snoop (s : State) (line : Nat) (inv : Bool) : State :=
  if s.snoops.any fun q => q.line = line ∧ (q.inv ∨ ¬inv) then s
  else { s with snoops := s.snoops ++ [{ line := line, inv := inv, since := s.eqx.now.toNat }] }

/-- The event WRITE_PERFORM: a write goes one scope further, if what must precede it has (R314); before it is performed at
its home and for hosts, host caches give up its line (R416). -/
def State.performNext (s : State) (id : Nat) : State :=
  match s.writes.find? fun w => w.id = id with
  | none => s
  | some w =>
    let before := s.writes.takeWhile fun x => x.id ≠ id
    let blocked := s.writes.any fun x =>
      (w.deps.contains x.id || (before.any (fun y => y.id = x.id) && x.meets w)) && decide (x.level ≤ w.level)
    let held := if w.level = 3 ∨ w.level = 4 then writeSnoops s fun x => decide (x.id = id) else []
    if blocked then s
    else if held ≠ [] then held.foldl (fun s l => s.snoop l true) s
    else State.settle { s with writes := s.writes.map fun x => if x.id = id then { x with level := w.level + 1 } else x }

/-- Host caches give up or share a line: its dirty bytes reach memory (R416). -/
def State.hostYield (s : State) (line : Nat) (inv : Bool) : State :=
  match s.hostLines.find? fun x => x.line = line with
  | none => s
  | some x =>
    { s.dropDecoded (if x.dirty = [] then [] else [line]) with
      mem := cellSetAll s.mem x.dirty
      hostLines := if inv then s.hostLines.filter fun y => decide (y.line ≠ line)
        else s.hostLines.map fun y => if y.line = line then { y with st := .s, dirty := [] } else y
      snoops := s.snoops.filter fun q => decide (q.line ≠ line) }

/-- Write bytes at one point for all agents: every earlier write to them is performed first (R314, single-point
operations), and no host cache and no decoded line keeps the lines. -/
def State.writeNow (s : State) (bytes : List (Loc × Byte)) : State :=
  let s1 := s.perform 6 fun w => bytes.any fun p => (w.at? p.1).isSome
  let s2 := ((physLines bytes).foldl (fun s l => s.hostYield l true) s1).dropDecoded (physLines bytes)
  bytes.foldl (fun s p => setBase s p.1 p.2) s2

/-- Put a new write behind the others: performed in its writer's .wave instance at once (R314). -/
def State.addWrite (s : State) (seat : Seat) (stream : Option (BitVec 4)) (lane : Option Nat) (deps : List Nat)
    (bytes : List (Loc × Byte)) : State :=
  let s1 := bytes.foldl (fun s p => match p.1 with
    | .seg c n o => s.modSeg c n fun g => g.touch o
    | _ => s) s
  { s1 with
    writes := s1.writes ++ [{ id := s1.nextWrite, seat := seat, stream := stream, lane := lane, bytes := bytes, level := 0
                              deps := deps }]
    nextWrite := s1.nextWrite + 1 }

/-- The single-copy atomic units of an access: eight bytes at most (R181). -/
def units (bytes : List (Loc × Byte)) : List (List (Loc × Byte)) :=
  if 8 < bytes.length then [bytes.take 8, bytes.drop 8] else [bytes]

/-- Is the stream named by the mask (R33)? -/
def inMask (m : BitVec 16) (k : BitVec 4) : Bool := m.getLsbD k.toNat

/-- The write comes before the slot's later operations in program order: its own, or one of its wave's other slot that a
BRDIV or a JOIN has put before them (R311). -/
def ownPast (sl : SlotId) (p : Slot) (w : PWrite) : Bool := decide (w.seat.who = .slot sl) || p.before.contains w.id

/-- Pending writes of one stream before a slot's later operations. -/
def ownStream (s : State) (sl : SlotId) (p : Slot) (k : BitVec 4) : List Nat :=
  (s.writes.filter fun w => ownPast sl p w && decide (w.stream = some k)).map PWrite.id

/-- Writes that the slot's fences order before an access of a lane in a stream (R203). -/
def fencedBefore (s : State) (p : Slot) (k : BitVec 4) (lane : Option Nat) : List Nat :=
  (s.writes.filter fun w => p.fences.any fun f =>
    inMask f.mask k && f.ids.contains w.id && (f.across || w.lane.isNone || lane.isNone || decide (w.lane = lane))).map
      PWrite.id

/-- Everything preserved order puts before a slot's access in a stream, the row of the same address apart (R312). A later
write needs that row no more than this: writes to one location are performed in coherence order (R315). -/
def orderedBefore (s : State) (sl : SlotId) (p : Slot) (k : BitVec 4) (lane : Option Nat) : List Nat :=
  ownStream s sl p k ++ fencedBefore s p k lane

/-- The writes before a slot's access that touch one of the locations it reads, in whichever streams (R312). -/
def sameAddress (s : State) (sl : SlotId) (p : Slot) (locs : List Loc) : List Nat :=
  (s.writes.filter fun w => ownPast sl p w && locs.any fun l => (w.at? l).isSome).map PWrite.id

/-! ### Decoded aliases (R102, R104, R106) -/

/-- A physical byte as a reader sees it. -/
def physByte (s : State) (r : Seat) (a : Nat) : Byte := seenByte s r (.phys a)

/-- A stored byte of a window, decrypted if the window is sealed (R104). -/
def rawByte (s : State) (r : Seat) (x : Window) (o : Nat) : Byte :=
  if x.isSealed then
    match s.keys[x.ks]? with
    | some ⟨true, _, key⟩ =>
      let u := o / 128
      byteAt (xtsUnit true key u ((List.range 128).map fun i => physByte s r (x.raw.toNat + 128 * u + i))) (o % 128)
    | _ => Config.keylessByte x.ks o
  else physByte s r (x.raw.toNat + o)

/-- The format a decode target names (R100). -/
def Window.target (x : Window) : FloatTy := match x.dt with
  | 1 => .f16 | 2 => .bf16 | _ => .e4m3

/-- The decoded line of a window that the L2s hold (R108). -/
def heldLine (s : State) (w line : Nat) : Option DecLine :=
  if Config.l2Holds s.tick line then s.decoded.find? fun d => d.w = w ∧ d.line = line else none

/-- A scale byte as decoded line `line` of window `w` takes it: what the line was filled with, where an L2 holds it still,
and otherwise what is there now (R108). -/
def scaleByte (s : State) (r : Seat) (w line a : Nat) : Byte :=
  match heldLine s w line with
  | none => physByte s r a
  | some d => ((d.scale.find? fun p => p.1 = a).map Prod.snd).getD (physByte s r a)

/-- The scale of element `i` of a window, little-endian. -/
def scaleOfElem (s : State) (r : Seat) (w i : Nat) : Nat :=
  let x := s.window w
  let p := x.scaleOf i
  ofBytes ((List.range p.2).map fun j => scaleByte s r w (i * x.width / 128) (p.1 + j))

/-- The value of element `i` of window `w` as its target holds it (R102, R106). -/
def decodedElem (s : State) (r : Seat) (w i : Nat) : Nat :=
  let x := s.window w
  match x.stored with
  | 0 => (rawByte s r x i).toNat
  | 1 =>
    let b := (rawByte s r x (i / 2)).toNat
    let nib := if i % 2 = 0 then b % 16 else b / 16
    decodeInto x.target (scaled (fread .e2m1 nib) (scaleOfElem s r w i))
  | 2 => decodeInto x.target (scaledF32 (fread .e4m3 (rawByte s r x i).toNat) (scaleOfElem s r w i))
  | 3 => decodeInto x.target (scaledF32 (fread .e5m2 (rawByte s r x i).toNat) (scaleOfElem s r w i))
  | _ => (BitVec.ofInt 32 (tri24Value (rawByte s r x (3 * i)).toNat (rawByte s r x (3 * i + 1)).toNat
      (rawByte s r x (3 * i + 2)).toNat)).toNat

/-- The byte at decoded offset `q` of window `w` (R106). -/
def decodedByte (s : State) (r : Seat) (w q : Nat) : Byte :=
  let x := s.window w
  BitVec.ofNat 8 (decodedElem s r w (q / x.width) / 256 ^ (q % x.width))

/-- The physical bytes the decoded byte at offset `q` of window `w` derives from: its raw bytes, whole units of them where
the window is sealed, and its scale data (R102, R106, R321). -/
def decodedOf (s : State) (w q : Nat) : List Nat :=
  let x := s.window w
  let p := x.rawOf q
  let c := x.scaleOf (q / x.width)
  let raw := (List.range p.2).map fun j => p.1 + j
  ((if x.isSealed then raw.flatMap fun o => (List.range 128).map fun j => o / 128 * 128 + j else raw).map fun o =>
    x.raw.toNat + o) ++ (List.range c.2).map fun j => c.1 + j

/-- The physical lines that `n` decoded bytes of window `w` from offset `q` derive from. -/
def decodedFrom (s : State) (w q n : Nat) : List Nat :=
  ((List.range n).flatMap fun i => (decodedOf s w (q + i)).map lineOf).foldr insertNat []

/-- Decoded lines of window `w` that hold `n` bytes from decoded offset `q`. -/
def decLines (q n : Nat) : List Nat := if n = 0 then [] else (List.range ((q + n - 1) / 128 - q / 128 + 1)).map fun i => q / 128 + i

/-- A decoded line filled now, with the scale data an agent sees (R108). -/
def decLineNow (s : State) (r : Seat) (w line : Nat) : DecLine :=
  let x := s.window w
  let elems := (List.range (128 / x.width)).map fun i => 128 * line / x.width + i
  let addrs := (elems.flatMap fun i => (List.range (x.scaleOf i).2).map fun j => (x.scaleOf i).1 + j).foldr insertNat []
  { w := w, line := line, scale := addrs.map fun a => (a, physByte s r a) }

/-- A read of `n` decoded bytes of window `w` from offset `q` leaves its lines in the L2s (R108). -/
def State.fillDecoded (s : State) (r : Seat) (w q n : Nat) : State :=
  let fill (ds : List DecLine) (line : Nat) : List DecLine :=
    if (heldLine s w line).isSome then ds else decLineNow s r w line :: ds.filter fun d => ¬(d.w = w ∧ d.line = line)
  { s with decoded := (decLines q n).foldl fill s.decoded }

/-- A physical byte of any mapped range, decoded where the range is a decoded alias. -/
def anyByte (s : State) (r : Seat) (a : Nat) : Byte :=
  match regionOf s a 1 with
  | some (.dec w) => decodedByte s r w (a - decBase w)
  | _ => physByte s r a

/-- Does the physical range overlap an enabled sealed window's raw range (R104)? -/
def inSealed (s : State) (a n : Nat) : Bool :=
  s.windows.any fun x => x.en && x.isSealed && decide (a < x.raw.toNat + x.rawSize) && decide (x.raw.toNat < a + n)

/-! ### Placement of atomics (R196, R197) -/

/-- Recall lines from the near-line stores of every core but `keep`. -/
def State.recall (s : State) (keep : Option Nat) (lines : List Nat) : State :=
  { s with near := s.near.filter fun p => decide (some p.1 = keep) || !lines.contains p.2 }

/-- Grant a line to a core: its predictor rises when another core had it last, and the least recently used line of a
full store returns (R196, R197). The first grant of a line, which no core had before, raises nothing: the model's choice
(log entry 144). -/
def State.grant (s : State) (core line : Nat) : State :=
  let s1 := s.recall (some core) [line]
  let held := s1.near.any fun p => p = (core, line)
  let others := s1.near.filter fun p => p ≠ (core, line)
  let mine := ((others.filter fun p => p.1 = core).take 15)
  let near := (core, line) :: mine ++ others.filter fun p => p.1 ≠ core
  if held then { s1 with near := near }
  else
    let now := homeClock s line
    let pred := match s1.pred.find? fun x => x.line = line with
      | none => { line := line, pp := 0, grantee := some core, since := now } :: s1.pred
      | some _ => s1.pred.map fun x =>
        if x.line = line then
          (if x.grantee = some core ∨ x.grantee = none then { x with grantee := some core }
           else { x with pp := min 3 (x.pp + 1), grantee := some core, since := now })
        else x
    { s1 with near := near, pred := pred }

/-- Place an atomic or counter operation of a core on a line: 0 predictor, 1 near, 2 far (R190, R196). -/
def State.placeAtomic (s : State) (core pl line : Nat) : State :=
  let pp := ((s.pred.find? fun x => x.line = line).map PredLine.pp).getD 0
  if pl = 1 ∨ (pl = 0 ∧ pp ≤ 1) then s.grant core line
  else
    let s1 := s.recall none [line]
    if s1.pred.any fun x => x.line = line then s1
    else { s1 with pred := { line := line, pp := 0, grantee := none, since := homeClock s line } :: s1.pred }

/-- PREDICTOR_DECAY: after 256 quiet home cycles the state falls by one (R197). -/
def execPredictorDecay (line : Nat) (s : State) : Host.Outcome State Fault Refusal :=
  let pred := s.pred.map fun x =>
    if x.line = line ∧ x.since + 256 ≤ homeClock s line then { x with pp := x.pp - 1, since := x.since + 256 } else x
  .next { s with pred := pred }

/-- WRITE_PERFORM (R314). -/
def execWritePerform (id : Nat) (s : State) : Host.Outcome State Fault Refusal := .next (s.performNext id)

/-! ### Releases (R316, R317) -/

/-- The writes a release of `seat` covers: the agent's own that it names, what is already visible to it from others, and
what an earlier release of its own has made visible (cumulativity). -/
def coveredBy (seat : Seat) (own : PWrite → Bool) (w : PWrite) : Bool :=
  own w || (if w.seat.who = seat.who then decide (1 ≤ w.level) else decide (joinScope w.seat seat ≤ w.level))

/-- The slot's own writes in the streams of a mask. -/
def ownIn (seat : Seat) (mask : BitVec 16) (w : PWrite) : Bool :=
  decide (w.seat.who = seat.who) && (match w.stream with
    | none => true
    | some k => inMask mask k)

/-- Perform what a release covers at its scope, in the team at least, so that a later release covers it too (step 2 of
R316). -/
def State.releaseWrites (s : State) (seat : Seat) (own : PWrite → Bool) (scope : Nat) : State :=
  s.perform (max scope 1) (coveredBy seat own)

end Sys2Proof.Machine
end

