-- ==== Sys2Proof/Machine/Almanac.lean ====
section
/-!
DEFINITION. The Almanac (R432, R433) and the metering of egress (R431).
-/

namespace Sys2Proof.Machine

/-- The lines that the next entry is written to, and with the last one of a block its signature (R432). -/
def almLines (s : State) : List Nat :=
  match s.alm.base with
  | none => []
  | some b =>
    let n := s.alm.seq
    lineOf (b + 128 * (n % 2 ^ 20)) ::
      (if n % 64 = 63 then
        let a := b + 2 ^ 27 + 256 * (n / 64 % 2 ^ 14)
        [lineOf a, lineOf a + 1]
      else [])

/-- Those of them that a host cache holds: it gives them up before the entry is written (R416). -/
def almHeld (s : State) : List Nat :=
  (almLines s).filter fun l => s.hostLines.any fun x => decide (x.line = l) && decide (x.st ≠ .i)

/-- Can an entry be appended: ALMBASE is written, some block is free or released (R432, R433), and no host cache holds its
lines? -/
def almRoom (s : State) : Bool :=
  s.alm.base.isSome && decide (s.alm.seq < 2 ^ 20 + 64 * s.alm.released) && decide (almHeld s = [])

/-- An action that waits for the Almanac has the host caches give up its lines. -/
def State.almAsk (s : State) : State := (almHeld s).foldl (fun s l => s.snoop l true) s

/-- The bytes of an entry (R432). -/
def almEntry (s : State) (evt ctx : Nat) (data : List Byte) : List Byte :=
  bytesOf s.alm.seq 8 ++ bytesOf s.eqx.now.toNat 8 ++ bytesOf evt 4 ++ bytesOf ctx 4
    ++ (data ++ List.replicate 40 0).take 40 ++ bytesOf s.alm.prev.toNat 64

/-- Write bytes of the Almanac region. -/
def State.almWrite (s : State) (off : Nat) (data : List Byte) : State :=
  match s.alm.base with
  | none => s
  | some b => { s with mem := cellSetAll s.mem (addrBytes (b + off) data) }

/-- Append an entry there is room for; the last entry of a block is signed (R432). -/
def State.almWriteEntry (s : State) (evt ctx : Nat) (data : List Byte) : State :=
  let e := almEntry s evt ctx data
  let n := s.alm.seq
  let h := sha512 e
  let s1 := s.almWrite (128 * (n % 2 ^ 20)) e
  let s2 := { s1 with alm := { s1.alm with seq := n + 1, prev := BitVec.ofNat 512 (ofBytes h) } }
  if n % 64 = 63 then
    let sig := (Config.ecdsaSign s2.alm.signs h).take 132
    let s3 := s2.almWrite (2 ^ 27 + 256 * (n / 64 % 2 ^ 14)) sig
    { s3 with alm := { s3.alm with signs := s3.alm.signs + 1 } }
  else s2

/-- Append an entry, or let it wait its turn for room (R433). -/
def State.almAppend (s : State) (evt ctx : Nat) (data : List Byte) : State :=
  if almRoom s && s.almWait.isEmpty then s.almWriteEntry evt ctx data
  else { s with almWait := s.almWait ++ [(evt, ctx, data)] }

/-- Write the entries that have waited, as far as there is room. -/
def State.almDrain (s : State) : Nat → State
  | 0 => s
  | n + 1 =>
    match s.almWait with
    | [] => s
    | (evt, ctx, data) :: r =>
      if almRoom s then (({ s with almWait := r }).almWriteEntry evt ctx data).almDrain n else s

/-- Write every waiting entry that has room now. -/
def State.almFlush (s : State) : State := s.almDrain s.almWait.length

/-- ALMBASE_WRITE: the first write since reset places the region; reserved bits are ignored (R432). -/
def execAlmbaseWrite (v : Dword) (s : State) : Host.Outcome State Fault Refusal :=
  match s.alm.base with
  | some _ => .next s
  | none => .next { s with alm := { s.alm with base := some (v &&& 0x000FFFFFFFF00000).toNat } }.almFlush

/-- ALMACK: signed blocks up to `k` may be overwritten (R433). -/
def execAlmack (k : Nat) (s : State) : Host.Outcome State Fault Refusal :=
  .next { s with alm := { s.alm with released := max s.alm.released (min (k + 1) (s.alm.seq / 64)) } }.almFlush

/-- The bytes the Almanac port reads for a selection: an entry, or with bit 63 a block's signature (R433). -/
def almPort (s : State) (sel : Dword) : List Byte :=
  match s.alm.base with
  | none => []
  | some b =>
    if sel.msb then cellList s.mem (b + 2 ^ 27 + 256 * (sel.toNat % 2 ^ 14)) 132
    else cellList s.mem (b + 128 * (sel.toNat % 2 ^ 20)) 128

/-- ALMANAC_PORT_SELECT: choose an entry or a block's signature, which the reader then gets (R433). -/
def execAlmanacPortSelect (v : Dword) (s : State) : Host.Outcome State Fault Refusal :=
  .next { s with alm := { s.alm with port := v }, reply := almPort s v, replyBad := false }

/-! ### Egress (R109, R431) -/

/-- An egress class by number. -/
def State.egressOf (s : State) (c : Nat) : Egress := (s.egress[c]?).getD { rate := 0, burst := 0, total := 0, held := 0, bucket := 0 }

/-- Take tokens for `n` bytes of a class; none when RATE is 0, when the bucket is short, or while the Almanac takes no entry
(R431 to R433). -/
def State.meter (s : State) (c n : Nat) : Option State :=
  if c = 0 then some s
  else
    let e := s.egressOf c
    let crossed := (e.total + n) / 2 ^ 30 ≠ e.total / 2 ^ 30
    if e.rate = 0 ∨ e.bucket < 1000 * n ∨ ¬almRoom s then none
    else
      let s1 := { s with egress := s.egress.set c { e with bucket := e.bucket - 1000 * n, total := e.total + n } }
      some (if crossed then s1.almAppend 0x05 0 (bytesOf c 4 ++ bytesOf (e.total + n) 8) else s1)

/-- Refill the buckets for `ns` nanoseconds, and count them as held for the classes that traffic waits for (R431). -/
def State.refillEgress (s : State) (ns : Nat) : State :=
  let egress := s.egress.zipIdx.map fun x =>
    { x.1 with
      bucket := min (1000 * 1024 * x.1.burst) (x.1.bucket + x.1.rate * ns)
      held := if s.metered.any fun m => m.cls = x.2 then x.1.held + ns else x.1.held }
  { s with egress := egress }

/-- The egress class of a physical address: that of the enabled window of whose aliases it is a part (R109). -/
def egressClass (s : State) (a : Nat) : Nat :=
  match regionOf s a 1 with
  | some (.dec w) => (s.window w).ec
  | _ => match s.windows.find? fun x => x.en && decide (x.raw.toNat ≤ a) && decide (a < x.raw.toNat + x.rawSize) with
    | none => 0
    | some x => x.ec

/-- A window's alias lies at the address. -/
def inWindow (s : State) (a : Nat) : Bool :=
  match regionOf s a 1 with
  | some (.dec _) => true
  | _ => s.windows.any fun x => x.en && decide (x.raw.toNat ≤ a) && decide (a < x.raw.toNat + x.rawSize)

/-- Let metered traffic wait, once. -/
def State.meterWait (s : State) (m : MeterWait) : State :=
  if s.metered.contains m then s else { s with metered := s.metered ++ [m] }

/-- Metered traffic goes on. -/
def State.meterDone (s : State) (w : Waiting) : State := { s with metered := s.metered.filter fun m => m.what ≠ w }

end Sys2Proof.Machine
end

