-- ==== Sys2Proof/Machine/Flags.lean ====
section
/-!
DEFINITION. The conditions of the compares (R215, R235) and the counting of float conditions (R231).

The G4 has no flag register: a compare writes a register or a predicate, and float conditions go to counts.
-/

namespace Sys2Proof.Machine

/-- A condition code of R215 on 32-bit values; codes above 9 are refused before. -/
def intCond (code : Nat) (a b : Word) : Bool :=
  match code with
  | 0 => decide (a = b)
  | 1 => decide (a ≠ b)
  | 2 => decide (a.toInt < b.toInt)
  | 3 => decide (a.toInt ≤ b.toInt)
  | 4 => decide (b.toInt < a.toInt)
  | 5 => decide (b.toInt ≤ a.toInt)
  | 6 => decide (a.toNat < b.toNat)
  | 7 => decide (a.toNat ≤ b.toNat)
  | 8 => decide (b.toNat < a.toNat)
  | 9 => decide (b.toNat ≤ a.toNat)
  | _ => false

/-- Causes of an OPB that holds a condition of R215. -/
def intCondCauses (opb : Nat) : List Nat :=
  (if 10 ≤ opb % 16 then [0x04] else []) ++ (if 16 ≤ opb then [0x02] else [])

/-- A condition code of R235 on FP32 values, with NV (R230, R235). -/
def floatCond (code a b : Nat) : Bool × Conds :=
  let va := fread .f32 a
  let vb := fread .f32 b
  let nan := va.isNan || vb.isNan
  let o := fcompare a b
  let quiet := decide (code = 0 ∨ code = 1 ∨ code = 6 ∨ code = 7)
  let r := match code with
    | 0 => !nan && decide (o = .eq)
    | 1 => nan || decide (o ≠ .eq)
    | 2 => !nan && decide (o = .lt)
    | 3 => !nan && decide (o ≠ .gt)
    | 4 => !nan && decide (o = .gt)
    | 5 => !nan && decide (o ≠ .lt)
    | 6 => !nan
    | _ => nan
  (r, { nv := va.isSnan || vb.isSnan || (nan && !quiet) })

/-- Causes of an OPB that holds a condition of R235. -/
def floatCondCauses (opb : Nat) : List Nat :=
  (if 8 ≤ opb % 16 then [0x04] else []) ++ (if 16 ≤ opb then [0x02] else [])

/-- Add 1 to the counts of the conditions raised, for a core and context (R231). -/
def State.countConds (s : State) (t : Team) (c : Conds) : State :=
  { s with conds :=
      countCond c.nx (condKey t.core t.ctx 4) (countCond c.unf (condKey t.core t.ctx 3)
        (countCond c.ovf (condKey t.core t.ctx 2) (countCond c.dz (condKey t.core t.ctx 1)
          (countCond c.nv (condKey t.core t.ctx 0) s.conds)))) }

end Sys2Proof.Machine
end

