-- ==== Sys2Proof/Machine/Operands.lean ====
section
/-!
DEFINITION. Operand forms: selectors, what is wrong with one, the registers it names, and the value it delivers
(R36 to R39, R44, R213, R214, R229), and the same for destinations.
-/

namespace Sys2Proof.Machine

/-- How an operand's bits are read: integers of a width (packed below 32), or floats of a format (R214, R229). -/
inductive OpTy
  | int (w : Nat)
  | flt (t : FloatTy)
  deriving DecidableEq, Repr, Inhabited

/-- The kind of a source operand; `g` is the number of 32-bit registers it spans (R39). -/
inductive Src
  /-- unused: the field must be zero (R28) -/
  | none
  /-- scalar kind -/
  | scal (ty : OpTy) (g : Nat)
  /-- a scalar register only -/
  | sreg (g : Nat)
  /-- vector kind -/
  | vec (ty : OpTy) (g : Nat)
  /-- predicate kind -/
  | pred
  /-- predicate register only -/
  | preg
  /-- a team's accumulator a0 to a7 -/
  | acc
  /-- three scalars from n on (KMOV.FS) -/
  | triple
  /-- a group of scalar registers s0 to s63, never a temporary (R255) -/
  | plain (g : Nat)
  /-- a field another rule checks -/
  | free
  deriving DecidableEq, Repr, Inhabited

/-- The kind of a destination. -/
inductive Dst
  | none
  | scal (g : Nat)
  | vec (g : Nat)
  | pred
  | acc
  deriving DecidableEq, Repr, Inhabited

/-! ### What is wrong with a selector -/

/-- Can the type hold the constant a selector 0x88 to 0x8D names (R37)? -/
def constAllowed (ty : OpTy) (sel : Nat) : Bool :=
  match ty with
  | .int _ => false
  | .flt t => if sel = 0x8C then t.infBits.isSome else if sel = 0x8D then t.nanBits.isSome else true

/-- Does the type take immediates (R37)? -/
def immAllowed : OpTy → Bool
  | .int _ => true
  | .flt t => decide (t = .f32 ∨ t = .f16 ∨ t = .bf16)

/-- Causes of a selector that names neither a register nor a latch; `laneOk` says 0x85 is allowed. -/
def specialCauses (ty : OpTy) (laneOk : Bool) (sel : Nat) : List Nat :=
  if sel = 0x85 then (if laneOk then [] else [0x03])
  else if 0x84 ≤ sel ∧ sel ≤ 0x87 ∨ sel = 0x8E ∨ sel = 0x8F then []
  else if 0x88 ≤ sel ∧ sel ≤ 0x8D then (if constAllowed ty sel then [] else [0x03])
  else if 0xC0 ≤ sel then (if immAllowed ty then [] else [0x03])
  else [0x03]

/-- A group of `g` registers from `n` of a file of `size` is aligned and fits (R39). -/
def groupOk (g n size : Nat) : Bool := decide (n % g = 0) && decide (n + g ≤ size)

/-- Causes of a latch read for an operand (R44). -/
def latchCauses (alu : Bool) (p : Slot) (n : Nat) (ok : LatchKind → Bool) : List Nat :=
  match p.latch n with
  | some x => if alu && ok x.kind then [] else [0x05]
  | none => [0x05]

/-- The registers a legal source names. -/
def srcRegs (k : Src) (sel : Nat) : List Reg :=
  match k with
  | .none => []
  | .scal _ g =>
    if sel < 0x40 then (List.range g).map fun i => .s (sel + i)
    else if 0x90 ≤ sel ∧ sel < 0x98 then (List.range g).map fun i => .x (sel - 0x90 + i)
    else []
  | .sreg g => if sel < 0x40 then (List.range g).map fun i => .s (sel + i)
    else if 0x90 ≤ sel ∧ sel < 0x98 then (List.range g).map fun i => .x (sel - 0x90 + i)
    else []
  | .vec _ g =>
    if sel < 0x40 then (List.range g).map fun i => .v (sel + i)
    else if sel < 0x80 then (List.range g).map fun i => .s (sel - 0x40 + i)
    else if 0x90 ≤ sel ∧ sel < 0x98 then (List.range g).map fun i => .e (sel - 0x90 + i)
    else []
  | .pred => if sel < 8 then [.k sel] else []
  | .preg => if sel < 8 then [.k sel] else []
  | .acc => []
  | .triple => if sel < 0x3E then (List.range 3).map fun i => .s (sel + i) else []
  | .plain g => if sel < 0x40 then (List.range g).map fun i => .s (sel + i) else []
  | .free => []

/-- Causes of a register group of a file that `inFile` says exists here. -/
def regCauses (g n size : Nat) : List Nat := if groupOk g n size then [] else [0x0A]

/-- What is wrong with a source selector, pending registers apart (R36, R37, R39, R44). -/
def srcForm (inExp alu : Bool) (p : Slot) (k : Src) (sel : Nat) : List Nat :=
  match k with
  | .none => if sel = 0 then [] else [0x02]
  | .scal ty g =>
    if sel < 0x40 then regCauses g sel 64
    else if sel < 0x80 then [0x03]
    else if sel < 0x84 then latchCauses alu p (sel - 0x80) fun x => x = .scalar
    else if 0x90 ≤ sel ∧ sel < 0x98 then (if inExp then regCauses g (sel - 0x90) 8 else [0x03])
    else specialCauses ty false sel
  | .sreg g =>
    if sel < 0x40 then regCauses g sel 64
    else if 0x80 ≤ sel ∧ sel < 0x84 then [0x05]
    else if 0x90 ≤ sel ∧ sel < 0x98 then (if inExp then regCauses g (sel - 0x90) 8 else [0x03])
    else [0x03]
  | .vec ty g =>
    if sel < 0x40 then regCauses g sel 64
    else if sel < 0x80 then regCauses g (sel - 0x40) 64
    else if sel < 0x84 then latchCauses alu p (sel - 0x80) fun x => x = .scalar ∨ x = .vector
    else if 0x90 ≤ sel ∧ sel < 0x98 then (if inExp then regCauses g (sel - 0x90) 8 else [0x03])
    else specialCauses ty true sel
  | .pred =>
    if sel < 8 then []
    else if 0x80 ≤ sel ∧ sel < 0x84 then latchCauses alu p (sel - 0x80) fun x => x = .pred
    else [0x03]
  | .preg => if sel < 8 then [] else if 0x80 ≤ sel ∧ sel < 0x84 then [0x05] else [0x03]
  | .acc => if sel < 8 then [] else [0x03]
  | .triple => if sel < 0x3E then [] else [0x03]
  | .plain g =>
    if sel < 0x40 then regCauses g sel 64 else if 0x80 ≤ sel ∧ sel < 0x84 then [0x05] else [0x03]
  | .free => []

/-- Everything wrong with a source: its form, and pending registers it would read (R50). -/
def srcCauses (v : View) (alu : Bool) (k : Src) (sel : BitVec 8) : List Nat :=
  srcForm v.inExp alu v.p k sel.toNat
    ++ (if (srcRegs k sel.toNat).any v.p.pending then [0x06] else [])

/-- The registers a legal destination names. -/
def dstRegs (k : Dst) (sel : Nat) : List Reg :=
  match k with
  | .none => []
  | .scal g =>
    if sel < 0x40 then (List.range g).map fun i => .s (sel + i)
    else (List.range g).map fun i => .x (sel - 0x90 + i)
  | .vec g =>
    if sel < 0x40 then (List.range g).map fun i => .v (sel + i)
    else (List.range g).map fun i => .e (sel - 0x90 + i)
  | .pred => if sel = 0 then [] else [.k sel]
  | .acc => []

/-- What is wrong with a destination selector; `late` says a long-latency result is written there, which may not be
s60 to s62: an aligned group that holds one of them starts at one (R38, R39). -/
def dstForm (inExp late : Bool) (k : Dst) (sel : Nat) : List Nat :=
  match k with
  | .none => if sel = 0 then [] else [0x02]
  | .scal g =>
    if sel < 0x40 then regCauses g sel 64 ++ (if late && decide (60 ≤ sel ∧ sel ≤ 62) then [0x03] else [])
    else if 0x90 ≤ sel ∧ sel < 0x98 ∧ inExp then regCauses g (sel - 0x90) 8
    else [0x03]
  | .vec g =>
    if sel < 0x40 then regCauses g sel 64
    else if 0x90 ≤ sel ∧ sel < 0x98 ∧ inExp then regCauses g (sel - 0x90) 8
    else [0x03]
  | .pred => if sel < 8 then [] else [0x03]
  | .acc => if sel < 8 then [] else [0x03]

/-- Everything wrong with a destination of an operation whose result is of class `cls` (R50). -/
def dstCauses (v : View) (cls : Option ResClass) (k : Dst) (sel : BitVec 8) : List Nat :=
  dstForm v.inExp cls.isSome k sel.toNat
    ++ (if (dstRegs k sel.toNat).any (v.p.pendingOther cls) then [0x07] else [])

/-- A guard register pending in the slot is a pending-register read (R40). -/
def guardCauses (v : View) (c : Ctl) : List Nat :=
  if c.kp ≠ 0 ∧ v.p.pending (.k c.kp.toNat) = true then [0x06] else []

/-- Causes of CH, NW, KP and KN on an operation that allows neither CH nor NW nor a guard (R40, R42). -/
def bareCauses (c : Ctl) : List Nat := if c.ch || c.nw || decide (c.kp ≠ 0) || c.kn then [0x02] else []

/-- Causes where CH is allowed but NW is not (R41). -/
def noNwCauses (c : Ctl) : List Nat := if c.nw then [0x02] else []

/-- Causes where neither CH nor NW is allowed (class 6). -/
def noChNwCauses (c : Ctl) : List Nat := if c.ch || c.nw then [0x02] else []

/-! ### Values -/

/-- The element width in which a type delivers a special value, and the width of the whole operand (R214, R229). -/
def OpTy.elemWidth : OpTy → Nat
  | .int w => w
  | .flt t => t.width

/-- A value in every element of a lane, or once in a 64-bit operand. -/
def replicateElem (w : Nat) (x : Nat) : Dword :=
  if w = 32 ∨ 64 ≤ w then BitVec.ofNat 64 x
  else (packElems w fun _ => BitVec.ofNat w x).zeroExtend 64

/-- The float constant of a selector 0x88 to 0x8D in a format (R37). -/
def floatConst (t : FloatTy) (sel : Nat) : Nat :=
  match sel with
  | 0x88 => (roundTo t .rne false false 1 0).1
  | 0x89 => (roundTo t .rne false true 1 0).1
  | 0x8A => (roundTo t .rne false false 1 (-1)).1
  | 0x8B => (roundTo t .rne false false 1 1).1
  | 0x8C => t.infBits.getD 0
  | _ => t.nan

/-- The value of an immediate selector, -32 to 31 (R37). -/
def immValue (sel : Nat) : Int := ((BitVec.ofNat 6 (sel - 0xC0)).toInt)

/-- The value of a selector that names neither a register nor a latch (R36, R37); `g` 2 is a 64-bit operand. -/
def specialValue (v : View) (ty : OpTy) (g lane sel : Nat) : Dword :=
  let whole := if g = 1 then ty.elemWidth else 64
  match sel with
  | 0x84 => 0
  | 0x85 => replicateElem whole lane
  | 0x86 => replicateElem whole v.sl.wave
  | 0x87 => if g = 1 then 0xFFFFFFFF else BitVec.allOnes 64
  | 0x8E => replicateElem whole v.t.num
  | 0x8F => replicateElem whole v.t.stage
  | _ =>
    match ty with
    | .int _ =>
      if g = 1 then
        (if whole = 32 then (BitVec.ofInt 32 (immValue sel)).zeroExtend 64
         else replicateElem whole (BitVec.ofInt whole (immValue sel)).toNat)
      else BitVec.ofInt 64 (immValue sel)
    | .flt t =>
      if sel < 0xC0 then replicateElem t.width (floatConst t sel)
      else replicateElem t.width (intToFloat t .rne false (immValue sel)).1

/-- Two registers as one 64-bit value, the lower register first (R3). -/
def pairOf (lo hi : Word) : Dword := hi.zeroExtend 64 <<< 32 ||| lo.zeroExtend 64

/-- A temporary register of the slot's expansion. -/
def readXReg (p : Slot) (n : Nat) : Word := match p.exp with
  | some x => cellGet x.x n
  | none => 0

/-- A lane of a vector temporary of the slot's expansion. -/
def readEReg (p : Slot) (n l : Nat) : Word := match p.exp with
  | some x => laneGet x.e n l
  | none => 0

/-- The value of latch `n` at key `lane`, cut to the operand's width (R44). -/
def latchValue (p : Slot) (n g lane : Nat) : Dword :=
  match p.latch n with
  | none => 0
  | some x =>
    let y := cellGet x.val (if x.kind = .scalar then 0 else lane)
    if g = 1 then y &&& 0xFFFFFFFF else y

/-- Register `i` of the group a scalar selector names. -/
def readScalarReg (v : View) (sel i : Nat) : Word :=
  if sel < 0x40 then readSReg v.w v.p (sel + i) else readXReg v.p (sel - 0x90 + i)

/-- A scalar operand of 32 (`g` 1) or 64 bits. -/
def readScal (v : View) (ty : OpTy) (g : Nat) (sel : BitVec 8) : Dword :=
  let n := sel.toNat
  if n < 0x40 ∨ (0x90 ≤ n ∧ n < 0x98) then
    if g = 1 then (readScalarReg v n 0).zeroExtend 64 else pairOf (readScalarReg v n 0) (readScalarReg v n 1)
  else if n < 0x84 then latchValue v.p (n - 0x80) g 0
  else specialValue v ty g 0 n

/-- A 32-bit integer scalar operand. -/
def readS32 (v : View) (sel : BitVec 8) : Word := (readScal v (.int 32) 1 sel).truncate 32

/-- A 64-bit integer scalar operand. -/
def readS64 (v : View) (sel : BitVec 8) : Dword := readScal v (.int 32) 2 sel

/-- Four scalar registers, lowest first. -/
def readQuad (v : View) (sel : BitVec 8) : BitVec 128 :=
  (pairOf (readScalarReg v sel.toNat 2) (readScalarReg v sel.toNat 3)).zeroExtend 128 <<< 64
    ||| (pairOf (readScalarReg v sel.toNat 0) (readScalarReg v sel.toNat 1)).zeroExtend 128

/-- Register `i` of the group a vector register selector names, in a lane. -/
def readVectorReg (v : View) (sel i lane : Nat) : Word :=
  if sel < 0x40 then laneGet v.w.v (sel + i) lane
  else if sel < 0x80 then readSReg v.w v.p (sel - 0x40 + i)
  else readEReg v.p (sel - 0x90 + i) lane

/-- A vector operand of 32 or 64 bits in a lane. -/
def readVec (v : View) (ty : OpTy) (g : Nat) (sel : BitVec 8) (lane : Nat) : Dword :=
  let n := sel.toNat
  if n < 0x80 ∨ (0x90 ≤ n ∧ n < 0x98) then
    if g = 1 then (readVectorReg v n 0 lane).zeroExtend 64
    else pairOf (readVectorReg v n 0 lane) (readVectorReg v n 1 lane)
  else if n < 0x84 then latchValue v.p (n - 0x80) g lane
  else specialValue v ty g lane n

/-- A 32-bit vector operand in a lane, integers of width `w`. -/
def readV32 (v : View) (w : Nat) (sel : BitVec 8) (lane : Nat) : Word :=
  (readVec v (.int w) 1 sel lane).truncate 32

/-- A predicate operand. -/
def readPred (v : View) (sel : BitVec 8) : Lanes :=
  let n := sel.toNat
  if n < 8 then readKReg v.w n
  else match v.p.latch (n - 0x80) with
  | none => 0
  | some x => x.val.foldl (fun m c => m ||| (1 <<< c.1)) 0

/-! ### Writing destinations -/

/-- Write register `i` of a scalar destination group. -/
def writeScalarReg (w : Wave) (b : Bool) (sel i : Nat) (x : Word) : Wave :=
  if sel < 0x40 then writeSReg w b (sel + i) x
  else
    let p := w.slot b
    match p.exp with
    | none => w
    | some y => w.setSlot b { p with exp := some { y with x := cellSet y.x (sel - 0x90 + i) x } }

/-- Write a scalar destination of `g` registers, lowest first. -/
def writeScal (w : Wave) (b : Bool) (g : Nat) (sel : BitVec 8) (x : BitVec 128) : Wave :=
  (List.range g).foldl (fun w i => writeScalarReg w b sel.toNat i (x.extractLsb' (32 * i) 32)) w

/-- Write a vector destination of `g` registers in the lanes `act`. -/
def writeVec (w : Wave) (b : Bool) (g : Nat) (sel : BitVec 8) (act : Lanes) (f : Nat → Dword) : Wave :=
  (List.range g).foldl (fun w i =>
    let n := sel.toNat
    if n < 0x40 then { w with v := lanesSet w.v (n + i) act fun l => (f l).extractLsb' (32 * i) 32 }
    else
      let p := w.slot b
      match p.exp with
      | none => w
      | some y => w.setSlot b { p with exp := some { y with
          e := lanesSet y.e (n - 0x90 + i) act fun l => (f l).extractLsb' (32 * i) 32 } }) w

/-! ### Results bound at issue (R48, R49) -/

/-- An outstanding result that will write the vector group `sel` in the lanes `act`. -/
def Pend.vec (c : ResClass) (sel : BitVec 8) (g : Nat) (act : Lanes) (f : Nat → Nat → Word) : Pend :=
  let n := sel.toNat
  let regs := (List.range g).map fun i => (if n < 0x40 then n else n - 0x90) + i
  let writes := (List.range g).foldl (fun m i =>
    lanesSet m ((if n < 0x40 then n else n - 0x90) + i) act fun l => f i l) []
  if n < 0x40 then { Pend.empty c with vMarks := regs, vWrites := writes, vLanes := act }
  else { Pend.empty c with inExp := true, eMarks := regs, eWrites := writes, vLanes := act }

/-- An outstanding result that will write the scalar group `sel`; without `x` it only clears the marks. -/
def Pend.scal (c : ResClass) (sel : BitVec 8) (g : Nat) (x : Option (BitVec 128)) : Pend :=
  let n := sel.toNat
  let regs := (List.range g).map fun i => (if n < 0x40 then n else n - 0x90) + i
  let writes := match x with
    | none => []
    | some y => (List.range g).map fun i => ((if n < 0x40 then n else n - 0x90) + i, y.extractLsb' (32 * i) 32)
  if n < 0x40 then { Pend.empty c with sMarks := regs, sWrites := writes }
  else { Pend.empty c with inExp := true, xMarks := regs, xWrites := writes }

/-- An outstanding result that will write predicate `sel` in the lanes `act`. -/
def Pend.pred (c : ResClass) (sel : BitVec 8) (act x : Lanes) : Pend :=
  { Pend.empty c with kMarks := if sel = 0 then [] else [sel.toNat], kWrite := some (sel.toNat, act, x) }

/-- Does a further result of a class have to wait at issue (R49)? -/
def View.full (v : View) (c : ResClass) : Bool := decide (64 ≤ v.p.count c)

end Sys2Proof.Machine
end

