-- ==== Sys2Proof/Machine/Special.lean ====
section
/-!
DEFINITION. The special functions (R240 to R242).

An input that R242 lists gives its exact result.
For any other input R241 gives a bound around the exact real value f(x); the result is a free value inside it:
`Config.sfPick` chooses among the FP32 values of an enclosure of that bound, the same for the same input.
An enclosure is computed in fixed point with `2^-200` spacing and is never tighter than the bound.
-/

namespace Sys2Proof.Machine

/-- The special functions by OP - 0x30 (R240). -/
inductive SpecialFn
  | rcp | rsq | sqrt | exp2 | log2 | sin | cos | tanh
  deriving DecidableEq, Repr, Inhabited

/-- The number by which `Config.sfPick` knows a function. -/
def SpecialFn.number : SpecialFn → Nat
  | .rcp => 0 | .rsq => 1 | .sqrt => 2 | .exp2 => 3 | .log2 => 4 | .sin => 5 | .cos => 6 | .tanh => 7

/-! ### Fixed point -/

/-- Floor of the square root, from `b` base-4 digits. -/
def isqrtDigits (n : Nat) : Nat → Nat
  | 0 => 0
  | b + 1 =>
    let r := 2 * isqrtDigits (n / 4) b
    if (r + 1) * (r + 1) ≤ n then r + 1 else r

/-- Floor of the square root. -/
def isqrt (n : Nat) : Nat := isqrtDigits n (Nat.log2 n / 2 + 1)

/-- Fraction bits of the fixed-point values below. -/
def fixBits : Nat := 200

/-- One in fixed point. -/
def fixOne : Nat := 2 ^ fixBits

/-- The circle constant, floor at `2^-200`. -/
def fixPi : Nat := 0x3243f6a8885a308d313198a2e03707344a4093822299f31d008

/-- The natural logarithm of 2, floor at `2^-200`. -/
def fixLn2 : Nat := 0xb17217f7d1cf79abc9e3b39803f2f6af40f343267298b62d8a

/-- The sum of the terms `term * y^j / (i+1)...(i+j)`: with term 1 and i 0, e to the y. -/
def expTerms (y : Nat) : Nat → Nat → Nat → Nat
  | 0, _, term => term
  | fuel + 1, i, term => term + expTerms y fuel (i + 1) (term * y / fixOne / (i + 1))

/-- e to the y for a fixed-point y below 1; low by at most `2^-180`. -/
def fixExp (y : Nat) : Nat := expTerms y 60 0 fixOne

/-- Square `n` times. -/
def fixSquare : Nat → Nat → Nat
  | 0, y => y
  | n + 1, y => fixSquare n (y * y / fixOne)

/-- `t - t*y2/((i+1)(i+2)) + ...`, alternating: a sine or cosine series. -/
def altTerms (y2 : Nat) : Nat → Nat → Int → Int
  | 0, _, t => t
  | fuel + 1, i, t => t + altTerms y2 fuel (i + 2) (-(t * y2 / fixOne) / ((i + 1) * (i + 2) : Nat))

/-- Sine of a fixed-point angle below 2. -/
def fixSin (y : Nat) : Int := altTerms (y * y / fixOne) 40 1 y

/-- Cosine of a fixed-point angle below 2. -/
def fixCos (y : Nat) : Int := altTerms (y * y / fixOne) 40 0 fixOne

/-- The sine of half a turn times `r`, for `r` in fixed point. -/
def fixSinPi (r : Int) : Int :=
  let u := (r % (2 * fixOne)).toNat * 2
  let a := (u % fixOne) * fixPi / 2 / fixOne
  match u / fixOne with
  | 0 => fixSin a
  | 1 => fixCos a
  | 2 => -fixSin a
  | _ => -fixCos a

/-- `n` more binary digits of the logarithm of `y`, with `y` in [1, 2) at `2^-400`. -/
def logDigits : Nat → Nat → Nat → Nat
  | 0, _, acc => acc
  | n + 1, y, acc =>
    let z := y * y / 2 ^ 400
    if 2 ^ 401 ≤ z then logDigits n (z / 2) (2 * acc + 1) else logDigits n z (2 * acc)

/-- The base-2 logarithm of `m * 2^e` with 100 fraction bits, low by at most `2^-99`. -/
def logFix (m : Nat) (e : Int) : Int :=
  let l := Nat.log2 m
  (e + l) * 2 ^ 100 + logDigits 100 (m * 2 ^ 400 / 2 ^ l) 0

/-- `m * 2^e` in fixed point, floor. -/
def toFix (neg : Bool) (m : Nat) (e : Int) : Int :=
  let x : Int := if neg then -(m : Int) else m
  let k := e + fixBits
  if 0 ≤ k then x * 2 ^ k.toNat else x / 2 ^ (-k).toNat

/-! ### Choosing inside a bound -/

/-- An enclosure: the exact value lies between `lo * 2^e` and `hi * 2^e`. -/
structure Enclosure where
  lo : Int
  hi : Int
  e : Int
  deriving DecidableEq, Repr

/-- FP32 values in order: a nonnegative one is its encoding, a negative one minus its magnitude. -/
def f32Index (bits : Nat) : Int := if 2 ^ 31 ≤ bits then -((bits - 2 ^ 31 : Nat) : Int) else bits

/-- The FP32 encoding at an index; at zero the sign is `neg`. -/
def f32OfIndex (neg : Bool) (i : Int) : Nat :=
  FloatTy.f32.signed (if i = 0 then neg else decide (i < 0)) i.natAbs

/-- Index of the FP32 value next to `m * 2^e` in mode `md`. -/
def f32Near (md : RMode) (m e : Int) : Int := f32Index (roundTo .f32 md false (decide (m < 0)) m.natAbs e).1

/-- The result with the conditions of R241: it differs from f(x), and UF and OF follow R75. -/
def sfInexact (bits : Nat) : Nat × Conds :=
  let mag := bits % 2 ^ 31
  (bits, { nx := true, unf := decide (mag < 2 ^ 23), ovf := decide (mag = 0x7F800000) })

/-- A free FP32 value between two indices. One that is subnormal is free in the bound too, not f(x) rounded under RNE: the model's
choice (log entry 24). -/
def sfBetween (fn : SpecialFn) (x : Word) (neg : Bool) (a b : Int) : Nat × Conds :=
  sfInexact (f32OfIndex neg (a + (Config.sfPick fn.number x % ((b - a).toNat + 1) : Nat)))

/-- A free value within `2^t` of the enclosure. -/
def sfWithin (fn : SpecialFn) (x : Word) (c : Enclosure) (t : Int) : Nat × Conds :=
  let e := min c.e t
  let tol : Int := 2 ^ (t - e).toNat
  let k : Int := 2 ^ (c.e - e).toNat
  sfBetween fn x (decide (c.hi < 0)) (f32Near .rup (c.lo * k - tol) e) (f32Near .rdn (c.hi * k + tol) e)

/-- A free value within 2 units in the last place of the enclosure (R241). -/
def sfTwoUlp (fn : SpecialFn) (x : Word) (c : Enclosure) : Nat × Conds :=
  sfWithin fn x c (spacing .f32 c.hi.natAbs c.e + 1)

/-- One of the two FP32 values nearest a positive `s * 2^e` that is no FP32 value, given 100 bits of it (R241); so for a subnormal
result too, the model's choice (log entry 24). -/
def sfNearestTwo (fn : SpecialFn) (x : Word) (neg : Bool) (s : Nat) (e : Int) : Nat × Conds :=
  let r := roundTo .f32 .rne false neg s e
  if r.2.ovf then r
  else
    let a := (roundTo .f32 .rtz false false s e).1
    if a = FloatTy.f32.maxBits then sfInexact (FloatTy.f32.signed neg a)
    else
      -- below a power of two the spacing halves, so the next value down may be nearer than the next one up
      let q := spacing .f32 s e
      let up := dyLt (2 ^ 25 + 1) (q - 2) s e
      let lo := if a % 2 ^ 23 = 0 ∧ 2 ^ 23 < a ∧ !up then a - 1 else a
      sfInexact (FloatTy.f32.signed neg (lo + Config.sfPick fn.number x % 2))

/-! ### The functions -/

/-- A power of two, 4 or not: the exponent of `m * 2^e` if `m * 2^e` is a power of two. -/
def powerOfTwo (m : Nat) (e : Int) : Option Int := if 2 ^ Nat.log2 m = m then some (e + Nat.log2 m) else none

/-- Twice `m * 2^e` as an integer, where it is one. -/
def twiceInt (neg : Bool) (m : Nat) (e : Int) : Option Int :=
  let s : Int := if neg then -1 else 1
  if 0 ≤ e + 1 then some (s * m * 2 ^ (e + 1).toNat)
  else if m % 2 ^ (-(e + 1)).toNat = 0 then some (s * (m / 2 ^ (-(e + 1)).toNat : Nat))
  else none

/-- The canonical NaN, with NV. -/
def sfInvalid : Nat × Conds := (FloatTy.f32.nan, { nv := true })

/-- FP32 encodings of 1.0 and infinity. -/
def f32One : Nat := 0x3F800000

/-- FP32 +infinity. -/
def f32Inf : Nat := 0x7F800000

/-- VRCP of a finite nonzero value. -/
def sfRcp (x : Word) (neg : Bool) (m : Nat) (e : Int) : Nat × Conds :=
  match powerOfTwo m e with
  | some n => roundTo .f32 .rne false neg 1 (-n)
  | none => sfNearestTwo .rcp x neg (2 ^ 160 / m) (-e - 160)

/-- VRSQ of a positive finite value. -/
def sfRsq (x : Word) (m : Nat) (e : Int) : Nat × Conds :=
  let k : Nat := if e % 2 = 0 then 320 else 321
  match powerOfTwo m e with
  | some n =>
    if n % 2 = 0 then roundTo .f32 .rne false false 1 (-(n / 2))
    else sfNearestTwo .rsq x false (isqrt (2 ^ k / m)) (-(e + k) / 2)
  | none => sfNearestTwo .rsq x false (isqrt (2 ^ k / m)) (-(e + k) / 2)

/-- VSQRT of a positive finite value: correctly rounded (R241). -/
def sfSqrt (m : Nat) (e : Int) : Nat × Conds :=
  let k : Nat := if e % 2 = 0 then 120 else 121
  let n := m * 2 ^ k
  let s := isqrt n
  roundTo .f32 .rne false false (2 * s + if s * s = n then 0 else 1) ((e - k) / 2 - 1)

/-- VEXP2 of a finite nonzero value. -/
def sfExp2 (x : Word) (neg : Bool) (m : Nat) (e : Int) : Nat × Conds :=
  let y := toFix neg m e
  if 128 * (fixOne : Int) ≤ y then (f32Inf, { ovf := true, nx := true })
  else if y < -150 * (fixOne : Int) then (0, { unf := true, nx := true })
  else
    let n := y / fixOne
    let r := (y % fixOne).toNat
    if r = 0 ∧ -149 ≤ n ∧ twiceInt neg m e ≠ none then roundTo .f32 .rne false false 1 n
    else
      let v := fixExp (r * fixLn2 / fixOne)
      sfTwoUlp .exp2 x { lo := v, hi := v + 2 ^ 40, e := n - fixBits }

/-- VLOG2 of a positive finite value. -/
def sfLog2 (x : Word) (m : Nat) (e : Int) : Nat × Conds :=
  match powerOfTwo m e with
  | some n => roundTo .f32 .rne false (decide (n < 0)) n.natAbs 0
  | none =>
    let v := logFix m e
    let c : Enclosure := { lo := v, hi := v + 4, e := -100 }
    if f32One - 2 ^ 23 ≤ x.toNat ∧ x.toNat ≤ f32One + 2 ^ 23 then sfWithin .log2 x c (-22) else sfTwoUlp .log2 x c

/-- VSIN of a finite nonzero value. -/
def sfSin (x : Word) (neg : Bool) (m : Nat) (e : Int) : Nat × Conds :=
  match twiceInt neg m e with
  | some t =>
    if t % 2 = 0 then (FloatTy.f32.signed neg 0, {})
    else (FloatTy.f32.signed (decide (t % 4 = 3)) f32One, {})
  | none =>
    let v := fixSinPi (toFix neg m e)
    sfWithin .sin x { lo := v - 2 ^ 40, hi := v + 2 ^ 40, e := -fixBits } (-22)

/-- VCOS of a finite nonzero value. -/
def sfCos (x : Word) (neg : Bool) (m : Nat) (e : Int) : Nat × Conds :=
  match twiceInt neg m e with
  | some t =>
    if t % 2 = 0 then (FloatTy.f32.signed (decide (t % 4 = 2)) f32One, {})
    else (0, {})
  | none =>
    let v := fixSinPi (toFix neg m e + 2 ^ (fixBits - 1))
    sfWithin .cos x { lo := v - 2 ^ 40, hi := v + 2 ^ 40, e := -fixBits } (-22)

/-- Give a result the sign of the operand of an odd function. -/
def withSign (neg : Bool) (r : Nat × Conds) : Nat × Conds := (FloatTy.f32.signed neg (r.1 % 2 ^ 31), r.2)

/-- VTANH of a finite nonzero value. -/
def sfTanh (x : Word) (neg : Bool) (m : Nat) (e : Int) : Nat × Conds :=
  let y := (toFix false m e).toNat
  if 73 * fixOne ≤ 8 * y then sfInexact (FloatTy.f32.signed neg f32One)
  else if y < 2 ^ (fixBits - 20) then
    -- x - x^3/3 < tanh x < x
    let k := (-(2 * e)).toNat
    let a : Int := 4 * (m : Int) * 2 ^ k
    withSign neg (sfTwoUlp .tanh x { lo := a - 4 * (m * m * m / 3 + 1 : Nat), hi := a - 1, e := 3 * e - 2 })
  else
    let g := fixSquare 5 (fixExp (y / 16))
    let v := (g - fixOne) * fixOne / (g + fixOne)
    withSign neg (sfTwoUlp .tanh x { lo := (v : Int) - 2 ^ 40, hi := (v : Int) + 2 ^ 40, e := -fixBits })

/-- A special function of an FP32 value (R241, R242). -/
def specialFn (fn : SpecialFn) (x : Word) : Nat × Conds :=
  match fread .f32 x.toNat, fn with
  | .nan q, _ => (FloatTy.f32.nan, { nv := q })
  | .inf n, .rcp => (FloatTy.f32.signed n 0, {})
  | .inf false, .rsq => (0, {})
  | .inf false, .sqrt => (f32Inf, {})
  | .inf false, .log2 => (f32Inf, {})
  | .inf n, .exp2 => (if n then 0 else f32Inf, {})
  | .inf n, .tanh => (FloatTy.f32.signed n f32One, {})
  | .inf _, _ => sfInvalid
  | .fin n 0 _, .rcp => (FloatTy.f32.signed n f32Inf, { dz := true })
  | .fin n 0 _, .rsq => (FloatTy.f32.signed n f32Inf, { dz := true })
  | .fin n 0 _, .sqrt => (FloatTy.f32.signed n 0, {})
  | .fin _ 0 _, .exp2 => (f32One, {})
  | .fin _ 0 _, .log2 => (FloatTy.f32.signed true f32Inf, { dz := true })
  | .fin n 0 _, .sin => (FloatTy.f32.signed n 0, {})
  | .fin _ 0 _, .cos => (f32One, {})
  | .fin n 0 _, .tanh => (FloatTy.f32.signed n 0, {})
  | .fin n m e, .rcp => sfRcp x n m e
  | .fin n m e, .rsq => if n then sfInvalid else sfRsq x m e
  | .fin n m e, .sqrt => if n then sfInvalid else sfSqrt m e
  | .fin n m e, .exp2 => sfExp2 x n m e
  | .fin n m e, .log2 => if n then sfInvalid else sfLog2 x m e
  | .fin n m e, .sin => sfSin x n m e
  | .fin n m e, .cos => sfCos x n m e
  | .fin n m e, .tanh => sfTanh x n m e

end Sys2Proof.Machine
end

