-- ==== Sys2Proof/Machine/Alu.lean ====
section
/-!
DEFINITION. The shared course of the ALU-class operations, the special functions and the cross-lane operations: their
field checks (R212, R228), and what issuing one does to the slot.
-/

namespace Sys2Proof.Machine

/-- What the entry of a class 0 or 1 operation accepts: operand kinds, type codes, whether it takes RM and SAT, and
what is wrong with an OPB. -/
structure AluForm where
  d : Dst
  a : Src
  b : Src
  c : Src
  tys : List Nat
  rm : Bool
  sat : Bool
  opb : Nat → List Nat

/-- An OPB that must be zero. -/
def opbZero (opb : Nat) : List Nat := if opb = 0 then [] else [0x02]

/-- Causes of TY, RM, SAT and OPB (R212, R228). -/
def AluForm.fieldCauses (m : AluForm) (f : FmtA) : List Nat :=
  (if m.tys.contains f.ty.toNat then [] else [0x04]) ++ (if !m.rm && decide (f.rm ≠ 0) then [0x04] else [])
    ++ (if !m.sat && f.sat then [0x04] else []) ++ m.opb f.opb.toNat

/-- Causes of the operands. -/
def AluForm.sourceCauses (m : AluForm) (alu : Bool) (f : FmtA) (v : View) : List Nat :=
  srcCauses v alu m.a f.sa ++ srcCauses v alu m.b f.sb ++ srcCauses v alu m.c f.sc

/-- Everything wrong with an ALU-class operation: with NW the destination must be 0x00 and nothing is written
(R41). A vector register is read and written in the lanes of `active` only, so a mark in other lanes is not met (R50,
R240, R243). -/
def AluForm.aluCauses (m : AluForm) (f : FmtA) (v : View) : List Nat :=
  let u := v.within (v.active f.c)
  m.fieldCauses f ++ guardCauses v f.c ++ m.sourceCauses true f u
    ++ (if f.c.nw then (if f.d = 0 then [] else [0x02]) else dstCauses u none m.d f.d)

/-- The result of an ALU-class operation. -/
inductive AluResult
  | scal (g : Nat) (x : Dword)
  | vec (g : Nat) (f : Nat → Dword)
  | pred (x : Lanes)

/-- The lanes where `f` holds, among `act`. -/
def lanesWhere (act : Lanes) (f : Nat → Bool) : Lanes :=
  (List.range 96).foldl (fun m l => if act.getLsbD l && f l then m ||| (1 <<< l) else m) 0

/-- A value in each lane of `act`, zeros unlisted. -/
def lanesCells (act : Lanes) (f : Nat → Dword) : Cells 64 :=
  (List.range 96).foldr (fun l r => if act.getLsbD l then cellCons l (f l) r else r) []

/-- The latch an ALU-class operation pushes: zero outside `active` (R43). -/
def AluResult.latch (act : Lanes) : AluResult → Latch
  | .scal g x => { kind := .scalar, wide := decide (g = 2), val := if act = 0 then [] else cellCons 0 x [] }
  | .vec g f => { kind := .vector, wide := decide (g = 2), val := lanesCells act f }
  | .pred x => { kind := .pred, wide := false, val := lanesCells (act &&& x) fun _ => 1 }

/-- Write an ALU result to its destination, in `active` (R208). -/
def AluResult.write (w : Wave) (b : Bool) (sel : BitVec 8) (act : Lanes) : AluResult → Wave
  | .scal g x => if act = 0 then w else writeScal w b g sel (x.zeroExtend 128)
  | .vec g f => writeVec w b g sel act f
  | .pred x => writeKReg w sel.toNat act x

/-- `active` of an ALU-class operation; over the owned lanes when it writes the mask (R207). -/
def aluActive (m : AluForm) (f : FmtA) (v : View) : Lanes :=
  match m.d with
  | .scal _ =>
    if !f.c.nw && decide (60 ≤ f.d.toNat ∧ f.d.toNat ≤ 62) then v.p.owned &&& guardLanes v.w f.c else v.active f.c
  | _ => v.active f.c

/-- Issue an ALU-class operation: write the result unless NW, push it, go on (R40 to R43). -/
def aluRun (m : AluForm) (f : FmtA) (r : View → AluResult) (v : View) (s : State) : State :=
  let act := aluActive m f v
  let w := if f.c.nw then v.w else (r v).write v.w v.sl.b f.d act
  let p := ((w.slot v.sl.b).push ((r v).latch act)).chainStep f.c.ch
  s.putWave v (w.setSlot v.sl.b p.retire)

/-- An ALU-class operation that raises no condition. -/
def alu (m : AluForm) (f : FmtA) (r : View → AluResult) (s : State) : Host.Outcome State Fault Refusal :=
  issue s (m.aluCauses f) (fun _ => false) fun v => aluRun m f r v s

/-- The conditions raised in the lanes of `act`. -/
def condsOver (act : Lanes) (g : Nat → Conds) : Conds :=
  (List.range 96).foldl (fun c l => if act.getLsbD l then c.or (g l) else c) {}

/-- An ALU-class operation that records conditions lane by lane (R231). -/
def aluFloat (m : AluForm) (f : FmtA) (r : View → AluResult) (g : View → Nat → Conds) (s : State) :
    Host.Outcome State Fault Refusal :=
  issue s (m.aluCauses f) (fun _ => false) fun v =>
    (aluRun m f r v s).countConds v.t (condsOver (v.active f.c) (g v))

/-! ### Tracked results (R48 to R50, R240, R243) -/

/-- A slot after an operation that is not ALU-class: latches invalid, the chain goes on or ends, the next word. -/
def Slot.afterOther (p : Slot) (ch : Bool) : Slot := (p.dropLatches.chainStep ch).retire

/-- Everything wrong with an operation of class 1 whose result is tracked. A cross-lane operation may read any lane of its
sources, and a special function those of `active`; a result that is pending in no lane stands in neither's way (R240, R243). -/
def AluForm.lateCauses (m : AluForm) (c : ResClass) (f : FmtA) (v : View) : List Nat :=
  let u := v.within (v.active f.c)
  m.fieldCauses f ++ noNwCauses f.c ++ guardCauses v f.c ++ m.sourceCauses false f (if c = .xl then v.within (BitVec.allOnes 96) else u)
    ++ dstCauses u (some c) m.d f.d

/-- The result an operation of class sf or xl leaves outstanding: in the order of issue, and pending in the lanes of
`active` (R208, R240, R243). -/
def lateResult (f : FmtA) (q : View → Pend) (v : View) : Pend := { v.ordered (q v) with mLanes := v.active f.c }

/-- Issue an operation with a tracked result bound now. -/
def lateRun (f : FmtA) (q : View → Pend) (v : View) (s : State) : State :=
  s.putSlot v ((v.p.addPend (lateResult f q v)).afterOther f.c.ch)

/-- An operation of class 1 with a tracked result. -/
def late (m : AluForm) (c : ResClass) (f : FmtA) (q : View → Pend) (g : View → Conds) (s : State) :
    Host.Outcome State Fault Refusal :=
  issue s (m.lateCauses c f) (fun v => v.full c) fun v => (lateRun f q v s).countConds v.t (g v)

end Sys2Proof.Machine
end

