-- ==== Sys2Proof/Machine/Scalar.lean ====
section
/-!
DEFINITION. The scalar operations, class 0 (R216 to R221).
-/

namespace Sys2Proof.Machine

/-- Type codes of the 32-bit integer operations: none, .s32, .z32 (R216). -/
def tys32 : List Nat := [0, 3, 7]

/-- Type codes of the 64-bit operations: none, .s64, .z64 (R221). -/
def tys64 : List Nat := [0, 4, 8]

/-- A 32-bit scalar source. -/
def srcS32 : Src := .scal (.int 32) 1

/-- A 64-bit scalar source. -/
def srcS64 : Src := .scal (.int 32) 2

/-- The form of a scalar operation of two sources. -/
def scalForm2 : AluForm :=
  { d := .scal 1, a := srcS32, b := srcS32, c := .none, tys := tys32, rm := false, sat := false, opb := opbZero }

/-- The form of a scalar operation of one source. -/
def scalForm1 : AluForm := { scalForm2 with b := .none }

/-- The form of a scalar operation of three sources. -/
def scalForm3 : AluForm := { scalForm2 with c := srcS32 }

/-- A 32-bit scalar result. -/
def AluResult.s32 (x : Word) : AluResult := .scal 1 (x.zeroExtend 64)

/-- A scalar operation of two 32-bit sources. -/
def scal2 (f : FmtA) (g : Word → Word → Word) (s : State) : Host.Outcome State Fault Refusal :=
  alu scalForm2 f (fun v => .s32 (g (readS32 v f.sa) (readS32 v f.sb))) s

/-- A scalar operation of one 32-bit source. -/
def scal1 (f : FmtA) (g : Word → Word) (s : State) : Host.Outcome State Fault Refusal :=
  alu scalForm1 f (fun v => .s32 (g (readS32 v f.sa))) s

/-- A scalar operation of three 32-bit sources. -/
def scal3 (f : FmtA) (g : Word → Word → Word → Word) (s : State) : Host.Outcome State Fault Refusal :=
  alu scalForm3 f (fun v => .s32 (g (readS32 v f.sa) (readS32 v f.sb) (readS32 v f.sc))) s

/-- A scalar operation with an optional clamp to the type's range. -/
def scalSat (f : FmtA) (g : Int → Int → Int) (s : State) : Host.Outcome State Fault Refusal :=
  let sg := decide (f.ty ≠ 7)
  alu { scalForm2 with sat := true } f
    (fun v => .s32 (narrowInt sg f.sat 32 (g (toNum sg (readS32 v f.sa)) (toNum sg (readS32 v f.sb))))) s

/-! ### The value of an operation, used by the vector forms too -/

/-- High half of the signed product. -/
def mulHiS (a b : Word) : Word := (wrapInt (a.toInt * b.toInt) 64).extractLsb' 32 32

/-- High half of the unsigned product. -/
def mulHiZ (a b : Word) : Word := BitVec.ofNat 32 (a.toNat * b.toNat / 2 ^ 32)

/-- Shift left by an unmasked count (R217). -/
def shlWord (a n : Word) : Word := if n.toNat < 32 then a <<< n.toNat else 0

/-- Logical shift right by an unmasked count (R217). -/
def shrWordZ (a n : Word) : Word := if n.toNat < 32 then a >>> n.toNat else 0

/-- Arithmetic shift right by an unmasked count (R217). -/
def shrWordS (a n : Word) : Word :=
  if n.toNat < 32 then a.sshiftRight n.toNat else if a.msb then BitVec.allOnes 32 else 0

/-- Rotate left by the count modulo 32 (R217). -/
def rotWord (a n : Word) : Word := a.rotateLeft (n.toNat % 32)

/-- Bit-field extract (R218); `sg` for .s32. -/
def bitExtract (sg : Bool) (a p n : Word) : Word :=
  if n = 0 ∨ 32 ≤ p.toNat then 0
  else
    let k := min n.toNat (32 - p.toNat)
    let x := (a >>> p.toNat).extractLsb' 0 k
    if sg then x.signExtend 32 else x.zeroExtend 32

/-- Bit-field insert under a control word (R218). -/
def bitInsert (a x ctl : Word) : Word :=
  let p := (ctl.extractLsb' 0 5).toNat
  let n := min (ctl.extractLsb' 8 6).toNat (32 - p)
  let m := BitVec.ofNat 32 ((2 ^ n - 1) * 2 ^ p)
  (a &&& ~~~m) ||| ((x <<< p) &&& m)

/-- Leading zero bits, 0 to 32. -/
def leadingZeros (a : Word) : Word := if a = 0 then 32 else BitVec.ofNat 32 (31 - Nat.log2 a.toNat)

/-- Trailing zero bits, 0 to 32. -/
def trailingZeros (a : Word) : Word :=
  if a = 0 then 32 else BitVec.ofNat 32 (Nat.log2 (a &&& -a).toNat)

/-- Number of set bits. -/
def popCount (a : Word) : Word :=
  (List.range 32).foldl (fun n i => if a.getLsbD i then n + 1 else n) 0

/-- Bits in reverse order. -/
def reverseBits (a : Word) : Word := a.reverse

/-- The lesser or greater as signed values. -/
def minS (a b : Word) : Word := if a.toInt ≤ b.toInt then a else b

/-- The lesser as unsigned values. -/
def minZ (a b : Word) : Word := if a.toNat ≤ b.toNat then a else b

/-- The greater as signed values. -/
def maxS (a b : Word) : Word := if a.toInt ≤ b.toInt then b else a

/-- The greater as unsigned values. -/
def maxZ (a b : Word) : Word := if a.toNat ≤ b.toNat then b else a

/-! ### The operations -/

/-- SADD (R216). -/
def execSadd (f : FmtA) (s : State) : Host.Outcome State Fault Refusal := scalSat f (· + ·) s

/-- SSUB (R216). -/
def execSsub (f : FmtA) (s : State) : Host.Outcome State Fault Refusal := scalSat f (· - ·) s

/-- SADDC: the sum in the even register, the carry in the odd one (R219). -/
def execSaddc (f : FmtA) (s : State) : Host.Outcome State Fault Refusal :=
  alu { scalForm3 with d := .scal 2 } f (fun v =>
    .scal 2 (BitVec.ofNat 64 ((readS32 v f.sa).toNat + (readS32 v f.sb).toNat + (readS32 v f.sc).toNat % 2))) s

/-- SSUBB: the difference in the even register, the borrow in the odd one (R219). -/
def execSsubb (f : FmtA) (s : State) : Host.Outcome State Fault Refusal :=
  alu { scalForm3 with d := .scal 2 } f (fun v =>
    let t : Int := (readS32 v f.sa).toNat - (readS32 v f.sb).toNat - ((readS32 v f.sc).toNat % 2 : Nat)
    .scal 2 (pairOf (wrapInt t 32) (if t < 0 then 1 else 0))) s

/-- SMUL (R216). -/
def execSmul (f : FmtA) (s : State) : Host.Outcome State Fault Refusal := scal2 f (· * ·) s

/-- SMULHS (R216). -/
def execSmulhs (f : FmtA) (s : State) : Host.Outcome State Fault Refusal := scal2 f mulHiS s

/-- SMULHZ (R216). -/
def execSmulhz (f : FmtA) (s : State) : Host.Outcome State Fault Refusal := scal2 f mulHiZ s

/-- SAND (R216). -/
def execSand (f : FmtA) (s : State) : Host.Outcome State Fault Refusal := scal2 f (· &&& ·) s

/-- SOR (R216). -/
def execSor (f : FmtA) (s : State) : Host.Outcome State Fault Refusal := scal2 f (· ||| ·) s

/-- SXOR (R216). -/
def execSxor (f : FmtA) (s : State) : Host.Outcome State Fault Refusal := scal2 f (· ^^^ ·) s

/-- SANDN (R216). -/
def execSandn (f : FmtA) (s : State) : Host.Outcome State Fault Refusal := scal2 f (fun a b => a &&& ~~~b) s

/-- SSHL (R217). -/
def execSshl (f : FmtA) (s : State) : Host.Outcome State Fault Refusal := scal2 f shlWord s

/-- SSHRZ (R217). -/
def execSshrz (f : FmtA) (s : State) : Host.Outcome State Fault Refusal := scal2 f shrWordZ s

/-- SSHRS (R217). -/
def execSshrs (f : FmtA) (s : State) : Host.Outcome State Fault Refusal := scal2 f shrWordS s

/-- SROT (R217). -/
def execSrot (f : FmtA) (s : State) : Host.Outcome State Fault Refusal := scal2 f rotWord s

/-- SBFX (R218). -/
def execSbfx (f : FmtA) (s : State) : Host.Outcome State Fault Refusal := scal3 f (bitExtract (decide (f.ty = 3))) s

/-- SBFI (R218). -/
def execSbfi (f : FmtA) (s : State) : Host.Outcome State Fault Refusal := scal3 f bitInsert s

/-- SCLZ (R216). -/
def execSclz (f : FmtA) (s : State) : Host.Outcome State Fault Refusal := scal1 f leadingZeros s

/-- SCTZ (R216). -/
def execSctz (f : FmtA) (s : State) : Host.Outcome State Fault Refusal := scal1 f trailingZeros s

/-- SPOPC (R216). -/
def execSpopc (f : FmtA) (s : State) : Host.Outcome State Fault Refusal := scal1 f popCount s

/-- SBREV (R216). -/
def execSbrev (f : FmtA) (s : State) : Host.Outcome State Fault Refusal := scal1 f reverseBits s

/-- SMINS (R216). -/
def execSmins (f : FmtA) (s : State) : Host.Outcome State Fault Refusal := scal2 f minS s

/-- SMINZ (R216). -/
def execSminz (f : FmtA) (s : State) : Host.Outcome State Fault Refusal := scal2 f minZ s

/-- SMAXS (R216). -/
def execSmaxs (f : FmtA) (s : State) : Host.Outcome State Fault Refusal := scal2 f maxS s

/-- SMAXZ (R216). -/
def execSmaxz (f : FmtA) (s : State) : Host.Outcome State Fault Refusal := scal2 f maxZ s

/-- SCMP: 1 or 0 (R215, R216). -/
def execScmp (f : FmtA) (s : State) : Host.Outcome State Fault Refusal :=
  alu { scalForm2 with opb := intCondCauses } f (fun v =>
    .s32 (if intCond (f.opb.toNat % 16) (readS32 v f.sa) (readS32 v f.sb) then 1 else 0)) s

/-- SSEL (R216). -/
def execSsel (f : FmtA) (s : State) : Host.Outcome State Fault Refusal := scal3 f (fun a b c => if c ≠ 0 then a else b) s

/-- SMOV (R216). -/
def execSmov (f : FmtA) (s : State) : Host.Outcome State Fault Refusal := scal1 f id s

/-- The form SMOVI shares with the other scalar operations; its immediate is no modifier field (R220). -/
def smoviForm : AluForm := { scalForm2 with a := .none, b := .none }

/-- SMOVI as a format A operation whose modifier fields are zero: its D, SA and guard (R220). -/
def immAsA (f : FmtI) : FmtA :=
  { c := f.c, d := f.d, sa := f.sa, sb := 0, sc := 0, ty := 0, rm := 0, sat := false, opb := 0 }

/-- SMOVI (R220). -/
def execSmovi (f : FmtI) (s : State) : Host.Outcome State Fault Refusal :=
  alu smoviForm (immAsA f) (fun _ => .s32 f.imm) s

/-- The form of a 64-bit scalar operation of two pairs (R221). -/
def scalForm64 : AluForm :=
  { scalForm2 with d := .scal 2, a := srcS64, b := srcS64, tys := tys64 }

/-- A 64-bit scalar operation of two pairs. -/
def scal64 (f : FmtA) (g : Dword → Dword → Dword) (s : State) : Host.Outcome State Fault Refusal :=
  alu scalForm64 f (fun v => .scal 2 (g (readS64 v f.sa) (readS64 v f.sb))) s

/-- A 64-bit shift by a 32-bit count. -/
def scalShift64 (f : FmtA) (g : Dword → Nat → Dword) (s : State) : Host.Outcome State Fault Refusal :=
  alu { scalForm64 with b := srcS32 } f (fun v => .scal 2 (g (readS64 v f.sa) (readS32 v f.sb).toNat)) s

/-- SADD64 (R221). -/
def execSadd64 (f : FmtA) (s : State) : Host.Outcome State Fault Refusal := scal64 f (· + ·) s

/-- SSUB64 (R221). -/
def execSsub64 (f : FmtA) (s : State) : Host.Outcome State Fault Refusal := scal64 f (· - ·) s

/-- SSHL64 (R221). -/
def execSshl64 (f : FmtA) (s : State) : Host.Outcome State Fault Refusal :=
  scalShift64 f (fun a n => if n < 64 then a <<< n else 0) s

/-- SSHR64: arithmetic for .s64 (R221). -/
def execSshr64 (f : FmtA) (s : State) : Host.Outcome State Fault Refusal :=
  scalShift64 f (fun a n =>
    if f.ty = 4 then (if n < 64 then a.sshiftRight n else if a.msb then BitVec.allOnes 64 else 0)
    else if n < 64 then a >>> n else 0) s

/-- SMUL64 (R221). -/
def execSmul64 (f : FmtA) (s : State) : Host.Outcome State Fault Refusal := scal64 f (· * ·) s

end Sys2Proof.Machine
end

