-- ==== Sys2Proof/Machine/VectorInt.lean ====
section
/-!
DEFINITION. The vector integer operations and the predicate operations, class 1 with OP 0x00 to 0x1F and 0x50 to 0x5F
(R222 to R227).
-/

namespace Sys2Proof.Machine

/-- Signedness and width of an integer type code; code 0 reads as .s32 (R214). -/
def intCode (ty : Nat) : Bool × Nat :=
  match ty with
  | 1 => (true, 8) | 2 => (true, 16) | 4 => (true, 64) | 5 => (false, 8) | 6 => (false, 16) | 7 => (false, 32)
  | 8 => (false, 64) | _ => (true, 32)

/-- Type codes of the packed integer operations (R214). -/
def tysPacked : List Nat := [0, 1, 2, 3, 5, 6, 7]

/-- A vector source of 32-bit lanes with elements of width `w`. -/
def srcV (w : Nat) : Src := .vec (.int w) 1

/-- The form of a vector operation of two 32-bit sources. -/
def vecForm2 : AluForm :=
  { d := .vec 1, a := srcV 32, b := srcV 32, c := .none, tys := tys32, rm := false, sat := false, opb := opbZero }

/-- A 32-bit result in each lane. -/
def AluResult.v32 (g : Nat → Word) : AluResult := .vec 1 fun l => (g l).zeroExtend 64

/-- A vector operation of two 32-bit sources. -/
def vec2 (f : FmtA) (g : Word → Word → Word) (s : State) : Host.Outcome State Fault Refusal :=
  alu vecForm2 f (fun v => .v32 fun l => g (readV32 v 32 f.sa l) (readV32 v 32 f.sb l)) s

/-- A vector operation of one 32-bit source. -/
def vec1 (f : FmtA) (g : Word → Word) (s : State) : Host.Outcome State Fault Refusal :=
  alu { vecForm2 with b := .none } f (fun v => .v32 fun l => g (readV32 v 32 f.sa l)) s

/-- A vector operation of three 32-bit sources. -/
def vec3 (f : FmtA) (g : Word → Word → Word → Word) (s : State) : Host.Outcome State Fault Refusal :=
  alu { vecForm2 with c := srcV 32 } f
    (fun v => .v32 fun l => g (readV32 v 32 f.sa l) (readV32 v 32 f.sb l) (readV32 v 32 f.sc l)) s

/-- A packed operation on the elements of two sources (R214, R223). -/
def vecElems (f : FmtA) (satOk : Bool) (g : Bool → Nat → Int → Int → Int) (s : State) :
    Host.Outcome State Fault Refusal :=
  let sg := (intCode f.ty.toNat).1
  let w := (intCode f.ty.toNat).2
  alu { vecForm2 with a := srcV w, b := srcV w, tys := tysPacked, sat := satOk } f (fun v => .v32 fun l =>
    packElems w fun i =>
      narrowInt sg f.sat w
        (g sg w (toNum sg (elemOf w (readV32 v w f.sa l) i)) (toNum sg (elemOf w (readV32 v w f.sb l) i)))) s

/-- A packed minimum or maximum, whose mnemonic fixes the signedness (R222). -/
def vecMinMax (f : FmtA) (sg wantMax : Bool) (s : State) : Host.Outcome State Fault Refusal :=
  let w := (intCode f.ty.toNat).2
  alu { vecForm2 with a := srcV w, b := srcV w, tys := tysPacked } f (fun v => .v32 fun l =>
    packElems w fun i =>
      let a := elemOf w (readV32 v w f.sa l) i
      let b := elemOf w (readV32 v w f.sb l) i
      if decide (toNum sg a ≤ toNum sg b) = wantMax then b else a) s

/-- VADD (R223). -/
def execVadd (f : FmtA) (s : State) : Host.Outcome State Fault Refusal := vecElems f true (fun _ _ x y => x + y) s

/-- VSUB (R223). -/
def execVsub (f : FmtA) (s : State) : Host.Outcome State Fault Refusal := vecElems f true (fun _ _ x y => x - y) s

/-- VMUL (R222). -/
def execVmul (f : FmtA) (s : State) : Host.Outcome State Fault Refusal := vec2 f (· * ·) s

/-- VMULHS (R222). -/
def execVmulhs (f : FmtA) (s : State) : Host.Outcome State Fault Refusal := vec2 f mulHiS s

/-- VMULHZ (R222). -/
def execVmulhz (f : FmtA) (s : State) : Host.Outcome State Fault Refusal := vec2 f mulHiZ s

/-- VMAD (R222). -/
def execVmad (f : FmtA) (s : State) : Host.Outcome State Fault Refusal := vec3 f (fun a b c => a * b + c) s

/-- VAND (R222). -/
def execVand (f : FmtA) (s : State) : Host.Outcome State Fault Refusal := vec2 f (· &&& ·) s

/-- VOR (R222). -/
def execVor (f : FmtA) (s : State) : Host.Outcome State Fault Refusal := vec2 f (· ||| ·) s

/-- VXOR (R222). -/
def execVxor (f : FmtA) (s : State) : Host.Outcome State Fault Refusal := vec2 f (· ^^^ ·) s

/-- VANDN (R222). -/
def execVandn (f : FmtA) (s : State) : Host.Outcome State Fault Refusal := vec2 f (fun a b => a &&& ~~~b) s

/-- VSHL (R217, R222). -/
def execVshl (f : FmtA) (s : State) : Host.Outcome State Fault Refusal := vec2 f shlWord s

/-- VSHRZ (R217, R222). -/
def execVshrz (f : FmtA) (s : State) : Host.Outcome State Fault Refusal := vec2 f shrWordZ s

/-- VSHRS (R217, R222). -/
def execVshrs (f : FmtA) (s : State) : Host.Outcome State Fault Refusal := vec2 f shrWordS s

/-- VMINS (R222). -/
def execVmins (f : FmtA) (s : State) : Host.Outcome State Fault Refusal := vecMinMax f true false s

/-- VMINZ (R222). -/
def execVminz (f : FmtA) (s : State) : Host.Outcome State Fault Refusal := vecMinMax f false false s

/-- VMAXS (R222). -/
def execVmaxs (f : FmtA) (s : State) : Host.Outcome State Fault Refusal := vecMinMax f true true s

/-- VMAXZ (R222). -/
def execVmaxz (f : FmtA) (s : State) : Host.Outcome State Fault Refusal := vecMinMax f false true s

/-- VABS, for the signed types only (R222, R223). -/
def execVabs (f : FmtA) (s : State) : Host.Outcome State Fault Refusal :=
  let w := (intCode f.ty.toNat).2
  alu { vecForm2 with a := srcV w, b := .none, tys := [0, 1, 2, 3], sat := true } f (fun v => .v32 fun l =>
    packElems w fun i => narrowInt true f.sat w (elemOf w (readV32 v w f.sa l) i).toInt.natAbs) s

/-- VCMP (R215, R224). -/
def execVcmp (f : FmtA) (s : State) : Host.Outcome State Fault Refusal :=
  alu { vecForm2 with d := .pred, opb := intCondCauses } f (fun v =>
    .pred (lanesWhere (v.active f.c) fun l =>
      intCond (f.opb.toNat % 16) (readV32 v 32 f.sa l) (readV32 v 32 f.sb l))) s

/-- VSEL (R224). -/
def execVsel (f : FmtA) (s : State) : Host.Outcome State Fault Refusal :=
  alu { vecForm2 with c := .pred } f (fun v =>
    let k := readPred v f.sc
    .v32 fun l => if k.getLsbD l then readV32 v 32 f.sa l else readV32 v 32 f.sb l) s

/-- VMOV (R222). -/
def execVmov (f : FmtA) (s : State) : Host.Outcome State Fault Refusal := vec1 f id s

/-- VBFX (R218, R222). -/
def execVbfx (f : FmtA) (s : State) : Host.Outcome State Fault Refusal := vec3 f (bitExtract (decide (f.ty = 3))) s

/-- VBFI (R218, R222). -/
def execVbfi (f : FmtA) (s : State) : Host.Outcome State Fault Refusal := vec3 f bitInsert s

/-- VPOPC (R222). -/
def execVpopc (f : FmtA) (s : State) : Host.Outcome State Fault Refusal := vec1 f popCount s

/-- VCLZ (R222). -/
def execVclz (f : FmtA) (s : State) : Host.Outcome State Fault Refusal := vec1 f leadingZeros s

/-- VADD64 on vector pairs (R225). -/
def execVadd64 (f : FmtA) (s : State) : Host.Outcome State Fault Refusal :=
  alu { vecForm2 with d := .vec 2, a := .vec (.int 32) 2, b := .vec (.int 32) 2, tys := tys64 } f (fun v =>
    .vec 2 fun l => readVec v (.int 32) 2 f.sa l + readVec v (.int 32) 2 f.sb l) s

/-- VQDOT: four byte products added to a 32-bit value, exact before it is narrowed (R226). -/
def execVqdot (f : FmtA) (s : State) : Host.Outcome State Fault Refusal :=
  let sg := decide (f.ty = 1)
  alu { vecForm2 with a := srcV 8, b := srcV 8, c := srcV 32, tys := [1, 5], sat := true } f (fun v => .v32 fun l =>
    let a := readV32 v 8 f.sa l
    let b := readV32 v 8 f.sb l
    narrowInt sg f.sat 32 ((List.range 4).foldl
      (fun t e => t + toNum sg (elemOf 8 a e) * toNum sg (elemOf 8 b e)) (toNum sg (readV32 v 32 f.sc l)))) s

/-! ### Predicate operations (R227) -/

/-- The form of a predicate operation of two sources. -/
def predForm2 : AluForm :=
  { d := .pred, a := .pred, b := .pred, c := .none, tys := [0], rm := false, sat := false, opb := opbZero }

/-- A predicate operation of two sources. -/
def pred2 (f : FmtA) (g : Lanes → Lanes → Lanes) (s : State) : Host.Outcome State Fault Refusal :=
  alu predForm2 f (fun v => .pred (g (readPred v f.sa) (readPred v f.sb))) s

/-- A predicate operation of one source. -/
def pred1 (f : FmtA) (g : Lanes → Lanes) (s : State) : Host.Outcome State Fault Refusal :=
  alu { predForm2 with b := .none } f (fun v => .pred (g (readPred v f.sa))) s

/-- KAND. -/
def execKand (f : FmtA) (s : State) : Host.Outcome State Fault Refusal := pred2 f (· &&& ·) s

/-- KOR. -/
def execKor (f : FmtA) (s : State) : Host.Outcome State Fault Refusal := pred2 f (· ||| ·) s

/-- KXOR. -/
def execKxor (f : FmtA) (s : State) : Host.Outcome State Fault Refusal := pred2 f (· ^^^ ·) s

/-- KNOT. -/
def execKnot (f : FmtA) (s : State) : Host.Outcome State Fault Refusal := pred1 f (~~~ ·) s

/-- KMOV. -/
def execKmov (f : FmtA) (s : State) : Host.Outcome State Fault Refusal := pred1 f id s

/-- KMOV.FS: three scalar words as a predicate; of OPB only bit 0 is set (R227). -/
def execKmovFs (f : FmtA) (s : State) : Host.Outcome State Fault Refusal :=
  alu { predForm2 with a := .triple, b := .none, opb := fun x => if x = 1 then [] else [0x02] } f (fun v =>
    let n := f.sa.toNat
    .pred ((readSReg v.w v.p (n + 2)).zeroExtend 96 <<< 64 ||| (readSReg v.w v.p (n + 1)).zeroExtend 96 <<< 32
      ||| (readSReg v.w v.p n).zeroExtend 96)) s

end Sys2Proof.Machine
end

