-- ==== Sys2Proof/Machine/Float.lean ====
section
/-!
DEFINITION. The float operations of class 1, OP 0x20 to 0x2C (R232 to R239).
-/

namespace Sys2Proof.Machine

/-- The float format of a type code; code 0 reads as .f32 (R229, R31). -/
def floatCode (ty : Nat) : Option FloatTy :=
  match ty with
  | 0 => some .f32 | 9 => some .f32 | 10 => some .f16 | 11 => some .bf16 | 12 => some .e4m3 | 13 => some .e5m2
  | 14 => some .e2m1 | _ => none

/-- The packed 16-bit format of a type code. -/
def halfCode (ty : Nat) : FloatTy := if ty = 11 then .bf16 else .f16

/-- A vector source of format `t`. -/
def srcF (t : FloatTy) : Src := .vec (.flt t) 1

/-- A vector operand of format `t` in a lane, as 32 bits. -/
def readF (v : View) (t : FloatTy) (sel : BitVec 8) (l : Nat) : Word := (readVec v (.flt t) 1 sel l).truncate 32

/-- The form of an FP32 operation of two sources that takes a rounding mode and saturation. -/
def floatForm2 : AluForm :=
  { d := .vec 1, a := srcF .f32, b := srcF .f32, c := .none, tys := [0, 9], rm := true, sat := true, opb := opbZero }

/-- An FP32 operation given by its result and conditions in each lane. -/
def floatLanes (m : AluForm) (f : FmtA) (g : View → Nat → Word × Conds) (s : State) :
    Host.Outcome State Fault Refusal :=
  aluFloat m f (fun v => .v32 fun l => (g v l).1) (fun v l => (g v l).2) s

/-- A 32-bit result with its conditions. -/
def wordResult (r : Nat × Conds) : Word × Conds := (BitVec.ofNat 32 r.1, r.2)

/-- One rounded sum of products and addends in FP32 (R232). -/
def fp32Sum (f : FmtA) (ps : List (FVal × FVal)) (as : List FVal) : Nat × Conds :=
  let snan := ps.any (fun p => p.1.isSnan || p.2.isSnan) || as.any FVal.isSnan
  froundSum .f32 (RMode.ofBits f.rm) f.sat snan (ps.map fun p => fprod p.1 p.2) as

/-- An FP32 operand as a value. -/
def readF32 (v : View) (sel : BitVec 8) (l : Nat) : FVal := fread .f32 (readF v .f32 sel l).toNat

/-- VFADD (R232). -/
def execVfadd (f : FmtA) (s : State) : Host.Outcome State Fault Refusal :=
  floatLanes floatForm2 f (fun v l => wordResult (fp32Sum f [] [readF32 v f.sa l, readF32 v f.sb l])) s

/-- VFSUB (R232). -/
def execVfsub (f : FmtA) (s : State) : Host.Outcome State Fault Refusal :=
  floatLanes floatForm2 f (fun v l => wordResult (fp32Sum f [] [readF32 v f.sa l, (readF32 v f.sb l).negate])) s

/-- VFMUL (R232). -/
def execVfmul (f : FmtA) (s : State) : Host.Outcome State Fault Refusal :=
  floatLanes floatForm2 f (fun v l => wordResult (fp32Sum f [(readF32 v f.sa l, readF32 v f.sb l)] [])) s

/-- VFMA (R232). -/
def execVfma (f : FmtA) (s : State) : Host.Outcome State Fault Refusal :=
  floatLanes { floatForm2 with c := srcF .f32 } f
    (fun v l => wordResult (fp32Sum f [(readF32 v f.sa l, readF32 v f.sb l)] [readF32 v f.sc l])) s

/-- Two 16-bit results as one lane, with the conditions of both. -/
def packHalves (g : Nat → Nat × Conds) : Word × Conds :=
  (packElems 16 fun i => BitVec.ofNat 16 (g i).1, (g 0).2.or (g 1).2)

/-- Element `i` of a packed 16-bit operand as a value. -/
def readHalf (v : View) (t : FloatTy) (sel : BitVec 8) (l i : Nat) : FVal :=
  fread t (elemOf 16 (readF v t sel l) i).toNat

/-- A sum with an addend of +0 that rounds to -0 becomes +0, unless the mode gives a zero sum a minus (R72, R233). -/
def plusZero (t : FloatTy) (md : RMode) (addend : FVal) (r : Nat × Conds) : Nat × Conds :=
  match addend with
  | .fin false 0 _ => if md ≠ .rdn ∧ r.1 = 2 ^ (t.width - 1) then (0, r.2) else r
  | _ => r

/-- VHFMA (R232, R233). -/
def execVhfma (f : FmtA) (s : State) : Host.Outcome State Fault Refusal :=
  let t := halfCode f.ty.toNat
  floatLanes { floatForm2 with a := srcF t, b := srcF t, c := srcF t, tys := [10, 11] } f (fun v l =>
    packHalves fun i =>
      let a := readHalf v t f.sa l i
      let b := readHalf v t f.sb l i
      let c := readHalf v t f.sc l i
      plusZero t (RMode.ofBits f.rm) c
        (froundSum t (RMode.ofBits f.rm) f.sat (a.isSnan || b.isSnan || c.isSnan) [fprod a b] [c])) s

/-- VHDOT (R232, R233). -/
def execVhdot (f : FmtA) (s : State) : Host.Outcome State Fault Refusal :=
  let t := halfCode f.ty.toNat
  floatLanes { floatForm2 with a := srcF t, b := srcF t, c := srcF .f32, tys := [10, 11] } f (fun v l =>
    wordResult (fp32Sum f [(readHalf v t f.sa l 0, readHalf v t f.sb l 0), (readHalf v t f.sa l 1, readHalf v t f.sb l 1)]
      [readF32 v f.sc l])) s

/-- The form of an FP32 operation of two sources without rounding. -/
def floatForm2Exact : AluForm := { floatForm2 with rm := false, sat := false }

/-- VFMIN (R234). -/
def execVfmin (f : FmtA) (s : State) : Host.Outcome State Fault Refusal :=
  floatLanes floatForm2Exact f (fun v l => wordResult
    (fminmax false (readF v .f32 f.sa l).toNat (readF v .f32 f.sb l).toNat)) s

/-- VFMAX (R234). -/
def execVfmax (f : FmtA) (s : State) : Host.Outcome State Fault Refusal :=
  floatLanes floatForm2Exact f (fun v l => wordResult
    (fminmax true (readF v .f32 f.sa l).toNat (readF v .f32 f.sb l).toNat)) s

/-- VFCMP (R235). -/
def execVfcmp (f : FmtA) (s : State) : Host.Outcome State Fault Refusal :=
  let c (v : View) (l : Nat) := floatCond (f.opb.toNat % 16) (readF v .f32 f.sa l).toNat (readF v .f32 f.sb l).toNat
  aluFloat { floatForm2Exact with d := .pred, opb := floatCondCauses } f
    (fun v => .pred (lanesWhere (v.active f.c) fun l => (c v l).1)) (fun v l => (c v l).2) s

/-- VFCLASS: the class of each element, at bits 0 and 16 of the lane (R236). -/
def execVfclass (f : FmtA) (s : State) : Host.Outcome State Fault Refusal :=
  let t := (floatCode f.ty.toNat).getD .f32
  alu { floatForm2Exact with a := srcF t, b := .none, tys := [0, 9, 10, 11] } f (fun v => .v32 fun l =>
    let x := readF v t f.sa l
    if t.width = 32 then BitVec.ofNat 32 (fclassBits t x.toNat)
    else packElems 16 fun i => BitVec.ofNat 16 (fclassBits t (elemOf 16 x i).toNat)) s

/-! ### Conversions (R237, R238) -/

/-- A source or target type of a conversion. -/
inductive CvtTy
  | flt (t : FloatTy)
  | int (sg : Bool) (w : Nat)
  deriving DecidableEq, Repr

/-- The conversion type of a code, where there is one; .s64, .z64, .s4 and code 0 are none. -/
def cvtCode (ty : Nat) : Option CvtTy :=
  match ty with
  | 0 => none | 4 => none | 8 => none | 15 => none
  | n => match floatCode n with
    | some t => some (.flt t)
    | none => some (.int (intCode n).1 (intCode n).2)

/-- Width of a conversion type. -/
def CvtTy.width : CvtTy → Nat
  | .flt t => t.width
  | .int _ w => w

/-- How an operand of a conversion type is read. -/
def CvtTy.opTy : CvtTy → OpTy
  | .flt t => .flt t
  | .int _ w => .int w

/-- Does VFCVT (`ints` false) or VCVTI convert between these types (R237)? -/
def cvtPairOk (ints : Bool) : CvtTy → CvtTy → Bool
  | .flt s, .flt d => !ints && decide (s ≠ d)
  | .flt s, .int _ _ => ints && decide (s ≠ .e2m1)
  | .int _ _, .flt d => ints && decide (d ≠ .e2m1)
  | .int _ _, .int _ _ => false

/-- Convert one element (R238). -/
def cvtElem (src dst : CvtTy) (md : RMode) (sat : Bool) (x : Nat) : Nat × Conds :=
  match src, dst with
  | .flt s, .flt d => fconvert s d md sat x
  | .flt s, .int sg w => let r := floatToInt s sg w md sat x; (r.1.toNat, r.2)
  | .int sg w, .flt d => intToFloat d md sat (toNum sg (BitVec.ofNat w x))
  | .int _ _, .int _ _ => (x, {})

/-- Replace element `i` of width `w` of a lane. -/
def setElem (w : Nat) (r : Word) (i x : Nat) : Word :=
  (r &&& ~~~((BitVec.allOnes w).zeroExtend 32 <<< (w * i))) ||| ((BitVec.ofNat w x).zeroExtend 32 <<< (w * i))

/-- The types of a conversion operation, if its codes name an accepted pair. -/
def cvtTypes (ints : Bool) (f : FmtA) : Option (CvtTy × CvtTy) :=
  match cvtCode (f.opb.toNat % 16), cvtCode f.ty.toNat with
  | some s, some d => if cvtPairOk ints s d then some (s, d) else none
  | _, _ => none

/-- Group number of a conversion (R237). -/
def cvtGroup (f : FmtA) : Nat := f.opb.toNat / 16 % 8

/-- The form of a conversion, and what is wrong with its modifiers (R237, R238). -/
def cvtForm (ints : Bool) (f : FmtA) : AluForm :=
  match cvtTypes ints f with
  | none =>
    let ty := ((cvtCode (f.opb.toNat % 16)).map CvtTy.opTy).getD (.flt .f32)
    { floatForm2 with b := .none, a := .vec ty 1, c := .free, tys := [], opb := fun x => if 128 ≤ x then [0x02] else [] }
  | some (s, d) =>
    let narrow := d.width < s.width
    { d := .vec 1, a := .vec s.opTy 1, b := .none, c := if narrow then srcV 32 else .free, tys := [f.ty.toNat]
      rm := true, sat := true
      opb := fun x => (if 128 ≤ x then [0x02] else [])
        ++ (if (if narrow then s.width / d.width else d.width / s.width) ≤ cvtGroup f then [0x04] else [])
        ++ (if !narrow && decide (f.sc ≠ 0) then [0x04] else []) }

/-- Convert the elements of a lane: narrowing merges into `r`, widening takes elements from group `g` (R238). -/
def cvtLane (s d : CvtTy) (md : RMode) (sat : Bool) (g : Nat) (x r : Word) : Word × Conds :=
  let narrow := d.width < s.width
  let n := 32 / max s.width d.width
  (List.range n).foldl (fun acc e =>
    let y := if narrow then elemOf s.width x e else elemOf s.width x (g * n + e)
    let c := cvtElem s d md sat y.toNat
    (setElem d.width acc.1 (if narrow then g * n + e else e) c.1, acc.2.or c.2)) (if narrow then r else 0, {})

/-- A conversion operation. -/
def convert (ints : Bool) (f : FmtA) (s : State) : Host.Outcome State Fault Refusal :=
  floatLanes (cvtForm ints f) f (fun v l =>
    match cvtTypes ints f with
    | none => (0, {})
    | some (a, d) =>
      cvtLane a d (RMode.ofBits f.rm) f.sat (cvtGroup f) ((readVec v a.opTy 1 f.sa l).truncate 32) (readV32 v 32 f.sc l)) s

/-- VFCVT (R237, R238). -/
def execVfcvt (f : FmtA) (s : State) : Host.Outcome State Fault Refusal := convert false f s

/-- VCVTI (R237, R238). -/
def execVcvti (f : FmtA) (s : State) : Host.Outcome State Fault Refusal := convert true f s

/-- VFRND (R239). -/
def execVfrnd (f : FmtA) (s : State) : Host.Outcome State Fault Refusal :=
  let t := (floatCode f.ty.toNat).getD .f32
  floatLanes { floatForm2 with a := srcF t, b := .none, tys := [0, 9, 10, 11], sat := false } f (fun v l =>
    let x := readF v t f.sa l
    if t.width = 32 then wordResult (roundIntegral t (RMode.ofBits f.rm) x.toNat)
    else packHalves fun i => roundIntegral t (RMode.ofBits f.rm) (elemOf 16 x i).toNat) s

end Sys2Proof.Machine
end

