-- ==== Sys2Proof/Machine/CrossLane.lean ====
section
/-!
DEFINITION. The special functions (R240 to R242) and the cross-lane operations (R243 to R249), whose results are
tracked in the classes sf and xl.
-/

namespace Sys2Proof.Machine

/-! ### Special functions -/

/-- The form of a special function (R240). -/
def sfForm : AluForm := { floatForm2 with b := .none, rm := false, sat := false }

/-- A special function in every lane of `active` (R240, R241). -/
def special (fn : SpecialFn) (f : FmtA) (s : State) : Host.Outcome State Fault Refusal :=
  late sfForm .sf f
    (fun v => Pend.vec .sf f.d 1 (v.active f.c) fun _ l => BitVec.ofNat 32 (specialFn fn (readF v .f32 f.sa l)).1)
    (fun v => condsOver (v.active f.c) fun l => (specialFn fn (readF v .f32 f.sa l)).2) s

/-- VRCP. -/
def execVrcp (f : FmtA) (s : State) : Host.Outcome State Fault Refusal := special .rcp f s

/-- VRSQ. -/
def execVrsq (f : FmtA) (s : State) : Host.Outcome State Fault Refusal := special .rsq f s

/-- VSQRT. -/
def execVsqrt (f : FmtA) (s : State) : Host.Outcome State Fault Refusal := special .sqrt f s

/-- VEXP2. -/
def execVexp2 (f : FmtA) (s : State) : Host.Outcome State Fault Refusal := special .exp2 f s

/-- VLOG2. -/
def execVlog2 (f : FmtA) (s : State) : Host.Outcome State Fault Refusal := special .log2 f s

/-- VSIN. -/
def execVsin (f : FmtA) (s : State) : Host.Outcome State Fault Refusal := special .sin f s

/-- VCOS. -/
def execVcos (f : FmtA) (s : State) : Host.Outcome State Fault Refusal := special .cos f s

/-- VTANH. -/
def execVtanh (f : FmtA) (s : State) : Host.Outcome State Fault Refusal := special .tanh f s

/-! ### Shuffles (R244, R245) -/

/-- Registers per element of a data-moving operation: two for .b64 (R244). -/
def moveGroup (f : FmtA) : Nat := if f.ty = 8 then 2 else 1

/-- Type codes of a data-moving operation: none, .b32, .b64. -/
def tysMove : List Nat := [0, 7, 8]

/-- A vector data operand of a data-moving operation, register `i` of the group. -/
def readMove (v : View) (f : FmtA) (i l : Nat) : Word :=
  (readVec v (.int 32) (moveGroup f) f.sa l).extractLsb' (32 * i) 32

/-- The group width of a shuffle's width code (R244). -/
def shuffleWidth (f : FmtA) : Nat :=
  match f.opb.toNat % 4 with
  | 0 => 8 | 1 => 16 | 2 => 32 | _ => 96

/-- An OPB that holds only a width code. -/
def opbWidth (x : Nat) : List Nat := if 4 ≤ x then [0x02] else []

/-- The form of a shuffle. -/
def shuffleForm (f : FmtA) : AluForm :=
  { d := .vec (moveGroup f), a := .vec (.int 32) (moveGroup f), b := srcV 32, c := .none, tys := tysMove, rm := false
    sat := false, opb := opbWidth }

/-- A shuffle: each lane of `active` receives the data of lane `src width base lane index` (R245). -/
def shuffle (f : FmtA) (src : Nat → Nat → Nat → Nat → Nat) (s : State) : Host.Outcome State Fault Refusal :=
  let w := shuffleWidth f
  late (shuffleForm f) .xl f (fun v => Pend.vec .xl f.d (moveGroup f) (v.active f.c) fun i l =>
    readMove v f i (src w (l - l % w) l (readV32 v 32 f.sb l).toNat)) (fun _ => {}) s

/-- Source lane of VSHFL. -/
def srcShfl (w base lane i : Nat) : Nat := if w < 96 then base + i % w else if i < 96 then i else lane

/-- Source lane of VSHFLX. -/
def srcShflx (w base lane i : Nat) : Nat :=
  if w < 96 then base + (lane ^^^ i) % w else if lane ^^^ (i % 128) < 96 then lane ^^^ (i % 128) else lane

/-- Source lane of VSHFLUP. -/
def srcShflup (w base lane i : Nat) : Nat := if i < w ∧ base + i ≤ lane then lane - i else lane

/-- Source lane of VSHFLDN. -/
def srcShfldn (w base lane i : Nat) : Nat := if i < w ∧ lane + i < base + w then lane + i else lane

/-- VSHFL. -/
def execVshfl (f : FmtA) (s : State) : Host.Outcome State Fault Refusal := shuffle f srcShfl s

/-- VSHFLX. -/
def execVshflx (f : FmtA) (s : State) : Host.Outcome State Fault Refusal := shuffle f srcShflx s

/-- VSHFLUP. -/
def execVshflup (f : FmtA) (s : State) : Host.Outcome State Fault Refusal := shuffle f srcShflup s

/-- VSHFLDN. -/
def execVshfldn (f : FmtA) (s : State) : Host.Outcome State Fault Refusal := shuffle f srcShfldn s

/-! ### Lane reads, lane writes, votes (R246) -/

/-- VREADL: lane `n` of a vector into a scalar, 0 past lane 95; nothing when `active` is empty. -/
def execVreadl (f : FmtA) (s : State) : Host.Outcome State Fault Refusal :=
  late { d := .scal (moveGroup f), a := .vec (.int 32) (moveGroup f), b := srcS32, c := .none, tys := tysMove, rm := false
         sat := false, opb := opbZero } .xl f (fun v =>
    let n := (readS32 v f.sb).toNat
    let x := if n < 96 then readVec v (.int 32) (moveGroup f) f.sa n else 0
    Pend.scal .xl f.d (moveGroup f) (if v.active f.c = 0 then none else some (x.zeroExtend 128))) (fun _ => {}) s

/-- VWRITEL: a scalar into lane `n`, if that lane is active. -/
def execVwritel (f : FmtA) (s : State) : Host.Outcome State Fault Refusal :=
  late { d := .vec (moveGroup f), a := .scal (.int 32) (moveGroup f), b := srcS32, c := .none, tys := tysMove, rm := false
         sat := false, opb := opbZero } .xl f (fun v =>
    let n := (readS32 v f.sb).toNat
    let x := readScal v (.int 32) (moveGroup f) f.sa
    Pend.vec .xl f.d (moveGroup f) (v.active f.c &&& (if n < 96 then 1 <<< n else 0)) fun i _ =>
      x.extractLsb' (32 * i) 32) (fun _ => {}) s

/-- Set bits of a set of lanes. -/
def lanesCount (m : Lanes) : Nat := (List.range 96).foldl (fun n l => if m.getLsbD l then n + 1 else n) 0

/-- The quad VBALLOT delivers: the predicate over `active` and the number of its set bits. -/
def ballotQuad (m : Lanes) : BitVec 128 := BitVec.ofNat 128 (lanesCount m) <<< 96 ||| m.zeroExtend 128

/-- VBALLOT. -/
def execVballot (f : FmtA) (s : State) : Host.Outcome State Fault Refusal :=
  late { predForm2 with d := .scal 4, b := .none } .xl f (fun v =>
    let act := v.active f.c
    Pend.scal .xl f.d 4 (if act = 0 then none else some (ballotQuad (readPred v f.sa &&& act)))) (fun _ => {}) s

/-- VANY and VALL: a vote written to every lane of `active`. -/
def vote (f : FmtA) (test : Lanes → Lanes → Bool) (s : State) : Host.Outcome State Fault Refusal :=
  late { predForm2 with b := .none } .xl f (fun v =>
    let act := v.active f.c
    Pend.pred .xl f.d act (if test act (readPred v f.sa) then BitVec.allOnes 96 else 0)) (fun _ => {}) s

/-- VANY. -/
def execVany (f : FmtA) (s : State) : Host.Outcome State Fault Refusal :=
  vote f (fun act k => decide (k &&& act ≠ 0)) s

/-- VALL. -/
def execVall (f : FmtA) (s : State) : Host.Outcome State Fault Refusal :=
  vote f (fun act k => decide (~~~k &&& act = 0)) s

/-! ### Reductions and the scan (R247 to R249) -/

/-- The active lanes in ascending order. -/
def lanesList (act : Lanes) : List Nat := (List.range 96).filter fun l => act.getLsbD l

/-- A number passes unchanged; a NaN becomes the canonical NaN, with NV if it signals (R230, R248). -/
def passFloat (x : Nat) : Nat × Conds :=
  match fread .f32 x with
  | .nan q => (FloatTy.f32.nan, { nv := q })
  | _ => (x, {})

/-- A float add of two encodings (R232). -/
def floatAdd (md : RMode) (sat : Bool) (x y : Nat) : Nat × Conds :=
  let a := fread .f32 x
  let b := fread .f32 y
  froundSum .f32 md sat (a.isSnan || b.isSnan) [] [a, b]

/-- `join` of R248: an absent lane is skipped. -/
def joinSum (md : RMode) (sat : Bool) (x y : Option (Nat × Conds)) : Option (Nat × Conds) :=
  match x, y with
  | some a, some b => let r := floatAdd md sat a.1 b.1; some (r.1, (a.2.or b.2).or r.2)
  | none, y => y
  | x, none => x

/-- Join neighbours of a list, halving it. -/
def joinPairs (md : RMode) (sat : Bool) : List (Option (Nat × Conds)) → List (Option (Nat × Conds))
  | x :: y :: r => joinSum md sat x y :: joinPairs md sat r
  | l => l

/-- The tree over one beat: five halvings of its 32 lanes (R248). -/
def beatSum (md : RMode) (sat : Bool) (l : List (Option (Nat × Conds))) : Option (Nat × Conds) :=
  ((joinPairs md sat (joinPairs md sat (joinPairs md sat (joinPairs md sat (joinPairs md sat l)))))).head?.join

/-- The float sum over `active` in the fixed tree (R248). -/
def treeSum (md : RMode) (sat : Bool) (act : Lanes) (x : Nat → Nat) : Option (Nat × Conds) :=
  let beat (b : Nat) := beatSum md sat ((List.range 32).map fun p =>
    if act.getLsbD (32 * b + p) then some (x (32 * b + p), {}) else none)
  match joinSum md sat (joinSum md sat (beat 0) (beat 1)) (beat 2) with
  | none => none
  | some r => let q := passFloat r.1; some (q.1, r.2.or q.2)

/-- Signedness of a reduction's type: code 0 and .s32 are signed (R244). -/
def redSigned (f : FmtA) : Bool := decide (f.ty ≠ 7)

/-- Is a reduction or scan in FP32? -/
def redFloat (f : FmtA) : Bool := decide (f.ty = 9)

/-- The result of VREDADD, `none` for no active lane (R247, R248). -/
def redAdd (f : FmtA) (act : Lanes) (x : Nat → Word) : Option (Nat × Conds) :=
  if redFloat f then treeSum (RMode.ofBits f.rm) f.sat act fun l => (x l).toNat
  else if act = 0 then none
  else
    let sum := (lanesList act).foldl (fun (t : Int) l => t + toNum (redSigned f) (x l)) 0
    some ((narrowInt (redSigned f) f.sat 32 sum).toNat, {})

/-- The lesser or greater of two values of the reduction's type, with conditions. -/
def pickMinMax (f : FmtA) (wantMax : Bool) (a b : Nat) : Nat × Conds :=
  if redFloat f then fminmax wantMax a b
  else
    let sg := redSigned f
    (if decide (toNum sg (BitVec.ofNat 32 a) ≤ toNum sg (BitVec.ofNat 32 b)) = wantMax then b else a, {})

/-- A lane's value taken without an operation: floats pass as R249 says. -/
def passRed (f : FmtA) (x : Nat) : Nat × Conds := if redFloat f then passFloat x else (x, {})

/-- The result of VREDMIN or VREDMAX (R247). -/
def redMinMax (f : FmtA) (wantMax : Bool) (act : Lanes) (x : Nat → Word) : Option (Nat × Conds) :=
  match lanesList act with
  | [] => none
  | l :: r =>
    some (r.foldl (fun a k => let q := pickMinMax f wantMax a.1 (x k).toNat; (q.1, a.2.or q.2)) (passRed f (x l).toNat))

/-- The form of a reduction. -/
def redForm (rm : Bool) : AluForm :=
  { d := .scal 1, a := srcV 32, b := .none, c := .none, tys := [0, 3, 7, 9], rm := rm, sat := rm, opb := opbZero }

/-- The form of a reduction with its data operand in the reduction's type. -/
def redFormOf (rm : Bool) (f : FmtA) : AluForm :=
  { redForm rm with a := if redFloat f then srcF .f32 else srcV 32 }

/-- The data operand of a reduction or scan. -/
def readRed (v : View) (f : FmtA) (l : Nat) : Word := if redFloat f then readF v .f32 f.sa l else readV32 v 32 f.sa l

/-- A reduction into a scalar; without an active lane it has no effect. -/
def reduce (rm : Bool) (f : FmtA) (g : Lanes → (Nat → Word) → Option (Nat × Conds)) (s : State) :
    Host.Outcome State Fault Refusal :=
  late (redFormOf rm f) .xl f
    (fun v => Pend.scal .xl f.d 1 ((g (v.active f.c) (readRed v f)).map fun r => BitVec.ofNat 128 r.1))
    (fun v => ((g (v.active f.c) (readRed v f)).map Prod.snd).getD {}) s

/-- VREDADD. -/
def execVredadd (f : FmtA) (s : State) : Host.Outcome State Fault Refusal := reduce true f (redAdd f) s

/-- VREDMIN. -/
def execVredmin (f : FmtA) (s : State) : Host.Outcome State Fault Refusal := reduce false f (redMinMax f false) s

/-- VREDMAX. -/
def execVredmax (f : FmtA) (s : State) : Host.Outcome State Fault Refusal := reduce false f (redMinMax f true) s

/-- The running value of a scan: an exact integer or a float encoding. -/
structure ScanAcc where
  p : Option Int
  out : Cells 32
  cs : Conds

/-- The identity of an exclusive scan (R249). -/
def scanIdentity (f : FmtA) (fn : Nat) : Word :=
  match fn with
  | 0 => 0
  | 1 => if redFloat f then 0x7F800000 else if redSigned f then 0x7FFFFFFF else 0xFFFFFFFF
  | _ => if redFloat f then 0xFF800000 else if redSigned f then 0x80000000 else 0

/-- One step of a scan: the new running value of `p` and the lane's value `x` (R249). -/
def scanStep (f : FmtA) (fn : Nat) (p : Option Int) (x : Word) : Int × Conds :=
  if redFloat f then
    match p with
    | none => let r := passFloat x.toNat; (r.1, r.2)
    | some y =>
      let r := if fn = 0 then floatAdd (RMode.ofBits f.rm) f.sat y.toNat x.toNat
        else fminmax (decide (fn = 2)) y.toNat x.toNat
      (r.1, r.2)
  else
    let n := toNum (redSigned f) x
    match p with
    | none => (n, {})
    | some y => (if fn = 0 then y + n else if fn = 1 then min y n else max y n, {})

/-- What a running value is written as: a float encoding, or an integer narrowed to its type. -/
def scanWrite (f : FmtA) (q : Int) : Word :=
  if redFloat f then BitVec.ofNat 32 q.toNat else narrowInt (redSigned f) f.sat 32 q

/-- The whole scan in ascending lane order (R249). -/
def scanRun (f : FmtA) (act : Lanes) (x : Nat → Word) : ScanAcc :=
  let fn := f.opb.toNat % 4
  let excl := decide (4 ≤ f.opb.toNat)
  (lanesList act).foldl (fun (a : ScanAcc) l =>
    let q := scanStep f fn a.p (x l)
    let y := if excl then (match a.p with
      | none => scanIdentity f fn
      | some p => scanWrite f p) else scanWrite f q.1
    { p := some q.1, out := cellSet a.out l y, cs := a.cs.or q.2 }) { p := none, out := [], cs := {} }

/-- Causes of a scan's OPB: function 3 is reserved, bits above the exclusive bit are zero. -/
def opbScan (x : Nat) : List Nat := (if x % 4 = 3 then [0x04] else []) ++ (if 8 ≤ x then [0x02] else [])

/-- VSCAN; RM and SAT only with .add (R244, R249). -/
def execVscan (f : FmtA) (s : State) : Host.Outcome State Fault Refusal :=
  let m := { redFormOf (decide (f.opb.toNat % 4 = 0)) f with d := .vec 1, opb := opbScan }
  late m .xl f
    (fun v =>
      let r := scanRun f (v.active f.c) (readRed v f)
      Pend.vec .xl f.d 1 (v.active f.c) fun _ l => cellGet r.out l)
    (fun v => (scanRun f (v.active f.c) (readRed v f)).cs) s

end Sys2Proof.Machine
end

