-- ==== Sys2Proof/Machine/Translate.lean ====
section
/-!
DEFINITION. Virtual addresses: the page-table walk, its checks, the TLBs, accessed and dirty bits (R116 to R122), and
fabric addresses (R421).
-/

namespace Sys2Proof.Machine

/-- A memory fault of R183: its order, subcause, and whether it is restartable (R394). -/
structure MemFault where
  cause : Nat
  sub : Nat
  rst : Bool
  deriving DecidableEq, Repr, Inhabited

/-- A fault of R183 that cannot be restarted. -/
def MemFault.plain (cause : Nat) : MemFault := { cause := cause, sub := 0, rst := false }

/-- Translation fault, not-present. -/
def MemFault.notPresent : MemFault := { cause := 5, sub := 0, rst := true }

/-- Translation fault, non-canonical. -/
def MemFault.nonCanonical : MemFault := { cause := 5, sub := 1, rst := false }

/-- Malformed entry. -/
def MemFault.malformed : MemFault := .plain 6

/-- Permission. -/
def MemFault.permission : MemFault := .plain 8

/-! ### Page-table entries (R118) -/

/-- One bit of an entry. -/
def pteBit (p : Dword) (i : Nat) : Bool := p.getLsbD i

/-- The physical page address of an entry. -/
def ptePage (p : Dword) : Nat := (p.extractLsb' 12 40).toNat * 4096

/-- The memory type of a leaf. -/
def pteMt (p : Dword) : Nat := (p.extractLsb' 10 2).toNat

/-- The bits every entry reserves. -/
def pteReserved (p : Dword) : Bool := decide (p.extractLsb' 52 7 ≠ 0) || pteBit p 63

/-- An entry without AC and DI, and without PPN for a group (R117, R120). -/
def pteCompare (group : Bool) (p : Dword) : Dword :=
  p &&& (if group then 0xFFF0000000000F3F else 0xFFFFFFFFFFFFFF3F)

/-- The walker's seat (R314: the package). -/
def walkerSeat : Seat := .of .walker 0

/-- An entry in memory. -/
def readPte (s : State) (a : Nat) : Dword := BitVec.ofNat 64 (ofBytes ((List.range 8).map fun i => physByte s walkerSeat (a + i)))

/-- Set bits of an entry by a relaxed atomic OR; a core's grant of its line returns first (R120, R197). -/
def orPte (s : State) (a : Nat) (bits : Dword) : State :=
  (s.recall none [lineOf a]).writeNow ((addrBytes a (bytesOf (readPte s a ||| bits).toNat 8)).map fun p => (Loc.phys p.1, p.2))

/-! ### The walk (R117, R119) -/

/-- Physical-access check (R96, R113, R115): no region, a granule of a chip alias not reserved, or one in a range under
change. -/
def physBad (s : State) (pa n : Nat) : Bool :=
  match regionOf s pa n with
  | none => true
  | some (.chip d) =>
    let g := pa % 2 ^ 26 / 2 ^ 20
    let x := s.carve d
    !((s.chrsv[d]?).getD 0).getLsbD g
      || (decide (x.sts = 1 ∨ x.sts = 2) && decide (8 * min x.cur x.csz ≤ g))
  | _ => false

/-- The alias range a carve-out change of its die adds or removes is touched (R115). -/
def chipChanging (s : State) (pa n : Nat) : Bool :=
  decide (chipBase 0 ≤ pa ∧ pa < chipBase 4) &&
    (let x := s.carve ((pa - chipBase 0) / 2 ^ 26)
     decide (x.sts = 1 ∨ x.sts = 2) && decide (min x.cur x.csz * 2 ^ 23 < pa % 2 ^ 26 + n)
      && decide (pa % 2 ^ 26 < max x.cur x.csz * 2 ^ 23))

/-- What the physical address of an access is refused with: space-bound in a range under change, and otherwise
physical-access (R96, R113, R115). -/
def physFault (s : State) (pa n : Nat) : Option MemFault :=
  if chipChanging s pa n then some (.plain 1) else if physBad s pa n then some (.plain 7) else none

/-- What a walk finds: the leaf's address, value and level, or a fault. -/
inductive Leaf
  | ok (addr : Nat) (pte : Dword) (level : Nat)
  | bad (f : MemFault)
  deriving DecidableEq, Repr, Inhabited

/-- Walk `n` levels of tables from the one at `base` (R117). -/
def walkFrom (s : State) (va : Nat) : Nat → Nat → Leaf
  | 0, _ => .bad .malformed
  | n + 1, base =>
    let a := base + 8 * (va / 2 ^ (12 + 9 * n) % 512)
    let p := readPte s a
    if (physFault s a 8).isSome then .bad ((physFault s a 8).getD (.plain 7))
    else if !pteBit p 0 then .bad .notPresent
    else if pteReserved p then .bad .malformed
    else if pteBit p 1 then
      (if 3 ≤ n ∨ ptePage p % 2 ^ (12 + 9 * n) ≠ 0 ∨ pteMt p = 3 ∨ (pteBit p 9 ∧ 0 < n) then .bad .malformed else .ok a p n)
    else if n = 0 ∨ p.extractLsb' 2 10 ≠ 0 then .bad .malformed
    else walkFrom s va n (ptePage p)

/-- Does a page overlap the Almanac region (R432)? -/
def inAlmanac (s : State) (a n : Nat) : Bool :=
  match s.alm.base with
  | none => false
  | some b => decide (a < b + 132 * 2 ^ 20) && decide (b < a + n)

/-- Is the page one a leaf of memory type `mt` may name, counter pages included (R96, R119, R432)? -/
def pageAllowed (s : State) (p : Dword) (a n : Nat) : Bool :=
  let r := regionOf s a n
  let tier : Bool := match r with
    | some (.near _) => true
    | some .far => true
    | _ => false
  let mtOk : Bool := match pteMt p with
    | 0 => decide (r ≠ some .host)
    | 1 => decide (r = some .host)
    | _ => true
  r.isSome && mtOk && !inAlmanac s a n
    && (!pteBit p 5 || (decide (pteMt p = 0) && pteBit p 2 && !pteBit p 4 && tier))

/-- The group of sixteen level-0 entries around the entry at `a` is whole (R117). -/
def groupWhole (s : State) (a : Nat) (p : Dword) : Bool :=
  let first := a / 128 * 128
  (List.range 16).all fun i => decide (pteCompare true (readPte s (first + 8 * i)) = pteCompare true p)

/-- The cached form of a checked leaf, R104 and R105 applied; a whole group takes its base from the touched entry, and its
DI as well: the model's choice (log entry 145). -/
def leafEntry (s : State) (ctx va a : Nat) (p : Dword) (level : Nat) : Option TlbEntry :=
  let whole := pteBit p 9 && groupWhole s a p
  let size := if whole then 65536 else 2 ^ (12 + 9 * level)
  let i := if whole then va / 4096 % 16 else 0
  let pa := ptePage p - 4096 * i
  if (whole && (decide (ptePage p < 4096 * i) || decide (pa % 65536 ≠ 0))) || !pageAllowed s p pa size then none
  else
    let locked := inSealed s pa size
    let dec : Bool := match regionOf s pa size with
      | some (.dec _) => true
      | _ => false
    some { level2 := false, unit := 0, ctx := ctx, page := va / size * size, size := size, pa := pa, pte := p
           leaf := if whole then a / 128 * 128 else a
           rd := pteBit p 2 && !locked, wr := pteBit p 3 && !locked && !dec, ex := pteBit p 4 && !locked && !dec
           ct := pteBit p 5, ckp := pteBit p 8, dirty := pteBit p 7, mt := pteMt p }

/-- The address of the level-0 entry an access through a cached entry touches (R120). -/
def TlbEntry.leafOf (e : TlbEntry) (va : Nat) : Nat := if e.size = 65536 then e.leaf + 8 * (va / 4096 % 16) else e.leaf

/-- The entries a walk of `n` levels from the table at `base` reads, by line, and whether it sets AC in them. -/
def walkReads (s : State) (va : Nat) : Nat → Nat → List (Nat × Bool)
  | 0, _ => []
  | n + 1, base =>
    let a := base + 8 * (va / 2 ^ (12 + 9 * n) % 512)
    let p := readPte s a
    if pteBit p 0 && !pteBit p 1 then (lineOf a, false) :: walkReads s va n (ptePage p) else [(lineOf a, pteBit p 0)]

/-- The cores' grants of the lines a walk reads return to their homes (R197). -/
def State.recallWalk (s : State) (va n base : Nat) : State := s.recall none ((walkReads s va n base).map Prod.fst)

/-- A page walk from the root, by an agent outside the cores: the checked entry, with AC set in its leaf (R119, R120). -/
def walk (s : State) (ctx va : Nat) : State × Except MemFault TlbEntry :=
  match s.ctx? ctx with
  | none => (s, .error .notPresent)
  | some c =>
    let s1 := s.recallWalk va 5 c.ptroot
    match walkFrom s va 5 c.ptroot with
    | .bad f => (s1, .error f)
    | .ok a p n =>
      match leafEntry s ctx va a p n with
      | none => (s1, .error .malformed)
      | some e => (orPte s1 a 0x40, .ok e)

/-! ### Walk caches (R121) -/

/-- The cached entry answers for the walk of an address of a context by a die. -/
def WalkEntry.answers (e : WalkEntry) (die ctx va : Nat) : Bool :=
  decide (e.die = die) && decide (e.ctx = ctx) && decide (va / 2 ^ (12 + 9 * e.level) = e.tag)

/-- The cached entry nearest the leaf that answers for an address, if one does. -/
def walkCached (s : State) (die ctx va : Nat) : Option WalkEntry :=
  [1, 2, 3, 4].findSome? fun n => s.walkCache.find? fun e => decide (e.level = n) && e.answers die ctx va

/-- The non-leaf entries a walk of `n` levels from the table at `base` passes, with their levels. -/
def walkSteps (s : State) (va : Nat) : Nat → Nat → List (Nat × Nat)
  | 0, _ => []
  | n + 1, base =>
    let p := readPte s (base + 8 * (va / 2 ^ (12 + 9 * n) % 512))
    if pteBit p 0 && !pteBit p 1 then (n, ptePage p) :: walkSteps s va n (ptePage p) else []

/-- Put a non-leaf entry into a die's walk cache: newest first, the oldest of 512 dropped. -/
def walkPut (t : List WalkEntry) (e : WalkEntry) : List WalkEntry :=
  let same (x : WalkEntry) : Bool := decide (x.die = e.die ∧ x.ctx = e.ctx ∧ x.level = e.level ∧ x.tag = e.tag)
  e :: ((t.filter fun x => decide (x.die = e.die) && !same x).take 511 ++ t.filter fun x => decide (x.die ≠ e.die))

/-- A walk by a die's walkers, which starts at the cached entry nearest the leaf and caches the entries it passes (R121). -/
def walkBy (s : State) (die ctx va : Nat) : State × Except MemFault TlbEntry :=
  match s.ctx? ctx with
  | none => (s, .error .notPresent)
  | some c =>
    let start := match walkCached s die ctx va with
      | some e => (e.level, e.table)
      | none => (5, c.ptroot)
    let s1 := s.recallWalk va start.1 start.2
    match walkFrom s va start.1 start.2 with
    | .bad f => (s1, .error f)
    | .ok a p n =>
      match leafEntry s ctx va a p n with
      | none => (s1, .error .malformed)
      | some e =>
        let seen := (walkSteps s va start.1 start.2).map fun x =>
          { die := die, ctx := ctx, level := x.1, tag := va / 2 ^ (12 + 9 * x.1), table := x.2 : WalkEntry }
        (orPte { s1 with walkCache := seen.foldl walkPut s.walkCache } a 0x40, .ok e)

/-! ### TLBs (R121) -/

/-- The entry covers a virtual address of a context. -/
def TlbEntry.covers (e : TlbEntry) (ctx va : Nat) : Bool :=
  decide (e.ctx = ctx) && decide (e.page ≤ va) && decide (va < e.page + e.size)

/-- Look an address up in the core's TLB, then in the cluster's. -/
def tlbFind (s : State) (core ctx va : Nat) : Option TlbEntry :=
  match s.tlb.find? fun e => !e.level2 && decide (e.unit = core) && e.covers ctx va with
  | some e => some e
  | none => s.tlb.find? fun e => e.level2 && decide (e.unit = clusterOf core) && e.covers ctx va

/-- Put an entry into a TLB: newest first, the oldest of a full TLB dropped. -/
def tlbPut (t : List TlbEntry) (level2 : Bool) (unit : Nat) (e : TlbEntry) : List TlbEntry :=
  let mine := t.filter fun x => x.level2 = level2 ∧ x.unit = unit ∧ ¬(x.ctx = e.ctx ∧ x.page = e.page)
  let rest := t.filter fun x => ¬(x.level2 = level2 ∧ x.unit = unit)
  { e with level2 := level2, unit := unit } :: mine.take (if level2 then 4095 else 63) ++ rest

/-- Put an entry into the core's and the cluster's TLB. -/
def State.tlbAdd (s : State) (core : Nat) (e : TlbEntry) : State :=
  { s with tlb := tlbPut (tlbPut s.tlb true (clusterOf core) e) false core e }

/-- Translate through the TLBs, walking on a miss. -/
def tlbLook (s : State) (core ctx va : Nat) : State × Except MemFault TlbEntry :=
  match tlbFind s core ctx va with
  | some e => ({ s with tlb := tlbPut s.tlb false core e }, .ok e)
  | none =>
    match walkBy s (dieOf core) ctx va with
    | (s1, .error f) => (s1, .error f)
    | (s1, .ok e) => (s1.tlbAdd core e, .ok e)

/-- Drop cached entries of a page of a context. -/
def State.tlbDrop (s : State) (e : TlbEntry) : State :=
  { s with tlb := s.tlb.filter fun x => ¬(x.ctx = e.ctx ∧ x.page = e.page) }

/-- Set DI in the leaf a write touches and mark the entry the core used dirty; another TLB's entry stays as it is (R120). -/
def State.setDirty (s : State) (core : Nat) (e : TlbEntry) (va : Nat) : State :=
  let s1 := orPte s (e.leafOf va) 0x80
  { s1 with tlb := s1.tlb.map fun x =>
      if x.level2 = false ∧ x.unit = core ∧ x.ctx = e.ctx ∧ x.page = e.page then { x with dirty := true } else x }

/-- The first write through a clean entry: refetch its leaf, and walk again if it changed (R120). The entry to use,
before DI is set. -/
def refetch (s : State) (core ctx va : Nat) (e : TlbEntry) : State × Except MemFault TlbEntry :=
  let p := readPte s (e.leafOf va)
  let group := decide (e.size = 65536)
  if pteCompare group p = pteCompare group e.pte then (s, .ok e)
  else tlbLook (s.tlbDrop e) core ctx va

/-! ### Addresses (R116, R421) -/

/-- What a virtual address comes to. -/
inductive Xlat
  | hit (e : TlbEntry) (pa : Nat)
  | remote (pkg va : Nat)
  | bad (f : MemFault)
  deriving DecidableEq, Repr, Inhabited

/-- Canonical: bits 63 to 57 equal bit 56 (R116). -/
def canonical (a : Dword) : Bool := decide (a.extractLsb' 56 8 = 0) || decide (a.extractLsb' 56 8 = 0xFF)

/-- A fabric address of the context, by destination package and address there (R421). -/
def fabricOf (s : State) (ctx : Nat) (a : Dword) : Option (Nat × Nat) :=
  match s.ctx? ctx with
  | none => none
  | some c => if c.fen && a.getLsbD 56 then some ((a.extractLsb' 43 13).toNat, (a.extractLsb' 0 43).toNat) else none

/-- Translate a .glob or fetch address for a core and a context. -/
def xlate (s : State) (core ctx : Nat) (a : Dword) : State × Xlat :=
  if !canonical a then (s, .bad .nonCanonical)
  else
    let hit (va : Nat) : State × Xlat := match tlbLook s core ctx va with
      | (s1, .error f) => (s1, .bad f)
      | (s1, .ok e) => (s1, .hit e (e.pa + (va - e.page)))
    match fabricOf s ctx a with
    | none => hit (a.toNat % 2 ^ 57)
    | some (pkg, va) => if pkg = Config.packageNumber then hit va else (s, .remote pkg va)

/-- The virtual address the page table translates, below 2^57. -/
def tableVa (s : State) (ctx : Nat) (a : Dword) : Nat :=
  match fabricOf s ctx a with
  | none => a.toNat % 2 ^ 57
  | some (_, va) => va

/-- Whose permission an access needs (R119). -/
inductive Access
  | load | store | atomic | fetch | counter | copySrc | copyDst | weight
  deriving DecidableEq, Repr, Inhabited

/-- The access may write bytes other than as a counter change. -/
def Access.writes : Access → Bool
  | .store => true
  | .atomic => true
  | .copyDst => true
  | _ => false

/-- The access may go to a fabric address (R422). -/
def Access.fabric : Access → Bool
  | .load => true
  | .store => true
  | .counter => true
  | .copySrc => true
  | .copyDst => true
  | _ => false

/-- The permission check of a cached entry for an access, counter pages of counter operations apart (R119, R189,
R191). -/
def permBad (e : TlbEntry) (k : Access) : Option MemFault :=
  match k with
  | .load => if e.rd then none else some .permission
  | .copySrc => if e.rd then none else some .permission
  | .weight => if pteBit e.pte 2 then none else some .permission
  | .fetch => if e.ex then none else some .permission
  | .counter => none
  | _ =>
    if !e.wr || (decide (k = .atomic) && decide (e.mt = 2)) then some .permission
    else if e.ct then some (.plain 9)
    else if e.ckp then some { cause := 10, sub := 0, rst := true }
    else none

/-- TLB_FILL: a walk completes and its leaf is checked and cached (R119). -/
def execTlbFill (core ctx va : Nat) (s : State) : Host.Outcome State Fault Refusal :=
  match walkBy s (dieOf core) ctx (va % 2 ^ 57) with
  | (s1, .error _) => .next s1
  | (s1, .ok e) => .next (s1.tlbAdd core e)

end Sys2Proof.Machine
end

