-- ==== Sys2Proof/Machine/Access.lean ====
section
/-!
DEFINITION. One access of a slot: where an address of each space leads (R112, R150 to R157, R180 to R183), what the
access has to wait for, and reading and writing there.
-/

namespace Sys2Proof.Machine

/-- Where an access goes once its address has passed the checks. -/
inductive Target
  | phys (pa mt : Nat)
  | dec (w q : Nat)
  | scratch (team off : Nat)
  | seg (ctx name off : Nat)
  | lane (key : Nat)
  | remote (pkg va : Nat)
  deriving DecidableEq, Repr, Inhabited

/-- The target of a physical address. -/
def physTarget (s : State) (pa mt : Nat) : Target :=
  match regionOf s pa 1 with
  | some (.dec w) => .dec w (pa - decBase w)
  | _ => .phys pa mt

/-- The checks after translation, in order: physical, then permission (R183). -/
def entryCheck (s : State) (e : TlbEntry) (pa n : Nat) (k : Access) : Option MemFault :=
  match physFault s pa n with
  | some f => some f
  | none => permBad e k

/-- An access to .glob of a core and context: translation, permission, DI (R116 to R122); a fabric address, the package's
own among them, is permitted to the accesses R422 names. -/
def globTarget (s : State) (core ctx : Nat) (a : Dword) (n : Nat) (k : Access) : State × Except MemFault Target :=
  if canonical a && (fabricOf s ctx a).isSome && !k.fabric then (s, .error .permission)
  else match xlate s core ctx a with
  | (s1, .bad f) => (s1, .error f)
  | (s1, .remote pkg va) => (s1, .ok (.remote pkg va))
  | (s1, .hit e pa) =>
    match entryCheck s1 e pa n k with
    | some f => (s1, .error f)
    | none =>
      if k.writes && !e.dirty then
        let va := tableVa s1 ctx a
        match refetch s1 core ctx va e with
        | (s2, .error f) => (s2, .error f)
        | (s2, .ok e2) =>
          let pa2 := e2.pa + (va - e2.page)
          match entryCheck s2 e2 pa2 n k with
          | some f => (s2, .error f)
          | none => (s2.setDirty core e2 va, .ok (physTarget s2 pa2 e2.mt))
      else (s1, .ok (physTarget s1 pa e.mt))

/-- The upper half of an address: zero for an offset, a handle for a segment address (R150, R156). -/
def upperHalf (a : Dword) : Word := a.extractLsb' 32 32

/-- The lower half of an address. -/
def lowerHalf (a : Dword) : Nat := (a.extractLsb' 0 32).toNat

/-- The segment a team has attached under a handle (R156). -/
def attachedSeg (s : State) (t : Team) (h : Word) : Option Segment :=
  match t.attach.find? fun p => p.2 = h with
  | none => none
  | some p => s.segment? t.ctx p.1

/-- A segment address (R156, R157); `coreSpace` for .core. -/
def segTarget (s : State) (t : Team) (coreSpace : Bool) (a : Dword) (n al : Nat) (k : Access) : Except MemFault Target :=
  match attachedSeg s t (upperHalf a) with
  | none => .error (.plain 2)
  | some g =>
    let o := lowerHalf a
    if 4096 * g.size < o + n ∨ (coreSpace ∧ (g.level1 ∨ g.stripe ≠ [t.core])) then .error (.plain 1)
    else if a.toNat % al ≠ 0 then .error (.plain 4)
    else if g.cnt && k.writes then .error (.plain 9)
    else .ok (.seg t.ctx g.name o)

/-- The team with a team number in a team's gang (R152). -/
def gangTeam (s : State) (t : Team) (num : Nat) : Option Team :=
  s.teams.find? fun x => x.launch = t.launch ∧ x.gang = t.gang ∧ x.stage = t.stage ∧ x.num = num

/-- The gang size of a team's launch (R152). -/
def gangSize (s : State) (t : Team) : Nat := ((s.launches.find? fun l => l.id = t.launch).map Launch.teams).getD 0

/-- A plain .clus address (R152). -/
def clusTarget (s : State) (t : Team) (a : Dword) (n al : Nat) : Except MemFault Target :=
  let num := lowerHalf a / 2 ^ 20
  let o := lowerHalf a % 2 ^ 20
  if gangSize s t ≤ num then .error (.plain 1)
  else match gangTeam s t num with
  | none => .error (.plain 3)
  | some u =>
    if u.scratchSize < o + n then .error (.plain 1)
    else if !t.member || !u.member then .error (.plain 3)
    else if a.toNat % al ≠ 0 then .error (.plain 4)
    else .ok (.scratch u.id o)

/-- A .chip offset (R112, R115). -/
def chipTarget (s : State) (t : Team) (a : Dword) (n al : Nat) : Except MemFault Target :=
  let o := lowerHalf a
  if upperHalf a ≠ 0 ∨ t.chip.length * 2 ^ 20 < o + n then .error (.plain 1)
  else
    let g := (t.chip[o / 2 ^ 20]?).getD 0
    let x := s.carve (dieOf t.core)
    if (x.sts = 1 ∨ x.sts = 2) ∧ 8 * min x.cur x.csz ≤ g then .error (.plain 1)
    else if a.toNat % al ≠ 0 then .error (.plain 4)
    else .ok (.phys (chipBase (dieOf t.core) + g * 2 ^ 20 + o % 2 ^ 20) 2)

/-- The target of an address of a team in .core, .clus or .chip, aligned to `al` bytes (R112, R150 to R157). -/
def teamTarget (s : State) (t : Team) (spc : Nat) (a : Dword) (n al : Nat) (k : Access) : Except MemFault Target :=
  match spc with
  | 1 =>
    if upperHalf a ≠ 0 then segTarget s t true a n al k
    else if t.scratchSize < lowerHalf a + n then .error (.plain 1)
    else if a.toNat % al ≠ 0 then .error (.plain 4)
    else .ok (.scratch t.id (lowerHalf a))
  | 2 => if upperHalf a ≠ 0 then segTarget s t false a n al k else clusTarget s t a n al
  | _ => chipTarget s t a n al

/-- The checks of R183 on one address of a slot, in their order. -/
def slotTarget (s : State) (v : View) (spc : Nat) (lane : Nat) (a : Dword) (n : Nat) (k : Access) :
    State × Except MemFault Target :=
  match spc with
  | 0 => if a.toNat % n ≠ 0 then (s, .error (.plain 4)) else globTarget s v.t.core v.t.ctx a n k
  | 4 =>
    if upperHalf a ≠ 0 ∨ v.t.laneBytes < lowerHalf a + n then (s, .error (.plain 1))
    else if a.toNat % n ≠ 0 then (s, .error (.plain 4))
    else (s, .ok (.lane ((v.sl.wave * 96 + lane) * v.t.laneBytes + lowerHalf a)))
  | _ => (s, teamTarget s v.t spc a n n k)

/-! ### What an access waits for -/

/-- Something an access needs first: a host cache's answer (R416), a host line (R418), or a granule or team that is
not in place (R167, R352). -/
inductive Need
  | snoop (line : Nat) (inv : Bool)
  | cxl (line : Nat)
  | team (id : Nat)
  | place
  deriving DecidableEq, Repr, Inhabited

/-- The saved team that is needed back. -/
def needTeam : Need → Option Nat
  | .team t => some t
  | _ => none

/-- The back-invalidate a device access to a line needs (R416). -/
def snoopNeed (s : State) (write : Bool) (line : Nat) : List Need :=
  match s.hostLines.find? fun x => x.line = line with
  | none => []
  | some x =>
    if write then (if x.st = .i then [] else [.snoop line true])
    else if x.st = .m then [.snoop line false] else []

/-- The needs of an access to `n` bytes of a target. -/
def targetNeeds (s : State) (write : Bool) (n : Nat) : Target → List Need
  | .phys pa mt =>
    let l := lineOf pa
    (if mt = 1 ∧ ¬s.hostMem.contains l then [.cxl l] else []) ++ snoopNeed s write l
  | .dec w q => (decodedFrom s w q n).flatMap (snoopNeed s false)
  | .scratch t _ => match s.team? t with
    | none => []
    | some x => if x.status = .saved then [.team t] else []
  | .seg c nm o => match s.segment? c nm with
    | none => []
    | some g => if g.missing.contains (o / 4096) then [.place] else []
  | .lane _ => []
  | .remote _ _ => []

/-- The back-invalidates that translating a .glob address for a core needs: of the entries a walk reads, and of the leaf
that AC or DI is set in (R120, R416). -/
def xlateNeeds (s : State) (core ctx : Nat) (a : Dword) (writes : Bool) : List Need :=
  let va := tableVa s ctx a
  if s.hostLines = [] ∨ !canonical a then []
  else match tlbFind s core ctx va with
  | some e => if writes && !e.dirty then snoopNeed s true (lineOf (e.leafOf va)) else []
  | none =>
    match s.ctx? ctx with
    | none => []
    | some c =>
      let start := match walkCached s (dieOf core) ctx va with
        | some e => (e.level, e.table)
        | none => (5, c.ptroot)
      (walkReads s va start.1 start.2).flatMap fun p => snoopNeed s p.2 p.1

/-- The back-invalidates that performing the writes of `p` needs (R416). -/
def coverNeeds (s : State) (p : PWrite → Bool) : List Need := (writeSnoops s p).map fun l => .snoop l true

/-- The back-invalidates that an operation at one point on some locations needs: those of the writes to them that come
first (R314, R416). -/
def locNeeds (s : State) (locs : List Loc) : List Need := coverNeeds s fun w => locs.any fun l => (w.at? l).isSome

/-- The entry's word shares a byte with `n` bytes at a physical address. -/
def CombEntry.meets (e : CombEntry) (pa n : Nat) : Bool :=
  decide (pa < e.pa + (if e.w64 then 8 else 4)) && decide (e.pa < pa + n)

/-- The locations of an entry's word. -/
def CombEntry.locs (e : CombEntry) : List Loc := (List.range (if e.w64 then 8 else 4)).map fun i => .phys (e.pa + i)

/-- What a combining-buffer entry needs before it can be performed: its host line with ownership (R189), and that no host
cache keeps its device line or that of a write that comes before it (R314, R416). -/
def entryNeeds (s : State) (e : CombEntry) : List Need :=
  (if hostBase ≤ e.pa ∧ !s.hostMem.contains (lineOf e.pa) then [.cxl (lineOf e.pa)] else [])
    ++ snoopNeed s true (lineOf e.pa) ++ locNeeds s e.locs

/-- What a release needs whose core flushes the entries of `p`: those that cannot be performed yet (R292, R316). -/
def flushNeeds (s : State) (p : CombEntry → Bool) : List Need :=
  ((s.comb ++ s.lateReds).filter p).flatMap (entryNeeds s)

/-- The core's entries that an access to `n` bytes of a target touches, the bytes behind a decoded alias among them (R198,
flush 2; R321). -/
def touches (s : State) (core : Nat) (t : Target) (n : Nat) : CombEntry → Bool :=
  match t with
  | .phys pa _ => fun e => decide (e.core = core) && e.meets pa n
  | .dec w q =>
    let as := (List.range n).flatMap fun i => decodedOf s w (q + i)
    fun e => decide (e.core = core) && as.any fun a => e.meets a 1
  | _ => fun _ => false

/-- What an access to `n` bytes of a target waits for: that the core's entries it touches can be performed before it (R194,
R198). -/
def touchNeeds (s : State) (core : Nat) (t : Target) (n : Nat) : List Need := flushNeeds s (touches s core t n)

/-- Send what an access needs: back-invalidates and CXL.cache requests. -/
def State.request (s : State) (ns : List Need) : State :=
  ns.foldl (fun s x => match x with
    | .snoop l inv => s.snoop l inv
    | .cxl l => if s.cxlReqs.contains l then s else { s with cxlReqs := s.cxlReqs ++ [l] }
    | .team t => if s.awaited.contains t then s else { s with awaited := s.awaited ++ [t] }
    | .place => s) s

/-- Bytes of pending writes to locations that cease to be, or are cleared, are never performed (R112, R115, R170). -/
def State.dropBytes (s : State) (p : Loc → Bool) : State :=
  { s with writes := s.writes.map fun w => { w with bytes := w.bytes.filter fun x => !p x.1 } }

/-- Physical addresses of a range. -/
def Loc.inRange (lo hi : Nat) : Loc → Bool
  | .phys a => decide (lo ≤ a) && decide (a < hi)
  | _ => false

/-! ### Reading and writing a target -/

/-- Byte `i` of a target's location, for those that are locations. -/
def targetLoc (t : Target) (i : Nat) : Option Loc :=
  match t with
  | .phys pa _ => some (.phys (pa + i))
  | .scratch tm o => some (.scratch tm (o + i))
  | .seg c nm o => some (.seg c nm (o + i))
  | _ => none

/-- The locations a read of `n` bytes of a target takes: those of the raw bytes and the scale data for a decoded alias
(R321). -/
def readLocs (s : State) (n : Nat) : Target → List Loc
  | .dec w q => ((List.range n).flatMap fun i => decodedOf s w (q + i)).map Loc.phys
  | t => (List.range n).filterMap (targetLoc t)

/-- Bytes with the locations they go to. -/
def targetBytes (t : Target) (data : List Byte) : List (Loc × Byte) :=
  (List.range data.length).filterMap fun i => (targetLoc t i).map fun l => (l, byteAt data i)

/-- Read `n` bytes of a target as an agent sees them; lane slices are read from the team. -/
def readTarget (s : State) (r : Seat) (t : Target) (n : Nat) : List Byte :=
  match t with
  | .dec w q => (List.range n).map fun i => decodedByte s r w (q + i)
  | .lane key => (List.range n).map fun i => match s.team? r.team with
    | none => 0
    | some x => cellGet x.lane (key + i)
  | _ => (List.range n).map fun i => match targetLoc t i with
    | none => 0
    | some l => seenByte s r l

/-- Does data read there meet an uncorrectable error (R183, R167)? -/
def targetPoisoned (s : State) (n : Nat) : Target → Bool
  | .phys pa _ => s.poison.contains (lineOf pa)
  | .dec w q => (decodedFrom s w q n).any s.poison.contains
  | .seg c nm o => match s.segment? c nm with
    | none => false
    | some g => g.poison.any fun p => p.1 = o / 4096
  | _ => false

/-- The line of a target whose near copies an access recalls (R197). -/
def targetLines (t : Target) : List Nat := match t with
  | .phys pa _ => [lineOf pa]
  | _ => []

/-- The lines a read of `n` bytes of a target takes, those a decoded alias derives from among them. -/
def readLines (s : State) (n : Nat) (t : Target) : List Nat := match t with
  | .dec w q => decodedFrom s w q n
  | t => targetLines t

/-- Store to a target: a lane slice at once, a location as a write to be performed. -/
def storeTarget (s : State) (r : Seat) (core : Nat) (stream : Option (BitVec 4)) (lane : Option Nat) (deps : List Nat)
    (t : Target) (data : List Byte) : State :=
  match t with
  | .lane key => s.modTeam r.team fun x => { x with lane := cellSetAll x.lane (addrBytes key data) }
  | _ => (units (targetBytes t data)).foldl (fun s u => s.addWrite r stream lane deps u)
      (s.recall (some core) (targetLines t))

/-! ### Atomic functions (R191) -/

/-- The new value of a function of R191 on `w`-bit values. -/
def atomNew (fn w old x cmp : Nat) : Nat :=
  let o := BitVec.ofNat w old
  let y := BitVec.ofNat w x
  match fn with
  | 0 => (o + y).toNat
  | 1 => (floatAdd .rne false old x).1
  | 2 => if o.toInt ≤ y.toInt then old else x
  | 3 => if old ≤ x then old else x
  | 4 => if o.toInt ≤ y.toInt then x else old
  | 5 => if old ≤ x then x else old
  | 6 => (o &&& y).toNat
  | 7 => (o ||| y).toNat
  | 8 => (o ^^^ y).toNat
  | 9 => x
  | _ => if old = cmp then x else old

/-- Two operands of a combining-buffer entry merged into one (R198). -/
def combMerge (fn w a b : Nat) : Nat := atomNew fn w a b 0

/-- The core's wide seat: a reader for which every write it may see is already performed. -/
def homeSeat : Seat := .of .walker 0

/-- Read-modify-write at one point for all agents (R195): earlier writes to the bytes are performed, the old value read
and the new one written. -/
def State.rmw (s : State) (r : Seat) (t : Target) (n : Nat) (f : Nat → Nat) : State × Nat :=
  match t with
  | .lane key =>
    let old := ofBytes (readTarget s r t n)
    (s.modTeam r.team fun x => { x with lane := cellSetAll x.lane (addrBytes key (bytesOf (f old) n)) }, old)
  | _ =>
    let s1 := s.perform 6 fun w => (targetBytes t (List.replicate n 0)).any fun p => (w.at? p.1).isSome
    let old := ofBytes (readTarget s1 r t n)
    (s1.writeNow (targetBytes t (bytesOf (f old) n)), old)

/-- The line of a physical address, where it has a home: every mapped range but the aliases of the chip scratchpads (R98). -/
def homeLine (s : State) (pa : Nat) : List Nat :=
  match regionOf s pa 1 with
  | some (.chip _) => []
  | _ => [lineOf pa]

/-- Flush one combining-buffer entry: it is performed as one RED at its placement; at an uncorrectable error it is
dropped and charged (R198, R405). One on a line that a host has still to give up is performed when it has (R189, R416). -/
def State.flushEntry (s : State) (e : CombEntry) : State :=
  if s.poison.contains (lineOf e.pa) then s.charge e.ctx 0x12 (BitVec.ofNat 64 e.pa) 0
  else if entryNeeds s e ≠ [] then ({ s with lateReds := s.lateReds ++ [e] } : State).request (entryNeeds s e)
  else
    let n := if e.w64 then 8 else 4
    let s1 := (homeLine s e.pa).foldl (fun s l => s.placeAtomic e.core e.pl l) s
    (s1.rmw homeSeat (.phys e.pa 0) n fun old => atomNew e.fn (8 * n) old e.operand.toNat 0).1

/-- Perform the late reductions that wait for nothing any more, oldest first, and ask for what the others wait for. -/
def State.performLate (s : State) : State :=
  let s1 := (s.lateReds.filter fun e => entryNeeds s e = []).foldl State.flushEntry
    { s with lateReds := s.lateReds.filter fun e => entryNeeds s e ≠ [] }
  s1.request (s1.lateReds.flatMap (entryNeeds s1))

/-- Flush the entries of `p`, oldest first: the late ones that wait for nothing any more, then the resting ones (R198). -/
def State.flushComb (s : State) (p : CombEntry → Bool) : State :=
  let s1 := s.performLate
  (s1.comb.filter p).foldl State.flushEntry { s1 with comb := s1.comb.filter fun e => !p e }

/-- Flush the core's entries that an access to `n` bytes of a target touches, the late ones among them (R198, flush 2). -/
def State.flushFor (s : State) (core : Nat) (t : Target) (n : Nat) : State := match t with
  | .phys _ _ => s.flushComb (touches s core t n)
  | .dec _ _ => s.flushComb (touches s core t n)
  | _ => s

/-- A read of `n` bytes of a target fills the decoded lines it takes (R108). -/
def State.fillFor (s : State) (r : Seat) (t : Target) (n : Nat) : State :=
  match t with
  | .dec w q => s.fillDecoded r w q n
  | _ => s

end Sys2Proof.Machine
end

