-- ==== Sys2Proof/Machine/Loads.lean ====
section
/-!
DEFINITION. Class 2: loads, stores, atomics, reductions, prefetch and fences (R178 to R203), and the write of a
tracked result (R49).
-/

namespace Sys2Proof.Machine

/-! ### Fields (R178, R179) -/

/-- Registers a value of size code `sz` spans (R178). -/
def szGroup (sz : Nat) : Nat := if sz = 4 then 4 else if sz = 3 then 2 else 1

/-- Bytes of a size code (R32). -/
def szBytes (sz : Nat) : Nat := 2 ^ sz

/-- Causes of the modifier fields. -/
def modCauses (f : FmtM) (spcMax szMin szMax : Nat) (atomic : Bool) : List Nat :=
  (if spcMax < f.spc.toNat ∨ f.sz.toNat < szMin ∨ szMax < f.sz.toNat ∨ f.sco = 7 ∨ (¬atomic ∧ f.sco ≠ 0) ∨ 4 ≤ f.cp.toNat ∨
      (f.cp ≠ 0 ∧ f.spc ≠ 0) then [0x04] else [])
    ++ noNwCauses f.c

/-- Causes of a register group that D names as data: its form, and pending registers it would read. -/
def dataCauses (v : View) (k : Dst) (sel : BitVec 8) : List Nat :=
  dstForm v.inExp false k sel.toNat ++ (if (dstRegs k sel.toNat).any v.p.pending then [0x06] else [])

/-- Causes of the guard, unless faulted lanes are replayed without it (R185). -/
def memGuardCauses (v : View) (c : Ctl) : List Nat := if v.p.replay then [] else guardCauses v c

/-- The lanes a memory operation acts on: the guarded ones, or the faulted ones of a replay (R185). -/
def memActive (v : View) (c : Ctl) : Lanes := if v.p.replay then v.p.fmask else v.active c

/-- The view with the marks that a memory operation meets in the lanes it acts on (R50, R240, R243). -/
def View.inLanes (v : View) (c : Ctl) : View := v.within (memActive v c)

/-- Causes common to the loads and stores. -/
def memCauses (f : FmtM) (spcMax : Nat) (sb : Src) (v : View) : List Nat :=
  modCauses f spcMax 0 4 false ++ memGuardCauses v f.c ++ srcCauses v false (.sreg 2) f.sa
    ++ srcCauses (v.inLanes f.c) false sb f.sb ++ srcCauses v false .none f.sc

/-! ### Addresses and parts (R180) -/

/-- One access of a memory operation: its lane (0 for a scalar operation) and its address. -/
structure Part where
  lane : Nat
  addr : Dword
  deriving DecidableEq, Repr, Inhabited

/-- Does a scalar memory operation take effect? A replay always does (R185). -/
def scalarActive (v : View) (c : Ctl) : Bool := v.p.replay || decide (v.active c ≠ 0)

/-- The one access of LD and ST. -/
def scalarPart (v : View) (f : FmtM) : Part :=
  { lane := 0, addr := readS64 v f.sa + (readS32 v f.sb).signExtend 64 }

/-- The accesses of a gather or scatter. -/
def gatherParts (v : View) (f : FmtM) : List Part :=
  (lanesList (memActive v f.c)).map fun l =>
    { lane := l, addr := readS64 v f.sa + (readV32 v 32 f.sb l).signExtend 64 }

/-- The accesses of a block operation. -/
def blockParts (v : View) (f : FmtM) : List Part :=
  (lanesList (memActive v f.c)).map fun l =>
    { lane := l, addr := readS64 v f.sa + (readS32 v f.sb).signExtend 64 + BitVec.ofNat 64 (l * szBytes f.sz.toNat) }

/-! ### Resolving the accesses (R182, R183) -/

/-- An access that passed its checks. -/
structure Good where
  lane : Nat
  addr : Dword
  t : Target
  deriving DecidableEq, Repr, Inhabited

/-- An access that failed one. -/
structure Bad where
  lane : Nat
  addr : Dword
  f : MemFault
  deriving DecidableEq, Repr, Inhabited

/-- The accesses of an operation after the checks, in the order given. -/
structure Resolved where
  good : List Good
  bad : List Bad
  deriving DecidableEq, Repr, Inhabited

/-- The request an agent has under way for one part of its operation. -/
def remoteOf (s : State) (who : Agent) (part : Nat) : Option RemoteReq :=
  s.remote.find? fun r => r.who = who ∧ r.part = part

/-- The route to a package is known (R420). -/
def reachable (s : State) (pkg : Nat) : Bool := s.routes.any fun r => r.1 = pkg

/-- What a remote access has come to: a fault, or still good (R422). -/
def remoteFault (s : State) (who : Agent) (part pkg : Nat) : Option MemFault :=
  match remoteOf s who part with
  | some ⟨_, _, _, _, _, _, _, _, some (false, d)⟩ =>
    some { cause := (byteAt d 0).toNat, sub := 0x80 + (byteAt d 1).toNat % 128, rst := false }
  | some _ => none
  | none => if reachable s pkg then none else some { cause := 7, sub := 0x80, rst := false }

/-- The class of a check that failed at a destination: that of R297 where a counter's page was refused there (R304). -/
def remoteClass (s : State) (who : Agent) (part : Nat) : FaultClass :=
  match remoteOf s who part with
  | some ⟨_, _, _, _, _, _, _, _, some (false, d)⟩ => if byteAt d 2 = 3 then .cntr else .mem
  | _ => .mem

/-- Check one part. -/
def resolveOne (v : View) (spc n : Nat) (k : Access) (remoteOk : Bool) (acc : State × Resolved) (p : Part) :
    State × Resolved :=
  match slotTarget acc.1 v spc p.lane p.addr n k with
  | (s1, .error f) => (s1, { acc.2 with bad := acc.2.bad ++ [⟨p.lane, p.addr, f⟩] })
  | (s1, .ok (.remote pkg va)) =>
    let f := if remoteOk then remoteFault s1 (.slot v.sl) p.lane pkg else some .permission
    match f with
    | some f => (s1, { acc.2 with bad := acc.2.bad ++ [⟨p.lane, p.addr, f⟩] })
    | none => (s1, { acc.2 with good := acc.2.good ++ [⟨p.lane, p.addr, .remote pkg va⟩] })
  | (s1, .ok t) => (s1, { acc.2 with good := acc.2.good ++ [⟨p.lane, p.addr, t⟩] })

/-- Check every part, in ascending lane order. -/
def resolve (s : State) (v : View) (spc n : Nat) (k : Access) (remoteOk : Bool) (ps : List Part) : State × Resolved :=
  ps.foldl (resolveOne v spc n k remoteOk) (s, ⟨[], []⟩)

/-- The lanes of the bad accesses. -/
def Resolved.mask (r : Resolved) : Lanes := r.bad.foldl (fun m b => m ||| (1 <<< b.lane)) 0

/-- The record of a memory fault (R397, R398). -/
def memRec (s : State) (v : View) (f : MemFault) (addr : Dword) (fmask : Lanes) : FRec :=
  { FRec.ofSlot s v .mem f.cause with
    sub := f.sub, rst := f.rst, addr := addr, info := fmask.extractLsb' 0 64, info2 := fmask.extractLsb' 64 32
    skipLen := some v.p.skipBytes }

/-- A remote request sent for a part, unless one is under way. -/
def State.sendRemote (s : State) (who : Agent) (part pkg va n kind : Nat) (data : List Byte) : State :=
  match remoteOf s who part with
  | some _ => s
  | none =>
    { s with
      remote := s.remote ++ [{ tag := s.nextTag, who := who, part := part, pkg := pkg, va := va, size := n, kind := kind
                               data := data, ans := none }]
      nextTag := s.nextTag + 1 }

/-- The agent's remote requests are done with. -/
def State.clearRemote (s : State) (who : Agent) : State := { s with remote := s.remote.filter fun r => r.who ≠ who }

/-- The remote parts whose answers are still to come. -/
def unanswered (s : State) (who : Agent) (gs : List Good) : List Good :=
  gs.filter fun g => match g.t with
    | .remote _ _ => match remoteOf s who g.lane with
      | some r => r.ans.isNone
      | none => true
    | _ => false

/-- Send the requests of remote parts: reads, or writes with their data. -/
def State.sendParts (s : State) (who : Agent) (n kind : Nat) (data : Nat → List Byte) (gs : List Good) : State :=
  gs.foldl (fun s g => match g.t with
    | .remote pkg va => s.sendRemote who g.lane pkg va n kind (data g.lane)
    | _ => s) s

/-- The bytes a good access reads. -/
def goodBytes (s : State) (r : Seat) (n : Nat) (g : Good) : List Byte :=
  match g.t with
  | .remote _ _ => match remoteOf s r.who g.lane with
    | some ⟨_, _, _, _, _, _, _, _, some (true, d)⟩ => d
    | _ => []
  | t => readTarget s r t n

/-! ### The common course -/

/-- Everything preserved order puts before accesses of a stream that read `locs` is performed (R312). -/
def State.forceBefore (s : State) (v : View) (k : BitVec 4) (lanes : List (Option Nat)) (locs : List Loc) : State :=
  let ids := (lanes.flatMap fun l => orderedBefore s v.sl v.p k l) ++ sameAddress s v.sl v.p locs
  s.perform 6 fun w => ids.contains w.id

/-- Everything a fence puts before a slot's reductions of a stream is performed; stream order leaves them out (R194, R203,
R312). A reduction bound for the combining buffer counts as a later access here: the model's choice (log entry 16). -/
def State.forceFenced (s : State) (v : View) (k : BitVec 4) (lanes : List (Option Nat)) : State :=
  let ids := lanes.flatMap fun l => fencedBefore s v.p k l
  s.perform 6 fun w => ids.contains w.id

/-- The back-invalidates that performing what preserved order puts before accesses needs (R312, R416). -/
def beforeNeeds (s : State) (v : View) (k : BitVec 4) (lanes : List (Option Nat)) (locs : List Loc) : List Need :=
  if s.hostLines = [] then []
  else
    let ids := (lanes.flatMap fun l => orderedBefore s v.sl v.p k l) ++ sameAddress s v.sl v.p locs
    coverNeeds s fun w => ids.contains w.id

/-- The back-invalidates that translating the accesses of an operation needs (R416). -/
def partNeeds (s : State) (v : View) (spc : Nat) (k : Access) (ps : List Part) : List Need :=
  if spc = 0 then ps.flatMap fun p => xlateNeeds s v.t.core v.t.ctx p.addr k.writes else []

/-- Perform the accesses of a memory operation: check them, wait for what they need, then act on the good ones and
retire, or stop the slot on the lowest faulted lane, which then owes the replay of the faulted lanes (R182 to R185). `act`
answers the state and the slot as the good accesses leave them; requests to other packages go out behind what preserved
order puts first (R312). -/
def memRun (c : Ctl) (str : BitVec 4) (n : Nat) (k : Access) (spc : Nat) (remoteOk scalar : Bool) (ps : List Part)
    (data : Nat → List Byte) (act : State → List Good → State × Slot) (v : View) (s : State) : State :=
  let walks := partNeeds s v spc k ps
  let (s1, r) := resolve s v spc n k remoteOk ps
  let who := Agent.slot v.sl
  let lanes (gs : List Good) := gs.map fun g => if scalar then none else some g.lane
  let far := unanswered s1 who r.good
  let ns := (r.good.flatMap fun g => targetNeeds s1 (decide (k ≠ .load)) n g.t ++ touchNeeds s1 v.t.core g.t n)
    ++ (if k = .atomic then locNeeds s1 (r.good.flatMap fun g => readLocs s1 n g.t) else [])
    ++ (if k = .store then beforeNeeds s1 v str (lanes far) []
        else beforeNeeds s1 v str (lanes r.good) (r.good.flatMap fun g => readLocs s1 n g.t))
  if walks ≠ [] then (s.request walks).putSlot v { v.p with stalled := true }
  else if ns ≠ [] ∨ far ≠ [] then
    let s2 := s1.request ns
    let s3 := if far = [] ∨ ns ≠ [] then s2 else (s2.forceBefore v str (lanes far) []).sendParts who n (if k = .load then 0 else 1) data far
    s3.putSlot v
      { v.p with stalled := true, waitTeam := ns.findSome? needTeam }
  else
    let (s2, p) := act s1 r.good
    let s3 := s2.clearRemote who
    match r.bad with
    | [] => s3.putSlot v (({ p with fmask := if v.p.replay then 0 else v.p.fmask, replay := false, idle := 0 } : Slot).afterOther c.ch)
    | b :: _ =>
      let m := if scalar then 0 else r.mask
      s3.stopSlot { v with p := { p with fmask := m, replay := !v.inExp } }
        { memRec s3 v b.f b.addr m with vec := !scalar }

/-- The record of a poison fault of a load (R183, R405). -/
def poisonRec (s : State) (v : View) (addr : Dword) : FRec := memRec s v (.plain 11) addr 0

/-- The good accesses whose data can be read, and the record of the lowest one whose data cannot. -/
def splitPoison (s : State) (v : View) (n : Nat) (gs : List Good) : List Good × Option FRec :=
  (gs.filter fun g => !targetPoisoned s n g.t,
    (gs.find? fun g => targetPoisoned s n g.t).map fun g => poisonRec s v g.addr)

/-- The lanes of some accesses. -/
def goodMask (gs : List Good) : Lanes := gs.foldl (fun m g => m ||| (1 <<< g.lane)) 0

/-- Flush combining entries and recall lines the accesses touch (R197, R198). -/
def State.quiet (s : State) (core n : Nat) (gs : List Good) : State :=
  gs.foldl (fun s g => (s.flushFor core g.t n).recall (some core) (readLines s n g.t)) s

/-- The decoded lines the accesses read are filled (R108). -/
def State.fillGood (s : State) (r : Seat) (n : Nat) (gs : List Good) : State :=
  gs.foldl (fun s g => s.fillFor r g.t n) s

/-- The locations the accesses read. -/
def goodLocs (s : State) (n : Nat) (gs : List Good) : List Loc := gs.flatMap fun g => readLocs s n g.t

/-- A value's 32-bit register `i`, from its bytes. -/
def regOfBytes (bs : List Byte) (i : Nat) : Word := BitVec.ofNat 32 (ofBytes ((bs.drop (4 * i)).take 4))

/-! ### Loads (R186, R187) -/

/-- What a load's accesses do: read in stream order, and leave a pending result. A vector load leaves it with no lane active
too; a scalar load that takes no effect leaves none (R40, R49). -/
def loadAct (f : FmtM) (scalar : Bool) (v : View) (s : State) (gs : List Good) : State × Slot :=
  let n := szBytes f.sz.toNat
  let g := szGroup f.sz.toNat
  let s1 := (s.quiet v.t.core n gs).forceBefore v f.str (gs.map fun x => if scalar then none else some x.lane)
    (goodLocs s n gs)
  let (ok, bad) := splitPoison s1 v n gs
  let vals := ok.map fun x => (x.lane, goodBytes s1 v.seat n x)
  let q : Pend :=
    if scalar then
      Pend.scal .ld f.d g (vals.head?.map fun x => BitVec.ofNat 128 (ofBytes x.2))
    else
      Pend.vec .ld f.d g (goodMask ok) fun i l =>
        match vals.find? fun x => x.1 = l with
        | none => 0
        | some x => regOfBytes x.2 i
  (s1.fillGood v.seat n gs,
    if scalar ∧ gs = [] then v.p else v.p.addPend (v.ordered { q with poison := bad }))

/-- LD (R186). -/
def execLd (f : FmtM) (s : State) : Host.Outcome State Fault Refusal :=
  issue s
    (fun v => memCauses f 3 (.scal (.int 32) 1) v ++ dstCauses v (some .ld) (.scal (szGroup f.sz.toNat)) f.d)
    (fun v => v.full .ld)
    fun v => memRun f.c f.str (szBytes f.sz.toNat) .load f.spc.toNat true true
      (if scalarActive v f.c then [scalarPart v f] else []) (fun _ => []) (loadAct f true v) v s

/-- VLD and VLDB. -/
def vectorLoad (f : FmtM) (sb : Src) (parts : View → List Part) (s : State) : Host.Outcome State Fault Refusal :=
  issue s
    (fun v => memCauses f 4 sb v ++ dstCauses (v.inLanes f.c) (some .ld) (.vec (szGroup f.sz.toNat)) f.d)
    (fun v => v.full .ld)
    fun v => memRun f.c f.str (szBytes f.sz.toNat) .load f.spc.toNat true false (parts v) (fun _ => []) (loadAct f false v) v s

/-- VLD (R187). -/
def execVld (f : FmtM) (s : State) : Host.Outcome State Fault Refusal :=
  vectorLoad f (.vec (.int 32) 1) (fun v => gatherParts v f) s

/-- VLDB (R187). -/
def execVldb (f : FmtM) (s : State) : Host.Outcome State Fault Refusal :=
  vectorLoad f (.scal (.int 32) 1) (fun v => blockParts v f) s

/-! ### Stores (R186, R187) -/

/-- The low `n` bytes of `g` registers. -/
def regsBytes (n g : Nat) (r : Nat → Word) : List Byte :=
  ((List.range g).flatMap fun i => bytesOf (r i).toNat 4).take n

/-- The bytes a scalar store writes. -/
def scalarData (v : View) (f : FmtM) : List Byte :=
  regsBytes (szBytes f.sz.toNat) (szGroup f.sz.toNat) fun i => readScalarReg v f.d.toNat i

/-- The bytes a vector store writes in a lane. -/
def vectorData (v : View) (f : FmtM) (l : Nat) : List Byte :=
  regsBytes (szBytes f.sz.toNat) (szGroup f.sz.toNat) fun i => readVectorReg v f.d.toNat i l

/-- What a store's accesses do: leave writes, in ascending lane order, behind what preserved order puts first. -/
def storeAct (f : FmtM) (scalar : Bool) (data : Nat → List Byte) (v : View) (s : State) (gs : List Good) : State × Slot :=
  let n := szBytes f.sz.toNat
  let s1 := s.quiet v.t.core n gs
  let deps (l : Option Nat) := orderedBefore s1 v.sl v.p f.str l
  (gs.foldl (fun s g =>
    let lane := if scalar then none else some g.lane
    match g.t with
    | .remote _ _ => s
    | t => storeTarget s v.seat v.t.core (some f.str) lane (deps lane) t (data g.lane)) s1, v.p)

/-- ST (R186). -/
def execSt (f : FmtM) (s : State) : Host.Outcome State Fault Refusal :=
  issue s (fun v => memCauses f 3 (.scal (.int 32) 1) v ++ dataCauses v (.scal (szGroup f.sz.toNat)) f.d) (fun _ => false)
    fun v => memRun f.c f.str (szBytes f.sz.toNat) .store f.spc.toNat true true
      (if scalarActive v f.c then [scalarPart v f] else []) (fun _ => scalarData v f)
      (storeAct f true (fun _ => scalarData v f) v) v s

/-- VST and VSTB. -/
def vectorStore (f : FmtM) (sb : Src) (parts : View → List Part) (s : State) : Host.Outcome State Fault Refusal :=
  issue s (fun v => memCauses f 4 sb v ++ dataCauses (v.inLanes f.c) (.vec (szGroup f.sz.toNat)) f.d) (fun _ => false)
    fun v => memRun f.c f.str (szBytes f.sz.toNat) .store f.spc.toNat true false (parts v) (vectorData v f)
      (storeAct f false (vectorData v f) v) v s

/-- VST (R187). -/
def execVst (f : FmtM) (s : State) : Host.Outcome State Fault Refusal :=
  vectorStore f (.vec (.int 32) 1) (fun v => gatherParts v f) s

/-- VSTB (R187). -/
def execVstb (f : FmtM) (s : State) : Host.Outcome State Fault Refusal :=
  vectorStore f (.scal (.int 32) 1) (fun v => blockParts v f) s

/-! ### Atomics and reductions (R190 to R199) -/

/-- The function of ATOM and RED (R190). -/
def atomFn (f : FmtM) : Nat := f.sc.toNat % 16

/-- The placement of ATOM and RED (R190). -/
def atomPl (f : FmtM) : Nat := f.sc.toNat / 16 % 4

/-- Causes of SC as a function immediate (R179, R190, R191); `top` is the greatest function. -/
def atomScCauses (f : FmtM) (top : Nat) : List Nat :=
  let x := f.sc.toNat
  if 0x80 ≤ x ∧ x < 0x84 then [0x05]
  else if x < 0xC0 then [0x03]
  else if top < atomFn f ∨ atomPl f = 3 ∨ (atomFn f = 1 ∧ f.sz = 3) then [0x04]
  else []

/-- Registers D spans as data: twice as many for .cas (R192). -/
def atomGroup (f : FmtM) : Nat := szGroup f.sz.toNat * (if atomFn f = 10 then 2 else 1)

/-- Causes common to ATOM and RED; the data group is aligned as `atomGroup` says. -/
def atomCauses (f : FmtM) (top : Nat) (v : View) : List Nat :=
  modCauses f 3 2 3 true ++ memGuardCauses v f.c ++ srcCauses v false (.sreg 2) f.sa
    ++ srcCauses (v.inLanes f.c) false (.vec (.int 32) 1) f.sb ++ atomScCauses f top

/-- Data operand `j` (0 or 1) of a lane: for .cas the comparand, then the value to swap in. -/
def atomData (v : View) (f : FmtM) (j l : Nat) : Nat :=
  let g := szGroup f.sz.toNat
  ofBytes (regsBytes (4 * g) g fun i => readVectorReg v f.d.toNat (j * g + i) l)

/-- The new value an ATOM or RED of a lane writes (R191, R192). -/
def atomStep (v : View) (f : FmtM) (l old : Nat) : Nat :=
  let w := 8 * szBytes f.sz.toNat
  if atomFn f = 10 then atomNew 10 w old (atomData v f 1 l) (atomData v f 0 l)
  else atomNew (atomFn f) w old (atomData v f 0 l) 0

/-- The lines of .glob accesses with a home (R98). -/
def homedLines (s : State) (spc : Nat) (t : Target) : List Nat :=
  match t with
  | .phys pa _ => if spc = 0 then homeLine s pa else []
  | _ => []

/-- One lane's read-modify-write at its placement, with the old value. -/
def atomLane (v : View) (f : FmtM) (s : State) (g : Good) : State × Nat :=
  let n := szBytes f.sz.toNat
  let s1 := (homedLines s f.spc.toNat g.t).foldl (fun s l => s.placeAtomic v.t.core (atomPl f) l) s
  s1.rmw v.seat g.t n (atomStep v f g.lane)

/-- What an ATOM's accesses do: in ascending lane order, each at one point (R192, R195). That no access of another agent
falls between two of its lanes is the model's choice (log entry 120). With no lane active the result is pending all the
same (R49). -/
def atomAct (f : FmtM) (v : View) (s : State) (gs : List Good) : State × Slot :=
  let n := szBytes f.sz.toNat
  let g := szGroup f.sz.toNat
  let s1 := gs.foldl (fun s x => s.flushFor v.t.core x.t n) s
  let s2 := s1.forceBefore v f.str (gs.map fun x => some x.lane) (goodLocs s n gs)
  let (ok, bad) := splitPoison s2 v n gs
  let (s3, vals) := ok.foldl (fun (a : State × List (Nat × Nat)) x =>
    let (s', old) := atomLane v f a.1 x
    (s', a.2 ++ [(x.lane, old)])) (s2, [])
  let q := Pend.vec .ld f.d g (goodMask ok) fun i l =>
    match vals.find? fun x => x.1 = l with
    | none => 0
    | some x => BitVec.ofNat 32 (x.2 / 2 ^ (32 * i))
  (s3, v.p.addPend (v.ordered { q with poison := bad }))

/-- A replayed ATOM waits for the lanes of its first attempt to be written (R184, R185). -/
def atomWait (f : FmtM) (v : View) : Bool :=
  v.full .ld || (v.p.replay && (dstRegs (.vec (atomGroup f)) f.d.toNat).any v.p.pending)

/-- ATOM (R192). -/
def execAtom (f : FmtM) (s : State) : Host.Outcome State Fault Refusal :=
  issue s
    (fun v => atomCauses f 10 v ++ dstForm v.inExp false (.vec (atomGroup f)) f.d.toNat
      ++ (if v.p.replay then [] else
        (if (dstRegs (.vec (atomGroup f)) f.d.toNat).any (v.inLanes f.c).p.pending then [0x06] else [])
          ++ dstCauses (v.inLanes f.c) (some .ld) (.vec (szGroup f.sz.toNat)) f.d))
    (atomWait f)
    fun v => memRun f.c f.str (szBytes f.sz.toNat) .atomic f.spc.toNat false false (gatherParts v f) (fun _ => []) (atomAct f v) v s

/-- Rest a .glob RED of a lane in the core's combining buffer (R198). A merge starts the entry's 2,048 cycles anew: the
model's choice (log entry 146). -/
def State.rest (s : State) (e : CombEntry) : State :=
  let n := if e.w64 then 8 else 4
  let s1 := s.flushComb fun x =>
    decide (x.core = e.core) && x.meets e.pa n && !(decide (x.fn = e.fn) && decide (x.w64 = e.w64))
  let same (x : CombEntry) : Bool :=
    decide (x.core = e.core ∧ x.ctx = e.ctx ∧ x.pa = e.pa ∧ x.fn = e.fn ∧ x.w64 = e.w64 ∧ x.str = e.str)
  if s1.comb.any same then
    { s1 with comb := s1.comb.map fun x =>
        if same x then
          { x with operand := BitVec.ofNat 64 (combMerge e.fn (8 * n) x.operand.toNat e.operand.toNat), born := e.born }
        else x }
  else
    let mine := s1.comb.filter fun x => x.core = e.core
    let s2 := match mine with
      | [] => s1
      | o :: _ => if mine.length < 64 then s1 else ({ s1 with comb := s1.comb.erase o }).flushEntry o
    { s2 with comb := s2.comb ++ [e] }

/-- One lane's RED: into the combining buffer for .glob, at its scratchpad at once otherwise (R193). -/
def redLane (v : View) (f : FmtM) (s : State) (g : Good) : State :=
  match f.spc, g.t with
  | 0, .phys pa _ => s.rest
      { core := v.t.core, team := v.t.id, sl := v.sl, ctx := v.t.ctx, pa := pa, fn := atomFn f, w64 := decide (f.sz = 3)
        str := f.str, pl := atomPl f, operand := BitVec.ofNat 64 (atomData v f 0 g.lane), born := coreClock s v.t.core }
  | _, _ => (atomLane v f s g).1

/-- What a RED's accesses do, once what fences put before them is performed (R203). A RED on a poisoned granule of a segment is not performed, and the slot stops at its next
operation (R167, R183). -/
def redAct (f : FmtM) (v : View) (s : State) (gs : List Good) : State × Slot :=
  let n := szBytes f.sz.toNat
  let rests (g : Good) : Bool := match g.t with
    | .phys _ _ => decide (f.spc = 0)
    | _ => false
  let s1 := s.forceFenced v f.str (gs.map fun x => some x.lane)
  let (ok, bad) := splitPoison s1 v n (gs.filter fun g => !rests g)
  let todo := gs.filter fun g => rests g || ok.contains g
  (todo.foldl (redLane v f) s1, { v.p with poisonStop := v.p.poisonStop <|> bad })

/-- RED (R193). -/
def execRed (f : FmtM) (s : State) : Host.Outcome State Fault Refusal :=
  issue s (fun v => atomCauses f 8 v ++ dataCauses (v.inLanes f.c) (.vec (szGroup f.sz.toNat)) f.d) (fun _ => false)
    fun v => memRun f.c f.str (szBytes f.sz.toNat) .atomic f.spc.toNat false false (gatherParts v f) (fun _ => []) (redAct f v) v s

/-- COMBINING_BUFFER_TIMEOUT: entry `idx` of a core that has rested 2,048 cycles is flushed (R198). -/
def execCombiningBufferTimeout (core idx : Nat) (s : State) : Host.Outcome State Fault Refusal :=
  match (s.comb.filter fun e => e.core = core)[idx]? with
  | none => .next s
  | some e =>
    if e.born + 2048 ≤ coreClock s core then .next (({ s with comb := s.comb.erase e }).flushEntry e) else .next s

/-! ### Prefetch (R200) -/

/-- Ask the home slices for one line: a host line is requested from the host, a decoded line is filled, and what a host
cache has to give up first is asked for; a line that cannot be had is skipped (R200). -/
def State.prefetchData (s : State) (core ctx : Nat) (b : Dword) : State :=
  let later (s : State) (ns : List Need) : State := { s.request ns with prefs := s.prefs ++ [(core, ctx, b.toNat, false)] }
  if !canonical b || (fabricOf s ctx b).isSome then s
  else if xlateNeeds s core ctx b false ≠ [] then later s (xlateNeeds s core ctx b false)
  else match globTarget s core ctx b 128 .load with
  | (s1, .error _) => s1
  | (s1, .ok t) =>
    if targetNeeds s1 false 128 t ≠ [] then later s1 (targetNeeds s1 false 128 t)
    else if targetPoisoned s1 128 t then s1
    else s1.fillFor homeSeat t 128

/-- PREF (R200): it never stalls the slot. -/
def execPref (f : FmtM) (s : State) : Host.Outcome State Fault Refusal :=
  issue s
    (fun v => memCauses f 0 (.scal (.int 32) 1) v ++ (if f.d = 0 then [] else [0x02])) (fun _ => false)
    fun v =>
      let a := (scalarPart v f).addr
      let s1 := if v.active f.c = 0 then s else
        (List.range (2 ^ f.sz.toNat)).foldl (fun s i =>
          s.prefetchData v.t.core v.t.ctx ((a &&& ~~~127) + BitVec.ofNat 64 (128 * i))) s
      s1.putSlot v (v.p.afterOther f.c.ch)

/-! ### Fences (R202, R203) -/

/-- Causes of FENCE and FENCEW (R202). -/
def fenceCauses (f : FmtC) (v : View) : List Nat :=
  noNwCauses f.c ++ guardCauses v f.c
    ++ (if f.d ≠ 0 ∨ f.sa ≠ 0 ∨ f.sb ≠ 0 ∨ f.rsv ∨ f.far ∨ f.near ∨ f.acq ∨ f.rel ∨ f.scope ≠ 0 then [0x02] else [])

/-- Put a fence mark on a slot, dropping what has been performed since. -/
def Slot.addFence (p : Slot) (live : List Nat) (f : FenceMark) : Slot :=
  let old := (p.fences.map fun x => { x with ids := x.ids.filter live.contains }).filter fun x => x.ids ≠ []
  { p with fences := if f.ids = [] then old else old ++ [f] }

/-- Writes a fence orders: those of the slot, or of both slots of the wave, in the named streams. -/
def fenceIds (s : State) (v : View) (across : Bool) (mask : BitVec 16) : List Nat :=
  (s.writes.filter fun w =>
    (if across then agentIsSlot w.seat.who && decide (w.seat.team = v.sl.team) && decide (w.seat.wave = v.sl.wave)
     else ownPast v.sl v.p w)
      && (match w.stream with
        | none => false
        | some k => inMask mask k)).map PWrite.id

/-- FENCE and FENCEW. -/
def fence (f : FmtC) (across : Bool) (s : State) : Host.Outcome State Fault Refusal :=
  issue s (fenceCauses f) (fun _ => false) fun v =>
    let p := if v.active f.c = 0 then v.p
      else v.p.addFence (s.writes.map PWrite.id) { mask := f.mask, across := across, ids := fenceIds s v across f.mask }
    s.putSlot v (p.afterOther f.c.ch)

/-- FENCE (R203). -/
def execFence (f : FmtC) (s : State) : Host.Outcome State Fault Refusal := fence f false s

/-- FENCEW (R203). -/
def execFencew (f : FmtC) (s : State) : Host.Outcome State Fault Refusal := fence f true s

/-! ### Tracked results (R49, R183) -/

/-- TRACKED_RESULT_WRITE: the oldest result of a class is written and its marks clear; poisoned data makes the slot
stop at its next operation (R49, R183). -/
def execTrackedResultWrite (sl : SlotId) (cls : ResClass) (s : State) : Host.Outcome State Fault Refusal :=
  match s.find sl with
  | none => .next s
  | some v =>
    match takePend cls v.p.pend with
    | none => .next s
    | some (q, rest) =>
      let w := (v.w.setSlot sl.b { v.p with pend := rest, poisonStop := v.p.poisonStop <|> q.poison }).land sl.b q
      .next (s.putWave v w)

end Sys2Proof.Machine
end

