-- ==== Sys2Proof/Machine/Control.lean ====
section
/-!
DEFINITION. Class 6: branches, divergence, and the other control operations (R339 to R346, R52).
-/

namespace Sys2Proof.Machine

/-- Causes of CH, NW and a pending guard on a control operation (R339). -/
def controlCauses (c : Ctl) (v : View) : List Nat := noChNwCauses c ++ guardCauses v c

/-- Causes of the fields of format A that must all be zero. -/
def allZeroCauses (f : FmtW) : List Nat :=
  if f.d = 0 ∧ f.sa = 0 ∧ f.sb = 0 ∧ f.sc = 0 ∧ f.m = 0 then [] else [0x02]

/-- Causes of a field that must be zero. -/
def fieldZero {n : Nat} (x : BitVec n) : List Nat := if x = 0 then [] else [0x02]

/-- A slot that goes on at the next operation, after a control operation. -/
def Slot.onward (p : Slot) : Slot := p.afterOther false

/-- A slot that goes on at a target, after a control operation. -/
def Slot.goTo (p : Slot) (target : Dword) : Slot := p.endChain.jump target

/-! ### Branches (R340) -/

/-- BR (R340). -/
def execBr (f : FmtB) (s : State) : Host.Outcome State Fault Refusal :=
  issue s (fun v => controlCauses f.c v ++ fieldZero f.d ++ fieldZero f.sa) (fun _ => false) fun v =>
    s.putSlot v (if v.active f.c = 0 then v.p.onward else v.p.goTo (v.p.branchTarget f.disp))

/-- BRC (R340). -/
def execBrc (f : FmtB) (s : State) : Host.Outcome State Fault Refusal :=
  issue s (fun v => controlCauses f.c v ++ fieldZero f.d ++ srcCauses v false (.sreg 1) f.sa) (fun _ => false) fun v =>
    s.putSlot v (if v.active f.c = 0 ∨ readS32 v f.sa = 0 then v.p.onward else v.p.goTo (v.p.branchTarget f.disp))

/-- CALL (R340): the link is written before the transfer. -/
def execCall (f : FmtB) (s : State) : Host.Outcome State Fault Refusal :=
  issue s (fun v => controlCauses f.c v ++ dstCauses v none (.scal 2) f.d ++ fieldZero f.sa) (fun _ => false) fun v =>
    if v.activeTo f.c f.d = 0 then s.putSlot v v.p.onward
    else
      let w := writeScal v.w v.sl.b 2 f.d (v.p.linkAddr.zeroExtend 128)
      s.putWave v (w.setSlot v.sl.b ((w.slot v.sl.b).goTo (v.p.branchTarget f.disp)))

/-- RET and JMPI: continue at the address in a pair. -/
def indirectJump (f : FmtW) (s : State) : Host.Outcome State Fault Refusal :=
  issue s
    (fun v => controlCauses f.c v ++ fieldZero f.d ++ srcCauses v false (.sreg 2) f.sa ++ fieldZero f.sb ++ fieldZero f.sc
      ++ fieldZero f.m)
    (fun _ => false) fun v =>
      s.putSlot v (if v.active f.c = 0 then v.p.onward else v.p.goTo (v.p.indirect (readS64 v f.sa)))

/-- RET (R340). -/
def execRet (f : FmtW) (s : State) : Host.Outcome State Fault Refusal := indirectJump f s

/-- JMPI (R340). -/
def execJmpi (f : FmtW) (s : State) : Host.Outcome State Fault Refusal := indirectJump f s

/-! ### The divergence stack (R341 to R343) -/

/-- A slot's top owned entry. -/
def topOwned (st : List DivEntry) (b : Bool) : Option DivEntry := st.find? fun e => e.ownerB = b

/-- The stack without a slot's top owned entry. -/
def popOwned (b : Bool) : List DivEntry → List DivEntry
  | [] => []
  | e :: r => if e.ownerB = b then r else e :: popOwned b r

/-- The stack without a slot's most recent SPLIT. -/
def popSplit (b : Bool) : List DivEntry → List DivEntry
  | [] => []
  | e :: r => if e.ownerB = b ∧ e.kind = .split then r else e :: popSplit b r

/-- The slot owns a SPLIT. -/
def ownsSplit (st : List DivEntry) (b : Bool) : Bool := st.any fun e => e.ownerB = b && e.kind = .split

/-- The other slot of a wave. -/
def partner (sl : SlotId) : SlotId := { sl with b := !sl.b }

/-- Put the operations slot `sl`, which is `src`, issued before a slot's later ones: its fences, and its writes, which
streams, fences and addresses then order as the slot's own (R311). -/
def Slot.inherit (p : Slot) (s : State) (src : Slot) (sl : SlotId) : Slot :=
  { p with
    fences := p.fences ++ src.fences
    before := (p.before ++ (s.writes.filter (ownPast sl src)).map PWrite.id).filter fun i => s.writes.any fun w => w.id = i }

/-- The slot BRDIV makes live with the taken lanes (R341, R206, R268, R374). -/
def Slot.fork (x : Slot) (s : State) (sl : SlotId) (tk : Lanes) (pc : Dword) : Slot :=
  { Slot.free with
    live := true, pc := pc, pers := x.pers, owned := tk, mask := tk, bank := x.bank, epib := x.epib, epi := x.epi
    svcOk := x.svcOk }.inherit s x sl

/-- Causes of BRDIV. -/
def brdivCauses (f : FmtB) (v : View) : List Nat :=
  bareCauses f.c ++ fieldZero f.d ++ srcCauses v false .preg f.sa

/-- BRDIV's effect on its wave, where the stack has room. -/
def divWave (s : State) (v : View) (t : Dword) (k : Lanes) : Wave :=
  let b := v.sl.b
  let tk := v.p.mask &&& k
  let rest := v.p.mask &&& ~~~k
  let y := v.w.slot (!b)
  if tk = 0 ∨ rest = 0 then
    { v.w with stack := { kind := .unif, ownerB := b, pc := 0, lanes := 0 } :: v.w.stack }.setSlot b
      (if tk = 0 then v.p.onward else v.p.goTo t)
  else
    let x := { v.p with owned := v.p.owned &&& ~~~tk, mask := rest }.onward
    if y.live then
      { v.w with stack := { kind := .defer, ownerB := b, pc := t, lanes := tk } :: v.w.stack }.setSlot b x
    else
      ({ v.w with stack := { kind := .split, ownerB := b, pc := 0, lanes := 0 } :: v.w.stack }.setSlot b x).setSlot (!b)
        (v.p.fork s v.sl tk t)

/-- BRDIV (R341): it waits for the slot's results; a full stack is the divergence-stack fault. A predicate it names that is pending
kills the wave at once (R50) where R51 would have it wait: the model's choice (log entry 153). -/
def execBrdiv (f : FmtB) (s : State) : Host.Outcome State Fault Refusal :=
  issue s (brdivCauses f) (fun v => v.p.pend ≠ []) fun v =>
    if 32 ≤ v.w.stack.length then s.stopSlot v (FRec.ofSlot s v .dstk 1)
    else s.putWave v (divWave s v (v.p.branchTarget f.disp) (readKReg v.w f.sa.toNat))

/-- Merge the other slot into slot `b`, whose SPLIT is popped, as slot `b` leaves its JOIN (R342). -/
def mergeInto (s : State) (sl : SlotId) (w : Wave) : Wave :=
  let x := w.slot sl.b
  let y := w.slot (!sl.b)
  let own := x.owned ||| y.owned
  let p := ({ x with owned := own, mask := own, status := .running }.inherit s y (partner sl)).onward
  ({ w with stack := popSplit sl.b w.stack }.setSlot sl.b p).setSlot (!sl.b) .free

/-- Is the slot parked at a JOIN? -/
def Slot.atJoin (p : Slot) : Bool := p.live && decide (p.status = .parkedJoin)

/-- JOIN's effect on its wave (R342); a slot that would park while a pre-emption request stands stops (R344). -/
def joinWave (s : State) (v : View) : Wave :=
  let b := v.sl.b
  let y := v.w.slot (!b)
  let park := v.w.setSlot b (if v.t.preempt.isSome then v.p.stopHere
    else { v.p.endChain with status := .parkedJoin, idle := 0 })
  match topOwned v.w.stack b with
  | some e =>
    (match e.kind with
    | .unif => { v.w with stack := popOwned b v.w.stack }.setSlot b v.p.onward
    | .defer =>
      let back : DivEntry := { kind := .merge, ownerB := b, pc := v.p.linkAddr, lanes := v.p.owned }
      { v.w with stack := back :: popOwned b v.w.stack }.setSlot b ({ v.p with owned := e.lanes, mask := e.lanes }.goTo e.pc)
    | .merge =>
      let own := v.p.owned ||| e.lanes
      { v.w with stack := popOwned b v.w.stack }.setSlot b ({ v.p with owned := own, mask := own }.goTo e.pc)
    | .split =>
      if !y.live || (y.atJoin && (topOwned v.w.stack (!b)).isNone) then mergeInto s v.sl v.w else park)
  | none =>
    if y.live && ownsSplit v.w.stack (!b) then
      (if y.atJoin then mergeInto s (partner v.sl) v.w else park)
    else v.w.setSlot b v.p.onward

/-- JOIN (R342): it waits until neither slot has an outstanding result. -/
def execJoin (f : FmtW) (s : State) : Host.Outcome State Fault Refusal :=
  issue s (fun _ => bareCauses f.c ++ allZeroCauses f)
    (fun v => v.p.pend ≠ [] || (v.w.slot (!v.sl.b)).pend ≠ []) fun v => s.putWave v (joinWave s v)

/-- Take entries of an exiting slot until one gives it lanes again, or it becomes free (R343). -/
def unwind (b : Bool) : List DivEntry → Option DivEntry × List DivEntry
  | [] => (none, [])
  | e :: r =>
    if e.ownerB ≠ b then ((unwind b r).1, e :: (unwind b r).2)
    else match e.kind with
    | .unif => unwind b r
    | .split => (none, r)
    | .defer => (some e, r)
    | .merge => (some e, r)

/-- A slot becomes free: a partner parked at JOIN goes on, and when both are free the wave has exited (R343). -/
def freeSlot (s : State) (sl : SlotId) (w : Wave) : Wave :=
  let w1 := w.setSlot sl.b .free
  let y := w.slot (!sl.b)
  if y.atJoin then
    (match topOwned w1.stack (!sl.b) with
    | some _ => mergeInto s (partner sl) w1
    | none => w1.setSlot (!sl.b) ({ y with status := .running }.inherit s (w.slot sl.b) sl).onward)
  else if y.live then w1
  else { w1 with status := .exited }

/-- EXIT's effect on its wave (R343). -/
def exitWave (s : State) (v : View) (act : Lanes) : Wave :=
  let b := v.sl.b
  let p := { v.p with owned := v.p.owned &&& ~~~act, mask := v.p.mask &&& ~~~act }
  if v.p.owned &&& ~~~act ≠ 0 then v.w.setSlot b p.onward
  else
    let r := unwind b v.w.stack
    match r.1 with
    | some e => { v.w with stack := r.2 }.setSlot b ({ p with owned := e.lanes, mask := e.lanes }.goTo e.pc)
    | none => freeSlot s v.sl { v.w with stack := r.2 }

/-- EXIT (R343): it waits until the slot has no outstanding result; a guard that is pending kills the wave at once, the model's
choice (log entry 153). -/
def execExit (f : FmtW) (s : State) : Host.Outcome State Fault Refusal :=
  issue s (fun v => controlCauses f.c v ++ allZeroCauses f) (fun v => v.p.pend ≠ []) fun v =>
    s.putWave v (exitWave s v (v.active f.c))

/-! ### The other control operations (R52, R344 to R346) -/

/-- PPT (R344, R372): with a request standing the slot stops after it; in an expansion at the guest boundary. -/
def execPpt (f : FmtW) (s : State) : Host.Outcome State Fault Refusal :=
  issue s (fun _ => bareCauses f.c ++ allZeroCauses f) (fun _ => false) fun v =>
    if v.t.preempt.isNone then s.putSlot v v.p.onward
    else if v.inExp then s.putSlot v { v.p with stopAtBoundary := true }.onward
    else s.putSlot v { v.p.onward with status := .stopped }

/-- The class a WAITC names (R52). -/
def waitcClass (imm : BitVec 32) : Option ResClass := match (imm.extractLsb' 6 2).toNat with
  | 0 => some .ld | 1 => some .sf | 2 => some .xl | _ => none

/-- WAITC (R52). For the reserved class 3 the wave is killed with cause 0x04, reserved field: the model's choice (log entry
113). -/
def execWaitc (f : FmtI) (s : State) : Host.Outcome State Fault Refusal :=
  issue s
    (fun _ => bareCauses f.c ++ fieldZero f.d ++ fieldZero f.sa ++ fieldZero (f.imm.extractLsb' 8 24)
      ++ (if (waitcClass f.imm).isNone then [0x04] else []))
    (fun v => match waitcClass f.imm with
      | none => false
      | some c => decide ((f.imm.extractLsb' 0 6).toNat < v.p.count c))
    fun v => s.putSlot v v.p.onward

/-- YIELD (R345): for 32 cycles the slot comes last. -/
def execYield (f : FmtW) (s : State) : Host.Outcome State Fault Refusal :=
  issue s (fun v => controlCauses f.c v ++ allZeroCauses f) (fun _ => false) fun v =>
    s.putSlot v (if v.active f.c = 0 then v.p.onward else { v.p.onward with yieldLeft := 32 })

/-- NOP (R345). -/
def execNop (f : FmtW) (s : State) : Host.Outcome State Fault Refusal :=
  issue s (fun v => controlCauses f.c v ++ allZeroCauses f) (fun _ => false) fun v => s.putSlot v v.p.onward

/-- The record of a trap with its code (R394, R398). -/
def trapRec (s : State) (v : View) (cause skip : Nat) (code : Word) : FRec :=
  { FRec.ofSlot s v .trap cause with info2 := code, skipLen := some skip }

/-- BRK (R346): the slot stops at the BRK. -/
def execBrk (f : FmtI) (s : State) : Host.Outcome State Fault Refusal :=
  issue s (fun v => controlCauses f.c v ++ fieldZero f.d ++ fieldZero f.sa) (fun _ => false) fun v =>
    if v.active f.c = 0 then s.putSlot v v.p.onward else s.stopSlot v (trapRec s v 1 v.p.skipBytes f.imm)

/-- TRAP (R346): the slot stops at the operation after it. -/
def execTrap (f : FmtI) (s : State) : Host.Outcome State Fault Refusal :=
  issue s (fun v => controlCauses f.c v ++ fieldZero f.d ++ fieldZero f.sa) (fun _ => false) fun v =>
    if v.active f.c = 0 then s.putSlot v v.p.onward
    else
      let s1 := s.addRec { trapRec s v 2 0 f.imm with slv := true, sl := some v.sl } (s.privileged v.t v.p)
      s1.putSlot v (v.p.onward.holdOn s.nextRec)

end Sys2Proof.Machine
end

