-- ==== Sys2Proof/Machine/Counters.lean ====
section
/-!
DEFINITION. Counters: naming one (R283, R284), adding to it and waking its waiters (R286 to R294, R298), and the six
counter operations (R295 to R302).
-/

namespace Sys2Proof.Machine

/-! ### Values (R286) -/

/-- The reached test (R286). -/
def reached (v t : Dword) : Bool := !(v - t).msb

/-- A counter's place as a target. -/
def CtrPlace.target : CtrPlace → Target
  | .phys pa => .phys pa 0
  | .seg c n o => .seg c n o

/-- Everything written to a counter's bytes is performed. -/
def State.ctrSettle (s : State) (c : CtrPlace) : State :=
  s.perform 6 fun w => (targetBytes c.target (List.replicate 8 0)).any fun p => (w.at? p.1).isSome

/-- A counter operation at the home: a core's grant of the line returns, and everything written to it is performed (R197). -/
def State.ctrHome (s : State) (c : CtrPlace) : State := (s.recall none (targetLines c.target)).ctrSettle c

/-- A counter's value. -/
def ctrValue (s : State) (c : CtrPlace) : Dword := BitVec.ofNat 64 (ofBytes (readTarget s homeSeat c.target 8))

/-- Write a counter's value at one point. -/
def State.ctrPut (s : State) (c : CtrPlace) (x : Dword) : State := s.writeNow (targetBytes c.target (bytesOf x.toNat 8))

/-- One add: the new value, and the entries it reaches leave their home and are to wake (R289, R298), as one does whose
stored state cannot be read (R290, R405). The old value is the answer. -/
def State.ctrAdd (s : State) (c : CtrPlace) (x : Dword) : State × Dword :=
  let s1 := s.ctrSettle c
  let old := ctrValue s1 c
  let s2 := s1.ctrPut c (old + x)
  ({ s2 with waiters := s2.waiters.map fun w =>
      if w.ctr = c ∧ ¬w.polling ∧ (reached (old + x) w.thr ∨ w.bad) then { w with hit := true } else w }, old)

/-- A waiter, registered or parked-polling, is on the counter (R288): one that an add has reached has left it (R289). -/
def ctrWaited (s : State) (c : CtrPlace) : Bool := s.waiters.any fun w => decide (w.ctr = c) && !w.hit

/-! ### Naming a counter (R284, R297) -/

/-- A fault of a counter operation: the class and what R183 or R297 calls it. -/
structure CtrFault where
  cls : FaultClass
  f : MemFault
  deriving DecidableEq, Repr, Inhabited

/-- A counter fault of R297. -/
def CtrFault.cntr (cause : Nat) : CtrFault := { cls := .cntr, f := .plain cause }

/-- A memory fault of a counter operation. -/
def CtrFault.mem (f : MemFault) : CtrFault := { cls := .mem, f := f }

/-- What a counter address names. -/
inductive CtrRef
  | here (c : CtrPlace)
  | remote (pkg va : Nat)
  deriving DecidableEq, Repr, Inhabited

/-- The checks of a counter's page after translation (R297, steps 4 and 5). -/
def ctrPage (s : State) (e : TlbEntry) (pa : Nat) : Option CtrFault :=
  match physFault s pa 8 with
  | some f => some (.mem f)
  | none => if e.ct && e.wr then none else some (.cntr 2)

/-- A .glob counter of a core's context; `chg` for an operation that changes it, whose leaf is refetched where the cached entry
is clean (R120). -/
def ctrGlob (s : State) (core ctx : Nat) (a : Dword) (chg : Bool) : State × Except CtrFault CtrRef :=
  match xlate s core ctx a with
  | (s1, .bad f) => (s1, .error (.mem f))
  | (s1, .remote pkg va) => (s1, .ok (.remote pkg va))
  | (s1, .hit e pa) =>
    match ctrPage s1 e pa with
    | some f => (s1, .error f)
    | none =>
      if chg && !e.dirty then
        let va := tableVa s1 ctx a
        match refetch s1 core ctx va e with
        | (s2, .error f) => (s2, .error (.mem f))
        | (s2, .ok e2) =>
          let pa2 := e2.pa + (va - e2.page)
          match ctrPage s2 e2 pa2 with
          | some f => (s2, .error f)
          | none => (s2, .ok (.here (.phys pa2)))
      else (s1, .ok (.here (.phys pa)))

/-- DI of the leaf behind a .glob counter, set once no fault keeps the change from being made (R120, R297). -/
def State.markCtr (s : State) (core ctx : Nat) (a : Dword) : State :=
  match xlate s core ctx a with
  | (s1, .hit e _) => if e.dirty then s1 else s1.setDirty core e (tableVa s1 ctx a)
  | (s1, _) => s1

/-- A counter in a counter segment of a team (R157, R283). -/
def ctrSeg (s : State) (t : Team) (a : Dword) : Except CtrFault CtrRef :=
  if upperHalf a = 0 then .error (.cntr 2)
  else match segTarget s t false a 8 8 .counter with
  | .error f => .error (.mem f)
  | .ok (.seg c n o) => match s.segment? c n with
    | some g => if g.cnt then .ok (.here (.seg c n o)) else .error (.cntr 2)
    | none => .error (.cntr 2)
  | .ok _ => .error (.cntr 2)

/-- The counter a counter address names, or the first fault of R297, steps 2 to 6; `remoteOk` for CADD and CADDX, the only
ones that a fabric address may name, the package's own among them (R422). -/
def ctrNamed (s : State) (v : View) (a : Dword) (chg remoteOk : Bool) : State × Except CtrFault CtrRef :=
  if a.extractLsb' 1 2 ≠ 0 then (s, .error (.cntr 1))
  else if a.getLsbD 0 then (s, ctrSeg s v.t (a &&& ~~~7))
  else
    let far := canonical a && (fabricOf s v.t.ctx a).isSome && !remoteOk
    match ctrGlob s v.t.core v.t.ctx a chg with
    | (s1, .ok r) => (s1, if far then .error (.cntr 5) else .ok r)
    | r => r

/-- A counter named for an agent without a TLB of its own, through a context's page table (R304 to R306). A fabric address
names a counter such an agent cannot reach (R297, R421, R422). -/
def ctrOfCtx (s : State) (ctx : Nat) (a : Dword) : State × Except CtrFault CtrPlace :=
  if a.extractLsb' 0 3 ≠ 0 then (s, .error (.cntr 1))
  else if !canonical a then (s, .error (.mem .nonCanonical))
  else if (fabricOf s ctx a).isSome then (s, .error (.cntr 5))
  else
    let va := a.toNat % 2 ^ 57
    match walk s ctx va with
    | (s1, .error f) => (s1, .error (.mem f))
    | (s1, .ok e) =>
      let pa := e.pa + (va - e.page)
      match ctrPage s1 e pa with
      | some f => (s1, .error f)
      | none => (s1, .ok (.phys pa))

/-- DI of the leaf behind such a counter, set once no fault keeps the change from being made (R120, R297). -/
def State.markCtrOf (s : State) (ctx : Nat) (a : Dword) : State :=
  let va := a.toNat % 2 ^ 57
  match walk s ctx va with
  | (s1, .ok e) => if e.dirty then s1 else orPte s1 (e.leafOf va) 0x80
  | (s1, .error _) => s1

/-- The back-invalidates that a walk by an agent outside the cores needs (R120, R416). -/
def walkNeeds (s : State) (ctx : Nat) (a : Dword) : List Need :=
  if s.hostLines = [] ∨ !canonical a ∨ (fabricOf s ctx a).isSome then []
  else match s.ctx? ctx with
  | none => []
  | some c => (walkReads s (a.toNat % 2 ^ 57) 5 c.ptroot).flatMap fun p => snoopNeed s p.2 p.1

/-! ### Records and fields -/

/-- The record of a fault of a counter operation (R397, R398): class MEM gives the fault mask. -/
def ctrRec (s : State) (v : View) (f : CtrFault) (a : Dword) : FRec :=
  let r := FRec.ofSlot s v f.cls f.f.cause
  let m : Lanes := if f.cls = .mem then v.p.fmask else 0
  { r with sub := f.f.sub, rst := f.f.rst, addr := a, info := m.extractLsb' 0 64, info2 := m.extractLsb' 64 32
           skipLen := some v.p.skipBytes }

/-- Stop the slot on a fault of a counter operation; after a memory fault it issues again as it issued now, without its
guard (R185, R297). -/
def State.ctrStop (s : State) (v : View) (f : CtrFault) (a : Dword) : State :=
  s.stopSlot { v with p := { v.p with replay := decide (f.cls = .mem) && decide (f.f.cause ≠ 11) && !v.inExp } } (ctrRec s v f a)

/-- Causes of the flags and the scope (R296). -/
def ctrFlagCauses (f : FmtC) (rel acq place : Bool) : List Nat :=
  (if f.rsv then [0x02] else [])
    ++ (if f.scope = 7 ∨ (f.rel ∧ ¬rel) ∨ (f.acq ∧ ¬acq) ∨ ((f.near ∨ f.far) ∧ ¬place) ∨ (f.near ∧ f.far)
        then [0x04] else [])

/-- Causes of SB as a pair or a selector of R295. -/
def ctrValueCauses (v : View) (sel : BitVec 8) : List Nat :=
  let n := sel.toNat
  (if n = 0x85 ∨ (0x88 ≤ n ∧ n ≤ 0x8D) then [0x03] else []) ++ srcCauses v false (.scal (.int 32) 2) sel

/-- Causes common to the counter operations that take one counter. -/
def ctrCauses (f : FmtC) (rel acq place : Bool) (v : View) : List Nat :=
  noNwCauses f.c ++ guardCauses v f.c ++ ctrFlagCauses f rel acq place ++ srcCauses v false (.sreg 2) f.sa
    ++ ctrValueCauses v f.sb

/-- Causes of a D that must be zero. -/
def zeroCauses (x : BitVec 8) : List Nat := if x = 0 then [] else [0x02]

/-! ### Performing -/

/-- A release of the slot at a scope over a stream mask: the core's combining-buffer entries in those streams are
flushed, then the covered writes performed (R292, R316). -/
def State.release (s : State) (v : View) (mask : BitVec 16) (scope : Nat) : State :=
  (s.flushComb fun e => decide (e.core = v.t.core) && inMask mask e.str).releaseWrites v.seat (ownIn v.seat mask) scope

/-- What a release of the slot at a scope needs first (R292, R416). -/
def releaseNeeds (s : State) (v : View) (mask : BitVec 16) (scope : Nat) : List Need :=
  (flushNeeds s fun e => decide (e.core = v.t.core) && inMask mask e.str)
    ++ (if 4 ≤ scope then coverNeeds s (coveredBy v.seat (ownIn v.seat mask)) else [])

/-- The needs of a counter operation at its home. -/
def ctrNeeds (s : State) (chg : Bool) (c : CtrPlace) : List Need :=
  targetNeeds s chg 8 c.target ++ locNeeds s (readLocs s 8 c.target)

/-- Is the counter's line or granule poisoned? -/
def ctrPoisoned (s : State) (c : CtrPlace) : Bool := targetPoisoned s 8 c.target

/-- Place a counter operation on its line: far when a waiter is registered on the line (R287). -/
def State.ctrPlaceOp (s : State) (core : Nat) (f : FmtC) (c : CtrPlace) : State :=
  match c with
  | .seg _ _ _ => s
  | .phys pa =>
    let line := lineOf pa
    let waited := s.waiters.any fun w => !w.hit && match w.ctr with
      | .phys a => decide (lineOf a = line)
      | _ => false
    s.placeAtomic core (if waited ∨ f.far then 2 else if f.near then 1 else 0) line

/-- The common course of a counter operation on the one counter SA names: its faults, what it waits for, then `act`.
`value` is whether SB must be below 2^63, which the home judges (R297), `priv` whether the operation is CSET. -/
def ctrRun (f : FmtC) (chg remoteOk value priv : Bool) (kind : Nat) (act : State → CtrRef → State) (v : View) (s : State) :
    State :=
  let a := readS64 v f.sa
  let x := readS64 v f.sb
  let skip (s : State) : State := s.putSlot v { v.p.afterOther f.c.ch with replay := false }
  let wait (s : State) (ns : List Need) : State := (s.request ns).putSlot v { v.p with stalled := true }
  let walks := if a.getLsbD 0 then [] else xlateNeeds s v.t.core v.t.ctx a chg
  let rel (s : State) : List Need := if f.rel then releaseNeeds s v f.mask f.scope.toNat else []
  if v.active f.c = 0 ∧ !v.p.replay then skip s
  else if priv && !s.privileged v.t v.p then s.ctrStop v (.cntr 4) a
  else if walks ≠ [] then wait s walks
  else match ctrNamed s v a chg remoteOk with
  | (s1, .error e) => s1.ctrStop v e a
  | (s1, .ok r) =>
    match r with
    | .remote pkg va =>
      (match remoteFault s1 (.slot v.sl) 0 pkg with
      | some e => (s1.clearRemote (.slot v.sl)).ctrStop v { cls := remoteClass s1 (.slot v.sl) 0, f := e } a
      | none => match remoteOf s1 (.slot v.sl) 0 with
        | some ⟨_, _, _, _, _, _, _, _, some _⟩ => act s1 r
        | some _ => s1.putSlot v { v.p with stalled := true }
        | none =>
          if rel s1 ≠ [] then wait s1 (rel s1)
          else
            let s2 := if f.rel then s1.release v f.mask f.scope.toNat else s1
            (s2.sendRemote (.slot v.sl) 0 pkg va 8 kind (bytesOf x.toNat 8)).putSlot v { v.p with stalled := true })
    | .here c =>
      if value && x.msb then s1.ctrStop v (.cntr 3) a
      else if priv && ctrWaited s1 c then s1.ctrStop v (.cntr 4) a
      else
        let ns := ctrNeeds s1 chg c ++ rel s1
        if ns ≠ [] then wait s1 ns
        else if ctrPoisoned s1 c then s1.ctrStop v (.mem (.plain 11)) a
        else act (if chg && !a.getLsbD 0 then s1.markCtr v.t.core v.t.ctx a else s1) r

/-- A slot after a counter operation. -/
def ctrDone (f : FmtC) (v : View) : Slot := { v.p.afterOther f.c.ch with replay := false }

/-! ### CADD and CADDX (R298) -/

/-- The add of a wave, with its release and placement; the answer is the old value. -/
def ctrWaveAdd (f : FmtC) (v : View) (s : State) (r : CtrRef) : State × Dword :=
  match r with
  | .remote _ _ =>
    let old := match remoteOf s (.slot v.sl) 0 with
      | some ⟨_, _, _, _, _, _, _, _, some (_, d)⟩ => BitVec.ofNat 64 (ofBytes d)
      | _ => 0
    (s.clearRemote (.slot v.sl), old)
  | .here c =>
    let s1 := if f.rel then s.release v f.mask f.scope.toNat else s
    (s1.ctrPlaceOp v.t.core f c).ctrAdd c (readS64 v f.sb)

/-- CADD (R298). -/
def execCadd (f : FmtC) (s : State) : Host.Outcome State Fault Refusal :=
  issue s (fun v => ctrCauses f true false true v ++ zeroCauses f.d) (fun _ => false)
    (fun v => ctrRun f true true true false 2 (fun s r => (ctrWaveAdd f v s r).1.putSlot v (ctrDone f v)) v s)

/-- A counter operation's tracked result in a scalar group. -/
def ctrResult (f : FmtC) (g : Nat) (x : Dword) (v : View) (s : State) : State :=
  s.putSlot v (({ v.p with replay := false }.addPend (v.ordered (Pend.scal .ld f.d g (some (x.zeroExtend 128))))).afterOther f.c.ch)

/-- CADDX (R298). -/
def execCaddx (f : FmtC) (s : State) : Host.Outcome State Fault Refusal :=
  issue s (fun v => ctrCauses f true true true v ++ dstCauses v (some .ld) (.scal 2) f.d) (fun v => v.full .ld)
    (fun v => ctrRun f true true true false 3
      (fun s r =>
        let (s1, old) := ctrWaveAdd f v s r
        ctrResult f 2 old v s1) v s)

/-! ### Waits (R288 to R290, R299, R300) -/

/-- The home of a counter's waiter entries: an L2 slice by die and number, or a core. -/
def ctrHome (s : State) : CtrPlace → Nat
  | .phys pa => 1000 + 32 * homeDie pa + homeSlice pa
  | .seg c n o => match s.segment? c n with
    | none => 0
    | some g => (g.stripe[o / 4096 % g.stripe.length]?).getD 0

/-- Entries a home holds (R288). -/
def ctrHomeSize : CtrPlace → Nat
  | .phys _ => 2048
  | .seg _ _ _ => 256

/-- Register a waiter for a slot, or let it poll when no entry is free; a line some core holds is recalled
(R287, R288). -/
def State.register (s : State) (v : View) (scope : Nat) (c : CtrPlace) (t : Dword) : State :=
  let used := (s.waiters.filter fun w => !w.polling && !w.hit && decide (ctrHome s w.ctr = ctrHome s c)).length
  let s1 := s.recall none (targetLines c.target)
  { s1 with
    waiters := s1.waiters ++ [{ seq := s1.nextSeq, sl := v.sl, ctx := v.t.ctx, ctr := c, thr := t, scope := scope
                                polling := decide (ctrHomeSize c ≤ used), hit := false }]
    nextSeq := s1.nextSeq + 1 }

/-- The slot parks on its counters. -/
def Slot.park (p : Slot) (ch any : Bool) : Slot :=
  { p.dropLatches.chainStep ch with status := .parkedCtr any, replay := false, idle := 0 }

/-- Register a wait's entries and park its slot; while a pre-emption request stands the wait returns early and the slot
stops (R288, R290, R344). -/
def State.parkOn (s : State) (f : FmtC) (v : View) (any : Bool) (entries : List (CtrPlace × Dword)) : State :=
  if v.t.preempt.isSome then s.putSlot v { (ctrDone f v).endChain with status := .stopped }
  else (entries.foldl (fun s e => s.register v f.scope.toNat e.1 e.2) s).putSlot v (v.p.park f.c.ch any)

/-- CWAIT (R299). -/
def execCwait (f : FmtC) (s : State) : Host.Outcome State Fault Refusal :=
  issue s (fun v => ctrCauses f false true false v ++ zeroCauses f.d) (fun _ => false)
    (fun v => ctrRun f false false false false 0
      (fun s r => match r with
        | .remote _ _ => s
        | .here c =>
          let s1 := s.ctrHome c
          if reached (ctrValue s1 c) (readS64 v f.sb) then s1.putSlot v (ctrDone f v)
          else s1.parkOn f v false [(c, readS64 v f.sb)]) v s)

/-- Both counters of CWAIT2, or the first fault with its address; addresses are examined in the order A, B. -/
def ctrBoth (s : State) (v : View) (a b : Dword) : State × Except (CtrFault × Dword) (CtrPlace × CtrPlace) :=
  match ctrNamed s v a false false with
  | (s1, .error e) => (s1, .error (e, a))
  | (s1, .ok (.remote _ _)) => (s1, .error (.cntr 5, a))
  | (s1, .ok (.here c)) =>
    match ctrNamed s1 v b false false with
    | (s2, .error e) => (s2, .error (e, b))
    | (s2, .ok (.remote _ _)) => (s2, .error (.cntr 5, b))
    | (s2, .ok (.here d)) =>
      if ctrPoisoned s2 c then (s2, .error (.mem (.plain 11), a))
      else if ctrPoisoned s2 d then (s2, .error (.mem (.plain 11), b))
      else (s2, .ok (c, d))

/-- CWAIT2 on two counters that can be read. -/
def cwait2Act (f : FmtC) (v : View) (s : State) (c d : CtrPlace) : State :=
  let any := decide (f.d = 1)
  let ta := (readQuad v f.sb).extractLsb' 0 64
  let tb := (readQuad v f.sb).extractLsb' 64 64
  let s1 := (s.ctrHome c).ctrHome d
  let ra := reached (ctrValue s1 c) ta
  let rb := reached (ctrValue s1 d) tb
  if (ra && rb) || (any && (ra || rb)) then s1.putSlot v (ctrDone f v)
  else
    s1.parkOn f v any ((if ra then [] else [(c, ta)]) ++ if rb then [] else [(d, tb)])

/-- CWAIT2 (R300). -/
def execCwait2 (f : FmtC) (s : State) : Host.Outcome State Fault Refusal :=
  issue s
    (fun v => noNwCauses f.c ++ guardCauses v f.c ++ ctrFlagCauses f false true false ++ srcCauses v false (.sreg 4) f.sa
      ++ srcCauses v false (.sreg 4) f.sb ++ (if 1 < f.d.toNat then [0x03] else []))
    (fun _ => false)
    fun v =>
      if v.active f.c = 0 ∧ !v.p.replay then s.putSlot v (ctrDone f v)
      else
        let q := readQuad v f.sa
        let walk (a : Dword) := if a.getLsbD 0 then [] else xlateNeeds s v.t.core v.t.ctx a false
        let walks := walk (q.extractLsb' 0 64) ++ walk (q.extractLsb' 64 64)
        if walks ≠ [] then (s.request walks).putSlot v { v.p with stalled := true }
        else match ctrBoth s v (q.extractLsb' 0 64) (q.extractLsb' 64 64) with
        | (s1, .error (e, a)) => s1.ctrStop v e a
        | (s1, .ok (c, d)) =>
          let ns := ctrNeeds s1 false c ++ ctrNeeds s1 false d
          if ns ≠ [] then (s1.request ns).putSlot v { v.p with stalled := true } else cwait2Act f v s1 c d

/-- CTEST (R301). -/
def execCtest (f : FmtC) (s : State) : Host.Outcome State Fault Refusal :=
  issue s (fun v => ctrCauses f false true false v ++ dstCauses v (some .ld) (.scal 1) f.d) (fun v => v.full .ld)
    (fun v => ctrRun f false false false false 0
      (fun s r => match r with
        | .remote _ _ => s
        | .here c =>
          let s1 := s.ctrHome c
          ctrResult f 1 (if reached (ctrValue s1 c) (readS64 v f.sb) then 1 else 0) v s1) v s)

/-- CSET (R302). -/
def execCset (f : FmtC) (s : State) : Host.Outcome State Fault Refusal :=
  issue s (fun v => ctrCauses f true false false v ++ zeroCauses f.d) (fun _ => false)
    (fun v => ctrRun f true false false true 0
      (fun s r => match r with
        | .remote _ _ => s
        | .here c =>
          let s1 := if f.rel then s.release v f.mask f.scope.toNat else s
          ((s1.ctrHome c).ctrPut c (readS64 v f.sb)).putSlot v (ctrDone f v)) v s)

/-! ### Waking (R289) -/

/-- A wait of a slot ends: its entries are gone and it goes on after the CWAIT or CWAIT2; also an early return
(R290). -/
def State.endWait (s : State) (sl : SlotId) : State :=
  match s.find sl with
  | none => s
  | some v =>
    let s1 := s.dropWaits fun x => x = sl
    match v.p.status with
    | .parkedCtr _ => s1.putSlot v { v.p with status := .running }.retire
    | _ => s1

/-- One entry of a slot is done: the slot wakes when its wait asks for no other, or returns early where the entry could not
be read (R289, R290). -/
def State.entryDone (s : State) (w : Waiter) : State :=
  let s1 := { s with waiters := s.waiters.filter fun x => decide (x.seq ≠ w.seq) }
  let any : Bool := match s.find w.sl with
    | some v => decide (v.p.status = .parkedCtr true)
    | none => false
  if any || w.bad || !s1.waiters.any fun x => x.sl = w.sl then s1.endWait w.sl else s1

/-- WAITER_WAKE: a reached entry is removed and its slot woken, entries of one counter in registration order (R289). -/
def execWaiterWake (seq : Nat) (s : State) : Host.Outcome State Fault Refusal :=
  match s.waiters.find? fun w => w.seq = seq with
  | none => .next s
  | some w =>
    if w.hit && !s.waiters.any fun x => x.hit && decide (x.ctr = w.ctr) && decide (x.seq < seq) then .next (s.entryDone w)
    else .next s

/-- PARKED_POLLING_REREAD: the core of a parked-polling slot re-reads its counters (R288, R289). -/
def execParkedPollingReread (sl : SlotId) (s : State) : Host.Outcome State Fault Refusal :=
  let mine := s.waiters.filter fun w => decide (w.sl = sl) && w.polling
  let s1 := mine.foldl (fun s w => s.recall none (targetLines w.ctr.target)) s
  .next ((mine.filter fun w => reached (ctrValue s w.ctr) w.thr).foldl State.entryDone s1)

end Sys2Proof.Machine
end

