-- ==== Sys2Proof/Machine/Segments.lean ====
section
/-!
DEFINITION. Named segments (R154 to R175, R457) and the sharing group (R153, R176, R177).
-/

namespace Sys2Proof.Machine

/-! ### The directory, pins and space -/

/-- The segment a team finds under a name: a kernel-class one only within its launch (R159). -/
def segFor (s : State) (t : Team) (name : Nat) : Option Segment :=
  match s.segment? t.ctx name with
  | none => none
  | some g => if g.persist ∨ g.launch = t.launch then some g else none

/-- The team is attached to the name. -/
def Team.attachedTo (t : Team) (name : Nat) : Bool := t.attach.any fun p => p.1 = name

/-- A segment's handle (R155). -/
def Segment.handle (g : Segment) : Word := g.gen.zeroExtend 32 <<< 16 ||| BitVec.ofNat 32 g.desc

/-- The pin count: attached teams and placement pins (R159). -/
def pinCount (s : State) (g : Segment) : Nat :=
  (s.teams.filter fun t => decide (t.ctx = g.ctx) && t.attachedTo g.name).length + g.pins

/-- Counter waiters registered on the segment (R161); one that an add has reached has left (R289). -/
def segWaited (s : State) (g : Segment) : Bool := s.waiters.any fun w => !w.hit && match w.ctr with
  | .seg c n _ => decide (c = g.ctx) && decide (n = g.name)
  | _ => false

/-- The segment holds granules and a descriptor. -/
def Segment.held (g : Segment) : Bool := decide (g.state ≠ .evicted)

/-- Granules a run of `n` over the stripe cores puts on a core (R158). -/
def stripeShare (stripe : List Nat) (n core : Nat) : Nat :=
  match stripe.findIdx? fun c => c = core with
  | none => 0
  | some i => (n + (stripe.length - 1 - i)) / stripe.length

/-- Granules a team holds: its unnamed allocation and its divergence stack area (R149). -/
def Team.granules (t : Team) : Nat := t.scratchSize / 4096 + (512 * t.waves.length + 4095) / 4096

/-- Granules in use on a core, the segments in `skip` (context, name) left out. -/
def usedOn (s : State) (skip : List (Nat × Nat)) (core : Nat) : Nat :=
  ((s.teams.filter fun t => decide (t.core = core ∧ t.status = .placed)).map Team.granules).sum
    + ((s.segs.filter fun g => g.held && !skip.contains (g.ctx, g.name)).map fun g => stripeShare g.stripe g.size core).sum

/-- A run of `n` granules fits on its stripe cores. -/
def runFits (s : State) (skip : List (Nat × Nat)) (stripe : List Nat) (n : Nat) : Bool :=
  stripe.all fun c => decide (usedOn s skip c + stripeShare stripe n c ≤ 192)

/-- The lowest free descriptor of a cluster. -/
def freeDesc (s : State) (skip : List (Nat × Nat)) (cluster : Nat) : Option Nat :=
  (List.range 256).find? fun d => !s.segs.any fun g =>
    g.held && decide (g.cluster = cluster) && decide (g.desc = d) && !skip.contains (g.ctx, g.name)

/-! ### Choosing what to evict (R173) -/

/-- A segment the G4 may evict under pressure. -/
def evictable (s : State) (g : Segment) : Bool :=
  decide (g.state = .resident) && !g.stuck && decide (pinCount s g = 0) && !segWaited s g

/-- `a` is chosen before `b`: persistent first, then the earlier free, then the lower descriptor. -/
def evictsBefore (a b : Segment) : Bool :=
  if a.persist ≠ b.persist then a.persist
  else if a.freeAt ≠ b.freeAt then decide (a.freeAt < b.freeAt)
  else decide (a.desc < b.desc)

/-- Insert a segment at its place in the order of choice. -/
def insertSeg (g : Segment) : List Segment → List Segment
  | [] => [g]
  | x :: r => if evictsBefore g x then g :: x :: r else x :: insertSeg g r

/-- The eligible segments of a cluster in the order of choice. -/
def victims (s : State) (cluster : Nat) : List Segment :=
  (s.segs.filter fun g => evictable s g && decide (g.cluster = cluster)).foldr insertSeg []

/-- The least run of victims after which `ok` holds, the ones before it already skipped. -/
def evictUntil (ok : List (Nat × Nat) → Bool) : List Segment → List (Nat × Nat) → Option (List (Nat × Nat))
  | [], skip => if ok skip then some skip else none
  | g :: r, skip => if ok skip then some skip else evictUntil ok r ((g.ctx, g.name) :: skip)

/-- What a request for granules and a descriptor comes to. -/
inductive Room
  | now (desc : Nat)
  | wait (evict : List (Nat × Nat))
  | noDesc
  | noSpace
  deriving DecidableEq, Repr, Inhabited

/-- Room for a run of `n` granules over the stripe cores and a descriptor in a cluster (R166, R173). -/
def roomFor (s : State) (cluster : Nat) (stripe : List Nat) (n : Nat) : Room :=
  match freeDesc s [] cluster, runFits s [] stripe n with
  | some d, true => .now d
  | _, _ =>
    let leaving := (s.segs.filter fun g => decide (g.state = .evicting) && decide (g.cluster = cluster)).map
      fun g => (g.ctx, g.name)
    let ok (skip : List (Nat × Nat)) : Bool := (freeDesc s skip cluster).isSome && runFits s skip stripe n
    match evictUntil ok (victims s cluster) leaving with
    | some skip => .wait (skip.filter fun x => !leaving.contains x)
    | none =>
      let all := (victims s cluster).map (fun g => (g.ctx, g.name)) ++ leaving
      if (freeDesc s all cluster).isNone then .noDesc else .noSpace

/-! ### Access by the segment engine -/

/-- An access of an agent without a TLB of its own, through a context's page table (R167, R174). A fabric address, the
package's own among them, is refused it: the model's choice (log entry 122). -/
def ctxTarget (s : State) (ctx : Nat) (a : Dword) (n : Nat) (k : Access) : State × Except MemFault Target :=
  if !canonical a then (s, .error .nonCanonical)
  else if (fabricOf s ctx a).isSome then (s, .error .permission)
  else
    let va := a.toNat % 2 ^ 57
    match walk s ctx va with
    | (s1, .error f) => (s1, .error f)
    | (s1, .ok e) =>
      let pa := e.pa + (va - e.page)
      match entryCheck s1 e pa n k with
      | some f => (s1, .error f)
      | none => (if k.writes && !e.dirty then orPte s1 (e.leafOf va) 0x80 else s1, .ok (physTarget s1 pa e.mt))

/-- The lines of `n` bytes of a target. -/
def spanLines (t : Target) (n : Nat) : List Nat := match t with
  | .phys pa _ => (List.range ((pa + n - 1) / 128 - pa / 128 + 1)).map fun i => pa / 128 + i
  | _ => []

/-- The needs of an access that spans lines. -/
def spanNeeds (s : State) (write : Bool) (n : Nat) (t : Target) : List Need :=
  match t with
  | .phys pa mt => (spanLines t n).flatMap fun l => targetNeeds s write 1 (.phys (max pa (128 * l)) mt)
  | .dec _ _ => (List.range n).flatMap fun i => match t with
    | .dec w q => targetNeeds s write 1 (.dec w (q + i))
    | _ => []
  | t => targetNeeds s write n t

/-- Does reading the span meet poison? -/
def spanPoisoned (s : State) (n : Nat) (t : Target) : Bool :=
  match t with
  | .dec w q => (List.range n).any fun i => targetPoisoned s 1 (.dec w (q + i))
  | .phys _ _ => (spanLines t n).any s.poison.contains
  | t => targetPoisoned s n t

/-- The add a segment event owes; when it fails the context receives a CNTR record (R457), and while its counter cannot be
reached it stays owed. The causes of a poisoned counter, and of a counter segment whose issuing team has gone, are the
model's choices (log entries 123, 124). -/
def State.segAdd (s : State) (ctx : Nat) (a : SegAdd) : State :=
  if a.addr = 0 then s
  else
    let fail (s : State) (cause : Nat) : State :=
      let r := match s.team? a.team with
        | some t => FRec.ofTeam s t .cntr cause
        | none => FRec.blank s .cntr cause ctx
      if a.event then s else s.addRec { r with addr := a.addr } false
    let named : State × Except CtrFault CtrPlace :=
      if a.addr.extractLsb' 0 3 ≠ 0 then (s, .error (.cntr 1))
      else if a.clus then
        (s, match s.team? a.team with
          | none => .error (.cntr 2)
          | some t => match ctrSeg s t a.addr with
            | .ok (.here c) => .ok c
            | .ok _ => .error (.cntr 2)
            | .error f => .error f)
      else ctrOfCtx s ctx a.addr
    let owed (s : State) (ns : List Need) : State := ({ s with owedAdds := s.owedAdds ++ [(ctx, a)] } : State).request ns
    let walks := if a.clus ∨ a.addr.extractLsb' 0 3 ≠ 0 then [] else walkNeeds s ctx a.addr
    if walks ≠ [] then owed s walks
    else match named with
    | (s1, .error ⟨.cntr, f⟩) => fail s1 f.cause
    | (s1, .error _) => fail s1 2
    | (s1, .ok c) =>
      let ns := ctrNeeds s1 true c
      if ns ≠ [] then owed s1 ns else if ctrPoisoned s1 c then fail s1 2
      else (((if a.clus then s1 else s1.markCtrOf ctx a.addr).recall none (targetLines c.target)).ctrAdd c 1).1

/-- The adds still owed are tried again, oldest first. -/
def State.performOwed (s : State) : State :=
  s.owedAdds.foldl (fun s a => s.segAdd a.1 a.2) { s with owedAdds := [] }

/-- The location lies in a segment. -/
def Loc.inSeg (ctx name : Nat) : Loc → Bool
  | .seg c n _ => decide (c = ctx) && decide (n = name)
  | _ => false

/-- The write touches a segment. -/
def segWrite (ctx name : Nat) (w : PWrite) : Bool := w.bytes.any fun p => p.1.inSeg ctx name

/-- Every write to a segment is performed. -/
def State.segSettle (s : State) (ctx name : Nat) : State := s.perform 6 (segWrite ctx name)

/-- The eviction of a segment ends: evicted, its granules and descriptor free, its adds made (R171, R174). -/
def State.endEvict (s : State) (g : Segment) : State :=
  let s1 := s.modSeg g.ctx g.name fun g =>
    { g with state := .evicted, cluster := 0, desc := 0, gen := 0, stripe := [], data := [], dirty := [], poison := []
             adds := [] }
  g.adds.foldl (fun s a => s.segAdd g.ctx a) s1

/-- A segment enters eviction; one without dirty granules, to which no write is left, is evicted at once (R174). -/
def State.startEvict (s : State) (ctx name : Nat) : State :=
  match s.segment? ctx name with
  | none => s
  | some g =>
    let s1 := s.modSeg ctx name fun g => { g with state := .evicting }
    if g.dirty = [] then s1.endEvict g else s1

/-- SEGMENT_WRITEBACK_GRANULE: one dirty granule of an evicting segment is written to its backing address, with every write to
the segment in place (R174, R175). A CHARGE record names the granule's own backing address: the model's choice (log entry
147). -/
def execSegmentWritebackGranule (ctx name g : Nat) (s0 : State) : Host.Outcome State Fault Refusal :=
  let before := coverNeeds s0 (segWrite ctx name)
  let s := if before = [] then s0.segSettle ctx name else s0
  match s.segment? ctx name with
  | none => .next s0
  | some x =>
    if x.state ≠ .evicting ∨ ¬x.dirty.contains g then .next s0
    else if before ≠ [] then .next (s0.request before)
    else
      let back := x.backing + BitVec.ofNat 64 (4096 * g)
      if walkNeeds s ctx back ≠ [] then .next (s.request (walkNeeds s ctx back))
      else match ctxTarget s ctx back 4096 .copyDst with
      | (s1, .error f) =>
        if f = .notPresent then .next s
        else .next ((s1.modSeg ctx name fun x => { x with state := .resident, stuck := true, adds := [] }).charge ctx 0x15 back
          (BitVec.ofNat 32 f.cause))
      | (s1, .ok t) =>
        let ns := spanNeeds s1 true 4096 t ++ locNeeds s1 (readLocs s1 4096 t)
        if ns ≠ [] then .next (s1.request ns)
        else
          let bad := x.poison.any fun p => p.1 = g
          let s2 := (s1.recall none (spanLines t 4096)).writeNow (targetBytes t (cellList x.data (4096 * g) 4096))
          let kept := s2.poison.filter fun l => !(spanLines t 4096).contains l
          let s3 := { s2 with poison := if bad then kept ++ spanLines t 4096 else kept }
          let s4 := if bad then s3.charge ctx 0x10 back 0 else s3
          let s5 := s4.modSeg ctx name fun x => { x with dirty := x.dirty.filter fun n => decide (n ≠ g) }
          match s5.segment? ctx name with
          | some y => .next (if y.dirty = [] then s5.endEvict y else s5)
          | none => .next s5

/-- SEGMENT_REFILL_GRANULE: one granule of a refilling segment arrives; after the last one the segment is resident and
its adds are made (R167). A CHARGE record names the granule's own backing address (log entry 147). -/
def execSegmentRefillGranule (ctx name g : Nat) (s : State) : Host.Outcome State Fault Refusal :=
  match s.segment? ctx name with
  | none => .next s
  | some x =>
    if x.state ≠ .refilling ∨ ¬x.missing.contains g then .next s
    else
      let back := x.backing + BitVec.ofNat 64 (4096 * g)
      let arrive (s : State) (data : List Byte) (bad : Bool) : State :=
        let left := x.missing.filter fun n => decide (n ≠ g)
        let s1 := s.modSeg ctx name fun x =>
          { x with data := cellSetAll x.data (addrBytes (4096 * g) data), missing := left
                   poison := if bad then x.poison ++ [(g, [])] else x.poison
                   state := if left = [] then .resident else x.state, adds := if left = [] then [] else x.adds }
        if left = [] then x.adds.foldl (fun s a => s.segAdd ctx a) s1.performOwed else s1.performOwed
      if walkNeeds s ctx back ≠ [] then .next (s.request (walkNeeds s ctx back))
      else match ctxTarget s ctx back 4096 .copySrc with
      | (s1, .error f) =>
        if f = .notPresent then .next s
        else .next ((arrive s1 [] true).charge ctx 0x16 back (BitVec.ofNat 32 f.cause))
      | (s1, .ok t) =>
        let ns := spanNeeds s1 false 4096 t
        if ns ≠ [] then .next (s1.request ns)
        else if spanPoisoned s1 4096 t then .next ((arrive s1 [] true).charge ctx 0x11 back 0)
        else
          let r := Seat.engine s1 x
          let s2 := (s1.recall none (spanLines t 4096 ++ readLines s1 4096 t)).fillFor r t 4096
          .next (arrive s2 (readTarget s1 r t 4096) false)

/-! ### Fields of the segment operations (R163, R164) -/

/-- A selector that must be a plain scalar register. -/
def plainRegCauses (sel : BitVec 8) : List Nat := if 0x40 ≤ sel.toNat then [0x03] else []

/-- Causes common to the segment operations; `mask` holds the modifier bits the operation uses. -/
def segCauses (f : FmtW) (mask : BitVec 16) (gd ga : Nat) (late : Option ResClass) (v : View) : List Nat :=
  noNwCauses f.c ++ guardCauses v f.c ++ zeroCauses f.sc ++ (if f.m &&& ~~~mask = 0 then [] else [0x02])
    ++ plainRegCauses f.d ++ plainRegCauses f.sa ++ dstCauses v late (.scal gd) f.d ++ srcCauses v false (.sreg ga) f.sa

/-- SCO of a segment operation (R163). -/
def segSco (f : FmtW) : Nat := (f.m.extractLsb' 5 3).toNat

/-- Retire a segment operation with a tracked pair: handle and status (R165). -/
def segPair (f : FmtW) (v : View) (h st : Word) (s : State) : State :=
  s.putSlot v ((v.p.addPend (v.ordered (Pend.scal .ld f.d 2 (some ((pairOf h st).zeroExtend 128))))).afterOther f.c.ch)

/-- Retire a segment operation with a status written now. -/
def segStatus (f : FmtW) (v : View) (st : Nat) (s : State) : State :=
  let w := writeScal v.w v.sl.b 1 f.d (BitVec.ofNat 128 st)
  s.putWave v (w.setSlot v.sl.b ((w.slot v.sl.b).afterOther f.c.ch))

/-- An operation that takes effect when `active` is not empty. -/
def whenActive (c : Ctl) (d : BitVec 8) (run : View → State → State) (v : View) (s : State) : State :=
  if v.activeTo c d = 0 then s.putSlot v (v.p.afterOther c.ch) else run v s

/-! ### SEGNEW and SEGATT (R166, R167) -/

/-- The member cores of a team's sharing group, in ascending %team order (R158). -/
def memberCores (s : State) (t : Team) : List Nat :=
  (List.range 24).filterMap fun i => match gangTeam s t i with
    | some u => if u.member then some u.core else none
    | none => none

/-- The stripe cores of a segment placed for a team (R158). -/
def stripeFor (s : State) (t : Team) (level1 : Bool) : List Nat := if level1 then memberCores s t else [t.core]

/-- Assign a descriptor: the generation after its last one, never 0 (R155). -/
def nextGen (s : State) (cluster d : Nat) : BitVec 16 :=
  let g := cellGet s.gens (256 * cluster + d) + 1
  if g = 0 then 1 else g

/-- Attach a team to a name under a handle. -/
def State.attachTo (s : State) (t : Team) (name : Nat) (h : Word) : State :=
  s.modTeam t.id fun t => { t with attach := t.attach ++ [(name, h)] }

/-- Start the evictions a request needs, and let the slot wait (R166). -/
def State.evictAndWait (s : State) (v : View) (l : List (Nat × Nat)) : State :=
  (l.foldl (fun s x => s.startEvict x.1 x.2) s).putSlot v { v.p with stalled := true }

/-- Can the stripe hold the run at all? A sharing group without a member holds none: the model's choice (log entry 121). -/
def runTooBig (stripe : List Nat) (n : Nat) : Bool := stripe = [] || stripe.any fun c => decide (192 < stripeShare stripe n c)

/-- SEGNEW past its checks. -/
def segnewRun (f : FmtW) (v : View) (s : State) : State :=
  let q := readQuad v f.sa
  let name := (q.extractLsb' 0 64).toNat
  let back := q.extractLsb' 64 64
  let n := (readS32 v f.sb).toNat
  let level1 := f.m.getLsbD 0
  let stripe := stripeFor s v.t level1
  let cl := clusterOf v.t.core
  if name = 0 ∨ back = 0 ∨ back.toNat % 4096 ≠ 0 ∨ n = 0 ∨ (if level1 then 4096 else 192) < n then segPair f v 0 5 s
  else if (s.segment? v.t.ctx name).isSome then segPair f v 0 1 s
  else if v.t.attach.length = 16 then segPair f v 0 8 s
  else if runTooBig stripe n then segPair f v 0 3 s
  else match roomFor s cl stripe n with
  | .noDesc => segPair f v 0 4 s
  | .noSpace => segPair f v 0 3 s
  | .wait l => s.evictAndWait v l
  | .now d =>
    let gen := nextGen s cl d
    let g : Segment :=
      { ctx := v.t.ctx, name := name, level1 := level1, persist := f.m.getLsbD 1, cnt := f.m.getLsbD 2, size := n
        backing := back, state := .resident, stuck := false, launch := v.t.launch, cluster := cl, desc := d, gen := gen
        stripe := stripe, data := [], dirty := List.range n, missing := [], poison := [], pins := 0, freeAt := 0, adds := [] }
    let s1 := { s with segs := s.segs ++ [g], gens := cellSet s.gens (256 * cl + d) gen }
    segPair f v g.handle 0 (s1.attachTo v.t name g.handle)

/-- SEGNEW (R166). -/
def execSegnew (f : FmtW) (s : State) : Host.Outcome State Fault Refusal :=
  issue s (fun v => segCauses f 0x0007 2 4 (some .ld) v ++ plainRegCauses f.sb ++ srcCauses v false (.sreg 1) f.sb)
    (fun v => v.full .ld) fun v => whenActive f.c f.d (segnewRun f) v s

/-- The attach-miss fault (R168). -/
def attachMiss (v : View) (name : Nat) (sub : Nat) (s : State) : State :=
  s.stopSlot v { FRec.ofSlot s v .attach sub with sub := sub, addr := BitVec.ofNat 64 name, skipLen := some v.p.skipBytes }

/-- Owe the add of a SEGATT.fill or SEGEVICT when a segment's refill or eviction ends. -/
def State.oweAdd (s : State) (g : Segment) (a : SegAdd) : State :=
  s.modSeg g.ctx g.name fun g => { g with adds := g.adds ++ [a] }

/-- The add a SEGATT.fill or SEGEVICT names. -/
def segAddOf (f : FmtW) (v : View) : SegAdd :=
  { clus := f.m.getLsbD 4, addr := readS64 v f.sb, scope := segSco f, team := v.t.id }

/-- SEGATT.fill of an evicted segment: place it again and start the refill (R167). -/
def segRefill (f : FmtW) (v : View) (g : Segment) (s : State) : State :=
  let stripe := stripeFor s v.t g.level1
  let cl := clusterOf v.t.core
  if v.t.attach.length = 16 then segPair f v 0 8 s
  else if runTooBig stripe g.size then segPair f v 0 3 s
  else match roomFor s cl stripe g.size with
  | .noDesc => segPair f v 0 4 s
  | .noSpace => segPair f v 0 3 s
  | .wait l => s.evictAndWait v l
  | .now d =>
    let gen := nextGen s cl d
    let g1 := { g with state := .refilling, cluster := cl, desc := d, gen := gen, stripe := stripe, data := [], dirty := []
                       missing := List.range g.size, poison := [], adds := [segAddOf f v] }
    let s1 := { s.modSeg g.ctx g.name (fun _ => g1) with gens := cellSet s.gens (256 * cl + d) gen }
    segPair f v g1.handle 0 (s1.attachTo v.t g.name g1.handle)

/-- SEGATT past its checks (R167). A segment that is refilling in another cluster is taken as one resident there whose pin is
held: the model's choice (log entry 125). -/
def segattRun (f : FmtW) (v : View) (s : State) : State :=
  let name := (readS64 v f.sa).toNat
  let fil := f.m.getLsbD 3
  let owe (g : Segment) (s : State) : State :=
    if fil then (if g.state = .resident then s.segAdd v.t.ctx (segAddOf f v) else s.oweAdd g (segAddOf f v)) else s
  if name = 0 then segPair f v 0 5 s
  else match segFor s v.t name with
  | none => if fil then segPair f v 0 2 s else attachMiss v name 2 s
  | some g =>
    match g.state with
    | .evicting => s.putSlot v { v.p with stalled := true }
    | .evicted => if fil then segRefill f v g s else attachMiss v name 1 s
    | st =>
      if g.cluster = clusterOf v.t.core then
        (if v.t.attachedTo name then segPair f v g.handle 0 (owe g s)
         else if v.t.attach.length = 16 then segPair f v 0 8 s
         else segPair f v g.handle 0 (owe g (s.attachTo v.t name g.handle)))
      else if !fil then attachMiss v name 3 s
      else if pinCount s g ≠ 0 ∨ segWaited s g ∨ g.stuck ∨ st = .refilling then segPair f v 0 6 s
      else s.evictAndWait v [(g.ctx, g.name)]

/-- SEGATT (R167). -/
def execSegatt (f : FmtW) (s : State) : Host.Outcome State Fault Refusal :=
  issue s
    (fun v => segCauses f (if f.m.getLsbD 3 then 0x00F8 else 0x0008) 2 2 (some .ld) v
      ++ (if f.m.getLsbD 3 then plainRegCauses f.sb ++ srcCauses v false (.sreg 2) f.sb
            ++ (if segSco f = 7 then [0x04] else [])
          else zeroCauses f.sb))
    (fun v => v.full .ld) fun v => whenActive f.c f.d (segattRun f) v s

/-! ### SEGDET, SEGREL, SEGFREE, SEGEVICT, SEGQRY (R169 to R172) -/

/-- A copy command accesses a segment under a handle: as its source, its destination or its completion counter (R129). -/
def CopyCmd.uses (c : CopyCmd) (h : Word) : Bool :=
  let spc (lo : Nat) : Nat := (c.m.extractLsb' lo 3).toNat
  decide (c.op ≤ 2) && ((decide (spc 10 = 1 ∨ spc 10 = 2) && decide (c.words[1]? = some h))
    || (decide (spc 7 = 1 ∨ spc 7 = 2) && decide (c.words[3]? = some h)))
    || (decide (c.op ≤ 3) && c.m.getLsbD 1 && decide (c.words[9]? = some h))

/-- A write of one of a team's copy queues that touches a segment. -/
def queueWrote (t : Team) (name : Nat) (w : PWrite) : Bool :=
  (match w.seat.who with
    | .queue _ u => decide (u = t.id)
    | _ => false) && w.bytes.any fun p => match p.1 with
      | .seg c n _ => decide (c = t.ctx) && decide (n = name)
      | _ => false

/-- A segment release of the slot: every attaching team counts as within its instance, so what it covers is performed for
every agent of the package; the writes of the team's ended copy commands to the segment are covered too (R162). -/
def State.segRelease (s : State) (v : View) (name : Nat) : State :=
  (s.perform 4 (queueWrote v.t name)).release v 0xFFFF 4

/-- SEGDET and SEGREL. -/
def segLeave (f : FmtW) (detach : Bool) (v : View) (s : State) : State :=
  let h := readS32 v f.sa
  match v.t.attach.find? fun p => p.2 = h with
  | none => segStatus f v 7 s
  | some p =>
    let ns := releaseNeeds s v 0xFFFF 4 ++ coverNeeds s (queueWrote v.t p.1)
    if s.cmds.any fun c => decide (c.team = v.t.id) && c.uses h then s.putSlot v { v.p with stalled := true }
    else if ns ≠ [] then (s.request ns).putSlot v { v.p with stalled := true }
    else
      let s1 := s.segRelease v p.1
      let s2 := if detach then s1.modTeam v.t.id fun t => { t with attach := t.attach.filter fun x => x.2 ≠ h } else s1
      let s3 := s2.modSeg v.t.ctx p.1 fun g => if pinCount s2 g = 0 ∧ detach then { g with freeAt := s.tick } else g
      segStatus f v 0 s3

/-- SEGDET (R169). -/
def execSegdet (f : FmtW) (s : State) : Host.Outcome State Fault Refusal :=
  issue s (fun v => segCauses f 0 1 1 none v ++ zeroCauses f.sb) (fun _ => false)
    fun v => whenActive f.c f.d (segLeave f true) v s

/-- SEGREL (R169). -/
def execSegrel (f : FmtW) (s : State) : Host.Outcome State Fault Refusal :=
  issue s (fun v => segCauses f 0 1 1 none v ++ zeroCauses f.sb) (fun _ => false)
    fun v => whenActive f.c f.d (segLeave f false) v s

/-- Remove a segment without write-back: its granules, descriptor, entry and attachments, and what was still to be written
there (R159, R170). -/
def State.dropSeg (s : State) (ctx name : Nat) : State :=
  { s.dropBytes (Loc.inSeg ctx name) with
    segs := s.segs.filter fun g => ¬(g.ctx = ctx ∧ g.name = name)
    teams := s.teams.map fun t => if t.ctx = ctx then { t with attach := t.attach.filter fun p => p.1 ≠ name } else t }

/-- SEGFREE past its checks (R170). -/
def segfreeRun (f : FmtW) (v : View) (s : State) : State :=
  let name := (readS64 v f.sa).toNat
  match segFor s v.t name with
  | none => segStatus f v 2 s
  | some g =>
    let mine := if v.t.attachedTo name then 1 else 0
    if g.state = .evicted then segStatus f v 0 (s.dropSeg v.t.ctx name)
    else if g.state ≠ .resident ∨ mine < pinCount s g ∨ segWaited s g then segStatus f v 6 s
    else segStatus f v 0 (s.dropSeg v.t.ctx name)

/-- SEGFREE (R170). -/
def execSegfree (f : FmtW) (s : State) : Host.Outcome State Fault Refusal :=
  issue s (fun v => segCauses f 0 1 2 none v ++ zeroCauses f.sb) (fun _ => false)
    fun v => whenActive f.c f.d (segfreeRun f) v s

/-- SEGEVICT past its checks (R171). -/
def segevictRun (f : FmtW) (v : View) (s : State) : State :=
  let name := (readS64 v f.sa).toNat
  match segFor s v.t name with
  | none => segStatus f v 2 s
  | some g =>
    match g.state with
    | .evicted => segStatus f v 0 (s.segAdd v.t.ctx (segAddOf f v))
    | .evicting => segStatus f v 0 (s.oweAdd g (segAddOf f v))
    | .refilling => segStatus f v 6 s
    | .resident =>
      if pinCount s g ≠ 0 ∨ segWaited s g ∨ g.stuck then segStatus f v 6 s
      else segStatus f v 0 ((s.oweAdd g (segAddOf f v)).startEvict g.ctx g.name)

/-- SEGEVICT (R171). -/
def execSegevict (f : FmtW) (s : State) : Host.Outcome State Fault Refusal :=
  issue s
    (fun v => segCauses f 0x00F0 1 2 none v ++ plainRegCauses f.sb ++ srcCauses v false (.sreg 2) f.sb
      ++ (if segSco f = 7 then [0x04] else []))
    (fun _ => false) fun v => whenActive f.c f.d (segevictRun f) v s

/-- STATE of a query word (R172). -/
def SegState.code : SegState → Nat
  | .resident => 1 | .evicted => 2 | .evicting => 3 | .refilling => 4

/-- The query word of a segment for a team (R172). -/
def segQuery (s : State) (t : Team) (g : Segment) : BitVec 128 :=
  let on := g.held
  let w0 := if on && t.attachedTo g.name then g.handle.toNat else 0
  let bit (b : Bool) (i : Nat) : Nat := if b then 2 ^ i else 0
  let w1 := g.state.code * 2 ^ 28 + (if on then g.cluster else 0) * 2 ^ 23 + bit g.level1 22 + bit g.persist 21
    + bit g.cnt 20 + bit g.stuck 19 + bit (g.poison ≠ []) 18 + g.size
  let w2 := pinCount s g % 65536 * 65536 + g.dirty.length
  let w3 := if on then g.stripe.length * 256 + (g.stripe.head?.getD 0) % 24 else 0
  BitVec.ofNat 128 (w0 + 2 ^ 32 * (w1 + 2 ^ 32 * (w2 + 2 ^ 32 * w3)))

/-- SEGQRY (R172). -/
def execSegqry (f : FmtW) (s : State) : Host.Outcome State Fault Refusal :=
  issue s (fun v => segCauses f 0 4 2 (some .ld) v ++ zeroCauses f.sb) (fun v => v.full .ld)
    fun v => whenActive f.c f.d (fun v s =>
      let x := match segFor s v.t (readS64 v f.sa).toNat with
        | none => 0
        | some g => segQuery s v.t g
      s.putSlot v ((v.p.addPend (v.ordered (Pend.scal .ld f.d 4 (some x)))).afterOther f.c.ch)) v s

/-! ### The sharing group (R176, R177) -/

/-- Causes of CJOIN and CLEAVE (R176). -/
def groupCauses (f : FmtW) (v : View) : List Nat :=
  noNwCauses f.c ++ guardCauses v f.c ++ zeroCauses f.sa ++ zeroCauses f.sb ++ zeroCauses f.sc
    ++ (if f.m = 0 then [] else [0x02]) ++ dstCauses v none (.scal 1) f.d

/-- CJOIN (R176). -/
def execCjoin (f : FmtW) (s : State) : Host.Outcome State Fault Refusal :=
  issue s (groupCauses f) (fun _ => false)
    fun v => whenActive f.c f.d (fun v s => segStatus f v 0 (s.modTeam v.t.id fun t => { t with member := true })) v s

/-- A core holds a granule of a cluster-level segment to which a team of the gang is attached (R177). -/
def groupPinned (s : State) (t : Team) : Bool :=
  s.segs.any fun g => g.level1 && g.held && decide (g.ctx = t.ctx) && decide (0 < stripeShare g.stripe g.size t.core)
    && s.teams.any fun u => decide (u.launch = t.launch ∧ u.gang = t.gang ∧ u.stage = t.stage) && u.attachedTo g.name

/-- A write to the scratchpad of a team, or of one of its slots or queues to another's: what a CLEAVE revokes (R177). -/
def revokedWrite (id : Nat) (w : PWrite) : Bool := w.bytes.any fun p => match p.1 with
  | .scratch u _ => decide (u = id) || decide (w.seat.team = id)
  | _ => false

/-- CLEAVE past its checks: refused, or a release, the end of every accepted access to a revoked range, and the
membership gone (R177). -/
def cleaveRun (f : FmtW) (v : View) (s : State) : State :=
  let ns := releaseNeeds s v 0xFFFF 2 ++ coverNeeds s (revokedWrite v.t.id)
  if groupPinned s v.t then segStatus f v 10 s
  else if !v.t.member then segStatus f v 0 s
  else if ns ≠ [] then (s.request ns).putSlot v { v.p with stalled := true }
  else
    let s1 := s.release v 0xFFFF 2
    let s2 := s1.perform 6 (revokedWrite v.t.id)
    segStatus f v 0 (s2.modTeam v.t.id fun t => { t with member := false })

/-- CLEAVE (R177). -/
def execCleave (f : FmtW) (s : State) : Host.Outcome State Fault Refusal :=
  issue s (groupCauses f) (fun _ => false) fun v => whenActive f.c f.d (cleaveRun f) v s

end Sys2Proof.Machine
end

