-- ==== Sys2Proof/Machine/Copy.lean ====
section
/-!
DEFINITION. The copy unit (R125 to R146): issuing commands, and what a queue does with them.
-/

namespace Sys2Proof.Machine

/-! ### The descriptor (R127, R129, R136) -/

/-- Word `i` of the descriptor: quad A is 0 to 3, B 4 to 7, C 8 to 11. -/
def CopyCmd.word (c : CopyCmd) (i : Nat) : Word := (c.words[i]?).getD 0

/-- SBASE. -/
def CopyCmd.sbase (c : CopyCmd) : Dword := pairOf (c.word 0) (c.word 1)

/-- DBASE. -/
def CopyCmd.dbase (c : CopyCmd) : Dword := pairOf (c.word 2) (c.word 3)

/-- CADDR. -/
def CopyCmd.caddr (c : CopyCmd) : Dword := pairOf (c.word 8) (c.word 9)

/-- SSPC and DSPC. -/
def CopyCmd.sspc (c : CopyCmd) : Nat := (c.m.extractLsb' 10 3).toNat

/-- DSPC. -/
def CopyCmd.dspc (c : CopyCmd) : Nat := (c.m.extractLsb' 7 3).toNat

/-- SCO of the completion add. -/
def CopyCmd.sco (c : CopyCmd) : Nat := (c.m.extractLsb' 4 3).toNat

/-- ROWB, ROWS. -/
def CopyCmd.rowb (c : CopyCmd) : Nat := ((c.word 4).extractLsb' 0 21).toNat

/-- ROWS. -/
def CopyCmd.rows (c : CopyCmd) : Nat := ((c.word 5).extractLsb' 0 16).toNat

/-- VAL. -/
def CopyCmd.val (c : CopyCmd) : Nat := ((c.word 10).extractLsb' 0 16).toNat

/-- COPYH's HR. -/
def CopyCmd.hr (c : CopyCmd) : Nat := ((c.word 11).extractLsb' 28 4).toNat

/-- COPYH's HB. -/
def CopyCmd.hb (c : CopyCmd) : Nat := ((c.word 11).extractLsb' 20 8).toNat

/-- COPYH's GX. -/
def CopyCmd.gx (c : CopyCmd) : Nat := ((c.word 11).extractLsb' 15 5).toNat

/-- COPY's STY. -/
def CopyCmd.sty (c : CopyCmd) : Nat := ((c.word 11).extractLsb' 28 4).toNat

/-- COPY's DTY. -/
def CopyCmd.dty (c : CopyCmd) : Nat := ((c.word 11).extractLsb' 24 4).toNat

/-- COPYG's index size in bytes. -/
def CopyCmd.isz (c : CopyCmd) : Nat := if (c.word 11).extractLsb' 30 2 = 0 then 2 else 4

/-- COPYG's IOFF. -/
def CopyCmd.ioff (c : CopyCmd) : Nat := ((c.word 11).extractLsb' 0 20).toNat

/-- COPYW's NSLOT and SLOT. -/
def CopyCmd.nslot (c : CopyCmd) : Nat := ((c.word 2).extractLsb' 8 7).toNat

/-- COPYW's first slot. -/
def CopyCmd.slot0 (c : CopyCmd) : Nat := ((c.word 2).extractLsb' 0 6).toNat

/-- Bytes of an element type of COPY (R31). -/
def copySize (ty : Nat) : Nat := match ty with
  | 2 => 2 | 3 => 4 | 9 => 4 | 10 => 2 | 11 => 2 | _ => 1

/-- Bytes of a destination row. -/
def CopyCmd.rowLen (c : CopyCmd) : Nat :=
  match c.op with
  | 0 => c.rowb / copySize c.sty * copySize c.dty
  | 1 => c.rowb + 2 * c.hb
  | 2 => c.rowb
  | _ => 128

/-- Destination rows; COPYW counts a row for each line. -/
def CopyCmd.rowCount (c : CopyCmd) : Nat :=
  match c.op with
  | 1 => c.rows + 2 * c.hr
  | 3 => 32 * c.nslot
  | _ => c.rows

/-! ### The checks of a descriptor (R130, R133 to R136) -/

/-- The type codes COPY converts between (R133). -/
def copyTypes : List Nat := [1, 2, 3, 9, 10, 11, 12, 13]

/-- COPY's own limits (R133). -/
def copyTypeOk (c : CopyCmd) : Bool :=
  let xp := c.word 11
  let ss := copySize c.sty
  let ds := copySize c.dty
  if c.sty = 0 ∧ c.dty = 0 then xp = 0
  else copyTypes.contains c.sty && copyTypes.contains c.dty && decide (c.sty ≠ c.dty) && decide (xp.extractLsb' 0 21 = 0)
    && decide (c.rowb % ss = 0) && decide (c.sbase.toNat % ss = 0) && decide ((c.word 6).toNat % ss = 0)
    && decide (c.dbase.toNat % ds = 0) && decide ((c.word 7).toNat % ds = 0)

/-- COPYH's own limits (R134). -/
def copyHaloOk (s : State) (t : Team) (c : CopyCmd) : Bool :=
  let fill := (c.m.extractLsb' 2 2).toNat
  decide ((c.word 11).extractLsb' 0 15 = 0) && decide (1 ≤ c.gx) && decide (c.gx ≤ 24) && decide (c.hr ≤ c.rows)
    && decide (c.hb ≤ c.rowb) && (decide (fill = 0) || decide (gangSize s t % c.gx = 0))

/-- COPYG's own limits (R135). -/
def copyGatherOk (c : CopyCmd) : Bool :=
  decide ((c.word 11).extractLsb' 30 2 ≤ 1) && decide ((c.word 11).extractLsb' 20 10 = 0) && decide (c.ioff % c.isz = 0)

/-- COPYW's limits (R136). -/
def copyWeightOk (t : Team) (c : CopyCmd) : Bool :=
  decide (c.sbase.toNat % 128 = 0) && decide ((c.word 2).extractLsb' 15 17 = 0) && decide ((c.word 2).extractLsb' 6 2 = 0)
    && decide (c.word 3 = 0) && decide (1 ≤ c.nslot) && decide (c.nslot ≤ 64)
    && decide (c.slot0 + c.nslot ≤ t.wslots.length) && decide ((c.word 4).toNat % 128 = 0)
    && decide ((c.word 5).toNat % 128 = 0) && decide (c.word 6 = 0) && decide (c.word 7 = 0) && decide (c.word 11 = 0)

/-- The descriptor passes its checks (R130). -/
def copyDescOk (s : State) (t : Team) (c : CopyCmd) : Bool :=
  let rowsOk := decide ((c.word 4).extractLsb' 21 11 = 0) && decide ((c.word 5).extractLsb' 16 16 = 0)
    && decide (1 ≤ c.rowb) && decide (c.rowb ≤ 2 ^ 20) && decide (1 ≤ c.rows)
  decide (c.caddr.toNat % 8 = 0) && (match c.op with
    | 0 => rowsOk && copyTypeOk c
    | 1 => rowsOk && copyHaloOk s t c
    | 2 => rowsOk && copyGatherOk c
    | _ => copyWeightOk t c)

/-! ### Issue (R128, R138, R141) -/

/-- Causes of the four transfer operations (R128). -/
def copyCauses (f : FmtW) (op : Nat) (v : View) : List Nat :=
  let sspc := (f.m.extractLsb' 10 3).toNat
  let dspc := (f.m.extractLsb' 7 3).toNat
  let bad := 4 ≤ sspc ∨ 4 ≤ dspc ∨ f.m.extractLsb' 4 3 = 7 ∨ (op = 1 ∧ (f.m.extractLsb' 2 2 = 3 ∨ sspc ≠ 1))
    ∨ (op = 3 ∧ (sspc ≠ 0 ∨ dspc ≠ 0))
  noNwCauses f.c ++ guardCauses v f.c ++ zeroCauses f.d ++ (if f.m.getLsbD 0 then [0x02] else [])
    ++ plainRegCauses f.sa ++ plainRegCauses f.sb ++ plainRegCauses f.sc ++ (if bad then [0x04] else [])
    ++ srcCauses v false (.sreg 4) f.sa ++ srcCauses v false (.sreg 4) f.sb ++ srcCauses v false (.sreg 4) f.sc

/-- The command, or the marker, holds an entry of queue `q`. -/
def CopyCmd.inQueue (c : CopyCmd) (q : Nat) : Bool := if c.op = 8 then c.fenceMask.getLsbD q else decide (c.qid = q)

/-- Entries of a queue of a core in use: commands, and markers that name it (R125). A saved team's commands lie in its save
area and hold none (R145; log entry 118). -/
def queueUsed (s : State) (core q : Nat) : Nat :=
  (s.cmds.filter fun c => decide (c.core = core) && c.inQueue q
    && decide ((s.team? c.team).map Team.status ≠ some .saved)).length

/-- The queues of a core have entries for the commands of a saved team (R125). -/
def queuesFit (s : State) (t : Team) (core : Nat) : Bool :=
  (List.range 8).all fun q =>
    decide (queueUsed s core q + (s.cmds.filter fun c => decide (c.team = t.id) && c.inQueue q).length ≤ 32)

/-- The four registers of a quad. -/
def quadWords (v : View) (sel : BitVec 8) : List Word := (List.range 4).map fun i => readScalarReg v sel.toNat i

/-- Change a team's status of a queue. -/
def State.modQStat (s : State) (team q : Nat) (f : QStat → QStat) : State :=
  s.modTeam team fun t => { t with qstats := t.qstats.modify q f }

/-- Put a command behind the others; it starts after the team's commands in its queue and its markers (R126, R141). -/
def State.pushCmd (s : State) (v : View) (op : Nat) (f : FmtW) : State :=
  let q := (f.m.extractLsb' 13 3).toNat
  let before := s.cmds.filter fun c => decide (c.team = v.t.id) && c.inQueue q
  { s with
    cmds := s.cmds ++ [{ id := s.nextCmd, core := v.t.core, team := v.t.id, ctx := v.t.ctx, sl := v.sl, op := op, qid := q
                         m := f.m, words := quadWords v f.sa ++ quadWords v f.sb ++ quadWords v f.sc, rowIdx := 0
                         fenceMask := 0, status := .queued, trs := [], after := before.map CopyCmd.id }]
    nextCmd := s.nextCmd + 1 }

/-- Issue one of the four transfer operations: a release toward the queue, then the command (R138). -/
def copyIssue (op : Nat) (f : FmtW) (s : State) : Host.Outcome State Fault Refusal :=
  issue s (copyCauses f op)
    (fun v => decide (v.active f.c ≠ 0) && decide (32 ≤ queueUsed s v.t.core (f.m.extractLsb' 13 3).toNat))
    fun v => whenActive f.c f.d (fun v s =>
      let q := (f.m.extractLsb' 13 3).toNat
      let strm := (readScalarReg v f.sc.toNat 2).extractLsb' 16 16
      let ns := releaseNeeds s v strm 1
      if ns ≠ [] then (s.request ns).putSlot v { v.p with stalled := true }
      else
      let s1 := (s.release v strm 1).pushCmd v op f
      (s1.modQStat v.t.id q fun x => { x with iss := x.iss + 1 }).putSlot v (v.p.afterOther f.c.ch)) v s

/-- COPY (R132). -/
def execCopy (f : FmtW) (s : State) : Host.Outcome State Fault Refusal := copyIssue 0 f s

/-- COPYH (R134). -/
def execCopyh (f : FmtW) (s : State) : Host.Outcome State Fault Refusal := copyIssue 1 f s

/-- COPYG (R135). -/
def execCopyg (f : FmtW) (s : State) : Host.Outcome State Fault Refusal := copyIssue 2 f s

/-- COPYW (R136). -/
def execCopyw (f : FmtW) (s : State) : Host.Outcome State Fault Refusal := copyIssue 3 f s

/-- A write of one of a team's named queues. -/
def queueOf (team : Nat) (mask : BitVec 8) (w : PWrite) : Bool := match w.seat.who with
    | .queue q t => decide (t = team) && mask.getLsbD q
    | _ => false

/-- Every write of a team's named queues is performed. -/
def State.settleQueues (s : State) (team : Nat) (mask : BitVec 8) : State := s.perform 6 (queueOf team mask)

/-- QFENCE (R141). -/
def execQfence (f : FmtC) (s : State) : Host.Outcome State Fault Refusal :=
  let mask := f.mask.extractLsb' 0 8
  issue s
    (fun v => noNwCauses f.c ++ guardCauses v f.c
      ++ (if f.d ≠ 0 ∨ f.sa ≠ 0 ∨ f.sb ≠ 0 ∨ f.rsv ∨ f.far ∨ f.near ∨ f.acq ∨ f.rel ∨ f.scope ≠ 0 ∨ f.mask.extractLsb' 8 8 ≠ 0
          then [0x02] else []))
    (fun v => decide (v.active f.c ≠ 0)
      && (List.range 8).any fun q => mask.getLsbD q && decide (32 ≤ queueUsed s v.t.core q))
    fun v => whenActive f.c f.d (fun v s =>
      let before := s.cmds.filter fun c => decide (c.team = v.t.id) && decide (c.op ≠ 8) && mask.getLsbD c.qid
      let s1 :=
        if before = [] ∧ coverNeeds s (queueOf v.t.id mask) = [] then s.settleQueues v.t.id mask
        else
          { s with
            cmds := s.cmds ++ [{ id := s.nextCmd, core := v.t.core, team := v.t.id, ctx := v.t.ctx, sl := v.sl, op := 8, qid := 0
                                 m := 0, words := [], rowIdx := 0, fenceMask := mask, status := .queued, trs := []
                                 after := before.map CopyCmd.id }]
            nextCmd := s.nextCmd + 1 }
      s1.putSlot v (v.p.afterOther f.c.ch)) v s

/-- STATE of a team in a queue (R142). -/
def queueState (s : State) (team q : Nat) : Nat :=
  let mine := s.cmds.filter fun c => decide (c.team = team) && decide (c.op ≠ 8) && decide (c.qid = q)
  if mine.any fun c => decide (c.status = .halted) then 3
  else if mine.any fun c => match c.status with
    | .held _ _ => true
    | _ => false then 2
  else if mine = [] then 0 else 1

/-- The status word of QSTAT (R142). -/
def queueWord (s : State) (t : Team) (q : Nat) : Nat :=
  let x := (t.qstats[q]?).getD { iss := 0, cmp := 0, fcause := 0, frow := 0 }
  x.iss.toNat * 2 ^ 48 + x.cmp.toNat * 2 ^ 32 + min (queueUsed s t.core q) 32 * 2 ^ 26 + queueState s t.id q * 2 ^ 24
    + x.fcause % 256 * 2 ^ 16 + x.frow % 2 ^ 16

/-- QSTAT (R142). -/
def execQstat (f : FmtW) (s : State) : Host.Outcome State Fault Refusal :=
  issue s
    (fun v => noNwCauses f.c ++ guardCauses v f.c ++ zeroCauses f.sa ++ zeroCauses f.sb ++ zeroCauses f.sc
      ++ (if f.m.extractLsb' 0 13 = 0 then [] else [0x02]) ++ dstCauses v (some .ld) (.scal 2) f.d)
    (fun v => v.full .ld)
    fun v => whenActive f.c f.d (fun v s =>
      s.putSlot v ((v.p.addPend (v.ordered (Pend.scal .ld f.d 2
        (some (BitVec.ofNat 128 (queueWord s v.t (f.m.extractLsb' 13 3).toNat)))))).afterOther f.c.ch)) v s

/-! ### A queue's command (R130, R131, R139) -/

/-- The team's command at the front of a queue. -/
def frontCmd (s : State) (core q team : Nat) : Option CopyCmd :=
  s.cmds.find? fun c => decide (c.core = core) && decide (c.team = team) && decide (c.qid = q) && decide (c.op ≠ 8)

/-- A team that is on its core; a saved team's commands do nothing. -/
def placedTeam (s : State) (id : Nat) : Option Team := (s.team? id).filter fun t => decide (t.status = .placed)

/-- Change a command. -/
def State.modCmd (s : State) (id : Nat) (f : CopyCmd → CopyCmd) : State :=
  { s with cmds := s.cmds.map fun c => if c.id = id then f c else c }

/-- Remove the markers whose commands have all ended; what they ordered is performed (R141). -/
def State.sweepMarkers (s : State) : State :=
  let live := s.cmds.map CopyCmd.id
  let gone := s.cmds.filter fun c => decide (c.op = 8) && !c.after.any live.contains
  gone.foldl (fun s c =>
    let ns := coverNeeds s (queueOf c.team c.fenceMask)
    if ns ≠ [] then s.request ns
    else { s with cmds := s.cmds.filter fun x => decide (x.id ≠ c.id) }.settleQueues c.team c.fenceMask) s

/-- A command leaves its queue: completed, or discarded (R142). -/
def State.endCmd (s : State) (c : CopyCmd) : State :=
  ({ s with cmds := s.cmds.filter fun x => decide (x.id ≠ c.id) }.modQStat c.team c.qid
    fun x => { x with cmp := x.cmp + 1 }).sweepMarkers.clearRemote (.queue c.qid c.team)

/-- The copy cause of a memory fault (R143). -/
def copyCause (f : MemFault) : Nat :=
  match f.cause with
  | 1 => 0x06 | 2 => 0x06 | 3 => 0x08 | 5 => 0x01 | 6 => 0x04 | 7 => 0x05 | 10 => 0x02 | 11 => 0x0A
  | _ => 0x03

/-- A copy fault: the command is held or halted, the queue's status and a record say so (R144). The record belongs to no slot: its
PC, WAVE and SLOT are 0, the model's choice (log entry 53). -/
def State.copyFault (s : State) (t : Team) (c : CopyCmd) (row off cause sub : Nat) (rst : Bool) (addr : Dword) : State :=
  let st := if rst then .held row off else .halted
  let s1 := (s.modCmd c.id fun c => { c with status := st, trs := [] }).clearRemote (.queue c.qid c.team)
  let s2 := s1.modQStat t.id c.qid fun x => { x with fcause := cause, frow := row }
  s2.addRec { FRec.ofTeam s2 t .copy cause with
    sub := sub, rst := rst, qv := true, qid := c.qid, addr := addr, info := BitVec.ofNat 64 (row % 2 ^ 16), cmd := some c.id }
    false

/-- COPY_COMMAND_START: the team's command at the front of the queue is checked (R130). -/
def execCopyCommandStart (core q team : Nat) (s0 : State) : Host.Outcome State Fault Refusal :=
  let s := s0.sweepMarkers
  match frontCmd s core q team, placedTeam s team with
  | some c, some t =>
    let waits := c.after.any fun i => s.cmds.any fun x => x.id = i
    let ns := coverNeeds s (queueOf team (1 <<< q))
    if c.status ≠ .queued ∨ waits then .next s
    else if ns ≠ [] then .next (s.request ns)
    else
      let s1 := s.settleQueues team (1 <<< q)
      if copyDescOk s t c then .next (s1.modCmd c.id fun c => { c with status := .active 0 0 })
      else .next (s1.copyFault t c 0 0 0x09 0 false 0)
  | _, _ => .next s

/-! ### One transfer (R131) -/

/-- A run of bytes at an address, cut at 128-byte blocks. -/
def cutRun : Nat → Dword → Nat → List (Dword × Nat)
  | 0, _, _ => []
  | fuel + 1, a, n =>
    if n = 0 then []
    else
      let k := min n (128 - a.toNat % 128)
      (a, k) :: cutRun fuel (a + BitVec.ofNat 64 k) (n - k)

/-- A piece of a transfer: where it goes, how many bytes, and its address. -/
structure Piece where
  t : Target
  n : Nat
  addr : Dword
  deriving DecidableEq, Repr, Inhabited

/-- The target of a run of bytes of a command, on its destination or source side: a page being moved within keeps the
translation it has (R124, R131). -/
def copyPoint (s : State) (t : Team) (c : CopyCmd) (dst : Bool) (spc : Nat) (a : Dword) (n : Nat) (k : Access) :
    State × Except MemFault Target :=
  if spc ≠ 0 then (s, teamTarget s t spc a n 1 k)
  else
    let va := tableVa s c.ctx a
    match c.trs.find? fun h => h.dst = dst ∧ h.e.covers c.ctx va with
    | some h =>
      let pa := h.e.pa + (va - h.e.page)
      match entryCheck s h.e pa n k with
      | some f => (s, .error f)
      | none => (s, .ok (physTarget s pa h.e.mt))
    | none =>
      match globTarget s c.core c.ctx a n k with
      | (s1, .ok tg) =>
        let keep := c.trs.filter fun h => h.dst ≠ dst
        let held : List HeldTr := match tlbFind s1 c.core c.ctx va with
          | some e => [{ dst := dst, e := e, stale := false }]
          | none => []
        (s1.modCmd c.id fun c => { c with trs := keep ++ held }, .ok tg)
      | r => r

/-- Resolve the pieces of one side in order; a fault comes with its address. -/
def copyPieces (t : Team) (dst : Bool) (spc : Nat) (k : Access) (id : Nat) :
    List (Dword × Nat) → State → State × Except (MemFault × Dword) (List Piece)
  | [], s => (s, .ok [])
  | (a, n) :: r, s =>
    match s.cmds.find? fun c => c.id = id with
    | none => (s, .ok [])
    | some c =>
      match copyPoint s t c dst spc a n k with
      | (s1, .error f) => (s1, .error (f, a))
      | (s1, .ok tg) =>
        match copyPieces t dst spc k id r s1 with
        | (s2, .error e) => (s2, .error e)
        | (s2, .ok l) => (s2, .ok ({ t := tg, n := n, addr := a } :: l))

/-- Convert one element (R76 to R79). -/
def copyConvert (c : CopyCmd) (x : Nat) : Nat :=
  let md := RMode.ofBits ((c.word 11).extractLsb' 22 2)
  let sat := (c.word 11).getLsbD 21
  match cvtCode c.sty, cvtCode c.dty with
  | some (.int a w), some (.int b u) => (intToInt sat b u (toNum a (BitVec.ofNat w x))).toNat
  | some a, some b => (cvtElem a b md sat x).1
  | _, _ => x

/-- Convert the bytes of whole elements. -/
def copyElems (c : CopyCmd) (data : List Byte) : List Byte :=
  if c.sty = c.dty then data
  else
    let ss := copySize c.sty
    (chunks ss (data.length / ss) data).flatMap fun e => bytesOf (copyConvert c (ofBytes e)) (copySize c.dty)

/-- What a transfer writes: bytes known now (zeros), or pieces of memory still to be read. -/
inductive CopySrc
  | zeros
  | pieces (l : List Piece)
  deriving DecidableEq, Repr, Inhabited

/-- The source byte of COPYH at halo row `rho` and byte `beta`: the team number and .core offset, or none for a zero
(R134). -/
def haloByte (g : Nat) (c : CopyCmd) (num rho beta : Nat) : Option (Nat × Dword) :=
  let gy := (g + c.gx - 1) / c.gx
  let fill := (c.m.extractLsb' 2 2).toNat
  let wide : Int := (c.gx * c.rowb : Nat)
  let high : Int := (gy * c.rows : Nat)
  let gr0 : Int := ((num / c.gx * c.rows + rho : Nat) : Int) - (c.hr : Int)
  let gb0 : Int := ((num % c.gx * c.rowb + beta : Nat) : Int) - (c.hb : Int)
  let gr := if fill = 2 then gr0 % high else if fill = 1 then clampInt gr0 0 (high - 1) else gr0
  let gb := if fill = 2 then gb0 % wide else if fill = 1 then clampInt gb0 0 (wide - 1) else gb0
  if gr < 0 ∨ gb < 0 ∨ high ≤ gr ∨ wide ≤ gb then none
  else
    let r := gr.toNat
    let b := gb.toNat
    let t := r / c.rows * c.gx + b / c.rowb
    if g ≤ t then none
    else some (t, c.sbase + BitVec.ofNat 64 (r % c.rows) * (c.word 6).signExtend 64 + BitVec.ofNat 64 (b % c.rowb))

/-- The target of one source byte of COPYH: the team's own tile by .core, a neighbour's through cluster memory. Where SBASE is a
segment address, the own tile is read there and a neighbour's byte is out of bounds: the model's choice (log entry 152). -/
def haloPoint (s : State) (t : Team) (num : Nat) (o : Dword) : Except MemFault Target :=
  if num = t.num then teamTarget s t 1 o 1 1 .copySrc
  else match gangTeam s t num with
  | none => .error (.plain 3)
  | some u =>
    if !t.member || !u.member then .error (.plain 3)
    else if upperHalf o ≠ 0 ∨ u.scratchSize ≤ lowerHalf o then .error (.plain 1)
    else .ok (.scratch u.id (lowerHalf o))

/-- One-byte pieces of a COPYH transfer, none for a zero. -/
def haloPieces (s : State) (t : Team) (c : CopyCmd) (row : Nat) : List Nat → Except (MemFault × Dword) (List (Option Piece))
  | [] => .ok []
  | b :: r =>
    match haloByte (gangSize s t) c t.num row b with
    | none => (haloPieces s t c row r).map fun l => none :: l
    | some (n, o) =>
      match haloPoint s t n o with
      | .error f => .error (f, o)
      | .ok tg => (haloPieces s t c row r).map fun l => some { t := tg, n := 1, addr := o } :: l

/-- The run of source bytes of a transfer of COPY or COPYG; none for a skipped row (R132, R135). -/
def copyRun (c : CopyCmd) (row off len : Nat) : Option (Dword × Nat) :=
  match c.op with
  | 1 => none
  | 2 =>
    if c.rowIdx = 2 ^ (8 * c.isz) - 1 then none
    else some (c.sbase + BitVec.ofNat 64 c.rowIdx * (c.word 6).signExtend 64 + BitVec.ofNat 64 off, len)
  | _ =>
    let ss := copySize c.sty
    let ds := copySize c.dty
    some (c.sbase + BitVec.ofNat 64 row * (c.word 6).signExtend 64 + BitVec.ofNat 64 (off / ds * ss), len / ds * ss)

/-- The data side of a transfer, resolved: one entry per run, none for a zero byte. -/
def copySource (s : State) (t : Team) (c : CopyCmd) (row off len : Nat) :
    State × Except (MemFault × Dword) (List (Option Piece)) :=
  let some' (r : State × Except (MemFault × Dword) (List Piece)) : State × Except (MemFault × Dword) (List (Option Piece)) :=
    (r.1, r.2.map fun l => l.map some)
  match c.op with
  | 1 => (s, haloPieces s t c row ((List.range len).map fun i => off + i))
  | _ => match copyRun c row off len with
    | none => (s, .ok (List.replicate len none))
    | some (a, n) => some' (copyPieces t false c.sspc .copySrc c.id (cutRun (n + 1) a n) s)

/-- The needs of some pieces. -/
def pieceNeeds (s : State) (write : Bool) (l : List Piece) : List Need :=
  l.flatMap fun p => spanNeeds s write p.n p.t

/-- The remote request of a piece, by its number within the transfer, and what has come of it (R422). -/
def pieceRemote (s : State) (who : Agent) (kind : Nat) (data : List Byte) (i : Nat) (p : Piece) :
    State × Option (Except MemFault (List Byte)) :=
  match p.t with
  | .remote pkg va =>
    match remoteFault s who i pkg with
    | some f => (s, some (.error f))
    | none => match remoteOf s who i with
      | some ⟨_, _, _, _, _, _, _, _, some (true, d)⟩ => (s, some (.ok d))
      | _ => (s.sendRemote who i pkg va p.n kind data, none)
  | _ => (s, some (.ok []))

/-- The bytes of a piece as the queue reads it. -/
def pieceBytes (s : State) (r : Seat) (i : Nat) (p : Piece) : List Byte :=
  match p.t with
  | .remote _ _ => match remoteOf s r.who i with
    | some ⟨_, _, _, _, _, _, _, _, some (true, d)⟩ => d
    | _ => []
  | t => readTarget s r t p.n

/-- Cut a list into runs of eight. -/
def eights {α : Type} : Nat → List α → List (List α)
  | 0, _ => []
  | n + 1, l => l.take 8 :: eights n (l.drop 8)

/-- Cut written bytes into naturally aligned 8-byte units (R131). -/
def alignedUnits (t : Target) (data : List Byte) : List (List (Loc × Byte)) :=
  let all := targetBytes t data
  let start : Nat := match t with
    | .phys pa _ => pa % 8
    | .scratch _ o => o % 8
    | .seg _ _ o => o % 8
    | _ => 0
  let first := min all.length ((8 - start) % 8)
  (if first = 0 then [] else [all.take first]) ++ eights ((all.length - first + 7) / 8) (all.drop first)

/-- Write a transfer's bytes as the queue. -/
def copyWrite (s : State) (t : Team) (c : CopyCmd) (d : Piece) (data : List Byte) : State :=
  let s1 := (s.flushFor c.core d.t d.n).recall (some c.core) (targetLines d.t)
  (alignedUnits d.t data).foldl (fun s u => s.addWrite (.queue t c.qid) none none [] u) s1

/-- COPYG's index of a row, read by the row's first transfer. -/
def readIndex (s : State) (t : Team) (c : CopyCmd) (row : Nat) : Except MemFault (Target × Nat) :=
  (teamTarget s t 1 (BitVec.ofNat 64 (c.ioff + row * c.isz)) c.isz 1 .copySrc).map fun tg =>
    (tg, ofBytes (readTarget s (.queue t c.qid) tg c.isz))

/-- The line of COPYW's transfer `row` (R136). -/
def copyLineAddr (c : CopyCmd) (row : Nat) : Dword :=
  c.sbase + BitVec.ofNat 64 (row / 32) * (c.word 5).signExtend 64 + BitVec.ofNat 64 (row % 32) * (c.word 4).signExtend 64

/-- The .glob address the command reads next at a row and destination byte, if it still reads one. -/
def nextSource (s : State) (t : Team) (c : CopyCmd) (row off : Nat) : Option Dword :=
  if c.rowCount ≤ row then none
  else match c.op with
  | 3 => some (copyLineAddr c row)
  | 2 =>
    let c1 := if off = 0 then (match readIndex s t c row with
      | .ok (_, n) => { c with rowIdx := n }
      | .error _ => c) else c
    (copyRun c1 row off 1).map Prod.fst
  | _ => (copyRun c row off 1).map Prod.fst

/-- Move a command past a transfer; a removed translation whose page it has left is dropped (R124). -/
def State.advanceCmd (s : State) (t : Team) (c : CopyCmd) (row off len : Nat) : State :=
  let (row2, off2) := if off + len < c.rowLen then (row, off + len) else (row + 1, 0)
  let dst := c.dbase + BitVec.ofNat 64 row2 * (c.word 7).signExtend 64 + BitVec.ofNat 64 off2
  let within (h : HeldTr) : Bool :=
    if h.dst then decide (row2 < c.rowCount) && h.e.covers c.ctx (tableVa s c.ctx dst)
    else match nextSource s t c row2 off2 with
      | none => false
      | some a => h.e.covers c.ctx (tableVa s c.ctx a)
  s.modCmd c.id fun c => { c with status := .active row2 off2, trs := c.trs.filter fun h => !h.stale || within h }

/-- Bytes leave the package by this transfer: to host memory or a peer (R137). -/
def leavesPackage (s : State) (t : Target) : Bool :=
  match t with
  | .remote _ _ => true
  | .phys pa _ => decide (regionOf s pa 1 = some .host)
  | _ => false

/-- The metered class and bytes of a transfer's source (R109, R137). -/
def pieceClass (s : State) (p : Piece) : Nat :=
  match p.t with
  | .phys pa _ => egressClass s pa
  | .dec w _ => (s.window w).ec
  | _ => 0

/-- Meter the pieces of a transfer that leaves the package; none while tokens are short. -/
def meterPieces (who : Agent) : List Piece → State → Except MeterWait State
  | [], s => .ok s
  | p :: r, s =>
    match s.meter (pieceClass s p) p.n with
    | none => .error { cls := pieceClass s p, bytes := p.n, what := .copy who }
    | some s1 => meterPieces who r s1

/-- The transfer once source and destination have resolved. Where its source overlaps what the command's earlier transfers wrote,
it reads that only once the write is performed: of the two values R131 allows, the model's choice (log entry 117). -/
def copyMove (s : State) (t : Team) (c : CopyCmd) (row off len : Nat) (src : List (Option Piece)) (d : Piece) : State :=
  let seat := Seat.queue t c.qid
  let ps := src.filterMap id
  let ns := pieceNeeds s false ps ++ pieceNeeds s true [d] ++ (ps ++ [d]).flatMap fun p => touchNeeds s c.core p.t p.n
  if ns ≠ [] then s.request ns
  else
    let (s1, got) := ps.zipIdx.foldl (fun (a : State × List (Option (Except MemFault (List Byte)))) p =>
      let (s', x) := pieceRemote a.1 seat.who 0 [] p.2 p.1
      (s', a.2 ++ [x])) (s, [])
    match got.findSome? fun x => match x with
      | some (.error f) => some f
      | _ => none with
    | some f => s1.copyFault t c row off (copyCause f) f.sub false d.addr
    | none =>
      if got.any Option.isNone then s1
      else if ps.any fun p => spanPoisoned s1 p.n p.t then s1.copyFault t c row off 0x0A 0 false ((ps.head?.map Piece.addr).getD 0)
      else
        let s2 := ps.foldl (fun s p => (s.flushFor c.core p.t p.n).recall (some c.core) (readLines s p.n p.t)) s1
        let (data, _) := src.foldl (fun (a : List Byte × Nat) x => match x with
          | none => (a.1 ++ [0], a.2)
          | some p => (a.1 ++ pieceBytes s2 seat a.2 p, a.2 + 1)) ([], 0)
        let s2 := ps.foldl (fun s p => s.fillFor seat p.t p.n) s2
        let out := if c.op = 0 then copyElems c data else data
        let metered (s : State) (k : State → State) : State :=
          match if leavesPackage s d.t then meterPieces seat.who ps s else .ok s with
          | .error w => s.meterWait w
          | .ok s3 => k (s3.meterDone (.copy seat.who))
        match d.t with
        | .remote pkg va =>
          (match remoteFault s2 seat.who 1000 pkg with
          | some f => s2.copyFault t c row off (copyCause f) f.sub false d.addr
          | none => match remoteOf s2 seat.who 1000 with
            | none => metered s2 fun s => s.sendRemote seat.who 1000 pkg va out.length 1 out
            | some ⟨_, _, _, _, _, _, _, _, none⟩ => s2
            | some _ => (s2.advanceCmd t c row off len).clearRemote seat.who)
        | _ => metered s2 fun s => ((copyWrite s t c d out).advanceCmd t c row off len).clearRemote seat.who

/-- The back-invalidates that translating a run of a command's bytes needs (R416). -/
def runNeeds (s : State) (c : CopyCmd) (spc : Nat) (writes : Bool) (l : List (Dword × Nat)) : List Need :=
  if spc = 0 then l.flatMap fun r => xlateNeeds s c.core c.ctx r.1 writes else []

/-- A transfer of COPY, COPYH or COPYG at a row and destination byte. -/
def copyStep (s : State) (t : Team) (c : CopyCmd) (row off : Nat) : State :=
  let da := c.dbase + BitVec.ofNat 64 row * (c.word 7).signExtend 64 + BitVec.ofNat 64 off
  let len := min (c.rowLen - off) (128 - da.toNat % 128)
  let fault (s : State) (f : MemFault) (a : Dword) : State := s.copyFault t c row off (copyCause f) f.sub f.rst a
  let go (s : State) (c : CopyCmd) : State :=
    let run := (copyRun c row off len).toList
    let walks := runNeeds s c c.sspc false (run.flatMap fun r => cutRun (r.2 + 1) r.1 r.2) ++ runNeeds s c c.dspc true [(da, len)]
    let fab (spc : Nat) (a : Dword) : Bool := decide (spc = 0) && canonical a && (fabricOf s c.ctx a).isSome
    let farSrc := run.any fun r => fab c.sspc r.1
    let farDst := fab c.dspc da
    if walks ≠ [] then s.request walks
    else match copySource s t c row off len with
    | (s1, .error (f, a)) => fault s1 f a
    | (s1, .ok src) =>
      match copyPieces t true c.dspc .copyDst c.id [(da, len)] s1 with
      | (s2, .error (f, a)) => fault s2 f a
      | (s2, .ok [d]) =>
        if farDst && (decide (c.op = 1) || farSrc) then fault s2 .permission d.addr
        else match s2.cmds.find? fun x => x.id = c.id with
          | some c2 => copyMove s2 t c2 row off len src d
          | none => s2
      | (s2, .ok _) => s2
  if c.op = 2 ∧ off = 0 then
    match readIndex s t c row with
    | .error f => fault s f (BitVec.ofNat 64 (c.ioff + row * c.isz))
    | .ok (tg, n) =>
      if targetPoisoned s c.isz tg then fault s (.plain 11) (BitVec.ofNat 64 (c.ioff + row * c.isz))
      else if targetNeeds s false c.isz tg ≠ [] then s
      else go (s.modCmd c.id fun c => { c with rowIdx := n }) { c with rowIdx := n }
  else go s c

/-- The enabled window whose raw range holds a physical line (R136). -/
def rawWindow (s : State) (pa : Nat) : Option Nat :=
  s.windows.findIdx? fun x => x.en && decide (x.raw.toNat ≤ pa) && decide (pa < x.raw.toNat + x.rawSize)

/-- The scale bytes of a raw line of a window, by physical address (R136). -/
def lineScale (s : State) (win : Option Nat) (pa : Nat) : List Nat :=
  let x := (win.map s.window).getD .zero
  let o := pa - x.raw.toNat
  match win, x.stored with
  | some _, 1 => (List.range 8).map fun i => x.scl.toNat + o / 16 + i
  | some _, 2 => (List.range 4).map fun i => x.scl.toNat + 4 * (o / 2 ^ (x.rowl + 7)) + i
  | some _, 3 => (List.range 4).map fun i => x.scl.toNat + 4 * (o / 2 ^ (x.rowl + 7)) + i
  | _, _ => []

/-- Put a line into a weight-store slot: its bytes as they are, and the scale data of its window. The tag is set once all 32
lines hold: `load` names the window and raw offset of each (R136, R253). -/
def loadLine (s : State) (r : Seat) (load : List (Option Nat × Nat)) (win : Option Nat) (pa col : Nat) (data : List Byte) (w : WSlot) :
    WSlot :=
  let x := (win.map s.window).getD .zero
  let scale : List Byte := (lineScale s win pa).map (physByte s r)
  let w1 := { w with lines := cellSetAll w.lines (addrBytes (128 * col) data)
                     scale := cellSetAll w.scale (addrBytes (8 * col) ((scale ++ List.replicate 8 0).take 8)) }
  if col = 31 then
    { w1 with v := true, win := win.isSome, sk := 0, stf := x.stf, window := win.getD 0, ks := x.ks, roff := load.map Prod.snd }
  else w1

/-- A COPYW that faults leaves the slot it loads without V (R253). -/
def State.dropSlot (s : State) (team n : Nat) : State :=
  s.modTeam team fun t => { t with wslots := t.wslots.modify n fun w => { w with v := false } }

/-- A transfer of COPYW: one line of 128 raw bytes, with the scale data of its window (R136). -/
def copyLine (s : State) (t : Team) (c : CopyCmd) (row : Nat) : State :=
  let n := row / 32
  let col := row % 32
  let a := copyLineAddr c row
  let seat := Seat.queue t c.qid
  let fault (s : State) (cause sub : Nat) (rst : Bool) (addr : Dword) : State :=
    (s.dropSlot t.id (c.slot0 + n)).copyFault t c row 0 cause sub rst addr
  let walks := runNeeds s c 0 false [(a, 128)]
  if walks ≠ [] then s.request walks
  else match copyPieces t false 0 .weight c.id [(a, 128)] s with
  | (s1, .error (f, b)) => fault s1 (copyCause f) f.sub f.rst b
  | (s1, .ok [p]) =>
    (match p.t with
    | .remote _ _ => fault s1 0x03 0 false a
    | tg =>
      let win := match tg with
        | .phys pa _ => rawWindow s1 pa
        | _ => none
      let at' := match tg with
        | .phys pa _ => pa
        | _ => 0
      let scales := ((lineScale s1 win at').map lineOf).foldr insertNat []
      let behind (e : CombEntry) : Bool := decide (e.core = c.core) && scales.contains (lineOf e.pa)
      let ns := spanNeeds s1 false 128 tg ++ scales.flatMap (snoopNeed s1 false) ++ touchNeeds s1 c.core tg 128
        ++ flushNeeds s1 behind
      if ns ≠ [] then s1.request ns
      else if spanPoisoned s1 128 tg || scales.any s1.poison.contains then fault s1 0x0A 0 false a
      else
        let s1 := ((s1.flushFor c.core tg 128).flushComb behind).recall (some c.core) (readLines s1 128 tg ++ scales)
        let x := (win.map s1.window).getD .zero
        if (win.isSome && decide (x.stored = 4)) ∨ (col ≠ 0 ∧ c.load.head?.map Prod.fst ≠ some win) then fault s1 0x0B 0 false a
        else
          let load := (if col = 0 then [] else c.load) ++ [(win, at' - x.raw.toNat)]
          let data := readTarget s1 seat tg 128
          let s2 := s1.modTeam t.id fun t =>
            { t with wslots := t.wslots.modify (c.slot0 + n) (loadLine s1 seat load win at' col data) }
          (s2.modCmd c.id fun c => { c with load := load }).advanceCmd t c row 0 128)
  | (s1, .ok _) => s1

/-- Queue `q` of a core has a transfer to make. -/
def hasWork (s : State) (core q : Nat) : Bool :=
  s.cmds.any fun c => decide (c.core = core ∧ c.qid = q) && (placedTeam s c.team).isSome
    && decide ((frontCmd s core q c.team).map CopyCmd.id = some c.id) && (match c.status with
      | .active row _ => decide (row < c.rowCount)
      | _ => false)

/-- The queue the copy unit of a core serves next: the first with work after the one it served last, round-robin (R125). -/
def nextQueue (s : State) (core : Nat) : Option Nat :=
  let last := ((s.served.find? fun p => p.1 = core).map Prod.snd).getD 7
  ((List.range 8).map fun i => (last + 1 + i) % 8).find? (hasWork s core)

/-- The copy unit of a core turns to a queue. -/
def State.serve (s : State) (core q : Nat) : State :=
  { s with served := (core, q) :: s.served.filter fun p => decide (p.1 ≠ core) }

/-- COPY_TRANSFER: the queue's command of a team performs its next transfer, when its queue's turn has come (R125, R131). -/
def execCopyTransfer (core q team : Nat) (s : State) : Host.Outcome State Fault Refusal :=
  match frontCmd s core q team, placedTeam s team with
  | some c, some t =>
    (match c.status with
    | .active row off =>
      if c.rowCount ≤ row ∨ nextQueue s core ≠ some q then .next s
      else
        let s1 := s.serve core q
        .next (if c.op = 3 then copyLine s1 t c row else copyStep s1 t c row off)
    | _ => .next s)
  | _, _ => .next s

/-- The completion counter of a command (R129, R143); one of another package, or named by a fabric address, is none. -/
def copyCounter (s : State) (t : Team) (c : CopyCmd) : State × Except CtrFault CtrRef :=
  if c.m.getLsbD 1 then (s, ctrSeg s t c.caddr)
  else if (fabricOf s c.ctx c.caddr).isSome then (s, .error (.cntr 5))
  else ctrGlob s c.core c.ctx c.caddr true

/-- COPY_COMPLETION: a command whose transfers are done makes its completion add and leaves the queue (R139). -/
def execCopyCompletion (core q team : Nat) (s : State) : Host.Outcome State Fault Refusal :=
  match frontCmd s core q team, placedTeam s team with
  | some c, some t =>
    (match c.status with
    | .active row _ =>
      if row < c.rowCount then .next s
      else if c.caddr = 0 then .next (s.endCmd c)
      else
      let walks := if c.m.getLsbD 1 then [] else xlateNeeds s c.core c.ctx c.caddr true
      if walks ≠ [] then .next (s.request walks)
      else match copyCounter s t c with
      | (s1, .ok (.here p)) =>
        let seat := Seat.queue t q
        let own (w : PWrite) : Bool := decide (w.seat.who = seat.who)
        let ns := ctrNeeds s1 true p ++ (if 4 ≤ c.sco then coverNeeds s1 (coveredBy seat own) else [])
        if ns ≠ [] then .next (s1.request ns)
        else if ctrPoisoned s1 p then .next (s1.copyFault t c row 0 0x07 0 false c.caddr)
        else
          let s2 := (if c.m.getLsbD 1 then s1 else s1.markCtr c.core c.ctx c.caddr).releaseWrites seat own c.sco
          .next (((s2.recall none (targetLines p.target)).ctrAdd p (BitVec.ofNat 64 c.val)).1.endCmd c)
      | (s1, _) => .next (s1.copyFault t c row 0 0x07 0 false c.caddr)
    | _ => .next s)
  | _, _ => .next s

end Sys2Proof.Machine
end

