-- ==== Sys2Proof/Machine/Queues.lean ====
section
/-!
DEFINITION. Launch queues (R323, R324, R424), the kernel indirection table (R387, R388), and LAUNCH (R348).
-/

namespace Sys2Proof.Machine

/-! ### Queues -/

/-- A launch by identity. -/
def State.launch? (s : State) (id : Nat) : Option Launch := s.launches.find? fun l => l.id = id

/-- Queue `q`. -/
def State.queue (s : State) (q : Nat) : Queue := (s.queues[q]?).getD .zero

/-- The QCB copy in force (R424). -/
def Queue.cur (x : Queue) : QcbCopy := if x.sel then x.c1 else x.c0

/-- Change the copy in force. -/
def Queue.modCur (x : Queue) (f : QcbCopy → QcbCopy) : Queue :=
  if x.sel then { x with c1 := f x.c1 } else { x with c0 := f x.c0 }

/-- Change a queue. -/
def State.modQueue (s : State) (q : Nat) (f : Queue → Queue) : State := { s with queues := s.queues.modify q f }

/-- The address of record `n` of a queue (R324). -/
def recordAddr (x : Queue) (n : Dword) : Dword := x.cur.ring + BitVec.ofNat 64 (128 * (n.toNat % 2 ^ x.cur.logn))

/-- A queue is disabled after a fault on one of its addresses, and its context is told (R323, R398). -/
def State.queueDisable (s : State) (q : Nat) (addr : Dword) : State :=
  let x := s.queue q
  let s1 := s.modQueue q fun x => { x.modCur (fun c => { c with en := false }) with sts := 3 }
  s1.addRec { FRec.blank s .queue 1 x.cur.ctx with
    addr := addr, info := BitVec.ofNat 64 q, info2 := x.next.extractLsb' 0 32 } false

/-- The seat of the front end (R309). -/
def frontSeat : Seat := .of .frontEnd 0

/-- What an agent without a TLB finds where it wants to work. -/
inductive Got (α : Type)
  | got (x : α)
  | wait (ns : List Need)
  | bad (f : MemFault)
  deriving DecidableEq, Repr, Inhabited

/-- A counter named by a context's address, ready to be read or changed: no core keeps its line (R197). -/
def ctrGot (s : State) (ctx : Nat) (a : Dword) (chg : Bool) : State × Got CtrPlace :=
  let walks := if a.extractLsb' 0 3 ≠ 0 then [] else walkNeeds s ctx a
  if walks ≠ [] then (s, .wait walks)
  else match ctrOfCtx s ctx a with
  | (s1, .error f) => (s1, .bad f.f)
  | (s1, .ok c) =>
    let ns := ctrNeeds s1 chg c
    if ns ≠ [] then (s1, .wait ns) else if ctrPoisoned s1 c then (s1, .bad (.plain 11))
    else ((if chg then s1.markCtrOf ctx a else s1).recall none (targetLines c.target), .got c)

/-- The class of the fault that a counter of a context's address meets (R297). -/
def ctrClass (s : State) (ctx : Nat) (a : Dword) : FaultClass :=
  match ctrOfCtx s ctx a with
  | (_, .error e) => e.cls
  | _ => .mem

/-- A span of a context's memory, ready to be read or written. -/
def spanGot (s : State) (ctx : Nat) (a : Dword) (n : Nat) (k : Access) : State × Got Target :=
  if walkNeeds s ctx a ≠ [] then (s, .wait (walkNeeds s ctx a))
  else match ctxTarget s ctx a n k with
  | (s1, .error f) => (s1, .bad f)
  | (s1, .ok t) =>
    let ns := spanNeeds s1 k.writes n t ++ (if k.writes then locNeeds s1 (readLocs s1 n t) else [])
    if ns ≠ [] then (s1, .wait ns)
    else if !k.writes && spanPoisoned s1 n t then (s1, .bad (.plain 11)) else (s1, .got t)

/-- Bytes of a context's memory as an agent reads them. -/
def bytesGot (s : State) (seat : Seat) (ctx : Nat) (a : Dword) (n : Nat) : State × Got (List Byte) :=
  match spanGot s ctx a n .load with
  | (s1, .got t) =>
    ((s1.recall none (spanLines t n ++ readLines s1 n t)).fillFor seat t n, .got (readTarget s1 seat t n))
  | (s1, .wait ns) => (s1, .wait ns)
  | (s1, .bad f) => (s1, .bad f)

/-- Write bytes of a target at one point. -/
def State.spanWrite (s : State) (t : Target) (data : List Byte) : State :=
  (s.recall none (spanLines t data.length)).writeNow (targetBytes t data)

/-- `n` bits from bit `lo` of the little-endian value at an offset of a record. -/
def recBits (l : List Byte) (off lo n : Nat) : Nat := ofBytes ((l.drop off).take ((lo + n + 7) / 8)) / 2 ^ lo % 2 ^ n

/-! ### Kernels (R387, R388) -/

/-- A kernel descriptor (R388). -/
structure Kernel where
  entry : Dword
  teams : Nat
  waves : Nat
  stages : Nat
  accs : Nat
  pers : Nat
  scrg : Nat
  lanes : Nat
  deriving DecidableEq, Repr, Inhabited

/-- The descriptor's reserved bits are zero, its personality is loaded and its entry aligned (R388). -/
def kernelOk (c : Context) (d : List Byte) : Bool :=
  let pers := recBits d 8 0 4
  decide (recBits d 8 4 9 = 0) && decide (ofBytes (d.drop 0x18) = 0)
    && (if pers = 0 then decide (recBits d 0 0 3 = 0)
        else decide (recBits d 0 0 2 = 0) && (match c.pers[pers - 1]? with
          | some (_, v, _) => v
          | none => false))

/-- The fields of a descriptor. -/
def kernelOf (d : List Byte) : Kernel :=
  { entry := BitVec.ofNat 64 (recBits d 0 0 64), teams := recBits d 8 27 5, waves := recBits d 8 22 5
    stages := recBits d 8 17 5, accs := recBits d 8 13 4, pers := recBits d 8 0 4, scrg := recBits d 0x0C 16 16
    lanes := recBits d 0x0C 0 16 }

/-- Entry `i` of a context's kernel indirection table and its descriptor; none where the entry is empty or either
cannot be read (R387, R388). -/
def kernelGot (s : State) (ctx i : Nat) : State × Got (Option Kernel) :=
  match s.ctx? ctx with
  | none => (s, .got none)
  | some c =>
    if c.kitn ≤ i then (s, .got none)
    else match bytesGot s frontSeat ctx (BitVec.ofNat 64 (c.kitb + 16 * i)) 16 with
    | (s1, .bad _) => (s1, .got none)
    | (s1, .wait ns) => (s1, .wait ns)
    | (s1, .got e) =>
      if recBits e 0 63 1 = 0 ∨ recBits e 0 0 63 ≠ 0 ∨ recBits e 8 0 6 ≠ 0 then (s1, .got none)
      else match bytesGot s1 frontSeat ctx (BitVec.ofNat 64 (recBits e 8 6 58 * 64)) 64 with
      | (s2, .bad _) => (s2, .got none)
      | (s2, .wait ns) => (s2, .wait ns)
      | (s2, .got d) => (s2, .got (if kernelOk c d then some (kernelOf d) else none))

/-! ### LAUNCH (R348) -/

/-- A selector that must be a scalar register or an immediate; `zero` lets 0x84 stand too. -/
def regOrImmCauses (v : View) (zero : Bool) (sel : BitVec 8) : List Nat :=
  let n := sel.toNat
  if n < 0x40 ∨ (0x80 ≤ n ∧ n < 0x84) ∨ (0x90 ≤ n ∧ n < 0x98) then srcCauses v false (.sreg 1) sel
  else if 0xC0 ≤ n ∨ (zero ∧ n = 0x84) then []
  else [0x03]

/-- Retire an operation of class 7 with a scalar status. -/
def sysStatus (f : FmtW) (v : View) (x : Nat) (s : State) : State :=
  let w := writeScal (v.w.setSlot v.sl.b v.p) v.sl.b 1 f.d (BitVec.ofNat 128 x)
  s.putWave v (w.setSlot v.sl.b ((w.slot v.sl.b).afterOther false))

/-- Causes of LAUNCH. -/
def launchCauses (f : FmtW) (v : View) : List Nat :=
  bareCauses f.c ++ dstCauses v none (.scal 1) f.d ++ srcCauses v false (.sreg 2) f.sa ++ regOrImmCauses v false f.sb
    ++ fieldZero f.sc ++ fieldZero f.m

/-- Append the record at the front end: the status, or what it waits for. A queue whose addresses fault is disabled, and
LAUNCH then finds it disabled (R323, R348). -/
def launchAppend (s : State) (v : View) (q : Nat) (data : List Byte) : State × Got Nat :=
  let x := s.queue q
  let c := x.cur
  if 63 < q ∨ !c.en ∨ !c.dev ∨ c.ctx ≠ v.t.ctx then (s, .got 2)
  else match ctrGot s c.ctx c.tail true with
  | (s1, .bad _) => (s1.queueDisable q c.tail, .got 2)
  | (s1, .wait ns) => (s1, .wait ns)
  | (s1, .got tail) =>
    match ctrGot s1 c.ctx c.head false with
    | (s2, .bad _) => (s2.queueDisable q c.head, .got 2)
    | (s2, .wait ns) => (s2, .wait ns)
    | (s2, .got head) =>
      let s3 := (s2.ctrSettle tail).ctrSettle head
      let n := ctrValue s3 tail
      if reached n (ctrValue s3 head + BitVec.ofNat 64 (2 ^ c.logn)) then (s3, .got 1)
      else match spanGot s3 c.ctx (recordAddr x n) 128 .store with
      | (s4, .bad _) => (s4.queueDisable q (recordAddr x n), .got 2)
      | (s4, .wait ns) => (s4, .wait ns)
      | (s4, .got t) => (((s4.spanWrite t data).ctrAdd tail 1).1, .got 0)

/-- LAUNCH past its checks. -/
def launchRun (f : FmtW) (v0 : View) (s : State) : State :=
  let v := { v0 with p := { v0.p with replay := false } }
  let a := readS64 v f.sa
  let first := releaseNeeds s v 0xFFFF 4 ++ xlateNeeds s v.t.core v.t.ctx a false
  let s0 := (s.putSlot v0 v.p).release v 0xFFFF 4
  let stop (s : State) (e : MemFault) : State := s.stopSlot v (memRec s v e a v.p.fmask)
  if first ≠ [] then (s.request first).putSlot v { v.p with stalled := true }
  else if a.toNat % 128 ≠ 0 then stop s0 (.plain 4)
  else match globTarget s0 v.t.core v.t.ctx a 128 .load with
  | (s1, .error e) => stop s1 e
  | (s1, .ok (.remote _ _)) => stop s1 .permission
  | (s1, .ok t) =>
    let ns := spanNeeds s1 false 128 t ++ touchNeeds s1 v.t.core t 128 ++ beforeNeeds s1 v 0 [none] (readLocs s1 128 t)
    if ns ≠ [] then (s1.request ns).putSlot v { v.p with stalled := true }
    else if spanPoisoned s1 128 t then stop s1 (.plain 11)
    else
      let s2 := (((s1.flushFor v.t.core t 128).forceBefore v 0 [none] (readLocs s1 128 t)).recall (some v.t.core)
        (spanLines t 128 ++ readLines s1 128 t)).fillFor v.seat t 128
      match launchAppend s2 v (readS32 v f.sb).toNat (readTarget s2 v.seat t 128) with
      | (s3, .wait ns) => (s3.request ns).putSlot v { v.p with stalled := true }
      | (s3, .got st) => sysStatus f v st s3
      | (s3, .bad _) => sysStatus f v 2 s3

/-- LAUNCH (R348). -/
def execLaunch (f : FmtW) (s : State) : Host.Outcome State Fault Refusal :=
  issue s (launchCauses f) (fun _ => false) fun v =>
    if v.activeTo f.c f.d = 0 then s.putSlot v v.p.onward else launchRun f v s

/-! ### Queue registers (R323, R424) -/

/-- May the copy be enabled (R323)? -/
def qcbOk (c : QcbCopy) : Bool :=
  !c.rsvd && !c.rsvd5 && !c.rsvd6 && !c.rsvd7 && decide (c.ring.extractLsb' 0 7 = 0) && decide (c.logn ≠ 0) && decide (c.tail.extractLsb' 0 3 = 0) && decide (c.head.extractLsb' 0 3 = 0)

/-- The copy not in force, which software writes (R424). -/
def Queue.spare (x : Queue) : QcbCopy := if x.sel then x.c0 else x.c1

/-- Change the copy not in force. -/
def Queue.modSpare (x : Queue) (f : QcbCopy → QcbCopy) : Queue :=
  if x.sel then { x with c0 := f x.c0 } else { x with c1 := f x.c1 }

/-- QUEUE_ENABLE: EN = 1 is written in the copy not in force, the one that takes writes (R424); the copy is checked, and
NEXT restarts at 0 unless the queue is running (R323). -/
def execQueueEnable (q : Nat) (s : State) : Host.Outcome State Fault Refusal :=
  let x := s.queue q
  .next (if !qcbOk x.spare then s
    else s.modQueue q fun x =>
      { x.modSpare (fun c => { c with en := true }) with next := if x.cur.en then x.next else 0 })

/-- QVER_UPDATE: a version word that raises SEQ by exactly 1 takes effect at the front end's next turn (R424). -/
def execQverUpdate (q : Nat) (v : Dword) (s : State) : Host.Outcome State Fault Refusal :=
  .next (if v.extractLsb' 1 63 = (s.queue q).seq + 1 then
      s.modQueue q fun x =>
        let y := { x with seq := v.extractLsb' 1 63, sel := v.getLsbD 0 }
        { y with sts := if y.cur.en then (if x.sts = 2 then 2 else 1) else 0 }
    else s)

/-- REASON_CLEAR: 1 is written to bit 63 of the REASON word (R323). -/
def execReasonClear (q : Nat) (s : State) : Host.Outcome State Fault Refusal :=
  .next (s.modQueue q fun x => { x with reason := 0, idx := 0 })

end Sys2Proof.Machine
end

