-- ==== Sys2Proof/Machine/Faults.lean ====
section
/-!
DEFINITION. The fault unit (R396 to R403, R455), the end of a context (R402), HALT (R413) and machine checks (R406).
-/

namespace Sys2Proof.Machine

/-! ### The end of a context (R402) -/

/-- Stop a wave for good wherever its team is. -/
def State.stopTeam (s : State) (t : Team) : State :=
  (List.range t.waves.length).foldl (fun s i => s.stopWave ⟨t.id, i, false⟩) s

/-- Launches that have completed or are gone no longer count for DRN (R389). -/
def FrontEnd.forget (x : FrontEnd) (ids : List Nat) : FrontEnd :=
  { x with krold := x.krold.map fun l => l.filter fun n => !ids.contains n, krpast := x.krpast.filter fun n => !ids.contains n }

/-- The FEED that Winter had taken has ended: firmware that is back takes over (R426). -/
def State.takeOver (s : State) : State :=
  if s.fe.back then { s with fe := { s.fe with win := false, back := false } } else s

/-- A context ends: its waves and commands stop, its waits, segments and work are gone, its queues are disabled, and the
device operating system gets the one CHARGE record of the end (R402). -/
def State.endContext (s : State) (ctx code : Nat) (info2 : Word) : State :=
  match s.ctx? ctx with
  | none => s
  | some c =>
    if c.ended then s
    else
      let s1 := (s.teams.filter fun t => t.ctx = ctx).foldl State.stopTeam s
      let s2 := { s1 with
        cmds := s1.cmds.filter fun c => c.ctx ≠ ctx
        waiters := s1.waiters.filter fun w => w.ctx ≠ ctx
        segs := s1.segs.filter fun g => g.ctx ≠ ctx
        launches := s1.launches.filter fun l => l.ctx ≠ ctx
        feeds := s1.feeds.filter fun f => f.ctx ≠ ctx
        queues := s1.queues.map fun (x : Queue) =>
          if x.cur.ctx = ctx then { x.modCur (fun c => { c with en := false }) with sts := 0 } else x
        recs := s1.recs.filter fun r => r.ctx ≠ ctx ∨ r.toOs
        owedAdds := s1.owedAdds.filter fun a => a.1 ≠ ctx
        prefs := s1.prefs.filter fun x => x.2.1 ≠ ctx
        fe := s1.fe.forget ((s1.launches.filter fun (l : Launch) => decide (l.ctx = ctx)).map Launch.id) }
      let s2 := if s1.feeds.head?.map FeedRun.ctx = some ctx then s2.takeOver else s2
      let s3 := s2.modCtx ctx fun c => { c with ended := true }
      s3.charge ctx code 0 info2

/-- HALT (R413): privileged; the context ends, with no release. -/
def execHalt (f : FmtW) (s : State) : Host.Outcome State Fault Refusal :=
  issue s
    (fun v => bareCauses f.c ++ fieldZero f.d ++ regOrImmCauses v true f.sa ++ fieldZero f.sb ++ fieldZero f.sc
      ++ fieldZero f.m ++ (if s.privileged v.t v.p then [] else [0x0B]))
    (fun _ => false) fun v =>
      if v.active f.c = 0 then s.putSlot v v.p.onward else s.endContext v.t.ctx 0x04 (readS32 v f.sa)

/-! ### A record's bytes (R394, R397) -/

/-- The class codes of R394. -/
def classCode : FaultClass → Nat
  | .mem => 1 | .copy => 2 | .cntr => 3 | .matrix => 4 | .attach => 5 | .pers => 6 | .code => 7 | .dstk => 8 | .trap => 9
  | .kill => 10 | .reject => 11 | .queue => 12 | .charge => 13 | .mchk => 14

/-- A truth value as a bit. -/
def bitOf (b : Bool) : Nat := if b then 1 else 0

/-- The 64 bytes of a record, ACT zero (R397). -/
def FRec.bytes (r : FRec) : List Byte :=
  bytesOf (classCode r.cls * 2 ^ 24 + r.cause % 256 * 2 ^ 16 + r.sub % 256 * 2 ^ 8 + bitOf r.rst * 2 ^ 7 + bitOf r.exp * 2 ^ 6
      + bitOf r.slv * 2 ^ 5 + bitOf r.qv * 2 ^ 4 + bitOf r.fwd * 2 ^ 3) 4
    ++ bytesOf (r.core * 2 ^ 22 + r.wave * 2 ^ 18 + bitOf r.slotB * 2 ^ 17 + r.qid * 2 ^ 14 + r.repj * 2 ^ 8
      + r.xop * 2 ^ 5) 4
    ++ bytesOf r.pc.toNat 8 ++ bytesOf r.addr.toNat 8 ++ bytesOf r.info.toNat 8 ++ bytesOf r.info2.toNat 4
    ++ bytesOf (r.team * 2 ^ 27 + r.stage * 2 ^ 23) 4 ++ bytesOf r.gang 4 ++ bytesOf r.ctx 4 ++ bytesOf r.time.toNat 8
    ++ bytesOf 0 8

/-! ### Rings (R396, R399) -/

/-- A ring: 0 is the device operating system's, another number a context's. -/
structure Ring where
  base : Dword
  tail : Dword
  disp : Dword
  logf : Nat
  next : Nat
  done : Nat
  deriving DecidableEq, Repr, Inhabited

/-- A ring by number. -/
def State.ring? (s : State) (n : Nat) : Option Ring :=
  if n = 0 then
    some { base := s.osRing, tail := s.osTail, disp := s.osDisp, logf := s.osLogf, next := s.osNext, done := s.osDone }
  else (s.ctx? n).map fun c =>
    { base := c.fring, tail := c.ftail, disp := c.fdisp, logf := c.logf, next := c.fnext, done := c.fdone }

/-- Put back how far a ring has been written and disposed. -/
def State.putRing (s : State) (n next done : Nat) : State :=
  if n = 0 then { s with osNext := next, osDone := done }
  else s.modCtx n fun c => { c with fnext := next, fdone := done }

/-- A record dropped for want of room, or for want of a usable ring of the device operating system (R399, R455). -/
def State.countOvf (s : State) (n : Nat) : State :=
  if n = 0 then { s with osFovf := min (s.osFovf + 1) (2 ^ 32 - 1) }
  else s.modCtx n fun c => { c with fovf := min (c.fovf + 1) (2 ^ 32 - 1) }

/-- A counter of a ring: the device operating system's addresses are physical. -/
def ringCounter (s : State) (n : Nat) (a : Dword) (chg : Bool) : State × Got CtrPlace :=
  if n ≠ 0 then ctrGot s n a chg
  else if a.toNat % 8 ≠ 0 ∨ (physFault s a.toNat 8).isSome then (s, .bad ((physFault s a.toNat 8).getD (.plain 7)))
  else
    let ns := ctrNeeds s chg (.phys a.toNat)
    if ns ≠ [] then (s, .wait ns)
    else if ctrPoisoned s (.phys a.toNat) then (s, .bad (.plain 11))
    else (s.recall none [lineOf a.toNat], .got (.phys a.toNat))

/-- A record's place in a ring, to write or to read. -/
def ringSpan (s : State) (n : Nat) (a : Dword) (k : Access) : State × Got Target :=
  if n ≠ 0 then spanGot s n a 64 k
  else if (physFault s a.toNat 64).isSome then (s, .bad ((physFault s a.toNat 64).getD (.plain 7)))
  else
    let t := physTarget s a.toNat 0
    let ns := spanNeeds s k.writes 64 t ++ (if k.writes then locNeeds s (readLocs s 64 t) else [])
    (s.recall none (spanLines t 64), if ns ≠ [] then .wait ns else .got t)

/-- The address of record `i` of a ring. -/
def Ring.slot (r : Ring) (i : Nat) : Dword := r.base + BitVec.ofNat 64 (64 * (i % 2 ^ r.logf))

/-- The fault's order in R183 for a CHARGE record, or 0 where an address names no usable counter, and for a poison fault, to
which R183 gives no order (R455). -/
def divertCode (cls : FaultClass) (f : MemFault) : Nat := if cls = .cntr ∨ f.cause = 11 then 0 else f.cause

/-- A ring that cannot be used: a context's records go to the device operating system from now on, which is told; the
device operating system's own record is dropped (R455). -/
def State.divert (s : State) (r : FRec) (n : Nat) (addr : Dword) (cls : FaultClass) (f : MemFault) : State :=
  if n = 0 then ({ s with recs := s.recs.filter fun x => decide (x.id ≠ r.id) }).countOvf 0
  else
    let s1 := s.modCtx n fun c => { c with diverted := true }
    let s2 := { s1 with recs := s1.recs.map fun (x : FRec) => if x.ctx = n then { x with toOs := true } else x }
    s2.charge n 0x05 addr (BitVec.ofNat 32 (divertCode cls f))

/-- The ring a record is for. -/
def FRec.ringNo (r : FRec) : Nat := if r.toOs then 0 else r.ctx

/-- A record's place among those of one cycle: core, wave place, slot, queue; a wave's kill comes after the faults its slots
are held on (R404). -/
def FRec.place (r : FRec) : Nat :=
  (((r.core * 16 + r.wave) * 2 + bitOf (decide (r.cls = .kill))) * 2 + bitOf r.slotB) * 8 + r.qid

/-- The record is to be written before another, raised later: it is of an earlier cycle, or its place is no greater. -/
def FRec.before (x y : FRec) : Bool := decide (x.cycle < y.cycle) || decide (x.place ≤ y.place)

/-- The record of ring `n` that is written next: those of one cycle in the order of their places (R399, R404). -/
def firstRec (s : State) (n : Nat) : Option FRec :=
  (s.recs.filter fun x => x.ringNo = n).foldl (fun m y => match m with
    | none => some y
    | some x => if x.before y then some x else some y) none

/-- The seat of the fault unit (R314). -/
def faultSeat : Seat := .of .faultUnit 0

/-- What the fault unit's tail release covers beside the record: what its disposition acquires have shown it (R317). -/
def faultCovered : PWrite → Bool := coveredBy faultSeat fun _ => false

/-- Write record `r` at the next place of ring `n`, whose counters and memory can be used; the add to the tail is a release at
.sys (R316, R317, R399). -/
def State.putRecord (s : State) (r : FRec) (n : Nat) (g : Ring) (t : Target) (tail : CtrPlace) : State :=
  let s1 := (s.spanWrite t r.bytes).releaseWrites faultSeat (fun _ => false) 5
  let s2 := (s1.ctrAdd tail 1).1
  let s3 := s2.putRing n (g.next + 1) g.done
  { s3 with
    recs := s3.recs.filter fun x => decide (x.id ≠ r.id)
    written := s3.written ++ [{ ring := n, index := g.next, record := r }] }

/-- FAULT_RECORD_WRITE: the fault unit writes a record once its ring has room, a ring's records in the order raised, those
of one cycle in the order of R404 once the cycle is over; a record that holds nothing and finds the ring full is dropped (R399, R455). -/
def execFaultRecordWrite (rec : Nat) (s : State) : Host.Outcome State Fault Refusal :=
  match s.recs.find? fun r => r.id = rec with
  | none => .next s
  | some r =>
    let n := r.ringNo
    match s.ring? n with
    | none => .next { s with recs := s.recs.filter fun x => decide (x.id ≠ rec) }
    | some g =>
      match ringCounter s n g.disp false with
      | (s1, .wait ns) => .next (s1.request ns)
      | (s1, .bad f) => .next (s1.divert r n g.disp (ctrClass s n g.disp) f)
      | (s1, .got d) =>
        if !reached (ctrValue (s1.ctrSettle d) d) (BitVec.ofInt 64 ((g.next : Int) + 1 - (2 ^ g.logf : Nat))) then
          .next (if r.slv ∨ r.qv then s1
            else ({ s1 with recs := s1.recs.filter fun x => decide (x.id ≠ rec) }).countOvf n)
        else if firstRec s1 n ≠ some r ∨ s1.cycle ≤ r.cycle then .next s1
        else match ringCounter s1 n g.tail true with
        | (s2, .wait ns) => .next (s2.request ns)
        | (s2, .bad f) => .next (s2.divert r n g.tail (ctrClass s1 n g.tail) f)
        | (s2, .got tail) =>
          match ringSpan s2 n (g.slot g.next) .store with
          | (s3, .wait ns) => .next (s3.request ns)
          | (s3, .bad f) => .next (s3.divert r n (g.slot g.next) .mem f)
          | (s3, .got t) =>
            .next (if coverNeeds s3 faultCovered ≠ [] then s3.request (coverNeeds s3 faultCovered) else s3.putRecord r n g t tail)

/-! ### Dispositions (R400 to R403) -/

/-- The first live slot of a team. -/
def firstLive (t : Team) : Option SlotId :=
  (List.range t.waves.length).findSome? fun i => match t.waves[i]? with
    | none => none
    | some w =>
      if w.status ≠ .running then none
      else if w.a.live then some ⟨t.id, i, false⟩
      else if w.b.live then some ⟨t.id, i, true⟩
      else none

/-- A slot that a record of its team's machine check holds: the first that still lives (R401, R406). -/
def checkedSlot (s : State) (team : Nat) : Option View :=
  match s.team? team with
  | none => none
  | some t => if t.checked.isNone then none else (firstLive t).bind s.find

/-- The slot a record holds, if it still does (R401). -/
def heldSlot (s : State) (r : FRec) : Option View :=
  match r.sl with
  | none => none
  | some sl =>
    if r.cls = .mchk then checkedSlot s sl.team
    else match s.find sl with
    | none => none
    | some v => if v.w.status = .running ∧ v.p.live ∧ v.p.status = .held r.id then some v else none

/-- The command a record holds, if it is still there (R401). -/
def heldCmd (s : State) (r : FRec) : Option CopyCmd :=
  match r.cmd with
  | none => none
  | some id => s.cmds.find? fun c => c.id = id

/-- Every outstanding result of the slot is written (R51). -/
def Wave.landAll (w : Wave) (b : Bool) : Wave :=
  let p := w.slot b
  let w1 := p.pend.foldl (fun w q => w.land b q) w
  w1.setSlot b { w1.slot b with pend := [], poisonStop := p.pend.foldl (fun x q => x <|> q.poison) p.poisonStop }

/-- A slot that goes on, unless a machine check of its team has stopped it: the check's record then holds it, and takes only
KILLW and ENDCTX (R406; log entry 86). -/
def Slot.onUnless (p : Slot) (checked : Option Nat) : Slot := match checked with
  | none => p
  | some id => { p with status := .held id }

/-- RESUME of a slot: it issues again at its resume point (R403). -/
def resumeSlot (s : State) (v : View) : State := s.putSlot v (v.p.resume.onUnless v.t.checked)

/-- SKIP of a slot past `n` bytes (R403). -/
def skipSlot (s : State) (v : View) (r : FRec) (n : Nat) : State :=
  let w := v.w.landAll v.sl.b
  let p := w.slot v.sl.b
  let q : Slot := { p with mxst := if r.mg then 0 else p.mxst }
  s.putWave v (w.setSlot v.sl.b ((q.skipPast r.vec n).onUnless v.t.checked))

/-- KILLW: the wave is killed without %err or a kill record; after a machine check every wave of the team is (R400,
R406). -/
def killHeld (s : State) (v : View) (r : FRec) : State := if r.cls = .mchk then s.stopTeam v.t else s.stopWave v.sl

/-- DISCARD: the command and the team's later commands in its queue (R144, R400). -/
def discardFrom (s : State) (c : CopyCmd) : State :=
  (s.cmds.filter fun x => decide (x.op ≠ 8 ∧ x.team = c.team ∧ x.core = c.core ∧ x.qid = c.qid ∧ c.id ≤ x.id)).foldl
    State.endCmd s

/-- RESUME of a copy command held on a restartable fault (R144, R403). -/
def resumeCmd (s : State) (c : CopyCmd) : State := match c.status with
  | .held row off => s.modCmd c.id fun c => { c with status := .active row off }
  | _ => discardFrom s c

/-- FORWARD: the record goes to the context's ring as one that cannot be restarted, or with the context's other records
while those are diverted (R400, R455). -/
def forwardRec (s : State) (r : FRec) : State :=
  let away := ((s.ctx? r.ctx).map Context.diverted).getD false
  { s with recs := s.recs ++ [{ r with fwd := true, rst := false, toOs := away, cycle := s.cycle }] }

/-- FORWARD of a copy command's record: its queue is then halted, as by a fault that cannot be restarted, with cause NP where
it could have been (R144). -/
def forwardCmd (s : State) (c : CopyCmd) (r : FRec) : State :=
  let cause := if r.rst then 1 else r.cause
  ((forwardRec s { r with cause := cause }).modQStat c.team c.qid fun x => { x with fcause := cause }).modCmd c.id fun c =>
    { c with status := .halted }

/-- Perform an accepted or unaccepted ACT on a record (R400). -/
def dispose (s : State) (ring : Nat) (r : FRec) (act : Nat) : State :=
  let slot := heldSlot s r
  let cmd := heldCmd s r
  if (r.slv && slot.isNone) || (r.qv && cmd.isNone) then s
  else match slot, cmd, act with
  | _, _, 5 => s.endContext r.ctx 0x01 0
  | some v, _, 1 => if r.cls = .mchk then killHeld s v r else resumeSlot s v
  | some v, _, 2 => (match r.skipLen with
    | some n => if r.cls = .mchk then killHeld s v r else skipSlot s v r n
    | none => killHeld s v r)
  | some v, _, 6 => if ring = 0 ∧ r.cls ≠ .mchk then forwardRec s r else killHeld s v r
  | some v, _, _ => killHeld s v r
  | none, some c, 1 => resumeCmd s c
  | none, some c, 6 => if ring = 0 then forwardCmd s c r else discardFrom s c
  | none, some c, _ => discardFrom s c
  | none, none, _ => s

/-- The context exists and has not ended. -/
def ctxLive (s : State) (ctx : Nat) : Bool := match s.ctx? ctx with
  | some c => !c.ended
  | none => false

/-- DISPOSITION: once the disposition counter reaches the next record, the fault unit performs its ACT (R399 to
R401). -/
def execDisposition (ring : Nat) (s : State) : Host.Outcome State Fault Refusal :=
  match s.ring? ring, s.written.find? fun w => w.ring = ring with
  | some g, some w =>
    if w.index ≠ g.done then .next s
    else match ringCounter s ring g.disp false with
    | (s1, .got d) =>
      if !reached (ctrValue (s1.ctrSettle d) d) (BitVec.ofNat 64 (g.done + 1)) then .next s1
      else match ringSpan s1 ring (g.slot g.done) .load with
      | (s2, .got t) =>
        let act := recBits (readTarget s2 (.of .faultUnit 0) t 64) 0x38 0 4
        let s3 := { s2.putRing ring g.next (g.done + 1) with written := s2.written.erase w }
        .next (if ctxLive s3 w.record.ctx then dispose s3 ring w.record act else s3)
      | (s2, .wait ns) => .next (s2.request ns)
      | (s2, .bad _) => .next s2
    | (s1, .wait ns) => .next (s1.request ns)
    | (s1, .bad _) => .next s1
  | _, _ => .next s

/-! ### Machine checks (R406) -/

/-- MCHK: an uncorrectable error in a unit of a team's waves (1 register file, 2 accumulator, 3 weight store, 4 latch or
pipe): every slot of the team stops at once. One that another record holds stays on that, whose disposition counts as before
(R401). -/
def execMchk (team unit : Nat) (s : State) : Host.Outcome State Fault Refusal :=
  match s.team? team with
  | none => .next s
  | some t =>
    if t.status ≠ .placed ∨ unit = 0 ∨ 4 < unit then .next s
    else
      let r := { FRec.ofTeam s t .mchk 0 with info := BitVec.ofNat 64 unit, slv := true, sl := firstLive t }
      let hold (p : Slot) : Slot := match p.status with
        | .held _ => p
        | _ => if p.live then p.holdOn s.nextRec else p
      let s1 := s.dropWaits fun x => decide (x.team = team)
      let s2 := s1.modTeam team fun t => { t with checked := t.checked <|> some s.nextRec, waves := t.waves.map fun w =>
        if w.status = .running then { w with a := hold w.a, b := hold w.b } else w }
      .next (s2.addRec r false)

end Sys2Proof.Machine
end

