-- ==== Sys2Proof/WellFormed.lean ====
section
/-!
DEFINITION. Which terms of `Instr` are operations a word can spell.

A format record holds every field of a word, so nearly every operation term is some word.
Three are not: KMOV and KMOV.FS share an opcode and are told apart by OPB[0] (R227), a word whose opcode is assigned
is no unassigned opcode (R53, R54), and an event has no word.
The checks that kill a wave at issue (R56) are no part of this: an illegal encoding is still a word.
-/

namespace Sys2Proof

/-- The opcode values R53 lists, class by class. -/
def assignedOps : Nat → List Nat
  | 0 => [0x00, 0x01, 0x02, 0x03, 0x04, 0x05, 0x06, 0x08, 0x09, 0x0A, 0x0B, 0x0C, 0x0D, 0x0E, 0x0F, 0x10, 0x11, 0x12,
      0x13, 0x14, 0x15, 0x18, 0x19, 0x1A, 0x1B, 0x1C, 0x1D, 0x20, 0x21, 0x28, 0x29, 0x2A, 0x2B, 0x2C]
  | 1 => [0x00, 0x01, 0x02, 0x03, 0x04, 0x05, 0x08, 0x09, 0x0A, 0x0B, 0x0C, 0x0D, 0x0E, 0x10, 0x11, 0x12, 0x13, 0x14,
      0x15, 0x16, 0x17, 0x18, 0x19, 0x1A, 0x1B, 0x1C, 0x1D] ++
      [0x20, 0x21, 0x22, 0x23, 0x24, 0x25, 0x26, 0x27, 0x28, 0x29, 0x2A, 0x2B, 0x2C, 0x30, 0x31, 0x32, 0x33, 0x34,
        0x35, 0x36, 0x37, 0x40, 0x41, 0x42, 0x43, 0x44, 0x45, 0x46, 0x47, 0x48, 0x49, 0x4A, 0x4B, 0x4C, 0x50, 0x51,
        0x52, 0x53, 0x54]
  | 2 => [0x00, 0x01, 0x02, 0x03, 0x04, 0x05, 0x08, 0x09, 0x0C, 0x0D, 0x10, 0x11]
  | 3 => [0x00, 0x01, 0x02, 0x03, 0x04, 0x05, 0x10, 0x11, 0x12, 0x13, 0x14, 0x15, 0x16, 0x20, 0x21]
  | 4 => [0x00, 0x01, 0x02, 0x03, 0x04, 0x05, 0x08, 0x09, 0x0A, 0x0B, 0x10, 0x11]
  | 5 => [0x00, 0x01, 0x02, 0x03, 0x08, 0x09]
  | 6 => [0x00, 0x01, 0x02, 0x03, 0x04, 0x05, 0x06, 0x08, 0x09, 0x0A, 0x0B, 0x0C, 0x10, 0x11]
  | _ => [0x00, 0x01, 0x02, 0x04, 0x05, 0x08, 0x09, 0x10]

/-- The class field of a word (R26). -/
def wordCls (w : Dword) : Nat := (w.extractLsb' 61 3).toNat

/-- The opcode field of a word (R26). -/
def wordOp (w : Dword) : Nat := (w.extractLsb' 54 7).toNat

/-- The opcode of the word is one R53 lists. -/
def wordAssigned (w : Dword) : Bool := (assignedOps (wordCls w)).contains (wordOp w)

/-- The term is an operation some word spells. -/
def Instr.wellFormed : Instr → Bool
  | .kmov f => !f.opb.getLsbD 0
  | .kmovFs f => f.opb.getLsbD 0
  | .unassignedOpcode w => !wordAssigned w
  | .chainHoldLimit _ => false
  | .trackedResultWrite _ _ => false
  | .writePerform _ => false
  | .tlbFill _ _ _ => false
  | .instructionCacheFill _ _ _ => false
  | .guestDecode _ => false
  | .copyCommandStart _ _ _ => false
  | .copyTransfer _ _ _ => false
  | .copyCompletion _ _ _ => false
  | .combiningBufferTimeout _ _ => false
  | .predictorDecay _ => false
  | .parkedPollingReread _ => false
  | .waiterWake _ => false
  | .segmentRefillGranule _ _ _ => false
  | .segmentWritebackGranule _ _ _ => false
  | .windowEnable _ _ => false
  | .windowDisable _ _ => false
  | .windowFlush _ _ => false
  | .windowFlushDone _ => false
  | .carveoutChange _ _ => false
  | .carveoutShrinkProceed _ => false
  | .carveoutChangeDone _ => false
  | .chrsvWrite _ _ => false
  | .shootdown _ => false
  | .shootdownDone => false
  | .counterAddWindowWrite _ _ _ => false
  | .hostHdmRead _ _ _ _ => false
  | .hostHdmWrite _ _ _ _ => false
  | .hostSnoopAnswer _ => false
  | .hostSnoop _ => false
  | .hostLost _ => false
  | .peerReadRequest _ _ _ _ _ => false
  | .peerWrite _ _ _ _ => false
  | .peerCounterAdd _ _ _ _ _ => false
  | .remoteResponse _ _ _ => false
  | .flitReplay _ => false
  | .managementMessage _ => false
  | .timingMessage _ => false
  | .peerLost _ => false
  | .linkDown _ => false
  | .linkRetry _ _ => false
  | .queueEnable _ => false
  | .qverUpdate _ _ => false
  | .reasonClear _ => false
  | .frontEndTake _ => false
  | .feed => false
  | .launchReady _ => false
  | .startTimeReached => false
  | .gangStagePlace _ _ _ => false
  | .launchComplete _ => false
  | .kernelReplace => false
  | .fehbWrite => false
  | .frontEndWatchdog => false
  | .preemptionRequest _ => false
  | .forcedStop _ => false
  | .teamSave _ => false
  | .teamRestore _ _ => false
  | .yieldSwap _ => false
  | .teamExit _ => false
  | .faultRecordWrite _ => false
  | .disposition _ => false
  | .mchk _ _ => false
  | .eqsetWrite _ => false
  | .snapgo _ => false
  | .snapshotLatch => false
  | .islandControl _ _ => false
  | .powerLimitThrottle _ => false
  | .keyDerive _ => false
  | .keyClear _ => false
  | .egressRelease _ => false
  | .almbaseWrite _ => false
  | .almack _ => false
  | .almanacPortSelect _ => false
  | .leaderHeartbeat => false
  | .leaderTakeover _ => false
  | .servicePairMismatch _ => false
  | .packageReset _ => false
  | .attestationRequest _ => false
  | .sealImport _ _ _ => false
  | .registerWrite _ _ _ _ => false
  | .mgemmSequencerStep _ => false
  | .matrixAcceptance _ => false
  | .cxlCacheResponse _ _ => false
  | .servicePairAccess _ _ => false
  | _ => true

end Sys2Proof
end

