-- ==== Sys2Proof/Decode.lean ====
section
/-!
DEFINITION. The decoder and the encoder of the native operation word (R26 to R35, R45, R53, R54).

Eight bytes, least significant first (R3), are one operation word; every word is some operation, an unassigned opcode
included, so the only thing the decoder turns away is a run of fewer than eight bytes.
-/

namespace Sys2Proof

/-- A field of a word: `n` bits from bit `lo` up. -/
abbrev field (w : Dword) (lo n : Nat) : BitVec n := w.extractLsb' lo n

/-- CH, NW, KP and KN of a word (R26). -/
def readCtl (w : Dword) : Ctl :=
  { ch := w.getLsbD 53, nw := w.getLsbD 52, kp := field w 49 3, kn := w.getLsbD 48 }

/-- Format A of classes 0 and 1 (R26, R30). -/
def readFmtA (w : Dword) : FmtA :=
  { c := readCtl w, d := field w 40 8, sa := field w 32 8, sb := field w 24 8, sc := field w 16 8
    ty := field w 12 4, rm := field w 10 2, sat := w.getLsbD 9, opb := field w 0 9 }

/-- Format A of classes 2 to 7 (R26, R30). -/
def readFmtW (w : Dword) : FmtW :=
  { c := readCtl w, d := field w 40 8, sa := field w 32 8, sb := field w 24 8, sc := field w 16 8, m := field w 0 16 }

/-- Format I (R29). -/
def readFmtI (w : Dword) : FmtI :=
  { c := readCtl w, d := field w 40 8, sa := field w 32 8, imm := field w 0 32 }

/-- Format M (R32). -/
def readFmtM (w : Dword) : FmtM :=
  { c := readCtl w, d := field w 40 8, sa := field w 32 8, sb := field w 24 8, sc := field w 16 8
    str := field w 12 4, spc := field w 9 3, sz := field w 6 3, sco := field w 3 3, cp := field w 0 3 }

/-- Format B (R29, R35). -/
def readFmtB (w : Dword) : FmtB :=
  { c := readCtl w, d := field w 40 8, sa := field w 32 8, disp := field w 0 32 }

/-- Format C (R33). -/
def readFmtC (w : Dword) : FmtC :=
  { c := readCtl w, d := field w 40 8, sa := field w 32 8, sb := field w 24 8
    rsv := w.getLsbD 23, far := w.getLsbD 22, near := w.getLsbD 21, acq := w.getLsbD 20, rel := w.getLsbD 19
    scope := field w 16 3, mask := field w 0 16 }

/-- Format X (R34). -/
def readFmtX (w : Dword) : FmtX :=
  { c := readCtl w, d := field w 40 8, sa := field w 32 8, sb := field w 24 8, sc := field w 16 8
    fa := field w 12 4, fb := field w 8 4, str := field w 4 4, xb := field w 0 4 }

/-- Format P, the REP word (R45). -/
def readFmtP (w : Dword) : FmtP :=
  { hi := field w 48 6, n1 := field w 42 6, sd := field w 39 3, sa := field w 36 3, sb := field w 33 3
    sc := field w 30 3, lo := field w 0 30 }

/-- One bit of a word. -/
abbrev bit1 (b : Bool) : BitVec 1 := BitVec.ofBool b

/-- A field put at its place in a word: bit 0 of `x` becomes bit `lo`. -/
abbrev place {n : Nat} (x : BitVec n) (lo : Nat) : Dword := x.setWidth 64 <<< lo

/-- The upper 16 bits of every word but REP's: class, opcode and control fields (R26). -/
def writeCtl (cls op : Nat) (c : Ctl) : Dword :=
  place (BitVec.ofNat 3 cls) 61 ||| place (BitVec.ofNat 7 op) 54 ||| place (bit1 c.ch) 53 ||| place (bit1 c.nw) 52 |||
    place c.kp 49 ||| place (bit1 c.kn) 48

/-- Format A of classes 0 and 1 (R26, R30). -/
def writeFmtA (cls op : Nat) (f : FmtA) : Dword :=
  writeCtl cls op f.c ||| place f.d 40 ||| place f.sa 32 ||| place f.sb 24 ||| place f.sc 16 ||| place f.ty 12 |||
    place f.rm 10 ||| place (bit1 f.sat) 9 ||| place f.opb 0

/-- Format A of classes 2 to 7 (R26, R30). -/
def writeFmtW (cls op : Nat) (f : FmtW) : Dword :=
  writeCtl cls op f.c ||| place f.d 40 ||| place f.sa 32 ||| place f.sb 24 ||| place f.sc 16 ||| place f.m 0

/-- Format I (R29). -/
def writeFmtI (cls op : Nat) (f : FmtI) : Dword :=
  writeCtl cls op f.c ||| place f.d 40 ||| place f.sa 32 ||| place f.imm 0

/-- Format M (R32). -/
def writeFmtM (cls op : Nat) (f : FmtM) : Dword :=
  writeCtl cls op f.c ||| place f.d 40 ||| place f.sa 32 ||| place f.sb 24 ||| place f.sc 16 ||| place f.str 12 |||
    place f.spc 9 ||| place f.sz 6 ||| place f.sco 3 ||| place f.cp 0

/-- Format B (R29). -/
def writeFmtB (cls op : Nat) (f : FmtB) : Dword :=
  writeCtl cls op f.c ||| place f.d 40 ||| place f.sa 32 ||| place f.disp 0

/-- Format C (R33). -/
def writeFmtC (cls op : Nat) (f : FmtC) : Dword :=
  writeCtl cls op f.c ||| place f.d 40 ||| place f.sa 32 ||| place f.sb 24 ||| place (bit1 f.rsv) 23 |||
    place (bit1 f.far) 22 ||| place (bit1 f.near) 21 ||| place (bit1 f.acq) 20 ||| place (bit1 f.rel) 19 |||
    place f.scope 16 ||| place f.mask 0

/-- Format X (R34). -/
def writeFmtX (cls op : Nat) (f : FmtX) : Dword :=
  writeCtl cls op f.c ||| place f.d 40 ||| place f.sa 32 ||| place f.sb 24 ||| place f.sc 16 ||| place f.fa 12 |||
    place f.fb 8 ||| place f.str 4 ||| place f.xb 0

/-- Format P: class 7, opcode 0 (R45). -/
def writeFmtP (f : FmtP) : Dword :=
  place (7 : BitVec 3) 61 ||| place f.hi 48 ||| place f.n1 42 ||| place f.sd 39 ||| place f.sa 36 ||| place f.sb 33 |||
    place f.sc 30 ||| place f.lo 0

/-- Class 0 of the opcode map (R53). -/
def decodeScalar (op : Nat) (w : Dword) : Instr :=
  match op with
  | 0x00 => .sadd (readFmtA w)
  | 0x01 => .ssub (readFmtA w)
  | 0x02 => .saddc (readFmtA w)
  | 0x03 => .ssubb (readFmtA w)
  | 0x04 => .smul (readFmtA w)
  | 0x05 => .smulhs (readFmtA w)
  | 0x06 => .smulhz (readFmtA w)
  | 0x08 => .sand (readFmtA w)
  | 0x09 => .sor (readFmtA w)
  | 0x0A => .sxor (readFmtA w)
  | 0x0B => .sandn (readFmtA w)
  | 0x0C => .sshl (readFmtA w)
  | 0x0D => .sshrz (readFmtA w)
  | 0x0E => .sshrs (readFmtA w)
  | 0x0F => .srot (readFmtA w)
  | 0x10 => .sbfx (readFmtA w)
  | 0x11 => .sbfi (readFmtA w)
  | 0x12 => .sclz (readFmtA w)
  | 0x13 => .sctz (readFmtA w)
  | 0x14 => .spopc (readFmtA w)
  | 0x15 => .sbrev (readFmtA w)
  | 0x18 => .smins (readFmtA w)
  | 0x19 => .sminz (readFmtA w)
  | 0x1A => .smaxs (readFmtA w)
  | 0x1B => .smaxz (readFmtA w)
  | 0x1C => .scmp (readFmtA w)
  | 0x1D => .ssel (readFmtA w)
  | 0x20 => .smov (readFmtA w)
  | 0x21 => .smovi (readFmtI w)
  | 0x28 => .sadd64 (readFmtA w)
  | 0x29 => .ssub64 (readFmtA w)
  | 0x2A => .sshl64 (readFmtA w)
  | 0x2B => .sshr64 (readFmtA w)
  | 0x2C => .smul64 (readFmtA w)
  | _ => .unassignedOpcode w

/-- Class 1 of the opcode map (R53). -/
def decodeVector (op : Nat) (w : Dword) : Instr :=
  match op with
  | 0x00 => .vadd (readFmtA w)
  | 0x01 => .vsub (readFmtA w)
  | 0x02 => .vmul (readFmtA w)
  | 0x03 => .vmulhs (readFmtA w)
  | 0x04 => .vmulhz (readFmtA w)
  | 0x05 => .vmad (readFmtA w)
  | 0x08 => .vand (readFmtA w)
  | 0x09 => .vor (readFmtA w)
  | 0x0A => .vxor (readFmtA w)
  | 0x0B => .vandn (readFmtA w)
  | 0x0C => .vshl (readFmtA w)
  | 0x0D => .vshrz (readFmtA w)
  | 0x0E => .vshrs (readFmtA w)
  | 0x10 => .vmins (readFmtA w)
  | 0x11 => .vminz (readFmtA w)
  | 0x12 => .vmaxs (readFmtA w)
  | 0x13 => .vmaxz (readFmtA w)
  | 0x14 => .vabs (readFmtA w)
  | 0x15 => .vcmp (readFmtA w)
  | 0x16 => .vsel (readFmtA w)
  | 0x17 => .vmov (readFmtA w)
  | 0x18 => .vbfx (readFmtA w)
  | 0x19 => .vbfi (readFmtA w)
  | 0x1A => .vpopc (readFmtA w)
  | 0x1B => .vclz (readFmtA w)
  | 0x1C => .vadd64 (readFmtA w)
  | 0x1D => .vqdot (readFmtA w)
  | 0x20 => .vfadd (readFmtA w)
  | 0x21 => .vfsub (readFmtA w)
  | 0x22 => .vfmul (readFmtA w)
  | 0x23 => .vfma (readFmtA w)
  | 0x24 => .vfmin (readFmtA w)
  | 0x25 => .vfmax (readFmtA w)
  | 0x26 => .vfcmp (readFmtA w)
  | 0x27 => .vfclass (readFmtA w)
  | 0x28 => .vfcvt (readFmtA w)
  | 0x29 => .vcvti (readFmtA w)
  | 0x2A => .vfrnd (readFmtA w)
  | 0x2B => .vhfma (readFmtA w)
  | 0x2C => .vhdot (readFmtA w)
  | 0x30 => .vrcp (readFmtA w)
  | 0x31 => .vrsq (readFmtA w)
  | 0x32 => .vsqrt (readFmtA w)
  | 0x33 => .vexp2 (readFmtA w)
  | 0x34 => .vlog2 (readFmtA w)
  | 0x35 => .vsin (readFmtA w)
  | 0x36 => .vcos (readFmtA w)
  | 0x37 => .vtanh (readFmtA w)
  | 0x40 => .vshfl (readFmtA w)
  | 0x41 => .vshflx (readFmtA w)
  | 0x42 => .vshflup (readFmtA w)
  | 0x43 => .vshfldn (readFmtA w)
  | 0x44 => .vreadl (readFmtA w)
  | 0x45 => .vwritel (readFmtA w)
  | 0x46 => .vballot (readFmtA w)
  | 0x47 => .vany (readFmtA w)
  | 0x48 => .vall (readFmtA w)
  | 0x49 => .vredadd (readFmtA w)
  | 0x4A => .vredmin (readFmtA w)
  | 0x4B => .vredmax (readFmtA w)
  | 0x4C => .vscan (readFmtA w)
  | 0x50 => .kand (readFmtA w)
  | 0x51 => .kor (readFmtA w)
  | 0x52 => .kxor (readFmtA w)
  | 0x53 => .knot (readFmtA w)
  | 0x54 => if w.getLsbD 0 then .kmovFs (readFmtA w) else .kmov (readFmtA w)
  | _ => .unassignedOpcode w

/-- Class 2 of the opcode map (R53). -/
def decodeMemory (op : Nat) (w : Dword) : Instr :=
  match op with
  | 0x00 => .ld (readFmtM w)
  | 0x01 => .st (readFmtM w)
  | 0x02 => .vld (readFmtM w)
  | 0x03 => .vst (readFmtM w)
  | 0x04 => .vldb (readFmtM w)
  | 0x05 => .vstb (readFmtM w)
  | 0x08 => .atom (readFmtM w)
  | 0x09 => .red (readFmtM w)
  | 0x0C => .pref (readFmtM w)
  | 0x0D => .ipref (readFmtB w)
  | 0x10 => .fence (readFmtC w)
  | 0x11 => .fencew (readFmtC w)
  | _ => .unassignedOpcode w

/-- Class 3 of the opcode map (R53). -/
def decodeCounter (op : Nat) (w : Dword) : Instr :=
  match op with
  | 0x00 => .cadd (readFmtC w)
  | 0x01 => .caddx (readFmtC w)
  | 0x02 => .cwait (readFmtC w)
  | 0x03 => .cwait2 (readFmtC w)
  | 0x04 => .ctest (readFmtC w)
  | 0x05 => .cset (readFmtC w)
  | 0x10 => .segnew (readFmtW w)
  | 0x11 => .segatt (readFmtW w)
  | 0x12 => .segdet (readFmtW w)
  | 0x13 => .segrel (readFmtW w)
  | 0x14 => .segfree (readFmtW w)
  | 0x15 => .segevict (readFmtW w)
  | 0x16 => .segqry (readFmtW w)
  | 0x20 => .cjoin (readFmtW w)
  | 0x21 => .cleave (readFmtW w)
  | _ => .unassignedOpcode w

/-- Class 4 of the opcode map (R53). -/
def decodeMatrix (op : Nat) (w : Dword) : Instr :=
  match op with
  | 0x00 => .mzero (readFmtX w)
  | 0x01 => .mldb (readFmtX w)
  | 0x02 => .mma (readFmtX w)
  | 0x03 => .mmam (readFmtX w)
  | 0x04 => .mdist (readFmtX w)
  | 0x05 => .mtopk (readFmtX w)
  | 0x08 => .mstore (readFmtX w)
  | 0x09 => .mepi (readFmtW w)
  | 0x0A => .mspill (readFmtX w)
  | 0x0B => .mfill (readFmtX w)
  | 0x10 => .mgemm (readFmtW w)
  | 0x11 => .mstat (readFmtW w)
  | _ => .unassignedOpcode w

/-- Class 5 of the opcode map (R53). -/
def decodeCopy (op : Nat) (w : Dword) : Instr :=
  match op with
  | 0x00 => .copy (readFmtW w)
  | 0x01 => .copyh (readFmtW w)
  | 0x02 => .copyg (readFmtW w)
  | 0x03 => .copyw (readFmtW w)
  | 0x08 => .qfence (readFmtC w)
  | 0x09 => .qstat (readFmtW w)
  | _ => .unassignedOpcode w

/-- Class 6 of the opcode map (R53). -/
def decodeControl (op : Nat) (w : Dword) : Instr :=
  match op with
  | 0x00 => .br (readFmtB w)
  | 0x01 => .brc (readFmtB w)
  | 0x02 => .brdiv (readFmtB w)
  | 0x03 => .join (readFmtW w)
  | 0x04 => .call (readFmtB w)
  | 0x05 => .ret (readFmtW w)
  | 0x06 => .jmpi (readFmtW w)
  | 0x08 => .exit (readFmtW w)
  | 0x09 => .ppt (readFmtW w)
  | 0x0A => .waitc (readFmtI w)
  | 0x0B => .yield (readFmtW w)
  | 0x0C => .nop (readFmtW w)
  | 0x10 => .brk (readFmtI w)
  | 0x11 => .trap (readFmtI w)
  | _ => .unassignedOpcode w

/-- Class 7 of the opcode map (R53). -/
def decodeSystem (op : Nat) (w : Dword) : Instr :=
  match op with
  | 0x00 => .rep (readFmtP w)
  | 0x01 => .srd (readFmtW w)
  | 0x02 => .swr (readFmtW w)
  | 0x04 => .grow (readFmtW w)
  | 0x05 => .launch (readFmtW w)
  | 0x08 => .gsw (readFmtW w)
  | 0x09 => .gret (readFmtW w)
  | 0x10 => .halt (readFmtW w)
  | _ => .unassignedOpcode w

/-- The operation a 64-bit word is: the class selects the table, the opcode the entry (R26, R27, R53, R54). -/
def decodeWord (w : Dword) : Instr :=
  match (w.extractLsb' 61 3).toNat with
  | 0 => decodeScalar (w.extractLsb' 54 7).toNat w
  | 1 => decodeVector (w.extractLsb' 54 7).toNat w
  | 2 => decodeMemory (w.extractLsb' 54 7).toNat w
  | 3 => decodeCounter (w.extractLsb' 54 7).toNat w
  | 4 => decodeMatrix (w.extractLsb' 54 7).toNat w
  | 5 => decodeCopy (w.extractLsb' 54 7).toNat w
  | 6 => decodeControl (w.extractLsb' 54 7).toNat w
  | _ => decodeSystem (w.extractLsb' 54 7).toNat w

/-- The word of an operation, from the opcode map (R53); an event of the package has none. -/
def encode : Instr → Option Dword
  | .sadd f => some (writeFmtA 0 0x00 f)
  | .ssub f => some (writeFmtA 0 0x01 f)
  | .saddc f => some (writeFmtA 0 0x02 f)
  | .ssubb f => some (writeFmtA 0 0x03 f)
  | .smul f => some (writeFmtA 0 0x04 f)
  | .smulhs f => some (writeFmtA 0 0x05 f)
  | .smulhz f => some (writeFmtA 0 0x06 f)
  | .sand f => some (writeFmtA 0 0x08 f)
  | .sor f => some (writeFmtA 0 0x09 f)
  | .sxor f => some (writeFmtA 0 0x0A f)
  | .sandn f => some (writeFmtA 0 0x0B f)
  | .sshl f => some (writeFmtA 0 0x0C f)
  | .sshrz f => some (writeFmtA 0 0x0D f)
  | .sshrs f => some (writeFmtA 0 0x0E f)
  | .srot f => some (writeFmtA 0 0x0F f)
  | .sbfx f => some (writeFmtA 0 0x10 f)
  | .sbfi f => some (writeFmtA 0 0x11 f)
  | .sclz f => some (writeFmtA 0 0x12 f)
  | .sctz f => some (writeFmtA 0 0x13 f)
  | .spopc f => some (writeFmtA 0 0x14 f)
  | .sbrev f => some (writeFmtA 0 0x15 f)
  | .smins f => some (writeFmtA 0 0x18 f)
  | .sminz f => some (writeFmtA 0 0x19 f)
  | .smaxs f => some (writeFmtA 0 0x1A f)
  | .smaxz f => some (writeFmtA 0 0x1B f)
  | .scmp f => some (writeFmtA 0 0x1C f)
  | .ssel f => some (writeFmtA 0 0x1D f)
  | .smov f => some (writeFmtA 0 0x20 f)
  | .smovi f => some (writeFmtI 0 0x21 f)
  | .sadd64 f => some (writeFmtA 0 0x28 f)
  | .ssub64 f => some (writeFmtA 0 0x29 f)
  | .sshl64 f => some (writeFmtA 0 0x2A f)
  | .sshr64 f => some (writeFmtA 0 0x2B f)
  | .smul64 f => some (writeFmtA 0 0x2C f)
  | .vadd f => some (writeFmtA 1 0x00 f)
  | .vsub f => some (writeFmtA 1 0x01 f)
  | .vmul f => some (writeFmtA 1 0x02 f)
  | .vmulhs f => some (writeFmtA 1 0x03 f)
  | .vmulhz f => some (writeFmtA 1 0x04 f)
  | .vmad f => some (writeFmtA 1 0x05 f)
  | .vand f => some (writeFmtA 1 0x08 f)
  | .vor f => some (writeFmtA 1 0x09 f)
  | .vxor f => some (writeFmtA 1 0x0A f)
  | .vandn f => some (writeFmtA 1 0x0B f)
  | .vshl f => some (writeFmtA 1 0x0C f)
  | .vshrz f => some (writeFmtA 1 0x0D f)
  | .vshrs f => some (writeFmtA 1 0x0E f)
  | .vmins f => some (writeFmtA 1 0x10 f)
  | .vminz f => some (writeFmtA 1 0x11 f)
  | .vmaxs f => some (writeFmtA 1 0x12 f)
  | .vmaxz f => some (writeFmtA 1 0x13 f)
  | .vabs f => some (writeFmtA 1 0x14 f)
  | .vcmp f => some (writeFmtA 1 0x15 f)
  | .vsel f => some (writeFmtA 1 0x16 f)
  | .vmov f => some (writeFmtA 1 0x17 f)
  | .vbfx f => some (writeFmtA 1 0x18 f)
  | .vbfi f => some (writeFmtA 1 0x19 f)
  | .vpopc f => some (writeFmtA 1 0x1A f)
  | .vclz f => some (writeFmtA 1 0x1B f)
  | .vadd64 f => some (writeFmtA 1 0x1C f)
  | .vqdot f => some (writeFmtA 1 0x1D f)
  | .vfadd f => some (writeFmtA 1 0x20 f)
  | .vfsub f => some (writeFmtA 1 0x21 f)
  | .vfmul f => some (writeFmtA 1 0x22 f)
  | .vfma f => some (writeFmtA 1 0x23 f)
  | .vfmin f => some (writeFmtA 1 0x24 f)
  | .vfmax f => some (writeFmtA 1 0x25 f)
  | .vfcmp f => some (writeFmtA 1 0x26 f)
  | .vfclass f => some (writeFmtA 1 0x27 f)
  | .vfcvt f => some (writeFmtA 1 0x28 f)
  | .vcvti f => some (writeFmtA 1 0x29 f)
  | .vfrnd f => some (writeFmtA 1 0x2A f)
  | .vhfma f => some (writeFmtA 1 0x2B f)
  | .vhdot f => some (writeFmtA 1 0x2C f)
  | .vrcp f => some (writeFmtA 1 0x30 f)
  | .vrsq f => some (writeFmtA 1 0x31 f)
  | .vsqrt f => some (writeFmtA 1 0x32 f)
  | .vexp2 f => some (writeFmtA 1 0x33 f)
  | .vlog2 f => some (writeFmtA 1 0x34 f)
  | .vsin f => some (writeFmtA 1 0x35 f)
  | .vcos f => some (writeFmtA 1 0x36 f)
  | .vtanh f => some (writeFmtA 1 0x37 f)
  | .vshfl f => some (writeFmtA 1 0x40 f)
  | .vshflx f => some (writeFmtA 1 0x41 f)
  | .vshflup f => some (writeFmtA 1 0x42 f)
  | .vshfldn f => some (writeFmtA 1 0x43 f)
  | .vreadl f => some (writeFmtA 1 0x44 f)
  | .vwritel f => some (writeFmtA 1 0x45 f)
  | .vballot f => some (writeFmtA 1 0x46 f)
  | .vany f => some (writeFmtA 1 0x47 f)
  | .vall f => some (writeFmtA 1 0x48 f)
  | .vredadd f => some (writeFmtA 1 0x49 f)
  | .vredmin f => some (writeFmtA 1 0x4A f)
  | .vredmax f => some (writeFmtA 1 0x4B f)
  | .vscan f => some (writeFmtA 1 0x4C f)
  | .kand f => some (writeFmtA 1 0x50 f)
  | .kor f => some (writeFmtA 1 0x51 f)
  | .kxor f => some (writeFmtA 1 0x52 f)
  | .knot f => some (writeFmtA 1 0x53 f)
  | .kmov f => some (writeFmtA 1 0x54 f)
  | .kmovFs f => some (writeFmtA 1 0x54 f)
  | .ld f => some (writeFmtM 2 0x00 f)
  | .st f => some (writeFmtM 2 0x01 f)
  | .vld f => some (writeFmtM 2 0x02 f)
  | .vst f => some (writeFmtM 2 0x03 f)
  | .vldb f => some (writeFmtM 2 0x04 f)
  | .vstb f => some (writeFmtM 2 0x05 f)
  | .atom f => some (writeFmtM 2 0x08 f)
  | .red f => some (writeFmtM 2 0x09 f)
  | .pref f => some (writeFmtM 2 0x0C f)
  | .ipref f => some (writeFmtB 2 0x0D f)
  | .fence f => some (writeFmtC 2 0x10 f)
  | .fencew f => some (writeFmtC 2 0x11 f)
  | .cadd f => some (writeFmtC 3 0x00 f)
  | .caddx f => some (writeFmtC 3 0x01 f)
  | .cwait f => some (writeFmtC 3 0x02 f)
  | .cwait2 f => some (writeFmtC 3 0x03 f)
  | .ctest f => some (writeFmtC 3 0x04 f)
  | .cset f => some (writeFmtC 3 0x05 f)
  | .segnew f => some (writeFmtW 3 0x10 f)
  | .segatt f => some (writeFmtW 3 0x11 f)
  | .segdet f => some (writeFmtW 3 0x12 f)
  | .segrel f => some (writeFmtW 3 0x13 f)
  | .segfree f => some (writeFmtW 3 0x14 f)
  | .segevict f => some (writeFmtW 3 0x15 f)
  | .segqry f => some (writeFmtW 3 0x16 f)
  | .cjoin f => some (writeFmtW 3 0x20 f)
  | .cleave f => some (writeFmtW 3 0x21 f)
  | .mzero f => some (writeFmtX 4 0x00 f)
  | .mldb f => some (writeFmtX 4 0x01 f)
  | .mma f => some (writeFmtX 4 0x02 f)
  | .mmam f => some (writeFmtX 4 0x03 f)
  | .mdist f => some (writeFmtX 4 0x04 f)
  | .mtopk f => some (writeFmtX 4 0x05 f)
  | .mstore f => some (writeFmtX 4 0x08 f)
  | .mepi f => some (writeFmtW 4 0x09 f)
  | .mspill f => some (writeFmtX 4 0x0A f)
  | .mfill f => some (writeFmtX 4 0x0B f)
  | .mgemm f => some (writeFmtW 4 0x10 f)
  | .mstat f => some (writeFmtW 4 0x11 f)
  | .copy f => some (writeFmtW 5 0x00 f)
  | .copyh f => some (writeFmtW 5 0x01 f)
  | .copyg f => some (writeFmtW 5 0x02 f)
  | .copyw f => some (writeFmtW 5 0x03 f)
  | .qfence f => some (writeFmtC 5 0x08 f)
  | .qstat f => some (writeFmtW 5 0x09 f)
  | .br f => some (writeFmtB 6 0x00 f)
  | .brc f => some (writeFmtB 6 0x01 f)
  | .brdiv f => some (writeFmtB 6 0x02 f)
  | .join f => some (writeFmtW 6 0x03 f)
  | .call f => some (writeFmtB 6 0x04 f)
  | .ret f => some (writeFmtW 6 0x05 f)
  | .jmpi f => some (writeFmtW 6 0x06 f)
  | .exit f => some (writeFmtW 6 0x08 f)
  | .ppt f => some (writeFmtW 6 0x09 f)
  | .waitc f => some (writeFmtI 6 0x0A f)
  | .yield f => some (writeFmtW 6 0x0B f)
  | .nop f => some (writeFmtW 6 0x0C f)
  | .brk f => some (writeFmtI 6 0x10 f)
  | .trap f => some (writeFmtI 6 0x11 f)
  | .rep f => some (writeFmtP f)
  | .srd f => some (writeFmtW 7 0x01 f)
  | .swr f => some (writeFmtW 7 0x02 f)
  | .grow f => some (writeFmtW 7 0x04 f)
  | .launch f => some (writeFmtW 7 0x05 f)
  | .gsw f => some (writeFmtW 7 0x08 f)
  | .gret f => some (writeFmtW 7 0x09 f)
  | .halt f => some (writeFmtW 7 0x10 f)
  | .unassignedOpcode w => some w
  | .chainHoldLimit _ => none
  | .trackedResultWrite _ _ => none
  | .writePerform _ => none
  | .tlbFill _ _ _ => none
  | .instructionCacheFill _ _ _ => none
  | .guestDecode _ => none
  | .copyCommandStart _ _ _ => none
  | .copyTransfer _ _ _ => none
  | .copyCompletion _ _ _ => none
  | .combiningBufferTimeout _ _ => none
  | .predictorDecay _ => none
  | .parkedPollingReread _ => none
  | .waiterWake _ => none
  | .segmentRefillGranule _ _ _ => none
  | .segmentWritebackGranule _ _ _ => none
  | .windowEnable _ _ => none
  | .windowDisable _ _ => none
  | .windowFlush _ _ => none
  | .windowFlushDone _ => none
  | .carveoutChange _ _ => none
  | .carveoutShrinkProceed _ => none
  | .carveoutChangeDone _ => none
  | .chrsvWrite _ _ => none
  | .shootdown _ => none
  | .counterAddWindowWrite _ _ _ => none
  | .hostHdmRead _ _ _ _ => none
  | .hostHdmWrite _ _ _ _ => none
  | .hostSnoopAnswer _ => none
  | .hostSnoop _ => none
  | .hostLost _ => none
  | .peerReadRequest _ _ _ _ _ => none
  | .peerWrite _ _ _ _ => none
  | .peerCounterAdd _ _ _ _ _ => none
  | .remoteResponse _ _ _ => none
  | .flitReplay _ => none
  | .managementMessage _ => none
  | .timingMessage _ => none
  | .peerLost _ => none
  | .linkDown _ => none
  | .linkRetry _ _ => none
  | .queueEnable _ => none
  | .qverUpdate _ _ => none
  | .reasonClear _ => none
  | .frontEndTake _ => none
  | .launchReady _ => none
  | .gangStagePlace _ _ _ => none
  | .launchComplete _ => none
  | .preemptionRequest _ => none
  | .forcedStop _ => none
  | .teamSave _ => none
  | .teamRestore _ _ => none
  | .yieldSwap _ => none
  | .teamExit _ => none
  | .faultRecordWrite _ => none
  | .disposition _ => none
  | .mchk _ _ => none
  | .eqsetWrite _ => none
  | .snapgo _ => none
  | .islandControl _ _ => none
  | .powerLimitThrottle _ => none
  | .keyDerive _ => none
  | .keyClear _ => none
  | .egressRelease _ => none
  | .almbaseWrite _ => none
  | .almack _ => none
  | .almanacPortSelect _ => none
  | .leaderTakeover _ => none
  | .servicePairMismatch _ => none
  | .packageReset _ => none
  | .attestationRequest _ => none
  | .sealImport _ _ _ => none
  | .registerWrite _ _ _ _ => none
  | .mgemmSequencerStep _ => none
  | .matrixAcceptance _ => none
  | .cxlCacheResponse _ _ => none
  | .servicePairAccess _ _ => none
  | .shootdownDone => none
  | .feed => none
  | .startTimeReached => none
  | .kernelReplace => none
  | .fehbWrite => none
  | .frontEndWatchdog => none
  | .snapshotLatch => none
  | .leaderHeartbeat => none

/-- Why bytes are no operation: R26 gives every operation eight. -/
inductive DecodeError
  | truncated (given : Nat)
  deriving DecidableEq, Repr

/-- The word eight bytes hold, least significant byte first (R3). -/
def wordOfBytes (bs : List Byte) : Dword :=
  bs.foldr (fun b acc => (acc <<< 8) ||| b.setWidth 64) 0

/-- The eight bytes of a word in memory order (R3). -/
def bytesOfWord (w : Dword) : List Byte := (List.range 8).map fun i => w.extractLsb' (8 * i) 8

/-- Decode the operation at the front of a run of bytes; answers it with the bytes after it. -/
def decodeBytes (bs : List Byte) : Except DecodeError (Instr × List Byte) :=
  if bs.length < 8 then .error (.truncated bs.length)
  else .ok (decodeWord (wordOfBytes (bs.take 8)), bs.drop 8)

/-- The operation read from an instruction whose bits are `w`, numbered as the opcode table numbers them: a native
operation is one 64-bit word (R26), so the bits above `nbits` are zero; no operation is longer. -/
def decodeTableWord (nbits w : Nat) : Option Instr :=
  if nbits ≤ 64 then
    match decodeBytes (bytesOfWord (BitVec.ofNat 64 (w % 2 ^ nbits))) with
    | .ok (i, _) => some i
    | .error _ => none
  else none

end Sys2Proof
end

