-- ==== Sys2Proof/Machine/Guest.lean ====
section
/-!
DEFINITION. Fetching code: the instruction cache and code tags (R382 to R386), IPREF (R201), and guest personalities:
loading and checking an image (R357 to R365), decoding a guest instruction (R367), the emulation trap (R375).
-/

namespace Sys2Proof.Machine

/-! ### Code lines (R382 to R386) -/

/-- A fault of a fetch: the class and what the class calls it, and for the load of an image the number of its line. -/
structure FetchFault where
  cls : FaultClass
  f : MemFault
  line : Nat
  deriving DecidableEq, Repr, Inhabited

/-- A code-integrity fault (R385). -/
def FetchFault.code (cause : Nat) : FetchFault := { cls := .code, f := .plain cause, line := 0 }

/-- A memory fault of a fetch. -/
def FetchFault.mem (f : MemFault) : FetchFault := { cls := .mem, f := f, line := 0 }

/-- What reading a code line comes to. -/
inductive LineRes
  | ok (bits : BitVec 1024)
  | wait (ns : List Need)
  | bad (e : FetchFault)
  deriving DecidableEq, Repr, Inhabited

/-- The start of the code line of an address. -/
def codeLine (a : Dword) : Dword := a &&& ~~~127

/-- The address of a line's code tag (R382). -/
def tagAddr (c : Context) (a : Dword) : Dword := BitVec.ofNat 64 (c.tbase * 2 ^ 52 + 8 * (a.toNat / 128 % 2 ^ 49))

/-- Read the tag of a line, whose near copy returns first (R197): not-present is the fetch's own fault, any other a TAGREAD (R383,
R385, R386). -/
def readTag (s : State) (core : Nat) (c : Context) (a : Dword) : State × Except FetchFault (List Need × List Byte) :=
  match globTarget s core c.num (tagAddr c a) 8 .load with
  | (s1, .error f) => (s1, .error (if f = .notPresent then .mem f else .code 2))
  | (s1, .ok (.remote _ _)) => (s1, .error (.code 2))
  | (s1, .ok t) =>
    if spanPoisoned s1 8 t then (s1, .error (.code 2))
    else
      let s2 := s1.recall none (spanLines t 8)
      (if spanNeeds s1 false 8 t = [] then s2 else s1, .ok (spanNeeds s1 false 8 t, readTarget s2 (.of (.host 0) 0) t 8))

/-- Read a code line and check its tag: `k` is a fetch, or the load of a personality image (R357, R384). -/
def codeRead (s : State) (core ctx : Nat) (a : Dword) (k : Access) : State × LineRes :=
  match s.ctx? ctx with
  | none => (s, .bad (.code 3))
  | some c =>
    let ws := xlateNeeds s core ctx a false ++ xlateNeeds s core ctx (tagAddr c a) false
    if !canonical a then (s, .bad (.mem .nonCanonical))
    else if a.getLsbD 56 ∨ c.tbase = 0 then (s, .bad (.code 3))
    else if ws ≠ [] then (s, .wait ws)
    else match globTarget s core ctx a 128 k with
    | (s1, .error f) => (s1, .bad (.mem f))
    | (s1, .ok t) =>
      let ns := spanNeeds s1 false 128 t
      if ns ≠ [] then (s1, .wait ns)
      else if spanPoisoned s1 128 t then (s1, .bad (.mem (.plain 11)))
      else match readTag s1 core c a with
      | (s2, .error e) => (s2, .bad e)
      | (s2, .ok (tn, tag)) =>
        if tn ≠ [] then (s2, .wait tn)
        else
          let s2 := s2.recall none (spanLines t 128)
          let data := readTarget s2 walkerSeat t 128
          if codeTag c.ckey a.toNat data = tag then (s2, .ok (BitVec.ofNat 1024 (ofBytes data))) else (s2, .bad (.code 1))

/-- The line a core's instruction cache holds. -/
def iline (s : State) (core ctx : Nat) (a : Dword) : Option (BitVec 1024) :=
  (s.icache.find? fun l => l.core = core ∧ l.ctx = ctx ∧ l.va = (codeLine a).toNat).map ILine.bits

/-- Install a line in a core's instruction cache: of its 512 lines the one installed longest ago makes room (R14, log
entry 42). -/
def State.installLine (s : State) (core ctx : Nat) (a : Dword) (bits : BitVec 1024) : State :=
  let old := s.icache.filter fun l => decide ¬(l.core = core ∧ l.ctx = ctx ∧ l.va = (codeLine a).toNat)
  { s with icache := { core := core, ctx := ctx, va := (codeLine a).toNat, bits := bits } ::
      (old.filter fun l => decide (l.core = core)).take 511 ++ old.filter fun l => decide (l.core ≠ core) }

/-- The bits of a line from an address on: `n` bits, least significant first. -/
def lineBits (bits : BitVec 1024) (a : Dword) (n : Nat) : BitVec n := bits.extractLsb' (8 * (a.toNat % 128)) n

/-- The operation word at an address, from the core's instruction cache. -/
def cachedWord (s : State) (core ctx : Nat) (a : Dword) : Option Dword :=
  (iline s core ctx a).map fun b => lineBits b a 64

/-- The 4-byte guest word at an address, from the core's instruction cache. -/
def cachedHalf (s : State) (core ctx : Nat) (a : Dword) : Option Word :=
  (iline s core ctx a).map fun b => lineBits b a 32

/-- The record of a fetch fault (R397, R398, R403): the fetch again, or nothing. -/
def fetchRec (s : State) (v : View) (e : FetchFault) (addr : Dword) : FRec :=
  let info := if e.cls = .mem then v.p.fmask.extractLsb' 0 64 else 0
  let info2 := if e.cls = .mem then v.p.fmask.extractLsb' 64 32 else 0
  { FRec.ofSlot s v e.cls e.f.cause with sub := e.f.sub, rst := e.f.rst, addr := addr, info := info, info2 := info2 }

/-- Does the slot's next fetch need the line: that of its PC, or of the operation after a REP? The upper half of a guest word is
fetched by the decode that reaches it, and only then can its fault stop the slot (R367). -/
def wantsLine (s : State) (v : View) (a : Dword) : Bool :=
  v.p.exp.isNone && v.p.rep.isNone
    && (decide (codeLine v.p.pc = a)
      || (decide (v.p.pers = 0) && decide (codeLine (v.p.pc + 8) = a)
        && (match cachedWord s v.t.core v.t.ctx v.p.pc with
          | some w => decide (wordCls w = 7) && decide (wordOp w = 0)
          | none => false)))

/-- The address a slot fetches in a line: its PC, or the operation after it. -/
def wantedAddr (v : View) (a : Dword) : Dword := if codeLine v.p.pc = a then v.p.pc else v.p.pc + 8

/-- INSTRUCTION_CACHE_FILL: a line and its tag are read and the line is installed if its tag matches; the slot in turn,
if its fetch needed the line, stops on a fault (R384, R386). A line that is held stays as it is (R368, R384). -/
def execInstructionCacheFill (core ctx va : Nat) (s : State) : Host.Outcome State Fault Refusal :=
  let a := codeLine (BitVec.ofNat 64 va)
  if (iline s core ctx a).isSome then .next s
  else
  let slot : Option View := match s.view with
    | some v => if v.t.core = core ∧ v.t.ctx = ctx ∧ wantsLine s v a then some v else none
    | none => none
  match codeRead s core ctx a .fetch with
  | (s1, .ok bits) => .next (s1.installLine core ctx a bits)
  | (s1, .wait ns) => .next (match slot with
    | some v => (s1.request ns).putSlot v { v.p with stalled := true }
    | none => s1.request ns)
  | (s1, .bad e) => .next (match slot with
    | some v => s1.stopSlot v (fetchRec s1 v e (wantedAddr v a))
    | none => s1)

/-- Prefetch a code line: it is installed if it can be read and passes its checks, asked for if a host cache has to give
something up first, and forgotten if it fails (R201). -/
def State.prefetchLine (s : State) (core ctx : Nat) (a : Dword) : State :=
  if (iline s core ctx a).isSome then s
  else match codeRead s core ctx a .fetch with
  | (s1, .ok bits) => s1.installLine core ctx a bits
  | (s1, .wait ns) => { s1.request ns with prefs := s1.prefs ++ [(core, ctx, a.toNat, true)] }
  | (s1, .bad _) => s1

/-- What prefetches waited for has come: they are tried again (R200, R201). -/
def State.retryPrefetches (s : State) : State :=
  s.prefs.foldl (fun s x =>
    let a := BitVec.ofNat 64 x.2.2.1
    if x.2.2.2 then s.prefetchLine x.1 x.2.1 a else s.prefetchData x.1 x.2.1 a) { s with prefs := [] }

/-- IPREF (R201): four code lines are asked for; one that fails its checks is not installed. -/
def execIpref (f : FmtB) (s : State) : Host.Outcome State Fault Refusal :=
  issue s
    (fun v => noNwCauses f.c ++ guardCauses v f.c ++ (if f.d = 0 ∧ f.sa = 0 then [] else [0x02])) (fun _ => false)
    fun v =>
      let a := codeLine (v.p.branchTarget f.disp)
      let s1 := if v.active f.c = 0 then s else
        (List.range 4).foldl (fun s i => s.prefetchLine v.t.core v.t.ctx (a + BitVec.ofNat 64 (128 * i))) s
      s1.putSlot v (v.p.afterOther f.c.ch)

/-! ### The personality image (R357 to R362) -/

/-- The image as read: bytes by offset from IMG. -/
abbrev Image := Cells 8

/-- `n` bits from bit `lo` of the little-endian number at an offset of an image. -/
def imgBits (m : Image) (off lo n : Nat) : Nat := cellBytes m off ((lo + n + 7) / 8) / 2 ^ lo % 2 ^ n

/-- NPL (R358). -/
def imgNpl (m : Image) : Nat := imgBits m 4 23 9

/-- NPAT (R358). -/
def imgNpat (m : Image) : Nat := imgBits m 4 16 7

/-- NTPL (R358). -/
def imgNtpl (m : Image) : Nat := imgBits m 4 5 11

/-- HNDL (R358). -/
def imgHndl (m : Image) : Dword := BitVec.ofNat 64 (imgBits m 8 0 64)

/-- Register window `n`: KIND, COUNT, BASE (R359). -/
def imgWin (m : Image) (n : Nat) : Nat × Nat × Nat :=
  (imgBits m (0x28 + 2 * n) 14 2, imgBits m (0x28 + 2 * n) 7 7, imgBits m (0x28 + 2 * n) 0 6)

/-- A register window breaks no rule (R359). -/
def winOk (m : Image) (n : Nat) : Bool :=
  let (kind, count, base) := imgWin m n
  let top := match kind with
    | 0 => 64 | 1 => 48 | _ => 8
  decide (imgBits m (0x28 + 2 * n) 6 1 = 0) && decide (kind ≠ 3) && decide (count ≤ 64)
    && (decide (count = 0) || decide (base + count ≤ top))

/-- The header passes its checks (R358, R365). -/
def headerOk (m : Image) : Bool :=
  decide (imgBits m 0 0 32 = 0x50455253)
    && decide (1 ≤ imgNpl m ∧ imgNpl m ≤ 256) && decide (1 ≤ imgNpat m ∧ imgNpat m ≤ 64) && decide (imgNtpl m ≤ 1024)
    && decide (imgBits m 4 0 5 = 0) && decide (imgBits m 8 0 3 = 0) && decide (imgBits m 0x20 2 30 = 0)
    && decide (imgBits m 0x24 0 32 = 0) && decide (cellBytes m 0x30 0x50 = 0) && (List.range 4).all (winOk m)
    && (decide (imgBits m 0x20 1 1 = 1) || decide (imgBits m 0x14 0 32 = 0 ∧ imgBits m 0x1C 0 32 = 0))

/-- A match plane (R360). -/
structure Plane where
  mask : Nat
  val : Nat
  v : Bool
  len : Bool
  tp : Bool
  pat : Nat
  tpl : Nat
  rsvd : Bool
  deriving DecidableEq, Repr, Inhabited

/-- Plane `n` of an image. -/
def imgPlane (m : Image) (n : Nat) : Plane :=
  let o := 0x80 + 32 * n
  { mask := imgBits m o 0 64, val := imgBits m (o + 8) 0 64, v := decide (imgBits m (o + 16) 31 1 = 1)
    len := decide (imgBits m (o + 16) 30 1 = 1), tp := decide (imgBits m (o + 16) 29 1 = 1)
    pat := imgBits m (o + 16) 22 6, tpl := imgBits m (o + 16) 12 10
    rsvd := decide (imgBits m (o + 16) 28 1 ≠ 0 ∨ imgBits m (o + 16) 0 12 ≠ 0 ∨ cellBytes m (o + 20) 12 ≠ 0) }

/-- A plane passes its checks (R360, R365). -/
def planeOk (m : Image) (n : Nat) : Bool :=
  let p := imgPlane m n
  !p.rsvd && decide (p.val &&& p.mask = p.val) && (p.len || decide (p.mask < 2 ^ 32)) && decide (p.pat < imgNpat m)
    && (!p.tp || decide (p.tpl < imgNtpl m))

/-- A field descriptor (R361): its word and used ranges, in order. -/
structure FieldDesc where
  wen : Bool
  win : Nat
  shift : Nat
  sx : Bool
  ranges : List (Nat × Nat)
  deriving DecidableEq, Repr, Inhabited

/-- The four ranges of a descriptor word, LO and LEN. -/
def rangesOf (x : Nat) : List (Nat × Nat) :=
  [36, 24, 12, 0].map fun s => (x / 2 ^ (s + 6) % 64, x / 2 ^ s % 64)

/-- Field `f` of pattern `n`. -/
def imgField (m : Image) (n f : Nat) : FieldDesc :=
  let x := imgBits m (0x2080 + 64 * n + 8 * f) 0 64
  { wen := decide (x / 2 ^ 57 % 2 = 1), win := x / 2 ^ 55 % 4, shift := x / 2 ^ 52 % 8, sx := decide (x / 2 ^ 51 % 2 = 1)
    ranges := (rangesOf x).takeWhile fun r => decide (r.2 ≠ 0) }

/-- The width of a field. -/
def FieldDesc.width (d : FieldDesc) : Nat := (d.ranges.map Prod.snd).sum

/-- Some plane in use with LEN = 0 names the pattern. -/
def pattern32 (m : Image) (n : Nat) : Bool :=
  (List.range (imgNpl m)).any fun i =>
    let p := imgPlane m i
    p.v && !p.len && decide (p.pat = n)

/-- A field descriptor passes its checks (R361, R365). -/
def fieldOk (m : Image) (n f : Nat) : Bool :=
  let x := imgBits m (0x2080 + 64 * n + 8 * f) 0 64
  let d := imgField m n f
  let limit := if pattern32 m n then 32 else 64
  let all := rangesOf x
  decide (x / 2 ^ 58 = 0) && decide (x / 2 ^ 48 % 8 = 0) && all.all (fun r => decide (r.2 ≤ 32))
    && (all.drop d.ranges.length).all (fun r => decide (r.2 = 0)) && (decide (d.ranges ≠ []) || decide (x = 0))
    && decide (d.width ≤ 32) && d.ranges.all (fun r => decide (r.1 + r.2 ≤ limit))
    && (!d.wen || (!d.sx && decide (d.shift = 0) && decide ((imgWin m d.win).2.1 ≠ 0)))

/-- The planes and patterns pass their checks. -/
def tablesOk (m : Image) : Bool :=
  (List.range (imgNpl m)).all (planeOk m)
    && (List.range (imgNpat m)).all fun n => (List.range 8).all (fieldOk m n)

/-! ### Loading an image (R364, R365) -/

/-- What loading comes to. -/
inductive ImgRes
  | ok (m : Image)
  | wait (ns : List Need)
  | bad (e : FetchFault)
  deriving DecidableEq, Repr, Inhabited

/-- Read lines of an image, by number from IMG. -/
def imageLines (core ctx : Nat) (img : Dword) : List Nat → State → Image → State × ImgRes
  | [], s, m => (s, .ok m)
  | i :: r, s, m =>
    match codeRead s core ctx (img + BitVec.ofNat 64 (128 * i)) .load with
    | (s1, .ok bits) => imageLines core ctx img r s1 (cellSetAll m (addrBytes (128 * i) (bytesOf bits.toNat 128)))
    | (s1, .wait ns) => (s1, .wait ns)
    | (s1, .bad e) => (s1, .bad { e with line := i })

/-- The lines that hold `n` bytes from an offset. -/
def lineNumbers (off n : Nat) : List Nat := if n = 0 then [] else
  (List.range ((off + n - 1) / 128 - off / 128 + 1)).map fun i => off / 128 + i

/-- Load and check header, planes and patterns (R365). -/
def loadImage (core ctx : Nat) (img : Dword) (s : State) : State × ImgRes :=
  match imageLines core ctx img [0] s [] with
  | (s1, .ok h) =>
    if !headerOk h then (s1, .bad { cls := .pers, f := .plain 2, line := 0 })
    else
      let rest := lineNumbers 0x80 (32 * imgNpl h) ++ lineNumbers 0x2080 (64 * imgNpat h)
      (match imageLines core ctx img rest s1 h with
      | (s2, .ok m) => if tablesOk m then (s2, .ok m) else (s2, .bad { cls := .pers, f := .plain 2, line := 0 })
      | r => r)
  | r => r

/-- Put an image, or the failure to load it, into a decoder slot of the cluster: the least recently used makes room
(R364). -/
def State.putDec (s : State) (d : DecSlot) : State :=
  let mine := s.decs.filter fun x => x.cluster = d.cluster
  let old := mine.foldl (fun (a : Option DecSlot) x => match a with
    | none => some x
    | some y => if x.used < y.used then some x else some y) none
  let keep := if mine.length < 4 then s.decs else match old with
    | none => s.decs
    | some y => s.decs.erase y
  { s with decs := keep ++ [d] }

/-- Find the image of a personality entry in the cluster's decoder slots, or load it (R364). A load that met a fault leaves
the slot bad: every decode that needs the image raises that fault until GEN changes (R365). -/
def imageFor (s : State) (core ctx pers : Nat) (img : Nat) (gen : Nat) : State × ImgRes :=
  let is (d : DecSlot) : Bool := decide (d.cluster = clusterOf core ∧ d.ctx = ctx ∧ d.pers = pers ∧ d.gen = gen)
  match s.decs.find? is with
  | some d =>
    ({ s with decs := s.decs.map fun x => if is x then { x with used := s.tick } else x },
      match d.bad with
      | none => .ok d.image
      | some (cls, cause, sub, rst, line) => .bad { cls := cls, f := { cause := cause, sub := sub, rst := rst }, line := line })
  | none =>
    let d (m : Image) (bad : Option (FaultClass × Nat × Nat × Bool × Nat)) : DecSlot :=
      { cluster := clusterOf core, ctx := ctx, pers := pers, gen := gen, image := m, bad := bad, used := s.tick }
    match loadImage core ctx (BitVec.ofNat 64 img) s with
    | (s1, .ok m) => (s1.putDec (d m none), .ok m)
    | (s1, .wait ns) => (s1, .wait ns)
    | (s1, .bad e) => (s1.putDec (d [] (some (e.cls, e.f.cause, e.f.sub, e.f.rst, e.line))), .bad e)

/-! ### Templates (R362, R363) -/

/-- A template: its words and their substitution controls. -/
structure Template where
  words : List (Dword × Nat)
  deriving DecidableEq, Repr, Inhabited

/-- A byte range of a template line as a number. -/
def tplBits (b : BitVec 1024) (lo n : Nat) : Nat := (b.extractLsb' lo n).toNat

/-- Where a template word may stand (R363): `last` says it is the last one. -/
def placeOk (w : Dword) (last : Bool) : Bool :=
  match wordCls w, wordOp w with
  | 2, _ => true
  | 3, 2 => last
  | 3, 3 => last
  | 4, 0x10 => last
  | 6, 0x0A => true
  | 6, 0x0B => true
  | 6, 0x0C => true
  | 6, _ => if wordAssigned w then last else true
  | 7, 0x00 => !last
  | 7, 0x01 => true
  | 7, 0x02 => false
  | 7, 0x04 => last
  | 7, 0x05 => last
  | 7, 0x08 => last
  | 7, 0x09 => false
  | 7, 0x10 => false
  | _, _ => true

/-- The substitution code of a control word for D (0), SA (1), SB (2), SC (3), the immediate (4). -/
def subCode (c i : Nat) : Nat := c / 16 ^ i % 16

/-- The control of a word passes its checks. -/
def controlOk (c : Nat) : Bool :=
  decide (c < 2 ^ 20) && (List.range 5).all (fun i => decide (subCode c i ≤ 8))
    && (decide (subCode c 4 = 0) || (decide (subCode c 2 = 0) && decide (subCode c 3 = 0)))

/-- Read a template line's contents, or none where a check fails (R362, R363, R365). -/
def templateOf (b : BitVec 1024) : Option Template :=
  let cnt := tplBits b (8 * 0x60) 3
  let word (i : Nat) : Dword × Nat := (BitVec.ofNat 64 (tplBits b (64 * i) 64), tplBits b (8 * 0x40 + 32 * i) 32)
  let used := (List.range (cnt + 1)).all fun i => controlOk (word i).2 && placeOk (word i).1 (i = cnt)
  let beyond := (List.range 8).all fun i => decide (i ≤ cnt) || decide (word i = (0, 0))
  if tplBits b (8 * 0x60 + 3) 29 = 0 ∧ tplBits b (8 * 0x64) 224 = 0 ∧ used ∧ beyond then
    some { words := (List.range (cnt + 1)).map word }
  else none

/-! ### Decoding (R367) -/

/-- The value of a field of a guest word, as the pattern extracts it. -/
def extractField (d : FieldDesc) (x : Nat) : Int :=
  let v := d.ranges.foldl (fun v r => v * 2 ^ r.2 + x / 2 ^ r.1 % 2 ^ r.2) 0
  let y : Int := if d.sx ∧ 2 ^ (d.width - 1) ≤ v ∧ d.width ≠ 0 then (v : Int) - 2 ^ d.width else v
  let z := BitVec.ofInt 32 (y * 2 ^ d.shift)
  if d.sx then z.toInt else z.toNat

/-- Substitute a field into a selector; none where it lies outside its window or immediate range. -/
def substSel (m : Image) (ds : List FieldDesc) (fld : List Int) (code : Nat) (sel : Nat) : Option Nat :=
  if code = 0 then some sel
  else
    let v := (fld[code - 1]?).getD 0
    let d := (ds[code - 1]?).getD default
    if d.wen then
      let (_, count, base) := imgWin m d.win
      if v < count then some (sel / 64 % 2 * 64 + base + v.toNat) else none
    else if -32 ≤ v ∧ v ≤ 31 then some (0xC0 + (v % 64).toNat)
    else none

/-- Replace `n` bits from bit `lo` of a word. -/
def setBits (w : Dword) (lo n x : Nat) : Dword :=
  (w &&& ~~~(BitVec.ofNat 64 (2 ^ n - 1) <<< lo)) ||| (BitVec.ofNat 64 (x % 2 ^ n) <<< lo)

/-- Substitute the fields into one template word. -/
def substWord (m : Image) (ds : List FieldDesc) (fld : List Int) (w : Dword × Nat) : Option Dword :=
  let one (acc : Option Dword) (i : Nat) : Option Dword :=
    match acc with
    | none => none
    | some x =>
      let lo := 40 - 8 * i
      (substSel m ds fld (subCode w.2 i) (x.toNat / 2 ^ lo % 256)).map fun sel => setBits x lo 8 sel
  let y := (List.range 4).foldl one (some w.1)
  match subCode w.2 4 with
  | 0 => y
  | c + 1 => y.map fun x => setBits x 0 32 (BitVec.ofInt 32 ((fld[c]?).getD 0)).toNat

/-- Substitute into every word; the last one's CH is cleared, since it carries the mark (R369). -/
def substAll (m : Image) (ds : List FieldDesc) (fld : List Int) (t : Template) : Option (List Dword) :=
  let ws := t.words.map (substWord m ds fld)
  if ws.any Option.isNone then none
  else
    let l := ws.filterMap id
    some (l.dropLast ++ (l.getLast?.map fun w => w &&& 0xFFDFFFFFFFFFFFFF).toList)

/-- What the search of R367 finds for a guest word. -/
inductive Found
  /-- the upper half of the word is needed -/
  | needHi
  | escape (len : Nat)
  | plane (n : Nat)
  | noPlane
  deriving DecidableEq, Repr, Inhabited

/-- Search the planes from index `n`, `k` of them (R367). -/
def searchPlanes (m : Image) (lo : Nat) (hi : Option Nat) : Nat → Nat → Found
  | 0, _ => .noPlane
  | k + 1, n =>
    let p := imgPlane m n
    if !p.v then searchPlanes m lo hi k (n + 1)
    else if !p.len then (if lo &&& p.mask = p.val then .plane n else searchPlanes m lo hi k (n + 1))
    else match hi with
    | none => .needHi
    | some h => if (lo + 2 ^ 32 * h) &&& p.mask = p.val then .plane n else searchPlanes m lo hi k (n + 1)

/-- The search of R367: the escape first, then the planes. -/
def searchGuest (m : Image) (lo : Nat) (hi : Option Nat) : Found :=
  let esce := imgBits m 0x20 0 1 = 1
  let escl := imgBits m 0x20 1 1 = 1
  let escm := imgBits m 0x10 0 64
  let escv := imgBits m 0x18 0 64
  if esce ∧ ¬escl ∧ lo &&& (escm % 2 ^ 32) = escv % 2 ^ 32 then .escape 4
  else if esce ∧ escl then
    match hi with
    | none => .needHi
    | some h => if (lo + 2 ^ 32 * h) &&& escm = escv then .escape 8 else searchPlanes m lo hi (imgNpl m) 0
  else searchPlanes m lo hi (imgNpl m) 0

/-- The hand-over word (R376). -/
def handOver (pers plane tpl why : Nat) (len : Bool) : Nat :=
  tpl * 2 ^ 21 + plane * 2 ^ 13 + why * 2 ^ 5 + (if len then 16 else 0) + pers

/-- The record of a personality fault (R379, R398). -/
def persRec (s : State) (v : View) (cause : Nat) (hand : Nat) (skip : Option Nat) : FRec :=
  { FRec.ofSlot s v .pers cause with
    rst := decide (cause = 1), addr := v.p.pc, info := BitVec.ofNat 64 hand, skipLen := skip }

/-- The emulation trap (R375): the hand-over state, then the handler in personality 0 as ordinary code. -/
def emulate (s : State) (v : View) (m : Image) (why plane tpl : Nat) (len : Bool) (word : Nat) (fld : List Int) : State :=
  let hand := handOver v.p.pers plane tpl why len
  if imgHndl m = 0 then s.stopSlot v (persRec s v 4 hand (some (if len then 8 else 4)))
  else if v.p.pend ≠ [] then s.putSlot v { v.p with stalled := true }
  else
    let regs : List (Nat × Word) :=
      [(48, BitVec.ofNat 32 word), (49, if len then BitVec.ofNat 32 (word / 2 ^ 32) else 0),
        (50, v.p.pc.extractLsb' 0 32), (51, v.p.pc.extractLsb' 32 32), (63, BitVec.ofNat 32 hand)]
        ++ (List.range 8).map fun i => (52 + i, BitVec.ofInt 32 ((fld[i]?).getD 0))
    s.putSlot v { v.p.endChain with bank := cellSetAll v.p.bank regs, pers := 0, pc := imgHndl m, svcOk := false }

/-- The template of a plane, read from the image: it is not held (R364). -/
def templateLine (s : State) (core ctx : Nat) (img : Nat) (tpl : Nat) : State × LineRes :=
  codeRead s core ctx (BitVec.ofNat 64 (img + 0x3080 + 128 * tpl)) .load

/-- The entry set a decode of the slot's guest instruction would use (R380). -/
def decKey (s : State) (v : View) (words : List Dword) (len : Nat) : DecOps :=
  let gen := match (s.ctx? v.t.ctx).bind fun c => c.pers[v.p.pers - 1]? with
    | some (_, _, g) => g
    | none => 0
  { cluster := clusterOf v.t.core, ctx := v.t.ctx, pers := v.p.pers, gen := gen, va := v.p.pc.toNat, words := words, len := len }

/-- The entry holds the instruction that another is tagged for. -/
def DecOps.same (x y : DecOps) : Bool :=
  decide (x.cluster = y.cluster ∧ x.ctx = y.ctx ∧ x.pers = y.pers ∧ x.gen = y.gen ∧ x.va = y.va)

/-- Put an entry set into its cluster's decoded-operation cache, the most recently used: of 32,768 operation entries the
sets used longest ago make room (R380). -/
def State.putOps (s : State) (x : DecOps) : State :=
  let fit := s.decOps.foldl (fun (a : Nat × List DecOps) y =>
    if y.same x then a
    else if y.cluster ≠ x.cluster then (a.1, a.2 ++ [y])
    else if a.1 + y.words.length ≤ 32768 then (a.1 + y.words.length, a.2 ++ [y])
    else (32769, a.2)) (x.words.length, [])
  { s with decOps := x :: fit.2 }

/-- The slot begins the expansion of its guest instruction (R369, R370). -/
def Slot.expand (p : Slot) (x : DecOps) : Slot :=
  { p with
    exp := some { words := x.words, idx := 0, len := x.len, e := [], x := [] }, fmask := 0, rep := none, replay := false }

/-- Act on the plane that matched: trap, or begin an expansion and hold its operations (R367, R369, R370, R380). -/
def decodePlane (s : State) (v : View) (m : Image) (img : Nat) (n : Nat) (word : Nat) : State :=
  let p := imgPlane m n
  let ds := (List.range 8).map (imgField m p.pat)
  let x := if p.len then word else word % 2 ^ 32
  let fld := ds.map fun d => extractField d x
  let len := if p.len then 8 else 4
  if !p.tp then emulate s v m 0 n p.tpl p.len x fld
  else match templateLine s v.t.core v.t.ctx img p.tpl with
  | (s1, .wait ns) => (s1.request ns).putSlot v { v.p with stalled := true }
  | (s1, .bad e) => s1.stopSlot v (fetchRec s1 v e (BitVec.ofNat 64 (img + 0x3080 + 128 * p.tpl)))
  | (s1, .ok b) =>
    match templateOf b with
    | none => s1.stopSlot v (persRec s1 v 3 (handOver v.p.pers n p.tpl 0 p.len) (some len))
    | some t =>
      match substAll m ds fld t with
      | none => emulate s1 v m 2 n p.tpl p.len x fld
      | some ws =>
        let y := decKey s1 v ws len
        (s1.putOps y).putSlot v (v.p.expand y)

/-- Decode the guest word at the slot's PC with its image (R367). -/
def decodeWith (s : State) (v : View) (m : Image) (img : Nat) (lo : Nat) (hi : Option Nat) : State :=
  let word := lo + 2 ^ 32 * hi.getD 0
  match searchGuest m lo hi with
  | .needHi => s
  | .escape len => s.putSlot v { v.p.endChain with pers := 0, pc := (v.p.pc + BitVec.ofNat 64 len + 7) &&& ~~~7 }
  | .plane n => decodePlane s v m img n word
  | .noPlane => emulate s v m 1 0 0 false lo []

/-- GUEST_DECODE: the guest instruction at the slot's PC is matched and expanded (R364 to R367), or its operations are in
the decoded-operation cache, and no image is read (R380). The words it needs are in the instruction cache; `nextInstr` sees to the lower one, and the upper one is filled here when the search needs it. -/
def execGuestDecode (sl : SlotId) (s : State) : Host.Outcome State Fault Refusal :=
  match s.find sl with
  | none => .next s
  | some v =>
    if !v.issues ∨ v.p.pers = 0 ∨ v.p.exp.isSome then .next s
    else
      let c := v.t.core
      let x := v.t.ctx
      match (s.ctx? x).bind (fun c => c.pers[v.p.pers - 1]?), cachedHalf s c x v.p.pc with
      | some (img, true, gen), some lo =>
        (match s.decOps.find? fun y => y.same (decKey s v [] 0) with
        | some y => .next ((s.putOps y).putSlot v (v.p.expand y))
        | none =>
        match imageFor s c x v.p.pers img gen with
        | (s1, .wait ns) => .next ((s1.request ns).putSlot v { v.p with stalled := true })
        | (s1, .bad e) => .next (s1.stopSlot v (if e.cls = .pers then persRec s1 v e.f.cause v.p.pers none
            else fetchRec s1 v e (BitVec.ofNat 64 (img + 128 * e.line))))
        | (s1, .ok m) =>
          let hi := cachedHalf s1 c x (v.p.pc + 4)
          if hi.isNone && decide (searchGuest m lo.toNat none = .needHi) then
            (match codeRead s1 c x (codeLine (v.p.pc + 4)) .fetch with
            | (s2, .ok bits) => .next (s2.installLine c x (v.p.pc + 4) bits)
            | (s2, .wait ns) => .next ((s2.request ns).putSlot v { v.p with stalled := true })
            | (s2, .bad e) => .next (s2.stopSlot v (fetchRec s2 v e (v.p.pc + 4))))
          else .next (decodeWith s1 v m img lo.toNat (hi.map BitVec.toNat)))
      | _, some _ => .next (s.stopSlot v (persRec s v 1 v.p.pers none))
      | _, none => .next s

end Sys2Proof.Machine
end

