-- ==== Sys2Proof/Machine/Matrix.lean ====
section
/-!
DEFINITION. Class 4: the matrix engine and the epilogue pipe (R83 to R93, R251 to R281).

An operation tries to be accepted when it issues; while it waits for memory its slot is `accepting`, and
MATRIX_ACCEPTANCE tries again. MGEMM is run a row at a time by MGEMM_SEQUENCER_STEP.
-/

namespace Sys2Proof.Machine

/-! ### Types (R256) -/

/-- Element width of a type code. -/
def mxWidth (ty : Nat) : Nat := if ty = 10 ∨ ty = 11 then 16 else if ty = 14 ∨ ty = 15 then 4 else 8

/-- Width class of a type code, 0 for a code no step takes. -/
def mxClass (ty : Nat) : Nat := match ty with
  | 10 => 1 | 11 => 1 | 12 => 2 | 13 => 2 | 1 => 3 | 14 => 4 | 15 => 5 | _ => 0

/-- A pair of types one step takes. -/
def mxPair (fa fb : Nat) : Bool := decide (mxClass fa ≠ 0) && decide (mxClass fa = mxClass fb)

/-- An integer type code: .s8 or .s4. -/
def mxInt (ty : Nat) : Bool := decide (ty = 1 ∨ ty = 15)

/-- The float format of a type code. -/
def mxFloat (ty : Nat) : FloatTy := match ty with
  | 10 => .f16 | 11 => .bf16 | 12 => .e4m3 | 13 => .e5m2 | _ => .e2m1

/-- Depth of one K step. -/
def mxDepth (ty : Nat) : Nat := 1024 / mxWidth ty

/-- May E8M0 scales go with the type (R257)? -/
def mxScalable (ty : Nat) : Bool := decide (ty = 12 ∨ ty = 13 ∨ ty = 14)

/-! ### Operand lines (R65, R253, R258) -/

/-- Two bytes at a time. -/
def halves : List Byte → List Nat
  | a :: b :: r => (a.toNat + 256 * b.toNat) :: halves r
  | _ => []

/-- The element codes of a 128-byte line. -/
def lineCodes (ty : Nat) (line : List Byte) : List Nat := match mxWidth ty with
  | 16 => halves line
  | 4 => line.flatMap fun b => [b.toNat % 16, b.toNat / 16]
  | _ => line.map BitVec.toNat

/-- Element `k` times its scale: none, E8M0 per 32 elements, or one FP32 value (R258). -/
def scaleBy (kind : Nat) (scale : List Byte) (k : Nat) (x : FVal) : FVal := match kind with
  | 0 => x
  | 1 => scaled x (byteAt scale (k / 32)).toNat
  | _ => scaledF32 x (ofBytes (scale.take 4))

/-- One row of A or column line of B, as values. -/
inductive OpLine
  | flt (l : List FVal)
  | int (l : List Int)
  deriving DecidableEq, Repr, Inhabited

/-- The values of a line of type `ty`. -/
def opLine (ty kind : Nat) (scale line : List Byte) : OpLine :=
  if mxInt ty then .int ((lineCodes ty line).map fun x => (BitVec.ofNat (mxWidth ty) x).toInt)
  else .flt ((lineCodes ty line).zipIdx.map fun x => scaleBy kind scale x.2 (fread (mxFloat ty) x.1))

/-! ### One step on one element (R83 to R92, R265) -/

/-- What a step does besides its operands. -/
structure KStep where
  keep : Bool
  dist : Bool
  rm : Word
  cm : Word
  dep : Nat
  deriving DecidableEq, Repr, Inhabited

/-- The square of a difference (R265). -/
def sqDiff (a b : FVal) : FVal := match (fsum false [a, b.negate]).1 with
  | .nan _ => .nan false
  | .inf _ => .inf false
  | .fin _ m e => .fin false (m * m) (2 * e)

/-- The exact sum of a group's terms; a group of less than 32 has masked ones, each of which is +0 (R90 to R92; log
entry 67). -/
def groupSum (dist : Bool) (ts : List (FVal × FVal)) : FVal :=
  (fsum false ((if ts.length < 32 then [.fin false 0 0] else [])
    ++ ts.map fun t => if dist then sqDiff t.1 t.2 else (fprod t.1 t.2).1)).1

/-- Add a group to an element: one rounding (R90). An element that holds a NaN becomes 0x7FC00000 (R91), also where every
term of the group is masked: the model's choice against R92's 'leaves every accumulator value unchanged' (log entry
116). -/
def addGroup (dist : Bool) (x : Nat) (ts : List (FVal × FVal)) : Nat :=
  (froundSum .f32 .rne false false [] [fread .f32 x, groupSum dist ts]).1

/-- A float element after `n` groups of 32 terms, in ascending order (R89, R90). -/
def floatElem (dist : Bool) (ts : List (FVal × FVal)) (x : Nat) : Nat → Nat
  | 0 => x
  | n + 1 => addGroup dist (floatElem dist ts x n) ((ts.drop (32 * n)).take 32)

/-- An integer element after a step with exact sum `t` (R85, R86). -/
def intElem (a : Acc) (keep : Bool) (x : Word) (t : Int) : Word :=
  if keep then BitVec.ofNat 32 (tri24Add (if a.res then x.toNat else tri24Of x.toInt) t)
  else if a.res then BitVec.ofInt 32 (tri24Read (tri24Add x.toNat t))
  else narrowInt true a.sat 32 (x.toInt + t)

/-- Element (i, j) after a step (R263). -/
def stepElem (k : KStep) (a : Acc) (i j : Nat) (x : Word) (row col : OpLine) : Word :=
  let on := k.rm.getLsbD i && k.cm.getLsbD j
  match row, col with
  | .flt r, .flt c =>
    BitVec.ofNat 32 (floatElem k.dist (if on then (r.zip c).take k.dep else []) x.toNat (r.length / 32))
  | .int r, .int c =>
    intElem a k.keep x (if on then (((r.zip c).take k.dep).map fun t => t.1 * t.2).sum else 0)
  | _, _ => x

/-- An accumulator after a step over the given rows; in a step of a few rows the other rows only follow the mode. -/
def Acc.step (a : Acc) (k : KStep) (rows : List (Nat × OpLine)) (cols : List OpLine) : Acc :=
  let el := (List.range 32).flatMap fun i =>
    match rows.find? fun r => r.1 = i with
    | some r => cols.zipIdx.map fun c => (32 * i + c.2, stepElem k a i c.2 (cellGet a.el (32 * i + c.2)) r.2 c.1)
    | none => (List.range 32).map fun j =>
        let x := cellGet a.el (32 * i + j)
        (32 * i + j, if a.tyI then intElem a k.keep x 0 else x)
  { a with res := k.keep, el := cellSetAll [] el }

/-- Element (i, j) as value reads see it (R87). -/
def Acc.value (a : Acc) (i j : Nat) : Word :=
  let x := cellGet a.el (32 * i + j)
  if a.res then BitVec.ofInt 32 (tri24Read x.toNat) else x

/-- A cleared accumulator (R261). -/
def Acc.zero (tyI sat : Bool) : Acc := { tyI := tyI, res := false, sat := sat, el := [] }

/-- The state bits as MSTAT and MSPILL give them (R272, R273). -/
def Acc.bits (a : Acc) : Nat := a.tyI.toNat + 2 * a.res.toNat + 4 * a.sat.toNat

/-! ### Weight-store slots (R253, R254) -/

/-- The key of a sealed slot, where its key slot still holds one. -/
def WSlot.key (w : WSlot) (s : State) : Option (BitVec 512) := match s.keys[w.ks]? with
  | some ⟨true, _, key⟩ => some key
  | _ => none

/-- The slot's bytes are ciphertext. -/
def WSlot.cipher (w : WSlot) : Bool := w.win && decide (8 ≤ w.stf)

/-- Does the tag suit B type `fb` (R254)? -/
def WSlot.fits (w : WSlot) (s : State) (fb : Nat) : Bool :=
  if w.win then
    (match w.stf % 8 with
      | 1 => decide (fb = 14)
      | 2 => decide (fb = 12)
      | 3 => decide (fb = 13)
      | _ => false) && (!w.cipher || (w.key s).isSome)
  else match w.sk with
  | 0 => true
  | 1 => mxScalable fb
  | _ => !mxInt fb

/-- The scale kind operand fetch applies. -/
def WSlot.scaleKind (w : WSlot) : Nat := if w.win then (if w.stf % 8 = 1 then 1 else 2) else w.sk

/-- Column line `j` as operand fetch reads it. An element times its scale enters the product exactly, with no rounding into a
decode target (R88, R254, R258): the model's choice against R80 (log entry 115). -/
def WSlot.column (w : WSlot) (s : State) (fb j : Nat) : OpLine :=
  let raw := cellList w.lines (128 * j) 128
  let line := match w.cipher, w.key s with
    | true, some key => xtsUnit true key ((w.roff[j]?).getD 0 / 128) raw
    | _, _ => raw
  opLine fb w.scaleKind (cellList w.scale (8 * j) 8) line

/-- All column lines. -/
def WSlot.columns (w : WSlot) (s : State) (fb : Nat) : List OpLine := (List.range 32).map (w.column s fb)

/-! ### Matrix faults and acceptance (R259, R260) -/

/-- Why an operation is not accepted: a matrix fault, a memory fault with its address, or something to wait for. -/
inductive MxErr
  | mx (cause : Nat)
  | mem (f : MemFault) (addr : Dword)
  | wait (ns : List Need)
  deriving DecidableEq, Repr, Inhabited

/-- What a course of checks and reads comes to. -/
abbrev Mx (α : Type) := State × Except MxErr α

/-- Go on with a course that has not failed. -/
def mxThen {α β : Type} (r : Mx α) (f : State → α → Mx β) : Mx β := match r with
  | (s, .error e) => (s, .error e)
  | (s, .ok x) => f s x

/-- A matrix fault unless the check holds. -/
def mxCheck {α : Type} (ok : Bool) (cause : Nat) (s : State) (r : Mx α) : Mx α := if ok then r else (s, .error (.mx cause))

/-- The record of a matrix fault (R397, R398). -/
def mxRec (s : State) (v : View) (cause : Nat) : FRec :=
  { FRec.ofSlot s v .matrix cause with info := v.p.mxst, skipLen := some v.p.skipBytes }

/-- The record of a memory fault that stops an MGEMM (R398). -/
def mgMemRec (s : State) (v : View) (f : MemFault) (addr : Dword) : FRec :=
  { memRec s v f addr 0 with info := v.p.mxst, mg := true }

/-- The target of an engine access in a space. A fabric address is refused, the package's own too (R183, R422). -/
def engTarget (s : State) (v : View) (spc : Nat) (a : Dword) (n : Nat) (k : Access) : State × Except MemFault Target :=
  if spc = 0 then
    if canonical a && (fabricOf s v.t.ctx a).isSome then (s, .error .permission) else globTarget s v.t.core v.t.ctx a n k
  else (s, teamTarget s v.t spc a n 1 k)

/-- A run of bytes an engine accesses: its address, length, and the alignment of its elements (R181, R259). -/
structure Run where
  addr : Dword
  n : Nat
  al : Nat
  deriving DecidableEq, Repr, Inhabited

/-- A run cut at 128-byte blocks. -/
def Run.cut (r : Run) : List Run := (cutRun 3 r.addr r.n).map fun p => { r with addr := p.1, n := p.2 }

/-- The first of R183's faults of an access to a run, or its target. An address out of bounds is told before a misaligned
one. -/
def runTarget (s : State) (v : View) (spc : Nat) (r : Run) (k : Access) : State × Except MemFault Target :=
  if r.addr.toNat % r.al = 0 then engTarget s v spc r.addr r.n k
  else if spc = 0 then (s, .error (.plain 4))
  else match teamTarget s v.t spc r.addr r.n 1 k with
  | .error f => (s, .error (if 4 < f.cause then .plain 4 else f))
  | .ok _ => (s, .error (.plain 4))

/-- Resolve runs in order; data that meets an uncorrectable error fails like a check (R260). -/
def engPieces (v : View) (spc : Nat) (k : Access) : List Run → State → Mx (List (Target × Nat))
  | [], s => (s, .ok [])
  | x :: r, s =>
    match runTarget s v spc x k with
    | (s1, .error f) => (s1, .error (.mem f x.addr))
    | (s1, .ok t) =>
      if decide (k = .load) && spanPoisoned s1 x.n t then (s1, .error (.mem (.plain 11) x.addr))
      else mxThen (engPieces v spc k r s1) fun s2 l => (s2, .ok ((t, x.n) :: l))

/-- The back-invalidates that translating runs needs (R416). -/
def engWalks (s : State) (v : View) (spc : Nat) (k : Access) (runs : List Run) : List Need :=
  if spc = 0 then runs.flatMap fun r => xlateNeeds s v.t.core v.t.ctx r.addr k.writes else []

/-- Cut bytes into runs of the given lengths. -/
def cutLengths : List Nat → List Byte → List (List Byte)
  | [], _ => []
  | n :: r, l => l.take n :: cutLengths r (l.drop n)

/-- Read runs of bytes as accesses of the slot in a stream (R275). -/
def engRead (s : State) (v : View) (spc : Nat) (str : BitVec 4) (runs : List Run) : Mx (List (List Byte)) :=
  let cuts := runs.flatMap Run.cut
  if engWalks s v spc .load cuts ≠ [] then (s, .error (.wait (engWalks s v spc .load cuts)))
  else mxThen (engPieces v spc .load cuts s) fun s1 ps =>
    let locs := ps.flatMap fun p => readLocs s1 p.2 p.1
    match (ps.flatMap fun p => spanNeeds s1 false p.2 p.1 ++ touchNeeds s1 v.t.core p.1 p.2) ++ beforeNeeds s1 v str [none] locs with
    | [] =>
      let s2 := ps.foldl (fun s p => (s.flushFor v.t.core p.1 p.2).recall (some v.t.core) (spanLines p.1 p.2 ++ readLines s p.2 p.1)) s1
      let s3 := s2.forceBefore v str [none] locs
      (ps.foldl (fun s p => s.fillFor v.seat p.1 p.2) s3,
        .ok (cutLengths (runs.map Run.n) (ps.flatMap fun p => readTarget s3 v.seat p.1 p.2)))
    | ns => (s1, .error (.wait ns))

/-- Bytes an engine writes: their address, the alignment of their elements, and the bytes. -/
structure Out where
  addr : Dword
  al : Nat
  data : List Byte
  deriving DecidableEq, Repr, Inhabited

/-- Write runs of bytes as accesses of the slot in a stream: all are checked before the first is written, and where one
fails nothing has happened (R260, R271, R275). -/
def engWrite (s : State) (v : View) (spc : Nat) (str : BitVec 4) (runs : List Out) : Mx Unit :=
  let rs := runs.map fun r => { addr := r.addr, n := r.data.length, al := r.al : Run }
  if engWalks s v spc .store rs ≠ [] then (s, .error (.wait (engWalks s v spc .store rs)))
  else match engPieces v spc .store rs s with
  | (_, .error e) => (s, .error e)
  | (s1, .ok ps) =>
    match ps.flatMap fun p => spanNeeds s1 true p.2 p.1 ++ touchNeeds s1 v.t.core p.1 p.2 with
    | [] =>
      let deps := orderedBefore s1 v.sl v.p str none
      let put (s : State) (x : (Target × Nat) × Out) : State :=
        let s1 := (s.flushFor v.t.core x.1.1 x.1.2).recall (some v.t.core) (spanLines x.1.1 x.1.2)
        (alignedUnits x.1.1 x.2.data).foldl (fun s u => s.addWrite v.seat (some str) none deps u) s1
      ((ps.zip runs).foldl put s1, .ok ())
    | ns => (s, .error (.wait ns))

/-! ### Descriptors (R257, R264) -/

/-- A tile descriptor. -/
structure Tile where
  base : Dword
  stride : Nat
  sk : Nat
  soff : Nat
  /-- a reserved bit is set -/
  rsv : Bool
  deriving DecidableEq, Repr, Inhabited

/-- The fields of a tile descriptor quad. -/
def tileOf (q : BitVec 128) : Tile :=
  { base := q.extractLsb' 0 64, stride := (q.extractLsb' 64 24).toNat, sk := (q.extractLsb' 126 2).toNat
    soff := (q.extractLsb' 96 24).toNat, rsv := decide (q.extractLsb' 88 8 ≠ 0) || decide (q.extractLsb' 120 6 ≠ 0) }

/-- A scale kind goes with an offset. -/
def scaleOk (sk soff : Nat) : Bool := match sk with
  | 0 => decide (soff = 0)
  | 1 => decide (soff % 8 = 0)
  | 2 => decide (soff % 4 = 0)
  | _ => false

/-- A scale kind goes with a type (R257). -/
def scaleTyOk (sk fa : Nat) : Bool := match sk with
  | 0 => true
  | 1 => mxScalable fa
  | 2 => !mxInt fa
  | _ => false

/-- The rules of a descriptor for operand reads, the type's apart. -/
def Tile.readOk (d : Tile) : Bool :=
  !d.rsv && decide (d.base.toNat % 16 = 0) && decide (d.stride % 16 = 0) && scaleOk d.sk d.soff

/-- The address of row `i`. -/
def Tile.row (d : Tile) (i : Nat) : Dword := d.base + BitVec.ofNat 64 (i * d.stride)

/-- A line of 128 bytes with its scale data. -/
structure LineRef where
  line : Dword
  scale : Option Run
  deriving DecidableEq, Repr, Inhabited

/-- The runs of a line in ascending address order (R260). -/
def LineRef.runs (r : LineRef) : List Run :=
  let l : Run := { addr := r.line, n := 128, al := 1 }
  match r.scale with
  | none => [l]
  | some x => if x.addr < r.line then [x, l] else [l, x]

/-- Put the data read back to the lines: the line's bytes and its scale bytes. -/
def splitLines : List LineRef → List (List Byte) → List (List Byte × List Byte)
  | [], _ => []
  | r :: rest, ds => match r.scale, ds with
    | none, d :: ds => (d, []) :: splitLines rest ds
    | some x, d :: e :: ds => (if x.addr < r.line then (e, d) else (d, e)) :: splitLines rest ds
    | _, _ => []

/-- Read lines with their scale data. -/
def engLines (s : State) (v : View) (spc : Nat) (str : BitVec 4) (rs : List LineRef) : Mx (List (List Byte × List Byte)) :=
  mxThen (engRead s v spc str (rs.flatMap LineRef.runs)) fun s1 ds => (s1, .ok (splitLines rs ds))

/-- Line `i` of a descriptor; under scale kind 1 `sb` bytes of scale data. -/
def Tile.lineRef (d : Tile) (sb i : Nat) : LineRef :=
  { line := d.row i
    scale := match d.sk with
      | 0 => none
      | 1 => some { addr := d.base + BitVec.ofNat 64 (d.soff + 8 * i), n := sb, al := 1 }
      | _ => some { addr := d.base + BitVec.ofNat 64 (d.soff + 4 * i), n := 4, al := 4 } }

/-- RMASK of a mask quad. -/
def rowMask (q : BitVec 128) : Word := q.extractLsb' 0 32

/-- CMASK of a mask quad. -/
def colMask (q : BitVec 128) : Word := q.extractLsb' 32 32

/-- DEPTH of a mask quad. -/
def maskDepth (q : BitVec 128) : Nat := (q.extractLsb' 64 32).toNat

/-- All rows and columns. -/
def fullMask : BitVec 128 := 0xFFFFFFFFFFFFFFFF

/-! ### Encoding checks (R255) -/

/-- Causes of a field that must be an accumulator. -/
def accCauses (d : BitVec 8) : List Nat := if 7 < d.toNat then [0x03] else []

/-- Causes of a nonzero unused field of M. -/
def usedCauses {n : Nat} (x : BitVec n) : List Nat := if x = 0 then [] else [0x02]

/-- Causes of SC as a mask quad, or `ones` where it is allowed. -/
def maskCauses (v : View) (ones : Bool) (sc : BitVec 8) : List Nat :=
  if ones ∧ sc = 0x87 then [] else srcCauses v false (.plain 4) sc

/-- Causes of NW and the guard. -/
def mxCtlCauses (c : Ctl) (v : View) : List Nat := noNwCauses c ++ (if v.p.replay then [] else guardCauses v c)

/-- A 32-bit scalar operand. -/
def mxScalar : Src := .scal (.int 32) 1

/-- A quad, or `ones`. -/
def argMask (v : View) (sc : BitVec 8) : BitVec 128 := if sc = 0x87 then fullMask else readQuad v sc

/-! ### Busy accumulators and slots (R274) -/

/-- The accumulators and weight-store slots a waiting operation names. -/
def mxNames (i : Instr) (x : MxArgs) : List Nat × List Nat := match i with
  | .mzero f => ([f.d.toNat], [])
  | .mldb _ => ([], [x.b.toNat])
  | .mma f => ([f.d.toNat], [x.b.toNat])
  | .mmam f => ([f.d.toNat], [x.b.toNat])
  | .mdist f => ([f.d.toNat], [x.b.toNat])
  | .mtopk f => ([f.d.toNat], [])
  | .mstore f => ([f.d.toNat], [])
  | .mspill f => ([f.d.toNat], [])
  | .mfill f => ([f.d.toNat], [])
  | _ => ([], [])

/-- A field of an MGEMM descriptor (R277): `n` bits from bit `lo` of the bytes at `off`. -/
def mgField (d : BitVec 1024) (off lo n : Nat) : Nat := (d.extractLsb' (8 * off + lo) n).toNat

/-- The accumulator and the weight-store slot of a run's row: a step's or a stored row's. -/
def MgRun.names (r : MgRun) : List Nat × List Nat :=
  ([mgField r.desc 0x34 0 3],
    if r.store then [] else [mgField r.desc 0x34 8 8 + r.n * mgField r.desc 0x34 16 16 + r.k])

/-- Accumulators and slots an MGEMM is inside a step of. -/
def mgNames (r : MgRun) : List Nat × List Nat := if r.store ∨ r.row = 0 then ([], []) else r.names

/-- Accumulators and slots an MGEMM works on until it ends. -/
def mgWhole (r : MgRun) : List Nat × List Nat :=
  ([mgField r.desc 0x34 0 3],
    (List.range (mgField r.desc 0x30 0 16 * mgField r.desc 0x34 16 16)).map fun i => mgField r.desc 0x34 8 8 + i)

/-- What a slot's class 4 operation holds: one waiting to be accepted, or the step of an MGEMM. -/
def Slot.mxHolds (p : Slot) (waiting : Bool) : List Nat × List Nat := match p.status with
  | .accepting w x => if waiting then mxNames (decodeWord w) x else ([], [])
  | .mgemm => (p.mg.map mgNames).getD ([], [])
  | _ => ([], [])

/-- The slots of a team by name. -/
def Team.slots (t : Team) : List (SlotId × Slot) :=
  t.waves.zipIdx.flatMap fun w => [(⟨t.id, w.2, false⟩, w.1.a), (⟨t.id, w.2, true⟩, w.1.b)]

/-- Another slot of the team is inside an operation on one of these accumulators or slots. -/
def mxBusy (v : View) (waiting : Bool) (names : List Nat × List Nat) : Bool :=
  v.t.slots.any fun p => decide (p.1 ≠ v.sl) &&
    ((p.2.mxHolds waiting).1.any names.1.contains || (p.2.mxHolds waiting).2.any names.2.contains)

/-- Another slot of the team runs an MGEMM that works on one of these accumulators or slots (R273). -/
def mgRuns (v : View) (names : List Nat × List Nat) : Bool :=
  v.t.slots.any fun p => decide (p.1 ≠ v.sl) && decide (p.2.status = .mgemm) && (match p.2.mg with
    | some r => (mgWhole r).1.any names.1.contains || (mgWhole r).2.any names.2.contains
    | none => false)

/-! ### The common course -/

/-- What an operation other than MGEMM does once it is tried: the state and the slot as acceptance leaves them. -/
abbrev MxBody := MxArgs → View → State → Mx (State × Slot)

/-- Accept an operation, stop the slot on its fault, or let it wait. After a memory fault it issues again in full, without its
guard (R185, R260). What a killed wave's operation meets is dropped with it (R57, R260). -/
def mxFinish (c : Ctl) (word : Dword) (x : MxArgs) (v : View) (r : Mx (State × Slot)) : State :=
  match r with
  | (_, .ok (s, p)) => s.putSlot v (if v.p.live then { p with replay := false }.afterOther c.ch else p)
  | (s, .error (.wait ns)) =>
    (s.request ns).putSlot v { v.p with status := .accepting word x, waitTeam := ns.findSome? needTeam }
  | (s, .error (.mx cause)) =>
    if v.p.live then s.stopSlot { v with p := { v.p with replay := false } } (mxRec s v cause) else s.putSlot v v.p
  | (s, .error (.mem f a)) =>
    if v.p.live then
      s.stopSlot { v with p := { v.p with replay := decide (f.cause ≠ 11) && !v.inExp } } (memRec s v f a v.p.fmask)
    else s.putSlot v v.p

/-- Issue a class 4 operation other than MGEMM. -/
def mxIssue (c : Ctl) (word : Dword) (causes : View → List Nat) (wait : View → Bool) (names : MxArgs → List Nat × List Nat)
    (args : View → MxArgs) (body : MxBody) (s : State) : Host.Outcome State Fault Refusal :=
  issue s (fun v => mxCtlCauses c v ++ causes v)
    (fun v => (decide (v.active c ≠ 0) || v.p.replay) && (wait v || mxBusy v true (names (args v))))
    fun v =>
      if v.active c = 0 ∧ !v.p.replay then s.putSlot v (v.p.afterOther c.ch)
      else mxFinish c word (args v) v (body (args v) v s)

/-- Set an accumulator of a team. -/
def State.setAcc (s : State) (t n : Nat) (a : Acc) : State := s.modTeam t fun t => { t with accs := t.accs.set n a }

/-- An accumulator of the team, or the fault ACC. -/
def mxAcc {α : Type} (v : View) (s : State) (n : Nat) (f : Acc → Mx α) : Mx α := match v.t.accs[n]? with
  | none => (s, .error (.mx 1))
  | some a => f a

/-- A weight-store slot of the team, or the fault SLOT. -/
def mxSlot {α : Type} (v : View) (s : State) (n : Nat) (f : WSlot → Mx α) : Mx α := match v.t.wslots[n]? with
  | none => (s, .error (.mx 2))
  | some w => f w

/-! ### MZERO and MLDB (R261, R262) -/

/-- MZERO's effect. -/
def mzeroBody (f : FmtX) : MxBody := fun _ v s =>
  mxAcc v s f.d.toNat fun _ => (s, .ok (s.setAcc v.t.id f.d.toNat (.zero (decide (f.fa = 3)) (f.xb.getLsbD 0)), v.p))

/-- Causes of MZERO. -/
def mzeroCauses (f : FmtX) : List Nat :=
  accCauses f.d ++ zeroCauses f.sa ++ zeroCauses f.sb ++ zeroCauses f.sc
    ++ (if f.fa = 9 ∨ f.fa = 3 then [] else [0x04]) ++ usedCauses f.fb ++ usedCauses f.str
    ++ (if f.xb.toNat < 2 then [] else [0x02]) ++ (if f.xb.getLsbD 0 ∧ f.fa ≠ 3 then [0x04] else [])

/-- MZERO (R261). -/
def execMzero (f : FmtX) (s : State) : Host.Outcome State Fault Refusal :=
  mxIssue f.c (writeFmtX 4 0x00 f) (fun _ => mzeroCauses f) (fun _ => false) (mxNames (.mzero f)) (fun _ => default)
    (mzeroBody f) s

/-- MLDB's effect. -/
def mldbBody (f : FmtX) : MxBody := fun x v s =>
  mxSlot v s x.b.toNat fun _ =>
    let d := tileOf x.a
    mxCheck d.readOk 5 s <|
      mxThen (engLines s v 1 f.str ((List.range 32).map (d.lineRef 8))) fun s1 ls =>
        let w : WSlot :=
          { v := true, win := false, sk := d.sk, stf := 0, window := 0, ks := 0, roff := []
            lines := cellSetAll [] (addrBytes 0 (ls.flatMap Prod.fst))
            scale := cellSetAll [] (ls.zipIdx.flatMap fun l => addrBytes (8 * l.2) l.1.2) }
        (s1, .ok (s1.modTeam v.t.id fun t => { t with wslots := t.wslots.set x.b.toNat w }, v.p))

/-- The operands SA, a quad, and SB, a slot number. -/
def slotArgs (f : FmtX) (v : View) : MxArgs := { a := readQuad v f.sa, b := readS32 v f.sb, c := 0 }

/-- MLDB (R262). -/
def execMldb (f : FmtX) (s : State) : Host.Outcome State Fault Refusal :=
  mxIssue f.c (writeFmtX 4 0x01 f)
    (fun v => zeroCauses f.d ++ srcCauses v false (.plain 4) f.sa ++ srcCauses v false mxScalar f.sb ++ zeroCauses f.sc
      ++ usedCauses f.fa ++ usedCauses f.fb ++ usedCauses f.xb)
    (fun _ => false) (mxNames (.mldb f)) (slotArgs f) (mldbBody f) s

/-! ### MMA, MMAM and MDIST (R263 to R265) -/

/-- The effect of one K step; `masked` says that SC holds a mask quad. -/
def stepBody (f : FmtX) (masked dist : Bool) : MxBody := fun x v s =>
  let fa := f.fa.toNat
  let fb := f.fb.toNat
  let quad := masked && decide (f.sc ≠ 0x87)
  let dep := if quad then maskDepth x.c else mxDepth fa
  let m := if masked then x.c else fullMask
  mxAcc v s f.d.toNat fun a => mxSlot v s x.b.toNat fun w => mxCheck w.v 2 s <|
    let d := tileOf x.a
    mxCheck (d.readOk && scaleTyOk d.sk fa && (!quad || (decide (dep ≤ mxDepth fa) && decide (x.c.extractLsb' 96 32 = 0)))) 5 s <|
    mxCheck (decide (a.tyI = mxInt fa) && (a.tyI || !a.res)) 4 s <|
    mxCheck (w.fits s fb) 3 s <|
    mxThen (engLines s v 1 f.str ((List.range 32).map (d.lineRef (mxDepth fa / 32)))) fun s1 ls =>
      let k : KStep := { keep := !dist && f.xb.getLsbD 0, dist := dist, rm := rowMask m, cm := colMask m, dep := dep }
      let rows := ls.zipIdx.map fun l => (l.2, opLine fa d.sk l.1.2 l.1.1)
      (s1, .ok (s1.setAcc v.t.id f.d.toNat (a.step k rows (w.columns s1 fb)), v.p))

/-- Causes common to the K steps. -/
def stepCauses (f : FmtX) (v : View) : List Nat :=
  accCauses f.d ++ srcCauses v false (.plain 4) f.sa ++ srcCauses v false mxScalar f.sb
    ++ (if mxPair f.fa.toNat f.fb.toNat then [] else [0x04])

/-- Causes of XB of MMA and MMAM. -/
def keepCauses (f : FmtX) : List Nat :=
  (if f.xb.toNat < 2 then [] else [0x02]) ++ (if f.xb.getLsbD 0 ∧ !mxInt f.fa.toNat then [0x04] else [])

/-- The operands of a K step with a mask. -/
def stepArgs (f : FmtX) (v : View) : MxArgs := { slotArgs f v with c := argMask v f.sc }

/-- MMA (R263). -/
def execMma (f : FmtX) (s : State) : Host.Outcome State Fault Refusal :=
  mxIssue f.c (writeFmtX 4 0x02 f) (fun v => stepCauses f v ++ zeroCauses f.sc ++ keepCauses f) (fun _ => false)
    (mxNames (.mma f)) (slotArgs f) (stepBody f false false) s

/-- MMAM (R263). -/
def execMmam (f : FmtX) (s : State) : Host.Outcome State Fault Refusal :=
  mxIssue f.c (writeFmtX 4 0x03 f) (fun v => stepCauses f v ++ maskCauses v false f.sc ++ keepCauses f) (fun _ => false)
    (mxNames (.mmam f)) (stepArgs f) (stepBody f true false) s

/-- MDIST (R265). -/
def execMdist (f : FmtX) (s : State) : Host.Outcome State Fault Refusal :=
  mxIssue f.c (writeFmtX 4 0x04 f)
    (fun v => stepCauses f v ++ maskCauses v true f.sc ++ usedCauses f.xb ++ (if mxInt f.fa.toNat then [0x04] else []))
    (fun _ => false) (mxNames (.mdist f)) (stepArgs f) (stepBody f true true) s

/-! ### MTOPK (R266) -/

/-- Insert a candidate behind those that come before it or are its equal. -/
def insertBy (before : Nat × Word → Nat × Word → Bool) (x : Nat × Word) : List (Nat × Word) → List (Nat × Word)
  | [] => [x]
  | y :: r => if before x y then x :: y :: r else y :: insertBy before x r

/-- The value order of a type's bits: -0 below +0. -/
def topkKey (tyI : Bool) (x : Word) : Int := if tyI then x.toInt else forderBits x.toNat

/-- The columns of a row in the order MTOPK selects them. -/
def topkOrder (a : Acc) (max : Bool) (cm : Word) (i : Nat) : List (Nat × Word) :=
  let cand := ((List.range 32).filter fun j => cm.getLsbD j && (a.tyI || !(fread .f32 (a.value i j).toNat).isNan)).map
    fun j => (j, a.value i j)
  let before (x y : Nat × Word) : Bool :=
    if max then decide (topkKey a.tyI y.2 < topkKey a.tyI x.2) else decide (topkKey a.tyI x.2 < topkKey a.tyI y.2)
  cand.foldl (fun l x => insertBy before x l) []

/-- The value of an absent selection. -/
def topkNone (tyI max : Bool) : Word := if tyI then (if max then 0x80000000 else 0x7FFFFFFF) else 0x7FC00000

/-- Lane `l` of result register `t`: a value in lanes 0 to 31, its column in lanes 32 to 63. -/
def topkLane (a : Acc) (max : Bool) (cm : Word) (t l : Nat) : Word :=
  match (topkOrder a max cm (l % 32))[t]? with
  | some x => if l < 32 then x.2 else BitVec.ofNat 32 x.1
  | none => if l < 32 then topkNone a.tyI max else 0xFFFFFFFF

/-- The registers MTOPK writes. -/
def topkCount (f : FmtX) : Nat := f.xb.toNat % 8 + 1

/-- MTOPK's effect: a tracked result. -/
def mtopkBody (f : FmtX) : MxBody := fun x v s =>
  mxAcc v s f.d.toNat fun a =>
    mxCheck (decide (a.tyI = decide (f.fa = 3))) 4 s <|
      let rm := (rowMask x.c).zeroExtend 96
      let act := (rm ||| rm <<< 32) &&& v.p.owned
      (s, .ok (s, v.p.addPend (v.ordered (Pend.vec .ld f.sa (topkCount f) act (topkLane a (f.xb.getLsbD 3) (colMask x.c))))))

/-- Causes of MTOPK's destination registers. -/
def topkDst (f : FmtX) (v : View) : List Nat :=
  if 64 < f.sa.toNat + topkCount f then [0x03]
  else if ((List.range (topkCount f)).map fun i => Reg.v (f.sa.toNat + i)).any (v.p.pendingOther (some .ld)) then [0x07] else []

/-- MTOPK (R266). -/
def execMtopk (f : FmtX) (s : State) : Host.Outcome State Fault Refusal :=
  mxIssue f.c (writeFmtX 4 0x05 f)
    (fun v => accCauses f.d ++ topkDst f v ++ zeroCauses f.sb ++ maskCauses v true f.sc
      ++ (if f.fa = 9 ∨ f.fa = 3 then [] else [0x04]) ++ usedCauses f.fb ++ usedCauses f.str)
    (fun v => v.full .ld) (mxNames (.mtopk f)) (fun v => { (default : MxArgs) with c := argMask v f.sc }) (mtopkBody f) s

/-! ### The epilogue block (R267, R268) -/

/-- A field of an epilogue block: `n` bits from bit `lo` of the bytes at `off`. -/
def epiField (e : BitVec 512) (off lo n : Nat) : Nat := (e.extractLsb' (8 * off + lo) n).toNat

/-- BIAS. -/
def epiBias (e : BitVec 512) : Nat := epiField e 0 0 64

/-- SCLA. -/
def epiScla (e : BitVec 512) : Nat := epiField e 8 0 64

/-- OTY. -/
def epiOty (e : BitVec 512) : Nat := epiField e 0x10 28 4

/-- ACT. -/
def epiAct (e : BitVec 512) : Nat := epiField e 0x10 21 3

/-- SMD. -/
def epiSmd (e : BitVec 512) : Nat := epiField e 0x10 19 2

/-- BTY. -/
def epiBty (e : BitVec 512) : Nat := epiField e 0x10 12 4

/-- SAT. -/
def epiSat (e : BitVec 512) : Bool := decide (epiField e 0x10 25 1 = 1)

/-- An output type, or a bias type: its size and the float format, none for an integer. -/
def epiTy (ty : Nat) : Option (Nat × Option FloatTy) := match ty with
  | 9 => some (4, some .f32)
  | 10 => some (2, some .f16)
  | 11 => some (2, some .bf16)
  | 12 => some (1, some .e4m3)
  | 13 => some (1, some .e5m2)
  | 3 => some (4, none)
  | 2 => some (2, none)
  | 1 => some (1, none)
  | 5 => some (1, none)
  | _ => none

/-- Size of an output or bias element. -/
def epiSize (ty : Nat) : Nat := ((epiTy ty).map Prod.fst).getD 1

/-- The clamp bounds are numbers in order. -/
def clampOk (lo hi : Nat) : Bool :=
  !(fread .f32 lo).isNan && !(fread .f32 hi).isNan && decide (fcompare lo hi ≠ .gt)

/-- The checks of R268. -/
def epiOk (e : BitVec 512) : Bool :=
  decide (epiField e 0x10 24 1 = 0) && decide (epiField e 0x10 0 12 = 0) && decide (epiField e 0x28 0 192 = 0)
    && (epiTy (epiOty e)).isSome && decide (epiAct e ≤ 4) && decide (epiSmd e ≤ 2) && decide (epiField e 0x10 16 3 ≤ 2)
    && (if epiBias e = 0 then decide (epiBty e = 0)
        else decide (epiBty e = 9 ∨ epiBty e = 10 ∨ epiBty e = 11 ∨ epiBty e = 3) && decide (epiBias e % epiSize (epiBty e) = 0))
    && (decide (epiSmd e ≠ 2) || decide (epiScla e % 4 = 0))
    && (decide (epiAct e ≠ 4) || clampOk (epiField e 0x18 0 32) (epiField e 0x1C 0 32))

/-- The default block of a slot with no binding (R268). -/
def epiDefault (tyI : Bool) : BitVec 512 :=
  (if tyI then 3 else 9) <<< 156 ||| 0xFFFFFFFFFFFFFFFF <<< 256

/-- Read and check the block at an address (R268). -/
def readEpi (s : State) (v : View) (str : BitVec 4) (a : Dword) : Mx (BitVec 512) :=
  mxCheck (decide (a.toNat % 64 = 0)) 6 s <|
    mxThen (engRead s v 1 str [{ addr := a, n := 64, al := 1 }]) fun s1 ds =>
      let e := BitVec.ofNat 512 (ofBytes ds.flatten)
      mxCheck (epiOk e) 6 s1 (s1, .ok e)

/-- MEPI's effect. -/
def mepiBody (f : FmtW) : MxBody := fun x v s =>
  let a := x.a.extractLsb' 0 64
  mxThen (readEpi s v (f.m.extractLsb' 12 4) a) fun s1 e => (s1, .ok (s1, { v.p with epi := some e, epib := a }))

/-- The pair SA names, as an operand. -/
def pairArgs (f : FmtW) (v : View) : MxArgs := { a := (readS64 v f.sa).zeroExtend 128, b := 0, c := 0 }

/-- MEPI (R268). -/
def execMepi (f : FmtW) (s : State) : Host.Outcome State Fault Refusal :=
  mxIssue f.c (writeFmtW 4 0x09 f)
    (fun v => zeroCauses f.d ++ srcCauses v false (.plain 2) f.sa ++ zeroCauses f.sb ++ zeroCauses f.sc
      ++ usedCauses (f.m.extractLsb' 0 12))
    (fun _ => false) (fun _ => ([], [])) (pairArgs f) (mepiBody f) s

/-! ### One element through the epilogue (R269, R270) -/

/-- An FP32 operation's bits, from its exact products and addends. -/
def f32Round (ps as : List FVal) : Nat := (froundSum .f32 .rne false false (ps.map fun p => (p, false)) as).1

/-- An FP32 multiply. -/
def f32Mul (a b : Nat) : Nat := (froundSum .f32 .rne false false [fprod (fread .f32 a) (fread .f32 b)] []).1

/-- An FP32 add. -/
def f32Add (a b : Nat) : Nat := f32Round [] [fread .f32 a, fread .f32 b]

/-- An FP32 fused multiply-add. -/
def f32Fma (a b c : Nat) : Nat :=
  (froundSum .f32 .rne false false [fprod (fread .f32 a) (fread .f32 b)] [fread .f32 c]).1

/-- VTANH's result. -/
def f32Tanh (a : Nat) : Nat := (specialFn .tanh (BitVec.ofNat 32 a)).1

/-- The activation of R270. -/
def activate (e : BitVec 512) (t : Nat) : Nat := match epiAct e with
  | 0 => t
  | 1 => match fread .f32 t with
    | .nan _ => FloatTy.f32.nan
    | .inf n => if n then 0 else t
    | .fin n m _ => if n ∨ m = 0 then 0 else t
  | 2 =>
    let u := f32Mul (f32Mul t t) t
    let x := f32Mul (f32Fma 0x3D372713 u t) 0x3F4C422A
    f32Mul (f32Mul (f32Add 0x3F800000 (f32Tanh x)) t) 0x3F000000
  | 3 =>
    let h := f32Mul t 0x3F000000
    f32Mul t (f32Fma 0x3F000000 (f32Tanh h) 0x3F000000)
  | _ => (fminmax false (fminmax true t (epiField e 0x18 0 32)).1 (epiField e 0x1C 0 32)).1

/-- A 32-bit integer as an exact value. -/
def intVal (x : Word) : FVal := .fin x.msb x.toInt.natAbs 0

/-- An output integer type: signed, width. -/
def outInt (oty : Nat) : Bool × Nat := (decide (oty ≠ 5), 8 * epiSize oty)

/-- The bits the epilogue stores for a value `x` of an accumulator of the type, given the bias and scale bits of its
column (R269). -/
def epiElem (e : BitVec 512) (tyI : Bool) (x : Word) (bias scl : Nat) : Nat :=
  let oty := epiOty e
  let bty := epiBty e
  let fmt := (epiTy oty).bind Prod.snd
  if tyI ∧ epiSmd e = 0 ∧ (bty = 0 ∨ bty = 3) ∧ epiAct e ≤ 1 ∧ fmt = none then
    let t := x.toInt + (if bty = 3 then (BitVec.ofNat 32 bias).toInt else 0)
    let t := if epiAct e = 1 then max t 0 else t
    (intToInt (epiSat e) (outInt oty).1 (outInt oty).2 t).toNat
  else
    let xv := if tyI then intVal x else fread .f32 x.toNat
    let sv := match epiSmd e with
      | 0 => .fin false 1 0
      | 1 => fread .f32 (epiField e 0x14 0 32)
      | _ => fread .f32 scl
    let bv := match bty with
      | 0 => .fin false 0 0
      | 3 => intVal (BitVec.ofNat 32 bias)
      | 10 => fread .f16 bias
      | 11 => fread .bf16 bias
      | _ => fread .f32 bias
    let t1 := (froundSum .f32 .rne false false [fprod xv sv] [bv]).1
    let t2 := activate e t1
    let md := RMode.ofBits (BitVec.ofNat 2 (epiField e 0x10 26 2))
    match fmt with
    | some y => (fconvert .f32 y md (epiSat e) t2).1
    | none => (floatToInt .f32 (outInt oty).1 (outInt oty).2 md (epiSat e) t2).1.toNat

/-! ### MSTORE (R271) -/

/-- Columns of a mask. -/
def maskBits (m : Word) : List Nat := (List.range 32).filter fun i => m.getLsbD i

/-- The runs of `n`-byte elements at columns of a vector at `a`; none where the vector is not used. -/
def vecRuns (used : Bool) (a n c0 : Nat) (cols : List Nat) : List Run :=
  if used then cols.map fun j => { addr := BitVec.ofNat 64 (a + (c0 + j) * n), n := n, al := n } else []

/-- Put a run at its place in ascending address order, behind those at the same address. -/
def insertRun (x : Nat × Run) : List (Nat × Run) → List (Nat × Run)
  | [] => [x]
  | y :: r => if x.2.addr < y.2.addr then x :: y :: r else y :: insertRun x r

/-- Runs with their numbers, in ascending address order (R260). -/
def byAddress (l : List Run) : List (Nat × Run) := (l.zipIdx.map fun x => (x.2, x.1)).foldl (fun r x => insertRun x r) []

/-- What was read for run `i`. -/
def runData (order : List (Nat × Run)) (ds : List (List Byte)) (i : Nat) : Nat :=
  ofBytes (((order.zip ds).find? fun x => x.1.1 = i).map Prod.snd |>.getD [])

/-- The bias and scale bits of the columns (R267): result column `c0 + j` for tile column `j`. The vectors' elements are read
together, in ascending address (R260). -/
def epiVectors (s : State) (v : View) (str : BitVec 4) (e : BitVec 512) (c0 : Nat) (cols : List Nat) :
    Mx (List (Nat × Nat × Nat)) :=
  let hasB := decide (epiBias e ≠ 0)
  let hasS := decide (epiSmd e = 2)
  let rb := vecRuns hasB (epiBias e) (epiSize (epiBty e)) c0 cols
  let order := byAddress (rb ++ vecRuns hasS (epiScla e) 4 c0 cols)
  mxThen (engRead s v (epiField e 0x10 16 3) str (order.map Prod.snd)) fun s1 ds =>
    (s1, .ok (cols.zipIdx.map fun c =>
      (c.1, if hasB then runData order ds c.2 else 0, if hasS then runData order ds (rb.length + c.2) else 0)))

/-- Write the elements of some rows of an accumulator at `base + i * stride + j * size` (R271). The faults of the epilogue vectors
come before those of the addresses written: the model's choice (log entry 63). -/
def storeRows (s : State) (v : View) (str : BitVec 4) (spc : Nat) (e : BitVec 512) (a : Acc) (base : Dword) (stride : Nat)
    (c0 : Nat) (rows cols : List Nat) : Mx Unit :=
  if rows.isEmpty || cols.isEmpty then (s, .ok ())
  else
    let n := epiSize (epiOty e)
    mxThen (epiVectors s v str e c0 cols) fun s1 vs =>
      engWrite s1 v spc str (rows.flatMap fun i => vs.map fun c =>
        { addr := base + BitVec.ofNat 64 (i * stride + c.1 * n), al := n
          data := bytesOf (epiElem e a.tyI (a.value i c.1) c.2.1 c.2.2) n })

/-- The space of an output code: .core, .clus, .glob. -/
def outSpace (x : Nat) : Nat := match x with
  | 0 => 1 | 1 => 2 | _ => 0

/-- The block the slot's next MSTORE uses, read again where the binding was discarded (R268). -/
def boundEpi (s : State) (v : View) (tyI : Bool) : Mx (BitVec 512 × Slot) :=
  match v.p.epi with
  | some e => (s, .ok (e, v.p))
  | none =>
    if v.p.epib = 0 then (s, .ok (epiDefault tyI, v.p))
    else mxThen (readEpi s v 0 v.p.epib) fun s1 e => (s1, .ok (e, { v.p with epi := some e }))

/-- MSTORE's effect: what of ARG does not depend on the epilogue block is checked before a block bound again is read (R260). -/
def mstoreBody (f : FmtX) : MxBody := fun x v s =>
  mxAcc v s f.d.toNat fun a =>
    let d := tileOf x.a
    mxCheck (!d.rsv && decide (d.sk = 0) && decide (d.soff = 0)) 5 s <|
    mxThen (boundEpi s v a.tyI) fun s1 b =>
      let e := b.1
      let n := epiSize (epiOty e)
      mxCheck (decide (d.base.toNat % n = 0) && decide (d.stride % n = 0)) 5 s1 <|
        let rows := maskBits (BitVec.ofNat 32 (epiField e 0x20 0 32) &&& rowMask x.c)
        let cols := maskBits (BitVec.ofNat 32 (epiField e 0x24 0 32) &&& colMask x.c)
        mxThen (storeRows s1 v f.str (outSpace (f.xb.toNat % 4)) e a d.base d.stride 0 rows cols) fun s2 _ =>
          (s2, .ok (s2, b.2))

/-- MSTORE (R271). -/
def execMstore (f : FmtX) (s : State) : Host.Outcome State Fault Refusal :=
  mxIssue f.c (writeFmtX 4 0x08 f)
    (fun v => accCauses f.d ++ srcCauses v false (.plain 4) f.sa ++ zeroCauses f.sb ++ maskCauses v true f.sc
      ++ usedCauses f.fa ++ usedCauses f.fb ++ usedCauses (f.xb.extractLsb' 2 2)
      ++ (if f.xb.extractLsb' 0 2 = 3 then [0x04] else []))
    (fun _ => false) (mxNames (.mstore f)) (fun v => { a := readQuad v f.sa, b := 0, c := argMask v f.sc }) (mstoreBody f) s

/-! ### MSPILL and MFILL (R272) -/

/-- The descriptor of an image. -/
def Tile.imageOk (d : Tile) : Bool :=
  !d.rsv && decide (d.sk = 0) && decide (d.soff = 0) && decide (d.stride % 16 = 0) && decide (128 ≤ d.stride)

/-- The bytes of one row of an image. -/
def imageRow (a : Acc) (i : Nat) : List Byte :=
  let xs := (List.range 32).map fun j => (cellGet a.el (32 * i + j)).toNat
  if a.res then (xs.flatMap fun x => bytesOf x 3) ++ List.replicate 32 0 else xs.flatMap fun x => bytesOf x 4

/-- Bytes cut where a 4 KiB granule may begin, 16 at a time; their elements are aligned to `al`. -/
def sixteens (al : Nat) : Nat → Dword → List Byte → List Out
  | 0, _, _ => []
  | fuel + 1, a, l =>
    if l.isEmpty then []
    else
      let k := 16 - a.toNat % 16
      { addr := a, al := al, data := l.take k } :: sixteens al fuel (a + BitVec.ofNat 64 k) (l.drop k)

/-- MSPILL's effect. The image's words are accesses of four bytes, its TRI24 values of one (log entry 128). -/
def mspillBody (f : FmtX) : MxBody := fun x v s =>
  mxAcc v s f.d.toNat fun a =>
    let d := tileOf x.a
    mxCheck d.imageOk 5 s <|
      let parts := ((List.range 32).flatMap fun i => sixteens (if a.res then 1 else 4) 9 (d.row i) (imageRow a i))
        ++ sixteens 4 2 (d.row 32) (bytesOf (0xA5000000 + a.bits) 16)
      mxThen (engWrite s v 1 f.str parts) fun s1 _ => (s1, .ok (s1, v.p))

/-- The elements of one row of an image, residues reduced (R81). -/
def fillRow (res : Bool) (l : List Byte) : List Word :=
  (List.range 32).map fun j =>
    if res then
      BitVec.ofNat 32 (tri24Add (ofBytes ((l.drop (3 * j)).take 3)) 0)
    else BitVec.ofNat 32 (ofBytes ((l.drop (4 * j)).take 4))

/-- An image's state word is well formed, and so is the padding of its rows. -/
def imageStateOk (w : Nat) (rows : List (List Byte)) : Bool :=
  decide (w / 2 ^ 24 = 0xA5) && decide (w / 8 % 2 ^ 21 = 0)
    && (decide (w / 2 % 2 = 0) || (decide (w % 2 = 1) && rows.all fun l => (l.drop 96).all fun b => b = 0))

/-- MFILL's effect. -/
def mfillBody (f : FmtX) : MxBody := fun x v s =>
  mxAcc v s f.d.toNat fun _ =>
    let d := tileOf x.a
    mxCheck d.imageOk 5 s <|
      mxThen (engRead s v 1 f.str (((List.range 32).map fun i => { addr := d.row i, n := 128, al := 1 }) ++ [{ addr := d.row 32, n := 16, al := 4 }])) fun s1 ds =>
        let w := ofBytes ((ds[32]?).getD [])
        let res := decide (w / 2 % 2 = 1)
        mxCheck (imageStateOk w (ds.take 32)) 3 s1 <|
          let el := (ds.take 32).zipIdx.flatMap fun r => (fillRow res r.1).zipIdx.map fun c => (32 * r.2 + c.2, c.1)
          let a : Acc := { tyI := decide (w % 2 = 1), res := res, sat := decide (w / 4 % 2 = 1), el := cellSetAll [] el }
          (s1, .ok (s1.setAcc v.t.id f.d.toNat a, v.p))

/-- Causes of MSPILL and MFILL. -/
def imageCauses (f : FmtX) (v : View) : List Nat :=
  accCauses f.d ++ srcCauses v false (.plain 4) f.sa ++ zeroCauses f.sb ++ zeroCauses f.sc ++ usedCauses f.fa
    ++ usedCauses f.fb ++ usedCauses f.xb

/-- The quad SA names, as an operand. -/
def quadArgs (f : FmtX) (v : View) : MxArgs := { a := readQuad v f.sa, b := 0, c := 0 }

/-- MSPILL (R272). -/
def execMspill (f : FmtX) (s : State) : Host.Outcome State Fault Refusal :=
  mxIssue f.c (writeFmtX 4 0x0A f) (imageCauses f) (fun _ => false) (mxNames (.mspill f)) (quadArgs f) (mspillBody f) s

/-- MFILL (R272). -/
def execMfill (f : FmtX) (s : State) : Host.Outcome State Fault Refusal :=
  mxIssue f.c (writeFmtX 4 0x0B f) (imageCauses f) (fun _ => false) (mxNames (.mfill f)) (quadArgs f) (mfillBody f) s

/-! ### MSTAT (R273) -/

/-- The kind of an MSTAT: .acc, .slot, .elem. -/
def mstatKind (f : FmtW) : Nat := (f.m.extractLsb' 6 2).toNat

/-- The accumulator or slot an MSTAT names. -/
def mstatNum (f : FmtW) : Nat := (f.m.extractLsb' 0 6).toNat

/-- Word 0 of .slot. -/
def WSlot.bits (w : WSlot) : Nat :=
  w.v.toNat * 2 ^ 31 + (if w.win then 2 ^ 30 + w.stf * 2 ^ 24 + w.window * 2 ^ 18 else w.sk * 2 ^ 28)

/-- MSTAT's effect: a tracked quad. -/
def mstatBody (f : FmtW) : MxBody := fun x v s =>
  let n := mstatNum f
  let done (y : Nat) : Mx (State × Slot) := (s, .ok (s, v.p.addPend (v.ordered (Pend.scal .ld f.d 4 (some (BitVec.ofNat 128 y))))))
  match mstatKind f with
  | 0 => mxAcc v s n fun a => done a.bits
  | 1 => mxSlot v s n fun w => done w.bits
  | _ => mxAcc v s n fun a =>
      let r := x.b
      done ((a.value (r.extractLsb' 0 5).toNat (r.extractLsb' 8 5).toNat).toNat + a.bits * 2 ^ 32)

/-- The accumulator or slot MSTAT reads. -/
def mstatNames (f : FmtW) : List Nat × List Nat := if mstatKind f = 1 then ([], [mstatNum f]) else ([mstatNum f], [])

/-- MSTAT (R273). -/
def execMstat (f : FmtW) (s : State) : Host.Outcome State Fault Refusal :=
  mxIssue f.c (writeFmtW 4 0x11 f)
    (fun v => plainRegCauses f.d ++ dstCauses v (some .ld) (.scal 4) f.d
      ++ srcCauses v false (if mstatKind f = 2 then mxScalar else .none) f.sa ++ zeroCauses f.sb ++ zeroCauses f.sc
      ++ usedCauses (f.m.extractLsb' 8 8) ++ (if mstatKind f = 3 then [0x04] else []))
    (fun v => v.full .ld || mgRuns v (mstatNames f)) (fun _ => mstatNames f)
    (fun v => { (default : MxArgs) with b := if mstatKind f = 2 then readS32 v f.sa else 0 }) (mstatBody f) s

/-! ### Acceptance later (R260) -/

/-- The body of the operation in a word, with its control fields. -/
def mxBody (i : Instr) : Option (Ctl × MxBody) := match i with
  | .mzero f => some (f.c, mzeroBody f)
  | .mldb f => some (f.c, mldbBody f)
  | .mma f => some (f.c, stepBody f false false)
  | .mmam f => some (f.c, stepBody f true false)
  | .mdist f => some (f.c, stepBody f true true)
  | .mtopk f => some (f.c, mtopkBody f)
  | .mstore f => some (f.c, mstoreBody f)
  | .mepi f => some (f.c, mepiBody f)
  | .mspill f => some (f.c, mspillBody f)
  | .mfill f => some (f.c, mfillBody f)
  | .mstat f => some (f.c, mstatBody f)
  | _ => none

/-- MATRIX_ACCEPTANCE: an operation that waited is accepted or faults, once what it waited for is there (R260). -/
def execMatrixAcceptance (sl : SlotId) (s : State) : Host.Outcome State Fault Refusal :=
  match s.find sl with
  | none => .next s
  | some v =>
    match v.p.status with
    | .accepting word x =>
      (match mxBody (decodeWord word) with
      | none => .next s
      | some (c, body) =>
        if mxBusy v false (mxNames (decodeWord word) x) then .next s
        else
          let v1 := { v with p := { v.p with status := .running, waitTeam := none } }
          .next (mxFinish c word x v1 (body x v1 s)))
    | _ => .next s

/-! ### MGEMM (R276 to R280) -/

/-- %mxst as its fields (R279). -/
def mxstWord (ph : Bool) (cause m n k row : Nat) : Dword :=
  BitVec.ofNat 64 (2 ^ 63 + ph.toNat * 2 ^ 62 + cause % 64 * 2 ^ 56 + m % 2 ^ 16 * 2 ^ 40 + n % 64 * 2 ^ 34 + k % 64 * 2 ^ 28
    + row % 32)

/-- The run's place in %mxst. -/
def MgRun.mxst (r : MgRun) (cause : Nat) : Dword := mxstWord r.store cause r.m r.n r.k r.row

/-- MT. -/
def mgMt (d : BitVec 1024) : Nat := mgField d 0x30 16 16

/-- NT. -/
def mgNt (d : BitVec 1024) : Nat := mgField d 0x30 0 16

/-- KS. -/
def mgKs (d : BitVec 1024) : Nat := mgField d 0x34 16 16

/-- FA. -/
def mgFa (d : BitVec 1024) : Nat := mgField d 0x38 28 4

/-- FB. -/
def mgFb (d : BitVec 1024) : Nat := mgField d 0x38 24 4

/-- ASK. -/
def mgAsk (d : BitVec 1024) : Nat := mgField d 0x38 22 2

/-- ACC. -/
def mgAcc (d : BitVec 1024) : Nat := mgField d 0x34 0 3

/-- SLOT0. -/
def mgSlot0 (d : BitVec 1024) : Nat := mgField d 0x34 8 8

/-- CADDR. -/
def mgCaddr (d : BitVec 1024) : Dword := d.extractLsb' 0xC0 64

/-- The ARG checks of the descriptor (R277) that need no epilogue block. -/
def mgOk (d : BitVec 1024) : Bool :=
  decide (mgField d 0x34 3 5 = 0) && decide (mgField d 0x38 0 13 = 0) && decide (mgField d 0x3C 16 16 = 0)
    && decide (mgField d 0x44 0 480 = 0) && decide (1 ≤ mgMt d) && decide (1 ≤ mgNt d ∧ mgNt d ≤ 64)
    && decide (1 ≤ mgKs d ∧ mgKs d ≤ 64) && decide (mgField d 0 0 64 % 16 = 0) && decide (mgField d 0x28 0 32 % 16 = 0)
    && mxPair (mgFa d) (mgFb d) && scaleTyOk (mgAsk d) (mgFa d) && (decide (mgAsk d ≠ 0) || decide (mgField d 0x10 0 64 = 0))
    && decide (mgField d 0x38 20 2 ≤ 1) && decide (mgField d 0x38 18 2 ≤ 2) && decide (mgField d 0x38 14 3 ≠ 7)
    && (decide (mgField d 0x38 13 1 = 0) || mxInt (mgFa d)) && decide ((mgCaddr d).toNat % 8 = 0)

/-- The ARG checks that need the output element size. -/
def mgOutOk (d : BitVec 1024) (n : Nat) : Bool :=
  decide (mgField d 8 0 64 % n = 0) && decide (mgField d 0x2C 0 32 % n = 0)

/-- Where the sequencer starts: the place %mxst holds, or the first row (R278). -/
def mgStart (x : Dword) : Nat × Nat × Nat × Nat × Bool :=
  if x.getLsbD 63 then
    ((x.extractLsb' 40 16).toNat, (x.extractLsb' 34 6).toNat, (x.extractLsb' 28 6).toNat, (x.extractLsb' 0 5).toNat, x.getLsbD 62)
  else (0, 0, 0, 0, false)

/-- The checks of an MGEMM in the order of R277; the answer is the run to start. -/
def mgemmPlan (f : FmtW) (a : Dword) (v : View) (s : State) : Mx MgRun :=
  let str := f.m.extractLsb' 12 4
  mxCheck (decide (a.toNat % 128 = 0)) 5 s <|
    mxThen (engRead s v (if f.m.getLsbD 11 then 0 else 1) str [{ addr := a, n := 128, al := 1 }]) fun s1 ds =>
      let d := BitVec.ofNat 1024 (ofBytes ds.flatten)
      let p := mgStart v.p.mxst
      mxCheck (decide (mgAcc d < v.t.accs.length)) 1 s1 <|
      mxCheck (decide (mgSlot0 d + mgNt d * mgKs d ≤ v.t.wslots.length)) 2 s1 <|
      mxCheck (mgOk d && decide (p.1 < mgMt d) && decide (p.2.1 < mgNt d) && decide (p.2.2.1 < mgKs d)) 5 s1 <|
        let run (e : Option (BitVec 512)) : MgRun :=
          { desc := d, epi := e, m := p.1, n := p.2.1, k := p.2.2.1, row := p.2.2.2.1, store := p.2.2.2.2, str := str.toNat
            started := v.p.mxst.getLsbD 63 }
        let b : Dword := d.extractLsb' 0x100 64
        if b = 0 then mxCheck (mgOutOk d 4) 5 s1 (s1, .ok (run none))
        else mxThen (readEpi s1 v str b) fun s2 e => mxCheck (mgOutOk d (epiSize (epiOty e))) 5 s2 (s2, .ok (run (some e)))

/-- Causes of MGEMM (R255, R276). -/
def mgemmCauses (f : FmtW) (v : View) : List Nat :=
  mxCtlCauses f.c v ++ zeroCauses f.d ++ srcCauses v false (.plain 2) f.sa ++ zeroCauses f.sb ++ zeroCauses f.sc
    ++ usedCauses (f.m.extractLsb' 0 11) ++ (if f.c.ch then [0x02] else [])

/-- MGEMM (R278): the checks, and the slot holds while the sequencer runs. -/
def execMgemm (f : FmtW) (s : State) : Host.Outcome State Fault Refusal :=
  issue s (mgemmCauses f) (fun _ => false) fun v =>
    if v.active f.c = 0 ∧ !v.p.replay then s.putSlot v (v.p.afterOther false)
    else
      let v1 := { v with p := { v.p with replay := false } }
      match mgemmPlan f (readS64 v f.sa) v s with
      | (s1, .ok r) => s1.putSlot v { v1.p with status := .mgemm, mg := some r }
      | (s1, .error (.wait ns)) => (s1.request ns).putSlot v { v.p with stalled := true }
      | (s1, .error (.mx cause)) => s1.stopSlot v1 { mxRec s1 v1 cause with mg := true }
      | (s1, .error (.mem e a)) =>
        s1.stopSlot { v1 with p := { v1.p with replay := decide (e.cause ≠ 11) && !v.inExp } } (mgMemRec s1 v1 e a)

/-- The A row of the run's row, with its scale data (R278). -/
def MgRun.lineRef (r : MgRun) : LineRef :=
  let d := r.desc
  let i := 32 * r.m + r.row
  let sb := mxDepth (mgFa d) / 32
  let asb := mgField d 0x10 0 64
  { line := BitVec.ofNat 64 (mgField d 0 0 64 + i * mgField d 0x28 0 32 + 128 * r.k)
    scale := match mgAsk d with
      | 0 => none
      | 1 => some { addr := BitVec.ofNat 64 (asb + i * mgField d 0x40 0 32 + sb * r.k), n := sb, al := 1 }
      | _ => some { addr := BitVec.ofNat 64 (asb + 4 * i), n := 4, al := 4 } }

/-- Apply one step row (R278). An accumulator that another slot has left in residue mode keeps its residues until the last
row of the step, which closes them (R86). -/
def mgStepRow (v : View) (r : MgRun) (s : State) : Mx State :=
  let d := r.desc
  let fa := mgFa d
  let fb := mgFb d
  mxAcc v s (mgAcc d) fun a => mxSlot v s (mgSlot0 d + r.n * mgKs d + r.k) fun w => mxCheck w.v 2 s <|
    mxCheck (decide (a.tyI = mxInt fa) && (a.tyI || !a.res)) 4 s <|
    mxCheck (w.fits s fb) 3 s <|
    mxThen (engLines s v (if mgField d 0x38 20 2 = 1 then 0 else 1) (BitVec.ofNat 4 r.str) [r.lineRef]) fun s1 ls =>
      let k : KStep :=
        { keep := a.res && decide (r.row < 31), dist := false, rm := rowMask fullMask, cm := colMask fullMask, dep := mxDepth fa }
      let rows := ls.map fun l => (r.row, opLine fa (mgAsk d) l.2 l.1)
      (s1, .ok (s1.setAcc v.t.id (mgAcc d) (a.step k rows (w.columns s1 fb))))

/-- Store one row of the tile (R278). -/
def mgStoreRow (v : View) (r : MgRun) (s : State) : Mx State :=
  let d := r.desc
  mxAcc v s (mgAcc d) fun a =>
    let e := r.epi.getD (epiDefault (mxInt (mgFa d)))
    let n := epiSize (epiOty e)
    let base := BitVec.ofNat 64 (mgField d 8 0 64 + 32 * r.m * mgField d 0x2C 0 32 + 32 * r.n * n)
    let rows := if (epiField e 0x20 0 32).testBit r.row then [r.row] else []
    mxThen (storeRows s v (BitVec.ofNat 4 r.str) (outSpace (mgField d 0x38 18 2)) e a base (mgField d 0x2C 0 32) (32 * r.n) rows
      (maskBits (BitVec.ofNat 32 (epiField e 0x24 0 32)))) fun s1 _ => (s1, .ok s1)

/-- The place after a row: the next row, K step, phase, tile (R278). -/
def MgRun.next (r : MgRun) : MgRun :=
  if r.row < 31 then { r with row := r.row + 1 }
  else if r.store then
    let q := { r with row := 0, k := 0, store := false, started := false }
    if r.n + 1 < mgNt r.desc then { q with n := r.n + 1 } else { q with n := 0, m := r.m + 1 }
  else if r.k + 1 < mgKs r.desc then { r with row := 0, k := r.k + 1 }
  else { r with row := 0, k := 0, store := true }

/-- The run is at a pre-emption point (R278). -/
def MgRun.atPoint (r : MgRun) : Bool := !r.store && decide (r.row = 0) && decide (r.m < mgMt r.desc)

/-- The slot goes on past its MGEMM (R278, R280). -/
def Slot.mgEnd (p : Slot) : Slot := { p with status := .running, mg := none, mxst := 0 }.afterOther false

/-- The completion add: a release of every result byte; where it fails the context gets a CNTR record and the slot goes
on (R280). -/
def mgComplete (v : View) (r : MgRun) (s : State) : State :=
  let d := r.desc
  let a := mgCaddr d
  let fail (s : State) (cause : Nat) : State :=
    (s.addRec { FRec.ofSlot s v .cntr cause with addr := a } (s.privileged v.t v.p)).putSlot v v.p.mgEnd
  let clus := decide (mgField d 0x38 17 1 = 1)
  let str : BitVec 16 := 1 <<< r.str
  let sco := mgField d 0x38 14 3
  let walks := if clus then [] else xlateNeeds s v.t.core v.t.ctx a true
  if a = 0 then s.putSlot v v.p.mgEnd
  else if walks ≠ [] then s.request walks
  else if !clus && (fabricOf s v.t.ctx a).isSome then fail s 5
  else match (if clus then (s, ctrSeg s v.t a) else ctrGlob s v.t.core v.t.ctx a true) with
  | (s1, .ok (.here c)) =>
    (match ctrNeeds s1 true c ++ releaseNeeds s1 v str sco with
    | [] =>
      if ctrPoisoned s1 c then fail s1 2
      else
        let s2 := (if clus then s1 else s1.markCtr v.t.core v.t.ctx a).release v str sco
        (((s2.recall none (targetLines c.target)).ctrAdd c (BitVec.ofNat 64 (mgField d 0x3C 0 16))).1).putSlot v v.p.mgEnd
    | ns => s1.request ns)
  | (s1, .ok (.remote _ _)) => fail s1 5
  | (s1, .error _) => fail s1 2

/-- A row of the run, or its stop on the fault the row meets (R279). -/
def mgRow (v : View) (r : MgRun) (s : State) : State :=
  let stop (s : State) (cause : Nat) (rec : View → FRec) : State :=
    let v1 := { v with p := { v.p with status := .running, mg := none, waitTeam := none, mxst := r.mxst cause
                                       replay := decide (0x10 < cause ∧ cause ≠ 0x1B) && !v.inExp } }
    if v.p.live then s.stopSlot v1 (rec v1) else s.putSlot v { v1.p with mxst := v.p.mxst }
  match if r.store then mgStoreRow v r s else mgStepRow v r s with
  | (_, .ok s1) => s1.putSlot v { v.p with mg := some r.next, waitTeam := none }
  | (s1, .error (.wait ns)) => (s1.request ns).putSlot v { v.p with waitTeam := ns.findSome? needTeam }
  | (s1, .error (.mx cause)) => stop s1 cause fun v1 => { mxRec s1 v1 cause with mg := true }
  | (s1, .error (.mem e a)) => stop s1 (0x10 + e.cause) fun v1 => mgMemRec s1 v1 e a

/-- The sequencer's next action for a slot's run: clear a new tile's accumulator, stop at a pre-emption point when a
request stands or the wave has been killed, else one row; after the last row the completion add. In an expansion the stop
waits for the guest boundary (R372). -/
def mgAdvance (v : View) (r : MgRun) (s : State) : State :=
  if mgMt r.desc ≤ r.m then
    if v.p.live then mgComplete v r s else s.putSlot v { v.p with status := .running, mg := none }
  else
    let d := r.desc
    let s1 := if r.started then s else s.setAcc v.t.id (mgAcc d) (.zero (mxInt (mgFa d)) (decide (mgField d 0x38 13 1 = 1)))
    let r1 := { r with started := true }
    if r1.atPoint && !v.p.live then s1.putSlot v { v.p with status := .running, mg := none }
    else if r1.atPoint && v.t.preempt.isSome && !v.inExp then
      s1.putSlot v { v.p with status := .stopped, mg := none, mxst := r1.mxst 0 }
    else match s1.find v.sl with
    | none => s1
    | some v1 =>
      mgRow { v1 with p := { v1.p with stopAtBoundary := v1.p.stopAtBoundary || (v1.inExp && v1.t.preempt.isSome) } } r1 s1

/-- MGEMM_SEQUENCER_STEP (R278). A step or a stored row does not begin on an accumulator or slot that another MGEMM is inside
a step of, or that an operation waiting to be accepted names (R274). -/
def execMgemmSequencerStep (sl : SlotId) (s : State) : Host.Outcome State Fault Refusal :=
  match s.find sl with
  | none => .next s
  | some v =>
    match v.p.status, v.p.mg with
    | .mgemm, some r =>
      if (r.store || decide (r.row = 0)) && decide (r.m < mgMt r.desc) && mxBusy v true r.names then .next s
      else .next (mgAdvance v r s)
    | _, _ => .next s

end Sys2Proof.Machine
end

