-- ==== Sys2Proof/Machine/Rep.lean ====
section
/-!
DEFINITION. REP (R45, R46): its checks, and the instances it steps through.
-/

namespace Sys2Proof.Machine

/-- A field a REP may step over: how many registers its kind has, and registers per operand. -/
structure RepField where
  /-- a register selector here lies below this -/
  size : Nat
  /-- registers per operand, to whose multiple the number is aligned (R39) -/
  group : Nat
  deriving DecidableEq, Repr, Inhabited

/-- A vector or scalar field of `g` registers. -/
def repReg (g : Nat) : RepField := { size := 64, group := g }

/-- A predicate or accumulator field. -/
def repFew : RepField := { size := 8, group := 1 }

/-- D, SA, SB and SC of an operation as fields a REP may step over; none where the format does not use the field as a
selector. -/
structure RepShape where
  d : Option RepField
  a : Option RepField
  b : Option RepField
  c : Option RepField
  deriving DecidableEq, Repr, Inhabited

/-- Formats A, M and X: four selectors. -/
def shape4 (d a b c : RepField) : RepShape := { d := some d, a := some a, b := some b, c := some c }

/-- Format C: D, SA and SB. -/
def shape3 (d a b : RepField) : RepShape := { d := some d, a := some a, b := some b, c := none }

/-- Formats that offer nothing to step over. -/
def shape0 : RepShape := { d := none, a := none, b := none, c := none }

/-- Four fields of one register each. -/
def shapeOnes : RepShape := shape4 (repReg 1) (repReg 1) (repReg 1) (repReg 1)

/-- Class 0 (R216 to R221). -/
def repScalar (op : Nat) : RepShape :=
  match op with
  | 0x02 => { shapeOnes with d := some (repReg 2) }
  | 0x03 => { shapeOnes with d := some (repReg 2) }
  | 0x21 => { shape0 with d := some (repReg 1), a := some (repReg 1) }
  | 0x28 => shape4 (repReg 2) (repReg 2) (repReg 2) (repReg 1)
  | 0x29 => shape4 (repReg 2) (repReg 2) (repReg 2) (repReg 1)
  | 0x2A => shape4 (repReg 2) (repReg 2) (repReg 1) (repReg 1)
  | 0x2B => shape4 (repReg 2) (repReg 2) (repReg 1) (repReg 1)
  | 0x2C => shape4 (repReg 2) (repReg 2) (repReg 2) (repReg 1)
  | _ => shapeOnes

/-- Class 1 (R222 to R249); the moves between lanes span pairs for type .b64. -/
def repVector (op : Nat) (w : Dword) : RepShape :=
  let move := repReg (if w.extractLsb' 12 4 = 8 then 2 else 1)
  let preds := shape4 repFew repFew repFew (repReg 1)
  match op with
  | 0x15 => { shapeOnes with d := some repFew }
  | 0x16 => { shapeOnes with c := some repFew }
  | 0x1C => shape4 (repReg 2) (repReg 2) (repReg 2) (repReg 1)
  | 0x26 => { shapeOnes with d := some repFew }
  | 0x40 => { shapeOnes with d := some move, a := some move }
  | 0x41 => { shapeOnes with d := some move, a := some move }
  | 0x42 => { shapeOnes with d := some move, a := some move }
  | 0x43 => { shapeOnes with d := some move, a := some move }
  | 0x44 => { shapeOnes with d := some move, a := some move }
  | 0x45 => { shapeOnes with d := some move, a := some move }
  | 0x46 => { shapeOnes with d := some (repReg 4), a := some repFew }
  | 0x47 => { shapeOnes with d := some repFew, a := some repFew }
  | 0x48 => { shapeOnes with d := some repFew, a := some repFew }
  | 0x50 => preds
  | 0x51 => preds
  | 0x52 => preds
  | 0x53 => preds
  | 0x54 => if w.getLsbD 0 then { preds with a := some { size := 62, group := 1 } } else preds
  | _ => shapeOnes

/-- Class 2 (R178, R179, R192). -/
def repMemory (op : Nat) (w : Dword) : RepShape :=
  let sz := (w.extractLsb' 6 3).toNat
  let data := shape4 (repReg (szGroup sz)) (repReg 2) (repReg 1) (repReg 1)
  match op with
  | 0x08 => { data with d := some (repReg (atomGroup (readFmtM w))) }
  | 0x0C => { data with d := some (repReg 1) }
  | 0x0D => shape0
  | 0x10 => shape3 (repReg 1) (repReg 1) (repReg 1)
  | 0x11 => shape3 (repReg 1) (repReg 1) (repReg 1)
  | _ => data

/-- Class 3 (R163, R295). -/
def repCounter (op : Nat) (w : Dword) : RepShape :=
  match op with
  | 0x00 => shape3 (repReg 1) (repReg 2) (repReg 2)
  | 0x01 => shape3 (repReg 2) (repReg 2) (repReg 2)
  | 0x02 => shape3 (repReg 1) (repReg 1) (repReg 1)
  | 0x03 => shape3 (repReg 1) (repReg 1) (repReg 1)
  | 0x04 => shape3 (repReg 1) (repReg 2) (repReg 2)
  | 0x05 => shape3 (repReg 1) (repReg 2) (repReg 2)
  | 0x10 => shape4 (repReg 2) (repReg 4) (repReg 1) (repReg 1)
  | 0x11 => shape4 (repReg 2) (repReg 2) (repReg (if w.getLsbD 3 then 2 else 1)) (repReg 1)
  | 0x14 => shape4 (repReg 1) (repReg 2) (repReg 1) (repReg 1)
  | 0x15 => shape4 (repReg 1) (repReg 2) (repReg 2) (repReg 1)
  | 0x16 => shape4 (repReg 4) (repReg 2) (repReg 1) (repReg 1)
  | _ => shapeOnes

/-- Class 4 (R261 to R273). -/
def repMatrix (op : Nat) (w : Dword) : RepShape :=
  let acc (a c : Nat) : RepShape := shape4 repFew (repReg a) (repReg 1) (repReg c)
  match op with
  | 0x00 => acc 1 1
  | 0x01 => shape4 (repReg 1) (repReg 4) (repReg 1) (repReg 1)
  | 0x02 => acc 4 1
  | 0x03 => acc 4 4
  | 0x04 => acc 4 4
  | 0x05 => { acc 1 4 with a := some { size := 65 - topkCount (readFmtX w), group := 1 } }
  | 0x08 => acc 4 4
  | 0x09 => shape4 (repReg 1) (repReg 2) (repReg 1) (repReg 1)
  | 0x0A => acc 4 1
  | 0x0B => acc 4 1
  | _ => shape4 (repReg 4) (repReg 1) (repReg 1) (repReg 1)

/-- Class 5 (R128, R142). -/
def repCopy (op : Nat) : RepShape :=
  match op with
  | 0x08 => shape3 (repReg 1) (repReg 1) (repReg 1)
  | 0x09 => { shapeOnes with d := some (repReg 2) }
  | _ => shape4 (repReg 1) (repReg 4) (repReg 4) (repReg 4)

/-- The fields of an operation word a REP may step over. -/
def repShape (w : Dword) : RepShape :=
  match wordCls w with
  | 0 => repScalar (wordOp w)
  | 1 => repVector (wordOp w) w
  | 2 => repMemory (wordOp w) w
  | 3 => repCounter (wordOp w) w
  | 4 => repMatrix (wordOp w) w
  | 5 => repCopy (wordOp w)
  | _ => shape0

/-- The operation is ALU-class (R42). -/
def wordAlu (w : Dword) : Bool :=
  decide (wordCls w = 0) || (decide (wordCls w = 1) && (decide (wordOp w < 0x30) || decide (0x50 ≤ wordOp w ∧ wordOp w < 0x60)))

/-- REP may not repeat it (R45). -/
def repForbidden (w : Dword) : Bool :=
  decide (6 ≤ wordCls w) || (decide (wordCls w = 3) && decide (wordOp w = 2 ∨ wordOp w = 3))
    || (decide (wordCls w = 4) && decide (wordOp w = 0x10))

/-- Which of SA, SB and SC an operation that is not ALU-class reads as a source. -/
def readsFields (w : Dword) : Bool × Bool × Bool :=
  let op := wordOp w
  match wordCls w with
  | 1 => (true, decide (0x40 ≤ op ∧ op ≤ 0x45), false)
  | 2 => match op with
    | 0x08 => (true, true, true)
    | 0x09 => (true, true, true)
    | _ => (decide (op ≤ 0x05 ∨ op = 0x0C), decide (op ≤ 0x05 ∨ op = 0x0C), false)
  | 3 => match op with
    | 0x11 => (true, w.getLsbD 3, false)
    | _ => (decide (op ≤ 0x05 ∨ (0x10 ≤ op ∧ op ≤ 0x16)), decide (op ≤ 0x05 ∨ op = 0x10 ∨ op = 0x15), false)
  | 4 => match op with
    | 0x01 => (true, true, false)
    | 0x02 => (true, true, false)
    | 0x03 => (true, true, true)
    | 0x04 => (true, true, true)
    | 0x05 => (false, false, true)
    | 0x08 => (true, false, true)
    | 0x11 => (decide (mstatKind (readFmtW w) = 2), false, false)
    | _ => (decide (op = 0x09 ∨ op = 0x0A ∨ op = 0x0B ∨ op = 0x10), false, false)
  | 5 => (decide (op ≤ 3), decide (op ≤ 3), decide (op ≤ 3))
  | 6 => (decide (op = 0x01 ∨ op = 0x02 ∨ op = 0x05 ∨ op = 0x06), false, false)
  | 7 => (decide (op = 0x02 ∨ op = 0x04 ∨ op = 0x05 ∨ op = 0x08), decide (op = 0x05 ∨ op = 0x08), false)
  | _ => (false, false, false)

/-- A selector names a latch. -/
def isLatch (sel : Nat) : Bool := decide (0x80 ≤ sel ∧ sel < 0x84)

/-- An operation that is not ALU-class reads a latch (R45). -/
def readsLatch (w : Dword) : Bool :=
  let x := readsFields w
  let sel (lo : Nat) : Nat := (w.extractLsb' lo 8).toNat
  !wordAlu w && ((x.1 && isLatch (sel 32)) || (x.2.1 && isLatch (sel 24)) || (x.2.2 && isLatch (sel 16)))

/-- A nonzero stride over a field fails its check (R45). -/
def strideBad (n : Nat) (x : Option RepField) (sel : Nat) (st : BitVec 3) : Bool :=
  decide (st ≠ 0) && (match x with
    | none => true
    | some k => (List.range n).any fun j =>
        let r : Int := (sel : Int) + (j : Int) * st.toInt
        decide (r < 0) || decide ((k.size : Int) ≤ r) || !groupOk k.group r.toNat (max k.size k.group))

/-- The word a REP repeats: the one after it in memory, or in its template. -/
def repeatedWord (s : State) (v : View) : Option Dword :=
  match v.p.exp with
  | some x => x.words[x.idx + 1]?
  | none => cachedWord s v.t.core v.t.ctx (v.p.pc + 8)

/-- Everything wrong with a REP and the word it repeats. -/
def repCauses (f : FmtP) (w : Dword) : List Nat :=
  let n := f.n1.toNat + 1
  let sh := repShape w
  let sel (lo : Nat) : Nat := (w.extractLsb' lo 8).toNat
  (if f.hi = 0 ∧ f.lo = 0 then [] else [0x02]) ++ (if repForbidden w then [0x08] else [])
    ++ (if readsLatch w then [0x05] else [])
    ++ (if strideBad n sh.d (sel 40) f.sd || strideBad n sh.a (sel 32) f.sa || strideBad n sh.b (sel 24) f.sb
          || strideBad n sh.c (sel 16) f.sc then [0x08] else [])

/-- REP (R45): after its checks the slot issues the instances; the chain passes through. -/
def execRep (f : FmtP) (s : State) : Host.Outcome State Fault Refusal :=
  issue s (fun v => match repeatedWord s v with
      | none => []
      | some w => repCauses f w)
    (fun v => (repeatedWord s v).isNone)
    fun v => match repeatedWord s v with
      | none => s
      | some w => s.putSlot v { v.p with
          rep := some { j := 0, n := f.n1.toNat + 1, word := w, sd := f.sd, sa := f.sa, sb := f.sb, sc := f.sc } }

/-- A selector field moved `j` strides on. -/
def stepField (w : Dword) (lo j : Nat) (st : BitVec 3) : Dword :=
  let x := w.extractLsb' lo 8 + BitVec.ofInt 8 ((j : Int) * st.toInt)
  setBits w lo 8 x.toNat

/-- Instance `j` of a REP: its fields stepped, and its CH set but for the last one (R45). -/
def RepRun.instance_ (r : RepRun) : Dword :=
  let w := stepField (stepField (stepField (stepField r.word 40 r.j r.sd) 32 r.j r.sa) 24 r.j r.sb) 16 r.j r.sc
  if r.j + 1 < r.n then w ||| 0x0020000000000000 else w

end Sys2Proof.Machine
end

