-- ==== Sys2Proof/Machine/SaveArea.lean ====
section
/-!
DEFINITION. The save area of a team (R408, R409): its bytes from the team's state, and the team's state from its bytes.

R408 gives the parts and what each holds; where the fields of a slot's part, of SHAPE, of a tag and of a resume transfer lie
within their part is the model's choice (log entry 80).
-/

namespace Sys2Proof.Machine

/-- Granules of a team's divergence stack area (R149). -/
def stackGranules (waves : Nat) : Nat := (512 * waves + 4095) / 4096

/-- The team's commands. -/
def teamCmds (s : State) (t : Team) : List CopyCmd := s.cmds.filter fun c => decide (c.team = t.id ∧ c.op ≠ 8)

/-- Some slot of the team satisfies `p`. -/
def Team.anySlot (t : Team) (p : Slot → Bool) : Bool :=
  t.waves.any fun w => decide (w.status = .running) && ((w.a.live && p w.a) || (w.b.live && p w.b))

/-- The slot is held on a record. -/
def Slot.isHeld (p : Slot) : Bool := match p.status with
  | .held _ => true
  | _ => false

/-- FEAT: the features a team's state uses (R409). -/
def featBits (s : State) (t : Team) : Nat :=
  let bit (b : Bool) (i : Nat) : Nat := if b then 2 ^ i else 0
  let cnt := t.attach.any fun p => ((s.segment? t.ctx p.1).map Segment.cnt).getD false
  bit (t.anySlot fun p => decide (p.pers ≠ 0)) 0 + bit (t.accs.any Acc.res) 1
    + bit (t.wslots.any fun x => x.v && x.win && decide (8 ≤ x.stf)) 2 + bit cnt 3 + bit (t.chip ≠ []) 4
    + bit (t.anySlot fun p => p.mxst.getLsbD 63) 5 + bit (teamCmds s t ≠ []) 6 + bit (t.anySlot Slot.isHeld) 7

/-! ### The offsets of the parts (R408) -/

/-- Where the parts after the waves begin: stack area, scratchpad, lane slices, accumulators, weight-store slots. -/
def Team.stackOff (t : Team) : Nat := 256 + 32768 * t.waves.length

def Team.scratchOff (t : Team) : Nat := t.stackOff + 4096 * stackGranules t.waves.length

def Team.laneOff (t : Team) : Nat := t.scratchOff + t.scratchSize

def Team.accOff (t : Team) : Nat := t.laneOff + t.laneBytes * 96 * t.waves.length

def Team.wslotOff (t : Team) : Nat := t.accOff + 4112 * t.accs.length

def Team.cmdOff (t : Team) : Nat := t.wslotOff + 4368 * t.wslots.length

/-- The commands a team's area holds: those of the save, whatever has become of them since, or those it has now (R145,
R401). -/
def savedCount (s : State) (t : Team) : Nat := if t.status = .saved then t.savedCmds.length else (teamCmds s t).length

/-- Where the attachments' part begins. -/
def attachOff (s : State) (t : Team) : Nat := t.cmdOff + 64 * savedCount s t

/-- Bytes of a team's save area (R408). -/
def saveSize (s : State) (t : Team) : Nat := attachOff s t + 256

/-- Bytes of an area whose contents the spec leaves open. -/
def openBytes (t : Team) (time off n : Nat) : List Byte := (List.range n).map fun i => Config.saveByte t.id time (off + i)

/-! ### A slot's part -/

/-- The registers a slot's part holds: s32 to s59, and s63. -/
def bankNumbers : List Nat := ((List.range 28).map fun i => 32 + i) ++ [63]

/-- The index of a held record in its ring; all ones while it has still to be written, and where no record holds the slot. -/
def heldIndex (s : State) (p : Slot) : Nat := match p.status with
  | .held r => ((s.written.find? fun w => w.record.id = r).map Written.index).getD (2 ^ 64 - 1)
  | _ => 2 ^ 64 - 1

/-- The REP a slot is in, in 24 bytes. -/
def repBytes : Option RepRun → List Byte
  | none => List.replicate 24 0
  | some r => bytesOf 1 4 ++ bytesOf r.j 4 ++ bytesOf r.n 4
      ++ bytesOf (r.sd.toNat + 8 * r.sa.toNat + 64 * r.sb.toNat + 512 * r.sc.toNat) 4 ++ bytesOf r.word.toNat 8

/-- The REP a slot's part names. -/
def repRead (l : List Byte) : Option RepRun :=
  let n (o k : Nat) : Nat := ofBytes ((l.drop o).take k)
  let x := n 12 4
  if n 0 4 = 0 then none
  else some { j := n 4 4, n := n 8 4, word := BitVec.ofNat 64 (n 16 8), sd := BitVec.ofNat 3 x, sa := BitVec.ofNat 3 (x / 8)
              sb := BitVec.ofNat 3 (x / 64), sc := BitVec.ofNat 3 (x / 512) }

/-- A slot's part, 292 bytes: registers, owned lanes and mask, PC, personality, guest PC, REP, %fmask, %mxst, %epib and the
epilogue binding, that it holds no chain and whether it is live, replays, is in the service range, is held or waits for its
launch's START, and the held record's ring index (R408). -/
def slotBytes (s : State) (p : Slot) : List Byte :=
  (bankNumbers.flatMap fun n => bytesOf (cellGet p.bank n).toNat 4) ++ bytesOf p.owned.toNat 12 ++ bytesOf p.mask.toNat 12
    ++ bytesOf (if p.pers = 0 then p.pc.toNat else 0) 8 ++ bytesOf p.pers 4 ++ bytesOf (if p.pers = 0 then 0 else p.pc.toNat) 8
    ++ repBytes p.rep ++ bytesOf p.fmask.toNat 12 ++ bytesOf p.mxst.toNat 8 ++ bytesOf p.epib.toNat 8
    ++ bytesOf (if p.epi.isSome then 1 else 0) 4 ++ bytesOf (p.epi.getD 0).toNat 64
    ++ bytesOf (p.live.toNat + 2 * p.replay.toNat + 4 * p.svcOk.toNat + 8 * p.isHeld.toNat + 16 * (!p.chainOpen).toNat
      + 32 * (decide (p.status = .startHold)).toNat) 4
    ++ bytesOf (heldIndex s p) 8

/-- The record that holds a slot of a team another package saved: the one in the context's ring at the index of its part, or
the team's number for those it knows nothing of (R408, R410). -/
def heldRecord (s : State) (t : Team) (fresh idx : Nat) : Nat :=
  ((s.written.find? fun w => decide (w.record.ctx = t.ctx ∧ w.index = idx)).map fun w => w.record.id).getD fresh

/-- The status of a slot of a team another package saved. -/
def statusRead (s : State) (t : Team) (fresh flags idx : Nat) : SlotStatus :=
  if flags / 8 % 2 = 1 then .held (heldRecord s t fresh idx) else if flags / 32 % 2 = 1 then .startHold else .stopped

/-- A saved slot with what its part holds. One whose record has been disposed of since the save is as the disposition left it
(R401). -/
def slotRead (s : State) (t : Team) (p : Slot) (l : List Byte) : Slot :=
  let n (o k : Nat) : Nat := ofBytes ((l.drop o).take k)
  let pers := n 148 4
  let flags := n 280 4
  if t.adopted.isNone ∧ decide (flags / 8 % 2 = 1) ≠ p.isHeld then p
  else { p with
    bank := cellSetAll [] (bankNumbers.zipIdx.map fun x => (x.1, BitVec.ofNat 32 (n (4 * x.2) 4)))
    owned := BitVec.ofNat 96 (n 116 12), mask := BitVec.ofNat 96 (n 128 12), pers := pers
    pc := BitVec.ofNat 64 (if pers = 0 then n 140 8 else n 152 8), rep := repRead ((l.drop 160).take 24)
    fmask := BitVec.ofNat 96 (n 184 12), mxst := BitVec.ofNat 64 (n 196 8), epib := BitVec.ofNat 64 (n 204 8)
    epi := if n 212 4 = 0 then none else some (BitVec.ofNat 512 (n 216 64))
    live := decide (flags % 2 = 1), replay := decide (flags / 2 % 2 = 1), svcOk := decide (flags / 4 % 2 = 1)
    status := match t.adopted with
      | some fresh => statusRead s t fresh flags (n 284 8)
      | none => p.status }

/-! ### A wave's part and its divergence stack -/

/-- A wave's part: its vector registers, predicates and shared scalars, then each slot's (R408). -/
def waveImage (s : State) (t : Team) (time off : Nat) (w : Wave) : List Byte :=
  ((List.range 6144).flatMap fun i => bytesOf (cellGet w.v i).toNat 4)
    ++ ((List.range 8).flatMap fun n => bytesOf (readKReg w n).toNat 12)
    ++ ((List.range 32).flatMap fun n => bytesOf (cellGet w.s n).toNat 4)
    ++ slotBytes s w.a ++ openBytes t time (off + 25092) 3692 ++ slotBytes s w.b ++ openBytes t time (off + 29076) 3692

/-- A divergence stack entry's 16 bytes, in the core's own encoding (R341). -/
def stackEntry (e : DivEntry) : List Byte :=
  let kind := match e.kind with
    | .unif => 0 | .split => 1 | .defer => 2 | .merge => 3
  (List.range 16).map fun i => Config.stackByte (kind + 4 * e.ownerB.toNat) e.pc.toNat e.lanes.toNat i

/-- A wave's 512 bytes of stack area, the oldest entry first. -/
def stackImage (t : Team) (time off : Nat) (w : Wave) : List Byte :=
  w.stack.reverse.flatMap stackEntry ++ openBytes t time (off + 16 * w.stack.length) (512 - 16 * w.stack.length)

/-- A divergence stack entry from its kind and owner, PC and lanes. -/
def stackEntryOf (x : Nat × Nat × Nat) : DivEntry :=
  { kind := match x.1 % 4 with
      | 0 => .unif | 1 => .split | 2 => .defer | _ => .merge
    ownerB := decide (x.1 / 4 % 2 = 1), pc := BitVec.ofNat 64 x.2.1, lanes := BitVec.ofNat 96 x.2.2 }

/-- A wave's divergence stack from its 512 bytes, of 32 entries at most (R341): those the wave had where the bytes are still
theirs, else what the core reads in them. -/
def stackFrom (t : Team) (w : Wave) (l : List Byte) : List DivEntry :=
  let own := w.stack.reverse.flatMap stackEntry
  if t.adopted.isNone ∧ l.take own.length = own then w.stack else ((Config.stackRead l).take 32).map stackEntryOf

/-- A wave with what its part and its stack area hold; k0 reads as all ones whatever the part says, and a wave without a live
slot has exited. -/
def waveRead (s : State) (t : Team) (w : Wave) (l stack : List Byte) : Wave :=
  let n (o k : Nat) : Nat := ofBytes ((l.drop o).take k)
  let a := slotRead s t w.a ((l.drop 24800).take 3984)
  let b := slotRead s t w.b ((l.drop 28784).take 3984)
  { w with
    status := if w.status = .running ∧ !a.live ∧ !b.live then .exited else w.status
    v := cellSetAll [] ((List.range 6144).map fun i => (i, BitVec.ofNat 32 (n (4 * i) 4)))
    k := cellSetAll [] ((List.range 7).map fun i => (i + 1, BitVec.ofNat 96 (n (24588 + 12 * i) 12)))
    s := cellSetAll [] ((List.range 32).map fun i => (i, BitVec.ofNat 32 (n (24672 + 4 * i) 4)))
    a := a, b := b, stack := stackFrom t w stack }

/-! ### Accumulators and weight-store slots -/

/-- An accumulator's part: the MSPILL image with STRIDE 128 (R272, R408). -/
def accSaved (a : Acc) : List Byte := ((List.range 32).flatMap (imageRow a)) ++ bytesOf (0xA5000000 + a.bits) 16

/-- An accumulator's part is one R272 lets software write: MAGIC stands, and no reserved bit is set (R8). -/
def accPartOk (l : List Byte) : Bool :=
  let w := ofBytes (l.drop 4096)
  decide (w / 2 ^ 24 = 0xA5) && decide (w % 2 ^ 24 < 8)

/-- An accumulator from its part. -/
def accRead (l : List Byte) : Acc :=
  let w := ofBytes (l.drop 4096)
  let res := decide (w / 2 % 2 = 1)
  { tyI := decide (w % 2 = 1), res := res, sat := decide (w / 4 % 2 = 1)
    el := cellSetAll [] ((List.range 32).flatMap fun r =>
      (fillRow res ((l.drop (128 * r)).take 128)).zipIdx.map fun c => (32 * r + c.2, c.1)) }

/-- A slot's tag in 16 bytes: the raw offsets of the lines by the first and the distance to the next. -/
def tagBytes (x : WSlot) : List Byte :=
  let o (i : Nat) : Nat := (x.roff[i]?).getD 0
  bytesOf (x.v.toNat + 2 * x.win.toNat + 4 * x.sk) 1 ++ bytesOf x.stf 1 ++ bytesOf x.window 1 ++ bytesOf x.ks 1
    ++ bytesOf (o 0) 6 ++ bytesOf (BitVec.ofInt 48 ((o 1 : Int) - o 0)).toNat 6

/-- A weight-store slot's part (R408). -/
def wslotSaved (x : WSlot) : List Byte := cellList x.lines 0 4096 ++ cellList x.scale 0 256 ++ tagBytes x

/-- A weight-store slot from its part. -/
def wslotRead (x : WSlot) (l : List Byte) : WSlot :=
  let n (o k : Nat) : Nat := ofBytes ((l.drop (4352 + o)).take k)
  let y := { x with lines := cellSetAll [] (addrBytes 0 (l.take 4096)), scale := cellSetAll [] (addrBytes 0 ((l.drop 4096).take 256)) }
  if (l.drop 4352).take 16 = tagBytes x then y
  else
    let win := decide (n 0 1 / 2 % 2 = 1)
    let step := (BitVec.ofNat 48 (n 10 6)).toInt
    { y with
      v := decide (n 0 1 % 2 = 1), win := win, sk := n 0 1 / 4, stf := n 1 1, window := n 2 1, ks := n 3 1
      roff := if win then (List.range 32).map fun j => ((n 4 6 : Int) + step * j).toNat else [] }

/-! ### Commands and attachments -/

/-- A command's part: its descriptor words, then the resume transfer: the row and the offset, and the operation with its
modifiers, whether it is halted, and its queue (R408). -/
def cmdSaved (c : CopyCmd) : List Byte :=
  let at_ : Nat × Nat := match c.status with
    | .active r o => (r, o)
    | .held r o => (r, o)
    | _ => (0, 0)
  ((List.range 12).flatMap fun i => bytesOf ((c.words[i]?).getD 0).toNat 4)
    ++ bytesOf at_.1 4 ++ bytesOf at_.2 4 ++ bytesOf c.rowIdx 4 ++ bytesOf c.m.toNat 2
    ++ bytesOf (c.op + 16 * (decide (c.status = .halted)).toNat) 1 ++ bytesOf c.qid 1

/-- A saved command with what its part holds. A COPYW of which the lines so far are not known does the slot it was in once more
(R136). -/
def cmdRead (l : List Byte) (c : CopyCmd) : CopyCmd :=
  let n (o k : Nat) : Nat := ofBytes ((l.drop o).take k)
  let row := if n 62 1 % 4 = 3 ∧ c.load = [] then n 48 4 / 32 * 32 else n 48 4
  { c with
    words := (List.range 12).map fun i => BitVec.ofNat 32 (n (4 * i) 4), rowIdx := n 56 4, m := BitVec.ofNat 16 (n 60 2)
    op := n 62 1 % 4, qid := n 63 1
    status := match c.status with
      | .held _ _ => .held row (n 52 4)
      | x => x }

/-- A command of a team another package saved: it is held where it was, or halted. -/
def cmdFresh (t : Team) (id : Nat) (l : List Byte) : CopyCmd :=
  let n (o k : Nat) : Nat := ofBytes ((l.drop o).take k)
  cmdRead l
    { id := id, core := t.core, team := t.id, ctx := t.ctx, sl := ⟨t.id, 0, false⟩, op := 0, qid := 0, m := 0, words := []
      rowIdx := 0, fenceMask := 0, trs := [], after := []
      status := if n 62 1 / 16 % 2 = 1 then .halted else .held 0 0 }

/-- The attachments' part: names and handles, 16 of them at most (R159, R408). -/
def attachSaved (t : Team) : List Byte :=
  ((t.attach.flatMap fun (p : Nat × Word) => bytesOf p.1 8 ++ bytesOf p.2.toNat 4 ++ bytesOf 0 4) ++ List.replicate 256 0).take 256

/-- The attachments of a part; a name of 0 ends them. -/
def attachRead (l : List Byte) : List (Nat × Word) :=
  let n (i o k : Nat) : Nat := ofBytes ((l.drop (16 * i + o)).take k)
  ((List.range 16).map fun i => (n i 0 8, BitVec.ofNat 32 (n i 8 4))).takeWhile fun p => decide (p.1 ≠ 0)

/-! ### The header (R409) and the whole area -/

/-- SHAPE: waves, SCRG, k, LANES, accumulators, commands, gang index, team, stage, one after the other (R409). -/
def shapeBytes (s : State) (t : Team) : List Byte :=
  bytesOf t.waves.length 1 ++ bytesOf (t.scratchSize / 4096) 1 ++ bytesOf (stackGranules t.waves.length) 1
    ++ bytesOf t.laneBytes 2 ++ bytesOf t.accs.length 1 ++ bytesOf (teamCmds s t).length 2 ++ bytesOf t.gang 4
    ++ bytesOf t.num 1 ++ bytesOf t.stage 1 ++ bytesOf 0 2

/-- The header (R409). -/
def saveHeader (s : State) (t : Team) (time : Nat) : List Byte :=
  let feat := featBits s t
  bytesOf 0x53415645 4 ++ bytesOf 0xB0 4 ++ bytesOf feat 8
    ++ (if feat / 4 % 2 = 1 then sealId else openBytes t time 0x10 8)
    ++ bytesOf t.ctx 4 ++ bytesOf 0 4 ++ shapeBytes s t ++ List.replicate 208 0

/-- The whole save area (R408). -/
def saveImage (s : State) (t : Team) (time : Nat) : List Byte :=
  let n := t.waves.length
  saveHeader s t time ++ (t.waves.zipIdx.flatMap fun w => waveImage s t time (256 + 32768 * w.2) w.1)
    ++ (t.waves.zipIdx.flatMap fun w => stackImage t time (t.stackOff + 512 * w.2) w.1)
    ++ openBytes t time (t.stackOff + 512 * n) (4096 * stackGranules n - 512 * n) ++ cellList t.scratch 0 t.scratchSize
    ++ cellList t.lane 0 (t.laneBytes * 96 * n) ++ t.accs.flatMap accSaved ++ t.wslots.flatMap wslotSaved
    ++ (teamCmds s t).flatMap cmdSaved ++ attachSaved t

/-- `n` bytes from an offset of an area. -/
def areaPart (l : List Byte) (o n : Nat) : List Byte := (l.drop o).take n

/-- A saved team with what its area holds (R410). -/
def teamRead (s : State) (t : Team) (l : List Byte) : Team :=
  { t with
    waves := t.waves.zipIdx.map fun w =>
      waveRead s t w.1 (areaPart l (256 + 32768 * w.2) 32768) (areaPart l (t.stackOff + 512 * w.2) 512)
    scratch := cellSetAll [] (addrBytes 0 (areaPart l t.scratchOff t.scratchSize))
    lane := cellSetAll [] (addrBytes 0 (areaPart l t.laneOff (t.laneBytes * 96 * t.waves.length)))
    accs := t.accs.zipIdx.map fun x => accRead (areaPart l (t.accOff + 4112 * x.2) 4112)
    wslots := t.wslots.zipIdx.map fun x => wslotRead x.1 (areaPart l (t.wslotOff + 4368 * x.2) 4368)
    attach := attachRead (areaPart l (attachOff s t) 256) }

/-- The command parts of an area. -/
def cmdParts (t : Team) (n : Nat) (l : List Byte) : List (List Byte) :=
  (List.range n).map fun i => areaPart l (t.cmdOff + 64 * i) 64

/-- The commands of a saved team's area, each with its number. -/
def areaCmds (t : Team) (l : List Byte) : List (Nat × List Byte) := t.savedCmds.zip (cmdParts t t.savedCmds.length l)

/-- A reserved bit is set in a part of the area, or an accumulator's image is none: with the header's bits, what R410 refuses
(R8, R272, R279). -/
def areaReserved (t : Team) (l : List Byte) : Bool :=
  t.waves.any (fun w => decide (w.a.mxst &&& ~~~mxstBits ≠ 0 ∨ w.b.mxst &&& ~~~mxstBits ≠ 0))
    || (List.range t.accs.length).any fun i => !accPartOk (areaPart l (t.accOff + 4112 * i) 4112)

end Sys2Proof.Machine
end

