-- ==== Sys2Proof/Machine/Frontend.lean ====
section
/-!
DEFINITION. The front end: taking records (R324 to R329), FEED (R330), the readiness and the end of a launch (R328, R331).
-/

namespace Sys2Proof.Machine

/-! ### Rejection (R325) -/

/-- A record is rejected: REASON and IDX are written and the context is told; no second record for a queue (R325,
R398). -/
def State.rejectRec (s : State) (q idx reason : Nat) (addr : Dword) : State :=
  let x := s.queue q
  let s1 := s.modQueue q fun (x : Queue) => { x with reason := BitVec.ofNat 8 reason, idx := BitVec.ofNat 32 idx }
  s1.addRec { FRec.blank s .reject reason x.cur.ctx with
    addr := addr, info := BitVec.ofNat 64 q, info2 := BitVec.ofNat 32 idx } false

/-! ### The launch record (R326, R327) -/

/-- The launch of a record, its values taken from the kernel descriptor where it asks for them (R327). -/
def launchOf (id q idx ctx : Nat) (d : List Byte) (k : Kernel) : Launch :=
  let or0 (x y : Nat) : Nat := if x = 0 then y else x
  let gx := recBits d 4 0 32
  let gy := recBits d 8 16 16
  let gz := recBits d 8 0 16
  let accs := recBits d 0x0C 13 4
  let scrg := recBits d 0x10 16 16
  let lanes := recBits d 0x10 0 16
  { id := id, ctx := ctx, queue := q, idx := idx, raw := d, status := .pending, cores := decide (recBits d 0 23 1 = 1)
    prio := recBits d 0 16 3, kidx := recBits d 0 0 16, gx := gx, gy := gy, gz := gz, gcount := gx * gy * gz
    teams := or0 (recBits d 0x0C 27 5) k.teams, waves := or0 (recBits d 0x0C 22 5) k.waves
    stages := or0 (recBits d 0x0C 17 5) k.stages, accs := if accs = 15 then k.accs else accs
    scrg := if scrg = 0xFFFF then k.scrg else scrg, lanes := if lanes = 0xFFFF then k.lanes else lanes
    chipg := recBits d 0x14 24 8, pdist := recBits d 0x18 0 32, start := recBits d 0x20 0 64
    args := BitVec.ofNat 64 (recBits d 0x28 0 64), waddr := BitVec.ofNat 64 (recBits d 0x30 0 64)
    wthr := BitVec.ofNat 64 (recBits d 0x38 0 64), caddr := BitVec.ofNat 64 (recBits d 0x40 0 64)
    csco := recBits d 0x48 16 3, cval := recBits d 0x48 0 16
    segs := [0x50, 0x58, 0x60, 0x68].map fun o => recBits d o 0 64
    entry := k.entry, pers := k.pers, bound := false, placed := [], stage0 := [] }

/-- Reason 0x01: a reserved bit, CSCO = 7 or ACCS of 9 to 14 (R327). -/
def launchMalformed (d : List Byte) : Bool :=
  let accs := recBits d 0x0C 13 4
  decide (recBits d 0 19 4 ≠ 0) || decide (recBits d 0x0C 0 13 ≠ 0) || decide (recBits d 0x14 0 24 ≠ 0)
    || decide (recBits d 0x1C 0 32 ≠ 0) || decide (recBits d 0x48 19 13 ≠ 0) || decide (recBits d 0x4C 0 32 ≠ 0)
    || decide (ofBytes (d.drop 0x70) ≠ 0) || decide (recBits d 0x48 16 3 = 7) || decide (9 ≤ accs ∧ accs ≤ 14)

/-- Teams of the launch that one core holds at once with nothing else resident (R332). -/
def Launch.perCore (l : Launch) : Nat :=
  let cap (have_ need : Nat) : Nat := if need = 0 then 16 else have_ / need
  min (min (cap 16 l.waves) (cap 192 (l.scrg + stackGranules l.waves)))
    (min (cap 262144 (l.lanes * 96 * l.waves)) (cap 8 l.accs))

/-- Chip scratchpad granules of a die that teams may be granted: below the present bound and any bound requested, and not
reserved (R113, R115). -/
def grantable (s : State) (die : Nat) : List Nat :=
  let x := s.carve die
  let bound := if x.sts = 1 ∨ x.sts = 2 then min x.cur x.csz else x.cur
  (List.range (8 * bound)).filter fun g => !((s.chrsv[die]?).getD 0).getLsbD g

/-- The island of a cluster's cores is halted (R440). -/
def clusterOff (s : State) (cl : Nat) : Bool := ((s.islands[islandOf (24 * cl)]?).map Island.off).getD true

/-- Gang-stages of the launch that fit an empty die (R353). -/
def perDie (s : State) (l : Launch) (die : Nat) : Nat :=
  let on := ((List.range 8).filter fun i => !clusterOff s (8 * die + i)).length
  let n := on * (l.perCore * (24 / l.teams))
  if l.chipg = 0 then n else min n ((grantable s die).length / (l.teams * l.chipg))

/-- A co-resident launch fits the package at once with no other work resident (R353). -/
def coresidentFits (s : State) (l : Launch) : Bool :=
  decide (l.gcount * l.stages ≤ ((List.range 4).map (perDie s l)).sum)

/-- The first reason of R327, once the kernel descriptor is known. -/
def launchReason (s : State) (l : Launch) : Option Nat :=
  if l.gx = 0 ∨ l.gy = 0 ∨ l.gz = 0 ∨ 0xFFFFFFFE < l.gcount then some 0x03
  else if l.teams = 0 ∨ 24 < l.teams ∨ l.waves = 0 ∨ 16 < l.waves ∨ l.stages = 0 ∨ 16 < l.stages then some 0x04
  else if 192 < l.scrg + stackGranules l.waves ∨ l.lanes % 16 ≠ 0 ∨ 262144 < l.lanes * 96 * l.waves ∨ 64 < l.chipg then
    some 0x05
  else if l.waddr.extractLsb' 0 3 ≠ 0 ∨ l.caddr.extractLsb' 0 3 ≠ 0 then some 0x06
  else if l.cores && !coresidentFits s l then some 0x07
  else none

/-- A launch record: the launch, or the first reason that rejects it (R327). -/
def launchCheck (s : State) (q idx ctx : Nat) (d : List Byte) (k : Option Kernel) : Except Nat Launch :=
  if launchMalformed d then .error 0x01
  else match k with
  | none => .error 0x02
  | some k =>
    let l := launchOf s.nextLaunch q idx ctx d k
    match launchReason s l with
    | some r => .error r
    | none => .ok l

/-! ### The FEED record (R329) -/

/-- The FEED of a record. -/
def feedOf (q ctx : Nat) (d : List Byte) : FeedRun :=
  { queue := q, ctx := ctx, wsco := recBits d 0 16 3, count := recBits d 0 0 16, logw := recBits d 4 16 5
    rsz := recBits d 4 0 12, src := BitVec.ofNat 64 (recBits d 8 0 64), wring := BitVec.ofNat 64 (recBits d 0x10 0 64)
    wtail := BitVec.ofNat 64 (recBits d 0x18 0 64), whead := BitVec.ofNat 64 (recBits d 0x20 0 64), t := none }

/-- The reason that rejects a FEED record (R329). -/
def feedReason (d : List Byte) (f : FeedRun) : Option Nat :=
  if recBits d 0 19 5 ≠ 0 ∨ recBits d 4 21 11 ≠ 0 ∨ recBits d 4 12 4 ≠ 0 ∨ ofBytes (d.drop 0x28) ≠ 0 ∨ f.wsco = 7 then some 0x01
  else if f.logw = 0 ∨ 20 < f.logw ∨ f.rsz = 0 ∨ 256 < f.rsz ∨ f.count = 0 ∨ 2 ^ f.logw < f.count
      ∨ f.src.toNat % 16 ≠ 0 ∨ f.wring.toNat % 16 ≠ 0 then some 0x08
  else none

/-! ### Taking a record (R324) -/

/-- The queue is enabled and no FEED of it is under way. -/
def feOpen (s : State) (q : Nat) : Bool := (s.queue q).cur.en && !s.feeds.any fun f => decide (f.queue = q)

/-- The queue shows a record to take. -/
def feHasWork (s : State) (q : Nat) : Bool :=
  let x := s.queue q
  feOpen s q && (match ctrGot s x.cur.ctx x.cur.tail false with
    | (s1, .got c) => reached (ctrValue (s1.ctrSettle c) c) (x.next + 1)
    | _ => false)

/-- The queue whose turn it is: the first with work from `turn` on (R324). -/
def feTurn (s : State) : Option Nat :=
  ((List.range 64).map fun i => (s.fe.turn + i) % 64).find? fun q => feHasWork s q

/-- A release of the front end at a scope: what it writes it writes at one point, so what is left to perform is what was
visible to it from others (R317). -/
def State.frontRelease (s : State) (scope : Nat) : State := s.releaseWrites frontSeat (fun _ => false) scope

/-- What such a release needs first (R416). -/
def frontNeeds (s : State) (scope : Nat) : List Need :=
  if 4 ≤ scope then coverNeeds s (coveredBy frontSeat fun _ => false) else []

/-- The record is read: NEXT and the head counter go on, a release at .sys (R324). -/
def State.feAdvance (s : State) (q : Nat) (head : CtrPlace) : State :=
  let s1 := ((s.frontRelease 5).ctrAdd head 1).1
  let s2 := s1.modQueue q fun (x : Queue) => { x with next := x.next + 1, sts := 1 }
  { s2 with fe := { s2.fe with turn := (q + 1) % 64 } }

/-- Act on a record taken as number `n` of queue `q` (R325). -/
def State.feRecord (s : State) (q ctx : Nat) (n addr : Dword) (d : List Byte) (k : Option Kernel) : State :=
  let idx := n.toNat % 2 ^ 32
  match recBits d 0 24 8 with
  | 1 =>
    (match launchCheck s q idx ctx d k with
    | .error r => s.rejectRec q idx r addr
    | .ok l => { s with launches := s.launches ++ [l], nextLaunch := s.nextLaunch + 1 })
  | 2 =>
    let f := feedOf q ctx d
    (match feedReason d f with
    | some r => s.rejectRec q idx r addr
    | none => { s with feeds := s.feeds ++ [f] })
  | _ => s.rejectRec q idx 0x01 addr

/-- Read record NEXT of a queue and act on it. -/
def feTake (s : State) (q : Nat) : State :=
  let x := s.queue q
  let ctx := x.cur.ctx
  match ctrGot s ctx x.cur.head true with
  | (s1, .wait ns) => s1.request ns
  | (s1, .bad _) => s1.queueDisable q x.cur.head
  | (s1, .got head) =>
    match bytesGot s1 frontSeat ctx (recordAddr x x.next) 128 with
    | (s2, .wait ns) => s2.request ns
    | (s2, .bad _) => s2.queueDisable q (recordAddr x x.next)
    | (s2, .got d) =>
      if frontNeeds s2 5 ≠ [] then s2.request (frontNeeds s2 5)
      else if recBits d 0 24 8 = 1 then
        match kernelGot s2 ctx (recBits d 0 0 16) with
        | (s3, .wait ns) => s3.request ns
        | (s3, .got k) => (s3.feAdvance q head).feRecord q ctx x.next (recordAddr x x.next) d k
        | (s3, .bad _) => (s3.feAdvance q head).feRecord q ctx x.next (recordAddr x x.next) d none
      else (s2.feAdvance q head).feRecord q ctx x.next (recordAddr x x.next) d none

/-- FRONT_END_TAKE: the front end takes the next record of a queue whose turn it is (R324). -/
def execFrontEndTake (q : Nat) (s : State) : Host.Outcome State Fault Refusal :=
  let x := s.queue q
  if !feOpen s q then .next s
  else match ctrGot s x.cur.ctx x.cur.tail false with
  | (s1, .bad _) => .next (s1.queueDisable q x.cur.tail)
  | (s1, .wait ns) => .next (s1.request ns)
  | (s1, .got c) => .next (if feTurn s1 = some q then feTake (s1.ctrSettle c) q else s)

/-! ### FEED (R330) -/

/-- What one piece of a FEED comes to. -/
inductive FeedStep
  | done (s : State)
  | wait (s : State) (ns : List Need)
  | bad (s : State) (addr : Dword)
  deriving DecidableEq, Repr

/-- Copy 16 bytes. -/
def feedPiece (s : State) (ctx : Nat) (src dst : Dword) : FeedStep :=
  match bytesGot s frontSeat ctx src 16 with
  | (s1, .wait ns) => .wait s1 ns
  | (s1, .bad _) => .bad s1 src
  | (s1, .got d) =>
    match spanGot s1 ctx dst 16 .store with
    | (s2, .wait ns) => .wait s2 ns
    | (s2, .bad _) => .bad s2 dst
    | (s2, .got t) => .done (s2.spanWrite t d)

/-- Copy the pieces from number `i` on; `n` of them are left. -/
def feedCopy (f : FeedRun) (t i : Nat) (s : State) : Nat → FeedStep
  | 0 => .done s
  | n + 1 =>
    let e := i / f.rsz
    let o := 16 * (i % f.rsz)
    let dst := f.wring + BitVec.ofNat 64 (16 * f.rsz * ((t + e) % 2 ^ f.logw) + o)
    match feedPiece s f.ctx (f.src + BitVec.ofNat 64 (16 * i)) dst with
    | .done s1 => feedCopy f t (i + 1) s1 n
    | r => r

/-- The FEED under way ends. -/
def State.feedEnd (s : State) (f : FeedRun) : State :=
  ({ s.modQueue f.queue (fun (x : Queue) => { x with sts := if x.cur.en then 1 else x.sts }) with
    feeds := s.feeds.drop 1 } : State).takeOver

/-- A fault during a FEED disables its queue (R330). -/
def State.feedFault (s : State) (f : FeedRun) (addr : Dword) : State :=
  (({ s with feeds := s.feeds.drop 1 } : State).takeOver).queueDisable f.queue addr

/-- FEED: once the work ring has room, the entries are copied and the tail goes on, a release at WSCO (R330). -/
def execFeed (s : State) : Host.Outcome State Fault Refusal :=
  match s.feeds with
  | [] => .next s
  | f :: _ =>
    match ctrGot s f.ctx f.wtail true with
    | (s1, .wait ns) => .next (s1.request ns)
    | (s1, .bad _) => .next (s1.feedFault f f.wtail)
    | (s1, .got tail) =>
      match ctrGot s1 f.ctx f.whead false with
      | (s2, .wait ns) => .next (s2.request ns)
      | (s2, .bad _) => .next (s2.feedFault f f.whead)
      | (s2, .got head) =>
        let s3 := (s2.ctrSettle tail).ctrSettle head
        let t := f.t.getD (ctrValue s3 tail)
        if !reached (ctrValue s3 head) (t + BitVec.ofNat 64 f.count - BitVec.ofNat 64 (2 ^ f.logw)) then
          .next { s3.modQueue f.queue (fun (x : Queue) => { x with sts := 2 }) with
            feeds := { f with t := some t } :: s3.feeds.drop 1 }
        else match feedCopy f t.toNat 0 s3 (f.count * f.rsz) with
        | .wait s4 ns => .next ({ s4 with feeds := { f with t := some t } :: s4.feeds.drop 1 }.request ns)
        | .bad s4 a => .next (s4.feedFault f a)
        | .done s4 =>
          if frontNeeds s4 f.wsco ≠ [] then
            .next ({ s4 with feeds := { f with t := some t } :: s4.feeds.drop 1 }.request (frontNeeds s4 f.wsco))
          else .next (((s4.frontRelease f.wsco).ctrAdd tail (BitVec.ofNat 64 f.count)).1.feedEnd f)

/-! ### Launches (R328, R331) -/

/-- Change a launch. -/
def State.modLaunch (s : State) (id : Nat) (f : Launch → Launch) : State :=
  { s with launches := s.launches.map fun l => if l.id = id then f l else l }

/-- Remove a launch. -/
def State.dropLaunch (s : State) (id : Nat) : State :=
  { s with launches := s.launches.filter fun l => decide (l.id ≠ id)
           fe := s.fe.forget [id] }

/-- The Equinox time is within 20,000 ns of START, or past it (R331). -/
def startNear (s : State) (l : Launch) : Bool := decide (l.start = 0) || decide (l.start ≤ s.eqx.now.toNat + 20000)

/-- A pending launch whose START condition holds becomes ready. -/
def State.makeReady (s : State) (l : Launch) : State :=
  if startNear s l then s.modLaunch l.id fun (l : Launch) => { l with status := .ready } else s

/-- LAUNCH_READY: WADDR has once been seen at its threshold, and START is near; a fault on WADDR rejects the launch
(R331). -/
def execLaunchReady (launch : Nat) (s : State) : Host.Outcome State Fault Refusal :=
  match s.launch? launch with
  | none => .next s
  | some l =>
    if l.status ≠ .pending then .next s
    else if l.waddr = 0 ∨ l.seen then .next (s.makeReady l)
    else match ctrGot s l.ctx l.waddr false with
    | (s1, .wait ns) => .next (s1.request ns)
    | (s1, .bad _) => .next ((s1.rejectRec l.queue l.idx 0x09 l.waddr).dropLaunch l.id)
    | (s1, .got c) =>
      let s2 := s1.ctrSettle c
      .next (if reached (ctrValue s2 c) l.wthr then (s2.modLaunch l.id fun (l : Launch) => { l with seen := true }).makeReady l
        else s2)

/-- Let a slot held for START begin. -/
def Slot.begin_ (p : Slot) : Slot := if p.status = .startHold then { p with status := .running } else p

/-- The START of a team's launch has come. -/
def startDue (s : State) (t : Team) : Bool :=
  match s.launch? t.launch with
  | some l => decide (l.start ≤ s.eqx.now.toNat)
  | none => true

/-- START_TIME_REACHED: waves held for a START that has come begin to issue (R331). -/
def execStartTimeReached (s : State) : Host.Outcome State Fault Refusal :=
  let go (t : Team) : Team :=
    if startDue s t then { t with waves := t.waves.map fun w => { w with a := w.a.begin_, b := w.b.begin_ } } else t
  .next { s with teams := s.teams.map go }

/-- Every gang-stage of the launch has been placed. -/
def Launch.allPlaced (l : Launch) : Bool := decide (l.gcount * l.stages ≤ l.placed.length)

/-- No team of the launch is left (R328). -/
def launchEmpty (s : State) (l : Launch) : Bool := l.allPlaced && !s.teams.any fun t => decide (t.launch = l.id)

/-- The writes the completion release of a launch covers: its teams' own, what had happened before a team of it ended, and
what the front end sees (R317, R328). -/
def Launch.covered (l : Launch) (w : PWrite) : Bool :=
  coveredBy frontSeat (fun w => (agentOfTeam w.seat.who && decide (w.seat.launch = l.id)) || l.covers.contains w.id) w

/-- LAUNCH_COMPLETE: no team of the launch and no copy command of one is left; the completion add is a release at CSCO of
everything its waves did (R328). -/
def execLaunchComplete (launch : Nat) (s : State) : Host.Outcome State Fault Refusal :=
  match s.launch? launch with
  | none => .next s
  | some l =>
    if l.status ≠ .ready ∨ !launchEmpty s l then .next s
    else if l.caddr = 0 then .next (s.dropLaunch l.id)
    else match ctrGot s l.ctx l.caddr true with
    | (s1, .wait ns) => .next (s1.request ns)
    | (s1, .bad _) => .next ((s1.charge l.ctx 0x14 l.caddr 0).dropLaunch l.id)
    | (s1, .got c) =>
      let ns := if 4 ≤ l.csco then coverNeeds s1 l.covered else []
      if ns ≠ [] then .next (s1.request ns)
      else .next (((s1.perform l.csco l.covered).ctrAdd c (BitVec.ofNat 64 l.cval)).1.dropLaunch l.id)

end Sys2Proof.Machine
end

