-- ==== Sys2Proof/Machine/Placement.lean ====
section
/-!
DEFINITION. The dispatcher (R331 to R336): where a gang-stage goes, and the state its teams start in.
-/

namespace Sys2Proof.Machine

/-! ### Room on a core (R332) -/

/-- What a team takes of a core: wave places, granules, lane-slice bytes and accumulators. -/
structure TeamSize where
  waves : Nat
  granules : Nat
  lanes : Nat
  accs : Nat
  deriving DecidableEq, Repr, Inhabited

/-- The size of a launch's teams. -/
def Launch.size (l : Launch) : TeamSize :=
  { waves := l.waves, granules := l.scrg + stackGranules l.waves, lanes := l.lanes * 96 * l.waves, accs := l.accs }

/-- The size of a team. -/
def Team.size (t : Team) : TeamSize :=
  { waves := t.waves.length, granules := t.granules, lanes := t.laneBytes * 96 * t.waves.length, accs := t.accs.length }

/-- The teams on a core. -/
def teamsOn (s : State) (core : Nat) : List Team := s.teams.filter fun t => decide (t.core = core ∧ t.status = .placed)

/-- The core fits a team, the granules of the segments in `skip` counted as free (R332). -/
def coreFits (s : State) (skip : List (Nat × Nat)) (z : TeamSize) (core : Nat) : Bool :=
  let on := (teamsOn s core).map Team.size
  decide ((on.map TeamSize.waves).sum + z.waves ≤ 16) && decide (usedOn s skip core + z.granules ≤ 192)
    && decide ((on.map TeamSize.lanes).sum + z.lanes ≤ 262144) && decide ((on.map TeamSize.accs).sum + z.accs ≤ 8)

/-- The chip scratchpad granules of a die that are free to grant, lowest first (R112, R113, R332). -/
def freeChip (s : State) (die : Nat) : List Nat :=
  let held := (s.teams.filter fun t => decide (t.cluster / 8 = die)).flatMap Team.chip
  (grantable s die).filter fun g => !held.contains g

/-- The free wave places of a core, lowest first. -/
def freePlaces (s : State) (core : Nat) : List Nat :=
  let used := (teamsOn s core).flatMap fun t => t.waves.map Wave.place
  (List.range 16).filter fun p => !used.contains p

/-! ### Affinity (R333) -/

/-- The affinity segments of a launch that it can see, in list order, each once (R159, R333). -/
def affinity (s : State) (l : Launch) : List Segment :=
  l.segs.eraseDups.filterMap fun n => if n = 0 then none else match s.segment? l.ctx n with
    | some g => if g.persist ∨ g.launch = l.id then some g else none
    | none => none

/-- A segment's granules are placed or on their way (R333). -/
def Segment.here (g : Segment) : Bool := decide (g.state = .resident ∨ g.state = .refilling)

/-- The state in which the launch's own affinity segments cannot be evicted (R333). -/
def shielded (s : State) (l : Launch) : State :=
  let names := (affinity s l).map Segment.name
  let pin (g : Segment) : Segment := if g.ctx = l.ctx ∧ names.contains g.name then { g with pins := g.pins + 1 } else g
  { s with segs := s.segs.map pin }

/-- Affinity segments placed in each cluster. -/
def affinityCount (a : List Segment) (cl : Nat) : Nat := (a.filter fun g => g.here && decide (g.cluster = cl)).length

/-- The cluster with the most affinity segments, ties to the segment of lowest list index; none where none is placed. -/
def affinityCluster (a : List Segment) : Option Nat :=
  let cls := (a.filter Segment.here).map Segment.cluster
  let best := (cls.map (affinityCount a)).foldl max 0
  cls.find? fun c => affinityCount a c = best

/-! ### Clusters in order (R333, R334) -/

/-- The cores of a cluster. -/
def coresOf (cl : Nat) : List Nat := (List.range 24).map fun i => 24 * cl + i

/-- Free wave places and free granules of a cluster. -/
def clusterLoad (s : State) (cl : Nat) : Nat × Nat :=
  (((coresOf cl).map fun c => (freePlaces s c).length).sum, ((coresOf cl).map fun c => 192 - usedOn s [] c).sum)

/-- Insert a cluster into a list ordered least-loaded first: most free wave places, then most free granules, then the
lowest number (R333). -/
def insertCluster (ld : Nat → Nat × Nat) (c : Nat) : List Nat → List Nat
  | [] => [c]
  | x :: r =>
    if (ld x).1 < (ld c).1 ∨ ((ld x).1 = (ld c).1 ∧ (ld x).2 < (ld c).2) then c :: x :: r
    else x :: insertCluster ld c r

/-- Clusters, least-loaded first. -/
def byLoad (s : State) (cls : List Nat) : List Nat :=
  (cls.foldl (fun r c => insertCluster (fun x => clusterLoad s x) c r) [])

/-- The clusters a gang-stage may go to, in order of preference (R333, R334). -/
def clusterOrder (s : State) (l : Launch) (gang stage : Nat) : List Nat :=
  let all := (List.range 32).filter fun c => !clusterOff s c
  if stage = 0 then
    match affinityCluster (affinity s l) with
    | some c => [c]
    | none => byLoad s all
  else
    let c0 := ((l.stage0.find? fun p => p.1 = gang).map Prod.snd).getD 0
    let near := all.filter fun c => decide (c / 8 = c0 / 8 ∧ c ≠ c0)
    (all.filter fun c => decide (c = c0)) ++ byLoad s near ++ byLoad s (all.filter fun c => decide (c / 8 ≠ c0 / 8))

/-- The core of the first core-level affinity segment in a cluster (R335). -/
def homeCore (s : State) (l : Launch) (cl : Nat) : Option Nat :=
  (affinity s l).findSome? fun g => if g.here ∧ !g.level1 ∧ g.cluster = cl then g.stripe.head? else none

/-- Cores that a launch's teams can go to, in team order (R335): team 0 on the core of the affinity segment, if it is one of
them, and the others on the lowest. -/
def teamOrder (s : State) (l : Launch) (cl : Nat) (fit : List Nat) : List Nat :=
  match homeCore s l cl with
  | some c => if fit.contains c then c :: fit.filter fun x => decide (x ≠ c) else fit
  | none => fit

/-- Distinct cores for the teams, in team order (R335). -/
def pickCores (s : State) (skip : List (Nat × Nat)) (l : Launch) (cl : Nat) : Option (List Nat) :=
  let fit := (coresOf cl).filter (coreFits s skip l.size)
  let chip := decide (l.chipg * l.teams ≤ (freeChip s (cl / 8)).length)
  let order := teamOrder s l cl fit
  if chip && !clusterOff s cl && decide (l.teams ≤ order.length) then some (order.take l.teams) else none

/-! ### Starting a team (R336) -/

/-- The wave a placed team starts with (R336). -/
def startWave (l : Launch) (svc hold : Bool) (place : Nat) : Wave :=
  let a : Slot := { Slot.free with
    live := true, pc := l.entry, pers := l.pers, owned := BitVec.allOnes 96, mask := BitVec.allOnes 96, svcOk := svc
    status := if hold then .startHold else .running }
  { place := place, status := .running, v := [], k := [], a := a, b := .free, stack := []
    s := cellSet (cellSet [] 0 (l.args.extractLsb' 0 32)) 1 (l.args.extractLsb' 32 32) }

/-- An invalid weight-store slot (R252). -/
def WSlot.invalid : WSlot :=
  { v := false, win := false, sk := 0, stf := 0, window := 0, ks := 0, roff := [], lines := [], scale := [] }

/-- The coordinates of a gang in the grid; gangs added by GROW go on along x (R331, R347). -/
def gangCoords (l : Launch) (gang : Nat) : Nat × Nat × Nat :=
  if l.gy = 1 ∧ l.gz = 1 then (gang, 0, 0) else (gang % l.gx, gang / l.gx % l.gy, gang / l.gx / l.gy)

/-- A team as it starts (R149, R151, R153, R252, R336). -/
def startTeam (s : State) (l : Launch) (gang stage num core : Nat) (chip : List Nat) (pins : List Nat) : Team :=
  let (gx, gy, gz) := gangCoords l gang
  let svc := ((s.ctx? l.ctx).map fun c => c.inService l.entry).getD false
  let hold := decide (s.eqx.now.toNat < l.start)
  { id := s.nextTeam, ctx := l.ctx, launch := l.id, gang := gang, stage := stage, num := num, gx := gx, gy := gy, gz := gz
    cluster := clusterOf core, core := core, status := .placed
    waves := ((freePlaces s core).take l.waves).map (startWave l svc hold), scratchSize := 4096 * l.scrg, scratch := []
    laneBytes := l.lanes, lane := [], chip := chip, accs := List.replicate l.accs (.zero false false)
    wslots := List.replicate (8 * l.accs) .invalid, attach := [], member := true
    qstats := List.replicate 8 { iss := 0, cmp := 0, fcause := 0, frow := 0 }, checked := none, preempt := none, pins := pins
    placedAt := s.tick, savedAt := 0, saveOff := 0 }

/-- A granted chip scratchpad granule is zero (R112). -/
def State.clearGranule (s : State) (die g : Nat) : State :=
  let lo := chipBase die + g * 2 ^ 20
  let inside (a : Nat) : Bool := decide (lo ≤ a) && decide (a < lo + 2 ^ 20)
  { s.dropBytes (Loc.inRange lo (lo + 2 ^ 20)) with
    mem := cellFilter (fun a => !inside a) s.mem, poison := s.poison.filter fun n => !inside (128 * n) }

/-- Put team `num` of a gang-stage on a core. -/
def placeTeam (l : Launch) (gang stage : Nat) (pins : List Nat) (s : State) (num core : Nat) : State :=
  let chip := (freeChip s (dieOf core)).take l.chipg
  let s1 := { s with teams := s.teams ++ [startTeam s l gang stage num core chip pins], nextTeam := s.nextTeam + 1 }
  chip.foldl (fun s g => s.clearGranule (dieOf core) g) s1

/-- Put every team of a gang-stage on its core. -/
def placeTeams (s : State) (l : Launch) (gang stage : Nat) (cores : List Nat) (pins : List Nat) : State :=
  cores.zipIdx.foldl (fun s x => placeTeam l gang stage pins s x.2 x.1) s

/-! ### Refilling affinity segments (R333, steps 3 and 4) -/

/-- What the refills at a placement come to: the state and the names refilled, or the evictions to make first. -/
inductive Refill
  | done (s : State) (names : List Nat)
  | wait (evict : List (Nat × Nat))
  deriving DecidableEq, Repr

/-- Refill one evicted affinity segment into a cluster, carrying a placement pin. -/
def refillOne (l : Launch) (cl : Nat) (cores : List Nat) (s : State) (names : List Nat) (g : Segment) : Refill :=
  let stripe := if g.level1 then cores else cores.take 1
  match roomFor (shielded s l) cl stripe g.size with
  | .now d =>
    let gen := nextGen s cl d
    let fill (g : Segment) : Segment :=
      { g with state := .refilling, cluster := cl, desc := d, gen := gen, stripe := stripe, data := [], dirty := []
               missing := List.range g.size, poison := [], pins := 1, adds := [] }
    .done { s.modSeg g.ctx g.name fill with gens := cellSet s.gens (256 * cl + d) gen } (names ++ [g.name])
  | .wait ev => .wait ev
  | _ => .done s names

/-- Refill the evicted affinity segments. -/
def refillAll (l : Launch) (cl : Nat) (cores : List Nat) (s : State) (names : List Nat) : List Segment → Refill
  | [] => .done s names
  | g :: r => match refillOne l cl cores s names g with
    | .done s1 names1 => refillAll l cl cores s1 names1 r
    | .wait ev => .wait ev

/-! ### Placing a gang-stage -/

/-- What trying to place a gang-stage comes to: placed, or waiting, perhaps for a cluster it has chosen and for evictions
there. -/
inductive Attempt
  | placed (s : State)
  | wait (cl : Option Nat) (evict : List (Nat × Nat))
  deriving DecidableEq, Repr

/-- Segments of a cluster on their way out. -/
def leavingOf (s : State) (cl : Nat) : List (Nat × Nat) :=
  (s.segs.filter fun g => decide (g.state = .evicting) && decide (g.cluster = cl)).map fun g => (g.ctx, g.name)

/-- The evictions after which the gang-stage fits a cluster, those under way counted as made (R173, R333). -/
def evictFor (s : State) (l : Launch) (cl : Nat) : Option (List (Nat × Nat)) :=
  evictUntil (fun skip => (pickCores s skip l cl).isSome) (victims (shielded s l) cl) (leavingOf s cl)

/-- The gang-stages placed grow by one. -/
def Launch.placedOne (l : Launch) (gang stage cl : Nat) : Launch :=
  { l with placed := l.placed ++ [gang * 16 + stage], stage0 := if stage = 0 then l.stage0 ++ [(gang, cl)] else l.stage0 }

/-- Place the gang-stage on chosen cores of a cluster. -/
def finishPlace (s : State) (l : Launch) (gang stage cl : Nat) (cores : List Nat) : Attempt :=
  let fills := if stage = 0 ∧ (affinityCluster (affinity s l)).isNone then
    (affinity s l).filter fun g => decide (g.state = .evicted) else []
  let bare := placeTeams s l gang stage cores []
  match refillAll l cl cores bare [] fills with
  | .wait ev => .wait (some cl) ev
  | .done s1 names =>
    let pin (t : Team) : Team :=
      if t.launch = l.id ∧ t.gang = gang ∧ t.stage = stage then { t with pins := names } else t
    let s2 := { s1 with teams := s1.teams.map pin }
    .placed (s2.modLaunch l.id fun (l : Launch) => l.placedOne gang stage cl)

/-- Try to place a gang-stage, keeping off the clusters that earlier gangs wait for. -/
def tryPlace (s : State) (avoid : List Nat) (l : Launch) (gang stage : Nat) : Attempt :=
  let order := clusterOrder s l gang stage
  let open_ := order.filter fun c => !avoid.contains c
  let chosen := if stage = 0 ∧ (affinityCluster (affinity s l)).isSome then order.head? else none
  match open_.findSome? fun c => (pickCores s [] l c).map fun cores => (c, cores) with
  | some (c, cores) => finishPlace s l gang stage c cores
  | none =>
    match open_.findSome? fun c => (evictFor s l c).map fun ev => (c, ev) with
    | some (c, ev) => .wait (some c) (ev.filter fun x => !(leavingOf s c).contains x)
    | none => .wait chosen []

/-- The next gang-stage of a launch, in gang order and stage order (R331, R332). -/
def Launch.nextStage (l : Launch) : Option (Nat × Nat) :=
  if l.allPlaced ∨ l.stages = 0 then none else some (l.placed.length / l.stages, l.placed.length % l.stages)

/-- Place the next `n` gang-stages of a co-resident launch together (R353). -/
def tryMany (s : State) (avoid : List Nat) (id : Nat) : Nat → Attempt
  | 0 => .placed s
  | n + 1 =>
    match s.launch? id with
    | none => .wait none []
    | some l =>
      match l.nextStage with
      | none => .placed s
      | some (g, st) =>
        match tryPlace s avoid l g st with
        | .placed s1 => tryMany s1 avoid id n
        | r => r

/-- Try to place what a launch is to place next: one gang-stage, or every one of a co-resident launch. -/
def tryLaunch (s : State) (avoid : List Nat) (l : Launch) : Attempt :=
  match l.nextStage with
  | none => .wait none []
  | some (g, st) =>
    if l.cores then tryMany s avoid l.id (l.gcount * l.stages - l.placed.length) else tryPlace s avoid l g st

/-! ### The ready list (R331) -/

/-- `a` stands before `b` in the ready list; the Winter scheduler ignores PRIO (R331, R426). -/
def Launch.precedes (win : Bool) (a b : Launch) : Bool :=
  if win ∨ a.prio = b.prio then decide (a.id < b.id) else decide (b.prio < a.prio)

/-- Insert a launch at its place. -/
def insertLaunch (win : Bool) (a : Launch) : List Launch → List Launch
  | [] => [a]
  | x :: r => if a.precedes win x then a :: x :: r else x :: insertLaunch win a r

/-- The ready launches with something to place, in order. -/
def readyList (s : State) : List Launch :=
  ((s.launches.filter fun l => decide (l.status = .ready) && l.nextStage.isSome).foldl
    (fun r l => insertLaunch s.fe.win l r) [])

/-- The dispatcher comes to launch `id`: what placing it comes to, or none where an earlier one can be placed first. -/
def dispatchTo (s : State) (id : Nat) (avoid : List Nat) : List Launch → Option Attempt
  | [] => none
  | l :: r =>
    match tryLaunch s avoid l with
    | .placed s1 => if l.id = id then some (.placed s1) else none
    | .wait c ev => if l.id = id then some (.wait c ev) else dispatchTo s id (avoid ++ c.toList) r

/-! ### Saved teams (R351, R352) -/

/-- The team holds an attachment to a core-level segment on its core (R351). -/
def tiedToCore (s : State) (t : Team) : Bool :=
  t.attach.any fun p => match s.segment? t.ctx p.1 with
    | some g => !g.level1 && decide (g.stripe = [t.core])
    | none => false

/-- Another team of the gang-stage is on the core (R332). -/
def siblingOn (s : State) (t : Team) (c : Nat) : Bool :=
  s.teams.any fun u => decide (u.id ≠ t.id ∧ u.launch = t.launch ∧ u.gang = t.gang ∧ u.stage = t.stage ∧ u.core = c
    ∧ u.status = .placed)

/-- The cores a saved team may return to: of its own cluster, and its own core where it is tied to it (R351), with room for
it and for its copy commands (R125). -/
def restoreCores (s : State) (t : Team) : List Nat :=
  ((if tiedToCore s t then [t.core] else coresOf t.cluster).filter fun c =>
    coreFits s [] t.size c && queuesFit s t c && !clusterOff s (clusterOf c) && !siblingOn s t c)

/-- The priority of a team's launch. -/
def teamPrio (s : State) (t : Team) : Nat := ((s.launch? t.launch).map Launch.prio).getD 0

/-- Some saved team goes before a launch of priority `prio` when room appears (R351, R352). -/
def savedFirst (s : State) (prio : Nat) : Bool :=
  s.teams.any fun t => decide (t.status = .saved)
    && (decide (prio ≤ teamPrio s t) || s.awaited.contains t.id) && !(restoreCores s t).isEmpty

/-! ### GANG_STAGE_PLACE -/

/-- Where a launch's record lay. -/
def Launch.addr (l : Launch) (s : State) : Dword := recordAddr (s.queue l.queue) (BitVec.ofNat 64 l.idx)

/-- Bind the kernel when the first gang is to be placed: the launch is resolved again against the entry in force, or
rejected (R328). -/
def bindKernel (s : State) (l : Launch) : State × Got (Option Launch) :=
  if l.bound then (s, .got (some l))
  else match kernelGot s l.ctx l.kidx with
  | (s1, .wait ns) => (s1, .wait ns)
  | (s1, .got (some k)) =>
    let b := { launchOf l.id l.queue l.idx l.ctx l.raw k with status := l.status, gcount := l.gcount, bound := true }
    (match launchReason s1 b with
    | some r => ((s1.rejectRec l.queue l.idx r (l.addr s1)).dropLaunch l.id, .got none)
    | none => (s1.modLaunch l.id fun _ => b, .got (some b)))
  | (s1, _) => ((s1.rejectRec l.queue l.idx 0x02 (l.addr s1)).dropLaunch l.id, .got none)

/-- GANG_STAGE_PLACE: the dispatcher places the next gang-stage of a launch, once no earlier launch and no saved team goes
first; or starts the evictions it needs (R331 to R336). -/
def execGangStagePlace (launch gang stage : Nat) (s : State) : Host.Outcome State Fault Refusal :=
  match s.launch? launch with
  | none => .next s
  | some l =>
    if l.status ≠ .ready ∨ l.nextStage ≠ some (gang, stage) then .next s
    else if savedFirst s l.prio then .next s
    else match bindKernel s l with
    | (s1, .wait ns) => .next (s1.request ns)
    | (s1, .got (some b)) =>
      (match dispatchTo s1 b.id [] (readyList s1) with
      | some (.placed s2) => .next s2
      | some (.wait _ ev) => .next (ev.foldl (fun s x => s.startEvict x.1 x.2) s)
      | none => .next s)
    | (s1, _) => .next s1

end Sys2Proof.Machine
end

