-- ==== Sys2Proof/Machine/Preempt.lean ====
section
/-!
DEFINITION. The end of a team (R343), pre-emption (R344, R407), the save area (R408, R409), restoring (R351, R410), and the
yield swap (R350, R351).
-/

namespace Sys2Proof.Machine

/-! ### A team that is still (R145, R281, R407) -/

/-- A class 4 operation of the slot is still waiting or running. -/
def Slot.mxActive (p : Slot) : Bool := match p.status with
  | .accepting _ _ => true
  | .mgemm => true
  | _ => false

/-- No class 4 operation of the team is waiting or running (R281). -/
def Team.mxDone (t : Team) : Bool := t.waves.all fun w => !w.a.mxActive && !w.b.mxActive

/-- The command could go on: it moves data, or it is at the front of its queue with nothing before it (R145). -/
def cmdMoves (s : State) (c : CopyCmd) : Bool := match c.status with
  | .active _ _ => true
  | .queued => decide (frontCmd s c.core c.qid c.team = some c) && !c.after.any fun i => s.cmds.any fun x => x.id = i
  | _ => false

/-- Every command of the team has completed, or is held, halted, or waits behind one that is (R145). -/
def cmdsStill (s : State) (t : Team) : Bool := !s.cmds.any fun c => decide (c.team = t.id) && cmdMoves s c

/-- The write goes to a team's unnamed scratchpad. -/
def inScratch (id : Nat) (w : PWrite) : Bool := w.bytes.any fun p => match p.1 with
  | .scratch u _ => decide (u = id)
  | _ => false

/-- The writes to a team's unnamed scratchpad are in place. -/
def State.scratchSettle (s : State) (id : Nat) : State := s.perform 6 (inScratch id)

/-! ### Team exit (R343) -/

/-- Some slot's seat of a team. -/
def Team.seat (t : Team) : Seat :=
  { who := .slot ⟨t.id, 0, false⟩, team := t.id, wave := 0, launch := t.launch, gang := t.gang, stage := t.stage
    die := dieOf t.core }

/-- What a team's exit release covers: the accesses of its waves and commands, and what happened before them (R162, R317). -/
def Team.covers (t : Team) (w : PWrite) : Bool :=
  (decide (w.seat.team = t.id) && agentOfTeam w.seat.who) || decide (joinScope w.seat t.seat ≤ w.level)

/-- What a team needs before its combining-buffer entries and the writes to its scratchpad can be performed (R198, R416). -/
def leaveNeeds (s : State) (id : Nat) : List Need :=
  flushNeeds s (fun e => decide (e.team = id)) ++ coverNeeds s (inScratch id)

/-- What the exit release needs first (R316, R416). -/
def exitNeeds (s : State) (t : Team) : List Need := leaveNeeds s t.id ++ coverNeeds s t.covers

/-- The team's exit release: its combining-buffer entries are flushed, and what it covers is performed in the gang, in the
package where the team has segments, which any team may attach next (R162, R198, R343). -/
def State.exitRelease (s : State) (t : Team) : State :=
  let s1 := s.flushComb fun e => decide (e.team = t.id)
  (s1.perform (if t.attach = [] then 2 else 4) t.covers).scratchSettle t.id

/-- A segment whose pin count has just reached 0 is free from now on (R173). -/
def State.markFree (s : State) (ctx : Nat) (names : List Nat) : State :=
  let mark (g : Segment) : Segment :=
    if g.ctx = ctx ∧ names.contains g.name ∧ pinCount s g = 0 then { g with freeAt := s.tick } else g
  { s with segs := s.segs.map mark }

/-- Placement pins go with the last team of the gang-stage (R333). -/
def State.unpin (s : State) (t : Team) : State :=
  if s.teams.any fun u => decide (u.launch = t.launch ∧ u.gang = t.gang ∧ u.stage = t.stage) then s
  else
    let drop (g : Segment) : Segment := if g.ctx = t.ctx ∧ t.pins.contains g.name then { g with pins := g.pins - 1 } else g
    { s with segs := s.segs.map drop }

/-- Reserved granules that were waiting for a team to release them (R113). -/
def State.takeUpReserve (s : State) (t : Team) : State :=
  let d := t.cluster / 8
  let want := (s.chrsvWant[d]?).getD 0
  let now := t.chip.foldl (fun (m : Dword) g => if want.getLsbD g then m ||| (1 <<< g) else m) 0
  { s with chrsv := s.chrsv.modify d fun x => x ||| now, chrsvWant := s.chrsvWant.modify d fun x => x &&& ~~~now }

/-- Kernel-class segments end with the last team of the launch that created them (R159). -/
def State.endKernelSegs (s : State) (id : Nat) : State :=
  match s.launch? id with
  | none => s
  | some l =>
    if launchEmpty s l then
      (s.segs.filter fun g => decide (g.launch = id) && !g.persist && decide (g.ctx = l.ctx)).foldl
        (fun s g => s.dropSeg g.ctx g.name) s
    else s

/-- The team's holdings are free and it is gone (R159, R343). -/
def State.removeTeam (s : State) (t : Team) : State :=
  let s1 := (s.cmds.filter fun c => decide (c.team = t.id)).foldl State.endCmd s
  let s2 := { s1 with
    teams := s1.teams.filter fun u => decide (u.id ≠ t.id), awaited := s1.awaited.filter fun n => decide (n ≠ t.id)
    waiters := s1.waiters.filter fun w => decide (w.sl.team ≠ t.id) }
  (((s2.unpin t).markFree t.ctx (t.attach.map Prod.fst ++ t.pins)).takeUpReserve t).endKernelSegs t.launch

/-- The completion release of the team's launch will cover what the team's does (R317, R328). -/
def State.noteCovers (s : State) (t : Team) : State :=
  s.modLaunch t.launch fun (l : Launch) => { l with covers := l.covers ++ (s.writes.filter t.covers).map PWrite.id }

/-- TEAM_EXIT: every wave has exited or been killed and no command goes on; the exit release, then the holdings are free
(R145, R343). -/
def execTeamExit (team : Nat) (s : State) : Host.Outcome State Fault Refusal :=
  match s.team? team with
  | none => .next s
  | some t =>
    if t.waves.any (fun w => decide (w.status = .running)) ∨ !t.mxDone ∨ !cmdsStill s t then .next s
    else if exitNeeds s t ≠ [] then .next (s.request (exitNeeds s t))
    else
      let s1 := s.exitRelease t
      .next ((s1.noteCovers t).removeTeam t)

/-! ### Stopping (R344, R407) -/

/-- A parked slot stops at once; a wait on counters returns early (R290, R344). -/
def stopParked (s : State) (sl : SlotId) : State :=
  match s.find sl with
  | none => s
  | some v =>
    match v.p.status with
    | .parkedJoin => s.putSlot v v.p.stopHere
    | .parkedCtr _ =>
      let s1 := s.endWait sl
      (match s1.find sl with
      | some y => s1.putSlot y { y.p.endChain with status := .stopped }
      | none => s1)
    | _ => s

/-- Every slot of a team. -/
def teamSlots (t : Team) : List SlotId := (List.range t.waves.length).flatMap fun i => [⟨t.id, i, false⟩, ⟨t.id, i, true⟩]

/-! ### The dispatcher's requests (R354) -/

/-- The state in which teams have been saved: their cores are free for others, and what a saved team keeps it still holds
(R407). -/
def withSaved (s : State) (ids : List Nat) : State :=
  { s with teams := s.teams.map fun t => if ids.contains t.id ∧ t.status = .placed then { t with status := .saved } else t }

/-- Nothing but room kept by placed teams stands between a ready launch and its next placement: it cannot be placed, no
eviction would make the room, and no earlier launch goes first. -/
def launchStuck (s : State) (id : Nat) : Bool := match dispatchTo s id [] (readyList s) with
  | some (.wait none _) => true
  | some (.wait (some c) ev) => ev.isEmpty && (leavingOf s c).isEmpty
  | _ => false

/-- The dispatcher comes to the launch and places it, or makes the room by evictions. -/
def launchGoes (s : State) (id : Nat) : Bool := match dispatchTo s id [] (readyList s) with
  | some (.placed _) => true
  | some (.wait (some c) ev) => !(ev.isEmpty && (leavingOf s c).isEmpty)
  | _ => false

/-- `a` is asked before `b`: a launch of lower priority first, then the team placed last. -/
def askedBefore (s : State) (a b : Team) : Bool :=
  if teamPrio s a = teamPrio s b then decide (b.placedAt < a.placedAt ∨ (b.placedAt = a.placedAt ∧ b.id < a.id))
  else decide (teamPrio s a < teamPrio s b)

/-- Put a team at its place among those the dispatcher may ask. -/
def insertAsked (s : State) (t : Team) : List Team → List Team
  | [] => [t]
  | x :: r => if askedBefore s t x then t :: x :: r else x :: insertAsked s t r

/-- The teams the dispatcher may ask to make room for a launch, in order: placed, of a launch of lower priority, with no
request standing. -/
def askable (s : State) (l : Launch) : List Nat :=
  ((s.teams.filter fun t => decide (t.status = .placed) && t.preempt.isNone && decide (teamPrio s t < l.prio)).foldl
    (fun r t => insertAsked s t r) []).map Team.id

/-- The teams under a request. -/
def teamsGoing (s : State) : List Nat := (s.teams.filter fun t => t.preempt.isSome).map Team.id

/-- The shortest beginning of a list after which `enough` holds; none where not even all of it is enough. -/
def shortestEnough (enough : List Nat → Bool) : List Nat → List Nat → Option (List Nat)
  | acc, [] => if enough acc then some acc else none
  | acc, x :: r => if enough acc then some acc else shortestEnough enough (acc ++ [x]) r

/-- Leave out, from the last on, every member without which `enough` still holds of what stays; `keep` stays in any case. -/
def leaveOut (enough : List Nat → Bool) : List Nat → List Nat → List Nat
  | keep, [] => keep
  | keep, x :: r => if enough (r.reverse ++ keep) then leaveOut enough keep r else leaveOut enough (x :: keep) r

/-- The teams the dispatcher asks for a launch: while the firmware runs the front end, no more than its placement needs,
those under a request counted as gone (R354, R426). -/
def dispatcherAsks (s : State) (launch : Nat) : List Nat := match s.launch? launch with
  | none => []
  | some l =>
    if s.fe.win ∨ l.status ≠ .ready ∨ !launchStuck s launch then []
    else
    let enough (out : List Nat) : Bool := launchGoes (withSaved s (teamsGoing s ++ out)) launch
    match shortestEnough enough [] (askable s l) with
    | none => []
    | some out => leaveOut enough [] out.reverse

/-- A slot inside an expansion stops at its guest boundary (R372, R407). -/
def Slot.askBoundary (p : Slot) : Slot := if p.live ∧ p.exp.isSome then { p with stopAtBoundary := true } else p

/-- Change both slots of every running wave. -/
def Team.eachSlot (t : Team) (f : Slot → Slot) : Team :=
  { t with waves := t.waves.map fun w => if w.status = .running then { w with a := f w.a, b := f w.b } else w }

/-- A request stands for a team that is on its core; parked slots stop at once, and slots inside an expansion at their guest
boundary (R407). -/
def askTeam (s : State) (id : Nat) : State :=
  match placedTeam s id with
  | none => s
  | some t =>
    if t.preempt.isSome then s
    else (teamSlots t).foldl stopParked
      (s.modTeam id fun t => { t.eachSlot Slot.askBoundary with preempt := some (coreClock s t.core) })

/-- PREEMPTION_REQUEST: a request stands for each team that the device operating system names, or that the dispatcher asks
for a launch (R354, R407). -/
def execPreemptionRequest (ask : PreemptAsk) (s : State) : Host.Outcome State Fault Refusal :=
  match ask with
  | .os teams => .next (teams.foldl askTeam s)
  | .dispatcher launch => .next ((dispatcherAsks s launch).foldl askTeam s)

/-- The distance bound of a team's launch, in cycles (R326). -/
def teamPdist (s : State) (t : Team) : Nat :=
  match s.launch? t.launch with
  | some l => if l.pdist = 0 then 50000 else l.pdist
  | none => 50000

/-- A slot stops; one inside a chain, a REP or an expansion, or at an operation that is still to be accepted, before the next
operation after it (R344, R372). -/
def Slot.force (p : Slot) : Slot :=
  if !p.live then p
  else match p.status with
  | .running =>
    if p.exp.isSome ∨ p.inChain ∨ p.rep.isSome then { p with stopAtBoundary := true } else { p.endChain with status := .stopped }
  | .accepting _ _ => { p with stopAtBoundary := true }
  | _ => p

/-- FORCED_STOP: PDIST + 4,096 cycles after the request (R344). -/
def execForcedStop (team : Nat) (s : State) : Host.Outcome State Fault Refusal :=
  match placedTeam s team with
  | none => .next s
  | some t =>
    match t.preempt with
    | none => .next s
    | some t0 =>
      if coreClock s t.core < t0 + teamPdist s t + 4096 then .next s
      else
        .next (s.modTeam team fun t => t.eachSlot Slot.force)

/-! ### The save area (R408, R409) -/

/-- The slot's state is one a team can be saved with. -/
def Slot.still (p : Slot) : Bool := !p.live || (match p.status with
  | .stopped => true
  | .held _ => true
  | .parkedJoin => true
  | .parkedCtr _ => true
  | .startHold => true
  | _ => false)

/-- Every slot of the team has stopped, its class 4 operations and its commands are done (R407, steps 1 and 4); a team that
a machine check struck is not saved (R406). -/
def teamStill (s : State) (t : Team) : Bool :=
  t.checked.isNone && t.waves.all (fun w => decide (w.status ≠ .running) || (w.a.still && w.b.still)) && t.mxDone && cmdsStill s t

/-- Saved areas of a context in its pool: offset and end. -/
def poolUsed (s : State) (ctx : Nat) : List (Nat × Nat) :=
  (s.teams.filter fun t => decide (t.ctx = ctx ∧ t.status = .saved)).map fun t => (t.saveOff, t.saveOff + saveSize s t)

/-- A place for `n` bytes in a context's save pool: the lowest that is free (R408). -/
def poolRoom (s : State) (c : Context) (n : Nat) : Option Nat :=
  let used := poolUsed s c.num
  let free (o : Nat) : Bool := decide (o + n ≤ 4096 * c.splen) && used.all fun u => decide (o + n ≤ u.1 ∨ u.2 ≤ o)
  let starts := (0 :: used.map Prod.snd).filter free
  starts.find? fun o => starts.all fun p => decide (o ≤ p)

/-- The pieces of `n` bytes from an address, none crossing a 4 KiB page: offset and length. -/
def pagePieces (a : Nat) : Nat → Nat → List (Nat × Nat)
  | 0, _ => []
  | fuel + 1, off =>
    let n := 4096 - (a + off) % 4096
    (off, n) :: pagePieces a fuel (off + n)

/-- The pieces of a span, each cut at a page's end. -/
def spanPieces (a : Dword) (n : Nat) : List (Nat × Nat) :=
  (pagePieces a.toNat (n / 4096 + 2) 0).filterMap fun p => if n ≤ p.1 then none else some (p.1, min p.2 (n - p.1))

/-- What moving an area between the core and the save pool comes to. -/
inductive Moved
  | ok (s : State)
  | wait (s : State) (ns : List Need)
  | fault
  deriving DecidableEq, Repr

/-- Write an area piece by piece. -/
def areaWrite (ctx : Nat) (a : Dword) (data : List Byte) (s : State) : List (Nat × Nat) → Moved
  | [] => .ok s
  | p :: r =>
    match spanGot s ctx (a + BitVec.ofNat 64 p.1) p.2 .store with
    | (s1, .wait ns) => .wait s1 ns
    | (_, .bad _) => .fault
    | (s1, .got t) => areaWrite ctx a data (s1.spanWrite t ((data.drop p.1).take p.2)) r

/-- What reading an area comes to. -/
inductive AreaRes
  | ok (s : State) (data : List Byte)
  | wait (s : State) (ns : List Need)
  | fault
  deriving DecidableEq, Repr

/-- Read an area piece by piece. -/
def areaRead (ctx : Nat) (a : Dword) (s : State) (data : List Byte) : List (Nat × Nat) → AreaRes
  | [] => .ok s data
  | p :: r =>
    match bytesGot s homeSeat ctx (a + BitVec.ofNat 64 p.1) p.2 with
    | (s1, .wait ns) => .wait s1 ns
    | (_, .bad _) => .fault
    | (s1, .got d) => areaRead ctx a s1 (data ++ d) r

/-! ### Saving (R407, R408) -/

/-- Outcome of an attempt to save or restore a team: done, waiting for what it has still to ask for, or its context ended. -/
inductive Swapped
  | ok (s : State)
  | wait (s : State) (ns : List Need)
  | ended (s : State)
  deriving DecidableEq, Repr

/-- The team with every outstanding result written (R51). -/
def Team.landed (t : Team) : Team :=
  { t with waves := t.waves.map fun w => if w.status = .running then (w.landAll false).landAll true else w }

/-- The team as an area of the pool at `off` holds it. -/
def Team.asSaved (t : Team) (s : State) (off : Nat) : Team :=
  { t with
    status := .saved, savedAt := s.tick, saveOff := off, preempt := none, adopted := none
    savedCmds := (teamCmds s t).map CopyCmd.id }

/-- Save a team whose slots have all stopped: steps 2 to 6 of R407. Its combining-buffer entries are performed first, and wait
for the host's lines they need (R189, R198). A fault ends the context (R404); a full pool makes the save wait. -/
def saveTeam (s : State) (id : Nat) : Swapped :=
  match placedTeam s id with
  | none => .wait s []
  | some t0 =>
    let s1 := ((teamSlots t0).foldl stopParked s).modTeam id Team.landed
    if leaveNeeds s1 id ≠ [] then .wait s (leaveNeeds s1 id)
    else
    let s2 := (s1.flushComb fun e => decide (e.team = id)).scratchSettle id
    match s2.team? id, s2.ctx? t0.ctx with
    | some t, some c =>
      (match poolRoom s2 c (saveSize s2 t) with
      | none => .wait s []
      | some off =>
        let a := c.spool + BitVec.ofNat 64 off
        let data := saveImage s2 t s.tick
        match areaWrite t.ctx a data s2 (spanPieces a data.length) with
        | .wait _ ns => .wait s ns
        | .fault => .ended (s.endContext t.ctx 0x02 0)
        | .ok s3 => .ok (s3.modTeam id fun x => x.asSaved s off))
    | _, _ => .wait s []

/-- The state after an attempt. -/
def Swapped.state : Swapped → State
  | .ok s => s
  | .wait s ns => s.request ns
  | .ended s => s

/-- TEAM_SAVE: a team under a request whose slots have all stopped is saved (R407). -/
def execTeamSave (team : Nat) (s : State) : Host.Outcome State Fault Refusal :=
  match placedTeam s team with
  | none => .next s
  | some t => .next (if t.preempt.isSome && teamStill s t then (saveTeam s team).state else s)

/-! ### Restoring (R351, R352, R410) -/

/-- The lowest set bit at or above `lo` of a 64-bit word. -/
def lowBit (x lo : Nat) : Option Nat := (List.range 64).find? fun i => decide (lo ≤ i) && decide (x / 2 ^ i % 2 = 1)

/-- What an area holds is refused: a personality, segment or copy queue named in the state that the context does not hold, or a
reserved bit set (R410). -/
def restoreMissing (s : State) (t : Team) (c : Context) (data : List Byte) : Bool :=
  areaReserved t data || t.anySlot (fun p => decide (p.pers ≠ 0) && (match c.pers[p.pers - 1]? with
    | some (_, v, _) => !v
    | none => true))
  || t.attach.any (fun p => (s.segment? t.ctx p.1).isNone)
  || (areaCmds t data).any fun c => decide (8 ≤ ofBytes (areaPart c.2 63 1))

/-- Why a header is refused: the INFO2 of the charge; none where it is accepted (R410). -/
def headerRefusal (h : List Byte) : Option Word :=
  let feat := recBits h 8 0 64
  match lowBit feat 8 with
  | some b => some (BitVec.ofNat 32 b)
  | none =>
    if recBits h 4 8 24 ≠ 0 ∨ recBits h 0x1C 0 32 ≠ 0 ∨ ofBytes (h.drop 0x30) ≠ 0 then some 0xFFFFFFFF
    else if 0xB0 < recBits h 4 0 8 then some 0xFFFFFFFF
    else if feat / 4 % 2 = 1 ∧ (h.drop 0x10).take 8 ≠ sealId then some 2
    else none

/-- A slot as it is made ready: a stopped one issues again; a held one stays held (R410). -/
def Slot.ready (p : Slot) : Slot :=
  { p with status := if p.status = .stopped then .running else p.status, stopAtBoundary := false }

/-- A team back on a core as its area holds it, its waves in the lowest free places. -/
def putBack (s : State) (t : Team) (core : Nat) (cmds : List (Nat × List Byte)) : State :=
  let places := freePlaces s core
  let back (w : Wave) (i : Nat) : Wave := { w with place := (places[i]?).getD 0, a := w.a.ready, b := w.b.ready }
  let t1 := { t with
    core := core, status := .placed, placedAt := s.tick, savedCmds := [], adopted := none
    waves := t.waves.zipIdx.map fun x => back x.1 x.2 }
  let move (c : CopyCmd) : CopyCmd :=
    if c.team ≠ t.id then c
    else match cmds.find? fun x => x.1 = c.id with
    | some x => { cmdRead x.2 c with core := core }
    | none => { c with core := core }
  { s.modTeam t.id (fun _ => t1) with
    cmds := s.cmds.map move, awaited := s.awaited.filter fun n => decide (n ≠ t.id) }

/-- Restore a saved team onto a core from its save area: the header is read and checked first, then what the other parts name;
a refusal writes nothing to the team and is charged (R410). -/
def restoreTeam (s : State) (id core : Nat) : Swapped :=
  match s.team? id with
  | none => .wait s []
  | some t =>
    match s.ctx? t.ctx with
    | none => .wait s []
    | some c =>
      let a := c.spool + BitVec.ofNat 64 t.saveOff
      match bytesGot s homeSeat t.ctx a 256 with
      | (s1, .wait ns) => .wait s1 ns
      | (_, .bad _) => .ended (s.endContext t.ctx 0x02 0)
      | (s1, .got h) =>
        match headerRefusal h with
        | some info => .wait (s1.charge t.ctx 0x03 0 info) []
        | none =>
          match areaRead t.ctx a s1 [] (spanPieces a (saveSize s1 t)) with
          | .wait s2 ns => .wait s2 ns
          | .fault => .ended (s.endContext t.ctx 0x02 0)
          | .ok s2 data =>
            let t1 := teamRead s2 t data
            if restoreMissing s2 t1 c data then .wait (s1.charge t.ctx 0x03 0 0xFFFFFFFF) []
            else .ok (putBack s2 t1 core (areaCmds t data))

/-! ### An area that another package wrote (R410) -/

/-- A wave of which only the area knows more. -/
def Wave.unread : Wave :=
  { place := 0, status := .running, v := [], s := [], k := [], a := .free, b := .free, stack := [] }

/-- The saved team whose area has the header `h`: SHAPE in the order `shapeBytes` writes it gives its size and its place in the
launch. Its chip scratchpad granules are granted anew (R112, R409). -/
def teamOfHeader (s : State) (l : Launch) (cluster off : Nat) (h : List Byte) : Team :=
  let n (o k : Nat) : Nat := ofBytes (areaPart h (0x20 + o) k)
  let chip := if recBits h 8 4 1 = 1 then (freeChip s (cluster / 8)).take l.chipg else []
  { startTeam s l (n 8 4) (n 13 1) (n 12 1) (24 * cluster) chip [] with
    status := .saved, savedAt := s.tick, saveOff := off, waves := List.replicate (n 0 1) .unread, scratchSize := 4096 * n 1 1
    laneBytes := n 3 2, accs := List.replicate (n 5 1) (.zero false false), wslots := List.replicate (8 * n 5 1) .invalid
    savedCmds := (List.range (n 6 2)).map fun i => s.nextCmd + i, adopted := some s.nextRec }

/-- A core could hold a team of that size (R13, R149, R151, R252). -/
def Team.fitsACore (t : Team) : Bool :=
  let z := t.size
  decide (1 ≤ z.waves ∧ z.waves ≤ 16 ∧ z.granules ≤ 192 ∧ z.lanes ≤ 262144 ∧ z.accs ≤ 8)

/-- The team is new here: its gang-stage has its team under that number nowhere. -/
def Team.isNew (s : State) (t : Team) : Bool :=
  !s.teams.any fun u => decide (u.launch = t.launch ∧ u.gang = t.gang ∧ u.stage = t.stage ∧ u.num = t.num)

/-- The device operating system takes an area that another package wrote into a context's pool as that of a saved team of a
launch here; TEAM_RESTORE then checks and reads it (R410). Its held commands are known from now on, and the gang-stage counts as
placed: the model's choices (log entry 151). -/
def adoptArea (s : State) (ctx off launch cluster : Nat) : State :=
  match s.ctx? ctx, s.launch? launch with
  | some c, some l =>
    if l.ctx ≠ ctx ∨ 32 ≤ cluster then s
    else
      let a := c.spool + BitVec.ofNat 64 off
      (match bytesGot s homeSeat ctx a 256 with
      | (s1, .wait ns) => s1.request ns
      | (s1, .bad _) => s1
      | (s1, .got h) =>
        let t := teamOfHeader s1 l cluster off h
        if recBits h 0 0 32 ≠ 0x53415645 ∨ !t.fitsACore ∨ !t.isNew s1 then s1
        else match areaRead ctx a s1 [] (spanPieces a (saveSize s1 t)) with
        | .wait s2 ns => s2.request ns
        | .fault => s1
        | .ok s2 data =>
          let cmds := (areaCmds t data).map fun x => cmdFresh t x.1 x.2
          let mark := t.gang * 16 + t.stage
          let s3 := { s2 with
            teams := s2.teams ++ [t], nextTeam := s2.nextTeam + 1, cmds := s2.cmds ++ cmds
            nextCmd := s2.nextCmd + cmds.length, nextRec := s2.nextRec + 1 }
          if l.placed.contains mark then s3
          else s3.modLaunch launch fun (l : Launch) => l.placedOne t.gang t.stage cluster)
  | _, _ => s

/-- The saved teams in the order of their return: those a .clus access waits for, then the oldest save first (R351,
R352). -/
def restoreOrder (s : State) : List Team :=
  let saved := s.teams.filter fun t => decide (t.status = .saved)
  let rec ins (t : Team) : List Team → List Team
    | [] => [t]
    | x :: r => if t.savedAt < x.savedAt then t :: x :: r else x :: ins t r
  let sorted := saved.foldl (fun r t => ins t r) []
  (sorted.filter fun t => s.awaited.contains t.id) ++ sorted.filter fun t => !s.awaited.contains t.id

/-- A ready launch of higher priority than a saved team goes first: it can be placed, or waits for the cluster it has chosen,
which is the team's (R331, R351). -/
def launchFirst (s : State) (t : Team) : Bool :=
  !s.awaited.contains t.id && (readyList s).any fun l => decide (teamPrio s t < l.prio) && (match tryLaunch s [] l with
    | .placed _ => true
    | .wait c _ => decide (c = some t.cluster))

/-- The saved team that goes back next: the first in order that fits and that no ready launch goes before (R331, R351). -/
def restoreNext (s : State) : Option Team :=
  (restoreOrder s).find? fun t => !(restoreCores s t).isEmpty && !launchFirst s t

/-- TEAM_RESTORE: room has appeared for a saved team (R351, R410). -/
def execTeamRestore (team core : Nat) (s : State) : Host.Outcome State Fault Refusal :=
  match restoreNext s with
  | none => .next s
  | some t =>
    if t.id ≠ team ∨ !(restoreCores s t).contains core then .next s
    else .next (restoreTeam s team core).state

/-! ### The yield swap (R350, R351) -/

/-- Cycles the slot has been parked; none where it is not parked: a load or store, or an operation of class 4, is parked while
it waits for a saved team's .clus memory (R350, R352). -/
def Slot.parkedFor (p : Slot) : Option Nat := match p.status with
  | .parkedCtr _ => some p.idle
  | .parkedJoin => some p.idle
  | .held _ => some p.idle
  | .running => if p.waitTeam.isSome then some p.idle else none
  | .accepting _ _ => if p.waitTeam.isSome then some p.idle else none
  | .mgemm => if p.waitTeam.isSome then some p.idle else none
  | _ => none

/-- The live slots of a team's waves. -/
def Team.liveSlots (t : Team) : List Slot :=
  (t.waves.filter fun w => decide (w.status = .running)).flatMap fun w => [w.a, w.b].filter Slot.live

/-- For how long all live slots of the team have been parked. -/
def Team.parkedFor (t : Team) : Nat :=
  (t.liveSlots.foldl (fun (r : Option Nat) p => match r with
    | none => some (p.parkedFor.getD 0)
    | some x => some (min x (p.parkedFor.getD 0))) none).getD 0

/-- The core meets the trigger: every live slot on it has been parked for 2,048 cycles (R350). -/
def swapTrigger (s : State) (core : Nat) : Bool :=
  (teamsOn s core).all fun t => t.liveSlots.all fun p => match p.parkedFor with
    | some n => decide (2048 ≤ n)
    | none => false

/-- The teams a swap may save on a core, longest parked first; none of a co-resident launch (R350). -/
def swapOrder (s : State) (core : Nat) : List Team :=
  let ok := (teamsOn s core).filter fun t => !((s.launch? t.launch).map Launch.cores).getD false
  let rec ins (t : Team) : List Team → List Team
    | [] => [t]
    | x :: r => if x.parkedFor < t.parkedFor then t :: x :: r else x :: ins t r
  ok.foldl (fun r t => ins t r) []

/-- A slot stalled on a saved team's memory stops, and issues its operation again when its team is back; not inside a chain, a
REP or, but for its first word, an expansion (R344, R372). An MGEMM stops at its pre-emption point (R279, R281). -/
def Slot.stopStalled (p : Slot) : Slot :=
  if !p.live ∨ p.waitTeam.isNone then p
  else match p.status, p.mg with
  | .running, _ =>
    if p.inChain ∨ p.rep.isSome ∨ (p.exp.map Expansion.idx).getD 0 ≠ 0 then p
    else { p.stopHere with stalled := false, waitTeam := none }
  | .mgemm, some r =>
    if r.atPoint && p.exp.isNone then { p with status := .stopped, mg := none, mxst := r.mxst 0, waitTeam := none } else p
  | _, _ => p

/-- Save a team for a swap: its parked slots stop first. -/
def swapSave (s : State) (t : Team) : Swapped :=
  let s1 := s.modTeam t.id fun t => t.eachSlot Slot.stopStalled
  match s1.team? t.id with
  | some t1 => if teamStill s1 t1 then saveTeam s1 t.id else .wait s []
  | none => .wait s []

/-- Save teams of a core in order until a team of a size fits. -/
def saveUntil (z : TeamSize) (core : Nat) (s : State) : List Team → Swapped
  | [] => if coreFits s [] z core then .ok s else .wait s []
  | t :: r =>
    if coreFits s [] z core then .ok s
    else match swapSave s t with
    | .ok s1 => saveUntil z core s1 r
    | x => x

/-- Would the team fit the core with every team a swap may save gone? -/
def swapWouldFit (s : State) (z : TeamSize) (core : Nat) : Bool :=
  let out := (swapOrder s core).map Team.id
  coreFits { s with teams := s.teams.filter fun t => !out.contains t.id } [] z core

/-- Make room on several cores. -/
def saveOnCores (z : TeamSize) (s : State) : List Nat → Swapped
  | [] => .ok s
  | c :: r => match saveUntil z c s (swapOrder s c) with
    | .ok s1 => saveOnCores z s1 r
    | x => x

/-- The cores of a cluster a candidate gang-stage would take, in team order: `core`, that of its affinity segment, and the
lowest others that meet the trigger (R335, R350). -/
def swapCores (s : State) (l : Launch) (core : Nat) : Option (List Nat) :=
  let cl := clusterOf core
  let ok := (coresOf cl).filter fun c => swapTrigger s c && swapWouldFit s l.size c
  let first := (core :: (homeCore s l cl).toList.filter fun c => ok.contains c && decide (c ≠ core)).take l.teams
  let others := (ok.filter fun c => !first.contains c).take (l.teams - first.length)
  let take := (coresOf cl).filter fun c => first.contains c || others.contains c
  if ok.contains core ∧ take.length = l.teams then some (teamOrder s l cl take) else none

/-- Some team was saved. -/
def savedMore (s s1 : State) : Bool :=
  s.teams.any fun t => decide (t.status = .placed) && decide ((s1.team? t.id).map Team.status = some .saved)

/-- Place the candidate after the saves: its gang-stage on the cores, or for a co-resident launch every gang-stage it has left,
which all must fit (R350, R353). -/
def swapPlace (s : State) (l : Launch) (gang stage cl : Nat) (cores : List Nat) : Attempt :=
  match finishPlace s l gang stage cl cores with
  | .placed s1 => if l.cores then tryMany s1 [] l.id (l.gcount * l.stages - l.placed.length - 1) else .placed s1
  | x => x

/-- A swap that cannot be done yet: nothing is saved, what it waits for is asked for, and the evictions it needs begin; none
where nothing would help (R333, R416). -/
def swapLater (s : State) (ns : List Need) (evict : List (Nat × Nat)) : Option State :=
  if ns = [] ∧ evict = [] then none else some (evict.foldl (fun s x => s.startEvict x.1 x.2) (s.request ns))

/-- A swap for the next gang-stage of a launch: the teams are saved and the gang-stage is placed. -/
def swapFor (s : State) (core : Nat) (l : Launch) : Option State :=
  match l.nextStage with
  | none => none
  | some (g, st) =>
    let cl := clusterOf core
    let chip := decide (l.chipg * l.teams ≤ (freeChip s (cl / 8)).length)
    if !(clusterOrder s l g st).contains cl ∨ !chip then none
    else match swapCores s l core with
    | none => none
    | some cores =>
      match saveOnCores l.size s cores with
      | .wait _ ns => swapLater s ns []
      | .ended s1 => some s1
      | .ok s1 =>
        if !savedMore s s1 then none
        else match bindKernel s1 l with
        | (s2, .got (some b)) => (match swapPlace s2 b g st cl cores with
          | .placed s3 => some s3
          | .wait _ ev => swapLater s [] ev)
        | (_, .wait ns) => some (s.request ns)
        | (s2, _) => some s2

/-- A swap for a saved team: room is made on the core and the team is restored. -/
def swapBack (s : State) (core : Nat) (t : Team) : Option State :=
  if t.cluster ≠ clusterOf core ∨ (tiedToCore s t ∧ t.core ≠ core) ∨ siblingOn s t core ∨ !queuesFit s t core
      ∨ !swapWouldFit s t.size core then none
  else match saveUntil t.size core s (swapOrder s core) with
  | .wait _ ns => swapLater s ns []
  | .ended s1 => some s1
  | .ok s1 => if savedMore s s1 then some (restoreTeam s1 t.id core).state else none

/-- YIELD_SWAP: a core whose slots have all been parked for 2,048 cycles saves teams for a candidate: a saved team that a
.clus access waits for, then unstarted gang-stages in ready order, then saved teams, oldest save first (R350 to R352). -/
def execYieldSwap (core : Nat) (s : State) : Host.Outcome State Fault Refusal :=
  if !swapTrigger s core then .next s
  else
    let back := restoreOrder s
    let first := back.filter fun t => s.awaited.contains t.id
    let found := (first.findSome? (swapBack s core)).orElse fun _ =>
      ((readyList s).findSome? (swapFor s core)).orElse fun _ => back.findSome? (swapBack s core)
    .next (found.getD s)

end Sys2Proof.Machine
end

