-- ==== Sys2Proof/Machine/Windows.lean ====
section
/-!
DEFINITION. Region windows (R99 to R108), the carve-out and reserved granules of the chip scratchpads (R113 to R115), and
translation shootdowns (R123, R124).
-/

namespace Sys2Proof.Machine

/-! ### Region windows (R99 to R103) -/

/-- Change a window. -/
def State.modWindow (s : State) (w : Nat) (f : Window → Window) : State := { s with windows := s.windows.modify w f }

/-- The format fields of a written WCTL (R100). -/
def Window.withCtl (x : Window) (v : Dword) : Window :=
  { x with rowl := (v.extractLsb' 24 4).toNat, ks := (v.extractLsb' 16 6).toNat, ec := (v.extractLsb' 12 3).toNat
           dt := (v.extractLsb' 8 4).toNat, stf := (v.extractLsb' 4 4).toNat }

/-- WCTL as it reads (R100). -/
def Window.ctl (x : Window) : Dword :=
  BitVec.ofNat 64 (x.sts % 16 * 2 ^ 28 + x.rowl % 16 * 2 ^ 24 + x.ks % 64 * 2 ^ 16 + x.ec % 8 * 2 ^ 12 + x.dt % 16 * 2 ^ 8
    + x.stf % 16 * 2 ^ 4 + bitOf x.bsy * 4 + bitOf x.en)

/-- A reserved bit of WCTL, WRAW, WSIZE or WSCL is set (R100). -/
def Window.reserved (x : Window) (ctl : Dword) : Bool :=
  decide (ctl &&& 0xFFFFFFFF00C08008 ≠ 0) || decide (x.raw &&& 0xFFF000000000FFFF ≠ 0)
    || decide (x.size &&& 0xFFFFFFFFFFE00000 ≠ 0) || decide (x.scl &&& 0xFFF000000000007F ≠ 0)

/-- The raw base, the raw bytes and the scale address as their fields give them. -/
def Window.base (x : Window) : Nat := (x.raw &&& 0x000FFFFFFFFF0000).toNat

/-- Raw bytes by the UNITS field. -/
def Window.bytes (x : Window) : Nat := 65536 * (x.size.extractLsb' 0 21).toNat

/-- The scale address by its field. -/
def Window.scale (x : Window) : Nat := (x.scl &&& 0x000FFFFFFFFFFF80).toNat

/-- Bytes of scale data a window needs (R101). -/
def Window.scaleSize (x : Window) : Nat := match x.stored with
  | 1 => x.bytes / 16
  | 2 => 4 * (x.bytes / 2 ^ (x.rowl + 7))
  | 3 => 4 * (x.bytes / 2 ^ (x.rowl + 7))
  | _ => 0

/-- The range lies wholly inside the far tier. -/
def inFar (a n : Nat) : Bool := decide (farBase ≤ a) && decide (a + n ≤ farBase + farSize)

/-- The range overlaps the raw range of an enabled window. -/
def overlapsWindow (s : State) (a n : Nat) : Bool :=
  s.windows.any fun y => y.en && decide (a < y.base + y.bytes) && decide (y.base < a + n)

/-- The stored format, the decode target and ROWL suit each other (R101). -/
def Window.formatOk (x : Window) : Bool :=
  (match x.stored with
    | 0 => decide (x.dt = 0)
    | 1 => decide (1 ≤ x.dt ∧ x.dt ≤ 3)
    | 2 => decide (1 ≤ x.dt ∧ x.dt ≤ 3) && decide (x.rowl ≤ 8)
    | 3 => decide (1 ≤ x.dt ∧ x.dt ≤ 3) && decide (x.rowl ≤ 8)
    | 4 => decide (x.dt = 4)
    | _ => false)

/-- The first check of R103 that fails, or 0. -/
def windowCheck (s : State) (x : Window) (ctl : Dword) : Nat :=
  if !x.formatOk then 1
  else if x.bytes = 0 ∨ 2 ^ 36 < x.bytes ∨ !inFar x.base x.bytes then 2
  else if overlapsWindow s x.base x.bytes then 3
  else if x.scaleSize ≠ 0 ∧ (!inFar x.scale x.scaleSize ∨ overlapsWindow s x.scale x.scaleSize) then 4
  else if x.stored = 4 ∧ (x.size.extractLsb' 0 21).toNat % 3 ≠ 0 then 5
  else if x.isSealed ∧ !((s.keys[x.ks]?).map KeySlot.full).getD false then 6
  else if x.reserved ctl then 7
  else 0

/-- WINDOW_ENABLE: EN = 1 is written to a disabled window; the registers are checked, and enabling enters the Almanac,
for which it waits (R103, R432, R433). -/
def execWindowEnable (w : Nat) (v : Dword) (s : State) : Host.Outcome State Fault Refusal :=
  let x := (s.window w).withCtl v
  if 64 ≤ w ∨ (s.window w).en ∨ !v.getLsbD 0 then .next s
  else match windowCheck s x v with
  | 0 =>
    if almRoom s then
      let y := { x with en := true, sts := 0 }
      .next ((s.modWindow w fun _ => y).almAppend 0x01 0 (bytesOf y.ctl.toNat 8))
    else .next s.almAsk
  | n => .next (s.modWindow w fun _ => { x with sts := n })

/-- WINDOW_DISABLE: EN = 0 is written to an enabled window: decoded accesses from now on fault, and the window is flushed
(R108). -/
def execWindowDisable (w : Nat) (v : Dword) (s : State) : Host.Outcome State Fault Refusal :=
  if !(s.window w).en ∨ v.getLsbD 0 then .next s
  else if !almRoom s then .next s.almAsk
  else
    let y := { s.window w with en := false, bsy := true }
    .next ((s.modWindow w fun _ => y).almAppend 0x01 0 (bytesOf y.ctl.toNat 8))

/-- WINDOW_FLUSH: FLUSH = 1 is written (R108). -/
def execWindowFlush (w : Nat) (v : Dword) (s : State) : Host.Outcome State Fault Refusal :=
  .next (if v.getLsbD 1 then s.modWindow w fun (x : Window) => { x with bsy := true } else s)

/-- WINDOW_FLUSH_DONE: every L2 has dropped the window's decoded lines (R108). -/
def execWindowFlushDone (w : Nat) (s : State) : Host.Outcome State Fault Refusal :=
  let s1 := { s with decoded := if (s.window w).bsy then s.decoded.filter fun d => decide (d.w ≠ w) else s.decoded }
  .next (s1.modWindow w fun (x : Window) => { x with bsy := false })

/-- A write of WCTL: what it does depends on EN (R103, R108). -/
def writeWctl (w : Nat) (v : Dword) (s : State) : Host.Outcome State Fault Refusal :=
  let flush (s : State) : State := if v.getLsbD 1 then s.modWindow w fun (x : Window) => { x with bsy := true } else s
  if (s.window w).en then (if v.getLsbD 0 then .next (flush s) else execWindowDisable w v s)
  else if v.getLsbD 0 then execWindowEnable w v (flush s)
  else .next (flush (s.modWindow w fun x => x.withCtl v))

/-- A write of another register of a window, ignored while it is enabled (R103). -/
def writeWindowReg (w off : Nat) (v : Dword) (s : State) : Host.Outcome State Fault Refusal :=
  match off with
  | 0 => writeWctl w v s
  | _ =>
    if (s.window w).en then .next s
    else match off with
    | 0x08 => .next (s.modWindow w fun (x : Window) => { x with raw := v })
    | 0x10 => .next (s.modWindow w fun (x : Window) => { x with size := v })
    | 0x18 => .next (s.modWindow w fun (x : Window) => { x with scl := v })
    | _ => .next s

/-! ### The carve-out (R113 to R115) -/

/-- Some granule of a die at or above a number is held by a team or reserved (R113, R115). -/
def granuleHeld (s : State) (die lo : Nat) : Bool :=
  s.teams.any (fun t => decide (t.cluster / 8 = die) && t.chip.any fun g => decide (lo ≤ g))
    || (List.range 64).any fun g => decide (lo ≤ g) && ((s.chrsv[die]?).getD 0).getLsbD g

/-- CARVEOUT_CHANGE: L2CFG is written (R114, R115). -/
def execCarveoutChange (d : Nat) (v : Dword) (s : State) : Host.Outcome State Fault Refusal :=
  let b := (v.extractLsb' 0 4).toNat
  let x := s.carve d
  let put (x : L2Cfg) : State := { s with l2cfg := s.l2cfg.modify d fun _ => x }
  if x.sts = 1 ∨ x.sts = 2 then .next s
  else if 8 < b then .next (put { x with sts := 3 })
  else if b = x.cur then .next (put { x with sts := 0, csz := b })
  else if b < x.cur ∧ granuleHeld s d (8 * b) then .next (put { x with sts := 2, csz := b })
  else .next (put { x with sts := 1, csz := b })

/-- CARVEOUT_SHRINK_PROCEED: the last granule above the new bound is released (R115). -/
def execCarveoutShrinkProceed (d : Nat) (s : State) : Host.Outcome State Fault Refusal :=
  let x := s.carve d
  if x.sts = 2 ∧ !granuleHeld s d (8 * x.csz) then
    .next { s with l2cfg := s.l2cfg.modify d fun x => { x with sts := 1 } }
  else .next s

/-- Nonzero entries of a page table, by address. -/
def tableEntries (s : State) (base : Nat) : List Nat :=
  (List.range 512).filterMap fun i => if readPte s (base + 8 * i) = 0 then none else some (base + 8 * i)

/-- Some leaf of the tables under `base` that satisfies `p` holds the byte (R117, R119). -/
def mapsFrom (s : State) (p : Dword → Bool) (pa : Nat) : Nat → Nat → Bool
  | 0, _ => false
  | n + 1, base => (tableEntries s base).any fun a =>
    let e := readPte s a
    pteBit e 0 && (if pteBit e 1 then decide (n < 3) && p e && decide (ptePage e ≤ pa ∧ pa < ptePage e + 2 ^ (12 + 9 * n))
      else decide (n ≠ 0) && mapsFrom s p pa n (ptePage e))

/-- Whom an error in a line written back from an L2 is charged to: the context whose page it is, or the device operating
system, 0, where it is shared or nobody's (R405). -/
def lineOwner (s : State) (line : Nat) : Nat :=
  match s.ctxs.filter fun c => c.inUse && mapsFrom s (fun _ => true) (128 * line) 5 c.ptroot with
  | [c] => c.num
  | _ => 0

/-- Dirty lines that L2s write back: those with an uncorrectable error are charged to their owners (R405). -/
def State.chargeLines (s : State) (p : Nat → Bool) : State :=
  (s.poison.filter fun l => p l && Config.l2Dirty s.tick l).foldl
    (fun s l => s.charge (lineOwner s l) 0x13 (BitVec.ofNat 64 (128 * l)) 0) s

/-- The line stands in an L2 way that a die's carve-out, growing to size `b`, takes: one of ways 24 − 2b on that were L2's
(R110, R115). -/
def wayTaken (s : State) (d b line : Nat) : Bool :=
  (Config.l2Lines s.tick d).contains line && decide (homeLine s (128 * line) ≠ []) && decide (homeDie (128 * line) = d)
    && decide (24 - 2 * b ≤ Config.l2Way s.tick line) && decide (Config.l2Way s.tick line < 24 - 2 * (s.carve d).cur)

/-- The line is replaced in the L2 of its home (R98, R405). -/
def lineReplaced (s : State) (line : Nat) : Bool := decide (homeLine s (128 * line) ≠ []) && Config.l2Replaced s.tick line

/-- CARVEOUT_CHANGE_DONE: the range added is zero, the range removed has lost its bytes, and CUR takes the new size; bits of
CHRSV beyond it read 0 (R113, R115). -/
def execCarveoutChangeDone (d : Nat) (s : State) : Host.Outcome State Fault Refusal :=
  let x := s.carve d
  if x.sts ≠ 1 then .next s
  else
    let lo := chipBase d + min x.cur x.csz * 2 ^ 23
    let hi := chipBase d + max x.cur x.csz * 2 ^ 23
    let inside (a : Nat) : Bool := decide (lo ≤ a) && decide (a < hi)
    let s1 := s.dropBytes (Loc.inRange lo hi)
    let low : Dword := BitVec.ofNat 64 (2 ^ (8 * x.csz) - 1)
    let s2 := { s1 with
      mem := cellFilter (fun a => !inside a) s1.mem, poison := s1.poison.filter fun n => !inside (128 * n)
      chrsv := s1.chrsv.modify d fun m => m &&& low, chrsvWant := s1.chrsvWant.modify d fun m => m &&& low
      l2cfg := s1.l2cfg.modify d fun x => { x with cur := x.csz, sts := 0 } }
    .next (if x.cur < x.csz then s2.chargeLines (wayTaken s d x.csz) else s2)

/-- CHRSV_WRITE: granules are reserved for alias use, once no team holds them; bits at or above 8 MiB × c, and those of a range
being removed, have no effect (R113, R115). -/
def execChrsvWrite (d : Nat) (v : Dword) (s : State) : Host.Outcome State Fault Refusal :=
  let held := (s.teams.filter fun t => decide (t.cluster / 8 = d)).flatMap Team.chip
  let bits (p : Nat → Bool) : Dword := (List.range 64).foldl (fun m g => if p g then m ||| (1 <<< g) else m) 0
  let x := s.carve d
  let ok (g : Nat) : Bool := v.getLsbD g && decide (g < 8 * (if x.sts = 1 then min x.cur x.csz else x.cur))
  .next { s with
    chrsv := s.chrsv.modify d fun _ => bits fun g => ok g && !held.contains g
    chrsvWant := s.chrsvWant.modify d fun _ => bits fun g => ok g && held.contains g }

/-! ### Shootdowns (R123, R124) -/

/-- The request of the shootdown registers with a written SDCMD is malformed (R123). -/
def shootMalformed (x : Shoot) (v : Dword) : Bool :=
  let kind := (v.extractLsb' 0 2).toNat
  decide (kind = 3) || (decide (kind = 0) && decide (x.len.extractLsb' 0 36 = 0)) || decide (v &&& 0xFFFFFFFFFFFFFF0C ≠ 0)
    || decide (x.ctx &&& 0xFFFFFFFF00000000 ≠ 0) || decide (x.va &&& 0xFFF ≠ 0) || decide (x.len &&& 0xFFFFFFF000000000 ≠ 0)

/-- The shootdown covers `size` bytes at a virtual address of a context (R124). -/
def Shoot.covers (x : Shoot) (ctx page size : Nat) : Bool :=
  let lo := (x.va &&& 0x01FFFFFFFFFFF000).toNat
  let n := 4096 * (x.len.extractLsb' 0 36).toNat
  let mine := decide ((x.ctx.extractLsb' 0 32).toNat = ctx)
  match x.kind with
  | 0 => mine && decide (page < lo + n) && decide (lo < page + size)
  | 1 => mine
  | _ => true

/-- The shootdown names a context: its walk-cache entries are removed whatever the range (R124). -/
def Shoot.names (x : Shoot) (ctx : Nat) : Bool :=
  decide (1 < x.kind) || decide ((x.ctx.extractLsb' 0 32).toNat = ctx)

/-- The shootdown under way is of a whole context, or of all. -/
def Shoot.wholly (x : Shoot) (ctx : Nat) : Bool := decide (x.run.1 = 2) || decide (x.run = (1, ctx))

/-- SHOOTDOWN: SDCMD is written; with GO every cached translation and instruction line covered is removed, the walk-cache entries of the
context with them, a page a copy queue is moving data within is to be finished, and one of a whole context brings the personality
entries written before it (R123, R124, R356, R384). -/
def execShootdown (v : Dword) (s : State) : Host.Outcome State Fault Refusal :=
  let kind := (v.extractLsb' 0 2).toNat
  if !v.getLsbD 4 then .next { s with shoot := { s.shoot with kind := kind } }
  else if s.shoot.bsy then .next s
  else if shootMalformed s.shoot v then .next { s with shoot := { s.shoot with sts := 1, kind := kind } }
  else
    let x := { s.shoot with kind := kind, sts := 0, bsy := true, run := (kind, (s.shoot.ctx.extractLsb' 0 32).toNat) }
    let mark (h : HeldTr) : HeldTr := if x.covers h.e.ctx h.e.page h.e.size then { h with stale := true } else h
    .next { s with
      shoot := x
      tlb := s.tlb.filter fun e => !x.covers e.ctx e.page e.size
      walkCache := s.walkCache.filter fun e => !x.names e.ctx
      icache := s.icache.filter fun l => !x.covers l.ctx l.va 128
      decOps := s.decOps.filter fun y => !x.covers y.ctx y.va y.len
      cmds := s.cmds.map fun c => { c with trs := c.trs.map mark }
      ctxs := s.ctxs.map fun c => if x.wholly c.num then { c with persDue := c.persNext } else c }

/-- A write to physical memory. -/
def PWrite.physical (w : PWrite) : Bool := w.bytes.any fun p => match p.1 with
  | .phys _ => true
  | _ => false

/-- A decode that begins from now on uses the personality entries that were written before the shootdown began (R356). -/
def Context.takePers (c : Context) : Context :=
  { c with pers := c.persDue.getD c.pers, persNext := if c.persNext = c.persDue then none else c.persNext, persDue := none }

/-- SHOOTDOWN_DONE: no copy queue holds a removed translation, and what was accessed through one is performed at .pkg scope
(R124); personality entries written before a shootdown of the whole context come into use (R356). -/
def execShootdownDone (s : State) : Host.Outcome State Fault Refusal :=
  let ns := flushNeeds s (fun _ => true) ++ coverNeeds s PWrite.physical
  if !s.shoot.bsy ∨ s.cmds.any (fun c => c.trs.any HeldTr.stale) then .next s
  else if ns ≠ [] then .next (s.request ns)
  else
    let s1 := (s.flushComb fun _ => true).perform 4 PWrite.physical
    .next { s1 with
      shoot := { s1.shoot with bsy := false }
      ctxs := s1.ctxs.map fun c => if s.shoot.wholly c.num then c.takePers else c }

/-- The shootdown registers, written in turn (R123). -/
def writeShootReg (off : Nat) (v : Dword) (s : State) : Host.Outcome State Fault Refusal :=
  match off with
  | 0x00 => .next { s with shoot := { s.shoot with ctx := v } }
  | 0x08 => .next { s with shoot := { s.shoot with va := v } }
  | 0x10 => .next { s with shoot := { s.shoot with len := v } }
  | 0x18 => execShootdown v s
  | _ => .next s

end Sys2Proof.Machine
end

