-- ==== Sys2Proof/Machine/Outside.lean ====
section
/-!
DEFINITION. The outside parties: the counter-add window (R305, R306), the host over CXL (R414 to R418), peers over span links
(R307, R419 to R422), losses (R438), links (R442), and the Equinox time base (R423).
-/

namespace Sys2Proof.Machine

/-! ### The counter-add window (R305, R306) -/

/-- The binding of a slot. -/
def State.binding? (s : State) (slot : Nat) : Option Binding := s.bindings.find? fun b => b.slot = slot

/-- Change the binding of a slot, from an empty one where none is listed. -/
def State.modBinding (s : State) (slot : Nat) (f : Binding → Binding) : State :=
  let old := (s.binding? slot).getD { slot := slot, v := false, err := false, ctx := 0, addr := 0 }
  { s with bindings := f old :: s.bindings.filter fun b => decide (b.slot ≠ slot) }

/-- COUNTER_ADD_WINDOW_WRITE: a host write adds to the bound counter, or is dropped and marked (R306). -/
def execCounterAddWindowWrite (slot size : Nat) (v : Dword) (s : State) : Host.Outcome State Fault Refusal :=
  let drop (s : State) : State := s.modBinding slot fun (b : Binding) => { b with err := true }
  if 4096 ≤ slot then .next s
  else match s.binding? slot with
  | some b =>
    if !b.v ∨ size ≠ 8 ∨ v.msb then .next (drop s)
    else match ctrGot s b.ctx b.addr true with
    | (s1, .wait ns) => .next (s1.request ns)
    | (s1, .bad _) => .next ((drop s1).charge b.ctx 0x14 b.addr 0)
    | (s1, .got c) => .next (s1.ctrAdd c v).1
  | none => .next (drop s)

/-! ### Losses (R416, R438) -/

/-- One add to each context's fabric event counter; it waits for a host cache that holds the counter (R416, R438). -/
def State.fevcAdd (s : State) : State :=
  (s.ctxs.filter fun c => decide (c.fevc ≠ 0) && c.inUse).foldl (fun s c =>
    s.segAdd c.num { clus := false, addr := c.fevc, scope := 5, team := 0, event := true }) s

/-- What waited for a line that a host cache has given up, or that has come from the host, goes on: reductions, adds owed,
prefetched code, entries of the Almanac (R189, R201, R416, R432). -/
def State.linesFreed (s : State) : State := s.performLate.performOwed.retryPrefetches.almFlush

/-- A party is marked lost: the counters of the contexts tell, and the Almanac does (R438). -/
def State.markLost (s : State) (kind n : Nat) : State := s.fevcAdd.almAppend 0x09 0 (bytesOf kind 4 ++ bytesOf n 4)

/-- The peer has no route any more: requests in flight to it fail, and its counter messages stop (R422, R438). -/
def State.losePeer (s : State) (pkg : Nat) : State :=
  let fail (r : RemoteReq) : RemoteReq := if r.pkg = pkg ∧ r.ans.isNone then { r with ans := some (false, [7, 0]) } else r
  ({ s with
    routes := s.routes.filter fun r => decide (r.1 ≠ pkg), unrouted := s.unrouted.filter fun r => decide (r.1 ≠ pkg)
    remote := s.remote.map fail, peersLost := s.peersLost.filter (fun n => decide (n ≠ pkg)) ++ [pkg] }).markLost 0 pkg

/-! ### The host's accesses (R104, R105, R415, R416) -/

/-- The device address of a byte of an HDM decoder (R415). -/
def hdmAddr (dec off : Nat) : Option Nat :=
  match dec with
  | 0 => if off < farSize then some (farBase + off) else none
  | 1 => if off < 2 ^ 34 then some off else none
  | 2 => if off < 2 ^ 44 then some (decBase 0 + off) else none
  | _ => none

/-- The byte lies in a counter page of some context (R285). -/
def isCtPage (s : State) (pa : Nat) : Bool := s.ctxs.any fun c => c.inUse && mapsFrom s (fun e => pteBit e 5) pa 5 c.ptroot

/-- Host line entries of the home slice of a line, least recently used first. -/
def sliceLines (s : State) (line : Nat) : List HostLine :=
  s.hostLines.filter fun x => decide (homeDie (128 * x.line) = homeDie (128 * line))
    && decide (homeSlice (128 * x.line) = homeSlice (128 * line))

/-- The entry of a full snoop filter that makes room for a line (R416). -/
def filterVictim (s : State) (line : Nat) : Option Nat :=
  let xs := sliceLines s line
  if xs.length < 16384 ∨ xs.any (fun x => decide (x.line = line)) then none
  else (xs.foldl (fun (b : Option HostLine) x => match b with
    | none => some x
    | some y => if x.used < y.used then some x else some y) none).map HostLine.line

/-- What another host's copy of a line stands in the way of. -/
def hostNeed (s : State) (host line : Nat) (own : Bool) : List Need :=
  match s.hostLines.find? fun x => decide (x.line = line) && decide (x.host ≠ host) with
  | none => []
  | some x =>
    if own then (if x.st = .i then [] else [.snoop line true])
    else if x.st = .m ∨ x.st = .e then [.snoop line false] else []

/-- A host's entry for a line. -/
def State.setHostLine (s : State) (host line : Nat) (st : HostState) (dirty : List (Nat × Byte)) : State :=
  let others := s.hostLines.filter fun x => !(decide (x.line = line) && decide (x.host = host))
  { s with hostLines := { line := line, host := host, st := st, dirty := dirty, used := s.tick } :: others }

/-- The entry a host already has for a line. -/
def hostEntry (s : State) (host line : Nat) : Option HostLine := s.hostLines.find? fun x => x.line = line ∧ x.host = host

/-- The state after a host read (R416). -/
def readState (s : State) (host line : Nat) (own : Bool) : HostState × List (Nat × Byte) :=
  match hostEntry s host line with
  | some x => (if x.st = .s ∧ own then (.e, []) else if x.st = .i then (if own then .e else .s, []) else (x.st, x.dirty))
  | none => (if own then .e else .s, [])

/-- The write touches a line. -/
def onLine (line : Nat) (w : PWrite) : Bool := w.bytes.any fun p => match p.1 with
  | .phys a => decide (lineOf a = line)
  | _ => false

/-- What a host reads of a decoder range: a line's bytes. -/
def hostBytes (s : State) (host a : Nat) : List Byte :=
  (List.range 128).map fun i => if (regionOf s (a + i) 1).isNone then Config.unmappedByte (a + i)
    else anyByte s (.of (.host host) 0) (a + i)

/-- Snoops a decoded read needs on the raw lines it derives from. -/
def decodedNeeds (s : State) (a : Nat) : List Need :=
  match regionOf s a 1 with
  | some (.dec w) => targetNeeds s false 128 (.dec w (a - decBase w))
  | _ => []

/-- The answer to a read of a sealed raw alias: all ones, marked poisoned, which enters the Almanac and waits for it (R104,
R432). -/
def State.sealedReply (s : State) (data : List Byte) (ctx a : Nat) : State :=
  if almRoom s then ({ s with reply := data, replyBad := true } : State).almAppend 0x06 ctx (bytesOf a 8) else s.almAsk

/-- An access that is dropped, which enters the Almanac and waits for it (R104, R105, R285, R432). -/
def State.refuse (s : State) (ctx a : Nat) : State := if almRoom s then s.almAppend 0x06 ctx (bytesOf a 8) else s.almAsk

/-- A host read of the line at a device address. -/
def hostReadAt (s : State) (host dec off a : Nat) (own : Bool) : State :=
  let line := lineOf a
  if inSealed s a 128 then s.sealedReply (List.replicate 128 0xFF) 0 a
  else
    let ns := hostNeed s host line own ++ decodedNeeds s a
      ++ (match filterVictim s line with
        | some v => if dec = 2 then [] else [.snoop v true]
        | none => [])
    if ns ≠ [] then s.request ns
    else match s.meter (egressClass s a) 128 with
    | none => s.meterWait { cls := egressClass s a, bytes := 128, what := .hostRead host dec off own }
    | some s1 =>
      let s2 := (s1.recall none [line]).meterDone (.hostRead host dec off own)
      let s3 := { s2 with reply := hostBytes s2 host a, replyBad := false }
      if dec = 2 then s3
      else
        let (st, dirty) := readState s3 host line own
        s3.setHostLine host line st dirty

/-- HOST_HDM_READ: a host reads a line through an HDM decoder (R104, R109, R416, R431). -/
def execHostHdmRead (host dec off : Nat) (own : Bool) (s : State) : Host.Outcome State Fault Refusal :=
  match hdmAddr dec (off / 128 * 128) with
  | none => .next s
  | some a => .next (hostReadAt s host dec off a own)

/-- A host store to a device address: the host takes the line and holds the bytes dirty; the device's writes that hosts may
see already come before it, and the others snoop the line when they are performed (R314, R416). -/
def hostWriteAt (s : State) (host a : Nat) (data : List Byte) : State :=
  let line := lineOf a
  if inSealed s a data.length ∨ isCtPage s a then s.refuse 0 a
  else
    let ns := hostNeed s host line true ++ (match filterVictim s line with
      | some v => [.snoop v true]
      | none => [])
    if ns ≠ [] then s.request ns
    else
      let s1 := (s.recall none [line]).perform 6 fun w => decide (5 ≤ w.level) && onLine line w
      let old := ((hostEntry s1 host line).map HostLine.dirty).getD []
      s1.setHostLine host line .m (cellsOver old (addrBytes a data))
where
  /-- Newer bytes over older ones. -/
  cellsOver (old new : List (Nat × Byte)) : List (Nat × Byte) :=
    new ++ old.filter fun p => !new.any fun q => decide (q.1 = p.1)

/-- HOST_HDM_WRITE: a host writes within one line through an HDM decoder (R104, R105, R285, R416). -/
def execHostHdmWrite (host dec off : Nat) (data : List Byte) (s : State) : Host.Outcome State Fault Refusal :=
  match hdmAddr dec off with
  | none => .next s
  | some a =>
    if dec = 2 then .next (s.refuse 0 a)
    else if data = [] ∨ lineOf a ≠ lineOf (a + data.length - 1) then .next s
    else .next (hostWriteAt s host a data)

/-- HOST_SNOOP_ANSWER: the host answers a back-invalidate, or writes a line back that it holds owned, with none standing; what
it held dirty is in memory (R416, R417). -/
def execHostSnoopAnswer (line : Nat) (s : State) : Host.Outcome State Fault Refusal :=
  let inv := match s.snoops.find? fun q => q.line = line with
    | none => s.hostLines.any fun x => decide (x.line = line) && (decide (x.st = .m) || decide (x.st = .e))
    | some _ => s.snoops.any fun x => decide (x.line = line) && x.inv
  if !s.snoops.any (fun q => decide (q.line = line)) && !inv then .next s
  else
    let s1 := s.hostYield line inv
    .next ({ s1 with snoops := s1.snoops.filter fun x => decide (x.line ≠ line) } : State).linesFreed

/-- A host line leaves the L2 of its home die: a core's grant of it is recalled and what was written to it is in place first
(R197, R418). -/
def State.leaveL2 (s : State) (line : Nat) : State :=
  let s1 := (s.recall none [line]).perform 6 (onLine line)
  { s1 with hostMem := s1.hostMem.filter fun n => decide (n ≠ line) }

/-- HOST_SNOOP: the host takes back a host line, and the home slice answers with its bytes once what was written to it can be
performed (R416, R418). -/
def execHostSnoop (line : Nat) (s : State) : Host.Outcome State Fault Refusal :=
  if !s.hostMem.contains line then .next s
  else if coverNeeds s (onLine line) ≠ [] then .next (s.request (coverNeeds s (onLine line)))
  else
    let s1 := s.leaveL2 line
    .next { s1 with reply := cellList s1.mem (128 * line) 128, replyBad := s1.poison.contains line }

/-- HOST_LOST: a back-invalidate has stood for 100 ms; the host's lines are held by no cache any more (R416, R438). -/
def execHostLost (host : Nat) (s : State) : Host.Outcome State Fault Refusal :=
  let mine (line : Nat) : Bool := s.hostLines.any fun x => decide (x.line = line) && decide (x.host = host)
  if s.hostsLost.contains host ∨ !s.snoops.any (fun q => mine q.line && decide (q.since + 100000000 ≤ s.eqx.now.toNat)) then
    .next s
  else if !almRoom s ∧ almHeld s = [] then .next s
  else
    let s1 := { s with
      hostsLost := s.hostsLost ++ [host], hostLines := s.hostLines.filter fun x => decide (x.host ≠ host)
      snoops := s.snoops.filter fun q => !mine q.line }
    .next (s1.markLost 1 host).linesFreed.almAsk

/-- The host line that has to leave a die's L2 before another comes: the one held longest of 4,096 (R418). -/
def hostMemVictim (s : State) (line : Nat) : Option Nat :=
  let mine := s.hostMem.filter fun n => decide (homeDie (128 * n) = homeDie (128 * line))
  if 4096 ≤ mine.length then mine.head? else none

/-- CXL_CACHE_RESPONSE: a host line asked for arrives, and what waited for it goes on; each die holds 4,096 of them, and the one
held longest is written back to make room, once what was written to it can be performed (R189, R416, R418). -/
def execCxlCacheResponse (line : Nat) (data : List Byte) (s : State) : Host.Outcome State Fault Refusal :=
  if !s.cxlReqs.contains line ∨ data.length ≠ 128 then .next s
  else
    let ns := match hostMemVictim s line with
      | some old => coverNeeds s (onLine old)
      | none => []
    if ns ≠ [] then .next (s.request ns)
    else
      let s1 := match hostMemVictim s line with
        | some old => s.leaveL2 old
        | none => s
      .next ({ s1 with
        mem := cellSetAll s1.mem (addrBytes (128 * line) data), hostMem := s1.hostMem ++ [line]
        cxlReqs := s1.cxlReqs.filter fun n => decide (n ≠ line) } : State).linesFreed

/-! ### Peers (R307, R419 to R422) -/

/-- The context a message from a peer is for (R421). -/
def fabricCtx (s : State) (fctx : Dword) : Option Context := s.ctxs.find? fun c => decide (c.fctx = fctx) && c.inUse

/-- An answer to a peer: the tag, whether the access passed, and the data or the fault. -/
def State.answer (s : State) (tag : Nat) (ok : Bool) (data : List Byte) : State :=
  { s with reply := bytesOf tag 8 ++ BitVec.ofNat 8 (bitOf ok) :: data, replyBad := false }

/-- The bytes of a fault in an answer: cause, subcause, class (R422). -/
def faultBytes (cls : FaultClass) (f : MemFault) : List Byte :=
  [BitVec.ofNat 8 f.cause, BitVec.ofNat 8 f.sub, BitVec.ofNat 8 (classCode cls)]

/-- An answer that says which check failed. -/
def State.answerBad (s : State) (tag : Nat) (cls : FaultClass) (f : MemFault) : State := s.answer tag false (faultBytes cls f)

/-- PEER_READ_REQUEST: a remote read is translated by the destination context and answered (R104, R109, R421, R422). -/
def execPeerReadRequest (pkg : Nat) (fctx : Dword) (va size tag : Nat) (s : State) : Host.Outcome State Fault Refusal :=
  match fabricCtx s fctx with
  | none => .next (s.answerBad tag .mem .notPresent)
  | some c =>
    if walkNeeds s c.num (BitVec.ofNat 64 va) ≠ [] then .next (s.request (walkNeeds s c.num (BitVec.ofNat 64 va)))
    else match walk s c.num va with
    | (s1, .error f) => .next (s1.answerBad tag .mem f)
    | (s1, .ok e) =>
      let pa := e.pa + (va - e.page)
      if inSealed s1 pa size then .next (s1.sealedReply (bytesOf tag 8 ++ 1 :: List.replicate size 0xFF) c.num pa)
      else match entryCheck s1 e pa size .load with
      | some f => .next (s1.answerBad tag .mem f)
      | none =>
        let t := physTarget s1 pa e.mt
        let ns := spanNeeds s1 false size t
        if ns ≠ [] then .next (s1.request ns)
        else if spanPoisoned s1 size t then .next (s1.answerBad tag .mem (.plain 11))
        else match s1.meter (egressClass s1 pa) size with
        | none => .next (s.meterWait
            { cls := egressClass s1 pa, bytes := size, what := .peerRead pkg fctx va size tag })
        | some s2 =>
          let s3 := ((s2.recall none (spanLines t size)).fillFor (.of (.peer pkg) 0) t size).meterDone (.peerRead pkg fctx va size tag)
          .next (s3.answer tag true (readTarget s3 (.of (.peer pkg) 0) t size))

/-- PEER_WRITE: a remote write is translated by the destination context and performed at its home; one to a sealed range, a
counter page or a decoded alias is dropped (R104, R105, R285, R321, R422). -/
def execPeerWrite (tag : Nat) (fctx : Dword) (va : Nat) (data : List Byte) (s : State) :
    Host.Outcome State Fault Refusal :=
  match fabricCtx s fctx with
  | none => .next (s.answerBad tag .mem .notPresent)
  | some c =>
    if walkNeeds s c.num (BitVec.ofNat 64 va) ≠ [] then .next (s.request (walkNeeds s c.num (BitVec.ofNat 64 va)))
    else match walk s c.num va with
    | (s1, .error f) => .next (s1.answerBad tag .mem f)
    | (s1, .ok e) =>
      let pa := e.pa + (va - e.page)
      let dec : Bool := match regionOf s1 pa 1 with
        | some (.dec _) => true
        | _ => false
      if dec ∨ e.ct ∨ inSealed s1 pa data.length then .next (s1.refuse c.num pa)
      else match entryCheck s1 e pa data.length .store with
      | some f => .next (s1.answerBad tag .mem f)
      | none =>
        let t := physTarget s1 pa e.mt
        let ns := spanNeeds s1 true data.length t ++ locNeeds s1 (readLocs s1 data.length t)
        if ns ≠ [] then .next (s1.request ns)
        else
          let s2 := if e.dirty then s1 else orPte s1 (e.leafOf va) 0x80
          .next (s2.spanWrite t data)

/-- PEER_COUNTER_ADD: a counter message is performed at the counter's home; a CADDX gets the old value back, and a check that
fails there is answered with its class, the page's before the value's (R297, R307, R422). Those of a lost peer stop (R438). -/
def execPeerCounterAdd (pkg : Nat) (fctx : Dword) (va : Nat) (v : Dword) (tag : Option Nat) (s : State) :
    Host.Outcome State Fault Refusal :=
  let back (s : State) (ok : Bool) (data : List Byte) : State := s.answer (tag.getD 0) ok data
  if s.peersLost.contains pkg then .next s
  else match fabricCtx s fctx with
  | none => .next (back s false (faultBytes .mem .notPresent))
  | some c =>
    match ctrGot s c.num (BitVec.ofNat 64 va) !v.msb with
    | (s1, .wait ns) => .next (s1.request ns)
    | (s1, .bad f) => .next (back s1 false (faultBytes (ctrClass s c.num (BitVec.ofNat 64 va)) f))
    | (s1, .got p) =>
      if v.msb then .next (back s1 false (faultBytes .cntr (.plain 3))) else
      let (s2, old) := s1.ctrAdd p v
      .next (if tag.isSome then back s2 true (bytesOf old.toNat 8) else s2)

/-- REMOTE_RESPONSE: the answer to one of this package's own requests (R422). -/
def execRemoteResponse (tag : Nat) (ok : Bool) (data : List Byte) (s : State) : Host.Outcome State Fault Refusal :=
  let put (r : RemoteReq) : RemoteReq := if r.tag = tag ∧ r.ans.isNone then { r with ans := some (ok, data) } else r
  .next { s with remote := s.remote.map put }

/-! ### Links (R419, R420, R442) -/

/-- Change a link. -/
def State.modLink (s : State) (n : Nat) (f : Link → Link) : State := { s with links := s.links.modify n f }

/-- FLIT_REPLAY: a flit is sent again (R419, R442). -/
def execFlitReplay (link : Nat) (s : State) : Host.Outcome State Fault Refusal :=
  .next (s.modLink link fun (x : Link) => { x with replay := min (x.replay + 1) (2 ^ 32 - 1) })

/-- The link carries messages. -/
def Link.up (x : Link) : Bool := decide (x.st = 2) || decide (x.st = 3)

/-- A link has trained `lanes` lanes, perhaps below their full rate: it then runs degraded (R414, R442; log entry 129). -/
def trained (now n lanes : Nat) (slow : Bool) (x : Link) : Link :=
  let full := if n < 16 then 8 else 16
  let wid := if full ≤ lanes then full else if 8 ≤ lanes then 8 else if 4 ≤ lanes then 4 else 0
  { x with wid := wid, st := if wid = 0 then 4 else if wid = full ∧ !slow then 2 else 3, slow := slow, since := now
           down := if x.up then now else x.down }

/-- Since when no route reaches a package: its route was taken away, or leads through a link that is down (R438, R442). -/
def unreachedSince (s : State) (pkg : Nat) : Option Nat :=
  match s.unrouted.find? fun r => r.1 = pkg with
  | some r => some r.2
  | none => match s.routes.find? fun r => r.1 = pkg with
    | none => none
    | some r => match s.links[r.2]? with
      | some l => if l.up then none else some l.down
      | none => none

/-- A change of the route table (R420); a route to a package that was lost makes it a peer again. -/
def State.setRoute (s : State) (pkg : Nat) (link : Option Nat) : State :=
  let rest := s.routes.filter fun r => decide (r.1 ≠ pkg)
  let gone := s.unrouted.filter fun r => decide (r.1 ≠ pkg)
  match link with
  | some l =>
    { s with routes := rest ++ [(pkg, l)], unrouted := gone, peersLost := s.peersLost.filter fun n => decide (n ≠ pkg) }
  | none => { s with routes := rest, unrouted := gone ++ [(pkg, (unreachedSince s pkg).getD s.eqx.now.toNat)] }

/-- A peer's loss enters the Almanac, for which marking it waits (R432, R438). -/
def State.peerLoss (s : State) (pkg : Nat) : State := if almRoom s then s.losePeer pkg else s.almAsk

/-- MANAGEMENT_MESSAGE: training, a route update, or a notice that a peer is lost (R419, R438). -/
def execManagementMessage (msg : MgmtMessage) (s : State) : Host.Outcome State Fault Refusal :=
  match msg with
  | .training n lanes slow => .next (s.modLink n (trained s.eqx.now.toNat n lanes slow))
  | .route pkg link => .next (s.setRoute pkg link)
  | .loss pkg => .next (s.peerLoss pkg)

/-- No route has reached the package for 50 ms (R438, R442). -/
def peerGone (s : State) (pkg : Nat) : Bool :=
  match unreachedSince s pkg with
  | none => false
  | some since => decide (since + 50000000 ≤ s.eqx.now.toNat)

/-- PEER_LOST (R438). -/
def execPeerLost (pkg : Nat) (s : State) : Host.Outcome State Fault Refusal :=
  .next (if peerGone s pkg then s.peerLoss pkg else s)

/-- LINK_DOWN: a link goes down and trains again (R442). -/
def execLinkDown (n : Nat) (s : State) : Host.Outcome State Fault Refusal :=
  .next (s.modLink n fun (x : Link) => 
    { x with st := 1, wid := 0, since := s.eqx.now.toNat, down := if x.up then s.eqx.now.toNat else x.down })

/-- LINK_RETRY: once each second a failed link is trained again (R442). -/
def execLinkRetry (n lanes : Nat) (s : State) : Host.Outcome State Fault Refusal :=
  let now := s.eqx.now.toNat
  .next (s.modLink n fun (x : Link) => if x.st = 4 ∧ x.since + 1000000000 ≤ now then trained now n lanes false x else x)

/-! ### The Equinox time base (R423) -/

/-- OFS saturates at 32 bits. -/
def clampOfs (x : Int) : Int := max (-2 ^ 31) (min (2 ^ 31 - 1) x)

/-- TIMING_MESSAGE: an offset from the grandmaster is measured: 1 ms or more behind steps forward, 1 ms or more ahead holds
until the offset closes, and a smaller one is closed by slewing (R423). -/
def execTimingMessage (ofs : Int) (s : State) : Host.Outcome State Fault Refusal :=
  let e := s.eqx
  let run := if ofs.natAbs < 100 then e.lockRun + 1 else 0
  if e.gm then .next s
  else .next { s with eqx := { e with
    ofs := clampOfs ofs, lockRun := run, lock := decide (16 ≤ run)
    fix := if ofs.natAbs < 1000000 then -ofs * 1000000 else 0
    now := if ofs ≤ -1000000 then e.now + BitVec.ofInt 64 (-ofs) else e.now
    hold := decide (1000000 ≤ ofs) || (e.hold && decide (0 < ofs)) } }

/-- EQSET_WRITE: one forward step after each reset (R423). -/
def execEqsetWrite (v : Dword) (s : State) : Host.Outcome State Fault Refusal :=
  .next (if s.eqx.setUsed ∨ v ≤ s.eqx.now then s else { s with eqx := { s.eqx with now := v, setUsed := true } })

end Sys2Proof.Machine
end

