-- ==== Sys2Proof/Machine/Service.lean ====
section
/-!
DEFINITION. What the device operating system and its services do: keys, sealing and egress (R429 to R431), attestation
(R434, R435), the leader (R427, R428), the front end's firmware and the replace command (R389, R425, R426), snapshots and
islands (R439, R440), package reset, and the register space (R411, R412).
-/

namespace Sys2Proof.Machine

/-! ### Keys, seal import, egress (R429 to R431) -/

/-- KEY_DERIVE: FULL is written; the slot's key pair is derived, which enters the Almanac and waits for it (R429, R432). -/
def execKeyDerive (n : Nat) (s : State) : Host.Outcome State Fault Refusal :=
  match s.keys[n]? with
  | none => .next s
  | some k =>
    if k.full then .next s
    else if !almRoom s then .next s.almAsk
    else
      let k1 := { k with full := true, key := sealKey Config.sealRoot k.salt n }
      .next ({ s with keys := s.keys.set n k1 }.almAppend 0x02 0 (bytesOf n 4 ++ bytesOf 1 4))

/-- KEY_CLEAR: CLR is written; the slot is empty (R429). -/
def execKeyClear (n : Nat) (s : State) : Host.Outcome State Fault Refusal :=
  match s.keys[n]? with
  | none => .next s
  | some k =>
    if !k.full then .next s
    else if !almRoom s then .next s.almAsk
    else
      let k1 := { k with full := false, key := 0 }
      .next ({ s with keys := s.keys.set n k1 }.almAppend 0x02 0 (bytesOf n 4 ++ bytesOf 0 4))

/-- The stored form of one 128-byte unit of a sealed window with new plaintext bytes laid over it (R104, R430). -/
def sealUnit (s : State) (x : Window) (key : BitVec 512) (off : Nat) (data : List Byte) (u : Nat) : List Byte :=
  let seat := Seat.of (.service s.leader) 0
  let old := xtsUnit true key u ((List.range 128).map fun i => physByte s seat (x.base + 128 * u + i))
  xtsUnit false key u ((List.range 128).map fun i =>
    let o := 128 * u + i
    if off ≤ o ∧ o < off + data.length then byteAt data (o - off) else byteAt old i)

/-- SEAL_IMPORT: plaintext is written encrypted into a sealed window's raw range, which enters the Almanac (R430, R432). -/
def execSealImport (w off : Nat) (data : List Byte) (s : State) : Host.Outcome State Fault Refusal :=
  let x := s.window w
  match s.keys[x.ks]? with
  | none => .next s
  | some k =>
    if !x.en ∨ !x.isSealed ∨ !k.full ∨ data = [] ∨ x.bytes < off + data.length then .next s
    else if !almRoom s then .next s.almAsk
    else
      let us := (List.range ((off + data.length - 1) / 128 - off / 128 + 1)).map fun i => off / 128 + i
      let ns := (us.flatMap fun u => snoopNeed s true (lineOf (x.base + 128 * u)))
        ++ locNeeds s (us.flatMap fun u => (List.range 128).map fun i => .phys (x.base + 128 * u + i))
      if ns ≠ [] then .next (s.request ns)
      else
        let bytes := us.flatMap fun u => addrBytes (x.base + 128 * u) (sealUnit s x k.key off data u)
        let s1 := (s.recall none (us.map fun u => lineOf (x.base + 128 * u))).writeNow (bytes.map fun p => (Loc.phys p.1, p.2))
        .next (s1.almAppend 0x03 0 (bytesOf w 4 ++ bytesOf 0 4 ++ bytesOf off 8 ++ bytesOf data.length 8))

/-- A read by the debug port: metered by the window's class and refused in a sealed raw range, as a host's is (R104, R109, R431;
log entry 133). -/
def debugReadAt (s : State) (pa n : Nat) : State :=
  let t := physTarget s pa 0
  let ns := spanNeeds s false n t
  if physBad s pa n then s
  else if inSealed s pa n then s.sealedReply (List.replicate n 0xFF) 0 pa
  else if ns ≠ [] then s.request ns
  else match s.meter (egressClass s pa) n with
  | none => s.meterWait { cls := egressClass s pa, bytes := n, what := .debugRead pa n }
  | some s1 =>
    let s2 := ((s1.recall none (spanLines t n)).fillFor homeSeat t n).meterDone (.debugRead pa n)
    { s2 with reply := readTarget s2 homeSeat t n, replyBad := spanPoisoned s n t }

/-- EGRESS_RELEASE: the oldest metered traffic of a class goes on once the bucket holds its bytes (R431). -/
def execEgressRelease (cls : Nat) (s : State) : Host.Outcome State Fault Refusal :=
  match s.metered.find? fun m => m.cls = cls with
  | none => .next s
  | some m =>
    if (s.meter cls m.bytes).isNone then .next s.almAsk
    else match m.what with
    | .copy who => .next (s.meterDone (.copy who))
    | .hostRead host dec off own => execHostHdmRead host dec off own s
    | .peerRead pkg fctx va size tag => execPeerReadRequest pkg fctx va size tag s
    | .debugRead pa n => .next (debugReadAt s pa n)

/-- A write of RATE and BURST, which enters the Almanac and waits for it (R431, R432). -/
def writeEgress (c : Nat) (v : Dword) (s : State) : State :=
  if !almRoom s then s.almAsk
  else ({ s with egress := s.egress.modify c fun x =>
    { x with rate := (v.extractLsb' 32 32).toNat, burst := (v.extractLsb' 0 32).toNat } }).almAppend 0x04 0
      (bytesOf c 4 ++ bytesOf 0 4 ++ bytesOf v.toNat 8)

/-! ### Attestation (R435) -/

/-- `n` bytes of a context's memory as its page table has them, a page that is not mapped reading as nothing; `k` pages. -/
def mappedBytes (s : State) (ctx : Nat) : Nat → Nat → List Byte
  | 0, _ => []
  | k + 1, va =>
    (match walk s ctx va with
      | (_, .ok e) => (List.range 4096).map fun i => physByte s homeSeat (e.pa + (va - e.page) + i)
      | _ => []) ++ mappedBytes s ctx k (va + 4096)

/-- The measurement of a loaded personality image: SHA-512 over header, planes, patterns and templates as they stand in memory
(R358, R435; the extent is the model's choice, log entry 130). -/
def imageMeasure (s : State) (ctx img : Nat) : List Byte :=
  let head := mappedBytes s ctx 1 img
  let tpl := recBits head 4 5 11
  let n := 0x3080 + 128 * tpl
  sha512 ((mappedBytes s ctx ((n + 4095) / 4096) img).take n)

/-- The measurements a report covers: the boot ROM's, and that of each loaded personality image (R435). -/
def allMeasures (s : State) : List Byte :=
  Config.measurements ++ (s.ctxs.filter Context.inUse).flatMap fun c =>
    (c.pers.filter fun p => p.2.1).flatMap fun p => imageMeasure s c.num p.1

/-- ATTESTATION_REQUEST: the signed report; its entry is appended before the signature is released, for which it waits (R432,
R435). -/
def execAttestationRequest (nonce : List Byte) (s : State) : Host.Outcome State Fault Refusal :=
  if nonce.length ≠ 64 then .next s
  else if !almRoom s then .next s.almAsk
  else
    let report := nonce ++ sealId ++ bytesOf 0xB0 4 ++ sha512 (allMeasures s) ++ bytesOf s.alm.seq 8
    let sig := (Config.ecdsaSign s.alm.signs (sha512 report)).take 132
    let s1 := s.almAppend 0x0A 0 (nonce.take 40)
    .next { s1 with alm := { s1.alm with signs := s1.alm.signs + 1 }, reply := report ++ sig, replyBad := false }

/-! ### Service pairs and the leader (R427, R428) -/

/-- A live pair's test of the heartbeat: it notes an advance, or counts another quiet millisecond; one whose port has been revoked
finds that, and stops (R427, R428). -/
def Pair.test (p : Pair) (heartbeat epoch : Nat) : Pair :=
  if !p.live then p
  else if !p.port then { p with live := false }
  else if p.seen ≠ heartbeat then { p with seen := heartbeat, epoch := epoch, quiet := 0 }
  else { p with quiet := p.quiet + 1 }

/-- The pair of a die. -/
def State.pair (s : State) (die : Nat) : Pair :=
  (s.pairs[die]?).getD { live := false, port := false, seen := 0, epoch := 0, quiet := 0 }

/-- The heartbeat counter and the leader epoch counter, in the package's service page (R427, R428; log entry 131). -/
def State.heartbeat (s : State) : CtrPlace := .phys s.svcPage

def State.leaderEpoch (s : State) : CtrPlace := .phys (s.svcPage + 8)

/-- LEADER_HEARTBEAT: a millisecond of the leader and its followers: the heartbeat counter advances, and the other live pairs
test it (R427). -/
def execLeaderHeartbeat (s : State) : Host.Outcome State Fault Refusal :=
  let ns := ctrNeeds s true s.heartbeat ++ ctrNeeds s false s.leaderEpoch
  if ns ≠ [] then .next (s.request ns)
  else
    let alive := (s.pair s.leader).live && (s.pair s.leader).port
    let s1 := if alive then ((s.recall none [lineOf s.svcPage]).ctrAdd s.heartbeat 1).1 else s
    let s2 := s1.ctrSettle s1.leaderEpoch
    let test (p : Pair) (d : Nat) : Pair :=
      if d = s.leader then p else p.test (ctrValue s2 s2.heartbeat).toNat (ctrValue s2 s2.leaderEpoch).toNat
    .next { s2 with pairs := s2.pairs.zipIdx.map fun x => test x.1 x.2 }

/-- LEADER_TAKEOVER: a follower that has waited its turn adds 1 to the epoch counter; one that got the value it had last read
becomes leader, revokes the old pair's port and says so in the Almanac, for which it waits (R428, R432). -/
def execLeaderTakeover (die : Nat) (s : State) : Host.Outcome State Fault Refusal :=
  let p := s.pair die
  let ns := ctrNeeds s true s.leaderEpoch
  if 4 ≤ die ∨ die = s.leader ∨ !p.live ∨ !p.port ∨ p.quiet < 10 + 2 * ((die + 4 - s.leader) % 4) then .next s
  else if !almRoom s then .next s.almAsk
  else if ns ≠ [] then .next (s.request ns)
  else
  let (s1, old) := (s.recall none [lineOf s.svcPage]).ctrAdd s.leaderEpoch 1
  if old.toNat = p.epoch then
    let pairs := (s.pairs.modify s.leader fun (x : Pair) => { x with port := false }).modify die fun (x : Pair) =>
      { x with port := true, quiet := 0, epoch := p.epoch + 1 }
    .next (({ s1 with leader := die, pairs := pairs } : State).almAppend 0x07 0 (bytesOf s.leader 4 ++ bytesOf die 4))
  else
    .next { s1 with pairs := s.pairs.modify die fun (x : Pair) => { x with quiet := 0, epoch := old.toNat + 1 } }

/-- SERVICE_PAIR_MISMATCH: the pair stops, which enters the Almanac and waits for it (R427, R432). -/
def execServicePairMismatch (die : Nat) (s : State) : Host.Outcome State Fault Refusal :=
  if 4 ≤ die then .next s
  else if !almRoom s then .next s.almAsk
  else .next ({ s with pairs := s.pairs.modify die fun (x : Pair) => { x with live := false } }.almAppend 0x08 0 (bytesOf die 4))

/-- PACKAGE_RESET: every register takes its reset value, and the lowest die whose pair passes its self-test leads (R427). -/
def execPackageReset (selfTest : BitVec 4) (s : State) : Host.Outcome State Fault Refusal :=
  let pairs := (List.range 4).map fun d =>
    { live := selfTest.getLsbD d, port := selfTest.getLsbD d, seen := 0, epoch := 0, quiet := 0 : Pair }
  .next { State.reset with
    agenda := s.agenda, pairs := pairs, leader := ((List.range 4).find? fun d => selfTest.getLsbD d).getD 0 }

/-! ### The front end's firmware (R389, R425, R426) -/

/-- The replace command is malformed (R387, R389). -/
def replaceMalformed (s : State) : Bool :=
  let c := s.ctx? s.fe.krctx
  (match c with
    | none => true
    | some c => decide (c.kitn ≤ s.fe.kridx))
  || decide (s.fe.krnew.extractLsb' 64 6 ≠ 0) || decide (s.fe.krnew.extractLsb' 0 63 ≠ 0)

/-- The replace is done, or was malformed. -/
def State.replaceEnd (s : State) (bad : Bool) (old : List Nat) : State :=
  { s with fe := { s.fe with
    krbsy := false, krsts := bad, krold := if bad then s.fe.krold else some old
    krpast := if bad then s.fe.krpast else s.fe.krpast ++ old } }

/-- The launches bound to the entry that is in force now: not those bound to one replaced earlier (R328, R389). -/
def boundNow (s : State) (ctx idx : Nat) : List Nat :=
  (s.launches.filter fun l => decide (l.ctx = ctx ∧ l.kidx = idx) && l.bound && !s.fe.krpast.contains l.id).map Launch.id

/-- Perform the replace command: NEW is written over the entry at one point; launches bound before it keep the old entry
(R389). -/
def replaceNow (s : State) : State :=
  match s.ctx? s.fe.krctx with
  | none => s.replaceEnd true []
  | some c =>
    match spanGot s c.num (BitVec.ofNat 64 (c.kitb + 16 * s.fe.kridx)) 16 .store with
    | (s1, .wait ns) => { s1.request ns with fe := { s1.fe with krbsy := true, krsts := false } }
    | (s1, .bad _) => s1.replaceEnd true []
    | (s1, .got t) =>
      (s1.spanWrite t (bytesOf s1.fe.krnew.toNat 16)).replaceEnd false (boundNow s1 c.num s1.fe.kridx)

/-- KERNEL_REPLACE: GO is written, or a command under way goes on; the Winter scheduler leaves it for the firmware (R389,
R426). -/
def execKernelReplace (s : State) : Host.Outcome State Fault Refusal :=
  if s.fe.krbsy then .next (if s.fe.win then s else replaceNow s)
  else if replaceMalformed s then .next { s with fe := { s.fe with krsts := true } }
  else if s.fe.win then .next { s with fe := { s.fe with krbsy := true, krsts := false } }
  else .next (replaceNow s)

/-- FEHB is written: the heartbeat of firmware whose signature the boot ROM has accepted; it takes over again, from Winter once the
FEED that Winter has taken has ended (R425, R426). A replace command that waited for it then goes on. -/
def heartbeatOf (v : Dword) (s : State) : Host.Outcome State Fault Refusal :=
  if Config.firmwareSigned s.fe.rboot then
    let later := s.fe.win && decide (s.feeds ≠ [])
    .next { s with fe := { s.fe with fehb := v, win := later, back := later, fwup := true, fehbAge := 0 } }
  else .next { s with fe := { s.fe with fehb := v } }

/-- FEHB_WRITE: the firmware's own write; what it writes is a free value (R425, log entry 134). -/
def execFehbWrite (s : State) : Host.Outcome State Fault Refusal := heartbeatOf (Config.firmwareBeat s.tick) s

/-- FRONT_END_WATCHDOG: FEHB has not been written for 4 ms: Winter serves the queues, and the firmware core restarts (R425). -/
def execFrontEndWatchdog (s : State) : Host.Outcome State Fault Refusal :=
  if s.fe.fehbAge < 4000000 then .next s
  else .next { s with fe := { s.fe with win := true, back := false, fwup := false, fehbAge := 0, rboot := min (s.fe.rboot + 1) (2 ^ 32 - 1) } }

/-! ### Snapshots and islands (R439, R440) -/

/-- SNAPGO: a snapshot is armed; one armed before is replaced (R439). -/
def execSnapgo (t : Dword) (s : State) : Host.Outcome State Fault Refusal := .next { s with snapgo := some t }

/-- ISL as it reads (R440). -/
def Island.word (x : Island) : Dword :=
  BitVec.ofNat 64 (x.fmhz % 65536 * 2 ^ 48 + x.cur % 65536 * 2 ^ 32 + bitOf x.thr * 2 + bitOf x.off)

/-- The sum of one condition count over cores and contexts, saturating. -/
def condSum (s : State) (i : Nat) : Nat :=
  min ((s.conds.filter fun p => decide (p.1 % 8 = i)).map fun p => p.2.toNat).sum (2 ^ 32 - 1)

/-- A line as sixteen words. -/
def lineWords (s : State) (line : Nat) : List Dword :=
  (List.range 16).map fun i => BitVec.ofNat 64 (ofBytes ((List.range 8).map fun j => anyByte s homeSeat (128 * line + 8 * i + j)))

/-- The form a line is stored in (R111). -/
inductive LineForm
  | zero
  | delta8
  | delta16
  | whole
  deriving DecidableEq, Repr, Inhabited

/-- The form that holds sixteen words (R111). -/
def lineForm (ws : List Dword) : LineForm :=
  let near (n : Nat) : Bool := ws.all fun w =>
    let d := (w - ws.headD 0).toInt
    decide (-(2 ^ (n - 1) : Int) ≤ d) && decide (d < 2 ^ (n - 1))
  if ws.all fun w => w = 0 then .zero else if near 8 then .delta8 else if near 16 then .delta16 else .whole

/-- Half slots of a home slice's L2: two in each way of its 1,024 sets that is not the chip scratchpad's (R110). -/
def sliceRoom (s : State) (die : Nat) : Nat := 1024 * 2 * (24 - 2 * (s.carve die).cur)

/-- The forms of lines as far as `room` half slots hold them: a whole line takes two (R110, R111). -/
def formsFit : List LineForm → Nat → List LineForm
  | [], _ => []
  | f :: r, room =>
    let n := if f = .whole then 2 else 1
    if n ≤ room then f :: formsFit r (room - n) else formsFit r room

/-- Full-slot, and half-slot, lines of a home slice: by the forms of the lines its L2 holds, which are lines with a home there
and no more than its ways hold (R16, R98, R110, R111). -/
def l2Counts (s : State) (die slice : Nat) : Nat × Nat :=
  let ls := (Config.l2Lines s.tick die).eraseDups.filter fun l =>
    decide (homeLine s (128 * l) ≠ []) && decide (homeDie (128 * l) = die ∧ homeSlice (128 * l) = slice)
  let forms := formsFit (ls.map fun l => lineForm (lineWords s l)) (sliceRoom s die)
  ((forms.filter fun f => f = .whole).length, (forms.filter fun f => f ≠ .whole).length)

/-- The contexts resident on a core, in rising order: it keeps condition counts for each (R231). -/
def residentOn (s : State) (core : Nat) : List Nat :=
  ((s.teams.filter fun t => decide (t.status = .placed ∧ t.core = core)).map Team.ctx).foldr insertNat []

/-- The register of condition `i` of the context that stands at place `k` among a core's: its number in bits 63 to 32, and the
count in bits 31 to 0 (R231, R411, R439; log entry 132). -/
def condWord (s : State) (core k i : Nat) : Dword := match (residentOn s core)[k]? with
  | none => 0
  | some ctx => BitVec.ofNat 32 ctx ++ cellGet s.conds (condKey core ctx i)

/-- Where that register stands among the snapshot registers: 16 contexts of 5 counts for each core, from place 1,024 on. -/
def condPlace (core k i : Nat) : Nat := 1024 + 80 * core + 5 * k + i

/-- The condition registers of the cores that hold a team, with their places. -/
def condCells (s : State) : List (Nat × Dword) :=
  (((s.teams.filter fun t => decide (t.status = .placed)).map Team.core).foldr insertNat []).flatMap fun core =>
    (List.range 16).flatMap fun k => (List.range 5).map fun i => (condPlace core k i, condWord s core k i)

/-- The first registers a snapshot latches, in the model's order: queue heads, teams per cluster, counts of each L2 slice, replays,
islands, and the sum of each condition count over cores and contexts; the counts themselves follow (R439, log entry 132). -/
def snapValues (s : State) : List Dword :=
  (s.queues.map Queue.next)
    ++ ((List.range 32).map fun c =>
      BitVec.ofNat 64 (s.teams.filter fun t => decide (clusterOf t.core = c ∧ t.status = .placed)).length)
    ++ ((List.range 128).flatMap fun i =>
      let n := l2Counts s (i / 32) (i % 32)
      [BitVec.ofNat 64 n.1, BitVec.ofNat 64 n.2])
    ++ (s.links.map fun l => BitVec.ofNat 64 l.replay)
    ++ s.islands.map Island.word ++ (List.range 5).map fun i => BitVec.ofNat 64 (condSum s i)

/-- SNAPSHOT_LATCH: at time T the snapshot registers latch (R439). -/
def execSnapshotLatch (s : State) : Host.Outcome State Fault Refusal :=
  match s.snapgo with
  | none => .next s
  | some t =>
    if s.eqx.now < t then .next s
    else .next { s with snapgo := none, snap := cellSetAll [] (((snapValues s).zipIdx.map fun x => (x.2, x.1)) ++ condCells s) }

/-- A core of the island, and whether the home of a counter lies in it. -/
def inIsland (n core : Nat) : Bool := decide (islandOf core = n) && decide (core < 768)

/-- The home of a counter lies in the island (R290, R440). -/
def homeInIsland (s : State) (n : Nat) (c : CtrPlace) : Bool := match c with
  | .phys pa => decide (5 * homeDie pa + 4 = n)
  | .seg _ _ _ => inIsland n (ctrHome s c)

/-- The waiter entries and near lines of an island that is changed or halted return home: the waits end early (R197, R290,
R440). -/
def State.emptyIsland (s : State) (n : Nat) : State :=
  let early := (s.waiters.filter fun w => homeInIsland s n w.ctr).map Waiter.sl
  let s1 := early.foldl State.endWait s
  { s1 with near := s1.near.filter fun p => !inIsland n p.1 }

/-- A team is resident on the island's cores. -/
def islandBusy (s : State) (n : Nat) : Bool := s.teams.any fun t => decide (t.status = .placed) && inIsland n t.core

/-- ISLAND_CONTROL: ISL is written: the clock, and the halt, refused while a team is resident; an island that this changes is
emptied first (R290, R440). -/
def execIslandControl (n : Nat) (v : Dword) (s : State) : Host.Outcome State Fault Refusal :=
  let f := (v.extractLsb' 48 16).toNat
  let halt := v.getLsbD 0 && !islandBusy s n
  let set (x : Island) : Island :=
    let fm := if 100 ≤ f ∧ f ≤ 850 then f else x.fmhz
    { x with fmhz := fm, cur := if x.thr then min x.cur fm else fm, off := halt }
  let s1 := if (s.islands[n]?).map set ≠ s.islands[n]? then s.emptyIsland n else s
  .next { s1 with islands := s1.islands.modify n set }

/-- Compute islands: the cluster pairs of the compute dies (R23). -/
def computeIsland (n : Nat) : Bool := decide (n < 20) && decide (n % 5 ≠ 4)

/-- POWER_LIMIT_THROTTLE: measured power over PWRLIM lowers the compute islands by 25 MHz; under it they return (R440). -/
def execPowerLimitThrottle (watts : Nat) (s : State) : Host.Outcome State Fault Refusal :=
  let lower (x : Island) : Island :=
    if s.pwrlim < watts then { x with cur := max 100 (x.cur - 25), thr := true } else { x with cur := x.fmhz, thr := false }
  let moved := (List.range 20).filter fun n => computeIsland n && decide ((s.islands[n]?).map (Island.cur ∘ lower) ≠ (s.islands[n]?).map Island.cur)
  let s1 := moved.foldl State.emptyIsland s
  .next { s1 with islands := s1.islands.zipIdx.map fun x => if computeIsland x.2 then lower x.1 else x.1 }

/-! ### The register space (R411) -/

/-- A word of a QCB copy as it reads (R323). -/
def qcbWord (x : Queue) (c : QcbCopy) (off : Nat) : Dword := match off with
  | 0x00 => BitVec.ofNat 64 (c.ctx % 2 ^ 32 * 2 ^ 32 + c.logn % 16 * 2 ^ 20 + bitOf c.dev * 2 ^ 16 + x.sts % 4 * 2 + bitOf c.en)
  | 0x08 => c.ring &&& ~~~127
  | 0x10 => c.tail
  | 0x18 => c.head
  | 0x20 => x.next
  | 0x28 => x.reason.zeroExtend 64 <<< 56 ||| x.idx.zeroExtend 64
  | _ => 0

/-- A write of a word of a QCB copy: dropped on the copy in force, but for the clearing of REASON; EN = 1 checks and enables
(R323, R424). -/
def writeQcb (q : Nat) (second : Bool) (off : Nat) (v : Dword) (s : State) : Host.Outcome State Fault Refusal :=
  let put (f : QcbCopy → QcbCopy) : State := s.modQueue q fun (x : Queue) => x.modSpare f
  let other := decide ((s.queue q).sel ≠ second)
  if off = 0x28 then
    let s1 := if other then put fun (c : QcbCopy) => { c with rsvd5 := decide (v &&& 0x00FFFFFF00000000 ≠ 0) } else s
    if v.msb then execReasonClear q s1 else .next s1
  else if !other then .next s
  else match off with
  | 0x00 =>
    let s1 := put fun (c : QcbCopy) =>
      { c with ctx := (v.extractLsb' 32 32).toNat, logn := (v.extractLsb' 20 4).toNat, dev := v.getLsbD 16, en := false
               rsvd := decide (v &&& 0xFF0EFFF8 ≠ 0) }
    if v.getLsbD 0 then execQueueEnable q s1 else .next s1
  | 0x08 => .next (put fun (c : QcbCopy) => { c with ring := v })
  | 0x10 => .next (put fun (c : QcbCopy) => { c with tail := v })
  | 0x18 => .next (put fun (c : QcbCopy) => { c with head := v })
  | 0x30 => .next (put fun (c : QcbCopy) => { c with rsvd6 := decide (v ≠ 0) })
  | 0x38 => .next (put fun (c : QcbCopy) => { c with rsvd7 := decide (v ≠ 0) })
  | _ => .next s

/-- A word of the front-end region as it reads. -/
def feWord (s : State) (o : Nat) : Dword :=
  if o < 0x2000 then
    let x := s.queue (o / 128)
    qcbWord x (if o / 64 % 2 = 1 then x.c1 else x.c0) (o % 64)
  else if o < 0x2200 then
    let x := s.queue ((o - 0x2000) / 8)
    x.seq.zeroExtend 64 <<< 1 ||| (BitVec.ofBool x.sel).zeroExtend 64
  else match o with
  | 0x3000 => s.fe.fehb
  | 0x3008 => BitVec.ofNat 64 (s.fe.rboot % 2 ^ 32 * 2 ^ 32 + bitOf s.fe.win * 2 + bitOf s.fe.fwup)
  | 0x3010 => BitVec.ofNat 64 s.fe.krctx
  | 0x3018 => BitVec.ofNat 64 s.fe.kridx
  | 0x3020 => s.fe.krnew.extractLsb' 0 64
  | 0x3028 => s.fe.krnew.extractLsb' 64 64
  | 0x3030 => BitVec.ofNat 64 (bitOf (decide (s.fe.krold = some [])) * 8 + bitOf s.fe.krsts * 4 + bitOf s.fe.krbsy * 2)
  | _ => 0

/-- A write of the front-end region (R389, R424, R425). -/
def writeFe (o : Nat) (v : Dword) (s : State) : Host.Outcome State Fault Refusal :=
  if o < 0x2000 then writeQcb (o / 128) (decide (o / 64 % 2 = 1)) (o % 64) v s
  else if o < 0x2200 then execQverUpdate ((o - 0x2000) / 8) v s
  else match o with
  | 0x3000 => heartbeatOf v s
  | 0x3010 => .next { s with fe := { s.fe with krctx := (v.extractLsb' 0 32).toNat } }
  | 0x3018 => .next { s with fe := { s.fe with kridx := (v.extractLsb' 0 16).toNat } }
  | 0x3020 => .next { s with fe := { s.fe with krnew := (s.fe.krnew.extractLsb' 64 64) ++ v } }
  | 0x3028 => .next { s with fe := { s.fe with krnew := v ++ s.fe.krnew.extractLsb' 0 64 } }
  | 0x3030 =>
    if s.fe.krbsy ∨ !v.getLsbD 0 then .next s
    else if v &&& 0xFFFFFFFFFFFFFFF0 ≠ 0 then .next { s with fe := { s.fe with krsts := true } }
    else execKernelReplace s
  | _ => .next s

/-- A word of the window registers as it reads (R99, R100). -/
def windowWord (s : State) (w off : Nat) : Dword :=
  let x := s.window w
  match off with
  | 0x00 => x.ctl
  | 0x08 => x.raw &&& 0x000FFFFFFFFF0000
  | 0x10 => x.size &&& 0x00000000001FFFFF
  | 0x18 => x.scl &&& 0x000FFFFFFFFFFF80
  | 0x20 => BitVec.ofNat 64 (decBase w)
  | _ => 0

/-- A word of the shootdown and carve-out region as it reads (R113, R114, R123). -/
def shootWord (s : State) (o : Nat) : Dword :=
  if 0x100 ≤ o ∧ o < 0x120 then
    let x := s.carve ((o - 0x100) / 8)
    BitVec.ofNat 64 (x.cur % 16 * 256 + x.sts % 4 * 16 + x.csz % 16)
  else if 0x200 ≤ o ∧ o < 0x220 then (s.chrsv[(o - 0x200) / 8]?).getD 0
  else match o with
  | 0x00 => s.shoot.ctx &&& 0xFFFFFFFF
  | 0x08 => s.shoot.va &&& ~~~0xFFF
  | 0x10 => s.shoot.len &&& 0xFFFFFFFFF
  | 0x18 => BitVec.ofNat 64 (s.shoot.sts % 4 * 64 + bitOf s.shoot.bsy * 32 + s.shoot.kind % 4)
  | _ => 0

/-- A word of the key, egress and Almanac region as it reads (R429 to R433). -/
def sealRegWord (s : State) (o : Nat) : Dword :=
  if o < 0x1000 then
    match s.keys[o / 64]? with
    | none => 0
    | some k =>
      if o % 64 = 0 then BitVec.ofNat 64 (bitOf k.full)
      else if o % 64 < 0x28 then k.salt.extractLsb' (8 * (o % 64 - 8)) 64 else 0
  else if 0x1000 ≤ o ∧ o < 0x1100 then
    let e := s.egressOf ((o - 0x1000) / 32)
    match o % 32 with
    | 0 => BitVec.ofNat 64 (e.rate % 2 ^ 32 * 2 ^ 32 + e.burst % 2 ^ 32)
    | 8 => BitVec.ofNat 64 e.total
    | 16 => BitVec.ofNat 64 e.held
    | _ => 0
  else if o = 0x8000 then s.alm.port
  else if o = 0x8010 then BitVec.ofNat 64 (s.alm.base.getD 0)
  else 0

/-- Does the device operating system make the access? -/
def fromService : Agent → Bool
  | .service _ => true
  | _ => false

/-- A write of the key, egress and Almanac region: the host may write the port and ALMACK only (R411, R429 to R433). -/
def writeKeys (who : Agent) (o : Nat) (v : Dword) (s : State) : Host.Outcome State Fault Refusal :=
  if o = 0x8000 then execAlmanacPortSelect v s
  else if o = 0x8008 then execAlmack v.toNat s
  else if !fromService who then .next s
  else if o = 0x8010 then execAlmbaseWrite v s
  else if o < 0x1000 then
    if o % 64 = 0 then (if v.getLsbD 0 then execKeyDerive (o / 64) s else if v.getLsbD 1 then execKeyClear (o / 64) s else .next s)
    else if o % 64 < 0x28 then
      let sh := 8 * (o % 64 - 8)
      .next { s with keys := s.keys.modify (o / 64) fun (k : KeySlot) => if k.full then k else
        { k with salt := (k.salt &&& ~~~((0xFFFFFFFFFFFFFFFF : BitVec 256) <<< sh)) ||| (v.zeroExtend 256 <<< sh) } }
    else .next s
  else if 0x1020 ≤ o ∧ o < 0x1100 ∧ o % 32 = 0 then .next (writeEgress ((o - 0x1000) / 32) v s)
  else .next s

/-- A word of the Equinox, snapshot, island and link region as it reads (R423, R439, R440, R442). -/
def timeWord (s : State) (o : Nat) : Dword :=
  if 0x1000 ≤ o ∧ o < 0x1180 ∧ o % 16 = 0 then ((s.islands[(o - 0x1000) / 16]?).map Island.word).getD 0
  else if 0x2000 ≤ o ∧ o < 0x2090 then
    match s.links[(o - 0x2000) / 8]? with
    | some l => BitVec.ofNat 64 (l.replay % 2 ^ 32 * 2 ^ 32 + l.wid % 16 * 16 + l.st % 16)
    | none => 0
  else match o with
  | 0x0000 => (BitVec.ofInt 32 s.eqx.ofs).zeroExtend 64 <<< 32
      ||| BitVec.ofNat 64 (bitOf s.eqx.gm * 4 + bitOf s.eqx.hold * 2 + bitOf s.eqx.lock)
  | 0x0100 => s.snapgo.getD 0
  | 0x0200 => BitVec.ofNat 64 s.pwrlim
  | _ => 0

/-- A write of the Equinox, snapshot, island and link region. -/
def writeTime (who : Agent) (o : Nat) (v : Dword) (s : State) : Host.Outcome State Fault Refusal :=
  if 0x1000 ≤ o ∧ o < 0x1180 ∧ o % 16 = 0 then execIslandControl ((o - 0x1000) / 16) v s
  else match o with
  | 0x0000 => .next (if fromService who then { s with eqx := { s.eqx with gm := v.getLsbD 2 } } else s)
  | 0x0008 => execEqsetWrite v s
  | 0x0100 => execSnapgo v s
  | 0x0200 => .next { s with pwrlim := v.toNat }
  | _ => .next s

/-- The 64-bit register at an offset of BAR0 as it reads, but for the counter-add window and the performance region. -/
def regWord (s : State) (off : Nat) : Dword :=
  let o := off % 65536
  match off / 65536 with
  | 1 => feWord s o
  | 2 => if 0x4000 ≤ o ∧ o < 0x5000 then windowWord s ((o - 0x4000) / 64) (o % 64) else 0
  | 3 => shootWord s o
  | 5 => sealRegWord s o
  | 6 => timeWord s o
  | _ => 0

/-- A 64-bit write at an offset of BAR0 (R411). -/
def regWrite (who : Agent) (off : Nat) (v : Dword) (s : State) : Host.Outcome State Fault Refusal :=
  let o := off % 65536
  match off / 65536 with
  | 1 => writeFe o v s
  | 2 => if 0x4000 ≤ o ∧ o < 0x5000 then writeWindowReg ((o - 0x4000) / 64) (o % 64) v s else .next s
  | 3 =>
    if 0x100 ≤ o ∧ o < 0x120 then execCarveoutChange ((o - 0x100) / 8) v s
    else if 0x200 ≤ o ∧ o < 0x220 then execChrsvWrite ((o - 0x200) / 8) v s
    else writeShootReg o v s
  | 5 => writeKeys who o v s
  | 6 => writeTime who o v s
  | _ => .next s

/-- The agents that reach BAR0: the hosts and the service pairs (R411). -/
def reachesBar : Agent → Bool
  | .host _ => true
  | .service _ => true
  | _ => false

/-- A snapshot register as it stands, by its place. -/
def liveWord (s : State) (i : Nat) : Dword :=
  if i < 1024 then ((snapValues s)[i]?).getD 0
  else if i < condPlace 768 0 0 then condWord s ((i - 1024) / 80) ((i - 1024) % 80 / 5) ((i - 1024) % 5) else 0

/-- A word of the performance region: in its lower half the latched snapshot, in its upper half the same registers as they stand
(R231, R411, R439; the places are the model's choice, log entry 132). -/
def perfWord (s : State) (i : Nat) : Dword := if i < 0x10000 then cellGet s.snap i else liveWord s (i - 0x10000)

/-- What an 8-byte read of BAR0 answers outside the counter-add window: the identity registers, the registers above, and the
performance region; a reserved offset reads zero (R411, R434, R439). -/
def barWord (s : State) (off : Nat) : Dword :=
  if off = 0 then 0x000000B000004734
  else if off = 8 then BitVec.ofNat 64 (ofBytes sealId)
  else if 0x100000 ≤ off ∧ off < 0x200000 then perfWord s ((off - 0x100000) / 8)
  else regWord s off

/-- What a read of BAR0 answers: all ones where it is narrower than 4 bytes or not naturally aligned (R411). In the counter-add
window an 8-byte read of a bound slot answers the counter, relaxed, and every other read all ones (R306). A read changes nothing, and the
table has no event for it. -/
def barRead (s : State) (off size : Nat) : List Byte :=
  if (size ≠ 4 ∧ size ≠ 8) ∨ off % size ≠ 0 then List.replicate size 0xFF
  else if off / 65536 = 4 then
    match s.binding? (off % 65536 / 8) with
    | some b =>
      if b.v ∧ size = 8 then
        match ctrOfCtx s b.ctx b.addr with
        | (s1, .ok c) => bytesOf (ctrValue s1 c).toNat 8
        | _ => List.replicate size 0xFF
      else List.replicate size 0xFF
    | none => List.replicate size 0xFF
  else bytesOf ((barWord s (off / 8 * 8)).toNat / 256 ^ (off % 8)) size

/-- The agent acts: a service pair does while it is live and its port is not revoked (R427, R428). -/
def State.mayAct (s : State) : Agent → Bool
  | .service d => (s.pair d).live && (s.pair d).port
  | _ => true

/-- An old leader that comes back finds its port revoked and stops (R428). -/
def State.stopRevoked (s : State) : Agent → State
  | .service d => { s with pairs := s.pairs.modify d fun (x : Pair) => { x with live := x.live && x.port } }
  | _ => s

/-- REGISTER_WRITE: a write of 4 or 8 naturally aligned bytes of BAR0; others are dropped. A 4-byte write changes one half of
its register (R411). -/
def execRegisterWrite (who : Agent) (off size : Nat) (v : Dword) (s : State) : Host.Outcome State Fault Refusal :=
  if !reachesBar who ∨ 2 ^ 25 ≤ off then .next s
  else if !s.mayAct who then .next (s.stopRevoked who)
  else if off / 65536 = 4 then
    (if fromService who then .next s else execCounterAddWindowWrite (off % 65536 / 8) (if off % 8 = 0 then size else 0) v s)
  else if size = 8 ∧ off % 8 = 0 then regWrite who off v s
  else if size = 4 ∧ off % 4 = 0 then
    let old := regWord s (off / 8 * 8)
    let new : Dword := if off % 8 = 0 then (old.extractLsb' 32 32) ++ (v.extractLsb' 0 32)
      else (v.extractLsb' 0 32) ++ (old.extractLsb' 0 32)
    regWrite who (off / 8 * 8) new s
  else .next s

/-! ### The private register port (R305, R355, R356, R396, R411, R412) -/

/-- A context with nothing written but its number. -/
def Context.blank (n : Nat) : Context :=
  { num := n, ptroot := 0, fen := false, fctx := 0, fevc := 0, spool := 0, splen := 0, ckey := 0, tbase := 0, kitb := 0
    kitn := 0, pers := List.replicate 15 (0, false, 0), fring := 0, ftail := 0, fdisp := 0, svlo := 0, svhi := 0
    route := false, logf := 0, fovf := 0, diverted := false, fnext := 0, fdone := 0, err := 0, ended := false }

/-- A written word of the code block's key. -/
def setKeyWord (k : BitVec 256) (i : Nat) (v : Dword) : BitVec 256 :=
  (k &&& ~~~((0xFFFFFFFFFFFFFFFF : BitVec 256) <<< (64 * i))) ||| (v.zeroExtend 256 <<< (64 * i))

/-- A descriptor with nothing written: its CTXN is 0, the number of no context (R412). -/
def Context.unwritten (n : Nat) : Context := { Context.blank 0 with desc := n }

/-- A written half of a personality entry (R356). -/
def setPers (x : Nat × Bool × Nat) (hi : Bool) (v : Dword) : Nat × Bool × Nat :=
  if hi then ((v &&& 0xFFFFFFFFFFFFF000).toNat, x.2.1, x.2.2) else (x.1, v.getLsbD 63, (v.extractLsb' 0 16).toNat)

/-- A written word of the fault block: the context's own ring is in use again (R396, R455). -/
def Context.setFault (c : Context) (off : Nat) (v : Dword) : Context :=
  let d := { c with diverted := false }
  match off with
  | 0x540 => { d with fring := v &&& 0xFFFFFFFFFFFFFFC0, fnext := 0, fdone := 0 }
  | 0x548 => { d with ftail := v }
  | 0x550 => { d with fdisp := v }
  | 0x558 => { d with svlo := v &&& ~~~7 }
  | 0x560 => { d with svhi := v &&& ~~~7 }
  | 0x568 => { d with route := v.getLsbD 7, logf := (v.extractLsb' 0 5).toNat }
  | _ => c

/-- A written word of a context descriptor; a personality entry comes into use with the end of the next shootdown of the whole
context (R355, R356, R396, R412). -/
def Context.setWord (c : Context) (off : Nat) (v : Dword) : Context :=
  if 0x440 ≤ off ∧ off < 0x540 then
    (if off < 0x450 then c
     else { c with persNext := some ((c.persNext.getD c.pers).modify ((off - 0x440) / 16 - 1) fun x =>
       setPers x (decide (off % 16 = 8)) v) })
  else if 0x540 ≤ off then c.setFault off v
  else if 0x400 ≤ off ∧ off < 0x420 then { c with ckey := setKeyWord c.ckey ((off - 0x400) / 8) v }
  else match off with
  | 0x000 => { c with ptroot := (v &&& ~~~0xFFF).toNat }
  | 0x008 => { (if c.ended then Context.unwritten c.desc else c) with fen := v.getLsbD 32, num := (v.extractLsb' 0 32).toNat }
  | 0x010 => { c with fctx := v }
  | 0x018 => { c with fevc := v }
  | 0x020 => { c with spool := v &&& ~~~0xFFF }
  | 0x028 => { c with splen := (v.extractLsb' 0 32).toNat }
  | 0x420 => { c with tbase := (v.extractLsb' 52 12).toNat }
  | 0x428 => { c with kitb := (v &&& ~~~0xFFF).toNat }
  | 0x430 => { c with kitn := (v.extractLsb' 0 32).toNat }
  | _ => c

/-- A word of a context descriptor as it reads; the code key reads zero (R355). -/
def Context.word (c : Context) (off : Nat) : Dword :=
  if 0x450 ≤ off ∧ off < 0x540 then
    match (c.persNext.getD c.pers)[(off - 0x440) / 16 - 1]? with
    | none => 0
    | some x => if off % 16 = 8 then BitVec.ofNat 64 x.1 else BitVec.ofNat 64 (bitOf x.2.1 * 2 ^ 63 + x.2.2)
  else match off with
  | 0x000 => BitVec.ofNat 64 c.ptroot
  | 0x008 => BitVec.ofNat 64 (bitOf c.fen * 2 ^ 32 + c.num % 2 ^ 32)
  | 0x010 => c.fctx
  | 0x018 => c.fevc
  | 0x020 => c.spool
  | 0x028 => BitVec.ofNat 64 c.splen
  | 0x420 => BitVec.ofNat 64 (c.tbase * 2 ^ 52)
  | 0x428 => BitVec.ofNat 64 c.kitb
  | 0x430 => BitVec.ofNat 64 c.kitn
  | 0x540 => c.fring
  | 0x548 => c.ftail
  | 0x550 => c.fdisp
  | 0x558 => c.svlo
  | 0x560 => c.svhi
  | 0x568 => BitVec.ofNat 64 (c.fovf % 2 ^ 32 * 2 ^ 32 + bitOf c.route * 128 + c.logf % 32)
  | _ => 0

/-- A private register as it reads. -/
def privWord (s : State) (r : PrivReg) : Dword :=
  match r with
  | .ctxWord n off => ((s.ctxs.find? fun c => c.desc = n).map fun c => c.word off).getD 0
  | .binding n hi =>
    (match s.binding? n with
    | none => 0
    | some b => if hi then b.addr
      else BitVec.ofNat 64 (bitOf b.v * 2 ^ 63 + bitOf b.err * 2 ^ 62 + b.ctx % 2 ^ 32))
  | .osRing off =>
    (match off with
    | 0x00 => s.osRing
    | 0x08 => s.osTail
    | 0x10 => s.osDisp
    | 0x28 => BitVec.ofNat 64 (s.osFovf % 2 ^ 32 * 2 ^ 32 + s.osLogf % 32)
    | _ => 0)
  | .routeEntry pkg => ((s.routes.find? fun r => r.1 = pkg).map fun r => BitVec.ofNat 64 r.2).getD (1 <<< 63)
  | .cond core ctx i => if i < 5 then (cellGet s.conds ((core * 2 ^ 32 + ctx) * 8 + i)).zeroExtend 64 else 0

/-- A write of a private register. -/
def privWrite (r : PrivReg) (v : Dword) (s : State) : State :=
  match r with
  | .ctxWord n off =>
    if off % 8 ≠ 0 then s
    else
      let s1 := if s.ctxs.any fun c => decide (c.desc = n) then s else { s with ctxs := s.ctxs ++ [Context.unwritten n] }
      { s1 with ctxs := s1.ctxs.map fun c => if c.desc = n then c.setWord off v else c }
  | .binding n hi =>
    if 4096 ≤ n then s
    else if hi then s.modBinding n fun (b : Binding) => { b with addr := v &&& ~~~7 }
    else s.modBinding n fun (b : Binding) =>
      { b with v := v.getLsbD 63, err := b.err && !v.getLsbD 62, ctx := (v.extractLsb' 0 32).toNat }
  | .osRing off =>
    (match off with
    | 0x00 => { s with osRing := v &&& 0xFFFFFFFFFFFFFFC0, osNext := 0, osDone := 0 }
    | 0x08 => { s with osTail := v }
    | 0x10 => { s with osDisp := v }
    | 0x28 => { s with osLogf := (v.extractLsb' 0 5).toNat }
    | _ => s)
  | .routeEntry pkg => if 8192 ≤ pkg then s else s.setRoute pkg (if v < 16 then some v.toNat else none)
  | .cond _ _ _ => s

/-- SERVICE_PAIR_ACCESS: the device operating system, on the pair of a die whose port is not revoked; a pair whose port is stops
(R309, R411, R428). A sealed raw alias is refused to it as to a host, and its program chooses the scope of a release: the model's
choices (log entries 35, 149). The debug port's reads go through this event too (log entry 133). -/
def execServicePairAccess (die : Nat) (acc : ServiceAccess) (s : State) : Host.Outcome State Fault Refusal :=
  let p := s.pair die
  let seat := Seat.of (.service die) die
  if !p.live ∨ !p.port then .next (s.stopRevoked (.service die))
  else match acc with
  | .debugRead pa n => .next (debugReadAt s pa n)
  | .adopt ctx off launch cluster => .next (adoptArea s ctx off launch cluster)
  | .load pa n =>
    let ns := spanNeeds s false n (physTarget s pa 0)
    .next (if physBad s pa n then s else if inSealed s pa n then s.sealedReply (List.replicate n 0xFF) 0 pa
      else if ns ≠ [] then s.request ns
      else
        let t := physTarget s pa 0
        let s1 := (s.recall none (spanLines t n)).fillFor seat t n
        { s1 with reply := readTarget s1 seat t n, replyBad := spanPoisoned s n t })
  | .store pa data =>
    let t := physTarget s pa 0
    let ns := spanNeeds s true data.length t ++ locNeeds s (readLocs s data.length t)
    .next (if physBad s pa data.length then s
      else if inSealed s pa data.length ∨ t = .dec (pa / 2 ^ 38 % 64) (pa % 2 ^ 38) then s.refuse 0 pa
      else if ns ≠ [] then s.request ns else s.spanWrite t data)
  | .counterAdd pa v rel =>
    let own (w : PWrite) : Bool := decide (w.seat.who = seat.who)
    let ns := ctrNeeds s true (.phys pa) ++ (if 4 ≤ rel.getD 0 then coverNeeds s (coveredBy seat own) else [])
    if pa % 8 ≠ 0 ∨ physBad s pa 8 ∨ inSealed s pa 8 then .next s
    else if ns ≠ [] then .next (s.request ns)
    else
      let s1 := match rel with
        | some scope => s.releaseWrites seat own scope
        | none => s
      let (s2, old) := (s1.recall none [lineOf pa]).ctrAdd (.phys pa) v
      .next { s2 with reply := bytesOf old.toNat 8, replyBad := false }
  | .counterRead pa =>
    let ns := ctrNeeds s false (.phys pa)
    .next (if pa % 8 ≠ 0 ∨ physBad s pa 8 ∨ inSealed s pa 8 then s else if ns ≠ [] then s.request ns
      else { s.recall none [lineOf pa] with
        reply := bytesOf (ctrValue s (.phys pa)).toNat 8, replyBad := ctrPoisoned s (.phys pa) })
  | .privWrite r v => .next (privWrite r v s)
  | .privRead r => .next { s with reply := bytesOf (privWord s r).toNat 8, replyBad := false }
  | .clearStuck ctx name => .next (s.modSeg ctx name fun (g : Segment) => { g with stuck := false })
  | .moveWaiters n => .next (((s.waiters.filter fun w => homeInIsland s n w.ctr).map Waiter.sl).foldl State.endWait s)

end Sys2Proof.Machine
end

