-- ==== Sys2Proof/Machine/Fetch.lean ====
section
/-!
DEFINITION. What a slot issues next (R26, R42, R45, R183, R367, R369, R384, R395), what happens when nothing is scheduled, the
passage of time, and setting an operation where a slot fetches.
-/

namespace Sys2Proof.Machine

/-! ### The next operation of a slot -/

/-- What a slot in turn does: an operation or the event it needs first, in a state; or it stops on a record. -/
inductive Fetched
  | run (i : Instr) (s : State)
  | stop (s : State)
  deriving DecidableEq, Repr

/-- The record of a poison fault: the load's, whose PC it names, raised now where the slot is now, with the slot's fault mask
(R183, R397, R398). RESUME goes on with the slot's next operation, the load not replayed and its old destination kept, and
SKIP past where the slot stands: the model's choices (log entry 148). -/
def poisonedRec (s : State) (v : View) (r : FRec) : FRec :=
  let here := match v.p.exp with
    | some x => x.len
    | none => if v.p.rep.isSome then 16 else 0
  { r with core := v.t.core, wave := v.w.place, slotB := v.sl.b, time := s.eqx.now, skipLen := some here
           info := v.p.fmask.extractLsb' 0 64, info2 := v.p.fmask.extractLsb' 64 32 }

/-- The permission fault of entering the service range (R395). -/
def serviceRec (s : State) (v : View) : FRec :=
  { FRec.ofSlot s v .mem 8 with
    addr := v.p.pc, info := v.p.fmask.extractLsb' 0 64, info2 := v.p.fmask.extractLsb' 64 32 }

/-- The slot's PC lies in its context's service range. -/
def inServiceRange (s : State) (v : View) : Bool := ((s.ctx? v.t.ctx).map fun c => c.inService v.p.pc).getD false

/-- Fetch in personality 0: the word at the PC, and with a REP the word after it, from the instruction cache; a missing line
is filled first (R384). -/
def fetchWord (s : State) (v : View) : Fetched :=
  let c := v.t.core
  let x := v.t.ctx
  match cachedWord s c x v.p.pc with
  | none => .run (.instructionCacheFill c x v.p.pc.toNat) s
  | some w =>
    if wordCls w = 7 ∧ wordOp w = 0 ∧ (cachedWord s c x (v.p.pc + 8)).isNone then
      .run (.instructionCacheFill c x (v.p.pc + 8).toNat) s
    else .run (decodeWord w) s

/-- Fetch at the slot's PC: entering the service range from outside is a fault, and leaving it ends its privilege (R395); a
guest instruction is decoded first (R367). -/
def fetchAt (s : State) (v : View) : Fetched :=
  let svc := inServiceRange s v
  if svc && !v.p.svcOk then .stop (s.stopSlot v (serviceRec s v))
  else
    let p := { v.p with svcOk := svc }
    let s1 := if v.p.svcOk = svc then s else s.putSlot v p
    let v1 := { v with p := p }
    if v.p.pers = 0 then fetchWord s1 v1
    else match cachedHalf s1 v.t.core v.t.ctx v.p.pc with
    | none => .run (.instructionCacheFill v.t.core v.t.ctx v.p.pc.toNat) s1
    | some _ => .run (.guestDecode v.sl) s1

/-- What the slot does: a poison fault that waits (R183), the end of a chain of 128 (R42), a forced stop (R344), the next instance
of a REP (R45), the next word of an expansion (R369), or a fetch. -/
def nextInstr (s : State) (v : View) : Fetched :=
  match v.p.poisonStop with
  | some r =>
    let v1 := { v with p := { v.p with poisonStop := none } }
    .stop (s.stopSlot v1 (poisonedRec s v1 r))
  | none =>
    if v.p.chainOpen ∧ 128 ≤ v.p.chainLen then .run (.chainHoldLimit v.sl) s
    else if v.p.stopAtBoundary && !v.p.inChain && v.p.rep.isNone && v.p.exp.isNone then .stop (s.putSlot v v.p.stopHere)
    else match v.p.rep with
    | some r => .run (decodeWord r.instance_) s
    | none =>
      match v.p.exp with
      | some x => .run (decodeWord ((x.words[x.idx]?).getD 0)) s
      | none => fetchAt s v

/-- CHAIN_HOLD_LIMIT (R42). -/
def execChainHoldLimit (sl : SlotId) (s : State) : Host.Outcome State Fault Refusal :=
  match s.find sl with
  | none => .next s
  | some v => .next (if v.p.chainOpen ∧ 128 ≤ v.p.chainLen then s.putSlot v v.p.endChain else s)

/-- An unassigned OP value kills the wave (R54, R56). -/
def execUnassignedOpcode (_word : Dword) (s : State) : Host.Outcome State Fault Refusal :=
  issue s (fun _ => [0x01]) (fun _ => false) fun v => s.putSlot v v.p.onward

/-! ### Time -/

/-- A slot after cycles have passed: YIELD runs out, parked time counts, and a slot that waited is tried again (R345,
R350). -/
def Slot.pass (cycles : Nat) (p : Slot) : Slot :=
  { p with yieldLeft := p.yieldLeft - cycles, idle := if p.parkedFor.isSome then p.idle + cycles else 0, stalled := false }

/-- The correction made in some nanoseconds, in millionths of one: the part's rate, at most 200 parts per million, toward the
offset and not past it (R423). -/
def Equinox.slew (e : Equinox) (ns : Nat) : Int :=
  let d := min (min 200 (Config.slewPpm e.ofs) * ns) e.fix.natAbs
  if 0 ≤ e.fix then d else -d

/-- The Equinox counter after nanoseconds have passed: at half rate in a hold, and else at a rate that closes a small offset
(R423). -/
def Equinox.pass (e : Equinox) (ns : Nat) : Equinox :=
  if e.hold then
    let n := ns + (if e.half then 1 else 0)
    { e with now := e.now + BitVec.ofNat 64 (n / 2), half := decide (n % 2 = 1) }
  else if e.fix = 0 then { e with now := e.now + BitVec.ofNat 64 ns }
  else
    let n := (1000000 * ns + e.part + e.slew ns).toNat
    { e with now := e.now + BitVec.ofNat 64 (n / 1000000), part := n % 1000000, fix := e.fix - e.slew ns }

/-- Cycles that a running island's clock counts in some nanoseconds, at its current frequency in MHz (R23, R440). -/
def Island.cycles (x : Island) (ns : Nat) : Nat := if x.off then 0 else (x.cur * ns + x.part) / 1000

/-- An island after nanoseconds have passed. -/
def Island.pass (x : Island) (ns : Nat) : Island :=
  if x.off then x else { x with clock := x.clock + x.cycles ns, part := (x.cur * ns + x.part) % 1000 }

/-- Time passes: the clocks of the running islands, each at its own frequency, the Equinox counter (at half rate in a
hold), and what counts them (R23, R210, R345, R350, R423, R425, R431). Lines that L2s replace meanwhile are written back
(R405). -/
def State.pass (s : State) (ns : Nat) : State :=
  let cycles (t : Team) : Nat := ((s.islands[islandOf t.core]?).map fun x => x.cycles ns).getD 0
  let wave (n : Nat) (w : Wave) : Wave := { w with a := w.a.pass n, b := w.b.pass n }
  let team (t : Team) : Team := { t with waves := t.waves.map (wave (cycles t)) }
  let s1 := (s.refillEgress ns).chargeLines (lineReplaced s)
  { s1 with
    cycle := s1.cycle + 1
    islands := s1.islands.map fun x => x.pass ns
    eqx := s1.eqx.pass ns
    teams := s1.teams.map team
    fe := { s1.fe with fehbAge := s1.fe.fehbAge + ns } }

/-! ### When nothing is scheduled -/

/-- The list from after an element on, then from its start. -/
def rotateAfter (x : SlotId) (l : List SlotId) : List SlotId :=
  let i := (l.findIdx? fun y => y = x).getD 0
  l.drop (i + 1) ++ l.take (i + 1)

/-- Every slot of the package. -/
def allSlots (s : State) : List SlotId := s.teams.flatMap teamSlots

/-- The slot may issue now. -/
def slotReady (s : State) (sl : SlotId) : Bool := match s.find sl with
  | none => false
  | some v => v.issues && !v.p.stalled

/-- The slot holds an open chain (R338). -/
def slotHolds (s : State) (sl : SlotId) : Bool := match s.find sl with
  | none => false
  | some v => v.p.inChain

/-- YIELD keeps the slot behind the others (R345). -/
def slotYields (s : State) (sl : SlotId) : Bool := match s.find sl with
  | none => false
  | some v => decide (v.p.yieldLeft ≠ 0)

/-- An event of a slot that is under way: a result to be written, a class 4 operation to be accepted, an MGEMM's next row. -/
def slotEvent (s : State) (sl : SlotId) : Option Instr := match s.find sl with
  | none => none
  | some v =>
    match v.p.pend with
    | q :: _ => some (.trackedResultWrite sl q.cls)
    | [] => match v.p.status with
      | .accepting _ _ => some (.matrixAcceptance sl)
      | .mgemm => some (.mgemmSequencerStep sl)
      | _ => none

/-- Who moves when the agenda is empty: the slot that holds a chain, a ready slot in turn, then what is under way, and else
a cycle passes. -/
def defaultTurn (s : State) : Turn :=
  let ready := (rotateAfter s.cur (allSlots s)).filter (slotReady s)
  match (ready.find? (slotHolds s)).orElse fun _ => (ready.find? fun x => !slotYields s x).orElse fun _ => ready.head? with
  | some sl => .issue sl
  | none =>
    match (allSlots s).findSome? (slotEvent s) with
    | some i => .event i
    | none => match s.waiters.find? Waiter.hit with
      | some w => .event (.waiterWake w.seq)
      | none => .pass 1

/-! ### Setting an operation where a slot fetches -/

/-- The slot the state names fetches its next operation as a plain word of personality 0. -/
def plainFetch (s : State) : Option View :=
  match s.view with
  | none => none
  | some v =>
    if v.p.pers = 0 ∧ v.p.exp.isNone ∧ v.p.rep.isNone ∧ v.p.poisonStop.isNone ∧ ¬(v.p.chainOpen ∧ 128 ≤ v.p.chainLen)
        ∧ (v.p.stopAtBoundary → v.p.inChain) ∧ (inServiceRange s v → v.p.svcOk) ∧ (v.p.pc.toNat % 8 = 0) then some v
    else none

/-- Replace the word at an address in a core's instruction cache. -/
def State.pokeWord (s : State) (core ctx : Nat) (a w : Dword) : State :=
  let old := (iline s core ctx a).getD 0
  let sh := 8 * (a.toNat % 128)
  let bits := (old &&& ~~~((0xFFFFFFFFFFFFFFFF : BitVec 1024) <<< sh)) ||| (w.zeroExtend 1024 <<< sh)
  s.installLine core ctx a bits

/-- The launch that stands for the loading of a program: one gang of one team of one wave, entered at 0x1000. -/
def loadLaunch (id ctx : Nat) : Launch :=
  { id := id, ctx := ctx, queue := 0, idx := 0, raw := [], status := .ready, cores := false, prio := 0, kidx := 0, gx := 1
    gy := 1, gz := 1, gcount := 1, teams := 1, waves := 1, stages := 1, accs := 0, scrg := 0, lanes := 0, chipg := 0, pdist := 0
    start := 0, args := 0, waddr := 0, wthr := 0, caddr := 0, csco := 0, cval := 0, segs := [], entry := 0x1000, pers := 0
    bound := true, placed := [0], stage0 := [(0, 0)] }

/-- A context, a launch and a team on core 0, as the device operating system and the front end would have set them up. -/
def State.loadTeam (s : State) : State :=
  let n := s.ctxs.foldl (fun m c => max m c.num) 0 + 1
  let l := loadLaunch s.nextLaunch n
  let s1 := { s with ctxs := s.ctxs ++ [Context.blank n], launches := s.launches ++ [l], nextLaunch := s.nextLaunch + 1 }
  { placeTeam l 0 0 [] s1 0 0 with cur := ⟨s.nextTeam, 0, false⟩ }

/-- Set a word as the next operation: of the slot named, or of a slot of a team loaded for it; that slot is next in turn. -/
def State.setNext (s : State) (w : Dword) : State :=
  let s1 := if (plainFetch s).isSome then s else s.loadTeam
  match s1.view with
  | none => s1
  | some v => { s1.pokeWord v.t.core v.t.ctx v.p.pc w with agenda := [.issue s1.cur] }

end Sys2Proof.Machine
end

