-- ==== Sys2Proof/Machine/Sysops.lean ====
section
/-!
DEFINITION. Class 7: special state (R210, R211), GROW (R347), and the switches of personality (R377, R378).
-/

namespace Sys2Proof.Machine

/-! ### Special state (R55, R210, R211) -/

/-- The destination a special needs: vector, scalar, pair or quad; none for a number R55 does not list. -/
def specialDst (n : Nat) : Option Dst :=
  if n = 0 then some (.vec 1)
  else if n ≤ 8 ∨ n = 0x18 ∨ (0x30 ≤ n ∧ n ≤ 0x32) then some (.scal 1)
  else if n = 0x10 ∨ n = 0x11 ∨ n = 0x28 ∨ n = 0x38 then some (.scal 2)
  else if n = 0x20 then some (.scal 4)
  else none

/-- Registers a special spans. -/
def specialGroup (n : Nat) : Nat := match specialDst n with
  | some (.scal g) => g
  | _ => 1

/-- The value of a special (R210). -/
def specialState (s : State) (v : View) (n : Nat) : BitVec 128 :=
  match n with
  | 0x01 => BitVec.ofNat 128 v.sl.wave
  | 0x02 => BitVec.ofNat 128 (bitOf v.sl.b)
  | 0x03 => BitVec.ofNat 128 v.t.num
  | 0x04 => BitVec.ofNat 128 v.t.gx
  | 0x05 => BitVec.ofNat 128 v.t.gy
  | 0x06 => BitVec.ofNat 128 v.t.gz
  | 0x07 => BitVec.ofNat 128 v.t.stage
  | 0x08 => BitVec.ofNat 128 (((s.launch? v.t.launch).map Launch.gcount).getD 0)
  | 0x10 => BitVec.ofNat 128 (coreClock s v.t.core % 2 ^ 64)
  | 0x11 => s.eqx.now.zeroExtend 128
  | 0x18 => BitVec.ofNat 128 v.t.ctx
  | 0x20 => ((s.ctx? v.t.ctx).map Context.err).getD 0
  | 0x28 => v.p.mxst.zeroExtend 128
  | 0x30 => (maskWord v.p.fmask 0).zeroExtend 128
  | 0x31 => (maskWord v.p.fmask 1).zeroExtend 128
  | 0x32 => (maskWord v.p.fmask 2).zeroExtend 128
  | 0x38 => v.p.epib.zeroExtend 128
  | _ => 0

/-- The special's number in M (R55). -/
def specialNo (f : FmtW) : Nat := (f.m.extractLsb' 0 8).toNat

/-- The class of SRD's result: only %mxst is tracked (R48). -/
def srdClass (f : FmtW) : Option ResClass := if specialNo f = 0x28 then some .ld else none

/-- Causes of SRD. A destination that no special could take is reserved whatever the number (R56). -/
def srdCauses (f : FmtW) (v : View) : List Nat :=
  bareCauses f.c ++ fieldZero f.sa ++ fieldZero f.sb ++ fieldZero f.sc ++ fieldZero (f.m.extractLsb' 8 8)
    ++ (match specialDst (specialNo f) with
      | none => 0x04 :: dstForm v.inExp false (.scal 1) f.d.toNat
      | some k => dstCauses (v.within (v.active f.c)) (srdClass f) k f.d)

/-- SRD (R210). -/
def execSrd (f : FmtW) (s : State) : Host.Outcome State Fault Refusal :=
  issue s (srdCauses f) (fun v => decide (specialNo f = 0x28) && v.full .ld) fun v =>
    let n := specialNo f
    if n = 0 then
      let w := writeVec v.w v.sl.b 1 f.d (v.active f.c) fun l => BitVec.ofNat 64 l
      s.putWave v (w.setSlot v.sl.b (w.slot v.sl.b).onward)
    else if v.activeTo f.c f.d = 0 then s.putSlot v v.p.onward
    else if n = 0x28 then s.putSlot v (v.p.addPend (v.ordered (Pend.scal .ld f.d 2 (some (specialState s v n))))).onward
    else
      let w := writeScal v.w v.sl.b (specialGroup n) f.d (specialState s v n)
      s.putWave v (w.setSlot v.sl.b (w.slot v.sl.b).onward)

/-- The numbers SWR may write, from privileged service code (R211). -/
def swrNumbers : List Nat := [0x20, 0x28, 0x30, 0x31, 0x32, 0x38]

/-- Causes of SWR. -/
def swrCauses (f : FmtW) (s : State) (v : View) : List Nat :=
  bareCauses f.c ++ fieldZero f.d ++ fieldZero f.sb ++ fieldZero f.sc ++ fieldZero (f.m.extractLsb' 8 8)
    ++ (if (specialDst (specialNo f)).isNone then [0x04] else [])
    ++ srcCauses v false (.sreg (specialGroup (specialNo f))) f.sa
    ++ (if swrNumbers.contains (specialNo f) && s.privileged v.t v.p then [] else [0x0B])

/-- Replace word `i` of a fault mask by the owned lanes of a value (R211). -/
def setFmask (p : Slot) (i : Nat) (x : Word) : Slot := { p with fmask := setMaskWord p.fmask i (x &&& maskWord p.owned i) }

/-- SWR of %err: KL and MK are write-one-to-clear (R58). -/
def clearErr (err x : BitVec 128) : BitVec 128 := err &&& ~~~(x &&& (3 <<< 62))

/-- SWR (R211). -/
def execSwr (f : FmtW) (s : State) : Host.Outcome State Fault Refusal :=
  issue s (swrCauses f s) (fun _ => false) fun v =>
    if v.active f.c = 0 then s.putSlot v v.p.onward
    else match specialNo f with
    | 0x20 => (s.modCtx v.t.ctx fun c => 
        { c with err := clearErr c.err (readQuad v f.sa), errNow := { c.errNow with kills := [] } }).putSlot v v.p.onward
    | 0x28 => s.putSlot v { v.p.onward with mxst := readS64 v f.sa &&& mxstBits }
    | 0x38 => s.putSlot v { v.p.onward with epib := readS64 v f.sa, epi := none }
    | n => s.putSlot v (setFmask v.p (n - 0x30) (readS32 v f.sa)).onward

/-! ### GROW (R347) -/

/-- Causes of GROW. -/
def growCauses (f : FmtW) (v : View) : List Nat :=
  bareCauses f.c ++ dstCauses v none (.scal 1) f.d ++ regOrImmCauses v false f.sa ++ fieldZero f.sb ++ fieldZero f.sc
    ++ fieldZero f.m

/-- May the launch take `n` more gangs? -/
def mayGrow (l : Launch) (n : Nat) : Bool :=
  decide (l.gy = 1) && decide (l.gz = 1) && !l.cores && decide (l.gcount + n ≤ 0xFFFFFFFE)

/-- GROW (R347). -/
def execGrow (f : FmtW) (s : State) : Host.Outcome State Fault Refusal :=
  issue s (growCauses f) (fun _ => false) fun v =>
    let n := (readS32 v f.sa).toNat
    if v.activeTo f.c f.d = 0 then s.putSlot v v.p.onward
    else match s.launch? v.t.launch with
    | none => sysStatus f v 0xFFFFFFFF s
    | some l =>
      if !mayGrow l n then sysStatus f v 0xFFFFFFFF s
      else if releaseNeeds s v 0xFFFF 4 ≠ [] then (s.request (releaseNeeds s v 0xFFFF 4)).putSlot v { v.p with stalled := true }
      else
        let s1 := s.release v 0xFFFF 4
        sysStatus f v l.gcount { s1 with
          launches := s1.launches.map fun x => if x.id = l.id then { x with gcount := l.gcount + n } else x }

/-! ### GSW and GRET (R377, R378) -/

/-- The personality can be entered. -/
def persLoaded (s : State) (ctx q : Nat) : Bool :=
  decide (q = 0) || (match (s.ctx? ctx).bind fun c => c.pers[q - 1]? with
    | some (_, v, _) => v
    | none => false)

/-- An address as a personality holds it: bits 2 to 0, or 1 to 0, cleared. -/
def persAddr (q : Nat) (a : Dword) : Dword := if q = 0 then a &&& ~~~7 else a &&& ~~~3

/-- Continue in a personality at an address. -/
def Slot.enter (p : Slot) (q : Nat) (a : Dword) : Slot := { p.goTo (persAddr q a) with pers := q }

/-- The UNLOADED fault of GSW and GRET (R379). -/
def unloaded (s : State) (v : View) : State := s.stopSlot v (persRec s v 1 v.p.pers (some v.p.skipBytes))

/-- GSW (R377). -/
def execGsw (f : FmtW) (s : State) : Host.Outcome State Fault Refusal :=
  issue s
    (fun v => bareCauses f.c ++ fieldZero f.d ++ srcCauses v false (.sreg 2) f.sa ++ regOrImmCauses v false f.sb
      ++ fieldZero f.sc ++ fieldZero f.m)
    (fun _ => false) fun v =>
      let q := (readS32 v f.sb).toNat
      if v.active f.c = 0 then s.putSlot v v.p.onward
      else if 15 < q ∨ !persLoaded s v.t.ctx q then unloaded s v
      else s.putSlot v (v.p.enter q (readS64 v f.sa))

/-- GRET (R378). -/
def execGret (f : FmtW) (s : State) : Host.Outcome State Fault Refusal :=
  issue s
    (fun v => bareCauses f.c ++ fieldZero f.d ++ fieldZero f.sa ++ fieldZero f.sb ++ fieldZero f.sc
      ++ fieldZero (f.m.extractLsb' 1 15) ++ (if [50, 51, 63].any fun n => v.p.pending (.s n) then [0x06] else []))
    (fun _ => false) fun v =>
      let h := readSReg v.w v.p 63
      let q := (h.extractLsb' 0 4).toNat
      let n := if h.getLsbD 4 then 8 else 4
      let a := pairOf (readSReg v.w v.p 50) (readSReg v.w v.p 51)
      if v.active f.c = 0 then s.putSlot v v.p.onward
      else if !persLoaded s v.t.ctx q then unloaded s v
      else s.putSlot v (v.p.enter q (if f.m.getLsbD 0 then a else a + BitVec.ofNat 64 n))

end Sys2Proof.Machine
end

