-- ==== Sys2Proof/Machine/Dispatch.lean ====
section
/-!
DEFINITION. The meaning of every step of the machine, one arm for each constructor of `Instr`.
-/

namespace Sys2Proof.Machine

def exec (i : Instr) (s : State) : Host.Outcome State Fault Refusal :=
  match i with
  | .sadd f => Sys2Proof.Machine.execSadd f s
  | .ssub f => Sys2Proof.Machine.execSsub f s
  | .saddc f => Sys2Proof.Machine.execSaddc f s
  | .ssubb f => Sys2Proof.Machine.execSsubb f s
  | .smul f => Sys2Proof.Machine.execSmul f s
  | .smulhs f => Sys2Proof.Machine.execSmulhs f s
  | .smulhz f => Sys2Proof.Machine.execSmulhz f s
  | .sand f => Sys2Proof.Machine.execSand f s
  | .sor f => Sys2Proof.Machine.execSor f s
  | .sxor f => Sys2Proof.Machine.execSxor f s
  | .sandn f => Sys2Proof.Machine.execSandn f s
  | .sshl f => Sys2Proof.Machine.execSshl f s
  | .sshrz f => Sys2Proof.Machine.execSshrz f s
  | .sshrs f => Sys2Proof.Machine.execSshrs f s
  | .srot f => Sys2Proof.Machine.execSrot f s
  | .sbfx f => Sys2Proof.Machine.execSbfx f s
  | .sbfi f => Sys2Proof.Machine.execSbfi f s
  | .sclz f => Sys2Proof.Machine.execSclz f s
  | .sctz f => Sys2Proof.Machine.execSctz f s
  | .spopc f => Sys2Proof.Machine.execSpopc f s
  | .sbrev f => Sys2Proof.Machine.execSbrev f s
  | .smins f => Sys2Proof.Machine.execSmins f s
  | .sminz f => Sys2Proof.Machine.execSminz f s
  | .smaxs f => Sys2Proof.Machine.execSmaxs f s
  | .smaxz f => Sys2Proof.Machine.execSmaxz f s
  | .scmp f => Sys2Proof.Machine.execScmp f s
  | .ssel f => Sys2Proof.Machine.execSsel f s
  | .smov f => Sys2Proof.Machine.execSmov f s
  | .smovi f => Sys2Proof.Machine.execSmovi f s
  | .sadd64 f => Sys2Proof.Machine.execSadd64 f s
  | .ssub64 f => Sys2Proof.Machine.execSsub64 f s
  | .sshl64 f => Sys2Proof.Machine.execSshl64 f s
  | .sshr64 f => Sys2Proof.Machine.execSshr64 f s
  | .smul64 f => Sys2Proof.Machine.execSmul64 f s
  | .vadd f => Sys2Proof.Machine.execVadd f s
  | .vsub f => Sys2Proof.Machine.execVsub f s
  | .vmul f => Sys2Proof.Machine.execVmul f s
  | .vmulhs f => Sys2Proof.Machine.execVmulhs f s
  | .vmulhz f => Sys2Proof.Machine.execVmulhz f s
  | .vmad f => Sys2Proof.Machine.execVmad f s
  | .vand f => Sys2Proof.Machine.execVand f s
  | .vor f => Sys2Proof.Machine.execVor f s
  | .vxor f => Sys2Proof.Machine.execVxor f s
  | .vandn f => Sys2Proof.Machine.execVandn f s
  | .vshl f => Sys2Proof.Machine.execVshl f s
  | .vshrz f => Sys2Proof.Machine.execVshrz f s
  | .vshrs f => Sys2Proof.Machine.execVshrs f s
  | .vmins f => Sys2Proof.Machine.execVmins f s
  | .vminz f => Sys2Proof.Machine.execVminz f s
  | .vmaxs f => Sys2Proof.Machine.execVmaxs f s
  | .vmaxz f => Sys2Proof.Machine.execVmaxz f s
  | .vabs f => Sys2Proof.Machine.execVabs f s
  | .vcmp f => Sys2Proof.Machine.execVcmp f s
  | .vsel f => Sys2Proof.Machine.execVsel f s
  | .vmov f => Sys2Proof.Machine.execVmov f s
  | .vbfx f => Sys2Proof.Machine.execVbfx f s
  | .vbfi f => Sys2Proof.Machine.execVbfi f s
  | .vpopc f => Sys2Proof.Machine.execVpopc f s
  | .vclz f => Sys2Proof.Machine.execVclz f s
  | .vadd64 f => Sys2Proof.Machine.execVadd64 f s
  | .vqdot f => Sys2Proof.Machine.execVqdot f s
  | .vfadd f => Sys2Proof.Machine.execVfadd f s
  | .vfsub f => Sys2Proof.Machine.execVfsub f s
  | .vfmul f => Sys2Proof.Machine.execVfmul f s
  | .vfma f => Sys2Proof.Machine.execVfma f s
  | .vfmin f => Sys2Proof.Machine.execVfmin f s
  | .vfmax f => Sys2Proof.Machine.execVfmax f s
  | .vfcmp f => Sys2Proof.Machine.execVfcmp f s
  | .vfclass f => Sys2Proof.Machine.execVfclass f s
  | .vfcvt f => Sys2Proof.Machine.execVfcvt f s
  | .vcvti f => Sys2Proof.Machine.execVcvti f s
  | .vfrnd f => Sys2Proof.Machine.execVfrnd f s
  | .vhfma f => Sys2Proof.Machine.execVhfma f s
  | .vhdot f => Sys2Proof.Machine.execVhdot f s
  | .vrcp f => Sys2Proof.Machine.execVrcp f s
  | .vrsq f => Sys2Proof.Machine.execVrsq f s
  | .vsqrt f => Sys2Proof.Machine.execVsqrt f s
  | .vexp2 f => Sys2Proof.Machine.execVexp2 f s
  | .vlog2 f => Sys2Proof.Machine.execVlog2 f s
  | .vsin f => Sys2Proof.Machine.execVsin f s
  | .vcos f => Sys2Proof.Machine.execVcos f s
  | .vtanh f => Sys2Proof.Machine.execVtanh f s
  | .vshfl f => Sys2Proof.Machine.execVshfl f s
  | .vshflx f => Sys2Proof.Machine.execVshflx f s
  | .vshflup f => Sys2Proof.Machine.execVshflup f s
  | .vshfldn f => Sys2Proof.Machine.execVshfldn f s
  | .vreadl f => Sys2Proof.Machine.execVreadl f s
  | .vwritel f => Sys2Proof.Machine.execVwritel f s
  | .vballot f => Sys2Proof.Machine.execVballot f s
  | .vany f => Sys2Proof.Machine.execVany f s
  | .vall f => Sys2Proof.Machine.execVall f s
  | .vredadd f => Sys2Proof.Machine.execVredadd f s
  | .vredmin f => Sys2Proof.Machine.execVredmin f s
  | .vredmax f => Sys2Proof.Machine.execVredmax f s
  | .vscan f => Sys2Proof.Machine.execVscan f s
  | .kand f => Sys2Proof.Machine.execKand f s
  | .kor f => Sys2Proof.Machine.execKor f s
  | .kxor f => Sys2Proof.Machine.execKxor f s
  | .knot f => Sys2Proof.Machine.execKnot f s
  | .kmov f => Sys2Proof.Machine.execKmov f s
  | .kmovFs f => Sys2Proof.Machine.execKmovFs f s
  | .ld f => Sys2Proof.Machine.execLd f s
  | .st f => Sys2Proof.Machine.execSt f s
  | .vld f => Sys2Proof.Machine.execVld f s
  | .vst f => Sys2Proof.Machine.execVst f s
  | .vldb f => Sys2Proof.Machine.execVldb f s
  | .vstb f => Sys2Proof.Machine.execVstb f s
  | .atom f => Sys2Proof.Machine.execAtom f s
  | .red f => Sys2Proof.Machine.execRed f s
  | .pref f => Sys2Proof.Machine.execPref f s
  | .ipref f => Sys2Proof.Machine.execIpref f s
  | .fence f => Sys2Proof.Machine.execFence f s
  | .fencew f => Sys2Proof.Machine.execFencew f s
  | .cadd f => Sys2Proof.Machine.execCadd f s
  | .caddx f => Sys2Proof.Machine.execCaddx f s
  | .cwait f => Sys2Proof.Machine.execCwait f s
  | .cwait2 f => Sys2Proof.Machine.execCwait2 f s
  | .ctest f => Sys2Proof.Machine.execCtest f s
  | .cset f => Sys2Proof.Machine.execCset f s
  | .segnew f => Sys2Proof.Machine.execSegnew f s
  | .segatt f => Sys2Proof.Machine.execSegatt f s
  | .segdet f => Sys2Proof.Machine.execSegdet f s
  | .segrel f => Sys2Proof.Machine.execSegrel f s
  | .segfree f => Sys2Proof.Machine.execSegfree f s
  | .segevict f => Sys2Proof.Machine.execSegevict f s
  | .segqry f => Sys2Proof.Machine.execSegqry f s
  | .cjoin f => Sys2Proof.Machine.execCjoin f s
  | .cleave f => Sys2Proof.Machine.execCleave f s
  | .mzero f => Sys2Proof.Machine.execMzero f s
  | .mldb f => Sys2Proof.Machine.execMldb f s
  | .mma f => Sys2Proof.Machine.execMma f s
  | .mmam f => Sys2Proof.Machine.execMmam f s
  | .mdist f => Sys2Proof.Machine.execMdist f s
  | .mtopk f => Sys2Proof.Machine.execMtopk f s
  | .mstore f => Sys2Proof.Machine.execMstore f s
  | .mepi f => Sys2Proof.Machine.execMepi f s
  | .mspill f => Sys2Proof.Machine.execMspill f s
  | .mfill f => Sys2Proof.Machine.execMfill f s
  | .mgemm f => Sys2Proof.Machine.execMgemm f s
  | .mstat f => Sys2Proof.Machine.execMstat f s
  | .copy f => Sys2Proof.Machine.execCopy f s
  | .copyh f => Sys2Proof.Machine.execCopyh f s
  | .copyg f => Sys2Proof.Machine.execCopyg f s
  | .copyw f => Sys2Proof.Machine.execCopyw f s
  | .qfence f => Sys2Proof.Machine.execQfence f s
  | .qstat f => Sys2Proof.Machine.execQstat f s
  | .br f => Sys2Proof.Machine.execBr f s
  | .brc f => Sys2Proof.Machine.execBrc f s
  | .brdiv f => Sys2Proof.Machine.execBrdiv f s
  | .join f => Sys2Proof.Machine.execJoin f s
  | .call f => Sys2Proof.Machine.execCall f s
  | .ret f => Sys2Proof.Machine.execRet f s
  | .jmpi f => Sys2Proof.Machine.execJmpi f s
  | .exit f => Sys2Proof.Machine.execExit f s
  | .ppt f => Sys2Proof.Machine.execPpt f s
  | .waitc f => Sys2Proof.Machine.execWaitc f s
  | .yield f => Sys2Proof.Machine.execYield f s
  | .nop f => Sys2Proof.Machine.execNop f s
  | .brk f => Sys2Proof.Machine.execBrk f s
  | .trap f => Sys2Proof.Machine.execTrap f s
  | .rep f => Sys2Proof.Machine.execRep f s
  | .srd f => Sys2Proof.Machine.execSrd f s
  | .swr f => Sys2Proof.Machine.execSwr f s
  | .grow f => Sys2Proof.Machine.execGrow f s
  | .launch f => Sys2Proof.Machine.execLaunch f s
  | .gsw f => Sys2Proof.Machine.execGsw f s
  | .gret f => Sys2Proof.Machine.execGret f s
  | .halt f => Sys2Proof.Machine.execHalt f s
  | .chainHoldLimit sl => Sys2Proof.Machine.execChainHoldLimit sl s
  | .trackedResultWrite sl cls => Sys2Proof.Machine.execTrackedResultWrite sl cls s
  | .writePerform id => Sys2Proof.Machine.execWritePerform id s
  | .tlbFill core ctx va => Sys2Proof.Machine.execTlbFill core ctx va s
  | .instructionCacheFill core ctx va => Sys2Proof.Machine.execInstructionCacheFill core ctx va s
  | .guestDecode sl => Sys2Proof.Machine.execGuestDecode sl s
  | .copyCommandStart core q team => Sys2Proof.Machine.execCopyCommandStart core q team s
  | .copyTransfer core q team => Sys2Proof.Machine.execCopyTransfer core q team s
  | .copyCompletion core q team => Sys2Proof.Machine.execCopyCompletion core q team s
  | .combiningBufferTimeout core idx => Sys2Proof.Machine.execCombiningBufferTimeout core idx s
  | .predictorDecay line => Sys2Proof.Machine.execPredictorDecay line s
  | .parkedPollingReread sl => Sys2Proof.Machine.execParkedPollingReread sl s
  | .waiterWake seq => Sys2Proof.Machine.execWaiterWake seq s
  | .segmentRefillGranule ctx name g => Sys2Proof.Machine.execSegmentRefillGranule ctx name g s
  | .segmentWritebackGranule ctx name g => Sys2Proof.Machine.execSegmentWritebackGranule ctx name g s
  | .windowEnable w v => Sys2Proof.Machine.execWindowEnable w v s
  | .windowDisable w v => Sys2Proof.Machine.execWindowDisable w v s
  | .windowFlush w v => Sys2Proof.Machine.execWindowFlush w v s
  | .windowFlushDone w => Sys2Proof.Machine.execWindowFlushDone w s
  | .carveoutChange d v => Sys2Proof.Machine.execCarveoutChange d v s
  | .carveoutShrinkProceed d => Sys2Proof.Machine.execCarveoutShrinkProceed d s
  | .carveoutChangeDone d => Sys2Proof.Machine.execCarveoutChangeDone d s
  | .chrsvWrite d v => Sys2Proof.Machine.execChrsvWrite d v s
  | .shootdown v => Sys2Proof.Machine.execShootdown v s
  | .counterAddWindowWrite slot size v => Sys2Proof.Machine.execCounterAddWindowWrite slot size v s
  | .hostHdmRead host dec off own => Sys2Proof.Machine.execHostHdmRead host dec off own s
  | .hostHdmWrite host dec off data => Sys2Proof.Machine.execHostHdmWrite host dec off data s
  | .hostSnoopAnswer line => Sys2Proof.Machine.execHostSnoopAnswer line s
  | .hostSnoop line => Sys2Proof.Machine.execHostSnoop line s
  | .hostLost host => Sys2Proof.Machine.execHostLost host s
  | .peerReadRequest pkg fctx va size tag => Sys2Proof.Machine.execPeerReadRequest pkg fctx va size tag s
  | .peerWrite tag fctx va data => Sys2Proof.Machine.execPeerWrite tag fctx va data s
  | .peerCounterAdd pkg fctx va v tag => Sys2Proof.Machine.execPeerCounterAdd pkg fctx va v tag s
  | .remoteResponse tag ok data => Sys2Proof.Machine.execRemoteResponse tag ok data s
  | .flitReplay link => Sys2Proof.Machine.execFlitReplay link s
  | .managementMessage msg => Sys2Proof.Machine.execManagementMessage msg s
  | .timingMessage ofs => Sys2Proof.Machine.execTimingMessage ofs s
  | .peerLost pkg => Sys2Proof.Machine.execPeerLost pkg s
  | .linkDown n => Sys2Proof.Machine.execLinkDown n s
  | .linkRetry n lanes => Sys2Proof.Machine.execLinkRetry n lanes s
  | .queueEnable q => Sys2Proof.Machine.execQueueEnable q s
  | .qverUpdate q v => Sys2Proof.Machine.execQverUpdate q v s
  | .reasonClear q => Sys2Proof.Machine.execReasonClear q s
  | .frontEndTake q => Sys2Proof.Machine.execFrontEndTake q s
  | .launchReady launch => Sys2Proof.Machine.execLaunchReady launch s
  | .gangStagePlace launch gang stage => Sys2Proof.Machine.execGangStagePlace launch gang stage s
  | .launchComplete launch => Sys2Proof.Machine.execLaunchComplete launch s
  | .preemptionRequest ask => Sys2Proof.Machine.execPreemptionRequest ask s
  | .forcedStop team => Sys2Proof.Machine.execForcedStop team s
  | .teamSave team => Sys2Proof.Machine.execTeamSave team s
  | .teamRestore team core => Sys2Proof.Machine.execTeamRestore team core s
  | .yieldSwap core => Sys2Proof.Machine.execYieldSwap core s
  | .teamExit team => Sys2Proof.Machine.execTeamExit team s
  | .faultRecordWrite rec => Sys2Proof.Machine.execFaultRecordWrite rec s
  | .disposition ring => Sys2Proof.Machine.execDisposition ring s
  | .mchk team unit => Sys2Proof.Machine.execMchk team unit s
  | .eqsetWrite v => Sys2Proof.Machine.execEqsetWrite v s
  | .snapgo t => Sys2Proof.Machine.execSnapgo t s
  | .islandControl n v => Sys2Proof.Machine.execIslandControl n v s
  | .powerLimitThrottle watts => Sys2Proof.Machine.execPowerLimitThrottle watts s
  | .keyDerive n => Sys2Proof.Machine.execKeyDerive n s
  | .keyClear n => Sys2Proof.Machine.execKeyClear n s
  | .egressRelease cls => Sys2Proof.Machine.execEgressRelease cls s
  | .almbaseWrite v => Sys2Proof.Machine.execAlmbaseWrite v s
  | .almack k => Sys2Proof.Machine.execAlmack k s
  | .almanacPortSelect v => Sys2Proof.Machine.execAlmanacPortSelect v s
  | .leaderTakeover die => Sys2Proof.Machine.execLeaderTakeover die s
  | .servicePairMismatch die => Sys2Proof.Machine.execServicePairMismatch die s
  | .packageReset selfTest => Sys2Proof.Machine.execPackageReset selfTest s
  | .attestationRequest nonce => Sys2Proof.Machine.execAttestationRequest nonce s
  | .sealImport w off data => Sys2Proof.Machine.execSealImport w off data s
  | .registerWrite who off size v => Sys2Proof.Machine.execRegisterWrite who off size v s
  | .unassignedOpcode word => Sys2Proof.Machine.execUnassignedOpcode word s
  | .mgemmSequencerStep sl => Sys2Proof.Machine.execMgemmSequencerStep sl s
  | .matrixAcceptance sl => Sys2Proof.Machine.execMatrixAcceptance sl s
  | .cxlCacheResponse line data => Sys2Proof.Machine.execCxlCacheResponse line data s
  | .servicePairAccess die acc => Sys2Proof.Machine.execServicePairAccess die acc s
  | .shootdownDone => Sys2Proof.Machine.execShootdownDone s
  | .feed => Sys2Proof.Machine.execFeed s
  | .startTimeReached => Sys2Proof.Machine.execStartTimeReached s
  | .kernelReplace => Sys2Proof.Machine.execKernelReplace s
  | .fehbWrite => Sys2Proof.Machine.execFehbWrite s
  | .frontEndWatchdog => Sys2Proof.Machine.execFrontEndWatchdog s
  | .snapshotLatch => Sys2Proof.Machine.execSnapshotLatch s
  | .leaderHeartbeat => Sys2Proof.Machine.execLeaderHeartbeat s

end Sys2Proof.Machine
end

