-- ==== Sys2Proof/Machine/Step.lean ====
section
/-!
DEFINITION. One step of the package: the next turn of the agenda is taken, or the default turn when it is empty.
-/

namespace Sys2Proof.Machine

/-- The turn the next step takes, and the state it takes it in: the model's count of steps goes on. -/
def State.takeTurn (s : State) : Turn × State :=
  match s.agenda with
  | t :: r => (t, { s with agenda := r, tick := s.tick + 1 })
  | [] => (defaultTurn s, { s with tick := s.tick + 1 })

/-- One turn: a slot does what it issues next, an event happens, or time passes. -/
def runTurn (t : Turn) (s : State) : Host.Outcome State Fault Refusal :=
  match t with
  | .issue sl =>
    let s1 := { s with cur := sl }
    match s1.view with
    | none => .fault .noIssuingSlot
    | some v => match nextInstr s1 v with
      | .run i s2 => exec i s2
      | .stop s2 => .next s2
  | .event i => if (encode i).isNone then exec i s else .refused .notAnEvent
  | .pass ns => .next (s.pass ns)

/-- One step of the machine. -/
def step (s : State) : Host.Outcome State Fault Refusal :=
  let t := s.takeTurn
  runTurn t.1 t.2

/-- The state with an operation word stored where the next step fetches: in the instruction cache of the core of the slot in
turn, at its PC; a state in which no slot can fetch a plain word gets a context, a launch and a team on core 0 first. -/
def State.withFetchWord (s : State) (nbits w : Nat) : State := s.setNext (BitVec.ofNat 64 (w % 2 ^ nbits))

end Sys2Proof.Machine
end

