-- ==== Sys2Proof/Safety.lean ====
section
/-!
DEFINITION. What claims about the machine are said in: what a step answers, what stays as it was, and what the registers
read afterwards.
-/

namespace Sys2Proof.Machine

/-- The step answers a next state. -/
def Runs (o : Host.Outcome State Fault Refusal) : Prop := ∃ t, o = .next t

/-- Physical memory is in its canonical form: addresses strictly rising, no listed zero. -/
def MemOk (s : State) : Prop := Memory.wf s.mem = true

/-- Nothing of the package differs but one wave: no other team, no other wave of the team, no register of the package, no
byte of physical memory, of a scratchpad or of a segment. -/
def OnlyWave (sl : SlotId) (s t : State) : Prop :=
  t = { s with teams := t.teams } ∧ (∀ a, cellGet t.mem a = cellGet s.mem a) ∧
    (∀ id, id ≠ sl.team → t.team? id = s.team? id) ∧
    ∀ x, s.team? sl.team = some x →
      ∃ ws, t.team? sl.team = some { x with waves := ws } ∧ ∀ i, i ≠ sl.wave → ws[i]? = x.waves[i]?

/-- What a mask word keeps of a written value: owned lanes only (R207); another register keeps all of it. -/
def ownedCut (p : Slot) (n : Nat) (x : Word) : Word :=
  if 60 ≤ n ∧ n ≤ 62 then x &&& maskWord p.owned (n - 60) else x

/-- What scalar register `n` reads after an ALU-class operation with result `r` in the lanes `act` (R207, R208). -/
def AluResult.sregAfter (r : AluResult) (f : FmtA) (act : Lanes) (v : View) (n : Nat) : Word :=
  match r with
  | .scal g x =>
    if f.c.nw = false ∧ act ≠ 0 ∧ f.d.toNat ≤ n ∧ n < f.d.toNat + g then
      ownedCut v.p n (x.extractLsb' (32 * (n - f.d.toNat)) 32)
    else readSReg v.w v.p n
  | _ => readSReg v.w v.p n

/-- What lane `l` of vector register `n` reads after it: the result where the lane is active (R208). -/
def AluResult.vregAfter (r : AluResult) (f : FmtA) (act : Lanes) (v : View) (n l : Nat) : Word :=
  match r with
  | .vec g h =>
    if f.c.nw = false ∧ act.getLsbD l = true ∧ f.d.toNat ≤ n ∧ n < f.d.toNat + g then
      (h l).extractLsb' (32 * (n - f.d.toNat)) 32
    else laneGet v.w.v n l
  | _ => laneGet v.w.v n l

/-- What predicate `n` reads after it: k0 all ones, the others changed in active lanes only (R38, R208). -/
def AluResult.kregAfter (r : AluResult) (f : FmtA) (act : Lanes) (v : View) (n : Nat) : Lanes :=
  match r with
  | .pred x =>
    if f.c.nw = false ∧ n = f.d.toNat ∧ n ≠ 0 then (readKReg v.w n &&& ~~~act) ||| (x &&& act) else readKReg v.w n
  | _ => readKReg v.w n

/-- What scalar temporary `n` of the expansion reads after it (R370). -/
def AluResult.xregAfter (r : AluResult) (f : FmtA) (act : Lanes) (v : View) (n : Nat) : Word :=
  match r with
  | .scal g x =>
    if f.c.nw = false ∧ act ≠ 0 ∧ 0x90 ≤ f.d.toNat ∧ f.d.toNat ≤ 0x90 + n ∧ 0x90 + n < f.d.toNat + g then
      x.extractLsb' (32 * (0x90 + n - f.d.toNat)) 32
    else readXReg v.p n
  | _ => readXReg v.p n

/-- What lane `l` of vector temporary `n` of the expansion reads after it (R370). -/
def AluResult.eregAfter (r : AluResult) (f : FmtA) (act : Lanes) (v : View) (n l : Nat) : Word :=
  match r with
  | .vec g h =>
    if f.c.nw = false ∧ act.getLsbD l = true ∧ 0x90 ≤ f.d.toNat ∧ f.d.toNat ≤ 0x90 + n ∧ 0x90 + n < f.d.toNat + g then
      (h l).extractLsb' (32 * (0x90 + n - f.d.toNat)) 32
    else readEReg v.p n l
  | _ => readEReg v.p n l

/-- The lanes that decide whether a result is written (R10, R207). -/
def effLanes (f : FmtA) (r : AluResult) (v : View) : Lanes :=
  match r with
  | .scal _ _ => if f.c.nw then v.active f.c else v.activeTo f.c f.d
  | _ => v.active f.c

/-- The slot goes on with nothing changed but its place in the program and in its chain, its latches and what leaving an
expansion drops: no register of its own, not its lanes, not %mxst, not its fault mask, not its epilogue block. -/
def SlotGoesOn (p q : Slot) : Prop :=
  q = { p with
    pc := q.pc, bank := q.bank, mask := q.mask, chainOpen := q.chainOpen, chainLen := q.chainLen, l0 := q.l0, l1 := q.l1
    l2 := q.l2, l3 := q.l3, rep := q.rep, exp := q.exp, pend := q.pend, stopAtBoundary := q.stopAtBoundary
    status := q.status } ∧
  q.pc = p.retire.pc ∧
  (p.exp = none → q.exp = none ∧ q.pend = p.pend ∧ q.stopAtBoundary = p.stopAtBoundary ∧ q.status = p.status)

/-- What an ALU-class operation does: its result in the destination (nothing with NW), the latches, the next word, and
nothing else (R41, R43, R207, R208). -/
def AluEffect (f : FmtA) (r : AluResult) (v : View) (s t : State) : Prop :=
  let act := effLanes f r v
  OnlyWave v.sl s t ∧ ∃ u, t.find v.sl = some u ∧
    u.w.slot (!v.sl.b) = v.w.slot (!v.sl.b) ∧ u.w.stack = v.w.stack ∧ u.w.status = v.w.status ∧
    (∀ n, n < 64 → readSReg u.w u.p n = r.sregAfter f act v n) ∧
    (∀ n l, n < 64 → l < 96 → laneGet u.w.v n l = r.vregAfter f act v n l) ∧
    (∀ n, n < 8 → readKReg u.w n = r.kregAfter f act v n) ∧
    (u.p.exp.isSome = true → (∀ n, n < 8 → readXReg u.p n = r.xregAfter f act v n) ∧
      ∀ n l, n < 8 → l < 96 → readEReg u.p n l = r.eregAfter f act v n l) ∧
    SlotGoesOn v.p u.p ∧
    (u.p.inChain = true → u.p.l0 = some (r.latch act) ∧ u.p.l1 = v.p.latch 0 ∧ u.p.l2 = v.p.latch 1 ∧ u.p.l3 = v.p.latch 2) ∧
    (f.c.ch = false → u.p.chainOpen = false) ∧ (f.c.ch = true → v.p.exp = none → u.p.chainOpen = true)

/-- The operation `i` with form `m` and result `r` completes wherever nothing is wrong with its fields and operands. -/
def AluCompletes (i : FmtA → Instr) (m : FmtA → AluForm) (r : FmtA → View → AluResult) : Prop :=
  ∀ (f : FmtA) (s : State) (v : View), s.view = some v → (m f).aluCauses f v = [] →
    ∃ t, exec (i f) s = .next t ∧ AluEffect f (r f v) v s t

/-- The same for an operation that records float conditions: `g` are those of a lane (R231). -/
def FloatCompletes (i : FmtA → Instr) (m : FmtA → AluForm) (r : FmtA → View → AluResult)
    (g : FmtA → View → Nat → Conds) : Prop :=
  ∀ (f : FmtA) (s : State) (v : View), s.view = some v → (m f).aluCauses f v = [] →
    ∃ t, exec (i f) s = .next (t.countConds v.t (condsOver (v.active f.c) (g f v))) ∧ AluEffect f (r f v) v s t

/-- The wave keeps everything but the slot: its registers, its stack, its other slot. -/
def OnlySlot (v u : View) : Prop := u.w = v.w.setSlot v.sl.b u.p ∧ u.sl = v.sl

/-- An operation leaves a pending result behind and goes on: nothing is written yet (R48, R49). -/
def LeavesPending (q : Pend) (v : View) (s t : State) : Prop :=
  OnlyWave v.sl s t ∧ ∃ u, t.find v.sl = some u ∧ OnlySlot v u ∧ u.p.pc = v.p.retire.pc ∧
    (v.p.exp = none → u.p.pend = v.p.pend ++ [q]) ∧
    u.p.bank = v.p.bank ∧ u.p.mask = v.p.mask ∧ u.p.owned = v.p.owned ∧ u.p.mxst = v.p.mxst ∧ u.p.fmask = v.p.fmask ∧
    (u.p.inChain = true → u.p.l0 = none ∧ u.p.l1 = none ∧ u.p.l2 = none ∧ u.p.l3 = none)

/-- The operation `i`, whose result is tracked in class `c`, completes wherever nothing is wrong with it and the class has
room: it leaves the result `q` pending in the lanes of `active`, in the wave's order of issue, and counts the conditions
`g` (R208, R240, R243). -/
def LateCompletes (i : FmtA → Instr) (m : FmtA → AluForm) (c : ResClass) (q : FmtA → View → Pend)
    (g : FmtA → View → Conds) : Prop :=
  ∀ (f : FmtA) (s : State) (v : View), s.view = some v → (m f).lateCauses c f v = [] → v.p.count c < 64 →
    ∃ t, exec (i f) s = .next (t.countConds v.t (g f v)) ∧
      LeavesPending { v.ordered (q f v) with mLanes := v.active f.c } v s t

/-- The instruction, wherever something is wrong with it, ends in the kill of its wave for the least cause (R56). -/
def KilledForLeast (i : Instr) (causes : State → View → List Nat) : Prop :=
  ∀ (s : State) (v : View), s.view = some v → causes s v ≠ [] →
    ∃ c ∈ causes s v, (∀ d ∈ causes s v, c ≤ d) ∧ exec i s = .next (s.killWave v c)

/-- The packed forms of R222 and R223. -/
def packedForm (sat : Bool) (f : FmtA) : AluForm :=
  { vecForm2 with a := srcV (intCode f.ty.toNat).2, b := srcV (intCode f.ty.toNat).2, tys := tysPacked, sat := sat }

/-- Several operations of one form. -/
def sameForm (g : FmtA → AluForm) (ops : List (FmtA → Instr)) : List ((FmtA → Instr) × (FmtA → AluForm)) :=
  ops.map fun i => (i, g)

/-- The forms of the scalar operations of class 0, SMOVI aside (R212). -/
def scalarForms : List ((FmtA → Instr) × (FmtA → AluForm)) := List.flatten [
  sameForm (fun _ => scalForm2) [.smul, .smulhs, .smulhz, .sand, .sor, .sxor, .sandn, .sshl, .sshrz, .sshrs, .srot, .smins,
    .sminz, .smaxs, .smaxz],
  sameForm (fun _ => { scalForm2 with sat := true }) [.sadd, .ssub],
  sameForm (fun _ => { scalForm3 with d := .scal 2 }) [.saddc, .ssubb],
  sameForm (fun _ => scalForm3) [.sbfx, .sbfi, .ssel],
  sameForm (fun _ => scalForm1) [.sclz, .sctz, .spopc, .sbrev, .smov],
  sameForm (fun _ => { scalForm2 with opb := intCondCauses }) [.scmp],
  sameForm (fun _ => scalForm64) [.sadd64, .ssub64, .smul64],
  sameForm (fun _ => { scalForm64 with b := srcS32 }) [.sshl64, .sshr64]]

/-- The forms of the integer vector and predicate operations of class 1 whose result is written at once (R212). -/
def vectorForms : List ((FmtA → Instr) × (FmtA → AluForm)) := List.flatten [
  sameForm (fun _ => vecForm2) [.vmul, .vmulhs, .vmulhz, .vand, .vor, .vxor, .vandn, .vshl, .vshrz, .vshrs],
  sameForm (fun _ => { vecForm2 with b := .none }) [.vmov, .vpopc, .vclz],
  sameForm (fun _ => { vecForm2 with c := srcV 32 }) [.vmad, .vbfx, .vbfi],
  sameForm (fun _ => { vecForm2 with c := .pred }) [.vsel],
  sameForm (fun _ => { vecForm2 with d := .vec 2, a := .vec (.int 32) 2, b := .vec (.int 32) 2, tys := tys64 }) [.vadd64],
  sameForm (fun _ => { vecForm2 with d := .pred, opb := intCondCauses }) [.vcmp],
  sameForm (fun f => { vecForm2 with a := srcV (intCode f.ty.toNat).2, b := .none, tys := [0, 1, 2, 3], sat := true }) [.vabs],
  sameForm (fun _ => { vecForm2 with a := srcV 8, b := srcV 8, c := srcV 32, tys := [1, 5], sat := true }) [.vqdot],
  sameForm (packedForm true) [.vadd, .vsub],
  sameForm (packedForm false) [.vmins, .vminz, .vmaxs, .vmaxz],
  sameForm (fun _ => predForm2) [.kand, .kor, .kxor],
  sameForm (fun _ => { predForm2 with b := .none }) [.knot, .kmov],
  sameForm (fun _ => { predForm2 with a := .triple, b := .none, opb := fun x => if x = 1 then [] else [0x02] }) [.kmovFs]]

/-- The forms of the float operations of class 2 whose result is written at once (R228). -/
def floatForms : List ((FmtA → Instr) × (FmtA → AluForm)) := List.flatten [
  sameForm (fun _ => floatForm2) [.vfadd, .vfsub, .vfmul],
  sameForm (fun _ => floatForm2Exact) [.vfmin, .vfmax],
  sameForm (fun _ => { floatForm2 with c := srcF .f32 }) [.vfma],
  sameForm (fun f => { floatForm2 with
    a := srcF (halfCode f.ty.toNat), b := srcF (halfCode f.ty.toNat), c := srcF (halfCode f.ty.toNat), tys := [10, 11] })
    [.vhfma],
  sameForm (fun f => { floatForm2 with
    a := srcF (halfCode f.ty.toNat), b := srcF (halfCode f.ty.toNat), c := srcF .f32, tys := [10, 11] }) [.vhdot],
  sameForm (fun _ => { floatForm2Exact with d := .pred, opb := floatCondCauses }) [.vfcmp],
  sameForm (fun f => { floatForm2Exact with
    a := srcF ((floatCode f.ty.toNat).getD .f32), b := .none, tys := [0, 9, 10, 11] }) [.vfclass],
  sameForm (fun f => { floatForm2 with
    a := srcF ((floatCode f.ty.toNat).getD .f32), b := .none, tys := [0, 9, 10, 11], sat := false }) [.vfrnd],
  sameForm (cvtForm false) [.vfcvt],
  sameForm (cvtForm true) [.vcvti]]

/-- The forms of the operations of classes 0 to 2 whose result is written at once, SMOVI aside (R212, R228). -/
def aluForms : List ((FmtA → Instr) × (FmtA → AluForm)) := List.flatten [scalarForms, vectorForms, floatForms]

/-- Several operations of one form and class. -/
def sameLate (c : ResClass) (g : FmtA → AluForm) (ops : List (FmtA → Instr)) :
    List ((FmtA → Instr) × ResClass × (FmtA → AluForm)) :=
  ops.map fun i => (i, c, g)

/-- The forms of the operations whose result is tracked, with their class (R240, R243). -/
def lateForms : List ((FmtA → Instr) × ResClass × (FmtA → AluForm)) := List.flatten [
  sameLate .sf (fun _ => sfForm) [.vrcp, .vrsq, .vsqrt, .vexp2, .vlog2, .vsin, .vcos, .vtanh],
  sameLate .xl shuffleForm [.vshfl, .vshflx, .vshflup, .vshfldn],
  sameLate .xl (fun f =>
    { d := .scal (moveGroup f), a := .vec (.int 32) (moveGroup f), b := srcS32, c := .none, tys := tysMove, rm := false
      sat := false, opb := opbZero }) [.vreadl],
  sameLate .xl (fun f =>
    { d := .vec (moveGroup f), a := .scal (.int 32) (moveGroup f), b := srcS32, c := .none, tys := tysMove, rm := false
      sat := false, opb := opbZero }) [.vwritel],
  sameLate .xl (fun _ => { predForm2 with d := .scal 4, b := .none }) [.vballot],
  sameLate .xl (fun _ => { predForm2 with b := .none }) [.vany, .vall],
  sameLate .xl (redFormOf true) [.vredadd],
  sameLate .xl (redFormOf false) [.vredmin, .vredmax],
  sameLate .xl (fun f => { redFormOf (decide (f.opb.toNat % 4 = 0)) f with d := .vec 1, opb := opbScan }) [.vscan]]

/-- A 32-bit operation of class 0 or 1 with two sources completes with the value `g`. -/
def Scal2 (i : FmtA → Instr) (g : FmtA → Word → Word → Word) : Prop :=
  AluCompletes i (fun _ => scalForm2) fun f v => .s32 (g f (readS32 v f.sa) (readS32 v f.sb))

/-- The same with one source. -/
def Scal1 (i : FmtA → Instr) (g : Word → Word) : Prop :=
  AluCompletes i (fun _ => scalForm1) fun f v => .s32 (g (readS32 v f.sa))

/-- The same with three sources. -/
def Scal3 (i : FmtA → Instr) (g : FmtA → Word → Word → Word → Word) : Prop :=
  AluCompletes i (fun _ => scalForm3) fun f v => .s32 (g f (readS32 v f.sa) (readS32 v f.sb) (readS32 v f.sc))

/-- A 64-bit operation of class 0 on two pairs. -/
def Scal64 (i : FmtA → Instr) (g : Dword → Dword → Dword) : Prop :=
  AluCompletes i (fun _ => scalForm64) fun f v => .scal 2 (g (readS64 v f.sa) (readS64 v f.sb))

/-- A 32-bit operation of class 1 on the lanes of two sources. -/
def Vec2 (i : FmtA → Instr) (g : Word → Word → Word) : Prop :=
  AluCompletes i (fun _ => vecForm2) fun f v => .v32 fun l => g (readV32 v 32 f.sa l) (readV32 v 32 f.sb l)

/-- The same with one source. -/
def Vec1 (i : FmtA → Instr) (g : Word → Word) : Prop :=
  AluCompletes i (fun _ => { vecForm2 with b := .none }) fun f v => .v32 fun l => g (readV32 v 32 f.sa l)

/-- The same with three sources. -/
def Vec3 (i : FmtA → Instr) (g : FmtA → Word → Word → Word → Word) : Prop :=
  AluCompletes i (fun _ => { vecForm2 with c := srcV 32 }) fun f v =>
    .v32 fun l => g f (readV32 v 32 f.sa l) (readV32 v 32 f.sb l) (readV32 v 32 f.sc l)

/-- A packed operation of class 1 on elements of the type's width (R214, R223): `g` on exact element values, narrowed. -/
def Packed (i : FmtA → Instr) (g : Int → Int → Int) : Prop :=
  AluCompletes i
    (fun f => { vecForm2 with
      a := srcV (intCode f.ty.toNat).2, b := srcV (intCode f.ty.toNat).2, tys := tysPacked, sat := true })
    fun f v => .v32 fun l => packElems (intCode f.ty.toNat).2 fun e =>
      narrowInt (intCode f.ty.toNat).1 f.sat (intCode f.ty.toNat).2
        (g (toNum (intCode f.ty.toNat).1 (elemOf (intCode f.ty.toNat).2 (readV32 v (intCode f.ty.toNat).2 f.sa l) e))
          (toNum (intCode f.ty.toNat).1 (elemOf (intCode f.ty.toNat).2 (readV32 v (intCode f.ty.toNat).2 f.sb l) e)))

/-- A packed minimum (`up` false) or maximum of the signedness `sg` (R222). -/
def PackedPick (i : FmtA → Instr) (sg up : Bool) : Prop :=
  AluCompletes i
    (fun f => { vecForm2 with a := srcV (intCode f.ty.toNat).2, b := srcV (intCode f.ty.toNat).2, tys := tysPacked })
    fun f v => .v32 fun l => packElems (intCode f.ty.toNat).2 fun e =>
      let a := elemOf (intCode f.ty.toNat).2 (readV32 v (intCode f.ty.toNat).2 f.sa l) e
      let b := elemOf (intCode f.ty.toNat).2 (readV32 v (intCode f.ty.toNat).2 f.sb l) e
      if (decide (toNum sg a ≤ toNum sg b)) = up then b else a

/-- An operation on predicates. -/
def Pred2 (i : FmtA → Instr) (g : Lanes → Lanes → Lanes) : Prop :=
  AluCompletes i (fun _ => predForm2) fun f v => .pred (g (readPred v f.sa) (readPred v f.sb))

/-- An operation on one predicate. -/
def Pred1 (i : FmtA → Instr) (g : Lanes → Lanes) : Prop :=
  AluCompletes i (fun _ => { predForm2 with b := .none }) fun f v => .pred (g (readPred v f.sa))

/-- A float operation of class 1 with a 32-bit result in each lane. -/
def FloatLanes (i : FmtA → Instr) (m : FmtA → AluForm) (g : FmtA → View → Nat → Word × Conds) : Prop :=
  FloatCompletes i m (fun f v => .v32 fun l => (g f v l).1) fun f v l => (g f v l).2

/-- A special function of class sf (R240). -/
def SpecialCompletes (i : FmtA → Instr) (fn : SpecialFn) : Prop :=
  LateCompletes i (fun _ => sfForm) .sf
    (fun f v => Pend.vec .sf f.d 1 (v.active f.c) fun _ l => BitVec.ofNat 32 (specialFn fn (readF v .f32 f.sa l)).1)
    fun f v => condsOver (v.active f.c) fun l => (specialFn fn (readF v .f32 f.sa l)).2

/-- A shuffle of class xl (R245): lane `l` of a group of `w` lanes from `base` receives lane `src w base l index`. -/
def ShuffleCompletes (i : FmtA → Instr) (src : Nat → Nat → Nat → Nat → Nat) : Prop :=
  LateCompletes i shuffleForm .xl
    (fun f v => Pend.vec .xl f.d (moveGroup f) (v.active f.c) fun k l =>
      readMove v f k (src (shuffleWidth f) (l - l % shuffleWidth f) l (readV32 v 32 f.sb l).toNat))
    fun _ _ => {}

/-- A reduction of class xl (R247); without an active lane it writes nothing. -/
def ReduceCompletes (i : FmtA → Instr) (rm : Bool) (g : FmtA → Lanes → (Nat → Word) → Option (Nat × Conds)) : Prop :=
  LateCompletes i (redFormOf rm) .xl
    (fun f v => Pend.scal .xl f.d 1 ((g f (v.active f.c) (readRed v f)).map fun r => BitVec.ofNat 128 r.1))
    fun f v => ((g f (v.active f.c) (readRed v f)).map Prod.snd).getD {}

/-! ### Memory -/

/-- The byte of a location once every write in flight is performed. -/
def finalByte (s : State) (l : Loc) : Byte := s.writes.foldl (fun b w => (w.at? l).getD b) (locBase s l)

/-- The location exists. -/
def Loc.present (s : State) : Loc → Prop
  | .phys _ => True
  | .scratch t _ => (s.team? t).isSome = true
  | .seg c n _ => (s.segment? c n).isSome = true

/-- The writes in flight are in order: distinct, none performed everywhere, and of two that meet, the earlier one performed
at least as far (R314). -/
def WritesOk (s : State) : Prop :=
  (s.writes.map PWrite.id).Nodup ∧ (∀ w ∈ s.writes, w.id < s.nextWrite ∧ w.level < 6) ∧
    s.writes.Pairwise fun x y => x.meets y = true → y.level ≤ x.level

/-- An operation that is not ALU-class goes on: nothing of the package but its slot differs from `s`, its registers and
lanes are as they were, its results are `pend`, its fault mask `fm`, and no latch is valid (R43). -/
def MovesOn (pend : List Pend) (fm : Lanes) (v : View) (s t : State) : Prop :=
  OnlyWave v.sl s t ∧ ∃ u, t.find v.sl = some u ∧ OnlySlot v u ∧ u.p.pc = v.p.retire.pc ∧
    (v.p.exp = none → u.p.pend = pend ∧ u.p.status = v.p.status) ∧
    u.p.bank = v.p.bank ∧ u.p.mask = v.p.mask ∧ u.p.owned = v.p.owned ∧ u.p.mxst = v.p.mxst ∧ u.p.fmask = fm ∧
    (u.p.inChain = true → u.p.l0 = none ∧ u.p.l1 = none ∧ u.p.l2 = none ∧ u.p.l3 = none)

/-- The fault mask after a memory operation whose accesses all pass: a replay clears it (R185). -/
def fmaskAfter (v : View) : Lanes := if v.p.replay then 0 else v.p.fmask

/-- The lanes of some accesses, a scalar operation's being none of the wave's. -/
def laneOf (scalar : Bool) (g : Good) : Option Nat := if scalar then none else some g.lane

/-- Every access of a memory operation passes its checks, which leave `s1`, and none has to wait: not for its translation,
not for its line, its granule or an answer from another package, nor for a combining-buffer entry it touches or what preserved
order puts before it (R182, R183, R198, R312, R416). -/
def AccessesReady (s : State) (v : View) (n : Nat) (k : Access) (f : FmtM) (remoteOk scalar : Bool) (ps : List Part)
    (s1 : State) (gs : List Good) : Prop :=
  partNeeds s v f.spc.toNat k ps = [] ∧ resolve s v f.spc.toNat n k remoteOk ps = (s1, ⟨gs, []⟩) ∧
    (∀ g ∈ gs, targetNeeds s1 (decide (k ≠ .load)) n g.t = [] ∧ touchNeeds s1 v.t.core g.t n = []) ∧
    unanswered s1 (.slot v.sl) gs = [] ∧ (k = .atomic → locNeeds s1 (goodLocs s1 n gs) = []) ∧
    (k ≠ .store → beforeNeeds s1 v f.str (gs.map (laneOf scalar)) (goodLocs s1 n gs) = [])

/-- The load `i` completes: its result is pending with the bytes read of each access whose data can be read; a vector load
leaves one with no lane active too (R49, R186). -/
def LoadCompletes (i : FmtM → Instr) (causes : FmtM → View → List Nat) (scalar : Bool) (parts : FmtM → View → List Part) :
    Prop :=
  ∀ (f : FmtM) (s : State) (v : View) (s1 : State) (gs : List Good), s.view = some v → causes f v = [] →
    v.p.count .ld < 64 →
    AccessesReady s v (szBytes f.sz.toNat) .load f true scalar (parts f v) s1 gs →
    let n := szBytes f.sz.toNat
    let s2 := (s1.quiet v.t.core n gs).forceBefore v f.str (gs.map (laneOf scalar)) (goodLocs s1 n gs)
    ∃ t q, exec (i f) s = .next t ∧
      MovesOn (if scalar ∧ gs = [] then v.p.pend else v.p.pend ++ [q]) (fmaskAfter v) v
        ((s2.fillGood v.seat n gs).clearRemote (.slot v.sl)) t ∧
      ((∀ g ∈ gs, targetPoisoned s2 n g.t = false) →
        if scalar then ∀ g, gs = [g] →
          q = v.ordered
            (Pend.scal .ld f.d (szGroup f.sz.toNat) (some (BitVec.ofNat 128 (ofBytes (goodBytes s2 v.seat n g)))))
        else ∃ val, q = v.ordered (Pend.vec .ld f.d (szGroup f.sz.toNat) (goodMask gs) val) ∧
          ∀ g ∈ gs, ∀ j, val j g.lane = regOfBytes (goodBytes s2 v.seat n g) j) ∧
      (∀ g rest, gs = g :: rest → targetPoisoned s2 n g.t = true →
        ∃ r, q.poison = some r ∧ r.cls = .mem ∧ r.cause = 11 ∧ r.addr = g.addr)

/-- The state in which an ATOM's lanes begin: the core's entries they touch are flushed, and what preserved order puts first
is performed (R198, R312). -/
def atomStart (v : View) (f : FmtM) (s : State) (gs : List Good) : State :=
  (gs.foldl (fun s g => s.flushFor v.t.core g.t (szBytes f.sz.toNat)) s).forceBefore v f.str (gs.map (laneOf false))
    (goodLocs s (szBytes f.sz.toNat) gs)

/-- The lanes of an ATOM in turn, with the old value of each (R192, R195). -/
def atomRun (v : View) (f : FmtM) (s : State) : List Good → State × List Nat
  | [] => (s, [])
  | g :: r => ((atomRun v f (atomLane v f s g).1 r).1, (atomLane v f s g).2 :: (atomRun v f (atomLane v f s g).1 r).2)

/-- What a store of `data` to a target gives a location, if anything. -/
def storedAt (t : Target) (data : List Byte) (l : Loc) : Option Byte :=
  ((targetBytes t data).find? fun p => p.1 = l).map Prod.snd

/-- A byte of a team's lane slices. -/
def laneByte (s : State) (team key : Nat) : Byte := match s.team? team with
  | none => 0
  | some t => cellGet t.lane key

/-- What a store of `data` to a target gives a byte of the lane slices, if anything. -/
def storedLane (t : Target) (data : List Byte) (key : Nat) : Option Byte := match t with
  | .lane k => if k ≤ key ∧ key < k + data.length then some (byteAt data (key - k)) else none
  | _ => none

/-- The store `i` completes: the wave's own agents see the bytes of its accesses, in ascending lane order, at the addresses
its parts name; every other agent sees every byte as before, until the writes are performed (R186, R314). -/
def StoreCompletes (i : FmtM → Instr) (causes : FmtM → View → List Nat) (scalar : Bool) (parts : FmtM → View → List Part)
    (data : FmtM → View → Nat → List Byte) : Prop :=
  ∀ (f : FmtM) (s : State) (v : View) (s1 : State) (gs : List Good), s.view = some v → causes f v = [] →
    AccessesReady s v (szBytes f.sz.toNat) .store f true scalar (parts f v) s1 gs →
    let s2 := s1.quiet v.t.core (szBytes f.sz.toNat) gs
    ∃ t s3, exec (i f) s = .next t ∧ MovesOn v.p.pend (fmaskAfter v) v s3 t ∧
      s3 = { s2 with writes := s3.writes, nextWrite := s3.nextWrite, segs := s3.segs, teams := s3.teams, near := s3.near
                     remote := s3.remote } ∧
      (∀ r l, seenByte t r l =
        if joinScope v.seat r = 0 then gs.foldl (fun b g => (storedAt g.t (data f v g.lane) l).getD b) (seenByte s2 r l)
        else seenByte s2 r l) ∧
      (∀ key, laneByte t v.sl.team key =
        gs.foldl (fun b g => (storedLane g.t (data f v g.lane) key).getD b) (laneByte s2 v.sl.team key)) ∧
      (∀ id x, s2.team? id = some x → ∃ l, s3.team? id = some { x with lane := l } ∧ (id ≠ v.sl.team → l = x.lane)) ∧
      (∀ c m g, s2.segment? c m = some g → ∃ d p, s3.segment? c m = some { g with dirty := d, poison := p } ∧
        (∀ x, x ∈ d ↔ x ∈ g.dirty ∨
          ∃ y ∈ gs, ∃ i o, i < szBytes f.sz.toNat ∧ targetLoc y.t i = some (.seg c m o) ∧ o / 4096 = x) ∧
        ((∀ y ∈ gs, ∀ i o, i < szBytes f.sz.toNat → targetLoc y.t i ≠ some (.seg c m o)) → p = g.poison)) ∧
      (∀ w ∈ t.writes, w ∉ s2.writes → w.seat = v.seat ∧ w.stream = some f.str ∧ w.level = 0 ∧
        ∃ g ∈ gs, w.lane = laneOf scalar g ∧ w.deps = orderedBefore s2 v.sl v.p f.str (laneOf scalar g))

/-! ### Counters, segments -/

/-- A status operation goes on with `x` in its scalar destination, nothing of the package but its wave differing from
`s` (R165). -/
def SaysNow (d : BitVec 8) (x : Word) (v : View) (s t : State) : Prop :=
  OnlyWave v.sl s t ∧ ∃ u, t.find v.sl = some u ∧ u.w.slot (!v.sl.b) = v.w.slot (!v.sl.b) ∧ u.w.stack = v.w.stack ∧
    u.w.v = v.w.v ∧ u.w.k = v.w.k ∧ u.p.pc = v.p.retire.pc ∧ u.p.owned = v.p.owned ∧
    (v.p.exp = none → u.p.pend = v.p.pend ∧ u.p.status = v.p.status) ∧
    ∀ n, n < 64 → readSReg u.w u.p n = if n = d.toNat then ownedCut v.p n x else readSReg v.w v.p n

/-- The tracked pair of handle and status (R165). -/
def handlePair (d : BitVec 8) (h : Word) (st : Nat) : Pend :=
  Pend.scal .ld d 2 (some ((pairOf h (BitVec.ofNat 32 st)).zeroExtend 128))

/-- A counter address needs no page-table line that a host cache holds (R416); a segment address is not walked. -/
def WalkReady (s : State) (v : View) (a : Dword) (chg : Bool) : Prop :=
  a.getLsbD 0 = true ∨ xlateNeeds s v.t.core v.t.ctx a chg = []

/-- The counter SA names is here and can be acted on: its address passes the checks, which leave `s1`, nothing has to wait,
neither for it nor for the release, and its line is not poisoned (R292, R297, R416). -/
def CounterReady (s : State) (v : View) (f : FmtC) (chg remoteOk : Bool) (s1 : State) (c : CtrPlace) : Prop :=
  v.active f.c ≠ 0 ∧ WalkReady s v (readS64 v f.sa) chg ∧
    ctrNamed s v (readS64 v f.sa) chg remoteOk = (s1, .ok (.here c)) ∧ ctrNeeds s1 chg c = [] ∧
    (f.rel = true → releaseNeeds s1 v f.mask f.scope.toNat = []) ∧ ctrPoisoned s1 c = false

/-- The state in which a changing counter operation acts: DI of a .glob counter's leaf set, and its release made (R120,
R292). -/
def ctrReleased (f : FmtC) (v : View) (s : State) : State :=
  let a := readS64 v f.sa
  let s1 := if a.getLsbD 0 then s else s.markCtr v.t.core v.t.ctx a
  if f.rel then s1.release v f.mask f.scope.toNat else s1

/-- The attach-miss fault of a SEGATT: the slot held at it on a record with the subcode and the name (R168). -/
def AttachMissed (v : View) (name sub : Nat) (s t : State) : Prop :=
  ∃ u r, OnlyWave v.sl { s with recs := s.recs ++ [r], nextRec := s.nextRec + 1 } t ∧ t.find v.sl = some u ∧ OnlySlot v u ∧
    u.p.pc = v.p.pc ∧ u.p.status = .held s.nextRec ∧ r.cls = .attach ∧ r.cause = sub ∧ r.sub = sub ∧
    r.addr = BitVec.ofNat 64 name ∧ r.sl = some v.sl

/-- The location of a counter exists. -/
def CtrPlace.present (s : State) : CtrPlace → Prop
  | .phys _ => True
  | .seg c n _ => (s.segment? c n).isSome = true

/-! ### Matrix engine, copy unit -/

/-- A class 4 operation can be tried at once: a lane is active and no other slot of the team is inside an operation on the
accumulators and slots it names (R260, R274). -/
def MatrixFree (v : View) (c : Ctl) (names : List Nat × List Nat) : Prop :=
  v.active c ≠ 0 ∧ mxBusy v true names = false

/-- An engine write of `runs` that resolved to `ps`: the wave's own agents see its bytes, no byte else changes
(R271, R314). -/
def EngineWrote (v : View) (ps : List (Target × Nat)) (runs : List Out) (s t : State) : Prop :=
  ∀ r l, seenByte t r l =
    if joinScope v.seat r = 0 then (ps.zip runs).foldl (fun b x => (storedAt x.1.1 x.2.data l).getD b) (seenByte s r l)
    else seenByte s r l

/-- A team but for the bytes of its scratchpad. -/
def Team.still (t : Team) : Team := { t with scratch := [] }

/-- A segment but for its bytes, their dirty bits and its poison. -/
def Segment.still (g : Segment) : Segment := { g with data := [], dirty := [], poison := [] }

/-- What memory accesses themselves leave alone: everything but cached translations, bytes of memory and scratchpads and the
writes in flight to them, the caches' and hosts' lines and what is asked of them, and charges for lost reductions. -/
def EngineFrame (s t : State) : Prop :=
  t = { s with
    tlb := t.tlb, walkCache := t.walkCache, mem := t.mem, writes := t.writes, nextWrite := t.nextWrite, near := t.near
    pred := t.pred, comb := t.comb, lateReds := t.lateReds, decoded := t.decoded, hostLines := t.hostLines
    snoops := t.snoops, cxlReqs := t.cxlReqs, awaited := t.awaited, recs := t.recs, nextRec := t.nextRec, segs := t.segs
    teams := t.teams } ∧
  t.teams.map Team.still = s.teams.map Team.still ∧ t.segs.map Segment.still = s.segs.map Segment.still

/-- What a prefetch leaves alone: everything but cached translations and code lines, the bits a walk sets, the caches'
and hosts' lines, and what it asks for (R200, R201). -/
def PrefetchFrame (s t : State) : Prop :=
  t = { s with
    tlb := t.tlb, walkCache := t.walkCache, mem := t.mem, writes := t.writes, near := t.near, decoded := t.decoded
    hostLines := t.hostLines, snoops := t.snoops, cxlReqs := t.cxlReqs, awaited := t.awaited, prefs := t.prefs
    icache := t.icache, segs := t.segs, teams := t.teams } ∧
  t.teams.map Team.still = s.teams.map Team.still ∧ t.segs.map Segment.still = s.segs.map Segment.still

/-- Where the byte at an address of the team's `.core` lies, if it may be accessed (R150, R156). -/
def coreLoc (s : State) (v : View) (k : Access) (a : Dword) : Option Loc :=
  match teamTarget s v.t 1 a 1 1 k with
  | .ok t => targetLoc t 0
  | .error _ => none

/-- The byte at an address of `.core` as the slot sees it. -/
def coreByte (s : State) (v : View) (a : Dword) : Byte := ((coreLoc s v .load a).map (seenByte s v.seat)).getD 0

/-- `n` bytes of `.core` from an address on. -/
def coreBytes (s : State) (v : View) (a : Dword) (n : Nat) : List Byte :=
  (List.range n).map fun j => coreByte s v (a + BitVec.ofNat 64 j)

/-- The number at an address of `.core`, little-endian. -/
def coreNum (s : State) (v : View) (a : Dword) (n : Nat) : Nat := ofBytes (coreBytes s v a n)

/-- The locations of runs of `.core`. -/
def coreLocs (s : State) (v : View) (rs : List Run) : List Loc :=
  rs.flatMap fun r => (List.range r.n).filterMap fun j => coreLoc s v .load (r.addr + BitVec.ofNat 64 j)

/-- The byte of `.core` may be accessed, and its granule is in place. -/
def CoreByteReady (s : State) (v : View) (k : Access) (a : Dword) : Prop :=
  ∃ t, teamTarget s v.t 1 a 1 1 k = .ok t ∧ targetNeeds s (decide (k ≠ .load)) 1 t = [] ∧
    (k = .load → targetPoisoned s 1 t = false)

/-- The engine can read runs of `.core` now: aligned, every byte in bounds, in place and not poisoned, and no host cache to
be asked for what preserved order puts first (R183, R260, R312, R416). -/
def CoreReadable (s : State) (v : View) (str : BitVec 4) (rs : List Run) : Prop :=
  (∀ r ∈ rs, r.n ≤ 256 ∧ r.addr.toNat % r.al = 0 ∧ ∀ j, j < r.n → CoreByteReady s v .load (r.addr + BitVec.ofNat 64 j)) ∧
    beforeNeeds s v str [none] (coreLocs s v rs) = []

/-- The state in which the engine reads runs of `.core`: what preserved order puts first is performed (R312). -/
def coreAfter (s : State) (v : View) (str : BitVec 4) (rs : List Run) : State :=
  s.forceBefore v str [none] (coreLocs s v rs)

/-- The bytes of a line of `.core` and of its scale data. -/
def LineRef.coreBytes (s : State) (v : View) (r : LineRef) : List Byte × List Byte :=
  (Machine.coreBytes s v r.line 128, match r.scale with
    | none => []
    | some x => Machine.coreBytes s v x.addr x.n)

/-- Bytes from an address on, each with its address. -/
def placed (a : Dword) (bs : List Byte) : List (Dword × Byte) := bs.zipIdx.map fun x => (a + BitVec.ofNat 64 x.2, x.1)

/-- Writes of the slot in a stream to bytes of `.core` stand behind the others: the wave's own agents see the bytes, the
later of two at one place, and nothing else of the package differs (R271, R314). -/
def CoreWrites (v : View) (str : BitVec 4) (bs : List (Dword × Byte)) (s t : State) : Prop :=
  (∃ new, t = { s with writes := s.writes ++ new, nextWrite := s.nextWrite + new.length, segs := t.segs } ∧
    ∀ w ∈ new, w.seat = v.seat ∧ w.stream = some str ∧ w.lane = none ∧ w.level = 0 ∧
      w.deps = orderedBefore s v.sl v.p str none) ∧
  t.segs.map Segment.still = s.segs.map Segment.still ∧
  ∀ r l, seenByte t r l =
    if joinScope v.seat r = 0 then
      ((bs.reverse.find? fun x => decide (coreLoc s v .store x.1 = some l)).map Prod.snd).getD (seenByte s r l)
    else seenByte s r l

/-- The block the slot's next MSTORE uses: the one bound, the default, or the one bound before and read again (R268). -/
def EpiBound (s : State) (v : View) (tyI : Bool) (s1 : State) (e : BitVec 512) : Prop :=
  (v.p.epi = some e ∧ s1 = s) ∨ (v.p.epi = none ∧ v.p.epib = 0 ∧ e = epiDefault tyI ∧ s1 = s) ∨
    (v.p.epi = none ∧ v.p.epib ≠ 0 ∧ v.p.epib.toNat % 64 = 0 ∧ CoreReadable s v 0 [{ addr := v.p.epib, n := 64, al := 1 }] ∧
      s1 = coreAfter s v 0 [{ addr := v.p.epib, n := 64, al := 1 }] ∧
      e = BitVec.ofNat 512 (coreNum s1 v v.p.epib 64) ∧ epiOk e = true)

end Sys2Proof.Machine
end

