-- ==== Sys2Proof/Certificates/Slice0/Obligations.lean ====
section
/-!
DEFINITION. The statements about the machine, for the provers.
-/

open Sys2Proof Sys2Proof.Machine

/-- Issued by a slot with nothing wrong in its fields and operands, SMUL, SMULHS, SMULHZ, SAND, SOR, SXOR, SANDN,
SSHL, SSHRZ, SSHRS, SROT, SBFX, SBFI, SCLZ, SCTZ, SPOPC, SBREV, SMINS, SMINZ, SMAXS, SMAXZ, SSEL and SMOV complete:
the destination reads the value of R216 to R218 (owned lanes only in a mask word, nothing with NW or no active lane),
the result is pushed, the slot goes on, and no other register, wave, team or byte of memory changes (R207, R213, R216,
R217, R218, R40, R41, R43). -/
def Obligations.ScalarOperationsComplete : Prop :=
  Scal2 .smul (fun _ a b => a * b) ∧ Scal2 .smulhs (fun _ => mulHiS) ∧ Scal2 .smulhz (fun _ => mulHiZ) ∧
  Scal2 .sand (fun _ a b => a &&& b) ∧ Scal2 .sor (fun _ a b => a ||| b) ∧ Scal2 .sxor (fun _ a b => a ^^^ b) ∧
  Scal2 .sandn (fun _ a b => a &&& ~~~b) ∧ Scal2 .sshl (fun _ => shlWord) ∧ Scal2 .sshrz (fun _ => shrWordZ) ∧
  Scal2 .sshrs (fun _ => shrWordS) ∧ Scal2 .srot (fun _ => rotWord) ∧
  Scal3 .sbfx (fun f => bitExtract (decide (f.ty = 3))) ∧ Scal3 .sbfi (fun _ => bitInsert) ∧
  Scal1 .sclz leadingZeros ∧ Scal1 .sctz trailingZeros ∧ Scal1 .spopc popCount ∧ Scal1 .sbrev reverseBits ∧
  Scal2 .smins (fun _ a b => if a.toInt ≤ b.toInt then a else b) ∧
  Scal2 .sminz (fun _ a b => if a.toNat ≤ b.toNat then a else b) ∧
  Scal2 .smaxs (fun _ a b => if a.toInt ≤ b.toInt then b else a) ∧
  Scal2 .smaxz (fun _ a b => if a.toNat ≤ b.toNat then b else a) ∧
  Scal3 .ssel (fun _ a b c => if c ≠ 0 then a else b) ∧ Scal1 .smov (fun a => a)

/-- Issued with nothing wrong, SADD and SSUB write the wrapped or clamped sum and difference, SADDC and SSUBB the pair
of result and carry or borrow, SCMP 1 or 0 under the condition of R215, SMOVI its immediate, and SADD64, SSUB64,
SMUL64, SSHL64, SSHR64 the 64-bit values of R221, with the same frame as the other scalar operations (R207, R213,
R215, R216, R219, R220, R221). -/
def Obligations.ScalarWideOperationsComplete : Prop :=
  AluCompletes .sadd (fun _ => { scalForm2 with sat := true }) (fun f v => .s32 (narrowInt (decide (f.ty ≠ 7)) f.sat 32
    (toNum (decide (f.ty ≠ 7)) (readS32 v f.sa) + toNum (decide (f.ty ≠ 7)) (readS32 v f.sb)))) ∧
  AluCompletes .ssub (fun _ => { scalForm2 with sat := true }) (fun f v => .s32 (narrowInt (decide (f.ty ≠ 7)) f.sat 32
    (toNum (decide (f.ty ≠ 7)) (readS32 v f.sa) - toNum (decide (f.ty ≠ 7)) (readS32 v f.sb)))) ∧
  AluCompletes .saddc (fun _ => { scalForm3 with d := .scal 2 }) (fun f v =>
    let t := (readS32 v f.sa).toNat + (readS32 v f.sb).toNat + (readS32 v f.sc).toNat % 2
    .scal 2 (BitVec.ofNat 32 (t / 2 ^ 32) ++ BitVec.ofNat 32 t)) ∧
  AluCompletes .ssubb (fun _ => { scalForm3 with d := .scal 2 }) (fun f v =>
    let t : Int := (readS32 v f.sa).toNat - (readS32 v f.sb).toNat - ((readS32 v f.sc).toNat % 2 : Nat)
    .scal 2 ((if t < 0 then 1 else 0 : Word) ++ BitVec.ofInt 32 t)) ∧
  AluCompletes .scmp (fun _ => { scalForm2 with opb := intCondCauses }) (fun f v =>
    .s32 (if intCond (f.opb.toNat % 16) (readS32 v f.sa) (readS32 v f.sb) then 1 else 0)) ∧
  (∀ (f : FmtI) (s : State) (v : View), s.view = some v → smoviForm.aluCauses (immAsA f) v = [] →
    ∃ t, exec (.smovi f) s = .next t ∧ AluEffect (immAsA f) (.s32 f.imm) v s t) ∧
  Scal64 .sadd64 (fun a b => a + b) ∧ Scal64 .ssub64 (fun a b => a - b) ∧ Scal64 .smul64 (fun a b => a * b) ∧
  AluCompletes .sshl64 (fun _ => { scalForm64 with b := srcS32 }) (fun f v =>
    .scal 2 (readS64 v f.sa <<< (readS32 v f.sb).toNat)) ∧
  AluCompletes .sshr64 (fun _ => { scalForm64 with b := srcS32 }) (fun f v =>
    .scal 2 (if f.ty = 4 then (readS64 v f.sa).sshiftRight (readS32 v f.sb).toNat
      else readS64 v f.sa >>> (readS32 v f.sb).toNat))

/-- For all operands: a shift by a count of the width or more gives 0 or the sign, a rotation takes the count modulo
32, the high products are the upper halves of the exact products, SBFX and SBFI take and replace exactly the field
their controls name, SBREV reverses, and SPOPC, SCLZ and SCTZ count. A packed result holds the elements it was made
of, so carries never pass between them, and narrowing wraps without SAT and clamps to the range of the type with it
(R65, R214, R216, R217, R218, R223). -/
def Obligations.ScalarAndPackedValueFunctions : Prop :=
  (∀ (a b c : Word),
    (∀ i, i < 32 → (shlWord a b).getLsbD i = (decide (b.toNat ≤ i) && a.getLsbD (i - b.toNat))) ∧
    (∀ i, i < 32 → (shrWordZ a b).getLsbD i = a.getLsbD (i + b.toNat)) ∧
    (∀ i, i < 32 → (shrWordS a b).getLsbD i = if i + b.toNat < 32 then a.getLsbD (i + b.toNat) else a.getLsbD 31) ∧
    (∀ i, i < 32 → (rotWord a b).getLsbD ((i + b.toNat) % 32) = a.getLsbD i) ∧
    (mulHiS a b).toInt = a.toInt * b.toInt / 2 ^ 32 ∧ (mulHiZ a b).toNat = a.toNat * b.toNat / 2 ^ 32 ∧
    (∀ sg i, i < 32 → (bitExtract sg a b c).getLsbD i =
      if c = 0 ∨ 32 ≤ b.toNat then false
      else if i < min c.toNat (32 - b.toNat) then a.getLsbD (b.toNat + i)
      else sg && a.getLsbD (b.toNat + min c.toNat (32 - b.toNat) - 1)) ∧
    (∀ i, i < 32 → (bitInsert a b c).getLsbD i =
      if c.toNat % 32 ≤ i ∧ i < c.toNat % 32 + c.toNat / 256 % 64 then b.getLsbD (i - c.toNat % 32) else a.getLsbD i) ∧
    (∀ i, i < 32 → (reverseBits a).getLsbD i = a.getLsbD (31 - i)) ∧
    (popCount a).toNat = ((List.range 32).filter fun i => a.getLsbD i).length ∧
    (leadingZeros a).toNat ≤ 32 ∧ (∀ i, 32 - (leadingZeros a).toNat ≤ i → i < 32 → a.getLsbD i = false) ∧
    ((leadingZeros a).toNat < 32 → a.getLsbD (31 - (leadingZeros a).toNat) = true) ∧
    (trailingZeros a).toNat ≤ 32 ∧ (∀ i, i < (trailingZeros a).toNat → a.getLsbD i = false) ∧
    ((trailingZeros a).toNat < 32 → a.getLsbD (trailingZeros a).toNat = true)) ∧
  ((∀ w, w = 8 ∨ w = 16 ∨ w = 32 → ∀ (g : Nat → BitVec w) (i : Nat), i < 32 / w → elemOf w (packElems w g) i = g i) ∧
  (∀ (w : Nat) (x : Int), narrowInt true false w x = BitVec.ofInt w x ∧ narrowInt false false w x = BitVec.ofInt w x) ∧
  (∀ (w : Nat) (x : Int), 0 < w → (narrowInt true true w x).toInt = max (-(2 ^ (w - 1))) (min x (2 ^ (w - 1) - 1))) ∧
  (∀ (w : Nat) (x : Int), ((narrowInt false true w x).toNat : Int) = max 0 (min x (2 ^ w - 1))))

/-- Issued with nothing wrong, VMUL, VMULHS, VMULHZ, VMAD, VAND, VOR, VXOR, VANDN, VSHL, VSHRZ, VSHRS, VMOV, VBFX,
VBFI, VPOPC, VCLZ, VSEL and VADD64 complete: each active lane of the destination reads the value of that lane, every
other lane, register and byte is unchanged (R208, R213, R215, R217, R218, R222, R224, R225). -/
def Obligations.VectorIntegerOperationsComplete : Prop :=
  Vec2 .vmul (fun a b => a * b) ∧ Vec2 .vmulhs mulHiS ∧ Vec2 .vmulhz mulHiZ ∧ Vec3 .vmad (fun _ a b c => a * b + c) ∧
  Vec2 .vand (fun a b => a &&& b) ∧ Vec2 .vor (fun a b => a ||| b) ∧ Vec2 .vxor (fun a b => a ^^^ b) ∧
  Vec2 .vandn (fun a b => a &&& ~~~b) ∧ Vec2 .vshl shlWord ∧ Vec2 .vshrz shrWordZ ∧ Vec2 .vshrs shrWordS ∧
  Vec1 .vmov (fun a => a) ∧ Vec3 .vbfx (fun f => bitExtract (decide (f.ty = 3))) ∧ Vec3 .vbfi (fun _ => bitInsert) ∧
  Vec1 .vpopc popCount ∧ Vec1 .vclz leadingZeros ∧
  AluCompletes .vsel (fun _ => { vecForm2 with c := .pred }) (fun f v =>
    .v32 fun l => if (readPred v f.sc).getLsbD l then readV32 v 32 f.sa l else readV32 v 32 f.sb l) ∧
  AluCompletes .vadd64
    (fun _ => { vecForm2 with d := .vec 2, a := .vec (.int 32) 2, b := .vec (.int 32) 2, tys := tys64 })
    (fun f v => .vec 2 fun l => readVec v (.int 32) 2 f.sa l + readVec v (.int 32) 2 f.sb l)

/-- Issued with nothing wrong, VADD, VSUB, VABS, VMINS, VMINZ, VMAXS, VMAXZ and VQDOT complete: each element of an
active lane is the exact value of R222, R223 or R226, wrapped or clamped to its type, and nothing else changes (R208,
R213, R214, R222, R223, R226). -/
def Obligations.PackedOperationsComplete : Prop :=
  Packed .vadd (fun x y => x + y) ∧ Packed .vsub (fun x y => x - y) ∧
  PackedPick .vmins true false ∧ PackedPick .vminz false false ∧ PackedPick .vmaxs true true ∧
  PackedPick .vmaxz false true ∧
  AluCompletes .vabs
    (fun f => { vecForm2 with a := srcV (intCode f.ty.toNat).2, b := .none, tys := [0, 1, 2, 3], sat := true })
    (fun f v => .v32 fun l => packElems (intCode f.ty.toNat).2 fun e =>
      narrowInt true f.sat (intCode f.ty.toNat).2
        (max (elemOf (intCode f.ty.toNat).2 (readV32 v (intCode f.ty.toNat).2 f.sa l) e).toInt
          (-(elemOf (intCode f.ty.toNat).2 (readV32 v (intCode f.ty.toNat).2 f.sa l) e).toInt))) ∧
  AluCompletes .vqdot (fun _ => { vecForm2 with a := srcV 8, b := srcV 8, c := srcV 32, tys := [1, 5], sat := true })
    (fun f v => .v32 fun l =>
      let e (sel : BitVec 8) (i : Nat) := toNum (decide (f.ty = 1)) (elemOf 8 (readV32 v 8 sel l) i)
      narrowInt (decide (f.ty = 1)) f.sat 32 (toNum (decide (f.ty = 1)) (readV32 v 32 f.sc l) + e f.sa 0 * e f.sb 0 +
        e f.sa 1 * e f.sb 1 + e f.sa 2 * e f.sb 2 + e f.sa 3 * e f.sb 3))

/-- Issued with nothing wrong, KAND, KOR, KXOR, KNOT, KMOV, KMOV.FS and VCMP complete: the lanes of `active` of the
destination take the result, the others keep their bits, k0 keeps reading all ones, and nothing else changes (R38,
R208, R215, R224, R227). -/
def Obligations.PredicateOperationsComplete : Prop :=
  Pred2 .kand (fun a b => a &&& b) ∧ Pred2 .kor (fun a b => a ||| b) ∧ Pred2 .kxor (fun a b => a ^^^ b) ∧
  Pred1 .knot (fun a => ~~~a) ∧ Pred1 .kmov (fun a => a) ∧
  AluCompletes .kmovFs
    (fun _ => { predForm2 with a := .triple, b := .none, opb := fun x => if x = 1 then [] else [0x02] })
    (fun f v => .pred (readSReg v.w v.p (f.sa.toNat + 2) ++ readSReg v.w v.p (f.sa.toNat + 1) ++
      readSReg v.w v.p f.sa.toNat)) ∧
  AluCompletes .vcmp (fun _ => { vecForm2 with d := .pred, opb := intCondCauses }) (fun f v =>
    .pred (lanesWhere (v.active f.c) fun l =>
      intCond (f.opb.toNat % 16) (readV32 v 32 f.sa l) (readV32 v 32 f.sb l)))

/-- Issued with nothing wrong, the six arithmetic float operations complete: each element of an active lane is the
exact sum of products of R232 rounded once in the mode of RM (a VHFMA product that rounds to -0 beside an addend of +0
becomes +0), the conditions raised in active lanes are counted for the core and context, and nothing else changes. Where
it says more than these rules, it says the model’s choice in log entries 21 and 127 (R229, R230, R231, R232, R233, R208). -/
def Obligations.FloatArithmeticCompletes : Prop :=
  FloatLanes .vfadd (fun _ => floatForm2) (fun f v l => wordResult (fp32Sum f [] [readF32 v f.sa l, readF32 v f.sb l])) ∧
  FloatLanes .vfsub (fun _ => floatForm2)
    (fun f v l => wordResult (fp32Sum f [] [readF32 v f.sa l, (readF32 v f.sb l).negate])) ∧
  FloatLanes .vfmul (fun _ => floatForm2) (fun f v l => wordResult (fp32Sum f [(readF32 v f.sa l, readF32 v f.sb l)] [])) ∧
  FloatLanes .vfma (fun _ => { floatForm2 with c := srcF .f32 })
    (fun f v l => wordResult (fp32Sum f [(readF32 v f.sa l, readF32 v f.sb l)] [readF32 v f.sc l])) ∧
  FloatLanes .vhfma
    (fun f => { floatForm2 with
      a := srcF (halfCode f.ty.toNat), b := srcF (halfCode f.ty.toNat), c := srcF (halfCode f.ty.toNat), tys := [10, 11] })
    (fun f v l => packHalves fun e =>
      let x (sel : BitVec 8) := readHalf v (halfCode f.ty.toNat) sel l e
      plusZero (halfCode f.ty.toNat) (RMode.ofBits f.rm) (x f.sc)
        (froundSum (halfCode f.ty.toNat) (RMode.ofBits f.rm) f.sat
          ((x f.sa).isSnan || (x f.sb).isSnan || (x f.sc).isSnan) [fprod (x f.sa) (x f.sb)] [x f.sc])) ∧
  FloatLanes .vhdot
    (fun f => { floatForm2 with
      a := srcF (halfCode f.ty.toNat), b := srcF (halfCode f.ty.toNat), c := srcF .f32, tys := [10, 11] })
    (fun f v l =>
      let x (sel : BitVec 8) (e : Nat) := readHalf v (halfCode f.ty.toNat) sel l e
      wordResult (fp32Sum f [(x f.sa 0, x f.sb 0), (x f.sa 1, x f.sb 1)] [readF32 v f.sc l]))

/-- Issued with nothing wrong, VFCMP writes the lanes of a predicate, VFCLASS the class of each element, VFCVT and
VCVTI the conversion of each element between the two types their codes name, and VFRND each element rounded to an
integral value; conditions are counted and nothing else changes (R235, R236, R237, R238, R239, R208, R231). -/
def Obligations.FloatCompareAndConvertComplete : Prop :=
  FloatCompletes .vfcmp (fun _ => { floatForm2Exact with d := .pred, opb := floatCondCauses })
    (fun f v => .pred (lanesWhere (v.active f.c) fun l =>
      (floatCond (f.opb.toNat % 16) (readF v .f32 f.sa l).toNat (readF v .f32 f.sb l).toNat).1))
    (fun f v l => (floatCond (f.opb.toNat % 16) (readF v .f32 f.sa l).toNat (readF v .f32 f.sb l).toNat).2) ∧
  AluCompletes .vfclass
    (fun f => { floatForm2Exact with
      a := srcF ((floatCode f.ty.toNat).getD .f32), b := .none, tys := [0, 9, 10, 11] })
    (fun f v => .v32 fun l =>
      let t := (floatCode f.ty.toNat).getD .f32
      if t.width = 32 then BitVec.ofNat 32 (fclassBits t (readF v t f.sa l).toNat)
      else packElems 16 fun e => BitVec.ofNat 16 (fclassBits t (elemOf 16 (readF v t f.sa l) e).toNat)) ∧
  (∀ (ints : Bool) (f : FmtA) (a d : CvtTy) (s : State) (v : View), s.view = some v → cvtTypes ints f = some (a, d) →
    (cvtForm ints f).aluCauses f v = [] →
    let g (l : Nat) := cvtLane a d (RMode.ofBits f.rm) f.sat (cvtGroup f) ((readVec v a.opTy 1 f.sa l).truncate 32)
      (readV32 v 32 f.sc l)
    ∃ t, exec (if ints then .vcvti f else .vfcvt f) s = .next (t.countConds v.t (condsOver (v.active f.c) fun l => (g l).2)) ∧
      AluEffect f (.v32 fun l => (g l).1) v s t) ∧
  FloatLanes .vfrnd
    (fun f => { floatForm2 with
      a := srcF ((floatCode f.ty.toNat).getD .f32), b := .none, tys := [0, 9, 10, 11], sat := false })
    (fun f v l =>
      let t := (floatCode f.ty.toNat).getD .f32
      if t.width = 32 then wordResult (roundIntegral t (RMode.ofBits f.rm) (readF v t f.sa l).toNat)
      else packHalves fun e => roundIntegral t (RMode.ofBits f.rm) (elemOf 16 (readF v t f.sa l) e).toNat)

/-- VFMIN and VFMAX complete where nothing is wrong with their fields, and for all pairs of FP32 operands the result
is the lesser or greater number unchanged with -0 below +0, the number beside a NaN, the canonical NaN for two NaNs,
NV exactly for a signalling NaN, and it does not depend on the order of the operands (R234). -/
def Obligations.FloatMinimumAndMaximum : Prop :=
  (∀ up : Bool, FloatLanes (if up then .vfmax else .vfmin) (fun _ => floatForm2Exact)
    (fun f v l => wordResult (fminmax up (readF v .f32 f.sa l).toNat (readF v .f32 f.sb l).toNat))) ∧
  (∀ f, encode (.vfmin f) = some (writeFmtA 1 0x24 f) ∧ encode (.vfmax f) = some (writeFmtA 1 0x25 f)) ∧
  floatForm2Exact.tys = [0, 9] ∧ floatForm2Exact.rm = false ∧ floatForm2Exact.sat = false ∧
  ∀ (up : Bool) (a b : Word),
    let r := fminmax up a.toNat b.toNat
    let x := fread .f32 a.toNat
    let y := fread .f32 b.toNat
    r.1 = (fminmax up b.toNat a.toNat).1 ∧
    r.2 = { nv := x.isSnan || y.isSnan } ∧
    (x.isNan = true → y.isNan = true → r.1 = 0x7FC00000) ∧
    (x.isNan = true → y.isNan = false → r.1 = b.toNat) ∧
    (x.isNan = false → y.isNan = true → r.1 = a.toNat) ∧
    (x.isNan = false → y.isNan = false → r.1 = a.toNat ∨ r.1 = b.toNat) ∧
    (x.isNan = false → y.isNan = false → fcompare a.toNat b.toNat = .lt →
      r.1 = if up then b.toNat else a.toNat) ∧
    (a = 0x80000000 → b = 0 → r.1 = if up then 0 else 0x80000000)

/-- For every format, mode and operands: a sum with a NaN operand is the canonical NaN with NV exactly for a
signalling one, a product of zero and infinity and a sum of opposite infinities are the canonical NaN with NV, and the
class mask of any encoding has exactly one of ten bits. For every FP32 operand: a NaN gives the canonical NaN,
infinities and zeros give the exact results of all eight special functions with DZ for the poles, negative operands of
VRSQ, VSQRT and VLOG2 the canonical NaN with NV, and the further exact cases of R242 hold: powers of two of VRCP, VRSQ
and VLOG2, integers and both ends of VEXP2, integers and halves of VSIN and VCOS, and large VTANH operands. The counts of NV, DZ, OF, UF and NX of a core and context grow by one where the condition
was raised, stop at all ones, and every other count and every other piece of state stays. Where it says more than
these rules, it says the model’s choice in log entry 25 (R68, R230, R231, R232, R236, R242). -/
def Obligations.FloatSpecialCasesAndCounts : Prop :=
  ((∀ (t : FloatTy) (md : RMode) (sat : Bool) (x y : FVal), x.isNan = true ∨ y.isNan = true →
    froundSum t md sat (x.isSnan || y.isSnan) [] [x, y] = (t.nan, { nv := x.isSnan || y.isSnan })) ∧
  (∀ (t : FloatTy) (md : RMode) (sat n k : Bool) (y : FVal) (e : Int),
    froundSum t md sat y.isSnan [fprod (.inf n) (.fin k 0 e)] [y] = (t.nan, { nv := true })) ∧
  (∀ (t : FloatTy) (md : RMode) (sat n : Bool),
    froundSum t md sat false [] [.inf n, .inf !n] = (t.nan, { nv := true })) ∧
  FloatTy.f32.nan = 0x7FC00000 ∧ FloatTy.f16.nan = 0x7E00 ∧ FloatTy.bf16.nan = 0x7FC0 ∧
  (∀ (t : FloatTy) (bits : Nat), ∃ i, i < 10 ∧ fclassBits t bits = 2 ^ i)) ∧
  (∀ (x : Word) (n q : Bool),
    (fread .f32 x.toNat = .nan q → ∀ fn, specialFn fn x = (0x7FC00000, { nv := q })) ∧
    (fread .f32 x.toNat = .inf n →
      specialFn .rcp x = (FloatTy.f32.signed n 0, {}) ∧ specialFn .exp2 x = (if n then 0 else 0x7F800000, {}) ∧
      specialFn .tanh x = (FloatTy.f32.signed n 0x3F800000, {}) ∧ specialFn .sin x = (0x7FC00000, { nv := true }) ∧
      specialFn .cos x = (0x7FC00000, { nv := true }) ∧
      specialFn .rsq x = (if n then (0x7FC00000, { nv := true }) else (0, {})) ∧
      specialFn .sqrt x = (if n then (0x7FC00000, { nv := true }) else (0x7F800000, {})) ∧
      specialFn .log2 x = if n then (0x7FC00000, { nv := true }) else (0x7F800000, {})) ∧
    (∀ e, fread .f32 x.toNat = .fin n 0 e →
      specialFn .rcp x = (FloatTy.f32.signed n 0x7F800000, { dz := true }) ∧
      specialFn .rsq x = (FloatTy.f32.signed n 0x7F800000, { dz := true }) ∧
      specialFn .sqrt x = (FloatTy.f32.signed n 0, {}) ∧ specialFn .exp2 x = (0x3F800000, {}) ∧
      specialFn .log2 x = (0xFF800000, { dz := true }) ∧ specialFn .sin x = (FloatTy.f32.signed n 0, {}) ∧
      specialFn .cos x = (0x3F800000, {}) ∧ specialFn .tanh x = (FloatTy.f32.signed n 0, {})) ∧
    (∀ m e, fread .f32 x.toNat = .fin true (m + 1) e →
      specialFn .rsq x = (0x7FC00000, { nv := true }) ∧ specialFn .sqrt x = (0x7FC00000, { nv := true }) ∧
      specialFn .log2 x = (0x7FC00000, { nv := true })) ∧
    (∀ m e k, fread .f32 x.toNat = .fin n m e → m * 2 ^ e.toNat = k * 2 ^ (-e).toNat → 0 < k →
      specialFn .sin x = (FloatTy.f32.signed n 0, {}) ∧
      specialFn .cos x = (if k % 2 = 0 then 0x3F800000 else 0xBF800000, {})) ∧
    (∀ m e k, fread .f32 x.toNat = .fin n m e → 2 * m * 2 ^ e.toNat = (2 * k + 1) * 2 ^ (-e).toNat →
      specialFn .sin x = (if (k % 2 = 0) ↔ n = false then 0x3F800000 else 0xBF800000, {}) ∧
      specialFn .cos x = (0, {})) ∧
    (0x41120000 ≤ x.toNat % 2 ^ 31 → x.toNat % 2 ^ 31 < 0x7F800000 →
      specialFn .tanh x = (if x.msb then 0xBF800000 else 0x3F800000, { nx := true })) ∧
    (0x43000000 ≤ x.toNat → x.toNat < 0x7F800000 → specialFn .exp2 x = (0x7F800000, { ovf := true, nx := true })) ∧
    (0xC3160000 < x.toNat → x.toNat < 0xFF800000 → specialFn .exp2 x = (0, { unf := true, nx := true }))) ∧
  (∀ (n : Bool) (k : Nat),
    (1 ≤ k → k ≤ 253 → specialFn .rcp (BitVec.ofNat 32 (k * 2 ^ 23 + if n then 2 ^ 31 else 0)) =
      ((254 - k) * 2 ^ 23 + (if n then 2 ^ 31 else 0), {})) ∧
    (k < 22 → specialFn .rcp (BitVec.ofNat 32 (2 ^ k + if n then 2 ^ 31 else 0)) =
      (0x7F800000 + (if n then 2 ^ 31 else 0), { ovf := true, nx := true })) ∧
    (k ≤ 126 → specialFn .rsq (BitVec.ofNat 32 ((2 * k + 1) * 2 ^ 23)) = ((190 - k) * 2 ^ 23, {})) ∧
    (1 ≤ k → k ≤ 254 → specialFn .log2 (BitVec.ofNat 32 (k * 2 ^ 23)) =
      ((roundTo .f32 .rne false (decide (k < 127)) ((k : Int) - 127).natAbs 0).1, {})) ∧
    (1 ≤ k → k ≤ (if n then 149 else 127) →
      specialFn .exp2 (BitVec.ofNat 32 (roundTo .f32 .rne false n k 0).1) =
        (if n then (if k ≤ 126 then (127 - k) * 2 ^ 23 else 2 ^ (149 - k)) else (127 + k) * 2 ^ 23, {}))) ∧
  (∀ (s : State) (t : Team) (c : Conds) (core ctx i : Nat), i < 5 → ctx < 2 ^ 32 → t.ctx < 2 ^ 32 →
    cellGet (s.countConds t c).conds (condKey core ctx i) =
      (if core = t.core ∧ ctx = t.ctx ∧ [c.nv, c.dz, c.ovf, c.unf, c.nx].getD i false then
        (if cellGet s.conds (condKey core ctx i) = 0xFFFFFFFF then 0xFFFFFFFF else cellGet s.conds (condKey core ctx i) + 1)
      else cellGet s.conds (condKey core ctx i)) ∧
    s.countConds t c = { s with conds := (s.countConds t c).conds })

/-- Issued with nothing wrong and fewer than 64 results of its class outstanding, each special function completes: it
leaves a result pending in the lanes of `active`, whose value in each of them is that of R241 and R242 (inexact ones the
free choice of Config.sfPick inside the bound), counts its conditions, and goes on with nothing else changed. Where it says more than
these rules, it says the model’s choice in log entries 24 and 25 (R48, R49, R240, R241, R242). -/
def Obligations.SpecialFunctionsComplete : Prop :=
  SpecialCompletes .vrcp .rcp ∧ SpecialCompletes .vrsq .rsq ∧ SpecialCompletes .vsqrt .sqrt ∧
  SpecialCompletes .vexp2 .exp2 ∧ SpecialCompletes .vlog2 .log2 ∧ SpecialCompletes .vsin .sin ∧
  SpecialCompletes .vcos .cos ∧ SpecialCompletes .vtanh .tanh

/-- Issued with nothing wrong and fewer than 64 results of class xl outstanding, VSHFL, VSHFLX, VSHFLUP, VSHFLDN,
VREADL, VWRITEL, VBALLOT, VANY, VALL, VREDADD, VREDMIN, VREDMAX and VSCAN complete: each leaves pending exactly the
value of its rule, computed from the operands as they are at issue, and goes on with nothing else changed (R48, R49,
R243, R244, R245, R246, R247, R248, R249). -/
def Obligations.CrossLaneOperationsComplete : Prop :=
  ShuffleCompletes .vshfl srcShfl ∧ ShuffleCompletes .vshflx srcShflx ∧ ShuffleCompletes .vshflup srcShflup ∧
  ShuffleCompletes .vshfldn srcShfldn ∧
  LateCompletes .vreadl
    (fun f => { d := .scal (moveGroup f), a := .vec (.int 32) (moveGroup f), b := srcS32, c := .none, tys := tysMove
                rm := false, sat := false, opb := opbZero }) .xl
    (fun f v => Pend.scal .xl f.d (moveGroup f) (if v.active f.c = 0 then none else
      some ((if (readS32 v f.sb).toNat < 96 then readVec v (.int 32) (moveGroup f) f.sa (readS32 v f.sb).toNat
        else 0).zeroExtend 128))) (fun _ _ => {}) ∧
  LateCompletes .vwritel
    (fun f => { d := .vec (moveGroup f), a := .scal (.int 32) (moveGroup f), b := srcS32, c := .none, tys := tysMove
                rm := false, sat := false, opb := opbZero }) .xl
    (fun f v => Pend.vec .xl f.d (moveGroup f)
      (v.active f.c &&& (if (readS32 v f.sb).toNat < 96 then 1 <<< (readS32 v f.sb).toNat else 0))
      fun i _ => (readScal v (.int 32) (moveGroup f) f.sa).extractLsb' (32 * i) 32) (fun _ _ => {}) ∧
  LateCompletes .vballot (fun _ => { predForm2 with d := .scal 4, b := .none }) .xl
    (fun f v => Pend.scal .xl f.d 4
      (if v.active f.c = 0 then none else some (ballotQuad (readPred v f.sa &&& v.active f.c)))) (fun _ _ => {}) ∧
  LateCompletes .vany (fun _ => { predForm2 with b := .none }) .xl
    (fun f v => Pend.pred .xl f.d (v.active f.c)
      (if readPred v f.sa &&& v.active f.c ≠ 0 then BitVec.allOnes 96 else 0)) (fun _ _ => {}) ∧
  LateCompletes .vall (fun _ => { predForm2 with b := .none }) .xl
    (fun f v => Pend.pred .xl f.d (v.active f.c)
      (if ~~~(readPred v f.sa) &&& v.active f.c = 0 then BitVec.allOnes 96 else 0)) (fun _ _ => {}) ∧
  ReduceCompletes .vredadd true redAdd ∧ ReduceCompletes .vredmin false (fun f => redMinMax f false) ∧
  ReduceCompletes .vredmax false (fun f => redMinMax f true) ∧
  LateCompletes .vscan
    (fun f => { redFormOf (decide (f.opb.toNat % 4 = 0)) f with d := .vec 1, opb := opbScan }) .xl
    (fun f v => Pend.vec .xl f.d 1 (v.active f.c) fun _ l => cellGet (scanRun f (v.active f.c) (readRed v f)).out l)
    (fun f v => (scanRun f (v.active f.c) (readRed v f)).cs)

/-- For every lane and index the source lane of a shuffle lies in the lane's own group: VSHFL takes the lane of the group
the index names, VSHFLX the one the index changes the lane into (with width 96 the lane itself where there is none),
VSHFLUP and VSHFLDN move by the index and keep the lane's own data at the ends of the group. For every set of active lanes and every data, each
active lane of an inclusive wrapping .add scan of integers reads the sum over the active lanes not above it, and
VREDADD the sum over all of them (R244, R245, R247, R249). -/
def Obligations.ShufflesAndScans : Prop :=
  ((∀ (w l i : Nat), w = 8 ∨ w = 16 ∨ w = 32 → l < 96 →
    ∀ src ∈ [srcShfl, srcShflx, srcShflup, srcShfldn], (src w (l - l % w) l i) / w = l / w) ∧
  (∀ (w l i : Nat), w = 8 ∨ w = 16 ∨ w = 32 ∨ w = 96 → l < 96 →
    ∀ src ∈ [srcShfl, srcShflx, srcShflup, srcShfldn], src w (l - l % w) l i < 96) ∧
  (∀ (w l i : Nat), w = 8 ∨ w = 16 ∨ w = 32 ∨ w = 96 → l < 96 →
    srcShflup w (l - l % w) l i = (if i ≤ l % w then l - i else l) ∧
    srcShfldn w (l - l % w) l i = if l % w + i < w then l + i else l) ∧
  (∀ (w l i : Nat), w = 8 ∨ w = 16 ∨ w = 32 → l < 96 →
    srcShfl w (l - l % w) l i = l - l % w + i % w ∧
    srcShflx w (l - l % w) l i = l - l % w + ((l % w) ^^^ (i % w))) ∧
  (∀ (l i : Nat), l < 96 →
    srcShfl 96 0 l i = (if i < 96 then i else l) ∧
    srcShflx 96 0 l i = if l ^^^ (i % 128) < 96 then l ^^^ (i % 128) else l)) ∧
  (∀ (f : FmtA) (act : Lanes) (x : Nat → Word), f.ty ≠ 9 → f.sat = false → f.opb = 0 →
    (∀ l, l < 96 → act.getLsbD l = true → cellGet (scanRun f act x).out l =
      BitVec.ofInt 32 (((lanesList act).filter fun k => k ≤ l).foldl (fun t k => t + toNum (redSigned f) (x k)) 0)) ∧
    (act ≠ 0 → redAdd f act x = some ((BitVec.ofInt 32
      ((lanesList act).foldl (fun t k => t + toNum (redSigned f) (x k)) 0)).toNat, {})))

/-- With no result outstanding, registers below 64 in D, SA and SB and SC zero, the scalar and vector two-source forms
are legal for TY 0, .s32 and .z32 with RM, SAT and OPB zero and illegal with cause 0x04 or 0x02 where one of these
differs; the FP32 form is legal for every RM and SAT. For groups of registers that exist: a source with a pending
register is a pending-register read, a vector destination that is pending a pending-register write for an untracked
operation, and legal for a tracked one when every outstanding result is of its class. Where it says more than these
rules, it says the model’s choice in log entries 18, 19 and 22 (R28, R36, R38, R49, R50, R51, R56, R212, R228). -/
def Obligations.LegalFormsAndPendingRegisters : Prop :=
  (∀ (f : FmtA) (v : View), v.p.pend = [] → f.c.nw = false → f.d.toNat < 64 → f.sa.toNat < 64 → f.sb.toNat < 64 → f.sc = 0 →
    (f.rm = 0 → f.sat = false → f.opb = 0 →
      (f.ty.toNat ∈ [0, 3, 7] → scalForm2.aluCauses f v = [] ∧ vecForm2.aluCauses f v = [] ∧
        (f.sb = 0 → scalForm1.aluCauses f v = [])) ∧
      (f.ty.toNat ∉ [0, 3, 7] → scalForm2.aluCauses f v = [0x04] ∧ vecForm2.aluCauses f v = [0x04])) ∧
    (f.ty = 0 ∨ f.ty = 9 → f.opb = 0 → floatForm2.aluCauses f v = []) ∧
    (f.ty = 0 → f.rm ≠ 0 → f.sat = false → f.opb = 0 → scalForm2.aluCauses f v = [0x04]) ∧
    (f.ty = 0 → f.rm = 0 → f.sat = true → f.opb = 0 → scalForm2.aluCauses f v = [0x04]) ∧
    (f.ty = 0 → f.rm = 0 → f.sat = false → f.opb ≠ 0 → scalForm2.aluCauses f v = [0x02])) ∧
  (∀ (v : View) (sel : BitVec 8) (g : Nat) (alu : Bool), sel.toNat < 64 → 0 < g → sel.toNat % g = 0 → sel.toNat + g ≤ 64 →
    ((∃ i, i < g ∧ v.p.pending (.s (sel.toNat + i)) = true) → srcCauses v alu (.scal (.int 32) g) sel = [0x06]) ∧
    ((∀ i, i < g → v.p.pending (.s (sel.toNat + i)) = false) → srcCauses v alu (.scal (.int 32) g) sel = []) ∧
    ((∃ i, i < g ∧ v.p.pending (.v (sel.toNat + i)) = true) → srcCauses v alu (.vec (.int 32) g) sel = [0x06]) ∧
    ((∃ i, i < g ∧ v.p.pending (.v (sel.toNat + i)) = true) → dstCauses v none (.vec g) sel = [0x07]) ∧
    (∀ c, (∀ q ∈ v.p.pend, q.cls = c) → dstCauses v (some c) (.vec g) sel = []) ∧
    (∀ r, v.p.pend = [] → v.p.pending r = false))

/-- For every slot: selectors below 0x40 read the register (pairs lower register first), 0x40 to 0x7F broadcast a
scalar, 0x84 to 0x87, 0x8E and 0x8F deliver zero, lane, wave, ones, team and stage, and 0xC0 to 0xFF the sign-extended
immediate, in every element of a packed operand. Where it says more than these rules, it says the model’s choice in
log entries 21 and 23 (R36, R37, R207, R214). -/
def Obligations.OperandSelectorsDeliverTheirValues : Prop :=
  ∀ (v : View) (sel : BitVec 8) (l : Nat), l < 96 →
    (sel.toNat < 0x40 → readS32 v sel = readSReg v.w v.p sel.toNat ∧ readV32 v 32 sel l = laneGet v.w.v sel.toNat l ∧
      readS64 v sel = readSReg v.w v.p (sel.toNat + 1) ++ readSReg v.w v.p sel.toNat) ∧
    (0x40 ≤ sel.toNat → sel.toNat < 0x80 → readV32 v 32 sel l = readSReg v.w v.p (sel.toNat - 0x40)) ∧
    (sel = 0x84 → readS32 v sel = 0 ∧ readS64 v sel = 0 ∧ readV32 v 32 sel l = 0) ∧
    (sel = 0x85 → readV32 v 32 sel l = BitVec.ofNat 32 l) ∧
    (sel = 0x86 → readS32 v sel = BitVec.ofNat 32 v.sl.wave ∧ readV32 v 32 sel l = BitVec.ofNat 32 v.sl.wave) ∧
    (sel = 0x87 → readS32 v sel = 0xFFFFFFFF ∧ readS64 v sel = 0xFFFFFFFFFFFFFFFF ∧ readV32 v 32 sel l = 0xFFFFFFFF) ∧
    (sel = 0x8E → readS32 v sel = BitVec.ofNat 32 v.t.num) ∧ (sel = 0x8F → readS32 v sel = BitVec.ofNat 32 v.t.stage) ∧
    (0xC0 ≤ sel.toNat →
      readS32 v sel = (sel.extractLsb' 0 6).signExtend 32 ∧ readS64 v sel = (sel.extractLsb' 0 6).signExtend 64 ∧
      readV32 v 32 sel l = (sel.extractLsb' 0 6).signExtend 32 ∧
      ∀ i, i < 4 → elemOf 8 (readV32 v 8 sel l) i = (sel.extractLsb' 0 6).signExtend 8)

/-- Reading s60 to s62 reads the mask; SMOVI to one of them takes effect when the guard selects an owned lane, even
with an empty mask, and leaves the written bits of owned lanes; a pair write to s60 covers 64 lanes and one to s62
writes s63 as an ordinary register; a long-latency operation that names one is illegal. Where it says more than these
rules, it says the model’s choice in log entry 23 (R207, R38). -/
def Obligations.MaskWordsKeepOwnedLanes : Prop :=
  (∀ (w : Wave) (p : Slot) (i : Nat), i < 3 → readSReg w p (60 + i) = p.mask.extractLsb' (32 * i) 32) ∧
  (∀ (f : FmtI) (s : State) (v : View), s.view = some v → smoviForm.aluCauses (immAsA f) v = [] → f.c.nw = false →
    60 ≤ f.d.toNat → f.d.toNat ≤ 62 → ∃ t u, exec (.smovi f) s = .next t ∧ t.find v.sl = some u ∧
      (∀ l, l < 96 → u.p.mask.getLsbD l =
        if v.p.owned &&& guardLanes v.w f.c ≠ 0 ∧ l / 32 = f.d.toNat - 60 then
          f.imm.getLsbD (l % 32) && v.p.owned.getLsbD l else v.p.mask.getLsbD l) ∧
      u.p.owned = v.p.owned ∧ (u.active f.c = u.p.mask &&& guardLanes u.w f.c)) ∧
  (∀ (w : Wave) (p : Slot) (x : Dword), ∀ n, n = 60 ∨ n = 62 →
    (writeScal (w.setSlot false p) false 2 (BitVec.ofNat 8 n) (x.zeroExtend 128)).slot false =
      { p with
        mask := if n = 60 then
            setMaskWord (setMaskWord p.mask 0 (x.extractLsb' 0 32 &&& maskWord p.owned 0)) 1
              (x.extractLsb' 32 32 &&& maskWord p.owned 1)
          else setMaskWord p.mask 2 (x.extractLsb' 0 32 &&& maskWord p.owned 2)
        bank := if n = 60 then p.bank else cellSet p.bank 63 (x.extractLsb' 32 32) }) ∧
  (∀ (v : View) (d : BitVec 8) (g : Nat) (c : ResClass), 60 ≤ d.toNat → d.toNat ≤ 62 → 0 < g →
    0x03 ∈ dstCauses v (some c) (.scal g) d)

/-- Issuing a word whose opcode R53 does not list kills the wave: status killed, neither slot live, its registers,
memory, pending writes, copies and segments untouched, its parked waits gone, the other waves and teams unchanged,
%err written by the first kill of the context and marked MK by a later one, with the address of the operation (inside a
REP the repeated word, inside an expansion the guest instruction and the word's index), and a kill record handed to the
fault unit; of two kills of one cycle the one at the lower place is recorded. Where it says more than these rules, it
says the model’s choice in log entries 49 and 140 (R54, R56, R57, R58, R393). -/
def Obligations.UnassignedOpcodesKillTheWave : Prop :=
  ∀ (s : State) (v : View) (word : Dword) (c : Context), s.view = some v → s.ctx? v.t.ctx = some c →
    v.t.core < 768 → v.w.place < 16 →
    (∀ x, v.p.exp = some x → x.words.length ≤ 8 ∧ x.idx + (if v.p.rep.isSome then 1 else 0) < x.words.length) →
    let own := (v.t.core * 16 + v.w.place) * 2 + v.sl.b.toNat
    ∃ t tm w c', exec (.unassignedOpcode word) s = .next t ∧
      t.team? v.sl.team = some tm ∧ tm.waves[v.sl.wave]? = some w ∧ w.status = .killed ∧ w.a.live = false ∧
      w.b.live = false ∧ w.v = v.w.v ∧ w.s = v.w.s ∧ w.k = v.w.k ∧ tm = { v.t with waves := tm.waves } ∧
      (∀ i, i ≠ v.sl.wave → tm.waves[i]? = v.t.waves[i]?) ∧ (∀ id, id ≠ v.sl.team → t.team? id = s.team? id) ∧
      t.mem = s.mem ∧ t.writes = s.writes ∧ t.cmds = s.cmds ∧ t.segs = s.segs ∧
      t.waiters = s.waiters.filter (fun x => !(decide (x.sl.team = v.sl.team) && decide (x.sl.wave = v.sl.wave))) ∧
      t.ctx? v.t.ctx = some c' ∧ c' = { c with err := c'.err, errNow := c'.errNow } ∧
      (c.errNow.cycle ≠ s.cycle ∨ c.errNow.kills = [] →
        (c.err.getLsbD 63 = true → c'.err = c.err ||| 1 <<< 62) ∧
        (c.err.getLsbD 63 = false →
          c'.err.extractLsb' 64 64 = (if v.p.rep.isSome ∧ v.p.exp = none then v.p.pc + 8 else v.p.pc) ∧
          c'.err.getLsbD 63 = true ∧ c'.err.extractLsb' 56 6 = 0x01 ∧ (c'.err.extractLsb' 46 10).toNat = v.t.core ∧
          (c'.err.extractLsb' 42 4).toNat = v.w.place ∧ c'.err.getLsbD 41 = v.sl.b ∧
          c'.err.getLsbD 40 = v.p.exp.isSome ∧
          (c'.err.extractLsb' 37 3).toNat =
            (v.p.exp.map fun x => x.idx + if v.p.rep.isSome then 1 else 0).getD 0 ∧
          c'.err.getLsbD 62 = c.err.getLsbD 62) ∧
        c'.errNow.cycle = s.cycle ∧ c'.errNow.base = c.err ∧ ∃ w0, c'.errNow.kills = [(own, s.nextRec, w0)]) ∧
      (c.errNow.cycle = s.cycle → ∀ p id w0, c.errNow.kills = [(p, id, w0)] → c.errNow.base.getLsbD 63 = false →
        w0.getLsbD 63 = true →
        (p ≤ own → c'.err = w0 ||| 1 <<< 62) ∧
        (own < p → (c'.err.extractLsb' 46 10).toNat = v.t.core ∧ (c'.err.extractLsb' 42 4).toNat = v.w.place ∧
          c'.err.getLsbD 41 = v.sl.b ∧ c'.err.getLsbD 63 = true ∧ c'.err.getLsbD 62 = true)) ∧
      (c.ended = false → ∃ r, t.recs = (s.recs ++ [r]).map (FRec.withErr c'.errNow) ∧ r.cls = .kill ∧ r.cause = 0x01 ∧
        r.pc = v.p.pc ∧ r.ctx = v.t.ctx ∧ r.core = v.t.core ∧ r.id = s.nextRec ∧ r.exp = v.p.exp.isSome) ∧
      (∀ x : FRec, x.cls ≠ .kill ∨ (∀ k ∈ c'.errNow.kills, k.2.1 ≠ x.id) → FRec.withErr c'.errNow x = x)

/-- Every ALU-class operation, special function and cross-lane operation, and NOP, YIELD, PPT, BR, BRC, CALL, RET, JMPI,
BRDIV, JOIN, EXIT, WAITC, BRK, TRAP, SRD, SWR and GROW with something wrong end in the kill of their wave alone, for the
lowest of the causes met, with no effect of their own; every cause an ALU-class operation can meet is one of the table of
R56. Where it says more than these rules, it says the model’s choice in log entries 22, 62, 108, 113 and 153
(R56, R57). -/
def Obligations.IllegalOperationsAreKilledForTheLeastCause : Prop :=
  (∀ x ∈ aluForms, ∀ f, KilledForLeast (x.1 f) fun _ => (x.2 f).aluCauses f) ∧
  (∀ x ∈ lateForms, ∀ f, KilledForLeast (x.1 f) fun _ => (x.2.2 f).lateCauses x.2.1 f) ∧
  (∀ f, KilledForLeast (.smovi f) fun _ => smoviForm.aluCauses (immAsA f)) ∧
  (∀ f, KilledForLeast (.nop f) (fun _ v => controlCauses f.c v ++ allZeroCauses f) ∧
    KilledForLeast (.yield f) (fun _ v => controlCauses f.c v ++ allZeroCauses f) ∧
    KilledForLeast (.exit f) (fun _ v => controlCauses f.c v ++ allZeroCauses f) ∧
    KilledForLeast (.ppt f) (fun _ _ => bareCauses f.c ++ allZeroCauses f) ∧
    KilledForLeast (.join f) (fun _ _ => bareCauses f.c ++ allZeroCauses f) ∧
    (∀ i, i = Instr.ret f ∨ i = Instr.jmpi f → KilledForLeast i fun _ v =>
      controlCauses f.c v ++ fieldZero f.d ++ srcCauses v false (.sreg 2) f.sa ++ fieldZero f.sb ++ fieldZero f.sc ++
        fieldZero f.m) ∧
    KilledForLeast (.srd f) (fun _ => srdCauses f) ∧ KilledForLeast (.swr f) (swrCauses f) ∧
    KilledForLeast (.grow f) fun _ => growCauses f) ∧
  (∀ f, KilledForLeast (.br f) (fun _ v => controlCauses f.c v ++ fieldZero f.d ++ fieldZero f.sa) ∧
    KilledForLeast (.brc f) (fun _ v => controlCauses f.c v ++ fieldZero f.d ++ srcCauses v false (.sreg 1) f.sa) ∧
    KilledForLeast (.call f) (fun _ v => controlCauses f.c v ++ dstCauses v none (.scal 2) f.d ++ fieldZero f.sa) ∧
    KilledForLeast (.brdiv f) fun _ => brdivCauses f) ∧
  (∀ f, KilledForLeast (.brk f) (fun _ v => controlCauses f.c v ++ fieldZero f.d ++ fieldZero f.sa) ∧
    KilledForLeast (.trap f) (fun _ v => controlCauses f.c v ++ fieldZero f.d ++ fieldZero f.sa) ∧
    KilledForLeast (.waitc f) fun _ _ => bareCauses f.c ++ fieldZero f.d ++ fieldZero f.sa ++
      fieldZero (f.imm.extractLsb' 8 24) ++ if f.imm.toNat / 64 % 4 = 3 then [0x04] else []) ∧
  (∀ (s : State) (v : View) (c : Nat), (s.killWave v c).mem = s.mem ∧
    (∀ w ∈ (((s.killWave v c).team? v.sl.team).map fun t => t.waves[v.sl.wave]?).join, w.status = .killed) ∧
    (∀ id, id ≠ v.sl.team → (s.killWave v c).team? id = s.team? id)) ∧
  (∀ (f : FmtA) (m : AluForm) (v : View), (∀ x ∈ m.opb f.opb.toNat, x ∈ [0x02, 0x04]) →
    ∀ c ∈ m.aluCauses f v, c ∈ [0x01, 0x02, 0x03, 0x04, 0x05, 0x06, 0x07, 0x08, 0x0A, 0x0B])

/-- A class of tracked results never exceeds 64: the 65th operation waits at issue without effect; issuing counts one
and marks every register of the destination, and results of a class are written oldest first. Where a slot has a
result of a class outstanding, the event writes the oldest one: vector results in the lanes that were active at issue,
scalar groups lowest register first (of a shared scalar, unless a write of the other slot that issued later has been
made), predicates in active lanes, k0 never; the mark is cleared, and no other register, slot, wave, team or byte
changes. Where it says more than these rules, it says the model’s choice in log entries 18,
20 and 142 (R48, R49, R183, R208). -/
def Obligations.TrackedResultsWaitAndAreWritten : Prop :=
  ((∀ (f : FmtA) (s : State) (v : View), s.view = some v → sfForm.lateCauses .sf f v = [] → 64 ≤ v.p.count .sf →
    exec (.vrcp f) s = .next (s.putSlot v { v.p with stalled := true })) ∧
  (∀ (f : FmtA) (s : State) (v : View), s.view = some v → (shuffleForm f).lateCauses .xl f v = [] → 64 ≤ v.p.count .xl →
    exec (.vshfl f) s = .next (s.putSlot v { v.p with stalled := true })) ∧
  (∀ (p : Slot) (q : Pend) (c : ResClass), (p.addPend q).count c = p.count c + if q.cls = c then 1 else 0) ∧
  (∀ (c : ResClass) (l rest : List Pend) (q : Pend), takePend c l = some (q, rest) →
    q.cls = c ∧ (∃ a b, l = a ++ q :: b ∧ rest = a ++ b ∧ ∀ x ∈ a, x.cls ≠ c) ∧
    (rest.filter fun x => x.cls = c).length + 1 = (l.filter fun x => x.cls = c).length) ∧
  (∀ (s : State) (sl : SlotId) (v : View) (q : Pend) (rest : List Pend), s.find sl = some v →
    takePend q.cls v.p.pend = some (q, rest) →
    ∃ t u, exec (.trackedResultWrite sl q.cls) s = .next t ∧ t.find sl = some u ∧ u.p.pend = rest) ∧
  (∀ (c : ResClass) (d : BitVec 8) (g : Nat) (act m : Lanes) (val : Nat → Nat → Word) (x : Option (BitVec 128)) (i : Nat),
    d.toNat < 64 → i < g → (Pend.vec c d g act val).marks (.v (d.toNat + i)) = true ∧
      (Pend.scal c d g x).marks (.s (d.toNat + i)) = true ∧ (d ≠ 0 → (Pend.pred c d act m).marks (.k d.toNat) = true))) ∧
  (∀ (s : State) (sl : SlotId) (v : View) (q : Pend) (pre rest : List Pend), s.find sl = some v →
    v.p.pend = pre ++ q :: rest → (∀ x ∈ pre, x.cls ≠ q.cls) →
    ∃ t u, exec (.trackedResultWrite sl q.cls) s = .next t ∧ OnlyWave sl s t ∧ t.find sl = some u ∧
      u.p.pend = pre ++ rest ∧ u.p.pc = v.p.pc ∧ u.p.owned = v.p.owned ∧ u.w.slot (!sl.b) = v.w.slot (!sl.b) ∧
      u.w.stack = v.w.stack ∧
      (∀ (c : ResClass) (d : BitVec 8) (g k : Nat) (act m : Lanes) (val : Nat → Nat → Word), d.toNat + g ≤ 64 →
        q = { Pend.vec c d g act val with mLanes := m, at_ := k } →
        (∀ n l, n < 64 → l < 96 → laneGet u.w.v n l =
          if d.toNat ≤ n ∧ n < d.toNat + g ∧ act.getLsbD l = true then val (n - d.toNat) l else laneGet v.w.v n l) ∧
        (∀ n, n < 64 → readSReg u.w u.p n = readSReg v.w v.p n) ∧ u.w.k = v.w.k) ∧
      (∀ (c : ResClass) (d : BitVec 8) (g k : Nat) (m : Lanes) (x : BitVec 128), d.toNat + g ≤ 60 → 0 < g →
        q = { Pend.scal c d g (some x) with mLanes := m, at_ := k } →
        (∀ n, n < 64 → readSReg u.w u.p n =
          if d.toNat ≤ n ∧ n < d.toNat + g ∧ (n < 32 → v.w.lastAt n < k) then x.extractLsb' (32 * (n - d.toNat)) 32
          else readSReg v.w v.p n) ∧
        (∀ n l, n < 64 → l < 96 → laneGet u.w.v n l = laneGet v.w.v n l) ∧ u.w.k = v.w.k) ∧
      (∀ (c : ResClass) (d : BitVec 8) (k : Nat) (act x m : Lanes), d.toNat < 8 →
        q = { Pend.pred c d act x with mLanes := m, at_ := k } →
        (∀ n, n < 8 → readKReg u.w n =
          if n = d.toNat ∧ n ≠ 0 then (readKReg v.w n &&& ~~~act) ||| (x &&& act) else readKReg v.w n) ∧
        (∀ n, n < 64 → readSReg u.w u.p n = readSReg v.w v.p n))) ∧
  (∀ (w : Wave) (b : Bool) (n : Nat) (x : Word) (q : Pend), n < 32 → q ∈ (w.slot (!b)).pend → n ∈ q.sMarks →
    q.at_ < (writeSReg w b n x).lastAt n)

/-- Outside a REP and an expansion the PC advances by 8; inside a REP the instance advances, and the last one goes on
past both words; inside an expansion the next word follows, and after the last the PC passes the guest instruction and
the temporaries are gone. REP with nothing wrong sets up its instances and waits when its word is not in the cache;
instance j has every field moved by j strides, its other bits unchanged and CH set but for the last; after the 128th
operation of a chain CHAIN_HOLD_LIMIT ends it and no latch is valid. Where it says more than these rules, it says the
model’s choice in log entry 50 (R26, R42, R45, R46, R338, R369, R370). -/
def Obligations.RetiringAndRepeating : Prop :=
  (∀ (p : Slot),
    (p.rep = none → p.exp = none → p.retire = { p with pc := p.pc + 8 }) ∧
    (∀ r, p.rep = some r → r.j + 1 < r.n → p.retire = { p with rep := some { r with j := r.j + 1 } }) ∧
    (∀ r, p.rep = some r → r.n ≤ r.j + 1 → p.exp = none → p.retire = { p with rep := none, pc := p.pc + 16 }) ∧
    (∀ x, p.rep = none → p.exp = some x → x.idx + 1 < x.words.length →
      p.retire = { p with exp := some { x with idx := x.idx + 1 } }) ∧
    (∀ x, p.rep = none → p.exp = some x → x.words.length ≤ x.idx + 1 →
      p.retire.pc = p.pc + BitVec.ofNat 64 x.len ∧ p.retire.exp = none ∧ p.retire.bank = p.bank ∧
        p.retire.chainOpen = false ∧ ∀ q ∈ p.retire.pend, q.eMarks = [] ∧ q.xMarks = [])) ∧
  ((∀ (f : FmtP) (s : State) (v : View) (w : Dword), s.view = some v → repeatedWord s v = some w → repCauses f w = [] →
    exec (.rep f) s = .next (s.putSlot v { v.p with
      rep := some { j := 0, n := f.n1.toNat + 1, word := w, sd := f.sd, sa := f.sa, sb := f.sb, sc := f.sc } })) ∧
  (∀ (f : FmtP) (s : State) (v : View), s.view = some v → repeatedWord s v = none →
    exec (.rep f) s = .next (s.putSlot v { v.p with stalled := true })) ∧
  (∀ r : RepRun, r.j < r.n → r.n ≤ 64 →
    (∀ lo st, (lo, st) ∈ [(40, r.sd), (32, r.sa), (24, r.sb), (16, r.sc)] →
      r.instance_.extractLsb' lo 8 = r.word.extractLsb' lo 8 + BitVec.ofInt 8 ((r.j : Int) * st.toInt)) ∧
    r.instance_.extractLsb' 0 16 = r.word.extractLsb' 0 16 ∧ r.instance_.extractLsb' 54 10 = r.word.extractLsb' 54 10 ∧
    r.instance_.extractLsb' 48 5 = r.word.extractLsb' 48 5 ∧
    r.instance_.getLsbD 53 = (decide (r.j + 1 < r.n) || r.word.getLsbD 53)) ∧
  (∀ (s : State) (v : View) (sl : SlotId), s.find sl = some v →
    (v.p.chainOpen = true → 128 ≤ v.p.chainLen → exec (.chainHoldLimit sl) s = .next (s.putSlot v v.p.endChain)) ∧
    v.p.endChain.chainOpen = false ∧ (∀ n, v.p.endChain.latch n = none) ∧
    (128 ≤ v.p.chainLen → ∀ n, v.p.latch n = none)))

/-- With nothing wrong, BR and BRC (if the scalar is not zero) continue at PC plus 8 times the displacement, RET and
JMPI at the pair with its low three bits clear (guest boundaries inside an expansion), CALL there too after writing
the address of the next operation to its pair; without an active lane each goes on at the next operation; no other
register, wave or byte changes (R35, R339, R340, R368). -/
def Obligations.BranchesComplete : Prop :=
  (∀ (f : FmtB) (s : State) (v : View), s.view = some v →
    controlCauses f.c v ++ fieldZero f.d ++ fieldZero f.sa = [] →
    ∃ t u, exec (.br f) s = .next t ∧ OnlyWave v.sl s t ∧ t.find v.sl = some u ∧ OnlySlot v u ∧
      u.p.bank = v.p.bank ∧ u.p.mask = v.p.mask ∧ u.p.chainOpen = false ∧
      u.p.pc = if v.active f.c = 0 then v.p.retire.pc else v.p.branchTarget f.disp) ∧
  (∀ (f : FmtB) (s : State) (v : View), s.view = some v →
    controlCauses f.c v ++ fieldZero f.d ++ srcCauses v false (.sreg 1) f.sa = [] →
    ∃ t u, exec (.brc f) s = .next t ∧ OnlyWave v.sl s t ∧ t.find v.sl = some u ∧ OnlySlot v u ∧
      u.p.bank = v.p.bank ∧ u.p.mask = v.p.mask ∧ u.p.chainOpen = false ∧
      u.p.pc = if v.active f.c = 0 ∨ readS32 v f.sa = 0 then v.p.retire.pc else v.p.branchTarget f.disp) ∧
  (∀ (f : FmtW) (s : State) (v : View), s.view = some v →
    controlCauses f.c v ++ fieldZero f.d ++ srcCauses v false (.sreg 2) f.sa ++ fieldZero f.sb ++ fieldZero f.sc ++
      fieldZero f.m = [] →
    ∀ i, i = Instr.ret f ∨ i = Instr.jmpi f →
    ∃ t u, exec i s = .next t ∧ OnlyWave v.sl s t ∧ t.find v.sl = some u ∧ OnlySlot v u ∧
      u.p.bank = v.p.bank ∧ u.p.mask = v.p.mask ∧ u.p.chainOpen = false ∧
      u.p.pc = if v.active f.c = 0 then v.p.retire.pc else v.p.indirect (readS64 v f.sa)) ∧
  (∀ (f : FmtB) (s : State) (v : View), s.view = some v → v.p.exp = none →
    controlCauses f.c v ++ dstCauses v none (.scal 2) f.d ++ fieldZero f.sa = [] →
    ∃ t u, exec (.call f) s = .next t ∧ OnlyWave v.sl s t ∧ t.find v.sl = some u ∧
      u.w.v = v.w.v ∧ u.w.k = v.w.k ∧ u.w.stack = v.w.stack ∧ u.w.slot (!v.sl.b) = v.w.slot (!v.sl.b) ∧
      (v.activeTo f.c f.d = 0 → u.p.pc = v.p.retire.pc ∧ ∀ n, n < 64 → readSReg u.w u.p n = readSReg v.w v.p n) ∧
      (v.activeTo f.c f.d ≠ 0 → u.p.pc = v.p.pc + f.disp.signExtend 64 * 8 ∧
        ∀ n, n < 64 → readSReg u.w u.p n =
          if n = f.d.toNat then ownedCut v.p n ((v.p.pc + 8).extractLsb' 0 32)
          else if n = f.d.toNat + 1 then ownedCut v.p n ((v.p.pc + 8).extractLsb' 32 32) else readSReg v.w v.p n)) ∧
  (∀ (p : Slot) (d : BitVec 32) (x : Dword),
    (p.exp = none → p.branchTarget d = p.pc + d.signExtend 64 * 8 ∧ p.indirect x = x &&& ~~~7) ∧
    (p.exp.isSome = true → p.branchTarget d = (p.pc + d.signExtend 64) &&& ~~~3 ∧ p.indirect x = x &&& ~~~3))

/-- With no result outstanding: no taken lane or all taken pushes UNIF and the slot goes on or branches; otherwise the
slot keeps the lanes not taken, and the taken ones start in the free slot with a copy of the banked registers (SPLIT)
or wait on the stack (DEFER); with 32 entries the slot stops on a divergence-stack record with nothing changed. Where
it says more than these rules, it says the model’s choice in log entry 17 (R22, R206, R341, R394). -/
def Obligations.DivergentBranchesComplete : Prop :=
  ∀ (f : FmtB) (s : State) (v : View), s.view = some v → brdivCauses f v = [] → v.p.pend = [] → v.p.exp = none →
    v.p.rep = none →
    let b := v.sl.b
    let tk := v.p.mask &&& readKReg v.w f.sa.toNat
    let target := v.p.pc + f.disp.signExtend 64 * 8
    ∃ t u, exec (.brdiv f) s = .next t ∧ t.find v.sl = some u ∧ u.w.v = v.w.v ∧ u.w.s = v.w.s ∧ u.w.k = v.w.k ∧
      (v.w.stack.length < 32 → OnlyWave v.sl s t ∧
        (tk = 0 → u.p.pc = v.p.pc + 8 ∧ u.p.mask = v.p.mask ∧ u.p.owned = v.p.owned ∧
          u.w.stack = { kind := .unif, ownerB := b, pc := 0, lanes := 0 } :: v.w.stack) ∧
        (tk ≠ 0 → v.p.mask &&& ~~~tk = 0 → u.p.pc = target ∧ u.p.mask = v.p.mask ∧ u.p.owned = v.p.owned ∧
          u.w.stack = { kind := .unif, ownerB := b, pc := 0, lanes := 0 } :: v.w.stack) ∧
        (tk ≠ 0 → v.p.mask &&& ~~~tk ≠ 0 →
          u.p.pc = v.p.pc + 8 ∧ u.p.mask = v.p.mask &&& ~~~tk ∧ u.p.owned = v.p.owned &&& ~~~tk ∧
          ((v.w.slot (!b)).live = true →
            u.w.stack = { kind := .defer, ownerB := b, pc := target, lanes := tk } :: v.w.stack ∧
            u.w.slot (!b) = v.w.slot (!b)) ∧
          ((v.w.slot (!b)).live = false →
            u.w.stack = { kind := .split, ownerB := b, pc := 0, lanes := 0 } :: v.w.stack ∧
            (u.w.slot (!b)).live = true ∧ (u.w.slot (!b)).pc = target ∧ (u.w.slot (!b)).owned = tk ∧
            (u.w.slot (!b)).mask = tk ∧ (u.w.slot (!b)).bank = v.p.bank ∧ (u.w.slot (!b)).pers = v.p.pers))) ∧
      (32 ≤ v.w.stack.length → u.w.stack = v.w.stack ∧ u.p.pc = v.p.pc ∧ u.p.status = .held s.nextRec ∧
        ((s.ctx? v.t.ctx).map Context.ended ≠ some true →
          ∃ r, t.recs = s.recs ++ [r] ∧ r.cls = .dstk ∧ r.pc = v.p.pc ∧ r.sl = some v.sl))

/-- With no result outstanding, JOIN pops UNIF and goes on, pops DEFER and runs the deferred lanes, pops MERGE and
reunites, parks at a SPLIT until the other slot joins (stops there while a pre-emption request stands), and then merges
it; EXIT removes the active lanes, takes the
next deferred lanes when none is left, frees the slot when there are none, and ends the wave with its last slot. Where
it says more than these rules, it says the model’s choice in log entries 12, 17 and 52 (R206, R342, R343). -/
def Obligations.JoinsAndExitsComplete : Prop :=
  (∀ (f : FmtW) (s : State) (v : View), s.view = some v → bareCauses f.c ++ allZeroCauses f = [] → v.p.pend = [] →
    (v.w.slot (!v.sl.b)).pend = [] → v.p.exp = none → v.p.rep = none →
    let b := v.sl.b
    ∃ t u, exec (.join f) s = .next t ∧ OnlyWave v.sl s t ∧ t.find v.sl = some u ∧ u.w.v = v.w.v ∧ u.w.s = v.w.s ∧
      u.w.k = v.w.k ∧
      (∀ e, topOwned v.w.stack b = some e →
        (e.kind = .unif → u.p.pc = v.p.pc + 8 ∧ u.p.owned = v.p.owned ∧ u.p.mask = v.p.mask ∧
          u.w.stack = popOwned b v.w.stack) ∧
        (e.kind = .defer → u.p.pc = e.pc ∧ u.p.owned = e.lanes ∧ u.p.mask = e.lanes ∧
          u.w.stack = { kind := .merge, ownerB := b, pc := v.p.pc + 8, lanes := v.p.owned } :: popOwned b v.w.stack) ∧
        (e.kind = .merge → u.p.pc = e.pc ∧ u.p.owned = v.p.owned ||| e.lanes ∧ u.p.mask = v.p.owned ||| e.lanes ∧
          u.w.stack = popOwned b v.w.stack) ∧
        (e.kind = .split → (v.w.slot (!b)).live = true → (v.w.slot (!b)).status ≠ .parkedJoin →
          u.p.status = (if v.t.preempt.isSome then .stopped else .parkedJoin) ∧ u.p.pc = v.p.pc ∧ u.w.stack = v.w.stack) ∧
        (e.kind = .split → (v.w.slot (!b)).live = true → (v.w.slot (!b)).status = .parkedJoin →
          topOwned v.w.stack (!b) = none →
          u.p.pc = v.p.pc + 8 ∧ u.p.owned = v.p.owned ||| (v.w.slot (!b)).owned ∧ u.p.mask = u.p.owned ∧
          (u.w.slot (!b)).live = false ∧ u.w.stack = popSplit b v.w.stack)) ∧
      (topOwned v.w.stack b = none → (v.w.slot (!b)).live = false → u.p.pc = v.p.pc + 8 ∧ u.w.stack = v.w.stack)) ∧
  (∀ (f : FmtW) (s : State) (v : View), s.view = some v → controlCauses f.c v ++ allZeroCauses f = [] → v.p.pend = [] →
    v.p.exp = none → v.p.rep = none →
    let b := v.sl.b
    ∃ t u, exec (.exit f) s = .next t ∧ OnlyWave v.sl s t ∧ t.find v.sl = some u ∧ u.w.v = v.w.v ∧ u.w.s = v.w.s ∧
      u.w.k = v.w.k ∧
      (v.p.owned &&& ~~~v.active f.c ≠ 0 → u.p.pc = v.p.pc + 8 ∧ u.p.owned = v.p.owned &&& ~~~v.active f.c ∧
        u.p.mask = v.p.mask &&& ~~~v.active f.c ∧ u.w.status = .running) ∧
      (v.p.owned &&& ~~~v.active f.c = 0 → v.w.stack = [] → u.p.live = false ∧
        ((v.w.slot (!b)).live = false → u.w.status = .exited) ∧
        ((v.w.slot (!b)).live = true → (v.w.slot (!b)).status ≠ .parkedJoin → u.w.slot (!b) = v.w.slot (!b) ∧
          u.w.status = .running)) ∧
      (v.p.owned &&& ~~~v.active f.c = 0 → ∀ e rest, v.w.stack = e :: rest → e.ownerB = b → e.kind = .defer →
        u.p.pc = e.pc ∧ u.p.owned = e.lanes ∧ u.p.mask = e.lanes ∧ u.p.live = true ∧ u.w.stack = rest))

/-- With nothing wrong NOP only goes on, YIELD puts the slot last for 32 cycles, WAITC goes on when the class named by
IMM has at most n results and otherwise waits, and PPT goes on or, when a pre-emption request stands, stops the slot
after it or at the guest boundary (R52, R339, R344, R345, R372). -/
def Obligations.WaitsHintsAndPreemptionPointsComplete : Prop :=
  (∀ (f : FmtW) (s : State) (v : View), s.view = some v → controlCauses f.c v ++ allZeroCauses f = [] →
    exec (.nop f) s = .next (s.putSlot v v.p.onward) ∧
    exec (.yield f) s =
      .next (s.putSlot v (if v.active f.c = 0 then v.p.onward else { v.p.onward with yieldLeft := 32 }))) ∧
  (∀ (f : FmtI) (s : State) (v : View) (c : ResClass), s.view = some v → f.c = ⟨false, false, 0, false⟩ → f.d = 0 →
    f.sa = 0 → f.imm.toNat < 256 →
    (f.imm.toNat / 64 = 0 ∧ c = .ld ∨ f.imm.toNat / 64 = 1 ∧ c = .sf ∨ f.imm.toNat / 64 = 2 ∧ c = .xl) →
    (v.p.count c ≤ f.imm.toNat % 64 → exec (.waitc f) s = .next (s.putSlot v v.p.onward)) ∧
    (f.imm.toNat % 64 < v.p.count c → exec (.waitc f) s = .next (s.putSlot v { v.p with stalled := true }))) ∧
  (∀ (f : FmtW) (s : State) (v : View), s.view = some v → bareCauses f.c ++ allZeroCauses f = [] →
    (v.t.preempt = none → exec (.ppt f) s = .next (s.putSlot v v.p.onward)) ∧
    (v.t.preempt ≠ none → v.p.exp = none → exec (.ppt f) s = .next (s.putSlot v { v.p.onward with status := .stopped })) ∧
    (v.t.preempt ≠ none → v.p.exp ≠ none →
      exec (.ppt f) s = .next (s.putSlot v { v.p with stopAtBoundary := true }.onward))) ∧
  (∀ (s : State) (v : View), s.view = some v → ∃ u, (s.putSlot v v.p.onward).find v.sl = some u ∧ OnlySlot v u ∧
    OnlyWave v.sl s (s.putSlot v v.p.onward) ∧ u.p.pc = v.p.retire.pc ∧ u.p.chainOpen = false ∧ u.p.bank = v.p.bank ∧
    u.p.mask = v.p.mask ∧ u.p.owned = v.p.owned ∧ (v.p.exp = none → u.p.pend = v.p.pend ∧ u.p.status = v.p.status))

/-- With an active lane, BRK holds its slot at itself and TRAP at the operation after it, each on a new record of
class TRAP with the code in INFO2; nothing of the package changes but that record and the slot's status, place, chain
and latches, which an expansion leaves (inside a REP the instance BRK stops at stays the next to issue, TRAP has gone
past it); without an active lane both only go on. Where it says more than these rules, it says the model’s choice in log
entry 51 (R346, R393, R394, R397, R398). -/
def Obligations.TrapsStopTheSlotWithTheirCode : Prop :=
  ∀ (f : FmtI) (s : State) (v : View), s.view = some v → controlCauses f.c v ++ fieldZero f.d ++ fieldZero f.sa = [] →
    (s.ctx? v.t.ctx).map Context.ended ≠ some true →
    (v.active f.c ≠ 0 → ∀ trap : Bool,
      ∃ t u r, exec (if trap then .trap f else .brk f) s = .next t ∧
        OnlyWave v.sl { s with recs := s.recs ++ [r], nextRec := s.nextRec + 1 } t ∧
        t.find v.sl = some u ∧ OnlySlot v u ∧ u.p.status = .held s.nextRec ∧
        r.cls = .trap ∧ r.cause = (if trap then 2 else 1) ∧ r.info2 = f.imm ∧
        r.pc = v.p.pc ∧ r.sl = some v.sl ∧ r.ctx = v.t.ctx ∧ r.id = s.nextRec ∧ r.exp = v.p.exp.isSome ∧
        r.repj = (v.p.rep.map RepRun.j).getD 0 ∧
        u.p.bank = v.p.bank ∧ u.p.mask = v.p.mask ∧ u.p.owned = v.p.owned ∧ u.p.mxst = v.p.mxst ∧ u.p.fmask = v.p.fmask ∧
        u.p.chainOpen = false ∧ u.p.exp = none ∧ (v.p.exp = none → u.p.pend = v.p.pend) ∧
        u.p.pc = (if trap then v.p.retire.pc else v.p.pc) ∧
        (v.p.exp = none → u.p.rep = if trap then v.p.retire.rep else v.p.rep)) ∧
    (v.active f.c = 0 → exec (.brk f) s = .next (s.putSlot v v.p.onward) ∧
      exec (.trap f) s = .next (s.putSlot v v.p.onward))

/-- With nothing wrong, room in the class and every access through its checks, each load answers a next state in which
its slot goes on with a result pending that holds the bytes read after what preserved order puts first; an access that
meets poison leaves its record instead. The checks of an access outside .glob change nothing; when no reduction of the
core rests, none is late and no write of the slot has to come first, all a load changes beside its slot is which cores hold near
lines and which decoded lines the L2s hold, so every agent reads every byte as before. Where it says more than these
rules, it says the model’s choice in log entries 11, 16 and 18 (R48, R49, R108, R180, R182, R183, R186, R187, R198,
R312). -/
def Obligations.LoadsCompleteAndStoreNothing : Prop :=
  (LoadCompletes .ld
    (fun f v => memCauses f 3 (.scal (.int 32) 1) v ++ dstCauses v (some .ld) (.scal (szGroup f.sz.toNat)) f.d) true
    (fun f v => if scalarActive v f.c then [scalarPart v f] else []) ∧
  LoadCompletes .vld
    (fun f v => memCauses f 4 (.vec (.int 32) 1) v ++ dstCauses (v.inLanes f.c) (some .ld) (.vec (szGroup f.sz.toNat)) f.d)
    false (fun f v => gatherParts v f) ∧
  LoadCompletes .vldb
    (fun f v => memCauses f 4 (.scal (.int 32) 1) v ++ dstCauses (v.inLanes f.c) (some .ld) (.vec (szGroup f.sz.toNat)) f.d)
    false
    (fun f v => blockParts v f)) ∧
  ((∀ (s : State) (v : View) (spc n : Nat) (k : Access) (ok : Bool) (ps : List Part), spc ≠ 0 →
    (resolve s v spc n k ok ps).1 = s) ∧
  (∀ (s : State) (v : View) (n : Nat) (gs : List Good) (k : BitVec 4) (ls : List (Option Nat)) (locs : List Loc),
    (∀ e ∈ s.comb, e.core ≠ v.t.core) → s.lateReds = [] → (∀ l ∈ ls, orderedBefore s v.sl v.p k l = []) → sameAddress s v.sl v.p locs = [] →
    (∀ w ∈ s.writes, w.level < 6) →
    ∃ near dec, (s.quiet v.t.core n gs).forceBefore v k ls locs = { s with near := near, decoded := dec }) ∧
  (∀ (s : State) (v : View) (n : Nat) (gs : List Good), (∀ e ∈ s.comb, e.core ≠ v.t.core) → s.lateReds = [] →
    ∃ near, s.quiet v.t.core n gs = { s with near := near }) ∧
  (∀ (s : State) (r : Seat) (n : Nat) (gs : List Good), ∃ dec, s.fillGood r n gs = { s with decoded := dec }) ∧
  (∀ (s t : State) (pend : List Pend) (fm : Lanes) (v : View) (near : List (Nat × Nat)) (dec : List DecLine),
    s.find v.sl = some v →
    MovesOn pend fm v (({ s with near := near, decoded := dec } : State).clearRemote (.slot v.sl)) t →
    (∀ r l, seenByte t r l = seenByte s r l) ∧ (∀ team key, laneByte t team key = laneByte s team key) ∧
      (∀ l, finalByte t l = finalByte s l)))

/-- With nothing wrong and every access through its checks, each store answers a next state in which the slot goes on,
the wave sees the data bytes of its accesses, lowest register and byte first and in ascending lane order, at the
locations its addresses resolve to, every other byte is as before, and other agents see nothing yet; of the teams only
the lane slices of its own change, and of the segments the dirty bits and poison of granules stored to (R160, R180, R181, R186,
R187, R312, R314). -/
def Obligations.StoresComplete : Prop :=
  StoreCompletes .st (fun f v => memCauses f 3 (.scal (.int 32) 1) v ++ dataCauses v (.scal (szGroup f.sz.toNat)) f.d) true
    (fun f v => if scalarActive v f.c then [scalarPart v f] else []) (fun f v _ => scalarData v f) ∧
  StoreCompletes .vst
    (fun f v => memCauses f 4 (.vec (.int 32) 1) v ++ dataCauses (v.inLanes f.c) (.vec (szGroup f.sz.toNat)) f.d) false
    (fun f v => gatherParts v f) (fun f v l => vectorData v f l) ∧
  StoreCompletes .vstb
    (fun f v => memCauses f 4 (.scal (.int 32) 1) v ++ dataCauses (v.inLanes f.c) (.vec (szGroup f.sz.toNat)) f.d) false
    (fun f v => blockParts v f) (fun f v l => vectorData v f l) ∧
  (∀ (t : Target) (data : List Byte) (l : Loc) (i : Nat), i < data.length → targetLoc t i = some l →
    storedAt t data l = some (byteAt data i)) ∧
  (∀ (t : Target) (data : List Byte) (l : Loc), (∀ i, i < data.length → targetLoc t i ≠ some l) →
    storedAt t data l = none) ∧
  (∀ (v : View) (f : FmtM) (l i : Nat), f.sz.toNat ≤ 4 → i < szBytes f.sz.toNat →
    byteAt (vectorData v f l) i = (readVectorReg v f.d.toNat (i / 4) l).extractLsb' (8 * (i % 4)) 8 ∧
    byteAt (scalarData v f) i = (readScalarReg v f.d.toNat (i / 4)).extractLsb' (8 * (i % 4)) 8)

/-- Each active lane (each faulted lane of a replay) makes one access, in ascending order, whose address is base plus
offset as R180 computes it; within .core and the lane slice an access in
range and aligned reaches its own bytes, out of range is the first fault and misalignment after it; a .glob access is
checked for alignment, then for a canonical address; an unattached handle is the handle fault. Where it says more than
these rules, it says the model’s choice in log entry 61 (R150, R151, R180, R181, R183). -/
def Obligations.AccessAddressesAndChecks : Prop :=
  (∀ (v : View) (f : FmtM), scalarPart v f = ⟨0, readS64 v f.sa + (readS32 v f.sb).signExtend 64⟩ ∧
    (∀ p ∈ gatherParts v f, (memActive v f.c).getLsbD p.lane = true ∧
      p.addr = readS64 v f.sa + (readV32 v 32 f.sb p.lane).signExtend 64) ∧
    (∀ l, l < 96 → (memActive v f.c).getLsbD l = true →
      (∃ p ∈ gatherParts v f, p.lane = l) ∧ ∃ p ∈ blockParts v f, p.lane = l) ∧
    ((gatherParts v f).map Part.lane).Pairwise (· < ·) ∧ ((blockParts v f).map Part.lane).Pairwise (· < ·) ∧
    (∀ p ∈ blockParts v f, (memActive v f.c).getLsbD p.lane = true ∧
      p.addr = readS64 v f.sa + (readS32 v f.sb).signExtend 64 + BitVec.ofNat 64 (p.lane * 2 ^ f.sz.toNat)) ∧
    (v.p.replay = false → memActive v f.c = v.active f.c) ∧ (v.p.replay = true → memActive v f.c = v.p.fmask)) ∧
  (∀ (s : State) (v : View) (lane n o : Nat) (k : Access), 0 < n → o < 2 ^ 32 →
    let a := BitVec.ofNat 64 o
    (o + n ≤ v.t.scratchSize → o % n = 0 →
      slotTarget s v 1 lane a n k = (s, .ok (.scratch v.t.id o))) ∧
    (v.t.scratchSize < o + n → slotTarget s v 1 lane a n k = (s, .error (.plain 1))) ∧
    (o + n ≤ v.t.scratchSize → o % n ≠ 0 → slotTarget s v 1 lane a n k = (s, .error (.plain 4))) ∧
    (o + n ≤ v.t.laneBytes → o % n = 0 →
      slotTarget s v 4 lane a n k = (s, .ok (.lane ((v.sl.wave * 96 + lane) * v.t.laneBytes + o)))) ∧
    (v.t.laneBytes < o + n → slotTarget s v 4 lane a n k = (s, .error (.plain 1))) ∧
    (o + n ≤ v.t.laneBytes → o % n ≠ 0 → slotTarget s v 4 lane a n k = (s, .error (.plain 4)))) ∧
  (∀ (s : State) (v : View) (lane n : Nat) (a : Dword) (k : Access),
    (a.toNat % n ≠ 0 → slotTarget s v 0 lane a n k = (s, .error (.plain 4))) ∧
    (a.toNat % n = 0 → canonical a = false → slotTarget s v 0 lane a n k = (s, .error .nonCanonical)) ∧
    (upperHalf a ≠ 0 → slotTarget s v 4 lane a n k = (s, .error (.plain 1))) ∧
    (upperHalf a ≠ 0 → attachedSeg s v.t (upperHalf a) = none → slotTarget s v 1 lane a n k = (s, .error (.plain 2))))

/-- LD and ST with a failing access, and VLD, VLDB, VST, VSTB, ATOM and RED with failing lanes, hold their slot at the
operation (inside a REP at its instance, inside an expansion at the guest instruction) on a MEM record of the first
failing check of the lowest faulted lane; the fault mask and the record name the faulted lanes, the good lanes are
performed, the loaded values left pending in them alone, and nothing is stored or loaded for the others. Where it says
more than these rules, it says the model’s choice in log entries 16, 40 and 120 (R182, R183, R184, R185, R192, R193, R371,
R393, R397, R398). -/
def Obligations.FaultingAccessesStopTheSlot : Prop :=
  (∀ (f : FmtM) (s : State) (v : View) (s1 : State) (b : Bad) (i : Instr) (k : Access), s.view = some v →
    scalarActive v f.c = true → (∀ w ∈ s1.writes, w.level < 6) →
    (s1.ctx? v.t.ctx).map Context.ended ≠ some true →
    (i = .ld f ∧ k = .load ∧ v.p.count .ld < 64 ∧
        memCauses f 3 (.scal (.int 32) 1) v ++ dstCauses v (some .ld) (.scal (szGroup f.sz.toNat)) f.d = [] ∨
      i = .st f ∧ k = .store ∧
        memCauses f 3 (.scal (.int 32) 1) v ++ dataCauses v (.scal (szGroup f.sz.toNat)) f.d = []) →
    partNeeds s v f.spc.toNat k [scalarPart v f] = [] →
    resolve s v f.spc.toNat (szBytes f.sz.toNat) k true [scalarPart v f] = (s1, ⟨[], [b]⟩) →
    ∃ t u r, exec i s = .next t ∧ t.find v.sl = some u ∧ OnlySlot v u ∧ u.p.pc = v.p.pc ∧ u.p.status = .held s1.nextRec ∧
      u.p.fmask = 0 ∧ u.p.replay = !v.inExp ∧ u.p.exp = none ∧
      (v.p.exp = none → u.p.pend = v.p.pend ∧ u.p.rep = v.p.rep) ∧ t.recs = s1.recs ++ [r] ∧ r.cls = .mem ∧
      r.cause = b.f.cause ∧ r.sub = b.f.sub ∧ r.rst = b.f.rst ∧ r.addr = (scalarPart v f).addr ∧ r.pc = v.p.pc ∧
      r.exp = v.p.exp.isSome ∧ r.sl = some v.sl ∧ r.info = 0 ∧ t.mem = s1.mem ∧ t.writes = s1.writes) ∧
  (∀ (f : FmtM) (s : State) (v : View) (s1 : State) (gs : List Good) (b : Bad) (bs : List Bad) (i : Instr) (k : Access)
      (parts : List Part),
    s.view = some v → (s1.ctx? v.t.ctx).map Context.ended ≠ some true →
    (k = .load ∧ v.p.count .ld < 64 ∧
        (i = .vld f ∧ parts = gatherParts v f ∧ memCauses f 4 (.vec (.int 32) 1) v ++
            dstCauses (v.inLanes f.c) (some .ld) (.vec (szGroup f.sz.toNat)) f.d = [] ∨
          i = .vldb f ∧ parts = blockParts v f ∧ memCauses f 4 (.scal (.int 32) 1) v ++
            dstCauses (v.inLanes f.c) (some .ld) (.vec (szGroup f.sz.toNat)) f.d = []) ∨
      k = .store ∧
        (i = .vst f ∧ parts = gatherParts v f ∧
            memCauses f 4 (.vec (.int 32) 1) v ++ dataCauses (v.inLanes f.c) (.vec (szGroup f.sz.toNat)) f.d = [] ∨
          i = .vstb f ∧ parts = blockParts v f ∧
            memCauses f 4 (.scal (.int 32) 1) v ++ dataCauses (v.inLanes f.c) (.vec (szGroup f.sz.toNat)) f.d = []) ∨
      k = .atomic ∧ parts = gatherParts v f ∧
        (i = .atom f ∧ atomWait f v = false ∧
            atomCauses f 10 v ++ dstForm v.inExp false (.vec (atomGroup f)) f.d.toNat ++
              (if v.p.replay then [] else
                (if (dstRegs (.vec (atomGroup f)) f.d.toNat).any (v.inLanes f.c).p.pending then [0x06] else []) ++
                  dstCauses (v.inLanes f.c) (some .ld) (.vec (szGroup f.sz.toNat)) f.d) = [] ∨
          i = .red f ∧ atomCauses f 8 v ++ dataCauses (v.inLanes f.c) (.vec (szGroup f.sz.toNat)) f.d = [])) →
    let n := szBytes f.sz.toNat
    partNeeds s v f.spc.toNat k parts = [] →
    resolve s v f.spc.toNat n k (decide (k ≠ .atomic)) parts = (s1, ⟨gs, b :: bs⟩) →
    (∀ g ∈ gs, targetNeeds s1 (decide (k ≠ .load)) n g.t = [] ∧ touchNeeds s1 v.t.core g.t n = []) →
    unanswered s1 (.slot v.sl) gs = [] → (k = .atomic → locNeeds s1 (goodLocs s1 n gs) = []) →
    (k ≠ .store → beforeNeeds s1 v f.str (gs.map (laneOf false)) (goodLocs s1 n gs) = []) →
    (∀ g ∈ gs, targetPoisoned s1 n g.t = false) →
    let s2 := (s1.quiet v.t.core n gs).forceBefore v f.str (gs.map (laneOf false)) (goodLocs s1 n gs)
    (∀ x ∈ bs, b.lane < x.lane) ∧
    ∃ t u r, exec i s = .next t ∧ t.find v.sl = some u ∧ OnlySlot v u ∧ u.p.pc = v.p.pc ∧ u.p.status = .held r.id ∧
      (∀ l, l < 96 → (u.p.fmask.getLsbD l = true ↔ ∃ x ∈ b :: bs, x.lane = l)) ∧ u.p.replay = !v.inExp ∧
      u.p.exp = none ∧ (v.p.exp = none → u.p.rep = v.p.rep) ∧
      (∃ pre, t.recs = pre ++ [r]) ∧ r.cls = .mem ∧ r.cause = b.f.cause ∧ r.rst = b.f.rst ∧ r.addr = b.addr ∧
      r.pc = v.p.pc ∧ r.exp = v.p.exp.isSome ∧ r.info = u.p.fmask.extractLsb' 0 64 ∧
      r.info2 = u.p.fmask.extractLsb' 64 32 ∧ r.sl = some v.sl ∧
      (k = .store → (v.p.exp = none → u.p.pend = v.p.pend) ∧ ∀ a l, seenByte t a l =
        if joinScope v.seat a = 0 then
          gs.foldl (fun y g => (storedAt g.t (vectorData v f g.lane) l).getD y) (seenByte (s1.quiet v.t.core n gs) a l)
        else seenByte (s1.quiet v.t.core n gs) a l) ∧
      (k = .load → v.p.exp = none → (∀ g ∈ gs, targetPoisoned s2 n g.t = false) →
        ∃ val, u.p.pend = v.p.pend ++ [v.ordered (Pend.vec .ld f.d (szGroup f.sz.toNat) (goodMask gs) val)] ∧
          ∀ g ∈ gs, ∀ j, val j g.lane = regOfBytes (goodBytes s2 v.seat n g) j) ∧
      (i = .atom f → v.p.exp = none →
        ∃ val, u.p.pend = v.p.pend ++ [v.ordered (Pend.vec .ld f.d (szGroup f.sz.toNat) (goodMask gs) val)] ∧
          let run := atomRun v f (atomStart v f s1 gs) gs
          t.mem = run.1.mem ∧ t.writes = run.1.writes ∧
          ∀ g old, (g, old) ∈ gs.zip run.2 → ∀ j, val j g.lane = BitVec.ofNat 32 (old / 2 ^ (32 * j))) ∧
      (i = .red f → (v.p.exp = none → u.p.pend = v.p.pend) ∧
        let run := gs.foldl (redLane v f) (s1.forceFenced v f.str (gs.map (laneOf false)))
        t.mem = run.mem ∧ t.writes = run.writes ∧ t.comb = run.comb))

/-- While writes are in order and no host cache holds dirty bytes, a read-modify-write of a physical, scratchpad or
segment location answers the value that every write in flight leaves there, every agent then reads the new value, and
no other byte changes. With nothing wrong and every access through its checks, ATOM and RED answer a next state in
which the slot goes on; the lanes act in ascending order, each one read-modify-write with the function of R191 on what
the lanes before it left, whose old value ATOM leaves pending in its lane; a .glob reduction rests in the combining
buffer with nothing written; the functions are the sum, minima, maxima, bit operations, swap and compare-and-swap.
Where it says more than these rules, it says the model’s choice in log entries 10, 12, 16, 40 and 120 (R190, R191, R192, R193, R195, R198, R314). -/
def Obligations.AtomicsAndReductions : Prop :=
  (∀ (s : State) (r : Seat) (x : Target) (n : Nat) (f : Nat → Nat), WritesOk s → (∀ h ∈ s.hostLines, h.dirty = []) →
    ((∃ pa mt, x = .phys pa mt) ∨ (∃ tm o, x = .scratch tm o ∧ (s.team? tm).isSome = true) ∨
      (∃ c m o, x = .seg c m o ∧ (s.segment? c m).isSome = true)) →
    let y := s.rmw r x n f
    y.2 = ofBytes ((List.range n).map fun i => ((targetLoc x i).map (finalByte s)).getD 0) ∧
    (∀ r' i l, i < n → targetLoc x i = some l → seenByte y.1 r' l = byteAt (bytesOf (f y.2) n) i) ∧
    (∀ l, l.present s → (∀ i, i < n → targetLoc x i ≠ some l) → finalByte y.1 l = finalByte s l) ∧ WritesOk y.1) ∧
  ((∀ (f : FmtM) (s : State) (v : View) (s1 : State) (gs : List Good), s.view = some v →
    atomCauses f 10 v ++ dstForm v.inExp false (.vec (atomGroup f)) f.d.toNat ++
      (if v.p.replay then [] else
        (if (dstRegs (.vec (atomGroup f)) f.d.toNat).any (v.inLanes f.c).p.pending then [0x06] else []) ++
          dstCauses (v.inLanes f.c) (some .ld) (.vec (szGroup f.sz.toNat)) f.d) = [] → atomWait f v = false →
    AccessesReady s v (szBytes f.sz.toNat) .atomic f false false (gatherParts v f) s1 gs →
    ∃ t q, exec (.atom f) s = .next t ∧ MovesOn (v.p.pend ++ [q]) (fmaskAfter v) v
        ((atomAct f v s1 gs).1.clearRemote (.slot v.sl)) t ∧
      (let s2 := atomStart v f s1 gs
       let run := atomRun v f s2 gs
       (∀ g ∈ gs, targetPoisoned s2 (szBytes f.sz.toNat) g.t = false) →
        (atomAct f v s1 gs).1 = run.1 ∧ ∃ val,
          q = v.ordered (Pend.vec .ld f.d (szGroup f.sz.toNat) (goodMask gs) val) ∧
          ∀ g old, (g, old) ∈ gs.zip run.2 → ∀ j, val j g.lane = BitVec.ofNat 32 (old / 2 ^ (32 * j)))) ∧
  (∀ (v : View) (f : FmtM) (s : State) (g : Good) (gs : List Good), atomRun v f s [] = (s, []) ∧
    atomRun v f s (g :: gs) =
      ((atomRun v f (atomLane v f s g).1 gs).1, (atomLane v f s g).2 :: (atomRun v f (atomLane v f s g).1 gs).2)) ∧
  (∀ (v : View) (f : FmtM) (s : State) (g : Good), f.spc ≠ 0 →
    atomLane v f s g = s.rmw v.seat g.t (szBytes f.sz.toNat) (atomStep v f g.lane)) ∧
  (∀ (f : FmtM) (s : State) (v : View) (s1 : State) (gs : List Good), s.view = some v →
    atomCauses f 8 v ++ dataCauses (v.inLanes f.c) (.vec (szGroup f.sz.toNat)) f.d = [] →
    AccessesReady s v (szBytes f.sz.toNat) .atomic f false false (gatherParts v f) s1 gs →
    (∀ g ∈ gs, targetPoisoned s1 (szBytes f.sz.toNat) g.t = false) →
    ∃ t, exec (.red f) s = .next t ∧ MovesOn v.p.pend (fmaskAfter v) v
      ((gs.foldl (redLane v f) (s1.forceFenced v f.str (gs.map (laneOf false)))).clearRemote (.slot v.sl)) t) ∧
  (∀ (v : View) (f : FmtM) (s : State) (g : Good),
    (f.spc ≠ 0 → redLane v f s g = (s.rmw v.seat g.t (szBytes f.sz.toNat) (atomStep v f g.lane)).1) ∧
    (f.spc = 0 → s.comb = [] → ∀ pa mt, g.t = .phys pa mt →
      ∃ e, redLane v f s g = { s.performLate with comb := [e] } ∧ e.pa = pa ∧ e.fn = atomFn f ∧ e.core = v.t.core ∧ e.str = f.str ∧
        e.operand = BitVec.ofNat 64 (atomData v f 0 g.lane) ∧ e.born = coreClock s v.t.core)) ∧
  (∀ (w old x cmp : Nat), w = 32 ∨ w = 64 → old < 2 ^ w → x < 2 ^ w →
    atomNew 0 w old x cmp = (old + x) % 2 ^ w ∧ atomNew 3 w old x cmp = min old x ∧ atomNew 5 w old x cmp = max old x ∧
    atomNew 6 w old x cmp = old &&& x ∧ atomNew 7 w old x cmp = old ||| x ∧ atomNew 8 w old x cmp = old ^^^ x ∧
    atomNew 9 w old x cmp = x ∧ atomNew 10 w old x cmp = (if old = cmp then x else old) ∧
    (BitVec.ofNat w (atomNew 2 w old x cmp)).toInt = min (BitVec.ofNat w old).toInt (BitVec.ofNat w x).toInt ∧
    (BitVec.ofNat w (atomNew 4 w old x cmp)).toInt = max (BitVec.ofNat w old).toInt (BitVec.ofNat w x).toInt))

/-- With nothing wrong a fence completes at once: every earlier write of the slot (for FENCEW every write of both slots of
the wave) in a named stream is ordered before each later access of the slot in a named stream, in the same lane unless the
fence is FENCEW, what was ordered stays so, and with no lane active nothing new is; PREF and IPREF go on and raise
nothing: of the package only cached translations and lines, what is asked for, and bits a walk sets may differ. A line
PREF names that the L2s have to get from a host is asked for, and IPREF's first line is held after it where it can be read
and its tag matches. Where it says more than these rules, it says the model’s choice in log entry 12 (R200, R201, R202,
R203, R312). -/
def Obligations.FencesAndPrefetchesComplete : Prop :=
  (∀ (f : FmtC) (s : State) (v : View) (i : Instr) (across : Bool), s.view = some v → fenceCauses f v = [] →
    (i = .fence f ∧ across = false ∨ i = .fencew f ∧ across = true) →
    ∃ t u, exec i s = .next t ∧ MovesOn v.p.pend v.p.fmask v s t ∧ t.find v.sl = some u ∧
      (v.active f.c = 0 → u.p.fences = v.p.fences) ∧
      (∀ w ∈ s.writes, ∀ k lane, w.id ∈ orderedBefore s v.sl v.p k lane → w.id ∈ orderedBefore t v.sl u.p k lane) ∧
      (v.active f.c ≠ 0 → ∀ w ∈ s.writes, ∀ k k' lane, w.stream = some k → inMask f.mask k = true → inMask f.mask k' = true →
        (across = false → ownPast v.sl v.p w = true → w.lane = lane ∨ w.lane = none ∨ lane = none →
          w.id ∈ orderedBefore t v.sl u.p k' lane) ∧
        (across = true → agentIsSlot w.seat.who = true → w.seat.team = v.sl.team → w.seat.wave = v.sl.wave →
          w.id ∈ orderedBefore t v.sl u.p k' lane))) ∧
  (∀ (f : FmtM) (s : State) (v : View), s.view = some v →
    memCauses f 0 (.scal (.int 32) 1) v ++ (if f.d = 0 then [] else [0x02]) = [] →
    ∃ t s1, exec (.pref f) s = .next t ∧ MovesOn v.p.pend v.p.fmask v s1 t ∧ PrefetchFrame s s1 ∧
      (v.active f.c = 0 → s1 = s) ∧
      (∀ s2 pa, v.active f.c ≠ 0 → f.sz = 0 →
        let a := (scalarPart v f).addr &&& ~~~127
        canonical a = true → fabricOf s v.t.ctx a = none → xlateNeeds s v.t.core v.t.ctx a false = [] →
        globTarget s v.t.core v.t.ctx a 128 .load = (s2, .ok (.phys pa 1)) →
        (s2.hostMem.contains (lineOf pa) = false → lineOf pa ∈ t.cxlReqs ∧ (v.t.core, v.t.ctx, a.toNat, false) ∈ t.prefs) ∧
        (s2.hostMem.contains (lineOf pa) = true → s2.hostLines = [] → s1 = s2))) ∧
  (∀ (f : FmtB) (s : State) (v : View), s.view = some v →
    noNwCauses f.c ++ guardCauses v f.c ++ (if f.d = 0 ∧ f.sa = 0 then [] else [0x02]) = [] →
    ∃ t s1, exec (.ipref f) s = .next t ∧ MovesOn v.p.pend v.p.fmask v s1 t ∧ PrefetchFrame s s1 ∧
      (v.active f.c = 0 → s1 = s) ∧
      (∀ s2 bits, v.active f.c ≠ 0 → iline s v.t.core v.t.ctx (codeLine (v.p.branchTarget f.disp)) = none →
        codeRead s v.t.core v.t.ctx (codeLine (v.p.branchTarget f.disp)) .fetch = (s2, .ok bits) →
        iline t v.t.core v.t.ctx (codeLine (v.p.branchTarget f.disp)) = some bits))

/-- The writes in flight stay distinct and ordered under performing, performing one scope further and adding one; what
a location holds once all are performed changes only by the added bytes; performing raises the named writes to the
scope or everywhere and never lowers one. Where it says more than these rules, it says the model’s choice in log
entries 10 and 12 (R314, R315). -/
def Obligations.WritesAreOrdered : Prop :=
  WritesOk .reset ∧
  (∀ (s : State) (lvl : Nat) (p : PWrite → Bool), WritesOk s → WritesOk (s.perform lvl p) ∧
    (∀ l, l.present s → finalByte (s.perform lvl p) l = finalByte s l) ∧
    (∀ w ∈ (s.perform lvl p).writes, ∃ x ∈ s.writes, x.id = w.id ∧ x.bytes = w.bytes ∧ x.level ≤ w.level) ∧
    (∀ x ∈ s.writes, p x = true →
      (∃ w ∈ (s.perform lvl p).writes, w.id = x.id ∧ lvl ≤ w.level) ∨ ∀ w ∈ (s.perform lvl p).writes, w.id ≠ x.id)) ∧
  (∀ (s : State) (seat : Seat) (k : Option (BitVec 4)) (lane : Option Nat) (deps : List Nat) (bytes : List (Loc × Byte)),
    WritesOk s → WritesOk (s.addWrite seat k lane deps bytes) ∧
    (∀ l, finalByte (s.addWrite seat k lane deps bytes) l =
      (((bytes.find? fun p => p.1 = l).map Prod.snd).getD (finalByte s l)))) ∧
  (∀ (s : State) (id : Nat), WritesOk s → WritesOk (s.performNext id) ∧
    ∀ l, l.present s → finalByte (s.performNext id) l = finalByte s l)

/-- A write whose predecessors are further on is performed one scope further, everywhere at the last; one that is blocked
stays, and so does one whose line a host cache holds when it is to reach its home or the hosts, which asks for the line
back; a page walk that checks out is cached in both TLBs and one that fails caches nothing, the cores' grants of its lines
returned; an entry that
rested 2,048 cycles is flushed as one read-modify-write at its placement, or once it can be had; a line quiet for 256 home cycles loses one
predictor step. Where it says more than these rules, it says the model’s choice in log entries 6, 13 and 35 (R119,
R121, R189, R197, R198, R314, R416). -/
def Obligations.WritesAndTranslationsAreCompletedByEvents : Prop :=
  (∀ (s : State) (pre post : List PWrite) (w : PWrite), s.writes = pre ++ w :: post → WritesOk s → w.level < 5 →
    (∀ x ∈ s.writes, (x.id ∈ w.deps ∨ x ∈ pre ∧ x.meets w = true) → w.level < x.level) →
    let held := writeSnoops s fun x => decide (x.id = w.id)
    (w.level ≠ 3 ∧ w.level ≠ 4 ∨ held = [] → ∃ dec, exec (.writePerform w.id) s =
      .next { s with writes := pre ++ { w with level := w.level + 1 } :: post, decoded := dec }) ∧
    (w.level = 3 ∨ w.level = 4 → held ≠ [] → ∃ t, exec (.writePerform w.id) s = .next t ∧ t = { s with snoops := t.snoops } ∧
      ∀ l ∈ held, ∃ q ∈ t.snoops, q.line = l ∧ q.inv = true)) ∧
  (∀ (s : State) (pre post : List PWrite) (w x : PWrite), s.writes = pre ++ w :: post → WritesOk s → x ∈ s.writes →
    (x.id ∈ w.deps ∨ x ∈ pre ∧ x.meets w = true) → x.level ≤ w.level → exec (.writePerform w.id) s = .next s) ∧
  (∀ (s : State) (pre post : List PWrite) (w : PWrite), s.writes = pre ++ w :: post → WritesOk s → w.level = 5 →
    (∀ x ∈ s.writes, (x.id ∈ w.deps ∨ x ∈ pre ∧ x.meets w = true) → w.level < x.level) →
    ∃ t, exec (.writePerform w.id) s = .next t ∧ t.writes = pre ++ post ∧
      ∀ l, l.present s → finalByte t l = finalByte s l) ∧
  (∀ (s s1 : State) (core ctx va : Nat) (e : TlbEntry), walkBy s (dieOf core) ctx (va % 2 ^ 57) = (s1, .ok e) →
    ∃ t, exec (.tlbFill core ctx va) s = .next t ∧ t = { s1 with tlb := t.tlb } ∧
      (e.ctx = ctx → e.page ≤ va % 2 ^ 57 → va % 2 ^ 57 < e.page + e.size →
        tlbFind t core ctx (va % 2 ^ 57) = some { e with level2 := false, unit := core })) ∧
  (∀ (s s1 : State) (core ctx va : Nat) (e : MemFault), walkBy s (dieOf core) ctx (va % 2 ^ 57) = (s1, .error e) →
    exec (.tlbFill core ctx va) s = .next s1 ∧ s1 = { s with near := s1.near }) ∧
  (∀ (s : State) (e : CombEntry), s.comb = [e] →
    (e.born + 2048 ≤ coreClock s e.core →
      exec (.combiningBufferTimeout e.core 0) s = .next (({ s with comb := [] } : State).flushEntry e)) ∧
    (coreClock s e.core < e.born + 2048 → exec (.combiningBufferTimeout e.core 0) s = .next s)) ∧
  (∀ (s : State) (e : CombEntry), s.poison.contains (lineOf e.pa) = false → s.comb = [] → e.w64 = false →
    (entryNeeds s e = [] → ∃ s1,
      ((∀ d, regionOf s e.pa 1 ≠ some (.chip d)) → s1 = s.placeAtomic e.core e.pl (lineOf e.pa)) ∧
      (∀ d, regionOf s e.pa 1 = some (.chip d) → s1 = s) ∧
      s1 = { s with near := s1.near, pred := s1.pred } ∧
      s.flushEntry e = (s1.rmw homeSeat (.phys e.pa 0) 4 fun old => atomNew e.fn 32 old e.operand.toNat 0).1) ∧
    (entryNeeds s e ≠ [] → (s.flushEntry e).lateReds = s.lateReds ++ [e] ∧ (s.flushEntry e).mem = s.mem)) ∧
  (∀ (s : State) (line : Nat), ∃ t, exec (.predictorDecay line) s = .next t ∧ t = { s with pred := t.pred } ∧
    t.pred.length = s.pred.length ∧ ∀ (i : Nat) (x : PredLine), s.pred[i]? = some x →
      t.pred[i]? = some (if x.line = line ∧ x.since + 256 ≤ homeClock s line then
        { x with pp := x.pp - 1, since := x.since + 256 } else x))

/-- With their counter here, readable and not waited for by anything they need, the four operations answer a next
state in which the slot goes on; CADD adds the pair SB, CADDX also leaves the old value pending, CTEST the reached
test, CSET stores the pair, each after its release and with DI set in the page it changes; an operation without an active lane does nothing; CSET outside
privileged code stops on a CNTR record of cause 4. Where it says more than these rules, it says the model’s choice in
log entries 12 and 34 (R286, R289, R292, R297, R298, R301, R302). -/
def Obligations.CountersComplete : Prop :=
  (∀ (f : FmtC) (s : State) (v : View) (s1 : State) (c : CtrPlace), s.view = some v →
    ctrCauses f true false true v ++ zeroCauses f.d = [] → CounterReady s v f true true s1 c →
    (readS64 v f.sb).msb = false →
    let s2 := (ctrReleased f v s1).ctrPlaceOp v.t.core f c
    ∃ t, exec (.cadd f) s = .next t ∧ MovesOn v.p.pend v.p.fmask v (s2.ctrAdd c (readS64 v f.sb)).1 t) ∧
  (∀ (f : FmtC) (s : State) (v : View) (s1 : State) (c : CtrPlace), s.view = some v →
    ctrCauses f true true true v ++ dstCauses v (some .ld) (.scal 2) f.d = [] → v.p.count .ld < 64 →
    CounterReady s v f true true s1 c → (readS64 v f.sb).msb = false →
    let s2 := (ctrReleased f v s1).ctrPlaceOp v.t.core f c
    ∃ t, exec (.caddx f) s = .next t ∧
      MovesOn (v.p.pend ++ [v.ordered (Pend.scal .ld f.d 2 (some ((s2.ctrAdd c (readS64 v f.sb)).2.zeroExtend 128)))])
        v.p.fmask v (s2.ctrAdd c (readS64 v f.sb)).1 t) ∧
  (∀ (f : FmtC) (s : State) (v : View) (s1 : State) (c : CtrPlace), s.view = some v →
    ctrCauses f false true false v ++ dstCauses v (some .ld) (.scal 1) f.d = [] → v.p.count .ld < 64 →
    CounterReady s v f false false s1 c →
    ∃ t, exec (.ctest f) s = .next t ∧
      MovesOn (v.p.pend ++ [v.ordered (Pend.scal .ld f.d 1
        (some (if reached (ctrValue (s1.ctrHome c) c) (readS64 v f.sb) then 1 else 0)))]) v.p.fmask v (s1.ctrHome c) t) ∧
  (∀ (f : FmtC) (s : State) (v : View) (s1 : State) (c : CtrPlace), s.view = some v →
    ctrCauses f true false false v ++ zeroCauses f.d = [] → s.privileged v.t v.p = true →
    CounterReady s v f true false s1 c → ctrWaited s1 c = false →
    ∃ t, exec (.cset f) s = .next t ∧
      MovesOn v.p.pend v.p.fmask v (((ctrReleased f v s1).ctrHome c).ctrPut c (readS64 v f.sb)) t) ∧
  (∀ (f : FmtC) (s : State) (v : View), s.view = some v → v.active f.c = 0 → v.p.replay = false →
    (ctrCauses f true false true v ++ zeroCauses f.d = [] →
      ∃ t, exec (.cadd f) s = .next t ∧ MovesOn v.p.pend v.p.fmask v s t) ∧
    (ctrCauses f true false false v ++ zeroCauses f.d = [] →
      ∃ t, exec (.cset f) s = .next t ∧ MovesOn v.p.pend v.p.fmask v s t)) ∧
  (∀ (f : FmtC) (s : State) (v : View), s.view = some v → v.active f.c ≠ 0 →
    ctrCauses f true false false v ++ zeroCauses f.d = [] → s.privileged v.t v.p = false →
    (s.ctx? v.t.ctx).map Context.ended ≠ some true →
    ∃ t u r, exec (.cset f) s = .next t ∧ t.find v.sl = some u ∧ u.p.pc = v.p.pc ∧ u.p.status = .held s.nextRec ∧
      t.recs = s.recs ++ [r] ∧ r.cls = .cntr ∧ r.cause = 4 ∧ r.addr = readS64 v f.sa ∧ t.mem = s.mem ∧ t.writes = s.writes)

/-- An add returns the value every write in flight leaves in the counter and leaves that value plus x, modulo 2 to the
64; no other byte changes; a waiter that is not polling is marked when the new value has reached its threshold, which
is that the difference is below 2 to the 63, or when its entry met an error. Where it says more than these rules, it says
the model’s choice in log entries 12 and 89 (R286, R287, R289, R291). -/
def Obligations.CounterAddsAreAtomicAndReachWaiters : Prop :=
  (∀ (s : State) (c : CtrPlace) (x : Dword), WritesOk s → (∀ h ∈ s.hostLines, h.dirty = []) → c.present s →
    let y := s.ctrAdd c x
    ctrValue y.1 c = y.2 + x ∧
    y.2 = BitVec.ofNat 64 (ofBytes ((List.range 8).map fun i => ((targetLoc c.target i).map (finalByte s)).getD 0)) ∧
    (∀ l, l.present s → (∀ i, i < 8 → targetLoc c.target i ≠ some l) → finalByte y.1 l = finalByte s l) ∧
    y.1.waiters.length = s.waiters.length ∧
    (∀ (i : Nat) (w : Waiter), s.waiters[i]? = some w →
      y.1.waiters[i]? = some
        { w with hit := w.hit || (decide (w.ctr = c) && !w.polling && (reached (y.2 + x) w.thr || w.bad)) })) ∧
  (∀ v t : Dword, reached v t = true ↔ (v - t).toNat < 2 ^ 63) ∧
  (∀ (s : State) (c : CtrPlace) (x : Dword), WritesOk s → (∀ h ∈ s.hostLines, h.dirty = []) → c.present s →
    ctrValue (s.ctrPut c x) c = x)

/-- A wait whose condition holds goes on at once; otherwise its slot parks at the operation with one entry for each
counter not reached, polling only when the home has no free entry, or, while a pre-emption request stands, returns early
and stops. Of several waiters on one counter the marked ones are taken in the order of registration; a marked entry is
removed and its slot, when it waits for nothing else or for any, goes on after the wait with its other entries gone, and
otherwise stays parked on them; an entry not marked stays, and a polling slot goes on when a re-read reaches its
threshold. Where it says more than these rules, it says the model’s choice in log entries 89
and 139 (R288, R289, R290, R299, R300). -/
def Obligations.WaitsParkAndWake : Prop :=
  (∀ (f : FmtC) (s : State) (v : View) (s1 : State) (c : CtrPlace), s.view = some v →
    ctrCauses f false true false v ++ zeroCauses f.d = [] → CounterReady s v f false false s1 c →
    let s2 := s1.ctrHome c
    let x := ctrValue s2 c
    (reached x (readS64 v f.sb) = true →
      ∃ t, exec (.cwait f) s = .next t ∧ MovesOn v.p.pend v.p.fmask v s2 t) ∧
    (reached x (readS64 v f.sb) = false → v.t.preempt ≠ none → v.p.exp = none →
      ∃ t u, exec (.cwait f) s = .next t ∧ t.find v.sl = some u ∧ OnlySlot v u ∧ u.p.pc = v.p.retire.pc ∧
        u.p.status = .stopped ∧ t.waiters = s2.waiters) ∧
    (reached x (readS64 v f.sb) = false → v.t.preempt = none →
      ∃ t u w, exec (.cwait f) s = .next t ∧ t.find v.sl = some u ∧ OnlySlot v u ∧ u.p.pc = v.p.pc ∧
        u.p.status = .parkedCtr false ∧ t.waiters = s2.waiters ++ [w] ∧ w.sl = v.sl ∧ w.ctr = c ∧
        w.thr = readS64 v f.sb ∧ w.hit = false ∧ w.seq = s2.nextSeq ∧ t.mem = s2.mem ∧
        (w.polling = true ↔ ctrHomeSize c ≤
          (s2.waiters.filter fun y => !y.polling && !y.hit && decide (ctrHome s2 y.ctr = ctrHome s2 c)).length))) ∧
  (∀ (f : FmtC) (s : State) (v : View) (s1 : State) (c d : CtrPlace), s.view = some v →
    noNwCauses f.c ++ guardCauses v f.c ++ ctrFlagCauses f false true false ++ srcCauses v false (.sreg 4) f.sa ++
      srcCauses v false (.sreg 4) f.sb ++ (if 1 < f.d.toNat then [0x03] else []) = [] → v.active f.c ≠ 0 →
    WalkReady s v ((readQuad v f.sa).extractLsb' 0 64) false → WalkReady s v ((readQuad v f.sa).extractLsb' 64 64) false →
    ctrBoth s v ((readQuad v f.sa).extractLsb' 0 64) ((readQuad v f.sa).extractLsb' 64 64) = (s1, .ok (c, d)) →
    ctrNeeds s1 false c = [] → ctrNeeds s1 false d = [] →
    let s2 := (s1.ctrHome c).ctrHome d
    let ra := reached (ctrValue s2 c) ((readQuad v f.sb).extractLsb' 0 64)
    let rb := reached (ctrValue s2 d) ((readQuad v f.sb).extractLsb' 64 64)
    (ra = true ∧ rb = true ∨ f.d = 1 ∧ (ra = true ∨ rb = true) →
      ∃ t, exec (.cwait2 f) s = .next t ∧ MovesOn v.p.pend v.p.fmask v s2 t) ∧
    (¬(ra = true ∧ rb = true ∨ f.d = 1 ∧ (ra = true ∨ rb = true)) → v.t.preempt = none →
      ∃ t u ws, exec (.cwait2 f) s = .next t ∧ t.find v.sl = some u ∧ OnlySlot v u ∧ u.p.pc = v.p.pc ∧
        u.p.status = .parkedCtr (decide (f.d = 1)) ∧ t.waiters = s2.waiters ++ ws ∧ t.mem = s2.mem ∧
        (∀ w ∈ ws, w.sl = v.sl ∧ w.hit = false) ∧
        ws.map (fun w => (w.ctr, w.thr)) = (if ra then [] else [(c, (readQuad v f.sb).extractLsb' 0 64)]) ++
          if rb then [] else [(d, (readQuad v f.sb).extractLsb' 64 64)]) ∧
    (¬(ra = true ∧ rb = true ∨ f.d = 1 ∧ (ra = true ∨ rb = true)) → v.t.preempt ≠ none → v.p.exp = none →
      ∃ t u, exec (.cwait2 f) s = .next t ∧ t.find v.sl = some u ∧ OnlySlot v u ∧ u.p.pc = v.p.retire.pc ∧
        u.p.status = .stopped ∧ t.waiters = s2.waiters)) ∧
  (∀ (s : State) (v : View) (w : Waiter) (any : Bool), s.find w.sl = some v → v.p.status = .parkedCtr any →
    s.waiters.find? (fun x => decide (x.seq = w.seq)) = some w →
    let rest := s.waiters.filter fun x => decide (x.seq ≠ w.seq)
    let due := w.hit = true ∧ ∀ x ∈ s.waiters, x.hit = true → x.ctr = w.ctr → w.seq ≤ x.seq
    (due → any = true ∨ w.bad = true ∨ (∀ x ∈ rest, x.sl ≠ w.sl) →
      ∃ t u, exec (.waiterWake w.seq) s = .next t ∧
        OnlyWave v.sl { s with waiters := rest.filter fun x => decide (x.sl ≠ w.sl) } t ∧ t.find v.sl = some u ∧
        OnlySlot v u ∧ u.p = { v.p with status := .running }.retire) ∧
    (due → any = false → w.bad = false → (∃ x ∈ rest, x.sl = w.sl) →
      exec (.waiterWake w.seq) s = .next { s with waiters := rest }) ∧
    (¬due → exec (.waiterWake w.seq) s = .next s)) ∧
  (∀ (s : State) (v : View) (w : Waiter) (any : Bool), s.find w.sl = some v → v.p.status = .parkedCtr any →
    s.waiters = [w] → w.polling = true →
    (reached (ctrValue s w.ctr) w.thr = true →
      ∃ t u, exec (.parkedPollingReread w.sl) s = .next t ∧ t.waiters = [] ∧ t.find v.sl = some u ∧ OnlySlot v u ∧
        u.p = { v.p with status := .running }.retire)) ∧
  (∀ (s : State) (sl : SlotId),
    (∀ w ∈ s.waiters, w.sl = sl → w.polling = true → reached (ctrValue s w.ctr) w.thr = false) →
    ∃ near, exec (.parkedPollingReread sl) s = .next { s with near := near })

/-- With nothing wrong and an active lane: SEGNEW makes a zero, dirty, resident segment in a free descriptor and
attaches the team, starts the evictions it needs and waits, or answers why not; SEGATT attaches to a segment of the
cluster or finds the team attached, with .fill places an evicted one and owes its add, and otherwise misses, waits or
answers why not; SEGDET and SEGREL wait for commands that use the handle, release and detach or stay; SEGFREE removes the
segment with its attachments or answers BUSY; SEGEVICT starts the eviction and owes its add, or makes it where nothing
has to be written; SEGQRY answers the query word, zero for a name not found. Where it says more than these rules, it says
the model’s choice in log entries 14, 58, 59, 112, 121, 123, 124 and 125 (R155, R159, R163, R165, R166, R167, R168, R169, R170, R171, R172). -/
def Obligations.SegmentOperationsComplete : Prop :=
  (∀ (f : FmtW) (s : State) (v : View), s.view = some v →
    segCauses f 0x0007 2 4 (some .ld) v ++ plainRegCauses f.sb ++ srcCauses v false (.sreg 1) f.sb = [] →
    v.p.count .ld < 64 → v.active f.c ≠ 0 →
    let name := ((readQuad v f.sa).extractLsb' 0 64).toNat
    let back := (readQuad v f.sa).extractLsb' 64 64
    let n := (readS32 v f.sb).toNat
    let wrong := name = 0 ∨ back = 0 ∨ back.toNat % 4096 ≠ 0 ∨ n = 0 ∨ (if f.m.getLsbD 0 then 4096 else 192) < n
    (wrong → ∃ t, exec (.segnew f) s = .next t ∧ MovesOn (v.p.pend ++ [v.ordered (handlePair f.d 0 5)]) v.p.fmask v s t) ∧
    (¬wrong → (s.segment? v.t.ctx name).isSome = true →
      ∃ t, exec (.segnew f) s = .next t ∧ MovesOn (v.p.pend ++ [v.ordered (handlePair f.d 0 1)]) v.p.fmask v s t) ∧
    (¬wrong → s.segment? v.t.ctx name = none → v.t.attach.length = 16 →
      ∃ t, exec (.segnew f) s = .next t ∧ MovesOn (v.p.pend ++ [v.ordered (handlePair f.d 0 8)]) v.p.fmask v s t) ∧
    (¬wrong → s.segment? v.t.ctx name = none → v.t.attach.length < 16 →
      let stripe := stripeFor s v.t (f.m.getLsbD 0)
      let room := roomFor s (clusterOf v.t.core) stripe n
      (runTooBig stripe n = true ∨ room = .noSpace →
        ∃ t, exec (.segnew f) s = .next t ∧ MovesOn (v.p.pend ++ [v.ordered (handlePair f.d 0 3)]) v.p.fmask v s t) ∧
      (runTooBig stripe n = false → room = .noDesc →
        ∃ t, exec (.segnew f) s = .next t ∧ MovesOn (v.p.pend ++ [v.ordered (handlePair f.d 0 4)]) v.p.fmask v s t) ∧
      (∀ l, runTooBig stripe n = false → room = .wait l → exec (.segnew f) s = .next (s.evictAndWait v l))) ∧
    (¬wrong → s.segment? v.t.ctx name = none → v.t.attach.length < 16 →
      runTooBig (stripeFor s v.t (f.m.getLsbD 0)) n = false → ∀ d,
      roomFor s (clusterOf v.t.core) (stripeFor s v.t (f.m.getLsbD 0)) n = .now d →
      ∃ t g s1, exec (.segnew f) s = .next t ∧
        MovesOn (v.p.pend ++ [v.ordered (handlePair f.d g.handle 0)]) v.p.fmask v s1 t ∧
        s1 = { s with segs := s.segs ++ [g], gens := s1.gens, teams := s1.teams } ∧ g.ctx = v.t.ctx ∧ g.name = name ∧
        g.size = n ∧ g.backing = back ∧ g.state = .resident ∧ g.data = [] ∧ g.dirty = List.range n ∧ g.desc = d ∧
        g.level1 = f.m.getLsbD 0 ∧ g.persist = f.m.getLsbD 1 ∧ g.cnt = f.m.getLsbD 2 ∧ g.gen ≠ 0 ∧
        (t.team? v.sl.team).map Team.attach = some (v.t.attach ++ [(name, g.handle)]))) ∧
  (∀ (f : FmtW) (s : State) (v : View), s.view = some v →
    segCauses f (if f.m.getLsbD 3 then 0x00F8 else 0x0008) 2 2 (some .ld) v ++
      (if f.m.getLsbD 3 then plainRegCauses f.sb ++ srcCauses v false (.sreg 2) f.sb ++
        (if segSco f = 7 then [0x04] else []) else zeroCauses f.sb) = [] →
    v.p.count .ld < 64 → v.active f.c ≠ 0 → (s.ctx? v.t.ctx).map Context.ended ≠ some true →
    let name := (readS64 v f.sa).toNat
    let fil := f.m.getLsbD 3
    let ans (h : Word) (st : Nat) (s1 : State) := ∃ t, exec (.segatt f) s = .next t ∧
      MovesOn (v.p.pend ++ [v.ordered (handlePair f.d h st)]) v.p.fmask v s1 t
    let missed (sub : Nat) := ∃ t, exec (.segatt f) s = .next t ∧ AttachMissed v name sub s t
    (name = 0 → ans 0 5 s) ∧
    (name ≠ 0 → segFor s v.t name = none → (fil = true → ans 0 2 s) ∧ (fil = false → missed 2)) ∧
    (∀ g, name ≠ 0 → segFor s v.t name = some g →
      let owe (s1 : State) := if fil = false then s1
        else if g.state = .resident then s1.segAdd v.t.ctx (segAddOf f v) else s1.oweAdd g (segAddOf f v)
      let here := g.cluster = clusterOf v.t.core
      let stripe := stripeFor s v.t g.level1
      let room := roomFor s (clusterOf v.t.core) stripe g.size
      (g.state = .evicting → exec (.segatt f) s = .next (s.putSlot v { v.p with stalled := true })) ∧
      (g.state = .evicted → fil = false → missed 1) ∧
      (g.state = .evicted → fil = true →
        (v.t.attach.length = 16 → ans 0 8 s) ∧
        (v.t.attach.length ≠ 16 → runTooBig stripe g.size = true ∨ room = .noSpace → ans 0 3 s) ∧
        (v.t.attach.length ≠ 16 → runTooBig stripe g.size = false →
          (room = .noDesc → ans 0 4 s) ∧
          (∀ l, room = .wait l → exec (.segatt f) s = .next (s.evictAndWait v l)) ∧
          (∀ d, room = .now d → ∃ t g1 s1, exec (.segatt f) s = .next t ∧
            MovesOn (v.p.pend ++ [v.ordered (handlePair f.d g1.handle 0)]) v.p.fmask v s1 t ∧
            s1 = { s with segs := s1.segs, gens := s1.gens, teams := s1.teams } ∧
            s1.segment? v.t.ctx name = some g1 ∧ g1.state = .refilling ∧ g1.missing = List.range g.size ∧
            g1.data = [] ∧ g1.desc = d ∧ g1.cluster = clusterOf v.t.core ∧ g1.stripe = stripe ∧
            g1.adds = [segAddOf f v] ∧ g1.size = g.size ∧ g1.backing = g.backing ∧
            (t.team? v.sl.team).map Team.attach = some (v.t.attach ++ [(name, g1.handle)])))) ∧
      (g.state = .resident ∨ g.state = .refilling → here →
        (v.t.attachedTo name = true → ans g.handle 0 (owe s)) ∧
        (v.t.attachedTo name = false → v.t.attach.length = 16 → ans 0 8 s) ∧
        (v.t.attachedTo name = false → v.t.attach.length ≠ 16 →
          ans g.handle 0 (owe (s.attachTo v.t name g.handle)) ∧
          ((s.attachTo v.t name g.handle).team? v.sl.team).map Team.attach =
            some (v.t.attach ++ [(name, g.handle)]))) ∧
      (g.state = .resident ∨ g.state = .refilling → ¬here →
        (fil = false → missed 3) ∧
        (fil = true → pinCount s g ≠ 0 ∨ segWaited s g = true ∨ g.stuck = true ∨ g.state = .refilling → ans 0 6 s) ∧
        (fil = true → pinCount s g = 0 → segWaited s g = false → g.stuck = false → g.state = .resident →
          exec (.segatt f) s = .next (s.evictAndWait v [(g.ctx, g.name)]))))) ∧
  (∀ (f : FmtW) (s : State) (v : View) (i : Instr) (detach : Bool), s.view = some v →
    segCauses f 0 1 1 none v ++ zeroCauses f.sb = [] → v.activeTo f.c f.d ≠ 0 →
    (i = .segdet f ∧ detach = true ∨ i = .segrel f ∧ detach = false) →
    let h := readS32 v f.sa
    ((∀ p ∈ v.t.attach, p.2 ≠ h) → ∃ t, exec i s = .next t ∧ SaysNow f.d 7 v s t) ∧
    ((∃ p ∈ v.t.attach, p.2 = h) → (s.cmds.any fun c => decide (c.team = v.t.id) && c.uses h) = true →
      exec i s = .next (s.putSlot v { v.p with stalled := true })) ∧
    (∀ p, (v.t.attach.find? fun p => p.2 = h) = some p →
      (s.cmds.any fun c => decide (c.team = v.t.id) && c.uses h) = false →
      releaseNeeds s v 0xFFFF 4 ++ coverNeeds s (queueWrote v.t p.1) = [] →
      ∃ t s1, exec i s = .next t ∧ SaysNow f.d 0 v s1 t ∧
        s1 = { s.segRelease v p.1 with teams := s1.teams, segs := s1.segs } ∧
        (t.team? v.sl.team).map Team.attach =
          some (if detach then v.t.attach.filter fun x => x.2 ≠ h else v.t.attach))) ∧
  (∀ (f : FmtW) (s : State) (v : View), s.view = some v → segCauses f 0 1 2 none v ++ zeroCauses f.sb = [] →
    v.activeTo f.c f.d ≠ 0 →
    let name := (readS64 v f.sa).toNat
    (segFor s v.t name = none → ∃ t, exec (.segfree f) s = .next t ∧ SaysNow f.d 2 v s t) ∧
    (∀ g, segFor s v.t name = some g → g.state ≠ .evicted →
      (g.state ≠ .resident ∨ (if v.t.attachedTo name then 1 else 0) < pinCount s g ∨ segWaited s g = true) →
      ∃ t, exec (.segfree f) s = .next t ∧ SaysNow f.d 6 v s t) ∧
    (∀ g, segFor s v.t name = some g →
      (g.state = .evicted ∨ g.state = .resident ∧ pinCount s g ≤ (if v.t.attachedTo name then 1 else 0) ∧
        segWaited s g = false) →
      ∃ t, exec (.segfree f) s = .next t ∧ SaysNow f.d 0 v (s.dropSeg v.t.ctx name) t ∧
        t.segment? v.t.ctx name = none ∧ ∀ tm ∈ t.teams, tm.ctx = v.t.ctx → tm.attachedTo name = false)) ∧
  (∀ (f : FmtW) (s : State) (v : View), s.view = some v →
    segCauses f 0x00F0 1 2 none v ++ plainRegCauses f.sb ++ srcCauses v false (.sreg 2) f.sb ++
      (if segSco f = 7 then [0x04] else []) = [] → v.activeTo f.c f.d ≠ 0 →
    let name := (readS64 v f.sa).toNat
    (segFor s v.t name = none → ∃ t, exec (.segevict f) s = .next t ∧ SaysNow f.d 2 v s t) ∧
    (∀ g, segFor s v.t name = some g → (g.state = .refilling ∨ g.state = .resident ∧
        (pinCount s g ≠ 0 ∨ segWaited s g = true ∨ g.stuck = true)) →
      ∃ t, exec (.segevict f) s = .next t ∧ SaysNow f.d 6 v s t) ∧
    (∀ g, segFor s v.t name = some g →
      (g.state = .evicted → ∃ t, exec (.segevict f) s = .next t ∧ SaysNow f.d 0 v (s.segAdd v.t.ctx (segAddOf f v)) t) ∧
      (g.state = .evicting → ∃ t, exec (.segevict f) s = .next t ∧ SaysNow f.d 0 v (s.oweAdd g (segAddOf f v)) t)) ∧
    (∀ g, segFor s v.t name = some g → g.state = .resident → pinCount s g = 0 → segWaited s g = false → g.stuck = false →
      ∃ t g' s1, exec (.segevict f) s = .next t ∧ SaysNow f.d 0 v s1 t ∧ t.segment? v.t.ctx name = some g' ∧
        g'.size = g.size ∧ g'.backing = g.backing ∧
        (g.dirty ≠ [] → g'.state = .evicting ∧ g'.adds = g.adds ++ [segAddOf f v] ∧ s1 = { s with segs := s1.segs }) ∧
        (g.dirty = [] → g'.state = .evicted ∧ g'.gen = 0 ∧ g'.adds = []))) ∧
  (∀ (f : FmtW) (s : State) (v : View), s.view = some v → segCauses f 0 4 2 (some .ld) v ++ zeroCauses f.sb = [] →
    v.p.count .ld < 64 → v.active f.c ≠ 0 →
    ∃ t, exec (.segqry f) s = .next t ∧ MovesOn (v.p.pend ++ [v.ordered (Pend.scal .ld f.d 4
      (some (((segFor s v.t (readS64 v f.sa).toNat).map (segQuery s v.t)).getD 0)))]) v.p.fmask v s t)

/-- CJOIN makes the team a member; CLEAVE is refused with status 10 while the group holds a segment over its core, and
otherwise ends its membership once every write to its scratchpad is performed; a refill brings the granule's backing
bytes and the last one makes the segment resident; a write-back puts the granule's bytes at its backing address and
the last one leaves the segment evicted. Where it says more than these rules, it says the model’s choice in log
entries 14 and 56 (R153, R167, R174, R176, R177). -/
def Obligations.SharingGroupAndSegmentEngine : Prop :=
  (∀ (f : FmtW) (s : State) (v : View), s.view = some v → groupCauses f v = [] → v.activeTo f.c f.d ≠ 0 →
    (∃ t s1, exec (.cjoin f) s = .next t ∧ SaysNow f.d 0 v s1 t ∧ s1 = { s with teams := s1.teams } ∧
      (t.team? v.sl.team).map Team.member = some true) ∧
    (groupPinned s v.t = true → ∃ t, exec (.cleave f) s = .next t ∧ SaysNow f.d 10 v s t) ∧
    (groupPinned s v.t = false → v.t.member = false → ∃ t, exec (.cleave f) s = .next t ∧ SaysNow f.d 0 v s t) ∧
    (groupPinned s v.t = false → v.t.member = true →
      releaseNeeds s v 0xFFFF 2 ++ coverNeeds s (revokedWrite v.t.id) = [] →
      ∃ t s1, exec (.cleave f) s = .next t ∧ SaysNow f.d 0 v s1 t ∧
      (t.team? v.sl.team).map Team.member = some false ∧
      ∀ w ∈ t.writes, (∀ p ∈ w.bytes, ∀ o, p.1 ≠ .scratch v.t.id o))) ∧
  (∀ (s s1 : State) (ctx name g : Nat) (x : Segment) (pa mt : Nat), s.segment? ctx name = some x → x.state = .refilling →
    x.missing.contains g = true → g < 4096 →
    ctxTarget s ctx (x.backing + BitVec.ofNat 64 (4096 * g)) 4096 .copySrc = (s1, .ok (.phys pa mt)) → s1.segment? ctx name = some x →
    walkNeeds s ctx (x.backing + BitVec.ofNat 64 (4096 * g)) = [] → s1.owedAdds = [] →
    spanNeeds s1 false 4096 (.phys pa mt) = [] → spanPoisoned s1 4096 (.phys pa mt) = false → x.adds = [] →
    ∃ t y, exec (.segmentRefillGranule ctx name g) s = .next t ∧ t.segment? ctx name = some y ∧
      y.missing = x.missing.filter (fun n => decide (n ≠ g)) ∧ y.state = (if y.missing = [] then .resident else .refilling) ∧
      (∀ i, i < 4096 → cellGet y.data (4096 * g + i) = physByte s1 (.engine s1 x) (pa + i)) ∧
      (∀ a, a / 4096 ≠ g → cellGet y.data a = cellGet x.data a) ∧ t.mem = s1.mem ∧ y.dirty = x.dirty) ∧
  (∀ (s0 s1 : State) (ctx name g : Nat) (x : Segment) (pa mt : Nat), coverNeeds s0 (segWrite ctx name) = [] →
    let s := s0.segSettle ctx name
    s.segment? ctx name = some x → x.state = .evicting →
    x.dirty.contains g = true → WritesOk s1 → (∀ h ∈ s1.hostLines, h.dirty = []) →
    (∀ w ∈ s1.writes, ∀ p ∈ w.bytes, ∀ a, p.1 ≠ .phys a) →
    ctxTarget s ctx (x.backing + BitVec.ofNat 64 (4096 * g)) 4096 .copyDst = (s1, .ok (.phys pa mt)) → s1.segment? ctx name = some x →
    walkNeeds s ctx (x.backing + BitVec.ofNat 64 (4096 * g)) = [] →
    spanNeeds s1 true 4096 (.phys pa mt) = [] → (∀ p ∈ x.poison, p.1 ≠ g) → x.adds = [] →
    ∃ t y, exec (.segmentWritebackGranule ctx name g) s0 = .next t ∧ t.segment? ctx name = some y ∧
      (∀ i, i < 4096 → cellGet t.mem (pa + i) = cellGet x.data (4096 * g + i)) ∧
      (∀ a, (∀ i, i < 4096 → a ≠ pa + i) → cellGet t.mem a = cellGet s1.mem a) ∧
      ((x.dirty.filter fun n => decide (n ≠ g)) ≠ [] → y.state = .evicting ∧ y.data = x.data ∧
        y.dirty = x.dirty.filter fun n => decide (n ≠ g)) ∧
      ((x.dirty.filter fun n => decide (n ≠ g)) = [] → y.state = .evicted ∧ y.data = [] ∧ y.gen = 0 ∧ y.dirty = []))

/-- With nothing wrong, a lane active, its accumulator or slot present and free, and the bytes of .core it reads or writes
there and in place: MZERO clears, MLDB loads a slot's lines and scale data, MMA, MMAM and MDIST step every element, MTOPK
and MSTAT leave results pending, MEPI binds the block it read, MSPILL writes the image and MFILL restores one; each
answers a next state with nothing else changed, what preserved order puts before its reads performed. Where it says more
than these rules, it says the model’s choice in log entries 16, 60, 62 to 69, 115 and 128 (R254, R260, R261, R262, R263, R265,
R266, R268, R272, R273). -/
def Obligations.MatrixOperationsComplete : Prop :=
  (∀ (f : FmtX) (s : State) (v : View) (a : Acc), s.view = some v → mxCtlCauses f.c v ++ mzeroCauses f = [] →
    MatrixFree v f.c ([f.d.toNat], []) → v.t.accs[f.d.toNat]? = some a →
    ∃ t, exec (.mzero f) s = .next t ∧ MovesOn v.p.pend v.p.fmask v
      (s.setAcc v.t.id f.d.toNat { tyI := decide (f.fa = 3), res := false, sat := f.xb.getLsbD 0, el := [] }) t) ∧
  (∀ (f : FmtX) (s : State) (v : View), s.view = some v →
    mxCtlCauses f.c v ++ (zeroCauses f.d ++ srcCauses v false (.plain 4) f.sa ++ srcCauses v false mxScalar f.sb ++
      zeroCauses f.sc ++ usedCauses f.fa ++ usedCauses f.fb ++ usedCauses f.xb) = [] →
    let n := (readS32 v f.sb).toNat
    let d := tileOf (readQuad v f.sa)
    let runs := (List.range 32).flatMap fun i => (d.lineRef 8 i).runs
    MatrixFree v f.c ([], [n]) → n < v.t.wslots.length → d.readOk = true → CoreReadable s v f.str runs →
    let s1 := coreAfter s v f.str runs
    ∃ t w, exec (.mldb f) s = .next t ∧
      MovesOn v.p.pend v.p.fmask v (s1.modTeam v.t.id fun t => { t with wslots := t.wslots.set n w }) t ∧
      w.v = true ∧ w.win = false ∧ w.sk = d.sk ∧
      (∀ i j, i < 32 → j < 128 → cellGet w.lines (128 * i + j) = coreByte s1 v (d.row i + BitVec.ofNat 64 j)) ∧
      (∀ i j, i < 32 → d.sk = 1 → j < 8 →
        cellGet w.scale (8 * i + j) = coreByte s1 v (d.base + BitVec.ofNat 64 (d.soff + 8 * i) + BitVec.ofNat 64 j)) ∧
      ∀ i j, i < 32 → d.sk = 2 → j < 4 →
        cellGet w.scale (8 * i + j) = coreByte s1 v (d.base + BitVec.ofNat 64 (d.soff + 4 * i) + BitVec.ofNat 64 j)) ∧
  (∀ (f : FmtX) (s : State) (v : View) (a : Acc) (w : WSlot) (i : Instr) (masked dist : Bool) (x : MxArgs), s.view = some v →
    (i = .mma f ∧ masked = false ∧ dist = false ∧ x = slotArgs f v ∧
        mxCtlCauses f.c v ++ (stepCauses f v ++ zeroCauses f.sc ++ keepCauses f) = [] ∨
      i = .mmam f ∧ masked = true ∧ dist = false ∧ x = stepArgs f v ∧
        mxCtlCauses f.c v ++ (stepCauses f v ++ maskCauses v false f.sc ++ keepCauses f) = [] ∨
      i = .mdist f ∧ masked = true ∧ dist = true ∧ x = stepArgs f v ∧
        mxCtlCauses f.c v ++ (stepCauses f v ++ maskCauses v true f.sc ++ usedCauses f.xb ++
          (if mxInt f.fa.toNat then [0x04] else [])) = []) →
    let d := tileOf (readQuad v f.sa)
    let quad := masked && decide (f.sc ≠ 0x87)
    let dep := if quad then maskDepth x.c else mxDepth f.fa.toNat
    let m := if masked then x.c else fullMask
    let line := d.lineRef (mxDepth f.fa.toNat / 32)
    let runs := (List.range 32).flatMap fun i => (line i).runs
    MatrixFree v f.c ([f.d.toNat], [(readS32 v f.sb).toNat]) → v.t.accs[f.d.toNat]? = some a →
    v.t.wslots[(readS32 v f.sb).toNat]? = some w → w.v = true → d.readOk = true → scaleTyOk d.sk f.fa.toNat = true →
    (quad = true → dep ≤ mxDepth f.fa.toNat ∧ x.c.extractLsb' 96 32 = 0) → a.tyI = mxInt f.fa.toNat →
    (a.tyI = true ∨ a.res = false) → w.fits s f.fb.toNat = true → CoreReadable s v f.str runs →
    let s1 := coreAfter s v f.str runs
    let row (i : Nat) : OpLine :=
      opLine f.fa.toNat d.sk ((line i).coreBytes s1 v).2 ((line i).coreBytes s1 v).1
    ∃ t, exec i s = .next t ∧ MovesOn v.p.pend v.p.fmask v
      (s1.setAcc v.t.id f.d.toNat (a.step
        { keep := !dist && f.xb.getLsbD 0, dist := dist, rm := rowMask m, cm := colMask m, dep := dep }
        ((List.range 32).map fun i => (i, row i)) (w.columns s f.fb.toNat))) t) ∧
  (∀ (f : FmtX) (s : State) (v : View) (a : Acc), s.view = some v → v.p.count .ld < 64 →
    mxCtlCauses f.c v ++ (accCauses f.d ++ topkDst f v ++ zeroCauses f.sb ++ maskCauses v true f.sc ++
      (if f.fa = 9 ∨ f.fa = 3 then [] else [0x04]) ++ usedCauses f.fb ++ usedCauses f.str) = [] →
    MatrixFree v f.c ([f.d.toNat], []) → v.t.accs[f.d.toNat]? = some a → a.tyI = decide (f.fa = 3) →
    ∃ t act, exec (.mtopk f) s = .next t ∧
      MovesOn (v.p.pend ++ [v.ordered (Pend.vec .ld f.sa (topkCount f) act
        (topkLane a (f.xb.getLsbD 3) (colMask (argMask v f.sc))))]) v.p.fmask v s t ∧
      ∀ l, l < 96 → act.getLsbD l =
        (decide (l < 64) && (rowMask (argMask v f.sc)).getLsbD (l % 32) && v.p.owned.getLsbD l)) ∧
  (∀ (f : FmtW) (s : State) (v : View), s.view = some v →
    mxCtlCauses f.c v ++ (zeroCauses f.d ++ srcCauses v false (.plain 2) f.sa ++ zeroCauses f.sb ++ zeroCauses f.sc ++
      usedCauses (f.m.extractLsb' 0 12)) = [] → MatrixFree v f.c ([], []) →
    let a := readS64 v f.sa
    let str := f.m.extractLsb' 12 4
    let runs : List Run := [{ addr := a, n := 64, al := 1 }]
    a.toNat % 64 = 0 → CoreReadable s v str runs →
    let s1 := coreAfter s v str runs
    let e := BitVec.ofNat 512 (coreNum s1 v a 64)
    epiOk e = true →
    ∃ t u, exec (.mepi f) s = .next t ∧ MovesOn v.p.pend v.p.fmask v s1 t ∧ t.find v.sl = some u ∧ u.p.epi = some e ∧
      u.p.epib = a) ∧
  (∀ (f : FmtX) (s : State) (v : View) (a : Acc), s.view = some v → mxCtlCauses f.c v ++ imageCauses f v = [] →
    MatrixFree v f.c ([f.d.toNat], []) → v.t.accs[f.d.toNat]? = some a →
    let d := tileOf (readQuad v f.sa)
    let image := ((List.range 32).flatMap fun i => placed (d.row i) (imageRow a i)) ++
      placed (d.row 32) (bytesOf (0xA5000000 + a.bits) 16)
    d.imageOk = true → d.base.toNat % 4 = 0 → (∀ x ∈ image, CoreByteReady s v .store x.1) →
    ∃ t s1, exec (.mspill f) s = .next t ∧ MovesOn v.p.pend v.p.fmask v s1 t ∧ CoreWrites v f.str image s s1) ∧
  (∀ (f : FmtX) (s : State) (v : View) (a : Acc), s.view = some v →
    mxCtlCauses f.c v ++ imageCauses f v = [] → MatrixFree v f.c ([f.d.toNat], []) → v.t.accs[f.d.toNat]? = some a →
    let d := tileOf (readQuad v f.sa)
    let runs : List Run := ((List.range 32).map fun i => { addr := d.row i, n := 128, al := 1 }) ++
      [{ addr := d.row 32, n := 16, al := 4 }]
    d.imageOk = true → CoreReadable s v f.str runs →
    let s1 := coreAfter s v f.str runs
    let row (i : Nat) : List Byte := coreBytes s1 v (d.row i) 128
    let word := coreNum s1 v (d.row 32) 16
    imageStateOk word ((List.range 32).map row) = true →
    ∃ t b, exec (.mfill f) s = .next t ∧ MovesOn v.p.pend v.p.fmask v (s1.setAcc v.t.id f.d.toNat b) t ∧
      b.bits = word % 8 ∧
      ∀ i j, i < 32 → j < 32 → cellGet b.el (32 * i + j) = ((fillRow b.res (row i))[j]?).getD 0) ∧
  (∀ (f : FmtW) (s : State) (v : View), s.view = some v → v.p.count .ld < 64 →
    mxCtlCauses f.c v ++ (plainRegCauses f.d ++ dstCauses v (some .ld) (.scal 4) f.d ++
      srcCauses v false (if mstatKind f = 2 then mxScalar else .none) f.sa ++ zeroCauses f.sb ++ zeroCauses f.sc ++
      usedCauses (f.m.extractLsb' 8 8) ++ (if mstatKind f = 3 then [0x04] else [])) = [] →
    MatrixFree v f.c (mstatNames f) → mgRuns v (mstatNames f) = false → ∀ y,
    (mstatKind f = 0 ∧ (v.t.accs[mstatNum f]?).map Acc.bits = some y ∨
      mstatKind f = 1 ∧ (v.t.wslots[mstatNum f]?).map WSlot.bits = some y ∨
      mstatKind f = 2 ∧ ∃ a, v.t.accs[mstatNum f]? = some a ∧ y = a.bits * 2 ^ 32 +
        (a.value ((readS32 v f.sa).extractLsb' 0 5).toNat ((readS32 v f.sa).extractLsb' 8 5).toNat).toNat) →
    ∃ t, exec (.mstat f) s = .next t ∧
      MovesOn (v.p.pend ++ [v.ordered (Pend.scal .ld f.d 4 (some (BitVec.ofNat 128 y)))]) v.p.fmask v s t)

/-- After a step of 32 rows and columns element (i, j) is the step of the old element on row i and column j: for
integers the old value plus the dot product, narrowed as SAT says, and unchanged where masked, for 32 FP32 terms one
rounding of the old value plus their exact sum, each term past the depth counted as +0; MFILL of a row
as MSPILL wrote it gives its elements back; an engine write is seen by its wave at the addresses of its runs and nowhere
else. Where it says more than these rules, it says the model’s choice in log entries 67 and 116 (R81, R84, R85, R90,
R258, R263, R272). -/
def Obligations.MatrixElementsAndImages : Prop :=
  (∀ (a : Acc) (k : KStep) (rows : List (Nat × OpLine)) (cols : List OpLine) (i j : Nat) (r c : OpLine),
    rows.map Prod.fst = List.range 32 → cols.length = 32 → rows[i]? = some (i, r) → cols[j]? = some c →
    cellGet (a.step k rows cols).el (32 * i + j) = stepElem k a i j (cellGet a.el (32 * i + j)) r c ∧
    (a.step k rows cols).res = k.keep ∧ (a.step k rows cols).tyI = a.tyI ∧ (a.step k rows cols).sat = a.sat) ∧
  (∀ (a : Acc) (k : KStep) (i j : Nat) (x : Word) (r c : List Int), k.keep = false → a.res = false →
    (k.rm.getLsbD i = true → k.cm.getLsbD j = true → stepElem k a i j x (.int r) (.int c) =
      narrowInt true a.sat 32 (x.toInt + (((r.zip c).take k.dep).map fun t => t.1 * t.2).sum)) ∧
    ((k.rm.getLsbD i && k.cm.getLsbD j) = false → stepElem k a i j x (.int r) (.int c) = x)) ∧
  (∀ (a : Acc) (k : KStep) (i j : Nat) (x : Word) (r c : List FVal), r.length = 32 → c.length = 32 →
    k.rm.getLsbD i = true → k.cm.getLsbD j = true → k.dist = false →
    stepElem k a i j x (.flt r) (.flt c) = BitVec.ofNat 32 (froundSum .f32 .rne false false []
      [fread .f32 x.toNat, (fsum false ((if k.dep < 32 then [.fin false 0 0] else []) ++
        ((r.zip c).take k.dep).map fun t => (fprod t.1 t.2).1)).1]).1) ∧
  (∀ (a : Acc) (i : Nat), i < 32 → a.res = false →
    fillRow false (imageRow a i) = (List.range 32).map fun j => cellGet a.el (32 * i + j)) ∧
  (∀ (a : Acc) (i : Nat), i < 32 → a.res = true →
    (∀ j, j < 32 → cellGet a.el (32 * i + j) = BitVec.ofNat 32 (tri24Add (cellGet a.el (32 * i + j)).toNat 0) ∧
      (cellGet a.el (32 * i + j)).toNat < 2 ^ 24) →
    fillRow true (imageRow a i) = (List.range 32).map fun j => cellGet a.el (32 * i + j)) ∧
  (∀ (a : Acc) (i j : Nat), a.res = false → a.value i j = cellGet a.el (32 * i + j)) ∧
  (∀ (s s1 : State) (v : View) (spc : Nat) (str : BitVec 4) (runs : List Out) (ps : List (Target × Nat)),
    engWalks s v spc .store (runs.map fun r => { addr := r.addr, n := r.data.length, al := r.al }) = [] →
    engPieces v spc .store (runs.map fun r => { addr := r.addr, n := r.data.length, al := r.al }) s = (s1, .ok ps) →
    (ps.flatMap fun p => spanNeeds s1 true p.2 p.1) = [] → (∀ e ∈ s1.comb, e.core ≠ v.t.core) → s1.lateReds = [] →
    ∃ s2, engWrite s v spc str runs = (s2, .ok ()) ∧ EngineWrote v ps runs s1 s2 ∧ s2.teams = s1.teams ∧
      EngineFrame s1 s2)

/-- With nothing wrong MSTORE writes, for each selected row and column, the bytes of the epilogue of the element at
base plus row times stride plus column times size; MGEMM holds its slot and starts at the place %mxst gives; each
sequencer step clears a new tile’s accumulator, does one row and moves on by rows, K steps, the store of the tile, columns
of tiles and rows of tiles, or stops at a pre-emption point when one is asked; after the last its slot goes on with %mxst
zero and the completion add made after the release; an operation that waited is accepted with the same effect. Where it
says more than these rules, it says the model’s choice in log entries 12, 16, 63 to 66, 69 and 115 (R260, R268, R271,
R274, R276, R278, R279, R280). -/
def Obligations.MatrixStoresWaitsAndSequences : Prop :=
  (∀ (f : FmtX) (s s1 : State) (v : View) (a : Acc) (e : BitVec 512), s.view = some v →
    mxCtlCauses f.c v ++ (accCauses f.d ++ srcCauses v false (.plain 4) f.sa ++ zeroCauses f.sb ++ maskCauses v true f.sc ++
      usedCauses f.fa ++ usedCauses f.fb ++ usedCauses (f.xb.extractLsb' 2 2) ++
      (if f.xb.extractLsb' 0 2 = 3 then [0x04] else [])) = [] →
    MatrixFree v f.c ([f.d.toNat], []) → v.t.accs[f.d.toNat]? = some a → EpiBound s v a.tyI s1 e →
    let d := tileOf (readQuad v f.sa)
    let n := epiSize (epiOty e)
    let m := argMask v f.sc
    let rows := maskBits (BitVec.ofNat 32 (epiField e 0x20 0 32) &&& rowMask m)
    let cols := maskBits (BitVec.ofNat 32 (epiField e 0x24 0 32) &&& colMask m)
    d.rsv = false → d.sk = 0 → d.soff = 0 → d.base.toNat % n = 0 → d.stride % n = 0 →
    ((rows = [] ∨ cols = []) → ∃ t, exec (.mstore f) s = .next t ∧ MovesOn v.p.pend v.p.fmask v s1 t) ∧
    (∀ s2, storeRows s1 v f.str (outSpace (f.xb.toNat % 4)) e a d.base d.stride 0 rows cols = (s2, .ok ()) →
      ∃ t, exec (.mstore f) s = .next t ∧ MovesOn v.p.pend v.p.fmask v s2 t ∧ EngineFrame s1 s2) ∧
    (let bias := vecRuns (decide (epiBias e ≠ 0)) (epiBias e) (epiSize (epiBty e)) 0 cols
     let scl := vecRuns (decide (epiSmd e = 2)) (epiScla e) 4 0 cols
     let s2 := coreAfter s1 v f.str (bias ++ scl)
     let num (l : List Run) (j : Nat) : Nat := ((l[j]?).map fun r => coreNum s2 v r.addr r.n).getD 0
     let out := rows.flatMap fun i => cols.zipIdx.flatMap fun c =>
       placed (d.base + BitVec.ofNat 64 (i * d.stride + c.1 * n))
         (bytesOf (epiElem e a.tyI (a.value i c.1) (num bias c.2) (num scl c.2)) n)
     rows ≠ [] → cols ≠ [] → f.xb.extractLsb' 0 2 = 0 → (bias ++ scl = [] ∨ epiField e 0x10 16 3 = 1) →
     CoreReadable s1 v f.str (bias ++ scl) → (∀ x ∈ out, CoreByteReady s2 v .store x.1) →
     ∃ t s3, exec (.mstore f) s = .next t ∧ MovesOn v.p.pend v.p.fmask v s3 t ∧ CoreWrites v f.str out s2 s3)) ∧
  (∀ (s s1 : State) (v : View) (str : BitVec 4) (spc : Nat) (e : BitVec 512) (a : Acc) (base : Dword) (stride c0 : Nat)
      (rows cols : List Nat) (vs : List (Nat × Nat × Nat)), rows ≠ [] → cols ≠ [] →
    epiVectors s v str e c0 cols = (s1, .ok vs) →
    storeRows s v str spc e a base stride c0 rows cols = engWrite s1 v spc str (rows.flatMap fun i => vs.map fun c =>
      { addr := base + BitVec.ofNat 64 (i * stride + c.1 * epiSize (epiOty e)), al := epiSize (epiOty e)
        data := bytesOf (epiElem e a.tyI (a.value i c.1) c.2.1 c.2.2) (epiSize (epiOty e)) })) ∧
  (∀ (f : FmtW) (s s1 : State) (v : View) (r : MgRun), s.view = some v → mgemmCauses f v = [] → v.active f.c ≠ 0 →
    mgemmPlan f (readS64 v f.sa) v s = (s1, .ok r) →
    exec (.mgemm f) s = .next (s1.putSlot v { v.p with replay := false, status := .mgemm, mg := some r }) ∧ EngineFrame s s1) ∧
  (∀ (f : FmtW) (s : State) (v : View), s.view = some v → mgemmCauses f v = [] → v.active f.c ≠ 0 → f.m.getLsbD 11 = false →
    let a := readS64 v f.sa
    let str := f.m.extractLsb' 12 4
    let head : List Run := [{ addr := a, n := 128, al := 1 }]
    a.toNat % 128 = 0 → CoreReadable s v str head →
    let s1 := coreAfter s v str head
    let d := BitVec.ofNat 1024 (coreNum s1 v a 128)
    let p := mgStart v.p.mxst
    let b : Dword := d.extractLsb' 0x100 64
    let block : List Run := [{ addr := b, n := 64, al := 1 }]
    let e := BitVec.ofNat 512 (coreNum (coreAfter s1 v str block) v b 64)
    mgAcc d < v.t.accs.length → mgSlot0 d + mgNt d * mgKs d ≤ v.t.wslots.length → mgOk d = true → p.1 < mgMt d →
    p.2.1 < mgNt d → p.2.2.1 < mgKs d →
    let run (e : Option (BitVec 512)) : MgRun :=
      { desc := d, epi := e, m := p.1, n := p.2.1, k := p.2.2.1, row := p.2.2.2.1, store := p.2.2.2.2, str := str.toNat
        started := v.p.mxst.getLsbD 63 }
    (b = 0 → mgOutOk d 4 = true →
      exec (.mgemm f) s = .next (s1.putSlot v { v.p with replay := false, status := .mgemm, mg := some (run none) })) ∧
    (b ≠ 0 → b.toNat % 64 = 0 → CoreReadable s1 v str block → epiOk e = true → mgOutOk d (epiSize (epiOty e)) = true →
      exec (.mgemm f) s = .next ((coreAfter s1 v str block).putSlot v
        { v.p with replay := false, status := .mgemm, mg := some (run (some e)) }))) ∧
  (∀ (f : FmtW) (s : State) (v : View), s.view = some v → mgemmCauses f v = [] → v.active f.c = 0 → v.p.replay = false →
    ∃ t, exec (.mgemm f) s = .next t ∧ MovesOn v.p.pend v.p.fmask v s t) ∧
  (∀ (s : State) (v : View) (r : MgRun), s.find v.sl = some v → v.p.status = .mgemm → v.p.mg = some r → r.m < mgMt r.desc →
    v.p.live = true → v.t.preempt = none →
    (r.store = true ∨ r.row = 0 → mxBusy v true r.names = false) →
    let s0 := if r.started then s else
      s.setAcc v.t.id (mgAcc r.desc) (.zero (mxInt (mgFa r.desc)) (decide (mgField r.desc 0x38 13 1 = 1)))
    let q := { r with started := true }
    ∀ v0 s1 s2, s0.find v.sl = some v0 → (if r.store then mgStoreRow v0 q s0 else mgStepRow v0 q s0) = (s1, .ok s2) →
    exec (.mgemmSequencerStep v.sl) s = .next (s2.putSlot v0 { v.p with mg := some q.next, waitTeam := none })) ∧
  (∀ (s : State) (v : View) (r : MgRun) (a : Acc) (w : WSlot),
    let d := r.desc
    let fa := mgFa d
    let str := BitVec.ofNat 4 r.str
    let runs := r.lineRef.runs
    v.t.accs[mgAcc d]? = some a → v.t.wslots[mgSlot0 d + r.n * mgKs d + r.k]? = some w → w.v = true → a.tyI = mxInt fa →
    (a.tyI = true ∨ a.res = false) → w.fits s (mgFb d) = true → mgField d 0x38 20 2 = 0 → CoreReadable s v str runs →
    let s1 := coreAfter s v str runs
    let bytes := r.lineRef.coreBytes s1 v
    ∃ x, mgStepRow v r s = (x, .ok (s1.setAcc v.t.id (mgAcc d) (a.step
      { keep := a.res && decide (r.row < 31), dist := false, rm := rowMask fullMask, cm := colMask fullMask, dep := mxDepth fa }
      [(r.row, opLine fa (mgAsk d) bytes.2 bytes.1)] (w.columns s (mgFb d)))))) ∧
  (∀ r : MgRun, r.row < 32 →
    r.next.row = (r.row + 1) % 32 ∧ (r.row < 31 → r.next = { r with row := r.row + 1 }) ∧
    (r.row = 31 → r.store = false → r.next.store = decide (mgKs r.desc ≤ r.k + 1) ∧ r.next.m = r.m ∧ r.next.n = r.n) ∧
    (r.row = 31 → r.store = true → r.next.store = false ∧ r.next.k = 0 ∧ r.next.started = false ∧
      (r.n + 1 < mgNt r.desc → r.next.n = r.n + 1 ∧ r.next.m = r.m) ∧
      (mgNt r.desc ≤ r.n + 1 → r.next.n = 0 ∧ r.next.m = r.m + 1))) ∧
  (∀ (s : State) (v : View) (r : MgRun), s.find v.sl = some v → v.p.status = .mgemm → v.p.mg = some r →
    r.m < mgMt r.desc → r.started = true → r.store = false → r.row = 0 → v.p.live = true → v.t.preempt.isSome = true →
    v.p.exp = none → mxBusy v true r.names = false →
    exec (.mgemmSequencerStep v.sl) s =
      .next (s.putSlot v { v.p with status := .stopped, mg := none, mxst := r.mxst 0 })) ∧
  (∀ (s s1 : State) (v : View) (r : MgRun), s.find v.sl = some v → v.p.status = .mgemm → v.p.mg = some r →
    mgMt r.desc ≤ r.m → v.p.live = true →
    let a := mgCaddr r.desc
    let clus := decide (mgField r.desc 0x38 17 1 = 1)
    let str : BitVec 16 := 1 <<< r.str
    let sco := mgField r.desc 0x38 14 3
    (a = 0 → exec (.mgemmSequencerStep v.sl) s = .next (s.putSlot v v.p.mgEnd)) ∧
    (∀ c, a ≠ 0 → (clus = false → xlateNeeds s v.t.core v.t.ctx a true = [] ∧ fabricOf s v.t.ctx a = none) →
      (if clus then (s, ctrSeg s v.t a) else ctrGlob s v.t.core v.t.ctx a true) = (s1, .ok (.here c)) →
      ctrNeeds s1 true c = [] → releaseNeeds s1 v str sco = [] → ctrPoisoned s1 c = false →
      exec (.mgemmSequencerStep v.sl) s = .next
        ((((((if clus then s1 else s1.markCtr v.t.core v.t.ctx a).release v str sco).recall none (targetLines c.target)).ctrAdd c
          (BitVec.ofNat 64 (mgField r.desc 0x3C 0 16))).1).putSlot v v.p.mgEnd))) ∧
  (∀ p : Slot, p.mgEnd.mg = none ∧ p.mgEnd.mxst = 0 ∧
    (p.exp = none → p.rep = none → p.mgEnd.pc = p.pc + 8 ∧ p.mgEnd.status = .running ∧ p.mgEnd.pend = p.pend)) ∧
  (∀ (s s0 s1 : State) (v : View) (word : Dword) (x : MxArgs) (c : Ctl) (body : MxBody) (p : Slot), s.find v.sl = some v →
    v.p.status = .accepting word x → mxBody (decodeWord word) = some (c, body) →
    mxBusy v false (mxNames (decodeWord word) x) = false → v.p.live = true →
    let v1 := { v with p := { v.p with status := .running, waitTeam := none } }
    body x v1 s = (s0, .ok (s1, p)) →
    exec (.matrixAcceptance v.sl) s = .next (s1.putSlot v1 ({ p with replay := false }.afterOther c.ch))) ∧
  (∀ (s : State) (v : View) (f : FmtX) (word : Dword) (x : MxArgs) (a : Acc), s.find v.sl = some v →
    v.p.status = .accepting word x → decodeWord word = .mspill f → mxBusy v false ([f.d.toNat], []) = false →
    v.p.live = true → v.t.accs[f.d.toNat]? = some a →
    let v1 := { v with p := { v.p with status := .running, waitTeam := none } }
    let d := tileOf x.a
    let image := ((List.range 32).flatMap fun i => placed (d.row i) (imageRow a i)) ++
      placed (d.row 32) (bytesOf (0xA5000000 + a.bits) 16)
    d.imageOk = true → d.base.toNat % 4 = 0 → (∀ y ∈ image, CoreByteReady s v .store y.1) →
    ∃ t s1, exec (.matrixAcceptance v.sl) s = .next t ∧ MovesOn v.p.pend v.p.fmask v1 s1 t ∧ CoreWrites v f.str image s s1)

/-- With nothing wrong, room in the queue and nothing the release has to wait for, a transfer operation releases the
streams its descriptor names, appends its command behind the team's earlier commands and markers of the queue with its
twelve words, and counts it; a full queue makes it wait; QFENCE performs the queues' writes when nothing is outstanding and
otherwise leaves a marker behind it; QSTAT leaves the status word pending; without an active lane each only goes on.
Where it says more than these rules, it says the model’s choice in log entries 12, 15 and 118 (R125, R126, R128, R130,
R138, R141, R142). -/
def Obligations.CopyCommandsComplete : Prop :=
  (∀ (f : FmtW) (s : State) (v : View) (i : Instr) (op : Nat), s.view = some v → copyCauses f op v = [] →
    (i = .copy f ∧ op = 0 ∨ i = .copyh f ∧ op = 1 ∨ i = .copyg f ∧ op = 2 ∨ i = .copyw f ∧ op = 3) →
    let q := (f.m.extractLsb' 13 3).toNat
    let strm := (readScalarReg v f.sc.toNat 2).extractLsb' 16 16
    (v.active f.c ≠ 0 → queueUsed s v.t.core q < 32 → releaseNeeds s v strm 1 = [] →
      let s1 := s.release v strm 1
      ∃ t, exec i s = .next t ∧ MovesOn v.p.pend v.p.fmask v
        ({ s1 with
          cmds := s1.cmds ++ [{ id := s1.nextCmd, core := v.t.core, team := v.t.id, ctx := v.t.ctx, sl := v.sl, op := op
                                qid := q, m := f.m, words := quadWords v f.sa ++ quadWords v f.sb ++ quadWords v f.sc
                                rowIdx := 0, fenceMask := 0, status := .queued, trs := []
                                after := (s1.cmds.filter fun c => decide (c.team = v.t.id) && c.inQueue q).map CopyCmd.id }]
          nextCmd := s1.nextCmd + 1
          teams := s1.teams.map fun x =>
            if x.id = v.t.id then { x with qstats := x.qstats.modify q fun y => { y with iss := y.iss + 1 } } else x }) t ∧
        s1.cmds = s.cmds) ∧
    (v.active f.c ≠ 0 → 32 ≤ queueUsed s v.t.core q → exec i s = .next (s.putSlot v { v.p with stalled := true })) ∧
    (v.active f.c = 0 → ∃ t, exec i s = .next t ∧ MovesOn v.p.pend v.p.fmask v s t)) ∧
  (∀ (f : FmtC) (s : State) (v : View), s.view = some v → noNwCauses f.c ++ guardCauses v f.c = [] →
    f.d = 0 → f.sa = 0 → f.sb = 0 → f.rsv = false → f.far = false → f.near = false → f.acq = false → f.rel = false →
    f.scope = 0 → f.mask.extractLsb' 8 8 = 0 →
    let mask := f.mask.extractLsb' 0 8
    let before := s.cmds.filter fun c => decide (c.team = v.t.id) && decide (c.op ≠ 8) && mask.getLsbD c.qid
    (v.active f.c = 0 → ∃ t, exec (.qfence f) s = .next t ∧ MovesOn v.p.pend v.p.fmask v s t) ∧
    (v.active f.c ≠ 0 → (∃ q, q < 8 ∧ mask.getLsbD q = true ∧ 32 ≤ queueUsed s v.t.core q) →
      exec (.qfence f) s = .next (s.putSlot v { v.p with stalled := true })) ∧
    (v.active f.c ≠ 0 → (∀ q, q < 8 → mask.getLsbD q = true → queueUsed s v.t.core q < 32) →
      (before = [] → coverNeeds s (queueOf v.t.id mask) = [] → ∃ t, exec (.qfence f) s = .next t ∧
        MovesOn v.p.pend v.p.fmask v (s.settleQueues v.t.id mask) t) ∧
      (before ≠ [] ∨ coverNeeds s (queueOf v.t.id mask) ≠ [] → ∃ t, exec (.qfence f) s = .next t ∧
        MovesOn v.p.pend v.p.fmask v
          { s with
            cmds := s.cmds ++ [{ id := s.nextCmd, core := v.t.core, team := v.t.id, ctx := v.t.ctx, sl := v.sl, op := 8, qid := 0
                                 m := 0, words := [], rowIdx := 0, fenceMask := mask, status := .queued, trs := []
                                 after := before.map CopyCmd.id }]
            nextCmd := s.nextCmd + 1 } t))) ∧
  (∀ (f : FmtW) (s : State) (v : View), s.view = some v → v.p.count .ld < 64 →
    noNwCauses f.c ++ guardCauses v f.c ++ zeroCauses f.sa ++ zeroCauses f.sb ++ zeroCauses f.sc ++
      (if f.m.extractLsb' 0 13 = 0 then [] else [0x02]) ++ dstCauses v (some .ld) (.scal 2) f.d = [] →
    ∃ t, exec (.qstat f) s = .next t ∧ MovesOn
      (if v.active f.c = 0 then v.p.pend else v.p.pend ++ [v.ordered (Pend.scal .ld f.d 2
        (some (BitVec.ofNat 128 (queueWord s v.t (f.m.extractLsb' 13 3).toNat))))]) v.p.fmask v s t) ∧
  (∀ (s : State) (t : Team) (q : Nat) (x : QStat), t.qstats[q]? = some x → x.fcause < 256 → x.frow < 2 ^ 16 →
    let w := BitVec.ofNat 64 (queueWord s t q)
    w.extractLsb' 48 16 = x.iss ∧ w.extractLsb' 32 16 = x.cmp ∧ (w.extractLsb' 26 6).toNat = min (queueUsed s t.core q) 32 ∧
    (w.extractLsb' 24 2).toNat = queueState s t.id q ∧ (w.extractLsb' 16 8).toNat = x.fcause ∧
    (w.extractLsb' 0 16).toNat = x.frow)

/-- The front command becomes active when its descriptor passes and halts with cause 9 and a record when it does not;
a transfer of at most 128 bytes within a destination block, when its queue’s turn has come, leaves the source bytes (a
halo’s, an indexed row’s, converted where COPY converts) as the queue’s writes to the destination, which no agent sees
before they are performed, and moves the command on; one of COPYW leaves a line and its window’s scale data in its weight
slot; after the last row the writes are released, the add is made and the command leaves its queue, counted as complete.
Where it says more than these rules, it says the model’s choice in log entries 12, 15, 53 to 55, 117, 118, 135 and 152
(R130, R131, R132, R133, R134, R135, R136, R139, R142, R144). -/
def Obligations.CopyEventsComplete : Prop :=
  (∀ (s : State) (core q team : Nat) (c : CopyCmd) (t : Team), frontCmd s core q team = some c →
    placedTeam s team = some t → c.status = .queued → (∀ i ∈ c.after, ∀ x ∈ s.cmds, x.id ≠ i) →
    (∀ x ∈ s.cmds, x.id = c.id → x = c) → (∀ x ∈ s.cmds, x.op = 8 → ∃ i ∈ x.after, ∃ y ∈ s.cmds, y.id = i) →
    coverNeeds s (queueOf team (1 <<< q)) = [] →
    (copyDescOk s t c = true → exec (.copyCommandStart core q team) s =
      .next ((s.settleQueues team (1 <<< q)).modCmd c.id fun c => { c with status := .active 0 0 })) ∧
    (copyDescOk s t c = false → (s.ctx? t.ctx).map Context.ended ≠ some true →
      ∃ u r c', exec (.copyCommandStart core q team) s = .next u ∧ c' ∈ u.cmds ∧ c'.id = c.id ∧ c'.status = .halted ∧
        u.recs = s.recs ++ [r] ∧ r.cls = .copy ∧ r.cause = 9 ∧ r.cmd = some c.id ∧ r.qid = c.qid)) ∧
  (∀ (s : State) (core q team row off : Nat) (c : CopyCmd) (t : Team) (src dst : Target), frontCmd s core q team = some c →
    placedTeam s team = some t → nextQueue s core = some q → (∀ x ∈ s.cmds, x.id = c.id → x = c) →
    c.status = .active row off → row < c.rows →
    c.op = 0 → c.sty = 0 → c.dty = 0 → c.sspc ≠ 0 → c.dspc ≠ 0 → off < c.rowb →
    let da := c.dbase + BitVec.ofNat 64 row * (c.word 7).signExtend 64 + BitVec.ofNat 64 off
    let sa := c.sbase + BitVec.ofNat 64 row * (c.word 6).signExtend 64 + BitVec.ofNat 64 off
    let len := min (c.rowb - off) (128 - da.toNat % 128)
    sa.toNat % 128 + len ≤ 128 → teamTarget s t c.sspc sa len 1 .copySrc = .ok src →
    teamTarget s t c.dspc da len 1 .copyDst = .ok dst → spanNeeds s false len src = [] → spanNeeds s true len dst = [] →
    spanPoisoned s len src = false → (∀ e ∈ s.comb, e.core ≠ c.core) → s.lateReds = [] → leavesPackage s dst = false →
    ∃ u c' new, exec (.copyTransfer core q team) s = .next u ∧ c' ∈ u.cmds ∧ c'.id = c.id ∧
      c'.status = (if off + len < c.rowb then .active row (off + len) else .active (row + 1) 0) ∧ u.waiters = s.waiters ∧
      u.recs = s.recs ∧ u.mem = s.mem ∧ u.writes = s.writes ++ new ∧
      (∀ w ∈ new, w.seat = .queue t c.qid ∧ w.stream = none ∧ w.level = 0 ∧ w.deps = []) ∧
      (∀ l, finalByte u l = (storedAt dst (readTarget s (.queue t c.qid) src len) l).getD (finalByte s l)) ∧
      ∀ r l, seenByte u r l = seenByte s r l) ∧
  (∀ (s sc s1 s2 : State) (core q team row off : Nat) (c c1 : CopyCmd) (t : Team) (src : List (Option Piece)) (d : Piece),
    frontCmd s core q team = some c → placedTeam s team = some t → nextQueue s core = some q →
    (∀ x ∈ s.cmds, x.id = c.id → x = c) → c.status = .active row off → row < c.rowCount → c.op < 3 → off < c.rowLen →
    let da := c.dbase + BitVec.ofNat 64 row * (c.word 7).signExtend 64 + BitVec.ofNat 64 off
    let len := min (c.rowLen - off) (128 - da.toNat % 128)
    let s0 := s.serve core q
    let ps := src.filterMap id
    let seat := Seat.queue t c.qid
    ((c.op ≠ 2 ∨ off ≠ 0) → c1 = c ∧ sc = s0) →
    (c.op = 2 → off = 0 → ∃ tg n, readIndex s0 t c row = .ok (tg, n) ∧ targetPoisoned s0 c.isz tg = false ∧
      targetNeeds s0 false c.isz tg = [] ∧ c1 = { c with rowIdx := n } ∧
      sc = s0.modCmd c.id fun x => { x with rowIdx := n }) →
    (c.sspc = 0 → ∀ r ∈ (copyRun c1 row off len).toList, ∀ y ∈ cutRun (r.2 + 1) r.1 r.2,
      xlateNeeds sc c.core c.ctx y.1 false = []) →
    (c.dspc = 0 → xlateNeeds sc c.core c.ctx da true = [] ∧ (canonical da = true → fabricOf sc c.ctx da = none)) →
    copySource sc t c1 row off len = (s1, .ok src) → copyPieces t true c.dspc .copyDst c.id [(da, len)] s1 = (s2, .ok [d]) →
    (∀ p ∈ d :: ps, ∀ pkg va, p.t ≠ .remote pkg va) → pieceNeeds s2 false ps = [] → pieceNeeds s2 true [d] = [] →
    (∀ p ∈ ps, spanPoisoned s2 p.n p.t = false) → (∀ e ∈ s2.comb, e.core ≠ c.core) → s2.lateReds = [] →
    leavesPackage s2 d.t = false →
    let data := src.flatMap fun x => match x with
      | none => [0]
      | some p => readTarget s2 seat p.t p.n
    ∃ u c' new, exec (.copyTransfer core q team) s = .next u ∧ c' ∈ u.cmds ∧ c'.id = c.id ∧
      c'.status = (if off + len < c.rowLen then .active row (off + len) else .active (row + 1) 0) ∧ u.waiters = s2.waiters ∧
      u.recs = s2.recs ∧ u.mem = s2.mem ∧ u.writes = s2.writes ++ new ∧
      (∀ w ∈ new, w.seat = seat ∧ w.stream = none ∧ w.level = 0 ∧ w.deps = []) ∧
      (∀ l, finalByte u l = (storedAt d.t (if c.op = 0 then copyElems c data else data) l).getD (finalByte s2 l)) ∧
      ∀ r l, seenByte u r l = seenByte s2 r l) ∧
  (∀ (s : State) (t : Team) (c : CopyCmd) (row off len : Nat),
    (c.op = 1 → copySource s t c row off len = (s, haloPieces s t c row ((List.range len).map fun i => off + i))) ∧
    (c.op = 2 → c.rowIdx = 2 ^ (8 * c.isz) - 1 → copySource s t c row off len = (s, .ok (List.replicate len none))) ∧
    (c.op = 2 → c.rowIdx ≠ 2 ^ (8 * c.isz) - 1 → copyRun c row off len =
      some (c.sbase + BitVec.ofNat 64 c.rowIdx * (c.word 6).signExtend 64 + BitVec.ofNat 64 off, len)) ∧
    (c.op = 0 → copyRun c row off len = some (c.sbase + BitVec.ofNat 64 row * (c.word 6).signExtend 64 +
      BitVec.ofNat 64 (off / copySize c.dty * copySize c.sty), len / copySize c.dty * copySize c.sty)) ∧
    ∀ n data, c.op = 0 → c.sty ≠ c.dty → data.length = n * copySize c.sty → ∀ i, i < n →
      ofBytes (((copyElems c data).drop (copySize c.dty * i)).take (copySize c.dty)) =
        copyConvert c (ofBytes ((data.drop (copySize c.sty * i)).take (copySize c.sty))) % 2 ^ (8 * copySize c.dty)) ∧
  (∀ (s s1 : State) (core q team row pa mt : Nat) (c : CopyCmd) (t : Team) (p : Piece) (w : WSlot),
    frontCmd s core q team = some c → placedTeam s team = some t → nextQueue s core = some q →
    (∀ x ∈ s.cmds, x.id = c.id → x = c) → c.status = .active row 0 → row < c.rowCount → c.op = 3 →
    let a := copyLineAddr c row
    let n := c.slot0 + row / 32
    let col := row % 32
    let seat := Seat.queue t c.qid
    xlateNeeds (s.serve core q) c.core c.ctx a false = [] →
    copyPieces t false 0 .weight c.id [(a, 128)] (s.serve core q) = (s1, .ok [p]) → a.toNat % 128 = 0 → p.t = .phys pa mt →
    let win := rawWindow s1 pa
    let x := (win.map s1.window).getD .zero
    let scale := lineScale s1 win pa
    spanNeeds s1 false 128 p.t = [] → spanPoisoned s1 128 p.t = false →
    (∀ b ∈ scale, snoopNeed s1 false (lineOf b) = [] ∧ s1.poison.contains (lineOf b) = false) →
    (∀ e ∈ s1.comb, e.core ≠ c.core) → s1.lateReds = [] → (win.isSome = true → x.stored ≠ 4) →
    (col = 0 ∨ c.load.head?.map Prod.fst = some win) → ((s1.team? team).bind fun t => t.wslots[n]?) = some w →
    ∃ u c' y, exec (.copyTransfer core q team) s = .next u ∧ c' ∈ u.cmds ∧ c'.id = c.id ∧ c'.status = .active (row + 1) 0 ∧
      u.mem = s1.mem ∧ u.writes = s1.writes ∧ u.recs = s1.recs ∧ u.waiters = s1.waiters ∧
      ((u.team? team).bind fun t => t.wslots[n]?) = some y ∧
      (∀ i j, j < 128 → cellGet y.lines (128 * i + j) =
        if i = col then physByte s1 seat (pa + j) else cellGet w.lines (128 * i + j)) ∧
      (∀ i j, j < 8 → cellGet y.scale (8 * i + j) =
        if i = col then ((scale[j]?).map (physByte s1 seat)).getD 0 else cellGet w.scale (8 * i + j)) ∧
      (col ≠ 31 → y.v = w.v) ∧
      (col = 31 → y.v = true ∧ y.win = win.isSome ∧ y.sk = 0 ∧ y.stf = x.stf ∧ y.ks = x.ks)) ∧
  (∀ (s : State) (core q team row off : Nat) (c : CopyCmd) (t : Team), frontCmd s core q team = some c →
    placedTeam s team = some t → c.status = .active row off → c.rowCount ≤ row →
    (c.caddr = 0 → exec (.copyCompletion core q team) s = .next (s.endCmd c)) ∧
    (∀ s1 p, c.caddr ≠ 0 → (c.m.getLsbD 1 = false → xlateNeeds s c.core c.ctx c.caddr true = []) →
      copyCounter s t c = (s1, .ok (.here p)) → ctrNeeds s1 true p = [] → ctrPoisoned s1 p = false →
      (4 ≤ c.sco → coverNeeds s1 (coveredBy (.queue t q) fun w => decide (w.seat.who = (Seat.queue t q).who)) = []) →
      exec (.copyCompletion core q team) s =
        .next (((((if c.m.getLsbD 1 then s1 else s1.markCtr c.core c.ctx c.caddr).releaseWrites (.queue t q)
          (fun w => decide (w.seat.who = (Seat.queue t q).who)) c.sco).recall none (targetLines p.target)).ctrAdd p
          (BitVec.ofNat 64 c.val)).1.endCmd c)) ∧
    (∀ x ∈ (s.endCmd c).cmds, x.id ≠ c.id ∧ x ∈ s.cmds) ∧
    ((∀ x ∈ s.cmds, ∀ y ∈ s.cmds, x.id = y.id → x = y) →
      ∀ x ∈ s.cmds, x.id ≠ c.id → x.op ≠ 8 → x ∈ (s.endCmd c).cmds) ∧
    (c.team = t.id → ((s.endCmd c).team? team).map (fun x => (x.qstats[c.qid]?).map QStat.cmp) =
      some ((t.qstats[c.qid]?).map fun x => x.cmp + 1)))

/-- With nothing wrong: SRD writes the named special to its destination group, %lane lane by lane, %mxst as a tracked
result; SWR from privileged code clears %err bits, or replaces %mxst but for its reserved bits, %epib or a fault mask word
cut to owned lanes;
GROW raises the gang count after a release and answers the old count, or all ones; LAUNCH answers 0, 1 or 2; GSW and
GRET go on in the personality at the aligned address, or stop on UNLOADED; HALT ends its context, with no release.
Where it says more than these rules, it says the model’s choice in log entries 12, 16, 23, 71 and 140 (R58, R210, R211, R323, R347,
R348, R377, R378, R395, R402, R413). -/
def Obligations.SystemOperationsComplete : Prop :=
  (∀ (f : FmtW) (s : State) (v : View), s.view = some v → srdCauses f v = [] →
    (specialNo f = 0 → ∃ t u, exec (.srd f) s = .next t ∧ OnlyWave v.sl s t ∧ t.find v.sl = some u ∧ u.p.pc = v.p.retire.pc ∧
      (f.d.toNat < 64 → ∀ n l, n < 64 → l < 96 → laneGet u.w.v n l =
        if n = f.d.toNat ∧ (v.active f.c).getLsbD l = true then BitVec.ofNat 32 l else laneGet v.w.v n l) ∧
      ∀ n, n < 64 → readSReg u.w u.p n = readSReg v.w v.p n) ∧
    (specialNo f ≠ 0 → v.activeTo f.c f.d = 0 → v.p.count .ld < 64 →
      ∃ t, exec (.srd f) s = .next t ∧ MovesOn v.p.pend v.p.fmask v s t) ∧
    (specialNo f ≠ 0 → specialNo f ≠ 0x28 → v.activeTo f.c f.d ≠ 0 →
      ∃ t u, exec (.srd f) s = .next t ∧ OnlyWave v.sl s t ∧ t.find v.sl = some u ∧ u.p.pc = v.p.retire.pc ∧
        u.w.v = v.w.v ∧ u.w.k = v.w.k ∧ ∀ n, n < 64 → readSReg u.w u.p n =
          if f.d.toNat ≤ n ∧ n < f.d.toNat + specialGroup (specialNo f) then
            ownedCut v.p n ((specialState s v (specialNo f)).extractLsb' (32 * (n - f.d.toNat)) 32)
          else readSReg v.w v.p n) ∧
    (specialNo f = 0x28 → v.activeTo f.c f.d ≠ 0 → v.p.count .ld < 64 →
      ∃ t, exec (.srd f) s = .next t ∧
        MovesOn (v.p.pend ++ [v.ordered (Pend.scal .ld f.d 2 (some (v.p.mxst.zeroExtend 128)))]) v.p.fmask v s t)) ∧
  (∀ (s : State) (v : View), specialState s v 1 = BitVec.ofNat 128 v.sl.wave ∧
    specialState s v 3 = BitVec.ofNat 128 v.t.num ∧ specialState s v 4 = BitVec.ofNat 128 v.t.gx ∧
    specialState s v 7 = BitVec.ofNat 128 v.t.stage ∧ specialState s v 0x11 = s.eqx.now.zeroExtend 128 ∧
    specialState s v 0x18 = BitVec.ofNat 128 v.t.ctx ∧
    (∀ c, s.ctx? v.t.ctx = some c → specialState s v 0x20 = c.err) ∧
    (∀ i, i < 3 → specialState s v (0x30 + i) = (v.p.fmask.extractLsb' (32 * i) 32).zeroExtend 128) ∧
    specialState s v 0x38 = v.p.epib.zeroExtend 128 ∧ (∀ n, specialGroup n ≤ 4)) ∧
  (∀ (f : FmtW) (s : State) (v : View), s.view = some v → swrCauses f s v = [] →
    (v.active f.c = 0 → ∃ t, exec (.swr f) s = .next t ∧ MovesOn v.p.pend v.p.fmask v s t) ∧
    (v.active f.c ≠ 0 → specialNo f = 0x20 → ∃ t s1, exec (.swr f) s = .next t ∧ MovesOn v.p.pend v.p.fmask v s1 t ∧
      s1 = { s with ctxs := s1.ctxs } ∧ ∀ c, s.ctx? v.t.ctx = some c → ∃ c', t.ctx? v.t.ctx = some c' ∧
        c' = { c with err := c'.err, errNow := c'.errNow } ∧ ∀ i, i < 128 → c'.err.getLsbD i =
          (c.err.getLsbD i && !(decide (i = 62 ∨ i = 63) && (readQuad v f.sa).getLsbD i))) ∧
    (v.active f.c ≠ 0 → specialNo f ≠ 0x20 → ∃ t u, exec (.swr f) s = .next t ∧ OnlyWave v.sl s t ∧
      t.find v.sl = some u ∧ OnlySlot v u ∧ u.p.pc = v.p.retire.pc ∧ u.p.bank = v.p.bank ∧ u.p.mask = v.p.mask ∧
      (specialNo f = 0x28 → u.p.mxst = readS64 v f.sa &&& 0xFFFFFFFFF000001F ∧ u.p.fmask = v.p.fmask ∧ u.p.epib = v.p.epib) ∧
      (specialNo f = 0x38 → u.p.epib = readS64 v f.sa ∧ u.p.epi = none ∧ u.p.mxst = v.p.mxst ∧ u.p.fmask = v.p.fmask) ∧
      (∀ i, i < 3 → specialNo f = 0x30 + i → u.p.mxst = v.p.mxst ∧ ∀ l, l < 96 → u.p.fmask.getLsbD l =
        if l / 32 = i then (readS32 v f.sa).getLsbD (l % 32) && v.p.owned.getLsbD l else v.p.fmask.getLsbD l))) ∧
  (∀ (f : FmtW) (s : State) (v : View), s.view = some v → growCauses f v = [] → v.activeTo f.c f.d ≠ 0 →
    (∀ l, s.launch? v.t.launch = some l → mayGrow l (readS32 v f.sa).toNat = true → releaseNeeds s v 0xFFFF 4 = [] →
      ∃ t s1, exec (.grow f) s = .next t ∧ SaysNow f.d (BitVec.ofNat 32 l.gcount) v s1 t ∧
        s1 = { s.release v 0xFFFF 4 with launches := s1.launches } ∧
        t.launch? v.t.launch = some { l with gcount := l.gcount + (readS32 v f.sa).toNat }) ∧
    ((s.launch? v.t.launch = none ∨ ∃ l, s.launch? v.t.launch = some l ∧ mayGrow l (readS32 v f.sa).toNat = false) →
      ∃ t, exec (.grow f) s = .next t ∧ SaysNow f.d 0xFFFFFFFF v s t) ∧
    (∀ l n, mayGrow l n = true ↔ l.gy = 1 ∧ l.gz = 1 ∧ l.cores = false ∧ l.gcount + n ≤ 0xFFFFFFFE)) ∧
  (∀ (f : FmtW) (s s1 s3 : State) (v : View) (x : Target) (st : Nat), s.view = some v → launchCauses f v = [] →
    v.activeTo f.c f.d ≠ 0 → v.p.replay = false → (readS64 v f.sa).toNat % 128 = 0 →
    releaseNeeds s v 0xFFFF 4 = [] → xlateNeeds s v.t.core v.t.ctx (readS64 v f.sa) false = [] →
    globTarget ((s.putSlot v v.p).release v 0xFFFF 4) v.t.core v.t.ctx (readS64 v f.sa) 128 .load = (s1, .ok x) →
    (∀ pkg va, x ≠ .remote pkg va) → spanNeeds s1 false 128 x = [] → touchNeeds s1 v.t.core x 128 = [] →
    beforeNeeds s1 v 0 [none] (readLocs s1 128 x) = [] → spanPoisoned s1 128 x = false →
    let s2 := (((s1.flushFor v.t.core x 128).forceBefore v 0 [none] (readLocs s1 128 x)).recall (some v.t.core)
      (spanLines x 128 ++ readLines s1 128 x)).fillFor v.seat x 128
    launchAppend s2 v (readS32 v f.sb).toNat (readTarget s2 v.seat x 128) = (s3, .got st) →
    ∃ t, exec (.launch f) s = .next t ∧ SaysNow f.d (BitVec.ofNat 32 st) v s3 t) ∧
  (∀ (s : State) (v : View) (q : Nat) (d : List Byte), (63 < q ∨ (s.queue q).cur.en = false ∨ (s.queue q).cur.dev = false ∨
      (s.queue q).cur.ctx ≠ v.t.ctx) → launchAppend s v q d = (s, .got 2)) ∧
  (∀ (f : FmtW) (s : State) (v : View), s.view = some v → bareCauses f.c ++ fieldZero f.d ++ srcCauses v false (.sreg 2) f.sa ++
      regOrImmCauses v false f.sb ++ fieldZero f.sc ++ fieldZero f.m = [] → v.active f.c ≠ 0 → v.p.exp = none →
    let q := (readS32 v f.sb).toNat
    (q ≤ 15 → persLoaded s v.t.ctx q = true → ∃ t u, exec (.gsw f) s = .next t ∧ OnlyWave v.sl s t ∧
      t.find v.sl = some u ∧ OnlySlot v u ∧ u.p.pers = q ∧ u.p.bank = v.p.bank ∧ u.p.mask = v.p.mask ∧
      u.p.pc = if q = 0 then readS64 v f.sa &&& ~~~7 else readS64 v f.sa &&& ~~~3) ∧
    (15 < q ∨ persLoaded s v.t.ctx q = false → (s.ctx? v.t.ctx).map Context.ended ≠ some true →
      ∃ t u r, exec (.gsw f) s = .next t ∧ t.find v.sl = some u ∧ OnlySlot v u ∧ u.p.pc = v.p.pc ∧ u.p.pers = v.p.pers ∧
        u.p.status = .held s.nextRec ∧ t.recs = s.recs ++ [r] ∧ r.cls = .pers ∧ r.cause = 1)) ∧
  (∀ (f : FmtW) (s : State) (v : View), s.view = some v → bareCauses f.c ++ fieldZero f.d ++ fieldZero f.sa ++ fieldZero f.sb ++
      fieldZero f.sc ++ fieldZero (f.m.extractLsb' 1 15) ++
      (if [50, 51, 63].any fun n => v.p.pending (.s n) then [0x06] else []) = [] → v.active f.c ≠ 0 → v.p.exp = none →
    let h := readSReg v.w v.p 63
    let q := (h.extractLsb' 0 4).toNat
    let a := pairOf (readSReg v.w v.p 50) (readSReg v.w v.p 51) +
      (if f.m.getLsbD 0 then 0 else if h.getLsbD 4 then 8 else 4)
    persLoaded s v.t.ctx q = true → ∃ t u, exec (.gret f) s = .next t ∧ OnlyWave v.sl s t ∧ t.find v.sl = some u ∧
      OnlySlot v u ∧ u.p.pers = q ∧ u.p.bank = v.p.bank ∧ u.p.mask = v.p.mask ∧
      u.p.pc = if q = 0 then a &&& ~~~7 else a &&& ~~~3) ∧
  (∀ (f : FmtW) (s : State) (v : View) (c : Context), s.view = some v → bareCauses f.c ++ fieldZero f.d ++
      regOrImmCauses v true f.sa ++ fieldZero f.sb ++ fieldZero f.sc ++ fieldZero f.m = [] →
    s.privileged v.t v.p = true → s.ctx? v.t.ctx = some c → c.ended = false →
    (v.active f.c = 0 → ∃ t, exec (.halt f) s = .next t ∧ MovesOn v.p.pend v.p.fmask v s t) ∧
    (v.active f.c ≠ 0 → ∃ t c' r, exec (.halt f) s = .next t ∧ t.ctx? v.t.ctx = some c' ∧ c' = { c with ended := true } ∧
      (∀ x ∈ t.cmds, x.ctx ≠ v.t.ctx) ∧ (∀ x ∈ t.segs, x.ctx ≠ v.t.ctx) ∧ (∀ x ∈ t.waiters, x.ctx ≠ v.t.ctx) ∧
      (∀ x ∈ t.launches, x.ctx ≠ v.t.ctx) ∧ (∀ x ∈ t.queues, x.cur.ctx = v.t.ctx → x.cur.en = false) ∧
      (∀ x ∈ t.teams, x.ctx = v.t.ctx → ∀ w ∈ x.waves, w.status = .killed ∧ w.a.live = false ∧ w.b.live = false) ∧
      (∃ pre, t.recs = pre ++ [r]) ∧ r.cls = .charge ∧ r.cause = 4 ∧ r.info2 = readS32 v f.sa ∧ r.toOs = true ∧
      t.mem = s.mem ∧ t.writes = s.writes))

/-- A line that is not held is installed with the bits that were read exactly when its code tag is the tag of those bytes,
and no other line of a cache with room changes; a line that is held stays; a guest word whose plane names a template
becomes an expansion of the substituted words, with its length, zero temporaries and a zero fault mask, from the
decoded-operation cache where that holds it; the escape word returns to personality 0 at the next 8-byte boundary; a word
no plane matches goes on in the image’s handler with the hand-over state, or stops where there is none. Where it says more
than these rules, it says the model’s choice in log entries 42 to 48 (R364, R366, R367, R369, R370, R375, R376, R382,
R384, R386). -/
def Obligations.CodeIsCachedAndGuestsAreExpanded : Prop :=
  (∀ (s : State) (core ctx va : Nat), (iline s core ctx (codeLine (BitVec.ofNat 64 va))).isSome = true →
    exec (.instructionCacheFill core ctx va) s = .next s) ∧
  (∀ (s s1 : State) (core ctx va : Nat) (bits : BitVec 1024), iline s core ctx (codeLine (BitVec.ofNat 64 va)) = none →
    codeRead s core ctx (codeLine (BitVec.ofNat 64 va)) .fetch = (s1, .ok bits) →
    ∃ t, exec (.instructionCacheFill core ctx va) s = .next t ∧ t = { s1 with icache := t.icache } ∧
      (∀ a, codeLine a = codeLine (BitVec.ofNat 64 va) → cachedWord t core ctx a = some (lineBits bits a 64)) ∧
      (∀ unit x a, (unit ≠ core ∨ x ≠ ctx ∨ codeLine a ≠ codeLine (BitVec.ofNat 64 va)) →
        (unit ≠ core ∨ (s.icache.filter fun l => decide (l.core = core)).length < 512) →
        iline t unit x a = iline s1 unit x a)) ∧
  (∀ (s s1 : State) (core ctx : Nat) (a : Dword) (k : Access) (bits : BitVec 1024),
    codeRead s core ctx a k = (s1, .ok bits) →
    ∃ c s0 s2 x tag, s.ctx? ctx = some c ∧ globTarget s core ctx a 128 k = (s0, .ok x) ∧
      readTag s0 core c a = (s2, .ok ([], tag)) ∧ s1 = s2.recall none (spanLines x 128) ∧
      codeTag c.ckey a.toNat (readTarget s1 walkerSeat x 128) = tag ∧
      bits = BitVec.ofNat 1024 (ofBytes (readTarget s1 walkerSeat x 128))) ∧
  (∀ (s s1 : State) (core ctx va : Nat) (e : FetchFault),
    iline s core ctx (codeLine (BitVec.ofNat 64 va)) = none →
    codeRead s core ctx (codeLine (BitVec.ofNat 64 va)) .fetch = (s1, .bad e) → s.view = none →
    exec (.instructionCacheFill core ctx va) s = .next s1) ∧
  (∀ (s s1 s2 : State) (v : View) (c : Context) (img gen : Nat) (lo : Word) (m : Image) (n : Nat) (b : BitVec 1024)
      (tp ws : _), s.find v.sl = some v → v.issues = true → v.p.pers ≠ 0 → v.p.exp = none → s.ctx? v.t.ctx = some c →
    c.pers[v.p.pers - 1]? = some (img, true, gen) → cachedHalf s v.t.core v.t.ctx v.p.pc = some lo →
    (∀ y ∈ s.decOps, y.same (decKey s v [] 0) = false) →
    imageFor s v.t.core v.t.ctx v.p.pers img gen = (s1, .ok m) →
    let hi := (cachedHalf s1 v.t.core v.t.ctx (v.p.pc + 4)).map BitVec.toNat
    let pl := imgPlane m n
    let x := if pl.len then lo.toNat + 2 ^ 32 * hi.getD 0 else (lo.toNat + 2 ^ 32 * hi.getD 0) % 2 ^ 32
    let ds := (List.range 8).map (imgField m pl.pat)
    searchGuest m lo.toNat hi = .plane n → (hi = none → searchGuest m lo.toNat none ≠ .needHi) → pl.tp = true →
    templateLine s1 v.t.core v.t.ctx img pl.tpl = (s2, .ok b) → templateOf b = some tp →
    substAll m ds (ds.map fun d => extractField d x) tp = some ws →
    ∃ t u, exec (.guestDecode v.sl) s = .next t ∧
      OnlyWave v.sl (s2.putOps (decKey s2 v ws (if pl.len then 8 else 4))) t ∧ t.find v.sl = some u ∧ OnlySlot v u ∧
      u.p = { v.p with exp := some { words := ws, idx := 0, len := (if pl.len then 8 else 4), e := [], x := [] }
                       fmask := 0, rep := none, replay := false }) ∧
  (∀ (s : State) (v : View) (c : Context) (img gen : Nat) (lo : Word) (y : DecOps), s.find v.sl = some v →
    v.issues = true → v.p.pers ≠ 0 → v.p.exp = none → s.ctx? v.t.ctx = some c →
    c.pers[v.p.pers - 1]? = some (img, true, gen) → cachedHalf s v.t.core v.t.ctx v.p.pc = some lo →
    s.decOps.find? (fun y => y.same (decKey s v [] 0)) = some y →
    exec (.guestDecode v.sl) s = .next ((s.putOps y).putSlot v
      { v.p with exp := some { words := y.words, idx := 0, len := y.len, e := [], x := [] }
                 fmask := 0, rep := none, replay := false })) ∧
  (∀ (s s1 : State) (v : View) (c : Context) (img gen len : Nat) (lo : Word) (m : Image), s.find v.sl = some v →
    v.issues = true → v.p.pers ≠ 0 → v.p.exp = none → s.ctx? v.t.ctx = some c →
    c.pers[v.p.pers - 1]? = some (img, true, gen) → cachedHalf s v.t.core v.t.ctx v.p.pc = some lo →
    (∀ y ∈ s.decOps, y.same (decKey s v [] 0) = false) →
    imageFor s v.t.core v.t.ctx v.p.pers img gen = (s1, .ok m) →
    let hi := (cachedHalf s1 v.t.core v.t.ctx (v.p.pc + 4)).map BitVec.toNat
    searchGuest m lo.toNat hi = .escape len →
    ∃ t u, exec (.guestDecode v.sl) s = .next t ∧ OnlyWave v.sl s1 t ∧ t.find v.sl = some u ∧ OnlySlot v u ∧
      u.p.pers = 0 ∧ u.p.pc = (v.p.pc + BitVec.ofNat 64 len + 7) &&& ~~~7 ∧ u.p.bank = v.p.bank) ∧
  (∀ (s s1 : State) (v : View) (c : Context) (img gen : Nat) (lo : Word) (m : Image), s.find v.sl = some v →
    v.issues = true → v.p.pers ≠ 0 → v.p.exp = none → s.ctx? v.t.ctx = some c →
    c.pers[v.p.pers - 1]? = some (img, true, gen) → cachedHalf s v.t.core v.t.ctx v.p.pc = some lo →
    (∀ y ∈ s.decOps, y.same (decKey s v [] 0) = false) →
    imageFor s v.t.core v.t.ctx v.p.pers img gen = (s1, .ok m) →
    searchGuest m lo.toNat ((cachedHalf s1 v.t.core v.t.ctx (v.p.pc + 4)).map BitVec.toNat) = .noPlane →
    (imgHndl m ≠ 0 → v.p.pend = [] → ∃ t u, exec (.guestDecode v.sl) s = .next t ∧ OnlyWave v.sl s1 t ∧
      t.find v.sl = some u ∧ OnlySlot v u ∧ u.p.pers = 0 ∧ u.p.pc = imgHndl m ∧ u.p.svcOk = false ∧ u.p.mask = v.p.mask ∧
      u.p.exp = none ∧ u.p.pend = [] ∧ ∀ n, n < 64 → readSReg u.w u.p n =
        if n = 48 then lo else if n = 50 then v.p.pc.extractLsb' 0 32 else if n = 51 then v.p.pc.extractLsb' 32 32
        else if n = 63 then BitVec.ofNat 32 (2 ^ 5 + v.p.pers) else if n = 49 ∨ 52 ≤ n ∧ n < 60 then 0
        else readSReg v.w v.p n) ∧
    (imgHndl m ≠ 0 → v.p.pend ≠ [] → exec (.guestDecode v.sl) s = .next (s1.putSlot v { v.p with stalled := true })) ∧
    (imgHndl m = 0 → (s1.ctx? v.t.ctx).map Context.ended ≠ some true → ∃ t u r, exec (.guestDecode v.sl) s = .next t ∧
      t.find v.sl = some u ∧ OnlySlot v u ∧ u.p.pc = v.p.pc ∧ u.p.pers = v.p.pers ∧ u.p.status = .held s1.nextRec ∧
      t.recs = s1.recs ++ [r] ∧ r.cls = .pers ∧ r.cause = 4))

/-- QUEUE_ENABLE enables the copy not in force when it passes its checks and does nothing otherwise; a QVER write that
raises SEQ by one, and no other, puts the chosen copy in force; clearing REASON clears REASON and IDX only; the front
end takes record NEXT of the queue whose turn it is, moves NEXT and the turn on, and adds the launch or the FEED or
writes the reason that rejects it; an accepted launch keeps the limits of R327; FEED waits for room in the work ring
and then copies its entries and adds COUNT to the tail, a release at WSCO. Where it says more than these rules, it says the model’s
choice in log entries 6, 70 and 72 (R323, R324, R325, R326, R327, R329, R330, R424). -/
def Obligations.FrontEndEventsComplete : Prop :=
  (∀ (s : State) (q : Nat), qcbOk (s.queue q).spare = false → exec (.queueEnable q) s = .next s) ∧
  (∀ (s : State) (q : Nat), q < s.queues.length → qcbOk (s.queue q).spare = true →
    ∃ t, exec (.queueEnable q) s = .next t ∧ t = { s with queues := t.queues } ∧ (∀ i, i ≠ q → t.queue i = s.queue i) ∧
      t.queue q = { (s.queue q).modSpare (fun c => { c with en := true }) with
        next := if (s.queue q).cur.en then (s.queue q).next else 0 } ∧
      (t.queue q).spare.en = true ∧ (t.queue q).cur = (s.queue q).cur) ∧
  (∀ (s : State) (q : Nat) (v : Dword), v.extractLsb' 1 63 ≠ (s.queue q).seq + 1 → exec (.qverUpdate q v) s = .next s) ∧
  (∀ (s : State) (q : Nat) (v : Dword), q < s.queues.length → v.extractLsb' 1 63 = (s.queue q).seq + 1 →
    ∃ t, exec (.qverUpdate q v) s = .next t ∧ t = { s with queues := t.queues } ∧ (∀ i, i ≠ q → t.queue i = s.queue i) ∧
      (t.queue q).cur = (if v.getLsbD 0 then (s.queue q).c1 else (s.queue q).c0) ∧ (t.queue q).seq = (s.queue q).seq + 1 ∧
      t.queue q = { s.queue q with seq := (t.queue q).seq, sel := v.getLsbD 0, sts := (t.queue q).sts } ∧
      ((t.queue q).sts = 0 ↔ (t.queue q).cur.en = false)) ∧
  (∀ (s : State) (q : Nat), q < s.queues.length → ∃ t, exec (.reasonClear q) s = .next t ∧
    t = { s with queues := t.queues } ∧ (∀ i, i ≠ q → t.queue i = s.queue i) ∧
    t.queue q = { s.queue q with reason := 0, idx := 0 }) ∧
  (∀ (s : State) (q : Nat), feOpen s q = false → exec (.frontEndTake q) s = .next s) ∧
  (∀ (s s1 : State) (q : Nat) (c : CtrPlace), feOpen s q = true →
    ctrGot s (s.queue q).cur.ctx (s.queue q).cur.tail false = (s1, .got c) →
    (feTurn s1 ≠ some q → exec (.frontEndTake q) s = .next s) ∧
    (feTurn s1 = some q → ∀ s2 h s3 d, let x := (s1.ctrSettle c).queue q
      ctrGot (s1.ctrSettle c) x.cur.ctx x.cur.head true = (s2, .got h) →
      bytesGot s2 frontSeat x.cur.ctx (recordAddr x x.next) 128 = (s3, .got d) → frontNeeds s3 5 = [] →
      (recBits d 0 24 8 ≠ 1 → exec (.frontEndTake q) s =
        .next ((s3.feAdvance q h).feRecord q x.cur.ctx x.next (recordAddr x x.next) d none)) ∧
      (recBits d 0 24 8 = 1 → ∀ s4 k, kernelGot s3 x.cur.ctx (recBits d 0 0 16) = (s4, .got k) → exec (.frontEndTake q) s =
        .next ((s4.feAdvance q h).feRecord q x.cur.ctx x.next (recordAddr x x.next) d k)))) ∧
  (∀ (s s1 : State) (q : Nat) (e : MemFault), feOpen s q = true →
    ctrGot s (s.queue q).cur.ctx (s.queue q).cur.tail false = (s1, .bad e) →
    exec (.frontEndTake q) s = .next (s1.queueDisable q (s.queue q).cur.tail)) ∧
  (∀ (s : State) (q : Nat) (h : CtrPlace), q < s.queues.length →
    ((s.feAdvance q h).queue q).next = (s.queue q).next + 1 ∧ (s.feAdvance q h).fe.turn = (q + 1) % 64) ∧
  (∀ (s : State) (q ctx : Nat) (n a : Dword) (d : List Byte) (k : Option Kernel), q < s.queues.length →
    (recBits d 0 24 8 = 1 → ∀ l, launchCheck s q (n.toNat % 2 ^ 32) ctx d k = .ok l →
      s.feRecord q ctx n a d k = { s with launches := s.launches ++ [l], nextLaunch := s.nextLaunch + 1 }) ∧
    (recBits d 0 24 8 = 2 → feedReason d (feedOf q ctx d) = none →
      s.feRecord q ctx n a d k = { s with feeds := s.feeds ++ [feedOf q ctx d] }) ∧
    (recBits d 0 24 8 = 1 → ∀ r, launchCheck s q (n.toNat % 2 ^ 32) ctx d k = .error r →
      ((s.feRecord q ctx n a d k).queue q).reason = BitVec.ofNat 8 r ∧
      ((s.feRecord q ctx n a d k).queue q).idx = n.extractLsb' 0 32 ∧ (s.feRecord q ctx n a d k).launches = s.launches) ∧
    (recBits d 0 24 8 ≠ 1 → recBits d 0 24 8 ≠ 2 → ((s.feRecord q ctx n a d k).queue q).reason = 1)) ∧
  (∀ (s : State) (q idx ctx : Nat) (d : List Byte) (k : Kernel) (l : Launch), launchCheck s q idx ctx d (some k) = .ok l →
    1 ≤ l.teams ∧ l.teams ≤ 24 ∧ 1 ≤ l.waves ∧ l.waves ≤ 16 ∧ 1 ≤ l.stages ∧ l.stages ≤ 16 ∧ l.chipg ≤ 64 ∧
    l.lanes % 16 = 0 ∧ l.lanes * 96 * l.waves ≤ 262144 ∧ l.scrg + stackGranules l.waves ≤ 192 ∧ l.gcount = l.gx * l.gy * l.gz ∧
    0 < l.gcount ∧ l.gcount ≤ 0xFFFFFFFE ∧ l.waddr.toNat % 8 = 0 ∧ l.caddr.toNat % 8 = 0 ∧ l.status = .pending) ∧
  (∀ s : State, s.feeds = [] → exec .feed s = .next s) ∧
  (∀ (s s1 s2 : State) (f : FeedRun) (r : List FeedRun) (tl hd : CtrPlace), s.feeds = f :: r →
    ctrGot s f.ctx f.wtail true = (s1, .got tl) → ctrGot s1 f.ctx f.whead false = (s2, .got hd) →
    let s3 := (s2.ctrSettle tl).ctrSettle hd
    let t := f.t.getD (ctrValue s3 tl)
    (reached (ctrValue s3 hd) (t + BitVec.ofNat 64 f.count - BitVec.ofNat 64 (2 ^ f.logw)) = false →
      ∃ u, exec .feed s = .next u ∧ u.feeds = { f with t := some t } :: r ∧ u.mem = s3.mem ∧ u.writes = s3.writes) ∧
    (reached (ctrValue s3 hd) (t + BitVec.ofNat 64 f.count - BitVec.ofNat 64 (2 ^ f.logw)) = true →
      ∀ s4, feedCopy f t.toNat 0 s3 (f.count * f.rsz) = .done s4 → frontNeeds s4 f.wsco = [] →
        exec .feed s = .next (((s4.frontRelease f.wsco).ctrAdd tl (BitVec.ofNat 64 f.count)).1.feedEnd f)))

/-- A pending launch becomes ready when its WADDR has once been seen at its threshold and START is near, and is rejected
with 0x09 where WADDR faults; waves held for START begin when it has come; the first launch of the ready list is placed on distinct cores of
one cluster that fit, its teams starting in the state of R336; a launch whose teams are gone makes its completion add
after its writes and is gone; the replace command, the heartbeat of signed firmware and the watchdog act as R389, R425
and R426 say. Where it says more than these rules, it says the model’s choice in log entries 6, 73, 75 to 77, 98 and 134 (R328,
R331, R332, R335, R336, R389, R425, R426). -/
def Obligations.LaunchesBecomeReadyArePlacedAndComplete : Prop :=
  (∀ (s : State) (id : Nat), (s.launch? id = none ∨ (∃ l, s.launch? id = some l ∧ l.status ≠ .pending)) →
    exec (.launchReady id) s = .next s) ∧
  (∀ (s : State) (id : Nat) (l : Launch), s.launch? id = some l → l.status = .pending →
    let ready (s : State) : State :=
      { s with launches := s.launches.map fun (x : Launch) => if x.id = id then { x with status := .ready } else x }
    (l.waddr = 0 ∨ l.seen = true → exec (.launchReady id) s = .next (if startNear s l then ready s else s)) ∧
    (l.waddr ≠ 0 → l.seen = false → ∀ s1 c, ctrGot s l.ctx l.waddr false = (s1, .got c) →
      let s2 := s1.ctrSettle c
      let s3 : State := { s2 with launches := s2.launches.map fun (x : Launch) => if x.id = id then { x with seen := true } else x }
      exec (.launchReady id) s =
        .next (if reached (ctrValue s2 c) l.wthr then (if startNear s2 l then ready s3 else s3) else s2)) ∧
    (l.waddr ≠ 0 → l.seen = false → ∀ s1 e, ctrGot s l.ctx l.waddr false = (s1, .bad e) →
      exec (.launchReady id) s = .next ((s1.rejectRec l.queue l.idx 9 l.waddr).dropLaunch id))) ∧
  (∀ s : State, ∃ t, exec .startTimeReached s = .next t ∧ t = { s with teams := t.teams } ∧
    t.teams.length = s.teams.length ∧ ∀ (i : Nat) (x : Team), s.teams[i]? = some x → t.teams[i]? = some
      (if startDue s x then { x with waves := x.waves.map fun (w : Wave) => { w with a := w.a.begin_, b := w.b.begin_ } }
        else x)) ∧
  (∀ p : Slot, p.begin_.status ≠ .startHold ∧ (p.status ≠ .startHold → p.begin_ = p) ∧
    (p.status = .startHold → p.begin_ = { p with status := .running })) ∧
  (∀ (s : State) (id gang stage : Nat), (∀ l, s.launch? id = some l → l.status ≠ .ready ∨ l.nextStage ≠ some (gang, stage)) →
    exec (.gangStagePlace id gang stage) s = .next s) ∧
  (∀ (s t : State) (id gang stage : Nat) (l x : Launch) (r : List Launch), s.launch? id = some l → l.status = .ready →
    l.nextStage = some (gang, stage) → savedFirst s l.prio = false → l.bound = true → readyList s = x :: r → x.id = id →
    tryLaunch s [] x = .placed t → exec (.gangStagePlace id gang stage) s = .next t) ∧
  (∀ s : State, (readyList s).Pairwise fun a b => b.precedes s.fe.win a = false) ∧
  (∀ (s : State) (skip : List (Nat × Nat)) (l : Launch) (cl : Nat) (cores : List Nat), pickCores s skip l cl = some cores →
    cores.length = l.teams ∧ cores.Nodup ∧ ∀ c ∈ cores, c / 24 = cl ∧ coreFits s skip l.size c = true) ∧
  (∀ (s : State) (l : Launch) (gang stage cl : Nat) (cores : List Nat), l.chipg = 0 →
    (∀ g ∈ affinity s l, g.state ≠ .evicted) → ∃ t, finishPlace s l gang stage cl cores = .placed t ∧ t.mem = s.mem ∧
      t.nextTeam = s.nextTeam + cores.length ∧ t.teams.length = s.teams.length + cores.length ∧
      ∀ (i c : Nat), cores[i]? = some c → ∃ x, t.teams[s.teams.length + i]? = some x ∧ x.core = c ∧ x.num = i ∧ x.gang = gang ∧
        x.stage = stage ∧ x.launch = l.id ∧ x.ctx = l.ctx ∧ x.status = .placed ∧ x.id = s.nextTeam + i ∧
        x.scratch = [] ∧ x.lane = [] ∧ x.attach = [] ∧ (∀ a ∈ x.accs, a.el = []) ∧ (∀ w ∈ x.wslots, w.v = false) ∧
        ∀ w ∈ x.waves, w.a.live = true ∧ w.b.live = false ∧ w.stack = [] ∧ w.a.pc = l.entry ∧ w.a.pers = l.pers ∧
          w.a.mask = BitVec.allOnes 96 ∧ w.a.owned = BitVec.allOnes 96 ∧ cellGet w.s 0 = l.args.extractLsb' 0 32 ∧
          cellGet w.s 1 = l.args.extractLsb' 32 32 ∧ (∀ n, 2 ≤ n → cellGet w.s n = 0) ∧ (∀ n, cellGet w.v n = 0) ∧
          (w.a.status = if s.eqx.now.toNat < l.start then .startHold else .running)) ∧
  (∀ (s : State) (id : Nat), (∀ l, s.launch? id = some l → l.status ≠ .ready ∨ launchEmpty s l = false) →
    exec (.launchComplete id) s = .next s) ∧
  (∀ (s : State) (id : Nat) (l : Launch), s.launch? id = some l → l.status = .ready → launchEmpty s l = true →
    (l.caddr = 0 → exec (.launchComplete id) s = .next (s.dropLaunch id)) ∧
    (l.caddr ≠ 0 → ∀ s1 c, ctrGot s l.ctx l.caddr true = (s1, .got c) → (4 ≤ l.csco → coverNeeds s1 l.covered = []) →
      exec (.launchComplete id) s =
        .next (((s1.perform l.csco l.covered).ctrAdd c (BitVec.ofNat 64 l.cval)).1.dropLaunch id)) ∧
    (∀ w : PWrite, w.seat.launch = id → agentOfTeam w.seat.who = true → l.id = id → l.covered w = true) ∧
    (l.caddr ≠ 0 → ∀ s1 e, ctrGot s l.ctx l.caddr true = (s1, .bad e) →
      exec (.launchComplete id) s = .next ((s1.charge l.ctx 0x14 l.caddr 0).dropLaunch id))) ∧
  (∀ (s : State) (id : Nat), (s.dropLaunch id).launch? id = none ∧
    ∀ j, j ≠ id → (s.dropLaunch id).launch? j = s.launch? j) ∧
  (∀ s : State, s.fe.krbsy = false →
    (replaceMalformed s = true → exec .kernelReplace s = .next { s with fe := { s.fe with krsts := true } }) ∧
    (replaceMalformed s = false → s.fe.win = true →
      exec .kernelReplace s = .next { s with fe := { s.fe with krbsy := true, krsts := false } }) ∧
    (replaceMalformed s = false → s.fe.win = false → ∀ c s1 t, s.ctx? s.fe.krctx = some c →
      spanGot s c.num (BitVec.ofNat 64 (c.kitb + 16 * s.fe.kridx)) 16 .store = (s1, .got t) →
      exec .kernelReplace s = .next
        ((s1.spanWrite t (bytesOf s1.fe.krnew.toNat 16)).replaceEnd false (boundNow s1 c.num s1.fe.kridx)))) ∧
  (∀ s : State, s.fe.krbsy = true → s.fe.win = true → exec .kernelReplace s = .next s) ∧
  (∀ (s : State) (v : Dword), v = Config.firmwareBeat s.tick → exec .fehbWrite s = heartbeatOf v s ∧
    (Config.firmwareSigned s.fe.rboot = false → exec .fehbWrite s = .next { s with fe := { s.fe with fehb := v } }) ∧
    (Config.firmwareSigned s.fe.rboot = true → (s.fe.win = false ∨ s.feeds = []) → exec .fehbWrite s =
      .next { s with fe := { s.fe with fehb := v, win := false, back := false, fwup := true, fehbAge := 0 } }) ∧
    (Config.firmwareSigned s.fe.rboot = true → s.fe.win = true → s.feeds ≠ [] → exec .fehbWrite s =
      .next { s with fe := { s.fe with fehb := v, win := true, back := true, fwup := true, fehbAge := 0 } })) ∧
  (∀ s : State, (s.fe.fehbAge < 4000000 → exec .frontEndWatchdog s = .next s) ∧
    (4000000 ≤ s.fe.fehbAge → exec .frontEndWatchdog s = .next { s with fe := { s.fe with
      win := true, back := false, fwup := false, fehbAge := 0, rboot := min (s.fe.rboot + 1) (2 ^ 32 - 1) } }))

/-- A pre-emption request stands from the cycle it came, its parked slots stopping at once; the dispatcher asks only
teams of lower priority, for a ready launch that is stuck and that they let go, and none under the Winter scheduler;
after PDIST and 4,096 cycles every slot outside a chain, a REP and an expansion stops where it is, the others at its end; a
still team is saved to a free place of its save pool, or its context ends where that faults; a saved team returns to a core
that fits as its area holds it, unless its header or something it names is refused; a swap saves the longest parked teams
first, and at least one; a team with no running wave performs its exit
release and is gone; an area another package wrote is taken up as a saved team of its header’s shape. Where it says more
than these rules, it says the model’s choice in log entries 6, 78 to 82, 109, 136, 150 and 151 (R343, R344, R350, R351,
R354, R407, R408, R409, R410). -/
def Obligations.TeamsAreStoppedSavedRestoredAndEnd : Prop :=
  (∀ s : State, exec (.preemptionRequest (.os [])) s = .next s) ∧
  (∀ (s u : State) (a : Nat) (r : List Nat), exec (.preemptionRequest (.os [a])) s = .next u →
    exec (.preemptionRequest (.os (a :: r))) s = exec (.preemptionRequest (.os r)) u) ∧
  (∀ (s : State) (id : Nat), (∀ t, placedTeam s id = some t → t.preempt.isSome = true) →
    exec (.preemptionRequest (.os [id])) s = .next s) ∧
  (∀ (s : State) (id : Nat) (t : Team), placedTeam s id = some t → t.preempt = none →
    ∃ u y, exec (.preemptionRequest (.os [id])) s = .next u ∧ u.team? id = some y ∧ y.preempt = some (coreClock s t.core) ∧
      (∀ j, j ≠ id → u.team? j = s.team? j) ∧ u.mem = s.mem ∧ u.writes = s.writes ∧
      ∀ sl ∈ teamSlots t, ∀ v, u.find sl = some v → v.p.status ≠ .parkedJoin ∧ ∀ any, v.p.status ≠ .parkedCtr any) ∧
  (∀ (s : State) (l : Nat), exec (.preemptionRequest (.dispatcher l)) s =
    exec (.preemptionRequest (.os (dispatcherAsks s l))) s) ∧
  (∀ (s : State) (l id : Nat), id ∈ dispatcherAsks s l → s.fe.win = false ∧ launchStuck s l = true ∧
    launchGoes (withSaved s (teamsGoing s ++ dispatcherAsks s l)) l = true ∧
    ∃ x t, s.launch? l = some x ∧ x.status = .ready ∧ t ∈ s.teams ∧ t.id = id ∧ t.status = .placed ∧ t.preempt = none ∧
      teamPrio s t < x.prio) ∧
  (∀ (s : State) (id : Nat) (t : Team) (t0 : Nat), placedTeam s id = some t → t.preempt = some t0 →
    exec (.forcedStop id) s = .next (if coreClock s t.core < t0 + teamPdist s t + 4096 then s
      else s.modTeam id fun (x : Team) => { x with waves := x.waves.map fun (w : Wave) =>
        if w.status = .running then { w with a := w.a.force, b := w.b.force } else w })) ∧
  (∀ (s : State) (id : Nat), (∀ t, placedTeam s id = some t → t.preempt = none) → exec (.forcedStop id) s = .next s) ∧
  (∀ p : Slot, p.live = true → p.status = .running →
    (p.exp = none → p.inChain = false → p.rep = none → p.force.status = .stopped ∧ p.force.pc = p.pc ∧
      p.force.pend = p.pend ∧ p.force.bank = p.bank) ∧
    (p.exp.isSome = true ∨ p.inChain = true ∨ p.rep.isSome = true → p.force = { p with stopAtBoundary := true })) ∧
  (∀ (p : Slot) (w : Dword) (x : MxArgs), p.live = true → p.status = .accepting w x →
    p.force = { p with stopAtBoundary := true }) ∧
  (∀ (s : State) (id : Nat), (∀ t, placedTeam s id = some t → t.preempt = none ∨ teamStill s t = false) →
    exec (.teamSave id) s = .next s) ∧
  (∀ (s : State) (id : Nat) (t0 t : Team) (c : Context), placedTeam s id = some t0 → t0.preempt.isSome = true →
    teamStill s t0 = true →
    let s1 := ((teamSlots t0).foldl stopParked s).modTeam id Team.landed
    let s2 := (s1.flushComb fun e => decide (e.team = id)).scratchSettle id
    (leaveNeeds s1 id ≠ [] → exec (.teamSave id) s = .next (s.request (leaveNeeds s1 id))) ∧
    (leaveNeeds s1 id = [] → s2.team? id = some t → s2.ctx? t0.ctx = some c →
    (poolRoom s2 c (saveSize s2 t) = none → exec (.teamSave id) s = .next s) ∧
    (∀ off, poolRoom s2 c (saveSize s2 t) = some off →
      let data := saveImage s2 t s.tick
      (∀ s3, areaWrite t.ctx (c.spool + BitVec.ofNat 64 off) data s2
          (spanPieces (c.spool + BitVec.ofNat 64 off) data.length) = .ok s3 →
        exec (.teamSave id) s = .next (s3.modTeam id fun (x : Team) =>
          { x with
            status := .saved, savedAt := s.tick, saveOff := off, preempt := none, adopted := none
            savedCmds := (s.cmds.filter fun c => decide (c.team = x.id ∧ c.op ≠ 8)).map CopyCmd.id })) ∧
      (∀ s3 ns, areaWrite t.ctx (c.spool + BitVec.ofNat 64 off) data s2
          (spanPieces (c.spool + BitVec.ofNat 64 off) data.length) = .wait s3 ns →
        exec (.teamSave id) s = .next (s.request ns)) ∧
      (areaWrite t.ctx (c.spool + BitVec.ofNat 64 off) data s2
          (spanPieces (c.spool + BitVec.ofNat 64 off) data.length) = .fault →
        exec (.teamSave id) s = .next (s.endContext t.ctx 0x02 0))))) ∧
  (∀ (s : State) (c : Context) (n off : Nat), poolRoom s c n = some off → off + n ≤ 4096 * c.splen ∧
    ∀ x ∈ s.teams, x.ctx = c.num → x.status = .saved → off + n ≤ x.saveOff ∨ x.saveOff + saveSize s x ≤ off) ∧
  (∀ (t : Team) (w : Wave), w ∈ t.landed.waves → w.status = .running → w.a.pend = [] ∧ w.b.pend = []) ∧
  (∀ (s : State) (t : Team), restoreNext s = some t → restoreCores s t ≠ [] ∧ launchFirst s t = false ∧
    ∃ pre post, restoreOrder s = pre ++ t :: post ∧ ∀ x ∈ pre, restoreCores s x = [] ∨ launchFirst s x = true) ∧
  (∀ (s : State) (id core : Nat), restoreNext s = none → exec (.teamRestore id core) s = .next s) ∧
  (∀ (s : State) (id core : Nat) (t : Team) (c : Context), restoreNext s = some t →
    (t.id ≠ id ∨ (restoreCores s t).contains core = false → exec (.teamRestore id core) s = .next s) ∧
    (t.id = id → (restoreCores s t).contains core = true → s.team? id = some t →
      s.ctx? t.ctx = some c → ∀ s1 h, bytesGot s homeSeat t.ctx (c.spool + BitVec.ofNat 64 t.saveOff) 256 = (s1, .got h) →
      (∀ info, headerRefusal h = some info →
        exec (.teamRestore id core) s = .next (s1.charge t.ctx 0x03 0 info)) ∧
      (headerRefusal h = none → ∀ s2 data, areaRead t.ctx (c.spool + BitVec.ofNat 64 t.saveOff) s1 []
          (spanPieces (c.spool + BitVec.ofNat 64 t.saveOff) (saveSize s1 t)) = .ok s2 data →
        let y := teamRead s2 t data
        let cmds := areaCmds t data
        (restoreMissing s2 y c data = true →
          exec (.teamRestore id core) s = .next (s1.charge t.ctx 0x03 0 0xFFFFFFFF)) ∧
        (restoreMissing s2 y c data = false → exec (.teamRestore id core) s = .next (putBack s2 y core cmds))))) ∧
  (∀ (s : State) (t t0 : Team) (core : Nat) (cmds : List (Nat × List Byte)), s.team? t.id = some t0 →
    ∃ y, (putBack s t core cmds).team? t.id = some y ∧
    y.core = core ∧ y.status = .placed ∧ y.waves.length = t.waves.length ∧ y.scratch = t.scratch ∧ y.lane = t.lane ∧
    y.accs = t.accs ∧ y.wslots = t.wslots ∧ y.attach = t.attach ∧
    (∀ j, j ≠ t.id → (putBack s t core cmds).team? j = s.team? j) ∧
    (∀ c ∈ s.cmds, c.team = t.id → ∀ d, cmds.find? (fun x => decide (x.1 = c.id)) = some d →
      { cmdRead d.2 c with core := core } ∈ (putBack s t core cmds).cmds) ∧
    ∀ (i : Nat) (w : Wave), t.waves[i]? = some w → ∃ x, y.waves[i]? = some x ∧ x.v = w.v ∧ x.s = w.s ∧ x.k = w.k ∧
      x.stack = w.stack ∧ x.status = w.status ∧
      x.a = { w.a with status := if w.a.status = .stopped then .running else w.a.status, stopAtBoundary := false } ∧
      x.b = { w.b with status := if w.b.status = .stopped then .running else w.b.status, stopAtBoundary := false }) ∧
  (∀ (s s1 s2 : State) (die ctx off launch cluster : Nat) (c : Context) (l : Launch) (h data : List Byte),
    (s.pair die).live = true → (s.pair die).port = true → s.ctx? ctx = some c → s.launch? launch = some l → l.ctx = ctx →
    cluster < 32 → bytesGot s homeSeat ctx (c.spool + BitVec.ofNat 64 off) 256 = (s1, .got h) →
    let t := teamOfHeader s1 l cluster off h
    recBits h 0 0 32 = 0x53415645 → t.fitsACore = true → t.isNew s1 = true →
    areaRead ctx (c.spool + BitVec.ofNat 64 off) s1 []
      (spanPieces (c.spool + BitVec.ofNat 64 off) (saveSize s1 t)) = .ok s2 data →
    ∃ u, exec (.servicePairAccess die (.adopt ctx off launch cluster)) s = .next u ∧ u.teams = s2.teams ++ [t] ∧
      t.status = .saved ∧ t.ctx = ctx ∧ t.saveOff = off ∧ t.waves.length = recBits h 0x20 0 8 ∧
      (∃ new, u.cmds = s2.cmds ++ new ∧ new.map CopyCmd.id = t.savedCmds ∧ ∀ x ∈ new, x.team = t.id) ∧
      u.mem = s2.mem ∧ u.writes = s2.writes ∧ u.recs = s2.recs) ∧
  (∀ (s : State) (core : Nat), (swapTrigger s core = false → exec (.yieldSwap core) s = .next s) ∧
    (restoreOrder s = [] → readyList s = [] → exec (.yieldSwap core) s = .next s) ∧
    (swapTrigger s core = true → restoreOrder s = [] → ∀ l r u, readyList s = l :: r → swapFor s core l = some u →
      exec (.yieldSwap core) s = .next u) ∧
    (swapTrigger s core = true → ∀ t r u, restoreOrder s = t :: r → s.awaited.contains t.id = true →
      swapBack s core t = some u → exec (.yieldSwap core) s = .next u) ∧
    (swapTrigger s core = true → readyList s = [] → ∀ t r u, restoreOrder s = t :: r →
      swapBack s core t = some u → exec (.yieldSwap core) s = .next u)) ∧
  (∀ (s : State) (core : Nat) (t : Team), coreFits s [] t.size core = true → (s.teams.map Team.id).Nodup →
    swapBack s core t = none) ∧
  (∀ (s s1 : State) (core : Nat) (t x : Team), coreFits s [] t.size core = false → swapWouldFit s t.size core = true →
    t.cluster = clusterOf core → tiedToCore s t = false → siblingOn s t core = false → queuesFit s t core = true →
    swapOrder s core = [x] → swapSave s x = .ok s1 → coreFits s1 [] t.size core = true → savedMore s s1 = true →
    swapBack s core t = some (restoreTeam s1 t.id core).state) ∧
  (∀ (s : State) (core : Nat), (swapOrder s core).Pairwise (fun a b => b.parkedFor ≤ a.parkedFor) ∧
    ∀ t ∈ swapOrder s core, t.core = core ∧ t.status = .placed ∧ ∀ l, s.launch? t.launch = some l → l.cores = false) ∧
  (∀ (s : State) (id : Nat), (∀ t, s.team? id = some t → t.waves.any (fun w => decide (w.status = .running)) = true ∨
      t.mxDone = false ∨ cmdsStill s t = false) → exec (.teamExit id) s = .next s) ∧
  (∀ (s : State) (id : Nat) (t : Team), s.team? id = some t → (∀ w ∈ t.waves, w.status ≠ .running) → t.mxDone = true →
    cmdsStill s t = true → exitNeeds s t = [] → ∃ u, exec (.teamExit id) s = .next u ∧ u.team? id = none ∧
      (∀ w ∈ u.waiters, w.sl.team ≠ id) ∧ (∀ j, j ≠ id → (u.team? j).isSome = (s.team? j).isSome) ∧
      (∀ w ∈ (s.exitRelease t).writes, w.seat.team = id → (∃ sl, w.seat.who = .slot sl) → 2 ≤ w.level) ∧
      u = ((s.exitRelease t).noteCovers t).removeTeam t)

/-- A record has the 64 bytes of R397; it is written at the next place of its ring once the disposition counter leaves
room, in the order raised and those of one cycle by core, wave place, slot and queue once the cycle is over, or dropped
and counted when it holds nothing, and a ring that cannot be used diverts the context; the ACT of the next record is performed once, as R400 to R403 say, and ignored when what it held is gone;
ENDCTX ends all of the context, with one CHARGE record; a machine check holds every live slot of the team that no record
holds on one record, whose disposition kills the team’s waves. Where it says more than these rules, it says the model’s
choice in log entries 6, 12, 83 to 87, 110 and 140 (R397, R399, R400, R401, R402, R403,
R404, R406, R455). -/
def Obligations.FaultUnitEventsComplete : Prop :=
  (∀ r : FRec, r.bytes.length = 64 ∧ byteAt r.bytes 3 = BitVec.ofNat 8 (classCode r.cls) ∧
    byteAt r.bytes 2 = BitVec.ofNat 8 r.cause ∧ byteAt r.bytes 1 = BitVec.ofNat 8 r.sub ∧
    byteAt r.bytes 0 = BitVec.ofNat 8 (128 * bitOf r.rst + 64 * bitOf r.exp + 32 * bitOf r.slv + 16 * bitOf r.qv +
      8 * bitOf r.fwd) ∧
    (r.core < 1024 → r.wave < 16 → r.qid < 8 → r.repj < 64 → r.xop < 8 →
      recBits r.bytes 4 22 10 = r.core ∧ recBits r.bytes 4 18 4 = r.wave ∧ recBits r.bytes 4 17 1 = bitOf r.slotB ∧
      recBits r.bytes 4 14 3 = r.qid ∧ recBits r.bytes 4 8 6 = r.repj ∧ recBits r.bytes 4 5 3 = r.xop) ∧
    recBits r.bytes 8 0 64 = r.pc.toNat ∧ recBits r.bytes 0x10 0 64 = r.addr.toNat ∧
    recBits r.bytes 0x18 0 64 = r.info.toNat ∧ recBits r.bytes 0x20 0 32 = r.info2.toNat ∧
    (r.team < 32 → r.stage < 16 → recBits r.bytes 0x24 27 5 = r.team ∧ recBits r.bytes 0x24 23 4 = r.stage) ∧
    recBits r.bytes 0x28 0 32 = r.gang % 2 ^ 32 ∧ recBits r.bytes 0x2C 0 32 = r.ctx % 2 ^ 32 ∧
    recBits r.bytes 0x30 0 64 = r.time.toNat ∧ recBits r.bytes 0x38 0 64 = 0) ∧
  (∀ (s : State) (n : Nat), s.recs.find? (fun r => r.id = n) = none → exec (.faultRecordWrite n) s = .next s) ∧
  (∀ (s s1 : State) (n : Nat) (r : FRec) (g : Ring) (d : CtrPlace), s.recs.find? (fun r => r.id = n) = some r →
    s.ring? r.ringNo = some g → ringCounter s r.ringNo g.disp false = (s1, .got d) →
    let room := reached (ctrValue (s1.ctrSettle d) d) (BitVec.ofInt 64 ((g.next : Int) + 1 - (2 ^ g.logf : Nat)))
    (room = false → (r.slv = true ∨ r.qv = true) → exec (.faultRecordWrite n) s = .next s1) ∧
    (room = false → r.slv = false → r.qv = false → exec (.faultRecordWrite n) s =
      .next (({ s1 with recs := s1.recs.filter fun x => decide (x.id ≠ n) }).countOvf r.ringNo)) ∧
    (room = true → (firstRec s1 r.ringNo ≠ some r ∨ s1.cycle ≤ r.cycle) → exec (.faultRecordWrite n) s = .next s1) ∧
    (room = true → firstRec s1 r.ringNo = some r → r.cycle < s1.cycle → ∀ s2 tl,
      ringCounter s1 r.ringNo g.tail true = (s2, .got tl) →
      (∀ s3 t, ringSpan s2 r.ringNo (g.slot g.next) .store = (s3, .got t) →
        (coverNeeds s3 faultCovered = [] → exec (.faultRecordWrite n) s = .next (s3.putRecord r r.ringNo g t tl)) ∧
        (coverNeeds s3 faultCovered ≠ [] → exec (.faultRecordWrite n) s =
          .next (s3.request (coverNeeds s3 faultCovered)))) ∧
      (∀ s3 e, ringSpan s2 r.ringNo (g.slot g.next) .store = (s3, .bad e) →
        exec (.faultRecordWrite n) s = .next (s3.divert r r.ringNo (g.slot g.next) .mem e)))) ∧
  (∀ (s : State) (n : Nat) (r : FRec), firstRec s n = some r → r ∈ s.recs ∧ r.ringNo = n ∧
    (s.recs.Pairwise (fun x y => x.cycle ≤ y.cycle) → ∀ x ∈ s.recs, x.ringNo = n →
      r.cycle < x.cycle ∨ (r.cycle = x.cycle ∧ r.place ≤ x.place))) ∧
  (∀ (s : State) (r : FRec) (n : Nat) (g : Ring) (t : Target) (tl : CtrPlace),
    let u := s.putRecord r n g t tl
    (∀ x ∈ u.recs, x.id ≠ r.id) ∧ (∀ x, x.id ≠ r.id → (x ∈ u.recs ↔ x ∈ s.recs)) ∧
    u.written = s.written ++ [{ ring := n, index := g.next, record := r }] ∧
    (s.ring? n = some g → u.ring? n = some { g with next := g.next + 1 })) ∧
  (∀ (s : State) (r : FRec) (n pa mt a : Nat) (g : Ring), s.writes = [] → s.hostLines = [] →
    (a + 8 ≤ pa ∨ pa + 64 ≤ a) →
    let u := s.putRecord r n g (.phys pa mt) (.phys a)
    (∀ i, i < 64 → cellGet u.mem (pa + i) = byteAt r.bytes i) ∧ ctrValue u (.phys a) = ctrValue s (.phys a) + 1 ∧
    (∀ x, (x < pa ∨ pa + 64 ≤ x) → (x < a ∨ a + 8 ≤ x) → cellGet u.mem x = cellGet s.mem x) ∧ u.writes = [] ∧
    ∀ w ∈ s.waiters, w.ctr = .phys a → w.polling = false → reached (ctrValue u (.phys a)) w.thr = true →
      { w with hit := true } ∈ u.waiters) ∧
  (∀ (s : State) (r : FRec) (a : Dword) (k : FaultClass) (e : MemFault) (c : Context), r.ctx ≠ 0 → s.ctx? r.ctx = some c →
    ∃ d, (s.divert r r.ctx a k e).ctx? r.ctx = some d ∧ d.diverted = true ∧ d.fnext = c.fnext ∧ d.fovf = c.fovf ∧
      (∀ x ∈ (s.divert r r.ctx a k e).recs, x.ctx = r.ctx → x.toOs = true) ∧
      ∃ pre x, (s.divert r r.ctx a k e).recs = pre ++ [x] ∧ pre.length = s.recs.length ∧ x.cls = .charge ∧ x.cause = 5 ∧
        x.addr = a ∧ x.ctx = r.ctx ∧
        x.info2 = if k = .cntr ∨ e.cause = 11 then 0 else BitVec.ofNat 32 e.cause) ∧
  (∀ (s : State) (ring : Nat), (s.ring? ring = none ∨ s.written.find? (fun w => w.ring = ring) = none) →
    exec (.disposition ring) s = .next s) ∧
  (∀ (s : State) (ring : Nat) (g : Ring) (w : Written), s.ring? ring = some g →
    s.written.find? (fun w => w.ring = ring) = some w →
    (w.index ≠ g.done → exec (.disposition ring) s = .next s) ∧
    (w.index = g.done → ∀ s1 d, ringCounter s ring g.disp false = (s1, .got d) →
      (reached (ctrValue (s1.ctrSettle d) d) (BitVec.ofNat 64 (g.done + 1)) = false → exec (.disposition ring) s = .next s1) ∧
      (reached (ctrValue (s1.ctrSettle d) d) (BitVec.ofNat 64 (g.done + 1)) = true → ∀ s2 t,
        ringSpan s1 ring (g.slot g.done) .load = (s2, .got t) →
        let s3 := { s2.putRing ring g.next (g.done + 1) with written := s2.written.erase w }
        let act := recBits (readTarget s2 (.of .faultUnit 0) t 64) 0x38 0 4
        (ctxLive s3 w.record.ctx = true → exec (.disposition ring) s = .next (dispose s3 ring w.record act)) ∧
        (ctxLive s3 w.record.ctx = false → exec (.disposition ring) s = .next s3)))) ∧
  (∀ (s : State) (ring : Nat) (r : FRec) (act : Nat),
    ((r.slv = true ∧ heldSlot s r = none) ∨ (r.qv = true ∧ heldCmd s r = none) → dispose s ring r act = s) ∧
    (r.slv = false → r.qv = false → heldSlot s r = none → heldCmd s r = none → act ≠ 5 → dispose s ring r act = s) ∧
    (∀ v, heldSlot s r = some v → r.qv = false → r.cls ≠ .mchk →
      dispose s ring r 1 = s.putSlot v { v.p with status := match v.t.checked with
        | none => .running
        | some k => .held k } ∧
      (∀ n, r.skipLen = some n → dispose s ring r 2 = skipSlot s v r n) ∧
      (r.skipLen = none → dispose s ring r 2 = s.stopWave v.sl) ∧
      dispose s ring r 5 = s.endContext r.ctx 1 0 ∧
      (ring = 0 → ∀ c, s.ctx? r.ctx = some c → dispose s ring r 6 =
        { s with recs := s.recs ++ [{ r with fwd := true, rst := false, toOs := c.diverted, cycle := s.cycle }] }) ∧
      (ring ≠ 0 → dispose s ring r 6 = s.stopWave v.sl) ∧
      (act ≠ 1 → act ≠ 2 → act ≠ 5 → act ≠ 6 → dispose s ring r act = s.stopWave v.sl)) ∧
    (∀ v, heldSlot s r = some v → r.qv = false → r.cls = .mchk →
      dispose s ring r 5 = s.endContext r.ctx 1 0 ∧ (act ≠ 5 → dispose s ring r act = s.stopTeam v.t)) ∧
    (∀ c, heldSlot s r = none → r.slv = false → heldCmd s r = some c →
      dispose s ring r 1 = resumeCmd s c ∧ (act ≠ 1 → act ≠ 5 → act ≠ 6 → dispose s ring r act = discardFrom s c) ∧
      (ring = 0 → ∀ k, s.ctx? r.ctx = some k →
        let cause := if r.rst then 1 else r.cause
        dispose s ring r 6 = (({ s with recs := s.recs ++
            [{ r with cause := cause, fwd := true, rst := false, toOs := k.diverted, cycle := s.cycle }] } : State).modQStat
          c.team c.qid fun x => { x with fcause := cause }).modCmd c.id fun (x : CopyCmd) => { x with status := .halted }))) ∧
  (∀ (s : State) (v : View) (r : FRec) (n : Nat), s.find v.sl = some v → ∃ u, (skipSlot s v r n).find v.sl = some u ∧
    u.p.status = (match v.t.checked with
      | none => .running
      | some k => .held k) ∧
    u.p.pc = v.p.pc + BitVec.ofNat 64 n ∧ u.p.pend = [] ∧ u.p.rep = none ∧
    (r.vec = true → u.p.fmask = 0) ∧ (r.vec = false → u.p.fmask = v.p.fmask) ∧
    (r.mg = true → u.p.mxst = 0) ∧ (r.mg = false → u.p.mxst = v.p.mxst)) ∧
  (∀ (s : State) (ctx code : Nat) (i : Word) (c : Context), s.ctx? ctx = some c → c.ended = false →
    let u := s.endContext ctx code i
    (∃ d, u.ctx? ctx = some d ∧ d.ended = true ∧ d.err = c.err) ∧ u.mem = s.mem ∧ u.writes = s.writes ∧
    (∀ x ∈ u.cmds, x.ctx ≠ ctx) ∧ (∀ x ∈ u.waiters, x.ctx ≠ ctx) ∧ (∀ x ∈ u.segs, x.ctx ≠ ctx) ∧
    (∀ x ∈ u.launches, x.ctx ≠ ctx) ∧ (∀ x ∈ u.feeds, x.ctx ≠ ctx) ∧ (∀ x ∈ u.owedAdds, x.1 ≠ ctx) ∧
    (∀ l ∈ s.launches, l.ctx = ctx → ∀ ids, u.fe.krold = some ids → l.id ∉ ids) ∧
    (∀ x ∈ u.queues, x.cur.ctx = ctx → x.cur.en = false) ∧
    (code < 0x10 → ∃ r, u.recs = (s.recs.filter fun x => decide (x.ctx ≠ ctx ∨ x.toOs = true)) ++ [r] ∧ r.cls = .charge ∧
      r.cause = code ∧ r.info2 = i ∧ r.ctx = ctx ∧ r.toOs = true) ∧
    (∀ (t : Team), t ∈ u.teams → t.ctx = ctx → (∀ y ∈ s.teams, ∀ z ∈ s.teams, y.id = z.id → y = z) →
      ∀ w ∈ t.waves, w.status = .killed)) ∧
  (∀ (s : State) (id unit : Nat), (∀ t, s.team? id = some t → t.status ≠ .placed ∨ unit = 0 ∨ 4 < unit) →
    exec (.mchk id unit) s = .next s) ∧
  (∀ (s : State) (id unit : Nat) (t : Team) (c : Context), s.team? id = some t → t.status = .placed → 1 ≤ unit → unit ≤ 4 →
    s.ctx? t.ctx = some c → c.ended = false →
    ∃ u y r, exec (.mchk id unit) s = .next u ∧ u.team? id = some y ∧ u.recs = s.recs ++ [r] ∧ r.cls = .mchk ∧
      r.info = BitVec.ofNat 64 unit ∧ r.slv = true ∧ r.id = s.nextRec ∧ r.team = t.num ∧ r.core = t.core ∧
      (∀ j, j ≠ id → u.team? j = s.team? j) ∧ (∀ x ∈ u.waiters, x.sl.team ≠ id) ∧
      (t.checked = none → y.checked = some s.nextRec) ∧
      ∀ (n : Nat) (w : Wave), t.waves[n]? = some w → ∃ w', y.waves[n]? = some w' ∧ w'.status = w.status ∧
        (w.status = .running → ∀ x ∈ [(w.a, w'.a), (w.b, w'.b)], x.1.live = true →
          (∀ k, x.1.status = .held k → x.2 = x.1) ∧
          ((∀ k, x.1.status ≠ .held k) → x.2.status = .held s.nextRec))) ∧
  (∀ (s : State) (t : Team), s.teams.filter (fun x => decide (x.id = t.id)) = [t] →
    ∃ y, (s.stopTeam t).team? t.id = some y ∧ (∀ w ∈ y.waves, w.status = .killed ∧ w.a.live = false ∧ w.b.live = false) ∧
      (s.stopTeam t).recs = s.recs ∧ (s.stopTeam t).ctxs = s.ctxs) ∧
  (∀ (s u : State) (id unit : Nat) (t : Team), s.team? id = some t → t.status = .placed → 1 ≤ unit → unit ≤ 4 →
    exec (.mchk id unit) s = .next u → exec (.teamSave id) u = .next u)

/-- Writing EN enables a disabled window that passes every check of R103, or leaves the number of the first that fails
in STS; EN = 0 disables and flushes, and a flush that is done leaves no decoded line of the window; what must enter the
Almanac waits for it; L2CFG takes a new size at once, waits for granules above it, or is refused, and
the range that changes reads zero when the change is done; CHRSV reserves what no team holds and remembers the rest; a
shootdown removes every cached translation and instruction line it covers and is done when no copy queue holds one and
what went through them is performed. Where it says more than these rules, it says the model’s choice in log entries 6,
33, 38, 90, 91, 107, 138 and 141 (R100, R101, R103, R108, R113, R114, R115, R123, R124, R356, R384, R405). -/
def Obligations.WindowCarveoutAndShootdownEventsComplete : Prop :=
  (∀ (s : State) (w : Nat) (v : Dword), (64 ≤ w ∨ (s.window w).en = true ∨ v.getLsbD 0 = false) →
    exec (.windowEnable w v) s = .next s) ∧
  (∀ (s : State) (w : Nat) (v : Dword), w < 64 → (s.window w).en = false → v.getLsbD 0 = true →
    let x := (s.window w).withCtl v
    (windowCheck s x v ≠ 0 → exec (.windowEnable w v) s =
      .next { s with windows := s.windows.modify w fun _ => { x with sts := windowCheck s x v } }) ∧
    (windowCheck s x v = 0 → almRoom s = false → exec (.windowEnable w v) s = .next s.almAsk) ∧
    (windowCheck s x v = 0 → almRoom s = true → exec (.windowEnable w v) s =
      .next ({ s with windows := s.windows.modify w fun _ => { x with en := true, sts := 0 } }.almAppend 1 0
        (bytesOf { x with en := true, sts := 0 : Window }.ctl.toNat 8)))) ∧
  (∀ (s : State) (x : Window) (v : Dword), windowCheck s x v = 0 →
    x.formatOk = true ∧ 0 < x.bytes ∧ x.bytes ≤ 2 ^ 36 ∧ farBase ≤ x.base ∧ x.base + x.bytes ≤ farBase + farSize ∧
    x.base % 65536 = 0 ∧ x.reserved v = false ∧
    (∀ y ∈ s.windows, y.en = true → y.base + y.bytes ≤ x.base ∨ x.base + x.bytes ≤ y.base) ∧
    (x.isSealed = true → ∃ k, s.keys[x.ks]? = some k ∧ k.full = true)) ∧
  (∀ (s : State) (w : Nat) (v : Dword),
    ((s.window w).en = false ∨ v.getLsbD 0 = true → exec (.windowDisable w v) s = .next s) ∧
    ((s.window w).en = true → v.getLsbD 0 = false → almRoom s = false → exec (.windowDisable w v) s = .next s.almAsk) ∧
    ((s.window w).en = true → v.getLsbD 0 = false → almRoom s = true → exec (.windowDisable w v) s =
      .next ({ s with windows := s.windows.modify w fun _ => { s.window w with en := false, bsy := true } }.almAppend 1 0
        (bytesOf { s.window w with en := false, bsy := true : Window }.ctl.toNat 8))) ∧
    exec (.windowFlush w v) s = .next (if v.getLsbD 1 then
      { s with windows := s.windows.modify w fun (x : Window) => { x with bsy := true } } else s) ∧
    ((s.window w).bsy = false → exec (.windowFlushDone w) s =
      .next { s with windows := s.windows.modify w fun (x : Window) => { x with bsy := false } }) ∧
    ((s.window w).bsy = true → ∃ u, exec (.windowFlushDone w) s = .next u ∧ (∀ x ∈ u.decoded, x.w ≠ w) ∧
      (∀ x, x.w ≠ w → (x ∈ u.decoded ↔ x ∈ s.decoded)) ∧ u = { s with
        decoded := u.decoded, windows := s.windows.modify w fun (x : Window) => { x with bsy := false } })) ∧
  (∀ s : State, (almHeld s = [] → s.almAsk = s) ∧ s.almAsk = { s with snoops := s.almAsk.snoops } ∧
    ∀ l ∈ almHeld s, ∃ q ∈ s.almAsk.snoops, q.line = l ∧ q.inv = true) ∧
  (∀ (s : State) (d : Nat) (v : Dword) (x : L2Cfg), s.l2cfg[d]? = some x →
    let b := v.toNat % 16
    let put (y : L2Cfg) : State := { s with l2cfg := s.l2cfg.set d y }
    (x.sts = 1 ∨ x.sts = 2 → exec (.carveoutChange d v) s = .next s) ∧
    (x.sts ≠ 1 → x.sts ≠ 2 → 8 < b → exec (.carveoutChange d v) s = .next (put { x with sts := 3 })) ∧
    (x.sts ≠ 1 → x.sts ≠ 2 → b ≤ 8 → b = x.cur → exec (.carveoutChange d v) s = .next (put { x with sts := 0, csz := b })) ∧
    (x.sts ≠ 1 → x.sts ≠ 2 → b ≤ 8 → b < x.cur → granuleHeld s d (8 * b) = true →
      exec (.carveoutChange d v) s = .next (put { x with sts := 2, csz := b })) ∧
    (x.sts ≠ 1 → x.sts ≠ 2 → b ≤ 8 → b ≠ x.cur → (b < x.cur → granuleHeld s d (8 * b) = false) →
      exec (.carveoutChange d v) s = .next (put { x with sts := 1, csz := b }))) ∧
  (∀ (s : State) (d : Nat) (x : L2Cfg), s.l2cfg[d]? = some x →
    (x.sts = 2 → granuleHeld s d (8 * x.csz) = false → exec (.carveoutShrinkProceed d) s =
      .next { s with l2cfg := s.l2cfg.set d { x with sts := 1 } }) ∧
    (x.sts ≠ 2 ∨ granuleHeld s d (8 * x.csz) = true → exec (.carveoutShrinkProceed d) s = .next s) ∧
    (x.sts ≠ 1 → exec (.carveoutChangeDone d) s = .next s) ∧
    (x.sts = 1 → WritesOk s → ∃ u, exec (.carveoutChangeDone d) s = .next u ∧ u.l2cfg[d]? = some { x with cur := x.csz, sts := 0 } ∧
      (∀ e, e ≠ d → u.l2cfg[e]? = s.l2cfg[e]?) ∧
      ∀ a, (chipBase d + min x.cur x.csz * 2 ^ 23 ≤ a → a < chipBase d + max x.cur x.csz * 2 ^ 23 → cellGet u.mem a = 0) ∧
        (a < chipBase d + min x.cur x.csz * 2 ^ 23 ∨ chipBase d + max x.cur x.csz * 2 ^ 23 ≤ a →
          finalByte u (.phys a) = finalByte s (.phys a))) ∧
    (x.sts = 1 → ∃ u, exec (.carveoutChangeDone d) s = .next u ∧
      (∀ m, s.chrsv[d]? = some m → ∃ n, u.chrsv[d]? = some n ∧
        ∀ g, g < 64 → n.getLsbD g = (m.getLsbD g && decide (g < 8 * x.csz))) ∧
      ((∀ l ∈ Config.l2Lines s.tick d, l ∉ s.poison) → u.recs = s.recs))) ∧
  (∀ (s : State) (d : Nat) (v : Dword), d < s.chrsv.length → d < s.chrsvWant.length →
    ∃ u m n, exec (.chrsvWrite d v) s = .next u ∧ u = { s with chrsv := s.chrsv.set d m, chrsvWant := s.chrsvWant.set d n } ∧
      ∀ g, g < 64 →
        let held := s.teams.any fun t => decide (t.cluster / 8 = d) && t.chip.contains g
        let top := if (s.carve d).sts = 1 then min (s.carve d).cur (s.carve d).csz else (s.carve d).cur
        m.getLsbD g = (v.getLsbD g && decide (g < 8 * top) && !held) ∧
        n.getLsbD g = (v.getLsbD g && decide (g < 8 * top) && held)) ∧
  (∀ (s : State) (v : Dword),
    (v.getLsbD 4 = false → exec (.shootdown v) s = .next { s with shoot := { s.shoot with kind := v.toNat % 4 } }) ∧
    (s.shoot.bsy = true → v.getLsbD 4 = true → exec (.shootdown v) s = .next s) ∧
    (s.shoot.bsy = false → v.getLsbD 4 = true → shootMalformed s.shoot v = true →
      exec (.shootdown v) s = .next { s with shoot := { s.shoot with sts := 1, kind := v.toNat % 4 } }) ∧
    (s.shoot.bsy = false → v.getLsbD 4 = true → shootMalformed s.shoot v = false →
      ∃ u, exec (.shootdown v) s = .next u ∧ u.shoot.bsy = true ∧ u.shoot.sts = 0 ∧ u.shoot.kind = v.toNat % 4 ∧
        u.shoot.run = (v.toNat % 4, s.shoot.ctx.toNat % 2 ^ 32) ∧
        u = { s with shoot := u.shoot, tlb := u.tlb, walkCache := u.walkCache, icache := u.icache, decOps := u.decOps, cmds := u.cmds,
                     ctxs := u.ctxs } ∧
        u.ctxs = s.ctxs.map (fun c => if u.shoot.wholly c.num then { c with persDue := c.persNext } else c) ∧
        (∀ y, y ∈ u.decOps ↔ y ∈ s.decOps ∧ u.shoot.covers y.ctx y.va y.len = false) ∧
        (∀ e, e ∈ u.tlb ↔ e ∈ s.tlb ∧ u.shoot.covers e.ctx e.page e.size = false) ∧
        (∀ e, e ∈ u.walkCache ↔ e ∈ s.walkCache ∧ u.shoot.names e.ctx = false) ∧
        (∀ l, l ∈ u.icache ↔ l ∈ s.icache ∧ u.shoot.covers l.ctx l.va 128 = false) ∧
        ∀ c ∈ u.cmds, ∀ h ∈ c.trs, u.shoot.covers h.e.ctx h.e.page h.e.size = true → h.stale = true)) ∧
  (∀ x : Shoot, ∀ ctx page size : Nat, 0 < size → (x.kind = 2 → x.covers ctx page size = true) ∧
    (x.kind = 1 → x.covers ctx page size = decide (x.ctx.toNat % 2 ^ 32 = ctx)) ∧
    (x.kind = 0 → 0 < x.len.toNat % 2 ^ 36 → x.va.toNat < 2 ^ 57 → x.va.toNat % 4096 = 0 →
      (x.covers ctx page size = true ↔ x.ctx.toNat % 2 ^ 32 = ctx ∧
        ∃ a, page ≤ a ∧ a < page + size ∧ x.va.toNat ≤ a ∧ a < x.va.toNat + 4096 * (x.len.toNat % 2 ^ 36)))) ∧
  (∀ s : State,
    (s.shoot.bsy = false ∨ s.cmds.any (fun c => c.trs.any HeldTr.stale) = true → exec .shootdownDone s = .next s) ∧
    (s.shoot.bsy = true → s.cmds.any (fun c => c.trs.any HeldTr.stale) = false →
      flushNeeds s (fun _ => true) ++ coverNeeds s PWrite.physical = [] →
      ∃ u, exec .shootdownDone s = .next u ∧ u.shoot = { s.shoot with bsy := false } ∧ u.comb = [] ∧
        (∀ w ∈ u.writes, w.physical = true → 4 ≤ w.level) ∧
        ∀ (i : Nat) (c : Context), s.ctxs[i]? = some c → u.ctxs[i]? = some (if s.shoot.wholly c.num then
          { c with pers := c.persDue.getD c.pers, persNext := if c.persNext = c.persDue then none else c.persNext, persDue := none }
          else c)) ∧
    (s.shoot.bsy = true → s.cmds.any (fun c => c.trs.any HeldTr.stale) = false →
      flushNeeds s (fun _ => true) ++ coverNeeds s PWrite.physical ≠ [] → exec .shootdownDone s =
        .next (s.request (flushNeeds s (fun _ => true) ++ coverNeeds s PWrite.physical))))

/-- A counter-add window write adds to the bound counter or marks its binding; host reads and writes of device memory
take the line in the state R416 gives, read a sealed range as ones marked poisoned and never write one, and hold their
bytes dirty until a back-invalidate puts them in memory; host memory lines arrive and are taken back, and what waited for
a line goes on; peers read, write and add through the destination context and get an answer; losses, routes and links
change as R438 and R442 say; what must enter the Almanac waits for it. Where it says more than these rules, it says the
model’s choice in log entries 6, 8, 30, 36, 91, 99 to 102, 129 and 155 (R104, R189, R306, R307, R416, R418, R419, R421, R422,
R431, R438, R442). -/
def Obligations.HostAndFabricEventsComplete : Prop :=
  (∀ (s : State) (slot size : Nat) (v : Dword), (4096 ≤ slot → exec (.counterAddWindowWrite slot size v) s = .next s) ∧
    (slot < 4096 → ∀ b, s.binding? slot = some b → b.slot = slot →
      (b.v = false ∨ size ≠ 8 ∨ v.msb = true → ∃ u, exec (.counterAddWindowWrite slot size v) s = .next u ∧
        u = { s with bindings := u.bindings } ∧ u.binding? slot = some { b with err := true } ∧
        ∀ j, j ≠ slot → u.binding? j = s.binding? j) ∧
      (b.v = true → size = 8 → v.msb = false → ∀ s1 c, ctrGot s b.ctx b.addr true = (s1, .got c) →
        exec (.counterAddWindowWrite slot size v) s = .next (s1.ctrAdd c v).1))) ∧
  (∀ (s : State) (host dec off : Nat) (own : Bool), hdmAddr dec (off / 128 * 128) = none →
    exec (.hostHdmRead host dec off own) s = .next s) ∧
  (∀ (s : State) (host dec off a : Nat) (own : Bool), hdmAddr dec (off / 128 * 128) = some a →
    (inSealed s a 128 = true → exec (.hostHdmRead host dec off own) s =
      .next (if almRoom s then ({ s with reply := List.replicate 128 0xFF, replyBad := true } : State).almAppend 6 0 (bytesOf a 8)
        else s.almAsk)) ∧
    (inSealed s a 128 = false → hostNeed s host (lineOf a) own = [] → decodedNeeds s a = [] →
      (dec ≠ 2 → filterVictim s (lineOf a) = none) → ∀ s1, s.meter (egressClass s a) 128 = some s1 →
      ∃ u, exec (.hostHdmRead host dec off own) s = .next u ∧
        u.reply = hostBytes ((s1.recall none [lineOf a]).meterDone (.hostRead host dec off own)) host a ∧ u.replyBad = false ∧
        (dec ≠ 2 → ∃ x, hostEntry u host (lineOf a) = some x ∧ x.st = (readState s1 host (lineOf a) own).1) ∧
        (dec = 2 → u.hostLines = s1.hostLines)) ∧
    (inSealed s a 128 = false → hostNeed s host (lineOf a) own = [] → decodedNeeds s a = [] →
      (dec ≠ 2 → filterVictim s (lineOf a) = none) → s.meter (egressClass s a) 128 = none →
      exec (.hostHdmRead host dec off own) s =
        .next (s.meterWait { cls := egressClass s a, bytes := 128, what := .hostRead host dec off own }))) ∧
  (∀ (s : State) (host dec off a : Nat) (data : List Byte), hdmAddr dec off = some a →
    (dec = 2 ∨ (data ≠ [] ∧ lineOf a = lineOf (a + data.length - 1) ∧ (inSealed s a data.length = true ∨ isCtPage s a = true)) →
      exec (.hostHdmWrite host dec off data) s =
        .next (if almRoom s then s.almAppend 6 0 (bytesOf a 8) else s.almAsk)) ∧
    (dec ≠ 2 → data ≠ [] → lineOf a = lineOf (a + data.length - 1) → inSealed s a data.length = false → isCtPage s a = false →
      hostNeed s host (lineOf a) true = [] → filterVictim s (lineOf a) = none →
      ∃ u x, exec (.hostHdmWrite host dec off data) s = .next u ∧ hostEntry u host (lineOf a) = some x ∧ x.st = .m ∧
        ∀ i, i < data.length → (x.dirty.find? fun p => p.1 = a + i) = some (a + i, byteAt data i))) ∧
  (∀ (s : State) (line : Nat),
    let asked := ∃ q ∈ s.snoops, q.line = line
    let back := ∃ x ∈ s.hostLines, x.line = line ∧ (x.st = .m ∨ x.st = .e)
    (¬ asked → ¬ back → exec (.hostSnoopAnswer line) s = .next s) ∧
    (asked ∨ back → ∃ u : State, exec (.hostSnoopAnswer line) s = .next u.linesFreed ∧
      (∀ x ∈ u.snoops, x.line ≠ line) ∧
      (¬ asked ∨ (∃ q ∈ s.snoops, q.line = line ∧ q.inv = true) → ∀ x ∈ u.hostLines, x.line ≠ line) ∧
      (∀ x ∈ u.hostLines, x.line = line → x.st = .s ∧ x.dirty = []) ∧
      ∀ y, s.hostLines.find? (fun x => x.line = line) = some y → (y.dirty.map Prod.fst).Nodup →
        (∀ p ∈ y.dirty, cellGet u.mem p.1 = p.2) ∧
        ∀ a, a ∉ y.dirty.map Prod.fst → cellGet u.mem a = cellGet s.mem a)) ∧
  (∀ s : State, s.lateReds = [] → s.owedAdds = [] → s.prefs = [] → s.almWait = [] → s.linesFreed = s) ∧
  (∀ (s : State) (line : Nat), (line ∉ s.hostMem → exec (.hostSnoop line) s = .next s) ∧
    (line ∈ s.hostMem → coverNeeds s (onLine line) ≠ [] →
      exec (.hostSnoop line) s = .next (s.request (coverNeeds s (onLine line)))) ∧
    (line ∈ s.hostMem → coverNeeds s (onLine line) = [] → ∃ u, exec (.hostSnoop line) s = .next u ∧ line ∉ u.hostMem ∧
      (∀ n, n ≠ line → (n ∈ u.hostMem ↔ n ∈ s.hostMem)) ∧ (∀ p ∈ u.near, p.2 ≠ line) ∧
      (∀ w ∈ u.writes, ∀ p ∈ w.bytes, ∀ a, p.1 = Loc.phys a → lineOf a ≠ line) ∧
      u.reply = cellList u.mem (128 * line) 128 ∧ (line ∉ s.poison → u.replyBad = false))) ∧
  (∀ (s : State) (host : Nat), s.hostsLost.contains host = false → (almRoom s = true ∨ almHeld s ≠ []) →
    (∃ q ∈ s.snoops, q.since + 100000000 ≤ s.eqx.now.toNat ∧ ∃ x ∈ s.hostLines, x.line = q.line ∧ x.host = host) →
    ∃ u, exec (.hostLost host) s = .next u ∧ u.hostsLost = s.hostsLost ++ [host] ∧ ∀ x ∈ u.hostLines, x.host ≠ host) ∧
  (∀ (s : State) (line : Nat) (data : List Byte), (line ∉ s.cxlReqs ∨ data.length ≠ 128 →
      exec (.cxlCacheResponse line data) s = .next s) ∧
    (∀ old, line ∈ s.cxlReqs → data.length = 128 → hostMemVictim s line = some old → coverNeeds s (onLine old) ≠ [] →
      exec (.cxlCacheResponse line data) s = .next (s.request (coverNeeds s (onLine old)))) ∧
    (line ∈ s.cxlReqs → data.length = 128 → (∀ old, hostMemVictim s line = some old → coverNeeds s (onLine old) = []) → ∃ u : State, exec (.cxlCacheResponse line data) s = .next u.linesFreed ∧ line ∈ u.hostMem ∧
      line ∉ u.cxlReqs ∧ (∀ i, i < 128 → cellGet u.mem (128 * line + i) = byteAt data i) ∧
      let mine := s.hostMem.filter fun n => decide (homeDie (128 * n) = homeDie (128 * line))
      (mine.length < 4096 → (∀ n ∈ s.hostMem, n ∈ u.hostMem) ∧ ∀ a, a / 128 ≠ line → cellGet u.mem a = cellGet s.mem a) ∧
      (4096 ≤ mine.length → ∀ old, mine.head? = some old → old ≠ line → old ∉ u.hostMem ∧ (∀ p ∈ u.near, p.2 ≠ old) ∧
        ∀ w ∈ u.writes, ∀ p ∈ w.bytes, ∀ a, p.1 = Loc.phys a → lineOf a ≠ old))) ∧
  (∀ (s : State) (pkg va size tag : Nat) (fctx : Dword), fabricCtx s fctx = none →
    exec (.peerReadRequest pkg fctx va size tag) s = .next (s.answer tag false (faultBytes .mem .notPresent))) ∧
  (∀ (s : State) (pkg va size tag : Nat) (fctx : Dword) (c : Context), fabricCtx s fctx = some c →
    walkNeeds s c.num (BitVec.ofNat 64 va) = [] →
    (∀ s1 f, walk s c.num va = (s1, .error f) →
      exec (.peerReadRequest pkg fctx va size tag) s = .next (s1.answer tag false (faultBytes .mem f))) ∧
    (∀ s1 e, walk s c.num va = (s1, .ok e) → inSealed s1 (e.pa + (va - e.page)) size = true →
      exec (.peerReadRequest pkg fctx va size tag) s = .next (if almRoom s1 then
        ({ s1 with reply := bytesOf tag 8 ++ 1 :: List.replicate size 0xFF, replyBad := true } : State).almAppend 6 c.num
          (bytesOf (e.pa + (va - e.page)) 8) else s1.almAsk))) ∧
  (∀ (s s1 s2 : State) (pkg va size tag : Nat) (fctx : Dword) (c : Context) (e : TlbEntry), fabricCtx s fctx = some c →
    walkNeeds s c.num (BitVec.ofNat 64 va) = [] → walk s c.num va = (s1, .ok e) → inSealed s1 (e.pa + (va - e.page)) size = false →
    entryCheck s1 e (e.pa + (va - e.page)) size .load = none →
    spanNeeds s1 false size (physTarget s1 (e.pa + (va - e.page)) e.mt) = [] →
    spanPoisoned s1 size (physTarget s1 (e.pa + (va - e.page)) e.mt) = false →
    s1.meter (egressClass s1 (e.pa + (va - e.page))) size = some s2 →
    let t := physTarget s1 (e.pa + (va - e.page)) e.mt
    let s3 := ((s2.recall none (spanLines t size)).fillFor (.of (.peer pkg) 0) t size).meterDone (.peerRead pkg fctx va size tag)
    exec (.peerReadRequest pkg fctx va size tag) s =
      .next (s3.answer tag true (readTarget s3 (.of (.peer pkg) 0) t size))) ∧
  (∀ (s : State) (va tag : Nat) (fctx : Dword) (data : List Byte), fabricCtx s fctx = none →
    exec (.peerWrite tag fctx va data) s = .next (s.answer tag false (faultBytes .mem .notPresent))) ∧
  (∀ (s s1 : State) (va tag : Nat) (fctx : Dword) (data : List Byte) (c : Context) (e : TlbEntry),
    fabricCtx s fctx = some c → walkNeeds s c.num (BitVec.ofNat 64 va) = [] → walk s c.num va = (s1, .ok e) →
    let pa := e.pa + (va - e.page)
    (e.ct = true ∨ inSealed s1 pa data.length = true ∨ (∃ w, regionOf s1 pa 1 = some (.dec w)) →
      exec (.peerWrite tag fctx va data) s =
        .next (if almRoom s1 then s1.almAppend 6 c.num (bytesOf pa 8) else s1.almAsk)) ∧
    (e.ct = false → inSealed s1 pa data.length = false → (∀ w, regionOf s1 pa 1 ≠ some (.dec w)) →
      ∀ f, entryCheck s1 e pa data.length .store = some f →
      exec (.peerWrite tag fctx va data) s = .next (s1.answer tag false (faultBytes .mem f))) ∧
    (e.ct = false → inSealed s1 pa data.length = false → (∀ w, regionOf s1 pa 1 ≠ some (.dec w)) →
      entryCheck s1 e pa data.length .store = none → spanNeeds s1 true data.length (physTarget s1 pa e.mt) = [] →
      locNeeds s1 (readLocs s1 data.length (physTarget s1 pa e.mt)) = [] →
      exec (.peerWrite tag fctx va data) s = .next
        ((if e.dirty then s1 else orPte s1 (e.leafOf va) 0x80).spanWrite (physTarget s1 pa e.mt) data))) ∧
  (∀ (s : State) (pkg va : Nat) (fctx v : Dword) (tag : Option Nat), s.peersLost.contains pkg = true →
    exec (.peerCounterAdd pkg fctx va v tag) s = .next s) ∧
  (∀ (s : State) (pkg va : Nat) (fctx v : Dword) (tag : Option Nat) (c : Context), s.peersLost.contains pkg = false →
    fabricCtx s fctx = some c →
    (∀ s1 e, ctrGot s c.num (BitVec.ofNat 64 va) (!v.msb) = (s1, .bad e) → exec (.peerCounterAdd pkg fctx va v tag) s =
      .next (s1.answer (tag.getD 0) false (faultBytes (ctrClass s c.num (BitVec.ofNat 64 va)) e))) ∧
    (v.msb = true → ∀ s1 p, ctrGot s c.num (BitVec.ofNat 64 va) false = (s1, .got p) →
      exec (.peerCounterAdd pkg fctx va v tag) s = .next (s1.answer (tag.getD 0) false [3, 0, 3])) ∧
    (v.msb = false → ∀ s1 p, ctrGot s c.num (BitVec.ofNat 64 va) true = (s1, .got p) →
      exec (.peerCounterAdd pkg fctx va v none) s = .next (s1.ctrAdd p v).1 ∧
      ∀ n, exec (.peerCounterAdd pkg fctx va v (some n)) s =
        .next ((s1.ctrAdd p v).1.answer n true (bytesOf (s1.ctrAdd p v).2.toNat 8)))) ∧
  (∀ (s : State) (tag : Nat) (ok : Bool) (data : List Byte), ∃ u, exec (.remoteResponse tag ok data) s = .next u ∧
    u = { s with remote := s.remote.map fun r => if r.tag = tag ∧ r.ans = none then { r with ans := some (ok, data) } else r }) ∧
  (∀ (s : State) (n : Nat) (x : Link), s.links[n]? = some x →
    exec (.flitReplay n) s = .next { s with links := s.links.set n { x with replay := min (x.replay + 1) (2 ^ 32 - 1) } } ∧
    exec (.linkDown n) s = .next { s with links := s.links.set n ({ x with
      st := 1, wid := 0, since := s.eqx.now.toNat, down := if x.up then s.eqx.now.toNat else x.down } : Link) } ∧
    (∀ lanes, x.st = 4 → x.since + 1000000000 ≤ s.eqx.now.toNat → exec (.linkRetry n lanes) s =
      .next { s with links := s.links.set n (trained s.eqx.now.toNat n lanes false x) }) ∧
    (∀ lanes, x.st ≠ 4 ∨ s.eqx.now.toNat < x.since + 1000000000 → exec (.linkRetry n lanes) s = .next s) ∧
    (∀ lanes slow, exec (.managementMessage (.training n lanes slow)) s =
      .next { s with links := s.links.set n (trained s.eqx.now.toNat n lanes slow x) })) ∧
  (∀ (x : Link) (now n lanes : Nat) (slow : Bool), ((trained now n lanes slow x).st = 4 ↔ lanes < 4) ∧
    ((trained now n lanes slow x).st = 2 ↔ (if n < 16 then 8 else 16) ≤ lanes ∧ slow = false) ∧
    ((trained now n lanes slow x).st = 2 ∨ (trained now n lanes slow x).st = 3 ∨ (trained now n lanes slow x).st = 4) ∧
    (trained now n lanes slow x).since = now ∧ (trained now n lanes slow x).down = if x.up then now else x.down) ∧
  (∀ (s : State) (pkg : Nat), exec (.managementMessage (.loss pkg)) s = .next (if almRoom s then s.losePeer pkg else s.almAsk) ∧
    exec (.peerLost pkg) s =
      .next (if peerGone s pkg then (if almRoom s then s.losePeer pkg else s.almAsk) else s) ∧
    (∀ l, exec (.managementMessage (.route pkg l)) s = .next (s.setRoute pkg l)) ∧
    (∀ r ∈ (s.losePeer pkg).routes, r.1 ≠ pkg) ∧ pkg ∈ (s.losePeer pkg).peersLost ∧ ∀ r ∈ (s.losePeer pkg).remote, r.pkg = pkg → r.ans.isSome = true)

/-- EQSET steps the Equinox time forward once; a timing message sets the offset, steps forward, holds or has it closed
by slewing; a snapshot latches its registers at its time; ISL sets a clock within its range and halts only an island
without a resident team; the power limit lowers the compute islands by 25 MHz; an island that is changed gives back its
waiter entries and near lines; a key slot is derived or emptied with its Almanac entry, for which it waits; metered
traffic waits for its tokens and for the Almanac; plaintext is imported encrypted. Where it says more than these rules, it says the
model’s choice in log entries 6, 8, 31, 91, 97, 103, 104, 132, 133, 137, 139 and 155 (R104, R423, R427, R429, R430, R431, R432, R439, R440). -/
def Obligations.PackageEventsComplete : Prop :=
  (∀ (s : State) (v : Dword), exec (.eqsetWrite v) s = .next
    (if s.eqx.setUsed = true ∨ v ≤ s.eqx.now then s else { s with eqx := { s.eqx with now := v, setUsed := true } })) ∧
  (∀ (s : State) (o : Int), (s.eqx.gm = true → exec (.timingMessage o) s = .next s) ∧
    (s.eqx.gm = false → ∃ u, exec (.timingMessage o) s = .next u ∧ u = { s with eqx := u.eqx } ∧
      (-2 ^ 31 ≤ o → o < 2 ^ 31 → u.eqx.ofs = o) ∧ u.eqx.now = (if o ≤ -1000000 then s.eqx.now + BitVec.ofInt 64 (-o) else s.eqx.now) ∧
      (1000000 ≤ o → u.eqx.hold = true) ∧ (o ≤ 0 → u.eqx.hold = false) ∧ (0 < o → o < 1000000 → u.eqx.hold = s.eqx.hold) ∧
      u.eqx.fix = (if o.natAbs < 1000000 then -o * 1000000 else 0) ∧
      u.eqx.lockRun = (if o.natAbs < 100 then s.eqx.lockRun + 1 else 0) ∧ u.eqx.lock = decide (16 ≤ u.eqx.lockRun))) ∧
  (∀ (s : State) (t : Dword), exec (.snapgo t) s = .next { s with snapgo := some t }) ∧
  (∀ s : State, (s.snapgo = none → exec .snapshotLatch s = .next s) ∧
    (∀ t, s.snapgo = some t → s.eqx.now < t → exec .snapshotLatch s = .next s) ∧
    (∀ t, s.snapgo = some t → t ≤ s.eqx.now → ∃ u, exec .snapshotLatch s = .next u ∧ u.snapgo = none ∧
      u = { s with snapgo := none, snap := u.snap } ∧
      (∀ (i : Nat) (x : Dword), i < 1024 → (snapValues s)[i]? = some x → cellGet u.snap i = x) ∧
      ((snapValues s).length ≤ 1024 → ∀ y ∈ s.teams, y.status = .placed → ∀ k i, k < 16 → i < 5 →
        cellGet u.snap (condPlace y.core k i) = condWord s y.core k i))) ∧
  (∀ (s : State) (n : Nat) (v : Dword) (x : Island), s.islands[n]? = some x →
    ∃ u y, exec (.islandControl n v) s = .next u ∧ u.islands[n]? = some y ∧ (∀ j, j ≠ n → u.islands[j]? = s.islands[j]?) ∧
      y.fmhz = (let f := v.toNat / 2 ^ 48
        if 100 ≤ f ∧ f ≤ 850 then f else x.fmhz) ∧ y.thr = x.thr ∧ (x.thr = false → y.cur = y.fmhz) ∧ y.cur ≤ y.fmhz ∧
      y.off = (v.getLsbD 0 && !islandBusy s n) ∧ u.mem = s.mem ∧
      (y ≠ x → (∀ p ∈ u.near, inIsland n p.1 = false) ∧
        ((∀ w ∈ s.waiters, (s.find w.sl).isSome = true) → ∀ w ∈ u.waiters, homeInIsland s n w.ctr = false)) ∧
      (y = x → u = s)) ∧
  (∀ (s : State) (watts : Nat), ∃ u, exec (.powerLimitThrottle watts) s = .next u ∧ u.mem = s.mem ∧
    (∀ (i : Nat) (x : Island), s.islands[i]? = some x → u.islands[i]? = some
      (if computeIsland i = false then x
        else if s.pwrlim < watts then { x with cur := max 100 (x.cur - 25), thr := true }
        else { x with cur := x.fmhz, thr := false })) ∧
    (∀ (i : Nat) (x y : Island), computeIsland i = true → s.islands[i]? = some x → u.islands[i]? = some y → x.cur ≠ y.cur →
      ∀ p ∈ u.near, inIsland i p.1 = false) ∧
    ((∀ (i : Nat) (x y : Island), s.islands[i]? = some x → u.islands[i]? = some y → x.cur = y.cur) →
      u = { s with islands := u.islands })) ∧
  (∀ (s : State) (n : Nat), (∀ k, s.keys[n]? = some k → k.full = true) → exec (.keyDerive n) s = .next s) ∧
  (∀ (s : State) (n : Nat) (k : KeySlot), s.keys[n]? = some k → almRoom s = false →
    (k.full = false → exec (.keyDerive n) s = .next s.almAsk) ∧ (k.full = true → exec (.keyClear n) s = .next s.almAsk)) ∧
  (∀ (s : State) (n : Nat) (k : KeySlot), s.keys[n]? = some k → almRoom s = true →
    (k.full = false → exec (.keyDerive n) s = .next ({ s with
      keys := s.keys.set n { k with full := true, key := sealKey Config.sealRoot k.salt n } }.almAppend 2 0
        (bytesOf n 4 ++ bytesOf 1 4))) ∧
    (k.full = true → exec (.keyClear n) s = .next ({ s with keys := s.keys.set n { k with full := false, key := 0 } }.almAppend 2 0
      (bytesOf n 4 ++ bytesOf 0 4)))) ∧
  (∀ (s : State) (n : Nat), (∀ k, s.keys[n]? = some k → k.full = false) → exec (.keyClear n) s = .next s) ∧
  (∀ (s : State) (evt ctx : Nat) (data : List Byte),
    (almRoom s = true → s.almWait = [] → (s.almAppend evt ctx data).alm.seq = s.alm.seq + 1 ∧
      (s.almAppend evt ctx data).alm.prev = BitVec.ofNat 512 (ofBytes (sha512 (almEntry s evt ctx data))) ∧
      (s.almAppend evt ctx data).almWait = []) ∧
    (almRoom s = false ∨ s.almWait ≠ [] → s.almAppend evt ctx data = { s with almWait := s.almWait ++ [(evt, ctx, data)] })) ∧
  (∀ (s : State) (c : Nat), (s.metered.find? (fun m => m.cls = c) = none → exec (.egressRelease c) s = .next s) ∧
    (∀ m, s.metered.find? (fun m => m.cls = c) = some m →
      (s.meter c m.bytes = none → exec (.egressRelease c) s = .next s.almAsk) ∧
      (s.meter c m.bytes ≠ none →
        (∀ w, m.what = .copy w → exec (.egressRelease c) s = .next (s.meterDone (.copy w))) ∧
        (∀ host dec off own, m.what = .hostRead host dec off own →
          exec (.egressRelease c) s = exec (.hostHdmRead host dec off own) s) ∧
        (∀ pkg fctx va size tag, m.what = .peerRead pkg fctx va size tag →
          exec (.egressRelease c) s = exec (.peerReadRequest pkg fctx va size tag) s) ∧
        (∀ pa n, m.what = .debugRead pa n → exec (.egressRelease c) s = .next (debugReadAt s pa n))))) ∧
  (∀ (s : State) (c n : Nat), s.meter 0 n = some s ∧
    (0 < c → ((s.egressOf c).rate = 0 ∨ (s.egressOf c).bucket < 1000 * n ∨ almRoom s = false) → s.meter c n = none) ∧
    (0 < c → c < s.egress.length → (s.egressOf c).rate ≠ 0 → 1000 * n ≤ (s.egressOf c).bucket → almRoom s = true →
      ∃ u, s.meter c n = some u ∧
      (u.egressOf c).bucket = (s.egressOf c).bucket - 1000 * n ∧ (u.egressOf c).total = (s.egressOf c).total + n)) ∧
  (∀ (s : State) (w off : Nat) (data : List Byte),
    ((s.window w).en = false ∨ (s.window w).isSealed = false ∨ data = [] ∨ (s.window w).bytes < off + data.length →
      exec (.sealImport w off data) s = .next s) ∧
    ((s.window w).en = true → (s.window w).isSealed = true → data ≠ [] → off + data.length ≤ (s.window w).bytes →
      almRoom s = false → ∀ k, s.keys[(s.window w).ks]? = some k → k.full = true →
      exec (.sealImport w off data) s = .next s.almAsk) ∧
    ((s.window w).en = true → (s.window w).isSealed = true → data ≠ [] → off + data.length ≤ (s.window w).bytes →
      almRoom s = true → ∀ k, s.keys[(s.window w).ks]? = some k → k.full = true →
      let x := s.window w
      let us := (List.range ((off + data.length - 1) / 128 - off / 128 + 1)).map fun i => off / 128 + i
      (us.flatMap fun u => snoopNeed s true (lineOf (x.base + 128 * u))) = [] →
      locNeeds s (us.flatMap fun u => (List.range 128).map fun i => Loc.phys (x.base + 128 * u + i)) = [] →
      exec (.sealImport w off data) s = .next
        (((s.recall none (us.map fun u => lineOf (x.base + 128 * u))).writeNow
          ((us.flatMap fun u => addrBytes (x.base + 128 * u) (sealUnit s x k.key off data u)).map fun p =>
            (Loc.phys p.1, p.2))).almAppend 3 0 (bytesOf w 4 ++ bytesOf 0 4 ++ bytesOf off 8 ++ bytesOf data.length 8))))

/-- ALMBASE takes its first write only; ALMACK releases signed blocks; the port answers with the entry chosen; the
leader adds to its heartbeat counter and followers count its silence, contend in turn with an add to the epoch counter
and revoke the old port, whose pair stops; a mismatch stops a pair; a package reset gives the reset values and the lowest
pair that passes leads; a report is signed; what must enter the Almanac waits for it; register writes of the wrong size or
place are dropped and the others do what their register does; a service pair acts on memory, counters and its private
registers while it is live and its port is not revoked. Where it says more than these rules, it says the model’s choice
in log entries 6, 8, 27, 35, 87, 88, 91 to 96, 105, 106, 126, 130 to 133, 138, 139, 149 and 155 (R309, R355, R411, R412, R427, R428, R432, R433, R435). -/
def Obligations.ServiceEventsComplete : Prop :=
  (∀ (s : State) (v : Dword), (∀ b, s.alm.base = some b → exec (.almbaseWrite v) s = .next s) ∧
    (s.alm.base = none → s.almWait = [] → exec (.almbaseWrite v) s =
      .next { s with alm := { s.alm with base := some (v &&& 0x000FFFFFFFF00000).toNat } })) ∧
  (∀ (s : State) (k : Nat), ∃ u, exec (.almack k) s = .next u ∧
    u.alm.released = max s.alm.released (min (k + 1) (s.alm.seq / 64)) ∧
    (s.almWait = [] → u = { s with alm := { s.alm with released := u.alm.released } })) ∧
  (∀ (s : State) (v : Dword), ∃ u, exec (.almanacPortSelect v) s = .next u ∧
    u = { s with alm := { s.alm with port := v }, reply := u.reply, replyBad := false } ∧
    (∀ b, s.alm.base = some b → v.msb = false → u.reply = cellList s.mem (b + 128 * (v.toNat % 2 ^ 20)) 128)) ∧
  (∀ s : State, ctrNeeds s true (.phys s.svcPage) ++ ctrNeeds s false (.phys (s.svcPage + 8)) = [] →
    let s1 := if (s.pair s.leader).live ∧ (s.pair s.leader).port then ((s.recall none [lineOf s.svcPage]).ctrAdd (.phys s.svcPage) 1).1 else s
    let s2 := s1.ctrSettle (.phys (s.svcPage + 8))
    let beat := (ctrValue s2 (.phys s.svcPage)).toNat
    let epoch := (ctrValue s2 (.phys (s.svcPage + 8))).toNat
    ∃ u, exec .leaderHeartbeat s = .next u ∧ u = { s2 with pairs := u.pairs } ∧
      ∀ (d : Nat) (p : Pair), s.pairs[d]? = some p → ∃ q, u.pairs[d]? = some q ∧
        (d = s.leader ∨ p.live = false → q = p) ∧
        (d ≠ s.leader → p.live = true → p.port = false → q = { p with live := false }) ∧
        (d ≠ s.leader → p.live = true → p.port = true →
          q = if p.seen = beat then { p with quiet := p.quiet + 1 } else { p with seen := beat, epoch := epoch, quiet := 0 })) ∧
  (∀ s : State, ctrNeeds s true (.phys s.svcPage) ++ ctrNeeds s false (.phys (s.svcPage + 8)) ≠ [] →
    exec .leaderHeartbeat s = .next (s.request (ctrNeeds s true (.phys s.svcPage) ++ ctrNeeds s false (.phys (s.svcPage + 8))))) ∧
  (∀ (s : State) (d : Nat),
    let wait := 10 + 2 * ((d + 4 - s.leader) % 4)
    (4 ≤ d ∨ d = s.leader ∨ (s.pair d).live = false ∨ (s.pair d).port = false ∨ (s.pair d).quiet < wait →
      exec (.leaderTakeover d) s = .next s) ∧
    (d < 4 → d ≠ s.leader → (s.pair d).live = true → (s.pair d).port = true → wait ≤ (s.pair d).quiet →
      (almRoom s = false → exec (.leaderTakeover d) s = .next s.almAsk) ∧
      (almRoom s = true → ctrNeeds s true (.phys (s.svcPage + 8)) = [] → d < s.pairs.length →
        let r := (s.recall none [lineOf s.svcPage]).ctrAdd (.phys (s.svcPage + 8)) 1
        (r.2.toNat = (s.pair d).epoch → ∃ u, exec (.leaderTakeover d) s = .next
            (({ r.1 with leader := d, pairs := u } : State).almAppend 7 0 (bytesOf s.leader 4 ++ bytesOf d 4)) ∧
          u[d]? = some { s.pair d with port := true, quiet := 0, epoch := (s.pair d).epoch + 1 } ∧
          (∀ x, s.pairs[s.leader]? = some x → u[s.leader]? = some { x with port := false }) ∧
          ∀ i, i ≠ d → i ≠ s.leader → u[i]? = s.pairs[i]?) ∧
        (r.2.toNat ≠ (s.pair d).epoch → ∃ u, exec (.leaderTakeover d) s = .next { r.1 with pairs := u } ∧
          u[d]? = some { s.pair d with quiet := 0, epoch := r.2.toNat + 1 } ∧ ∀ i, i ≠ d → u[i]? = s.pairs[i]?)))) ∧
  (∀ (s : State) (d : Nat), (4 ≤ d → exec (.servicePairMismatch d) s = .next s) ∧
    (d < 4 → almRoom s = false → exec (.servicePairMismatch d) s = .next s.almAsk) ∧
    (d < 4 → almRoom s = true → exec (.servicePairMismatch d) s = .next ({ s with
      pairs := s.pairs.modify d fun (x : Pair) => { x with live := false } }.almAppend 8 0 (bytesOf d 4)))) ∧
  (∀ (s : State) (t : BitVec 4), ∃ u, exec (.packageReset t) s = .next u ∧
    u = { State.reset with agenda := s.agenda, pairs := u.pairs, leader := u.leader } ∧
    (∀ d, d < 4 → (u.pair d).live = t.getLsbD d) ∧ (t ≠ 0 → t.getLsbD u.leader = true ∧ ∀ d, d < u.leader → t.getLsbD d = false)) ∧
  (∀ (s : State) (n : List Byte), (n.length ≠ 64 → exec (.attestationRequest n) s = .next s) ∧
    (n.length = 64 → almRoom s = false → exec (.attestationRequest n) s = .next s.almAsk) ∧
    (n.length = 64 → almRoom s = true → ∃ u y, exec (.attestationRequest n) s = .next u ∧ y = s.almAppend 10 0 (n.take 40) ∧
      u = { y with alm := { y.alm with signs := y.alm.signs + 1 }, reply := u.reply, replyBad := false } ∧
      u.reply = (n ++ sealId ++ bytesOf 0xB0 4 ++ sha512 (allMeasures s) ++ bytesOf s.alm.seq 8) ++
        (Config.ecdsaSign s.alm.signs (sha512 (n ++ sealId ++ bytesOf 0xB0 4 ++ sha512 (allMeasures s) ++
          bytesOf s.alm.seq 8))).take 132)) ∧
  (∀ (s : State) (who : Agent) (off size : Nat) (v : Dword),
    (reachesBar who = false ∨ 2 ^ 25 ≤ off → exec (.registerWrite who off size v) s = .next s) ∧
    (s.mayAct who = true → off / 65536 ≠ 4 → (size ≠ 4 ∧ size ≠ 8) ∨ (size = 8 ∧ off % 8 ≠ 0) ∨ (size = 4 ∧ off % 4 ≠ 0) →
      exec (.registerWrite who off size v) s = .next s) ∧
    (reachesBar who = true → off < 2 ^ 25 → s.mayAct who = false →
      exec (.registerWrite who off size v) s = .next (s.stopRevoked who))) ∧
  (∀ (s : State) (d : Nat), (s.mayAct (.service d) = true ↔ (s.pair d).live = true ∧ (s.pair d).port = true) ∧
    ((s.pair d).port = false → ((s.stopRevoked (.service d)).pair d).live = false) ∧
    ((s.pair d).live = false → s.stopRevoked (.service d) = s) ∧ (∀ h, s.mayAct (.host h) = true)) ∧
  (∀ (s : State) (h : Nat) (v : Dword),
    (∀ n, n < 8192 → exec (.registerWrite (.host h) (0x40000 + 8 * n) 8 v) s = exec (.counterAddWindowWrite n 8 v) s) ∧
    (∀ q, q < 64 → exec (.registerWrite (.host h) (0x12000 + 8 * q) 8 v) s = exec (.qverUpdate q v) s) ∧
    exec (.registerWrite (.host h) 0x13000 8 v) s = heartbeatOf v s ∧
    (∀ d, d < 4 → exec (.registerWrite (.host h) (0x30100 + 8 * d) 8 v) s = exec (.carveoutChange d v) s ∧
      exec (.registerWrite (.host h) (0x30200 + 8 * d) 8 v) s = exec (.chrsvWrite d v) s) ∧
    exec (.registerWrite (.host h) 0x30018 8 v) s = exec (.shootdown v) s ∧
    exec (.registerWrite (.host h) 0x58000 8 v) s = exec (.almanacPortSelect v) s ∧
    exec (.registerWrite (.host h) 0x58008 8 v) s = exec (.almack v.toNat) s ∧
    (∀ n, n < 24 → exec (.registerWrite (.host h) (0x61000 + 16 * n) 8 v) s = exec (.islandControl n v) s) ∧
    exec (.registerWrite (.host h) 0x60008 8 v) s = exec (.eqsetWrite v) s ∧
    exec (.registerWrite (.host h) 0x60100 8 v) s = exec (.snapgo v) s ∧
    (∀ w, w < 64 → (s.window w).en = false → v.getLsbD 1 = false →
      (v.getLsbD 0 = true → exec (.registerWrite (.host h) (0x24000 + 64 * w) 8 v) s = exec (.windowEnable w v) s) ∧
      exec (.registerWrite (.host h) (0x24008 + 64 * w) 8 v) s =
        .next { s with windows := s.windows.modify w fun (x : Window) => { x with raw := v } }) ∧
    (∀ w, w < 64 → (s.window w).en = true →
      (v.getLsbD 0 = false → exec (.registerWrite (.host h) (0x24000 + 64 * w) 8 v) s = exec (.windowDisable w v) s) ∧
      exec (.registerWrite (.host h) (0x24008 + 64 * w) 8 v) s = .next s) ∧
    (∀ n, n < 64 → exec (.registerWrite (.host h) (0x50000 + 64 * n) 8 v) s = .next s)) ∧
  (∀ (s : State) (d n : Nat) (v : Dword), n < 64 → v.getLsbD 0 = true → s.mayAct (.service d) = true →
    exec (.registerWrite (.service d) (0x50000 + 64 * n) 8 v) s = exec (.keyDerive n) s) ∧
  (∀ (s : State) (d : Nat) (acc : ServiceAccess), s.mayAct (.service d) = false →
    exec (.servicePairAccess d acc) s = .next (s.stopRevoked (.service d))) ∧
  (∀ (s : State) (d pa n : Nat), s.mayAct (.service d) = true → physBad s pa n = false →
    let seat := Seat.of (.service d) d
    let t := physTarget s pa 0
    (inSealed s pa n = true → exec (.servicePairAccess d (.load pa n)) s = .next (if almRoom s then
      ({ s with reply := List.replicate n 0xFF, replyBad := true } : State).almAppend 6 0 (bytesOf pa 8) else s.almAsk)) ∧
    exec (.servicePairAccess d (.debugRead pa n)) s = .next (debugReadAt s pa n) ∧
    (inSealed s pa n = false → spanNeeds s false n t = [] → exec (.servicePairAccess d (.load pa n)) s =
      .next { (s.recall none (spanLines t n)).fillFor seat t n with
        reply := readTarget ((s.recall none (spanLines t n)).fillFor seat t n) seat t n, replyBad := spanPoisoned s n t })) ∧
  (∀ (s : State) (d pa : Nat) (data : List Byte), s.mayAct (.service d) = true → physBad s pa data.length = false →
    let t := physTarget s pa 0
    (inSealed s pa data.length = true ∨ t = .dec (pa / 2 ^ 38 % 64) (pa % 2 ^ 38) → exec (.servicePairAccess d (.store pa data)) s =
      .next (if almRoom s then s.almAppend 6 0 (bytesOf pa 8) else s.almAsk)) ∧
    (inSealed s pa data.length = false → (∀ w q, t ≠ .dec w q) → spanNeeds s true data.length t = [] →
      locNeeds s (readLocs s data.length t) = [] → exec (.servicePairAccess d (.store pa data)) s = .next (s.spanWrite t data))) ∧
  (∀ (s : State) (d pa : Nat) (v : Dword), s.mayAct (.service d) = true → pa % 8 = 0 → physBad s pa 8 = false →
    inSealed s pa 8 = false →
    let seat := Seat.of (.service d) d
    let own (w : PWrite) : Bool := decide (w.seat.who = seat.who)
    let added (s : State) : State := { ((s.recall none [lineOf pa]).ctrAdd (.phys pa) v).1 with
      reply := bytesOf ((s.recall none [lineOf pa]).ctrAdd (.phys pa) v).2.toNat 8, replyBad := false }
    (ctrNeeds s true (.phys pa) = [] →
      exec (.servicePairAccess d (.counterAdd pa v none)) s = .next (added s) ∧
      ∀ scope, (4 ≤ scope → coverNeeds s (coveredBy seat own) = []) →
        exec (.servicePairAccess d (.counterAdd pa v (some scope))) s = .next (added (s.releaseWrites seat own scope))) ∧
    (ctrNeeds s false (.phys pa) = [] → exec (.servicePairAccess d (.counterRead pa)) s =
      .next { s.recall none [lineOf pa] with reply := bytesOf (ctrValue s (.phys pa)).toNat 8, replyBad := ctrPoisoned s (.phys pa) })) ∧
  (∀ (s : State) (d : Nat) (r : PrivReg) (v : Dword), s.mayAct (.service d) = true →
    exec (.servicePairAccess d (.privWrite r v)) s = .next (privWrite r v s) ∧
    exec (.servicePairAccess d (.privRead r)) s = .next { s with reply := bytesOf (privWord s r).toNat 8, replyBad := false }) ∧
  (∀ (s : State) (d ctx name : Nat), s.mayAct (.service d) = true →
    exec (.servicePairAccess d (.clearStuck ctx name)) s = .next (s.modSeg ctx name fun (g : Segment) => { g with stuck := false })) ∧
  (∀ (s : State) (d n : Nat), s.mayAct (.service d) = true → (∀ w ∈ s.waiters, (s.find w.sl).isSome = true) →
    ∃ u, exec (.servicePairAccess d (.moveWaiters n)) s = .next u ∧ ∀ w ∈ u.waiters, homeInIsland s n w.ctr = false) ∧
  (∀ (s : State) (n : Nat) (v : Dword) (c : Context), s.ctxs.find? (fun x => x.desc = n) = some c →
    ((privWrite (.ctxWord n 0) v s).ctxs.find? fun x => x.desc = n) = some { c with ptroot := (v &&& ~~~0xFFF).toNat } ∧
    (∀ i, i < 4 → privWord (privWrite (.ctxWord n (0x400 + 8 * i)) v s) (.ctxWord n (0x400 + 8 * i)) = 0) ∧
    (∃ y, ((privWrite (.ctxWord n 0x558) v s).ctxs.find? fun x => x.desc = n) = some y ∧ y.svlo = v &&& ~~~7 ∧
      y.diverted = false) ∧
    (∃ y, ((privWrite (.ctxWord n 0x008) v s).ctxs.find? fun x => x.desc = n) = some y ∧ y.num = v.toNat % 2 ^ 32 ∧
      y.fen = v.getLsbD 32) ∧
    (∀ i, 0 < i → i < 16 → c.pers.length = 15 → c.persNext = none →
      ∃ y l, ((privWrite (.ctxWord n (0x440 + 16 * i)) v s).ctxs.find? fun x => x.desc = n) = some y ∧ y.pers = c.pers ∧
        y.persNext = some l ∧ ∀ x, c.pers[i - 1]? = some x → l[i - 1]? = some (x.1, v.msb, v.toNat % 65536)) ∧
    ∀ m, m ≠ n → ((privWrite (.ctxWord n 0) v s).ctxs.find? fun x => x.desc = m) = s.ctxs.find? fun x => x.desc = m)

/-- In the state after reset every register of the package holds the reset value of its table: the carve-out at 4,
windows and queues disabled, islands at 850 MHz, 1,650 W, the Equinox counter at 0, empty key slots, links down; no
context, team, launch, command or segment exists, and memory and the writes in flight are in their canonical forms.
Where it says more than these rules, it says the model’s choice in log entries 1, 2 and 106 (R16, R100, R114, R123,
R323, R389, R423, R424, R425, R429, R440, R442). -/
def Obligations.ResetGivesTheSpecifiedValues : Prop :=
  let s := State.reset
  (∀ d, d < 4 → s.l2cfg[d]? = some { cur := 4, sts := 0, csz := 4 } ∧ s.chrsv[d]? = some 0) ∧
  (∀ w, w < 64 → s.windows[w]? = some .zero ∧ (s.window w).ctl = 0 ∧ (s.window w).raw = 0 ∧ (s.window w).size = 0 ∧
    (s.window w).scl = 0) ∧
  (∀ q, q < 64 → (s.queue q).cur.en = false ∧ (s.queue q).sts = 0 ∧ (s.queue q).next = 0 ∧ (s.queue q).reason = 0 ∧
    (s.queue q).idx = 0 ∧ (s.queue q).seq = 0 ∧ (s.queue q).sel = false ∧ (s.queue q).c0 = (s.queue q).c1) ∧
  s.shoot.ctx = 0 ∧ s.shoot.va = 0 ∧ s.shoot.len = 0 ∧ s.shoot.kind = 0 ∧ s.shoot.sts = 0 ∧ s.shoot.bsy = false ∧
  (∀ n, n < 24 → ∃ x, s.islands[n]? = some x ∧ x.fmhz = 850 ∧ x.cur = 850 ∧ x.thr = false ∧ x.off = false ∧ x.clock = 0) ∧
  s.pwrlim = 1650 ∧ s.eqx.now = 0 ∧ s.eqx.ofs = 0 ∧ s.eqx.gm = false ∧ s.eqx.hold = false ∧ s.eqx.lock = false ∧
  s.eqx.setUsed = false ∧ s.fe.rboot = 0 ∧ s.fe.win = false ∧ s.fe.fwup = false ∧ s.fe.krctx = 0 ∧ s.fe.kridx = 0 ∧
  s.fe.krnew = 0 ∧ s.fe.krbsy = false ∧ s.fe.krsts = false ∧
  (∀ n, n < 64 → ∃ k, s.keys[n]? = some k ∧ k.full = false ∧ k.salt = 0) ∧
  (∀ c, c < 8 → ∃ e, s.egress[c]? = some e ∧ e.rate = 0 ∧ e.burst = 0 ∧ e.total = 0 ∧ e.held = 0) ∧
  (∀ n, n < 18 → ∃ l, s.links[n]? = some l ∧ l.replay = 0 ∧ l.wid = 0 ∧ l.st = 0) ∧
  s.alm.base = none ∧ s.alm.seq = 0 ∧ s.ctxs = [] ∧ s.teams = [] ∧ s.launches = [] ∧ s.cmds = [] ∧ s.segs = [] ∧
  s.waiters = [] ∧ s.tlb = [] ∧ s.walkCache = [] ∧ s.icache = [] ∧ s.recs = [] ∧ s.leader = 0 ∧ MemOk s ∧ WritesOk s

/-- From every state, whatever slot issues, event happens or time passes: if physical memory is a strictly rising list
without a listed zero it stays one, and if the writes in flight are distinct and of two that meet the earlier is
performed at least as far, they stay so. Where it says more than these rules, it says the model’s choice in log
entries 10 and 12 (R95, R181, R314, R315). -/
def Obligations.EveryStepKeepsMemoryAndWritesInOrder : Prop :=
  (∀ s t : State, MemOk s → step s = .next t → MemOk t) ∧
  (∀ s t : State, WritesOk s → step s = .next t → WritesOk t) ∧
  (∀ (i : Instr) (s t : State), MemOk s → exec i s = .next t → MemOk t) ∧
  (∀ (i : Instr) (s t : State), WritesOk s → exec i s = .next t → WritesOk t)

/-- For every operation with every field at every value its word can hold, decoding its encoding answers it; for every
64-bit word, encoding what it decodes to answers the word; a word decodes to an unassigned opcode exactly where R53
lists no operation; bytes decode least significant first, and fewer than eight are turned away (R26, R28, R29, R30,
R32, R33, R34, R45, R53, R54). -/
def Obligations.DecodeAndEncodeAgree : Prop :=
  (∀ i : Instr, i.wellFormed = true → ∃ w, encode i = some w ∧ decodeWord w = i) ∧
  (∀ w : Dword, (decodeWord w).wellFormed = true ∧ encode (decodeWord w) = some w) ∧
  (∀ w : Dword, decodeWord w = .unassignedOpcode w ↔ wordAssigned w = false) ∧
  (∀ (w : Dword) (r : List Byte), decodeBytes (bytesOfWord w ++ r) = .ok (decodeWord w, r)) ∧
  (∀ b : List Byte, b.length < 8 → decodeBytes b = .error (.truncated b.length))

/-- Nine words whose fields the spec works out, one of each class and REP, decode to their operations with those
fields (R26, R45, R53). -/
def Obligations.WordsOfTheSpecDecode : Prop :=
  decodeWord 0x20B0_0085_8500_3000 = .vmul { c := ⟨true, true, 0, false⟩, d := 0, sa := 0x85, sb := 0x85, sc := 0, ty := 3
                                             rm := 0, sat := false, opb := 0 } ∧
  decodeWord 0x0840_1400_CCCC_CCCD = .smovi { c := ⟨false, false, 0, false⟩, d := 20, sa := 0, imm := 0xCCCCCCCD } ∧
  decodeWord 0x4082_0A04_0200_2080 = .vld { c := ⟨false, false, 1, false⟩, d := 10, sa := 4, sb := 2, sc := 0, str := 2
                                            spc := 0, sz := 2, sco := 0, cp := 0 } ∧
  decodeWord 0x6040_1E14_C112_FFFF = .caddx { c := ⟨false, false, 0, false⟩, d := 30, sa := 20, sb := 0xC1, rsv := false
                                              far := false, near := false, acq := true, rel := false, scope := 2
                                              mask := 0xFFFF } ∧
  decodeWord 0x80C0_0008_C510_CC10 = .mmam { c := ⟨false, false, 0, false⟩, d := 0, sa := 8, sb := 0xC5, sc := 0x10, fa := 0xC
                                             fb := 0xC, str := 1, xb := 0 } ∧
  decodeWord 0xA000_0008_0C10_40A0 = .copy { c := ⟨false, false, 0, false⟩, d := 0, sa := 8, sb := 12, sc := 16, m := 0x40A0 } ∧
  decodeWord 0xC080_0001_0000_0003 = .brdiv { c := ⟨false, false, 0, false⟩, d := 0, sa := 1, disp := 3 } ∧
  decodeWord 0xE000_0C90_0000_0000 = .rep { hi := 0, n1 := 3, sd := 1, sa := 1, sb := 0, sc := 0, lo := 0 } ∧
  decodeWord 0xE400_0004_0000_0000 = .halt { c := ⟨false, false, 0, false⟩, d := 0, sa := 4, sb := 0, sc := 0, m := 0 }

/-- When the turn is a slot whose word is cached, step is exec of the decoded word in that state; it fills the line
first where it is missing, ends a chain of 128, issues the next instance of a REP or the next word of an expansion,
makes the forced stop it was asked for at its next boundary, or decodes a guest instruction; an event is its exec; time
moves each running island by the cycles of its own clock, and the Equinox counter, at half rate in a hold and within 200
parts per million while an offset is closed, and changes nothing in memory; with an empty agenda the default turn is
taken. Where it says more than these rules, it says the model’s choice in log entries 3, 4, 5, 7 and 137 (R23, R26, R42, R45,
R338, R344, R369, R384, R423). -/
def Obligations.AStepRunsTheDecodedInstruction : Prop :=
  (∀ (s : State) (sl : SlotId) (r : List Turn), s.agenda = .issue sl :: r →
    let s1 := { s with agenda := r, tick := s.tick + 1, cur := sl }
    (s1.view = none → step s = .fault .noIssuingSlot) ∧
    (∀ v w, s1.view = some v → plainFetch s1 = some v → cachedWord s1 v.t.core v.t.ctx v.p.pc = some w →
      inServiceRange s1 v = v.p.svcOk →
      (wordCls w ≠ 7 ∨ wordOp w ≠ 0 ∨ (cachedWord s1 v.t.core v.t.ctx (v.p.pc + 8)).isSome = true) →
      step s = exec (decodeWord w) s1) ∧
    (∀ v, s1.view = some v → plainFetch s1 = some v → cachedWord s1 v.t.core v.t.ctx v.p.pc = none →
      inServiceRange s1 v = v.p.svcOk →
      step s = exec (.instructionCacheFill v.t.core v.t.ctx v.p.pc.toNat) s1) ∧
    (∀ v, s1.view = some v → v.p.poisonStop = none → v.p.chainOpen = true → 128 ≤ v.p.chainLen →
      step s = exec (.chainHoldLimit v.sl) s1) ∧
    (∀ v, s1.view = some v → v.p.poisonStop = none → v.p.chainOpen = false →
      (∀ x, v.p.rep = some x → step s = exec (decodeWord x.instance_) s1) ∧
      (∀ x w, v.p.rep = none → v.p.exp = some x → x.words[x.idx]? = some w → step s = exec (decodeWord w) s1) ∧
      (v.p.rep = none → v.p.exp = none → v.p.stopAtBoundary = true → step s = .next (s1.putSlot v v.p.stopHere)) ∧
      (v.p.rep = none → v.p.exp = none → v.p.stopAtBoundary = false → v.p.pers ≠ 0 → inServiceRange s1 v = v.p.svcOk →
        (cachedHalf s1 v.t.core v.t.ctx v.p.pc).isSome = true → step s = exec (.guestDecode v.sl) s1))) ∧
  (∀ (s : State) (i : Instr) (r : List Turn), s.agenda = .event i :: r →
    (encode i = none → step s = exec i { s with agenda := r, tick := s.tick + 1 }) ∧
    (encode i ≠ none → step s = .refused .notAnEvent)) ∧
  (∀ (s : State) (n : Nat) (r : List Turn), s.agenda = .pass n :: r →
    ∃ t, step s = .next t ∧ t.mem = s.mem ∧ t.writes = s.writes ∧ t.cycle = s.cycle + 1 ∧
      (s.eqx.hold = true → t.eqx.now = s.eqx.now + BitVec.ofNat 64 ((n + bitOf s.eqx.half) / 2)) ∧
      (s.eqx.hold = false → s.eqx.fix = 0 → t.eqx.now = s.eqx.now + BitVec.ofNat 64 n) ∧
      (s.eqx.hold = false → s.eqx.fix ≠ 0 → s.eqx.part < 1000000 → ∃ k, t.eqx.now = s.eqx.now + BitVec.ofNat 64 k ∧
        1000000 * k ≤ 1000200 * n + s.eqx.part ∧ 999800 * n + s.eqx.part < 1000000 * (k + 1) ∧ t.eqx.part < 1000000 ∧
        t.eqx.fix.natAbs ≤ s.eqx.fix.natAbs ∧ (0 < s.eqx.fix → 0 ≤ t.eqx.fix) ∧ (s.eqx.fix < 0 → t.eqx.fix ≤ 0)) ∧
      ∀ (k : Nat) (x : Island), s.islands[k]? = some x → t.islands[k]? = some (if x.off then x else
        { x with clock := x.clock + (x.cur * n + x.part) / 1000, part := (x.cur * n + x.part) % 1000 })) ∧
  (∀ s : State, s.agenda = [] → step s = step { s with agenda := [defaultTurn s] })

/-- A word decodes to an unassigned opcode exactly where its class and OP value stand in the table of R54, in every
class; a slot that issues one has its wave killed with cause 0x01 (R54). -/
def Obligations.UnassignedOpcodesAreExactlyThese : Prop :=
  (∀ w : Dword, decodeWord w = .unassignedOpcode w ↔
    ((wordCls w = 0 ∧ (wordOp w ∈ [0x07, 0x16, 0x17, 0x1E, 0x1F] ∨ (0x22 ≤ wordOp w ∧ wordOp w ≤ 0x27) ∨ 0x2D ≤ wordOp w)) ∨
    (wordCls w = 1 ∧ (wordOp w ∈ [0x06, 0x07, 0x0F, 0x1E, 0x1F, 0x2D, 0x2E, 0x2F, 0x4D, 0x4E, 0x4F] ∨
      (0x38 ≤ wordOp w ∧ wordOp w ≤ 0x3F) ∨ 0x55 ≤ wordOp w)) ∨
    (wordCls w = 2 ∧ (wordOp w ∈ [0x06, 0x07, 0x0A, 0x0B, 0x0E, 0x0F] ∨ 0x12 ≤ wordOp w)) ∨
    (wordCls w = 3 ∧ ((0x06 ≤ wordOp w ∧ wordOp w ≤ 0x0F) ∨ (0x17 ≤ wordOp w ∧ wordOp w ≤ 0x1F) ∨ 0x22 ≤ wordOp w)) ∨
    (wordCls w = 4 ∧ (wordOp w ∈ [0x06, 0x07] ∨ (0x0C ≤ wordOp w ∧ wordOp w ≤ 0x0F) ∨ 0x12 ≤ wordOp w)) ∨
    (wordCls w = 5 ∧ ((0x04 ≤ wordOp w ∧ wordOp w ≤ 0x07) ∨ 0x0A ≤ wordOp w)) ∨
    (wordCls w = 6 ∧ (wordOp w = 0x07 ∨ (0x0D ≤ wordOp w ∧ wordOp w ≤ 0x0F) ∨ 0x12 ≤ wordOp w)) ∨
    (wordCls w = 7 ∧ (wordOp w ∈ [0x03, 0x06, 0x07] ∨ (0x0A ≤ wordOp w ∧ wordOp w ≤ 0x0F) ∨ 0x11 ≤ wordOp w)))) ∧
  (∀ (s : State) (v : View) (w : Dword), s.view = some v → exec (.unassignedOpcode w) s = .next (s.killWave v 0x01))

/-- For every value and threshold of 64 bits, reached answers true when their difference modulo 2^64 is below 2^63 and
false otherwise; the two cases of the rule come out as it says (R286). -/
def Obligations.ThresholdsAreReachedModulo : Prop :=
  (∀ v t : Dword, reached v t = true ↔ (v.toNat + 2 ^ 64 - t.toNat) % 2 ^ 64 < 2 ^ 63) ∧
  (∀ v t : Dword, reached v t = false ↔ ¬ (v.toNat + 2 ^ 64 - t.toNat) % 2 ^ 64 < 2 ^ 63) ∧
  reached 0xFFFF_FFFF_FFFF_FFFE 0x0000_0000_0000_0001 = false ∧
  reached 0x0000_0000_0000_0002 0x0000_0000_0000_0001 = true
end

