-- ==== Sys2Proof/Laws/Cells.lean ====
section
/-!
SUPPORT. The laws of sparse stores: a read after a write, and that every operation keeps the canonical form.
-/

namespace Sys2Proof.Machine

variable {w : Nat}

@[simp] theorem cellGet_nil (a : Nat) : cellGet ([] : Cells w) a = 0 := rfl

theorem cellGet_cons (k : Nat) (x : BitVec w) (r : Cells w) (a : Nat) :
    cellGet ((k, x) :: r) a = if k = a then x else cellGet r a := rfl

theorem cellsWfFrom_mono {m : Cells w} {lo hi : Nat} (h : cellsWfFrom hi m = true) (le : lo ≤ hi) :
    cellsWfFrom lo m = true := by
  cases m with
  | nil => rfl
  | cons c r =>
    obtain ⟨k, x⟩ := c
    simp only [cellsWfFrom, Bool.and_eq_true, decide_eq_true_eq] at h ⊢
    exact ⟨⟨by omega, h.1.2⟩, h.2⟩

theorem cellsWfFrom_filter {m : Cells w} {lo : Nat} (p : Nat → Bool) (h : cellsWfFrom lo m = true) :
    cellsWfFrom lo (m.filter fun c => p c.1) = true := by
  induction m generalizing lo with
  | nil => rfl
  | cons c r ih =>
    obtain ⟨k, x⟩ := c
    simp only [cellsWfFrom, Bool.and_eq_true, decide_eq_true_eq] at h
    rw [List.filter_cons]
    split
    · simp only [cellsWfFrom, Bool.and_eq_true, decide_eq_true_eq]
      exact ⟨h.1, ih h.2⟩
    · exact cellsWfFrom_mono (ih h.2) (by omega)

theorem cellsWfFrom_cellPut {m : Cells w} {lo a : Nat} {x : BitVec w} (h : cellsWfFrom lo m = true) (le : lo ≤ a)
    (hx : x ≠ 0) : cellsWfFrom lo (cellPut m a x) = true := by
  induction m generalizing lo with
  | nil => simp only [cellPut, cellsWfFrom, Bool.and_eq_true, decide_eq_true_eq]; exact ⟨⟨le, hx⟩, trivial⟩
  | cons c r ih =>
    obtain ⟨k, y⟩ := c
    simp only [cellPut]
    simp only [cellsWfFrom, Bool.and_eq_true, decide_eq_true_eq] at h
    split
    · simp only [cellsWfFrom, Bool.and_eq_true, decide_eq_true_eq]
      exact ⟨h.1, ih h.2 (by omega)⟩
    · split
      · next he => subst he; simp only [cellsWfFrom, Bool.and_eq_true, decide_eq_true_eq]; exact ⟨⟨le, hx⟩, h.2⟩
      · simp only [cellsWfFrom, Bool.and_eq_true, decide_eq_true_eq]
        exact ⟨⟨le, hx⟩, ⟨by omega, h.1.2⟩, h.2⟩

/-- A write keeps the canonical form. -/
theorem cellSet_wf {m : Cells w} (h : Cells.wf m = true) (a : Nat) (x : BitVec w) : Cells.wf (cellSet m a x) = true := by
  unfold cellSet
  split
  · exact cellsWfFrom_filter (fun k => decide (k ≠ a)) h
  · next hx => exact cellsWfFrom_cellPut h (Nat.zero_le _) hx

/-- Several writes keep the canonical form. -/
theorem cellSetAll_wf {m : Cells w} (h : Cells.wf m = true) (l : List (Nat × BitVec w)) :
    Cells.wf (cellSetAll m l) = true := by
  unfold cellSetAll
  induction l generalizing m with
  | nil => exact h
  | cons p r ih => exact ih (cellSet_wf h _ _)

/-- Dropping cells keeps the canonical form. -/
theorem cellFilter_wf {m : Cells w} (p : Nat → Bool) (h : Cells.wf m = true) : Cells.wf (cellFilter p m) = true :=
  cellsWfFrom_filter p h

@[simp] theorem nil_wf : Cells.wf ([] : Cells w) = true := rfl

theorem cellGet_filter (m : Cells w) (p : Nat → Bool) (b : Nat) :
    cellGet (m.filter fun c => p c.1) b = if p b then cellGet m b else 0 := by
  induction m with
  | nil => simp
  | cons c r ih =>
    obtain ⟨k, x⟩ := c
    rw [List.filter_cons]
    by_cases hp : p k = true
    · simp only [hp, if_true, cellGet_cons, ih]
      by_cases hk : k = b
      · subst hk; simp [hp]
      · simp [hk]
    · rw [if_neg hp, ih, cellGet_cons]
      by_cases hk : k = b
      · subst hk; simp [hp]
      · simp [hk]

/-- What is left after dropping cells. -/
theorem cellGet_cellFilter (m : Cells w) (p : Nat → Bool) (b : Nat) :
    cellGet (cellFilter p m) b = if p b then cellGet m b else 0 := cellGet_filter m p b

theorem cellGet_cellPut (m : Cells w) (a b : Nat) (x : BitVec w) :
    cellGet (cellPut m a x) b = if b = a then x else cellGet m b := by
  induction m with
  | nil => simp only [cellPut, cellGet_cons, cellGet_nil]; simp only [eq_comm]
  | cons c r ih =>
    obtain ⟨k, y⟩ := c
    simp only [cellPut]
    split
    · next hk =>
      rw [cellGet_cons, cellGet_cons, ih]
      by_cases hb : k = b
      · subst hb; simp [show k ≠ a by omega]
      · simp [hb]
    · split
      · next he =>
        subst he
        rw [cellGet_cons, cellGet_cons]
        by_cases hb : k = b
        · simp [hb]
        · simp [hb, Ne.symm hb]
      · rw [cellGet_cons, cellGet_cons]
        by_cases hb : a = b
        · simp [hb]
        · simp [hb, Ne.symm hb]

/-- A read after a write, in any store. -/
theorem cellGet_cellSet (m : Cells w) (a b : Nat) (x : BitVec w) :
    cellGet (cellSet m a x) b = if b = a then x else cellGet m b := by
  unfold cellSet
  split
  · next hx =>
    rw [cellGet_filter m (fun k => decide (k ≠ a))]
    by_cases hb : b = a <;> simp [hb, hx]
  · exact cellGet_cellPut m a b x

/-- The written cell reads as written. -/
@[simp] theorem cellGet_cellSet_self (m : Cells w) (a : Nat) (x : BitVec w) : cellGet (cellSet m a x) a = x := by
  rw [cellGet_cellSet]; simp

/-- Every other cell reads as before. -/
theorem cellGet_cellSet_ne (m : Cells w) {a b : Nat} (x : BitVec w) (ne : b ≠ a) :
    cellGet (cellSet m a x) b = cellGet m b := by rw [cellGet_cellSet]; simp [ne]

/-- A key that several writes do not name reads as before. -/
theorem cellGet_cellSetAll_ne (m : Cells w) (l : List (Nat × BitVec w)) (b : Nat) (h : ∀ p ∈ l, p.1 ≠ b) :
    cellGet (cellSetAll m l) b = cellGet m b := by
  unfold cellSetAll
  induction l generalizing m with
  | nil => rfl
  | cons p r ih =>
    rw [List.foldl_cons, ih _ fun q hq => h q (List.mem_cons_of_mem _ hq),
      cellGet_cellSet_ne _ _ (Ne.symm (h p (List.mem_cons_self ..)))]

/-- A canonical store above `lo` lists nothing below `lo`. -/
theorem cellGet_below {m : Cells w} {lo a : Nat} (h : cellsWfFrom lo m = true) (ha : a < lo) : cellGet m a = 0 := by
  induction m generalizing lo with
  | nil => rfl
  | cons c r ih =>
    obtain ⟨k, x⟩ := c
    simp only [cellsWfFrom, Bool.and_eq_true, decide_eq_true_eq] at h
    rw [cellGet_cons, if_neg (by omega)]
    exact ih h.2 (by omega)

/-- Two canonical stores that read alike are the same list. -/
theorem cells_ext {m n : Cells w} {lo : Nat} (hm : cellsWfFrom lo m = true) (hn : cellsWfFrom lo n = true)
    (h : ∀ a, cellGet m a = cellGet n a) : m = n := by
  induction m generalizing n lo with
  | nil =>
    cases n with
    | nil => rfl
    | cons c r =>
      obtain ⟨k, x⟩ := c
      have := h k
      simp [cellGet, cellsWfFrom] at this hn
      simp_all
  | cons c r ih =>
    obtain ⟨k, x⟩ := c
    cases n with
    | nil =>
      have := h k
      simp [cellGet, cellsWfFrom] at this hm
      simp_all
    | cons d q =>
      obtain ⟨j, y⟩ := d
      simp only [cellsWfFrom, Bool.and_eq_true, decide_eq_true_eq] at hm hn
      have hkj : k = j := by
        rcases Nat.lt_trichotomy k j with lt | eq | gt
        · have := h k
          rw [cellGet_cons, cellGet_cons, if_pos rfl, if_neg (by omega), cellGet_below hn.2 (by omega)] at this
          exact absurd this hm.1.2
        · exact eq
        · have := h j
          rw [cellGet_cons, cellGet_cons, if_neg (by omega), if_pos rfl, cellGet_below hm.2 (by omega)] at this
          exact absurd this.symm hn.1.2
      subst hkj
      have hx := h k
      rw [cellGet_cons, cellGet_cons, if_pos rfl, if_pos rfl] at hx
      subst hx
      congr 1
      refine ih hm.2 hn.2 fun a => ?_
      by_cases ha : a ≤ k
      · rw [cellGet_below hm.2 (by omega), cellGet_below hn.2 (by omega)]
      · have := h a
        rwa [cellGet_cons, cellGet_cons, if_neg (by omega), if_neg (by omega)] at this

end Sys2Proof.Machine
end

