-- ==== Sys2Proof/Laws/State.lean ====
section
/-!
SUPPORT. One lemma for each field under each update of the state that every operation makes: a change of a team, of a
context, and of the condition counts; putting back a slot or a wave is a change of a team.
-/

namespace Sys2Proof.Machine

theorem State.putWave_eq (s : State) (v : View) (w : Wave) :
    s.putWave v w = s.modTeam v.sl.team fun t => t.setWave v.sl.wave w := rfl

theorem State.putSlot_eq (s : State) (v : View) (p : Slot) : s.putSlot v p = s.putWave v (v.w.setSlot v.sl.b p) := rfl

theorem State.setWave_eq (s : State) (sl : SlotId) (w : Wave) :
    s.setWave sl w = s.modTeam sl.team fun t => t.setWave sl.wave w := rfl

@[simp] theorem State.modTeam_agenda (s : State) (id : Nat) (f : Team → Team) : (s.modTeam id f).agenda = s.agenda := rfl
@[simp] theorem State.modTeam_cur (s : State) (id : Nat) (f : Team → Team) : (s.modTeam id f).cur = s.cur := rfl
@[simp] theorem State.modTeam_islands (s : State) (id : Nat) (f : Team → Team) : (s.modTeam id f).islands = s.islands := rfl
@[simp] theorem State.modTeam_pwrlim (s : State) (id : Nat) (f : Team → Team) : (s.modTeam id f).pwrlim = s.pwrlim := rfl
@[simp] theorem State.modTeam_eqx (s : State) (id : Nat) (f : Team → Team) : (s.modTeam id f).eqx = s.eqx := rfl
@[simp] theorem State.modTeam_mem (s : State) (id : Nat) (f : Team → Team) : (s.modTeam id f).mem = s.mem := rfl
@[simp] theorem State.modTeam_writes (s : State) (id : Nat) (f : Team → Team) : (s.modTeam id f).writes = s.writes := rfl
@[simp] theorem State.modTeam_nextWrite (s : State) (id : Nat) (f : Team → Team) : (s.modTeam id f).nextWrite = s.nextWrite := rfl
@[simp] theorem State.modTeam_poison (s : State) (id : Nat) (f : Team → Team) : (s.modTeam id f).poison = s.poison := rfl
@[simp] theorem State.modTeam_tlb (s : State) (id : Nat) (f : Team → Team) : (s.modTeam id f).tlb = s.tlb := rfl
@[simp] theorem State.modTeam_walkCache (s : State) (id : Nat) (f : Team → Team) : (s.modTeam id f).walkCache = s.walkCache := rfl
@[simp] theorem State.modTeam_pred (s : State) (id : Nat) (f : Team → Team) : (s.modTeam id f).pred = s.pred := rfl
@[simp] theorem State.modTeam_near (s : State) (id : Nat) (f : Team → Team) : (s.modTeam id f).near = s.near := rfl
@[simp] theorem State.modTeam_comb (s : State) (id : Nat) (f : Team → Team) : (s.modTeam id f).comb = s.comb := rfl
@[simp] theorem State.modTeam_l2cfg (s : State) (id : Nat) (f : Team → Team) : (s.modTeam id f).l2cfg = s.l2cfg := rfl
@[simp] theorem State.modTeam_chrsv (s : State) (id : Nat) (f : Team → Team) : (s.modTeam id f).chrsv = s.chrsv := rfl
@[simp] theorem State.modTeam_chrsvWant (s : State) (id : Nat) (f : Team → Team) : (s.modTeam id f).chrsvWant = s.chrsvWant := rfl
@[simp] theorem State.modTeam_windows (s : State) (id : Nat) (f : Team → Team) : (s.modTeam id f).windows = s.windows := rfl
@[simp] theorem State.modTeam_shoot (s : State) (id : Nat) (f : Team → Team) : (s.modTeam id f).shoot = s.shoot := rfl
@[simp] theorem State.modTeam_icache (s : State) (id : Nat) (f : Team → Team) : (s.modTeam id f).icache = s.icache := rfl
@[simp] theorem State.modTeam_decs (s : State) (id : Nat) (f : Team → Team) : (s.modTeam id f).decs = s.decs := rfl
@[simp] theorem State.modTeam_ctxs (s : State) (id : Nat) (f : Team → Team) : (s.modTeam id f).ctxs = s.ctxs := rfl
@[simp] theorem State.modTeam_nextTeam (s : State) (id : Nat) (f : Team → Team) : (s.modTeam id f).nextTeam = s.nextTeam := rfl
@[simp] theorem State.modTeam_awaited (s : State) (id : Nat) (f : Team → Team) : (s.modTeam id f).awaited = s.awaited := rfl
@[simp] theorem State.modTeam_launches (s : State) (id : Nat) (f : Team → Team) : (s.modTeam id f).launches = s.launches := rfl
@[simp] theorem State.modTeam_nextLaunch (s : State) (id : Nat) (f : Team → Team) : (s.modTeam id f).nextLaunch = s.nextLaunch := rfl
@[simp] theorem State.modTeam_queues (s : State) (id : Nat) (f : Team → Team) : (s.modTeam id f).queues = s.queues := rfl
@[simp] theorem State.modTeam_fe (s : State) (id : Nat) (f : Team → Team) : (s.modTeam id f).fe = s.fe := rfl
@[simp] theorem State.modTeam_feeds (s : State) (id : Nat) (f : Team → Team) : (s.modTeam id f).feeds = s.feeds := rfl
@[simp] theorem State.modTeam_cmds (s : State) (id : Nat) (f : Team → Team) : (s.modTeam id f).cmds = s.cmds := rfl
@[simp] theorem State.modTeam_nextCmd (s : State) (id : Nat) (f : Team → Team) : (s.modTeam id f).nextCmd = s.nextCmd := rfl
@[simp] theorem State.modTeam_segs (s : State) (id : Nat) (f : Team → Team) : (s.modTeam id f).segs = s.segs := rfl
@[simp] theorem State.modTeam_gens (s : State) (id : Nat) (f : Team → Team) : (s.modTeam id f).gens = s.gens := rfl
@[simp] theorem State.modTeam_waiters (s : State) (id : Nat) (f : Team → Team) : (s.modTeam id f).waiters = s.waiters := rfl
@[simp] theorem State.modTeam_nextSeq (s : State) (id : Nat) (f : Team → Team) : (s.modTeam id f).nextSeq = s.nextSeq := rfl
@[simp] theorem State.modTeam_conds (s : State) (id : Nat) (f : Team → Team) : (s.modTeam id f).conds = s.conds := rfl
@[simp] theorem State.modTeam_recs (s : State) (id : Nat) (f : Team → Team) : (s.modTeam id f).recs = s.recs := rfl
@[simp] theorem State.modTeam_nextRec (s : State) (id : Nat) (f : Team → Team) : (s.modTeam id f).nextRec = s.nextRec := rfl
@[simp] theorem State.modTeam_written (s : State) (id : Nat) (f : Team → Team) : (s.modTeam id f).written = s.written := rfl
@[simp] theorem State.modTeam_osRing (s : State) (id : Nat) (f : Team → Team) : (s.modTeam id f).osRing = s.osRing := rfl
@[simp] theorem State.modTeam_osTail (s : State) (id : Nat) (f : Team → Team) : (s.modTeam id f).osTail = s.osTail := rfl
@[simp] theorem State.modTeam_osDisp (s : State) (id : Nat) (f : Team → Team) : (s.modTeam id f).osDisp = s.osDisp := rfl
@[simp] theorem State.modTeam_osLogf (s : State) (id : Nat) (f : Team → Team) : (s.modTeam id f).osLogf = s.osLogf := rfl
@[simp] theorem State.modTeam_osFovf (s : State) (id : Nat) (f : Team → Team) : (s.modTeam id f).osFovf = s.osFovf := rfl
@[simp] theorem State.modTeam_osNext (s : State) (id : Nat) (f : Team → Team) : (s.modTeam id f).osNext = s.osNext := rfl
@[simp] theorem State.modTeam_osDone (s : State) (id : Nat) (f : Team → Team) : (s.modTeam id f).osDone = s.osDone := rfl
@[simp] theorem State.modTeam_hostLines (s : State) (id : Nat) (f : Team → Team) : (s.modTeam id f).hostLines = s.hostLines := rfl
@[simp] theorem State.modTeam_snoops (s : State) (id : Nat) (f : Team → Team) : (s.modTeam id f).snoops = s.snoops := rfl
@[simp] theorem State.modTeam_hostsLost (s : State) (id : Nat) (f : Team → Team) : (s.modTeam id f).hostsLost = s.hostsLost := rfl
@[simp] theorem State.modTeam_peersLost (s : State) (id : Nat) (f : Team → Team) : (s.modTeam id f).peersLost = s.peersLost := rfl
@[simp] theorem State.modTeam_hostMem (s : State) (id : Nat) (f : Team → Team) : (s.modTeam id f).hostMem = s.hostMem := rfl
@[simp] theorem State.modTeam_cxlReqs (s : State) (id : Nat) (f : Team → Team) : (s.modTeam id f).cxlReqs = s.cxlReqs := rfl
@[simp] theorem State.modTeam_bindings (s : State) (id : Nat) (f : Team → Team) : (s.modTeam id f).bindings = s.bindings := rfl
@[simp] theorem State.modTeam_routes (s : State) (id : Nat) (f : Team → Team) : (s.modTeam id f).routes = s.routes := rfl
@[simp] theorem State.modTeam_unrouted (s : State) (id : Nat) (f : Team → Team) : (s.modTeam id f).unrouted = s.unrouted := rfl
@[simp] theorem State.modTeam_remote (s : State) (id : Nat) (f : Team → Team) : (s.modTeam id f).remote = s.remote := rfl
@[simp] theorem State.modTeam_nextTag (s : State) (id : Nat) (f : Team → Team) : (s.modTeam id f).nextTag = s.nextTag := rfl
@[simp] theorem State.modTeam_links (s : State) (id : Nat) (f : Team → Team) : (s.modTeam id f).links = s.links := rfl
@[simp] theorem State.modTeam_egress (s : State) (id : Nat) (f : Team → Team) : (s.modTeam id f).egress = s.egress := rfl
@[simp] theorem State.modTeam_metered (s : State) (id : Nat) (f : Team → Team) : (s.modTeam id f).metered = s.metered := rfl
@[simp] theorem State.modTeam_keys (s : State) (id : Nat) (f : Team → Team) : (s.modTeam id f).keys = s.keys := rfl
@[simp] theorem State.modTeam_alm (s : State) (id : Nat) (f : Team → Team) : (s.modTeam id f).alm = s.alm := rfl
@[simp] theorem State.modTeam_almWait (s : State) (id : Nat) (f : Team → Team) : (s.modTeam id f).almWait = s.almWait := rfl
@[simp] theorem State.modTeam_pairs (s : State) (id : Nat) (f : Team → Team) : (s.modTeam id f).pairs = s.pairs := rfl
@[simp] theorem State.modTeam_leader (s : State) (id : Nat) (f : Team → Team) : (s.modTeam id f).leader = s.leader := rfl
@[simp] theorem State.modTeam_snapgo (s : State) (id : Nat) (f : Team → Team) : (s.modTeam id f).snapgo = s.snapgo := rfl
@[simp] theorem State.modTeam_snap (s : State) (id : Nat) (f : Team → Team) : (s.modTeam id f).snap = s.snap := rfl
@[simp] theorem State.modTeam_reply (s : State) (id : Nat) (f : Team → Team) : (s.modTeam id f).reply = s.reply := rfl
@[simp] theorem State.modTeam_tick (s : State) (id : Nat) (f : Team → Team) : (s.modTeam id f).tick = s.tick := rfl
@[simp] theorem State.modTeam_lateReds (s : State) (id : Nat) (f : Team → Team) : (s.modTeam id f).lateReds = s.lateReds := rfl
@[simp] theorem State.modTeam_decoded (s : State) (id : Nat) (f : Team → Team) : (s.modTeam id f).decoded = s.decoded := rfl
@[simp] theorem State.modTeam_decOps (s : State) (id : Nat) (f : Team → Team) : (s.modTeam id f).decOps = s.decOps := rfl
@[simp] theorem State.modTeam_prefs (s : State) (id : Nat) (f : Team → Team) : (s.modTeam id f).prefs = s.prefs := rfl
@[simp] theorem State.modTeam_served (s : State) (id : Nat) (f : Team → Team) : (s.modTeam id f).served = s.served := rfl
@[simp] theorem State.modTeam_owedAdds (s : State) (id : Nat) (f : Team → Team) : (s.modTeam id f).owedAdds = s.owedAdds := rfl
@[simp] theorem State.modTeam_cycle (s : State) (id : Nat) (f : Team → Team) : (s.modTeam id f).cycle = s.cycle := rfl
@[simp] theorem State.modTeam_svcPage (s : State) (id : Nat) (f : Team → Team) : (s.modTeam id f).svcPage = s.svcPage := rfl
@[simp] theorem State.modTeam_replyBad (s : State) (id : Nat) (f : Team → Team) : (s.modTeam id f).replyBad = s.replyBad := rfl

@[simp] theorem State.putWave_agenda (s : State) (v : View) (w : Wave) : (s.putWave v w).agenda = s.agenda := rfl
@[simp] theorem State.putWave_cur (s : State) (v : View) (w : Wave) : (s.putWave v w).cur = s.cur := rfl
@[simp] theorem State.putWave_islands (s : State) (v : View) (w : Wave) : (s.putWave v w).islands = s.islands := rfl
@[simp] theorem State.putWave_pwrlim (s : State) (v : View) (w : Wave) : (s.putWave v w).pwrlim = s.pwrlim := rfl
@[simp] theorem State.putWave_eqx (s : State) (v : View) (w : Wave) : (s.putWave v w).eqx = s.eqx := rfl
@[simp] theorem State.putWave_mem (s : State) (v : View) (w : Wave) : (s.putWave v w).mem = s.mem := rfl
@[simp] theorem State.putWave_writes (s : State) (v : View) (w : Wave) : (s.putWave v w).writes = s.writes := rfl
@[simp] theorem State.putWave_nextWrite (s : State) (v : View) (w : Wave) : (s.putWave v w).nextWrite = s.nextWrite := rfl
@[simp] theorem State.putWave_poison (s : State) (v : View) (w : Wave) : (s.putWave v w).poison = s.poison := rfl
@[simp] theorem State.putWave_tlb (s : State) (v : View) (w : Wave) : (s.putWave v w).tlb = s.tlb := rfl
@[simp] theorem State.putWave_walkCache (s : State) (v : View) (w : Wave) : (s.putWave v w).walkCache = s.walkCache := rfl
@[simp] theorem State.putWave_pred (s : State) (v : View) (w : Wave) : (s.putWave v w).pred = s.pred := rfl
@[simp] theorem State.putWave_near (s : State) (v : View) (w : Wave) : (s.putWave v w).near = s.near := rfl
@[simp] theorem State.putWave_comb (s : State) (v : View) (w : Wave) : (s.putWave v w).comb = s.comb := rfl
@[simp] theorem State.putWave_l2cfg (s : State) (v : View) (w : Wave) : (s.putWave v w).l2cfg = s.l2cfg := rfl
@[simp] theorem State.putWave_chrsv (s : State) (v : View) (w : Wave) : (s.putWave v w).chrsv = s.chrsv := rfl
@[simp] theorem State.putWave_chrsvWant (s : State) (v : View) (w : Wave) : (s.putWave v w).chrsvWant = s.chrsvWant := rfl
@[simp] theorem State.putWave_windows (s : State) (v : View) (w : Wave) : (s.putWave v w).windows = s.windows := rfl
@[simp] theorem State.putWave_shoot (s : State) (v : View) (w : Wave) : (s.putWave v w).shoot = s.shoot := rfl
@[simp] theorem State.putWave_icache (s : State) (v : View) (w : Wave) : (s.putWave v w).icache = s.icache := rfl
@[simp] theorem State.putWave_decs (s : State) (v : View) (w : Wave) : (s.putWave v w).decs = s.decs := rfl
@[simp] theorem State.putWave_ctxs (s : State) (v : View) (w : Wave) : (s.putWave v w).ctxs = s.ctxs := rfl
@[simp] theorem State.putWave_nextTeam (s : State) (v : View) (w : Wave) : (s.putWave v w).nextTeam = s.nextTeam := rfl
@[simp] theorem State.putWave_awaited (s : State) (v : View) (w : Wave) : (s.putWave v w).awaited = s.awaited := rfl
@[simp] theorem State.putWave_launches (s : State) (v : View) (w : Wave) : (s.putWave v w).launches = s.launches := rfl
@[simp] theorem State.putWave_nextLaunch (s : State) (v : View) (w : Wave) : (s.putWave v w).nextLaunch = s.nextLaunch := rfl
@[simp] theorem State.putWave_queues (s : State) (v : View) (w : Wave) : (s.putWave v w).queues = s.queues := rfl
@[simp] theorem State.putWave_fe (s : State) (v : View) (w : Wave) : (s.putWave v w).fe = s.fe := rfl
@[simp] theorem State.putWave_feeds (s : State) (v : View) (w : Wave) : (s.putWave v w).feeds = s.feeds := rfl
@[simp] theorem State.putWave_cmds (s : State) (v : View) (w : Wave) : (s.putWave v w).cmds = s.cmds := rfl
@[simp] theorem State.putWave_nextCmd (s : State) (v : View) (w : Wave) : (s.putWave v w).nextCmd = s.nextCmd := rfl
@[simp] theorem State.putWave_segs (s : State) (v : View) (w : Wave) : (s.putWave v w).segs = s.segs := rfl
@[simp] theorem State.putWave_gens (s : State) (v : View) (w : Wave) : (s.putWave v w).gens = s.gens := rfl
@[simp] theorem State.putWave_waiters (s : State) (v : View) (w : Wave) : (s.putWave v w).waiters = s.waiters := rfl
@[simp] theorem State.putWave_nextSeq (s : State) (v : View) (w : Wave) : (s.putWave v w).nextSeq = s.nextSeq := rfl
@[simp] theorem State.putWave_conds (s : State) (v : View) (w : Wave) : (s.putWave v w).conds = s.conds := rfl
@[simp] theorem State.putWave_recs (s : State) (v : View) (w : Wave) : (s.putWave v w).recs = s.recs := rfl
@[simp] theorem State.putWave_nextRec (s : State) (v : View) (w : Wave) : (s.putWave v w).nextRec = s.nextRec := rfl
@[simp] theorem State.putWave_written (s : State) (v : View) (w : Wave) : (s.putWave v w).written = s.written := rfl
@[simp] theorem State.putWave_osRing (s : State) (v : View) (w : Wave) : (s.putWave v w).osRing = s.osRing := rfl
@[simp] theorem State.putWave_osTail (s : State) (v : View) (w : Wave) : (s.putWave v w).osTail = s.osTail := rfl
@[simp] theorem State.putWave_osDisp (s : State) (v : View) (w : Wave) : (s.putWave v w).osDisp = s.osDisp := rfl
@[simp] theorem State.putWave_osLogf (s : State) (v : View) (w : Wave) : (s.putWave v w).osLogf = s.osLogf := rfl
@[simp] theorem State.putWave_osFovf (s : State) (v : View) (w : Wave) : (s.putWave v w).osFovf = s.osFovf := rfl
@[simp] theorem State.putWave_osNext (s : State) (v : View) (w : Wave) : (s.putWave v w).osNext = s.osNext := rfl
@[simp] theorem State.putWave_osDone (s : State) (v : View) (w : Wave) : (s.putWave v w).osDone = s.osDone := rfl
@[simp] theorem State.putWave_hostLines (s : State) (v : View) (w : Wave) : (s.putWave v w).hostLines = s.hostLines := rfl
@[simp] theorem State.putWave_snoops (s : State) (v : View) (w : Wave) : (s.putWave v w).snoops = s.snoops := rfl
@[simp] theorem State.putWave_hostsLost (s : State) (v : View) (w : Wave) : (s.putWave v w).hostsLost = s.hostsLost := rfl
@[simp] theorem State.putWave_peersLost (s : State) (v : View) (w : Wave) : (s.putWave v w).peersLost = s.peersLost := rfl
@[simp] theorem State.putWave_hostMem (s : State) (v : View) (w : Wave) : (s.putWave v w).hostMem = s.hostMem := rfl
@[simp] theorem State.putWave_cxlReqs (s : State) (v : View) (w : Wave) : (s.putWave v w).cxlReqs = s.cxlReqs := rfl
@[simp] theorem State.putWave_bindings (s : State) (v : View) (w : Wave) : (s.putWave v w).bindings = s.bindings := rfl
@[simp] theorem State.putWave_routes (s : State) (v : View) (w : Wave) : (s.putWave v w).routes = s.routes := rfl
@[simp] theorem State.putWave_unrouted (s : State) (v : View) (w : Wave) : (s.putWave v w).unrouted = s.unrouted := rfl
@[simp] theorem State.putWave_remote (s : State) (v : View) (w : Wave) : (s.putWave v w).remote = s.remote := rfl
@[simp] theorem State.putWave_nextTag (s : State) (v : View) (w : Wave) : (s.putWave v w).nextTag = s.nextTag := rfl
@[simp] theorem State.putWave_links (s : State) (v : View) (w : Wave) : (s.putWave v w).links = s.links := rfl
@[simp] theorem State.putWave_egress (s : State) (v : View) (w : Wave) : (s.putWave v w).egress = s.egress := rfl
@[simp] theorem State.putWave_metered (s : State) (v : View) (w : Wave) : (s.putWave v w).metered = s.metered := rfl
@[simp] theorem State.putWave_keys (s : State) (v : View) (w : Wave) : (s.putWave v w).keys = s.keys := rfl
@[simp] theorem State.putWave_alm (s : State) (v : View) (w : Wave) : (s.putWave v w).alm = s.alm := rfl
@[simp] theorem State.putWave_almWait (s : State) (v : View) (w : Wave) : (s.putWave v w).almWait = s.almWait := rfl
@[simp] theorem State.putWave_pairs (s : State) (v : View) (w : Wave) : (s.putWave v w).pairs = s.pairs := rfl
@[simp] theorem State.putWave_leader (s : State) (v : View) (w : Wave) : (s.putWave v w).leader = s.leader := rfl
@[simp] theorem State.putWave_snapgo (s : State) (v : View) (w : Wave) : (s.putWave v w).snapgo = s.snapgo := rfl
@[simp] theorem State.putWave_snap (s : State) (v : View) (w : Wave) : (s.putWave v w).snap = s.snap := rfl
@[simp] theorem State.putWave_reply (s : State) (v : View) (w : Wave) : (s.putWave v w).reply = s.reply := rfl
@[simp] theorem State.putWave_tick (s : State) (v : View) (w : Wave) : (s.putWave v w).tick = s.tick := rfl
@[simp] theorem State.putWave_lateReds (s : State) (v : View) (w : Wave) : (s.putWave v w).lateReds = s.lateReds := rfl
@[simp] theorem State.putWave_decoded (s : State) (v : View) (w : Wave) : (s.putWave v w).decoded = s.decoded := rfl
@[simp] theorem State.putWave_decOps (s : State) (v : View) (w : Wave) : (s.putWave v w).decOps = s.decOps := rfl
@[simp] theorem State.putWave_prefs (s : State) (v : View) (w : Wave) : (s.putWave v w).prefs = s.prefs := rfl
@[simp] theorem State.putWave_served (s : State) (v : View) (w : Wave) : (s.putWave v w).served = s.served := rfl
@[simp] theorem State.putWave_owedAdds (s : State) (v : View) (w : Wave) : (s.putWave v w).owedAdds = s.owedAdds := rfl
@[simp] theorem State.putWave_cycle (s : State) (v : View) (w : Wave) : (s.putWave v w).cycle = s.cycle := rfl
@[simp] theorem State.putWave_svcPage (s : State) (v : View) (w : Wave) : (s.putWave v w).svcPage = s.svcPage := rfl
@[simp] theorem State.putWave_replyBad (s : State) (v : View) (w : Wave) : (s.putWave v w).replyBad = s.replyBad := rfl

@[simp] theorem State.putSlot_agenda (s : State) (v : View) (p : Slot) : (s.putSlot v p).agenda = s.agenda := rfl
@[simp] theorem State.putSlot_cur (s : State) (v : View) (p : Slot) : (s.putSlot v p).cur = s.cur := rfl
@[simp] theorem State.putSlot_islands (s : State) (v : View) (p : Slot) : (s.putSlot v p).islands = s.islands := rfl
@[simp] theorem State.putSlot_pwrlim (s : State) (v : View) (p : Slot) : (s.putSlot v p).pwrlim = s.pwrlim := rfl
@[simp] theorem State.putSlot_eqx (s : State) (v : View) (p : Slot) : (s.putSlot v p).eqx = s.eqx := rfl
@[simp] theorem State.putSlot_mem (s : State) (v : View) (p : Slot) : (s.putSlot v p).mem = s.mem := rfl
@[simp] theorem State.putSlot_writes (s : State) (v : View) (p : Slot) : (s.putSlot v p).writes = s.writes := rfl
@[simp] theorem State.putSlot_nextWrite (s : State) (v : View) (p : Slot) : (s.putSlot v p).nextWrite = s.nextWrite := rfl
@[simp] theorem State.putSlot_poison (s : State) (v : View) (p : Slot) : (s.putSlot v p).poison = s.poison := rfl
@[simp] theorem State.putSlot_tlb (s : State) (v : View) (p : Slot) : (s.putSlot v p).tlb = s.tlb := rfl
@[simp] theorem State.putSlot_walkCache (s : State) (v : View) (p : Slot) : (s.putSlot v p).walkCache = s.walkCache := rfl
@[simp] theorem State.putSlot_pred (s : State) (v : View) (p : Slot) : (s.putSlot v p).pred = s.pred := rfl
@[simp] theorem State.putSlot_near (s : State) (v : View) (p : Slot) : (s.putSlot v p).near = s.near := rfl
@[simp] theorem State.putSlot_comb (s : State) (v : View) (p : Slot) : (s.putSlot v p).comb = s.comb := rfl
@[simp] theorem State.putSlot_l2cfg (s : State) (v : View) (p : Slot) : (s.putSlot v p).l2cfg = s.l2cfg := rfl
@[simp] theorem State.putSlot_chrsv (s : State) (v : View) (p : Slot) : (s.putSlot v p).chrsv = s.chrsv := rfl
@[simp] theorem State.putSlot_chrsvWant (s : State) (v : View) (p : Slot) : (s.putSlot v p).chrsvWant = s.chrsvWant := rfl
@[simp] theorem State.putSlot_windows (s : State) (v : View) (p : Slot) : (s.putSlot v p).windows = s.windows := rfl
@[simp] theorem State.putSlot_shoot (s : State) (v : View) (p : Slot) : (s.putSlot v p).shoot = s.shoot := rfl
@[simp] theorem State.putSlot_icache (s : State) (v : View) (p : Slot) : (s.putSlot v p).icache = s.icache := rfl
@[simp] theorem State.putSlot_decs (s : State) (v : View) (p : Slot) : (s.putSlot v p).decs = s.decs := rfl
@[simp] theorem State.putSlot_ctxs (s : State) (v : View) (p : Slot) : (s.putSlot v p).ctxs = s.ctxs := rfl
@[simp] theorem State.putSlot_nextTeam (s : State) (v : View) (p : Slot) : (s.putSlot v p).nextTeam = s.nextTeam := rfl
@[simp] theorem State.putSlot_awaited (s : State) (v : View) (p : Slot) : (s.putSlot v p).awaited = s.awaited := rfl
@[simp] theorem State.putSlot_launches (s : State) (v : View) (p : Slot) : (s.putSlot v p).launches = s.launches := rfl
@[simp] theorem State.putSlot_nextLaunch (s : State) (v : View) (p : Slot) : (s.putSlot v p).nextLaunch = s.nextLaunch := rfl
@[simp] theorem State.putSlot_queues (s : State) (v : View) (p : Slot) : (s.putSlot v p).queues = s.queues := rfl
@[simp] theorem State.putSlot_fe (s : State) (v : View) (p : Slot) : (s.putSlot v p).fe = s.fe := rfl
@[simp] theorem State.putSlot_feeds (s : State) (v : View) (p : Slot) : (s.putSlot v p).feeds = s.feeds := rfl
@[simp] theorem State.putSlot_cmds (s : State) (v : View) (p : Slot) : (s.putSlot v p).cmds = s.cmds := rfl
@[simp] theorem State.putSlot_nextCmd (s : State) (v : View) (p : Slot) : (s.putSlot v p).nextCmd = s.nextCmd := rfl
@[simp] theorem State.putSlot_segs (s : State) (v : View) (p : Slot) : (s.putSlot v p).segs = s.segs := rfl
@[simp] theorem State.putSlot_gens (s : State) (v : View) (p : Slot) : (s.putSlot v p).gens = s.gens := rfl
@[simp] theorem State.putSlot_waiters (s : State) (v : View) (p : Slot) : (s.putSlot v p).waiters = s.waiters := rfl
@[simp] theorem State.putSlot_nextSeq (s : State) (v : View) (p : Slot) : (s.putSlot v p).nextSeq = s.nextSeq := rfl
@[simp] theorem State.putSlot_conds (s : State) (v : View) (p : Slot) : (s.putSlot v p).conds = s.conds := rfl
@[simp] theorem State.putSlot_recs (s : State) (v : View) (p : Slot) : (s.putSlot v p).recs = s.recs := rfl
@[simp] theorem State.putSlot_nextRec (s : State) (v : View) (p : Slot) : (s.putSlot v p).nextRec = s.nextRec := rfl
@[simp] theorem State.putSlot_written (s : State) (v : View) (p : Slot) : (s.putSlot v p).written = s.written := rfl
@[simp] theorem State.putSlot_osRing (s : State) (v : View) (p : Slot) : (s.putSlot v p).osRing = s.osRing := rfl
@[simp] theorem State.putSlot_osTail (s : State) (v : View) (p : Slot) : (s.putSlot v p).osTail = s.osTail := rfl
@[simp] theorem State.putSlot_osDisp (s : State) (v : View) (p : Slot) : (s.putSlot v p).osDisp = s.osDisp := rfl
@[simp] theorem State.putSlot_osLogf (s : State) (v : View) (p : Slot) : (s.putSlot v p).osLogf = s.osLogf := rfl
@[simp] theorem State.putSlot_osFovf (s : State) (v : View) (p : Slot) : (s.putSlot v p).osFovf = s.osFovf := rfl
@[simp] theorem State.putSlot_osNext (s : State) (v : View) (p : Slot) : (s.putSlot v p).osNext = s.osNext := rfl
@[simp] theorem State.putSlot_osDone (s : State) (v : View) (p : Slot) : (s.putSlot v p).osDone = s.osDone := rfl
@[simp] theorem State.putSlot_hostLines (s : State) (v : View) (p : Slot) : (s.putSlot v p).hostLines = s.hostLines := rfl
@[simp] theorem State.putSlot_snoops (s : State) (v : View) (p : Slot) : (s.putSlot v p).snoops = s.snoops := rfl
@[simp] theorem State.putSlot_hostsLost (s : State) (v : View) (p : Slot) : (s.putSlot v p).hostsLost = s.hostsLost := rfl
@[simp] theorem State.putSlot_peersLost (s : State) (v : View) (p : Slot) : (s.putSlot v p).peersLost = s.peersLost := rfl
@[simp] theorem State.putSlot_hostMem (s : State) (v : View) (p : Slot) : (s.putSlot v p).hostMem = s.hostMem := rfl
@[simp] theorem State.putSlot_cxlReqs (s : State) (v : View) (p : Slot) : (s.putSlot v p).cxlReqs = s.cxlReqs := rfl
@[simp] theorem State.putSlot_bindings (s : State) (v : View) (p : Slot) : (s.putSlot v p).bindings = s.bindings := rfl
@[simp] theorem State.putSlot_routes (s : State) (v : View) (p : Slot) : (s.putSlot v p).routes = s.routes := rfl
@[simp] theorem State.putSlot_unrouted (s : State) (v : View) (p : Slot) : (s.putSlot v p).unrouted = s.unrouted := rfl
@[simp] theorem State.putSlot_remote (s : State) (v : View) (p : Slot) : (s.putSlot v p).remote = s.remote := rfl
@[simp] theorem State.putSlot_nextTag (s : State) (v : View) (p : Slot) : (s.putSlot v p).nextTag = s.nextTag := rfl
@[simp] theorem State.putSlot_links (s : State) (v : View) (p : Slot) : (s.putSlot v p).links = s.links := rfl
@[simp] theorem State.putSlot_egress (s : State) (v : View) (p : Slot) : (s.putSlot v p).egress = s.egress := rfl
@[simp] theorem State.putSlot_metered (s : State) (v : View) (p : Slot) : (s.putSlot v p).metered = s.metered := rfl
@[simp] theorem State.putSlot_keys (s : State) (v : View) (p : Slot) : (s.putSlot v p).keys = s.keys := rfl
@[simp] theorem State.putSlot_alm (s : State) (v : View) (p : Slot) : (s.putSlot v p).alm = s.alm := rfl
@[simp] theorem State.putSlot_almWait (s : State) (v : View) (p : Slot) : (s.putSlot v p).almWait = s.almWait := rfl
@[simp] theorem State.putSlot_pairs (s : State) (v : View) (p : Slot) : (s.putSlot v p).pairs = s.pairs := rfl
@[simp] theorem State.putSlot_leader (s : State) (v : View) (p : Slot) : (s.putSlot v p).leader = s.leader := rfl
@[simp] theorem State.putSlot_snapgo (s : State) (v : View) (p : Slot) : (s.putSlot v p).snapgo = s.snapgo := rfl
@[simp] theorem State.putSlot_snap (s : State) (v : View) (p : Slot) : (s.putSlot v p).snap = s.snap := rfl
@[simp] theorem State.putSlot_reply (s : State) (v : View) (p : Slot) : (s.putSlot v p).reply = s.reply := rfl
@[simp] theorem State.putSlot_tick (s : State) (v : View) (p : Slot) : (s.putSlot v p).tick = s.tick := rfl
@[simp] theorem State.putSlot_lateReds (s : State) (v : View) (p : Slot) : (s.putSlot v p).lateReds = s.lateReds := rfl
@[simp] theorem State.putSlot_decoded (s : State) (v : View) (p : Slot) : (s.putSlot v p).decoded = s.decoded := rfl
@[simp] theorem State.putSlot_decOps (s : State) (v : View) (p : Slot) : (s.putSlot v p).decOps = s.decOps := rfl
@[simp] theorem State.putSlot_prefs (s : State) (v : View) (p : Slot) : (s.putSlot v p).prefs = s.prefs := rfl
@[simp] theorem State.putSlot_served (s : State) (v : View) (p : Slot) : (s.putSlot v p).served = s.served := rfl
@[simp] theorem State.putSlot_owedAdds (s : State) (v : View) (p : Slot) : (s.putSlot v p).owedAdds = s.owedAdds := rfl
@[simp] theorem State.putSlot_cycle (s : State) (v : View) (p : Slot) : (s.putSlot v p).cycle = s.cycle := rfl
@[simp] theorem State.putSlot_svcPage (s : State) (v : View) (p : Slot) : (s.putSlot v p).svcPage = s.svcPage := rfl
@[simp] theorem State.putSlot_replyBad (s : State) (v : View) (p : Slot) : (s.putSlot v p).replyBad = s.replyBad := rfl

@[simp] theorem State.modCtx_agenda (s : State) (n : Nat) (f : Context → Context) : (s.modCtx n f).agenda = s.agenda := rfl
@[simp] theorem State.modCtx_cur (s : State) (n : Nat) (f : Context → Context) : (s.modCtx n f).cur = s.cur := rfl
@[simp] theorem State.modCtx_islands (s : State) (n : Nat) (f : Context → Context) : (s.modCtx n f).islands = s.islands := rfl
@[simp] theorem State.modCtx_pwrlim (s : State) (n : Nat) (f : Context → Context) : (s.modCtx n f).pwrlim = s.pwrlim := rfl
@[simp] theorem State.modCtx_eqx (s : State) (n : Nat) (f : Context → Context) : (s.modCtx n f).eqx = s.eqx := rfl
@[simp] theorem State.modCtx_mem (s : State) (n : Nat) (f : Context → Context) : (s.modCtx n f).mem = s.mem := rfl
@[simp] theorem State.modCtx_writes (s : State) (n : Nat) (f : Context → Context) : (s.modCtx n f).writes = s.writes := rfl
@[simp] theorem State.modCtx_nextWrite (s : State) (n : Nat) (f : Context → Context) : (s.modCtx n f).nextWrite = s.nextWrite := rfl
@[simp] theorem State.modCtx_poison (s : State) (n : Nat) (f : Context → Context) : (s.modCtx n f).poison = s.poison := rfl
@[simp] theorem State.modCtx_tlb (s : State) (n : Nat) (f : Context → Context) : (s.modCtx n f).tlb = s.tlb := rfl
@[simp] theorem State.modCtx_walkCache (s : State) (n : Nat) (f : Context → Context) : (s.modCtx n f).walkCache = s.walkCache := rfl
@[simp] theorem State.modCtx_pred (s : State) (n : Nat) (f : Context → Context) : (s.modCtx n f).pred = s.pred := rfl
@[simp] theorem State.modCtx_near (s : State) (n : Nat) (f : Context → Context) : (s.modCtx n f).near = s.near := rfl
@[simp] theorem State.modCtx_comb (s : State) (n : Nat) (f : Context → Context) : (s.modCtx n f).comb = s.comb := rfl
@[simp] theorem State.modCtx_l2cfg (s : State) (n : Nat) (f : Context → Context) : (s.modCtx n f).l2cfg = s.l2cfg := rfl
@[simp] theorem State.modCtx_chrsv (s : State) (n : Nat) (f : Context → Context) : (s.modCtx n f).chrsv = s.chrsv := rfl
@[simp] theorem State.modCtx_chrsvWant (s : State) (n : Nat) (f : Context → Context) : (s.modCtx n f).chrsvWant = s.chrsvWant := rfl
@[simp] theorem State.modCtx_windows (s : State) (n : Nat) (f : Context → Context) : (s.modCtx n f).windows = s.windows := rfl
@[simp] theorem State.modCtx_shoot (s : State) (n : Nat) (f : Context → Context) : (s.modCtx n f).shoot = s.shoot := rfl
@[simp] theorem State.modCtx_icache (s : State) (n : Nat) (f : Context → Context) : (s.modCtx n f).icache = s.icache := rfl
@[simp] theorem State.modCtx_decs (s : State) (n : Nat) (f : Context → Context) : (s.modCtx n f).decs = s.decs := rfl
@[simp] theorem State.modCtx_teams (s : State) (n : Nat) (f : Context → Context) : (s.modCtx n f).teams = s.teams := rfl
@[simp] theorem State.modCtx_nextTeam (s : State) (n : Nat) (f : Context → Context) : (s.modCtx n f).nextTeam = s.nextTeam := rfl
@[simp] theorem State.modCtx_awaited (s : State) (n : Nat) (f : Context → Context) : (s.modCtx n f).awaited = s.awaited := rfl
@[simp] theorem State.modCtx_launches (s : State) (n : Nat) (f : Context → Context) : (s.modCtx n f).launches = s.launches := rfl
@[simp] theorem State.modCtx_nextLaunch (s : State) (n : Nat) (f : Context → Context) : (s.modCtx n f).nextLaunch = s.nextLaunch := rfl
@[simp] theorem State.modCtx_queues (s : State) (n : Nat) (f : Context → Context) : (s.modCtx n f).queues = s.queues := rfl
@[simp] theorem State.modCtx_fe (s : State) (n : Nat) (f : Context → Context) : (s.modCtx n f).fe = s.fe := rfl
@[simp] theorem State.modCtx_feeds (s : State) (n : Nat) (f : Context → Context) : (s.modCtx n f).feeds = s.feeds := rfl
@[simp] theorem State.modCtx_cmds (s : State) (n : Nat) (f : Context → Context) : (s.modCtx n f).cmds = s.cmds := rfl
@[simp] theorem State.modCtx_nextCmd (s : State) (n : Nat) (f : Context → Context) : (s.modCtx n f).nextCmd = s.nextCmd := rfl
@[simp] theorem State.modCtx_segs (s : State) (n : Nat) (f : Context → Context) : (s.modCtx n f).segs = s.segs := rfl
@[simp] theorem State.modCtx_gens (s : State) (n : Nat) (f : Context → Context) : (s.modCtx n f).gens = s.gens := rfl
@[simp] theorem State.modCtx_waiters (s : State) (n : Nat) (f : Context → Context) : (s.modCtx n f).waiters = s.waiters := rfl
@[simp] theorem State.modCtx_nextSeq (s : State) (n : Nat) (f : Context → Context) : (s.modCtx n f).nextSeq = s.nextSeq := rfl
@[simp] theorem State.modCtx_conds (s : State) (n : Nat) (f : Context → Context) : (s.modCtx n f).conds = s.conds := rfl
@[simp] theorem State.modCtx_recs (s : State) (n : Nat) (f : Context → Context) : (s.modCtx n f).recs = s.recs := rfl
@[simp] theorem State.modCtx_nextRec (s : State) (n : Nat) (f : Context → Context) : (s.modCtx n f).nextRec = s.nextRec := rfl
@[simp] theorem State.modCtx_written (s : State) (n : Nat) (f : Context → Context) : (s.modCtx n f).written = s.written := rfl
@[simp] theorem State.modCtx_osRing (s : State) (n : Nat) (f : Context → Context) : (s.modCtx n f).osRing = s.osRing := rfl
@[simp] theorem State.modCtx_osTail (s : State) (n : Nat) (f : Context → Context) : (s.modCtx n f).osTail = s.osTail := rfl
@[simp] theorem State.modCtx_osDisp (s : State) (n : Nat) (f : Context → Context) : (s.modCtx n f).osDisp = s.osDisp := rfl
@[simp] theorem State.modCtx_osLogf (s : State) (n : Nat) (f : Context → Context) : (s.modCtx n f).osLogf = s.osLogf := rfl
@[simp] theorem State.modCtx_osFovf (s : State) (n : Nat) (f : Context → Context) : (s.modCtx n f).osFovf = s.osFovf := rfl
@[simp] theorem State.modCtx_osNext (s : State) (n : Nat) (f : Context → Context) : (s.modCtx n f).osNext = s.osNext := rfl
@[simp] theorem State.modCtx_osDone (s : State) (n : Nat) (f : Context → Context) : (s.modCtx n f).osDone = s.osDone := rfl
@[simp] theorem State.modCtx_hostLines (s : State) (n : Nat) (f : Context → Context) : (s.modCtx n f).hostLines = s.hostLines := rfl
@[simp] theorem State.modCtx_snoops (s : State) (n : Nat) (f : Context → Context) : (s.modCtx n f).snoops = s.snoops := rfl
@[simp] theorem State.modCtx_hostsLost (s : State) (n : Nat) (f : Context → Context) : (s.modCtx n f).hostsLost = s.hostsLost := rfl
@[simp] theorem State.modCtx_peersLost (s : State) (n : Nat) (f : Context → Context) : (s.modCtx n f).peersLost = s.peersLost := rfl
@[simp] theorem State.modCtx_hostMem (s : State) (n : Nat) (f : Context → Context) : (s.modCtx n f).hostMem = s.hostMem := rfl
@[simp] theorem State.modCtx_cxlReqs (s : State) (n : Nat) (f : Context → Context) : (s.modCtx n f).cxlReqs = s.cxlReqs := rfl
@[simp] theorem State.modCtx_bindings (s : State) (n : Nat) (f : Context → Context) : (s.modCtx n f).bindings = s.bindings := rfl
@[simp] theorem State.modCtx_routes (s : State) (n : Nat) (f : Context → Context) : (s.modCtx n f).routes = s.routes := rfl
@[simp] theorem State.modCtx_unrouted (s : State) (n : Nat) (f : Context → Context) : (s.modCtx n f).unrouted = s.unrouted := rfl
@[simp] theorem State.modCtx_remote (s : State) (n : Nat) (f : Context → Context) : (s.modCtx n f).remote = s.remote := rfl
@[simp] theorem State.modCtx_nextTag (s : State) (n : Nat) (f : Context → Context) : (s.modCtx n f).nextTag = s.nextTag := rfl
@[simp] theorem State.modCtx_links (s : State) (n : Nat) (f : Context → Context) : (s.modCtx n f).links = s.links := rfl
@[simp] theorem State.modCtx_egress (s : State) (n : Nat) (f : Context → Context) : (s.modCtx n f).egress = s.egress := rfl
@[simp] theorem State.modCtx_metered (s : State) (n : Nat) (f : Context → Context) : (s.modCtx n f).metered = s.metered := rfl
@[simp] theorem State.modCtx_keys (s : State) (n : Nat) (f : Context → Context) : (s.modCtx n f).keys = s.keys := rfl
@[simp] theorem State.modCtx_alm (s : State) (n : Nat) (f : Context → Context) : (s.modCtx n f).alm = s.alm := rfl
@[simp] theorem State.modCtx_almWait (s : State) (n : Nat) (f : Context → Context) : (s.modCtx n f).almWait = s.almWait := rfl
@[simp] theorem State.modCtx_pairs (s : State) (n : Nat) (f : Context → Context) : (s.modCtx n f).pairs = s.pairs := rfl
@[simp] theorem State.modCtx_leader (s : State) (n : Nat) (f : Context → Context) : (s.modCtx n f).leader = s.leader := rfl
@[simp] theorem State.modCtx_snapgo (s : State) (n : Nat) (f : Context → Context) : (s.modCtx n f).snapgo = s.snapgo := rfl
@[simp] theorem State.modCtx_snap (s : State) (n : Nat) (f : Context → Context) : (s.modCtx n f).snap = s.snap := rfl
@[simp] theorem State.modCtx_reply (s : State) (n : Nat) (f : Context → Context) : (s.modCtx n f).reply = s.reply := rfl
@[simp] theorem State.modCtx_tick (s : State) (n : Nat) (f : Context → Context) : (s.modCtx n f).tick = s.tick := rfl
@[simp] theorem State.modCtx_lateReds (s : State) (n : Nat) (f : Context → Context) : (s.modCtx n f).lateReds = s.lateReds := rfl
@[simp] theorem State.modCtx_decoded (s : State) (n : Nat) (f : Context → Context) : (s.modCtx n f).decoded = s.decoded := rfl
@[simp] theorem State.modCtx_decOps (s : State) (n : Nat) (f : Context → Context) : (s.modCtx n f).decOps = s.decOps := rfl
@[simp] theorem State.modCtx_prefs (s : State) (n : Nat) (f : Context → Context) : (s.modCtx n f).prefs = s.prefs := rfl
@[simp] theorem State.modCtx_served (s : State) (n : Nat) (f : Context → Context) : (s.modCtx n f).served = s.served := rfl
@[simp] theorem State.modCtx_owedAdds (s : State) (n : Nat) (f : Context → Context) : (s.modCtx n f).owedAdds = s.owedAdds := rfl
@[simp] theorem State.modCtx_cycle (s : State) (n : Nat) (f : Context → Context) : (s.modCtx n f).cycle = s.cycle := rfl
@[simp] theorem State.modCtx_svcPage (s : State) (n : Nat) (f : Context → Context) : (s.modCtx n f).svcPage = s.svcPage := rfl
@[simp] theorem State.modCtx_replyBad (s : State) (n : Nat) (f : Context → Context) : (s.modCtx n f).replyBad = s.replyBad := rfl

@[simp] theorem State.countConds_agenda (s : State) (t : Team) (c : Conds) : (s.countConds t c).agenda = s.agenda := rfl
@[simp] theorem State.countConds_cur (s : State) (t : Team) (c : Conds) : (s.countConds t c).cur = s.cur := rfl
@[simp] theorem State.countConds_islands (s : State) (t : Team) (c : Conds) : (s.countConds t c).islands = s.islands := rfl
@[simp] theorem State.countConds_pwrlim (s : State) (t : Team) (c : Conds) : (s.countConds t c).pwrlim = s.pwrlim := rfl
@[simp] theorem State.countConds_eqx (s : State) (t : Team) (c : Conds) : (s.countConds t c).eqx = s.eqx := rfl
@[simp] theorem State.countConds_mem (s : State) (t : Team) (c : Conds) : (s.countConds t c).mem = s.mem := rfl
@[simp] theorem State.countConds_writes (s : State) (t : Team) (c : Conds) : (s.countConds t c).writes = s.writes := rfl
@[simp] theorem State.countConds_nextWrite (s : State) (t : Team) (c : Conds) : (s.countConds t c).nextWrite = s.nextWrite := rfl
@[simp] theorem State.countConds_poison (s : State) (t : Team) (c : Conds) : (s.countConds t c).poison = s.poison := rfl
@[simp] theorem State.countConds_tlb (s : State) (t : Team) (c : Conds) : (s.countConds t c).tlb = s.tlb := rfl
@[simp] theorem State.countConds_walkCache (s : State) (t : Team) (c : Conds) : (s.countConds t c).walkCache = s.walkCache := rfl
@[simp] theorem State.countConds_pred (s : State) (t : Team) (c : Conds) : (s.countConds t c).pred = s.pred := rfl
@[simp] theorem State.countConds_near (s : State) (t : Team) (c : Conds) : (s.countConds t c).near = s.near := rfl
@[simp] theorem State.countConds_comb (s : State) (t : Team) (c : Conds) : (s.countConds t c).comb = s.comb := rfl
@[simp] theorem State.countConds_l2cfg (s : State) (t : Team) (c : Conds) : (s.countConds t c).l2cfg = s.l2cfg := rfl
@[simp] theorem State.countConds_chrsv (s : State) (t : Team) (c : Conds) : (s.countConds t c).chrsv = s.chrsv := rfl
@[simp] theorem State.countConds_chrsvWant (s : State) (t : Team) (c : Conds) : (s.countConds t c).chrsvWant = s.chrsvWant := rfl
@[simp] theorem State.countConds_windows (s : State) (t : Team) (c : Conds) : (s.countConds t c).windows = s.windows := rfl
@[simp] theorem State.countConds_shoot (s : State) (t : Team) (c : Conds) : (s.countConds t c).shoot = s.shoot := rfl
@[simp] theorem State.countConds_icache (s : State) (t : Team) (c : Conds) : (s.countConds t c).icache = s.icache := rfl
@[simp] theorem State.countConds_decs (s : State) (t : Team) (c : Conds) : (s.countConds t c).decs = s.decs := rfl
@[simp] theorem State.countConds_ctxs (s : State) (t : Team) (c : Conds) : (s.countConds t c).ctxs = s.ctxs := rfl
@[simp] theorem State.countConds_teams (s : State) (t : Team) (c : Conds) : (s.countConds t c).teams = s.teams := rfl
@[simp] theorem State.countConds_nextTeam (s : State) (t : Team) (c : Conds) : (s.countConds t c).nextTeam = s.nextTeam := rfl
@[simp] theorem State.countConds_awaited (s : State) (t : Team) (c : Conds) : (s.countConds t c).awaited = s.awaited := rfl
@[simp] theorem State.countConds_launches (s : State) (t : Team) (c : Conds) : (s.countConds t c).launches = s.launches := rfl
@[simp] theorem State.countConds_nextLaunch (s : State) (t : Team) (c : Conds) : (s.countConds t c).nextLaunch = s.nextLaunch := rfl
@[simp] theorem State.countConds_queues (s : State) (t : Team) (c : Conds) : (s.countConds t c).queues = s.queues := rfl
@[simp] theorem State.countConds_fe (s : State) (t : Team) (c : Conds) : (s.countConds t c).fe = s.fe := rfl
@[simp] theorem State.countConds_feeds (s : State) (t : Team) (c : Conds) : (s.countConds t c).feeds = s.feeds := rfl
@[simp] theorem State.countConds_cmds (s : State) (t : Team) (c : Conds) : (s.countConds t c).cmds = s.cmds := rfl
@[simp] theorem State.countConds_nextCmd (s : State) (t : Team) (c : Conds) : (s.countConds t c).nextCmd = s.nextCmd := rfl
@[simp] theorem State.countConds_segs (s : State) (t : Team) (c : Conds) : (s.countConds t c).segs = s.segs := rfl
@[simp] theorem State.countConds_gens (s : State) (t : Team) (c : Conds) : (s.countConds t c).gens = s.gens := rfl
@[simp] theorem State.countConds_waiters (s : State) (t : Team) (c : Conds) : (s.countConds t c).waiters = s.waiters := rfl
@[simp] theorem State.countConds_nextSeq (s : State) (t : Team) (c : Conds) : (s.countConds t c).nextSeq = s.nextSeq := rfl
@[simp] theorem State.countConds_recs (s : State) (t : Team) (c : Conds) : (s.countConds t c).recs = s.recs := rfl
@[simp] theorem State.countConds_nextRec (s : State) (t : Team) (c : Conds) : (s.countConds t c).nextRec = s.nextRec := rfl
@[simp] theorem State.countConds_written (s : State) (t : Team) (c : Conds) : (s.countConds t c).written = s.written := rfl
@[simp] theorem State.countConds_osRing (s : State) (t : Team) (c : Conds) : (s.countConds t c).osRing = s.osRing := rfl
@[simp] theorem State.countConds_osTail (s : State) (t : Team) (c : Conds) : (s.countConds t c).osTail = s.osTail := rfl
@[simp] theorem State.countConds_osDisp (s : State) (t : Team) (c : Conds) : (s.countConds t c).osDisp = s.osDisp := rfl
@[simp] theorem State.countConds_osLogf (s : State) (t : Team) (c : Conds) : (s.countConds t c).osLogf = s.osLogf := rfl
@[simp] theorem State.countConds_osFovf (s : State) (t : Team) (c : Conds) : (s.countConds t c).osFovf = s.osFovf := rfl
@[simp] theorem State.countConds_osNext (s : State) (t : Team) (c : Conds) : (s.countConds t c).osNext = s.osNext := rfl
@[simp] theorem State.countConds_osDone (s : State) (t : Team) (c : Conds) : (s.countConds t c).osDone = s.osDone := rfl
@[simp] theorem State.countConds_hostLines (s : State) (t : Team) (c : Conds) : (s.countConds t c).hostLines = s.hostLines := rfl
@[simp] theorem State.countConds_snoops (s : State) (t : Team) (c : Conds) : (s.countConds t c).snoops = s.snoops := rfl
@[simp] theorem State.countConds_hostsLost (s : State) (t : Team) (c : Conds) : (s.countConds t c).hostsLost = s.hostsLost := rfl
@[simp] theorem State.countConds_peersLost (s : State) (t : Team) (c : Conds) : (s.countConds t c).peersLost = s.peersLost := rfl
@[simp] theorem State.countConds_hostMem (s : State) (t : Team) (c : Conds) : (s.countConds t c).hostMem = s.hostMem := rfl
@[simp] theorem State.countConds_cxlReqs (s : State) (t : Team) (c : Conds) : (s.countConds t c).cxlReqs = s.cxlReqs := rfl
@[simp] theorem State.countConds_bindings (s : State) (t : Team) (c : Conds) : (s.countConds t c).bindings = s.bindings := rfl
@[simp] theorem State.countConds_routes (s : State) (t : Team) (c : Conds) : (s.countConds t c).routes = s.routes := rfl
@[simp] theorem State.countConds_unrouted (s : State) (t : Team) (c : Conds) : (s.countConds t c).unrouted = s.unrouted := rfl
@[simp] theorem State.countConds_remote (s : State) (t : Team) (c : Conds) : (s.countConds t c).remote = s.remote := rfl
@[simp] theorem State.countConds_nextTag (s : State) (t : Team) (c : Conds) : (s.countConds t c).nextTag = s.nextTag := rfl
@[simp] theorem State.countConds_links (s : State) (t : Team) (c : Conds) : (s.countConds t c).links = s.links := rfl
@[simp] theorem State.countConds_egress (s : State) (t : Team) (c : Conds) : (s.countConds t c).egress = s.egress := rfl
@[simp] theorem State.countConds_metered (s : State) (t : Team) (c : Conds) : (s.countConds t c).metered = s.metered := rfl
@[simp] theorem State.countConds_keys (s : State) (t : Team) (c : Conds) : (s.countConds t c).keys = s.keys := rfl
@[simp] theorem State.countConds_alm (s : State) (t : Team) (c : Conds) : (s.countConds t c).alm = s.alm := rfl
@[simp] theorem State.countConds_almWait (s : State) (t : Team) (c : Conds) : (s.countConds t c).almWait = s.almWait := rfl
@[simp] theorem State.countConds_pairs (s : State) (t : Team) (c : Conds) : (s.countConds t c).pairs = s.pairs := rfl
@[simp] theorem State.countConds_leader (s : State) (t : Team) (c : Conds) : (s.countConds t c).leader = s.leader := rfl
@[simp] theorem State.countConds_snapgo (s : State) (t : Team) (c : Conds) : (s.countConds t c).snapgo = s.snapgo := rfl
@[simp] theorem State.countConds_snap (s : State) (t : Team) (c : Conds) : (s.countConds t c).snap = s.snap := rfl
@[simp] theorem State.countConds_reply (s : State) (t : Team) (c : Conds) : (s.countConds t c).reply = s.reply := rfl
@[simp] theorem State.countConds_tick (s : State) (t : Team) (c : Conds) : (s.countConds t c).tick = s.tick := rfl
@[simp] theorem State.countConds_lateReds (s : State) (t : Team) (c : Conds) : (s.countConds t c).lateReds = s.lateReds := rfl
@[simp] theorem State.countConds_decoded (s : State) (t : Team) (c : Conds) : (s.countConds t c).decoded = s.decoded := rfl
@[simp] theorem State.countConds_decOps (s : State) (t : Team) (c : Conds) : (s.countConds t c).decOps = s.decOps := rfl
@[simp] theorem State.countConds_prefs (s : State) (t : Team) (c : Conds) : (s.countConds t c).prefs = s.prefs := rfl
@[simp] theorem State.countConds_served (s : State) (t : Team) (c : Conds) : (s.countConds t c).served = s.served := rfl
@[simp] theorem State.countConds_owedAdds (s : State) (t : Team) (c : Conds) : (s.countConds t c).owedAdds = s.owedAdds := rfl
@[simp] theorem State.countConds_cycle (s : State) (t : Team) (c : Conds) : (s.countConds t c).cycle = s.cycle := rfl
@[simp] theorem State.countConds_svcPage (s : State) (t : Team) (c : Conds) : (s.countConds t c).svcPage = s.svcPage := rfl
@[simp] theorem State.countConds_replyBad (s : State) (t : Team) (c : Conds) : (s.countConds t c).replyBad = s.replyBad := rfl

end Sys2Proof.Machine
end

