-- ==== Sys2Proof/Laws/Slots.lean ====
section
/-!
SUPPORT. Finding a slot after it was put back, and what issuing an operation can answer.
-/

namespace Sys2Proof.Machine

/-! ### Slots of a wave -/

@[simp] theorem Wave.slot_setSlot (w : Wave) (b : Bool) (p : Slot) : (w.setSlot b p).slot b = p := by
  cases b <;> rfl

@[simp] theorem Wave.slot_setSlot_not (w : Wave) (b : Bool) (p : Slot) : (w.setSlot b p).slot (!b) = w.slot (!b) := by
  cases b <;> rfl

@[simp] theorem Wave.slot_not_setSlot (w : Wave) (b : Bool) (p : Slot) : (w.setSlot (!b) p).slot b = w.slot b := by
  cases b <;> rfl

@[simp] theorem Wave.setSlot_setSlot (w : Wave) (b : Bool) (p q : Slot) : (w.setSlot b p).setSlot b q = w.setSlot b q := by
  cases b <;> rfl

@[simp] theorem Wave.setSlot_slot (w : Wave) (b : Bool) : w.setSlot b (w.slot b) = w := by cases b <;> rfl

@[simp] theorem Wave.setSlot_v (w : Wave) (b : Bool) (p : Slot) : (w.setSlot b p).v = w.v := by cases b <;> rfl
@[simp] theorem Wave.setSlot_s (w : Wave) (b : Bool) (p : Slot) : (w.setSlot b p).s = w.s := by cases b <;> rfl
@[simp] theorem Wave.setSlot_k (w : Wave) (b : Bool) (p : Slot) : (w.setSlot b p).k = w.k := by cases b <;> rfl
@[simp] theorem Wave.setSlot_place (w : Wave) (b : Bool) (p : Slot) : (w.setSlot b p).place = w.place := by
  cases b <;> rfl
@[simp] theorem Wave.setSlot_status (w : Wave) (b : Bool) (p : Slot) : (w.setSlot b p).status = w.status := by
  cases b <;> rfl
@[simp] theorem Wave.setSlot_stack (w : Wave) (b : Bool) (p : Slot) : (w.setSlot b p).stack = w.stack := by
  cases b <;> rfl

/-! ### Finding teams, waves and slots -/

theorem find?_map_id {l : List Team} {id : Nat} {f : Team → Team} (hf : ∀ t, (f t).id = t.id) (j : Nat) :
    ((l.map fun t => if t.id = id then f t else t).find? fun t => t.id = j) =
      (l.find? fun t => t.id = j).map fun t => if t.id = id then f t else t := by
  induction l with
  | nil => rfl
  | cons t r ih =>
    have hid : (if t.id = id then f t else t).id = t.id := by split <;> simp [hf]
    simp only [List.map_cons, List.find?_cons, hid]
    by_cases h : t.id = j
    · simp [h]
    · simp only [h, decide_false]; exact ih

/-- A team after a change that keeps identities. -/
theorem State.team?_modTeam (s : State) (id j : Nat) {f : Team → Team} (hf : ∀ t, (f t).id = t.id) :
    (s.modTeam id f).team? j = (s.team? j).map fun t => if t.id = id then f t else t :=
  find?_map_id hf j

theorem State.team?_id {s : State} {j : Nat} {t : Team} (h : s.team? j = some t) : t.id = j := by
  have := List.find?_some h
  simpa using this

/-- What a found slot is. -/
theorem State.find_spec {s : State} {sl : SlotId} {v : View} (h : s.find sl = some v) :
    v.sl = sl ∧ s.team? sl.team = some v.t ∧ v.t.waves[sl.wave]? = some v.w ∧ v.p = v.w.slot sl.b := by
  unfold State.find at h
  split at h
  · cases h
  · next t ht =>
    split at h
    · cases h
    · next w hw => cases h; exact ⟨rfl, ht, hw, rfl⟩

/-- What the issuing slot's view is: the slot found, in the course of issuing. -/
theorem State.view_spec {s : State} {v : View} (h : s.view = some v) :
    v.sl = s.cur ∧ s.team? s.cur.team = some v.t ∧ (∃ w, v.t.waves[s.cur.wave]? = some w ∧
      v.p = { w.slot s.cur.b with stalled := false, waitTeam := none } ∧ v.w = w.setSlot s.cur.b v.p) ∧
      v.p = v.w.slot v.sl.b ∧ v.t.status = .placed ∧ v.w.status = .running ∧ v.p.live = true ∧ v.p.status = .running := by
  unfold State.view at h
  split at h
  · cases h
  · next u hu =>
    split at h
    · next hi =>
      obtain ⟨h1, h2, h3, h4⟩ := State.find_spec hu
      simp only [View.issues, Bool.and_eq_true, decide_eq_true_eq] at hi
      cases h
      refine ⟨h1, h2, ⟨u.w, h3, by simp [View.unstall, h4], by simp [View.unstall, h1]⟩, by simp [View.unstall], hi.1.1.1,
        by simp [View.unstall, hi.1.1.2], hi.1.2, hi.2⟩
    · cases h

/-- The slot after its wave was put back. -/
theorem State.find_putWave {s : State} {v : View} (ht : s.team? v.sl.team = some v.t)
    (hlen : v.sl.wave < v.t.waves.length) (w : Wave) :
    (s.putWave v w).find v.sl = some { sl := v.sl, t := v.t.setWave v.sl.wave w, w := w, p := w.slot v.sl.b } := by
  have hid := State.team?_id ht
  unfold State.find
  rw [State.putWave_eq, State.team?_modTeam s _ _ (f := fun t => t.setWave v.sl.wave w) (fun t => rfl), ht]
  simp [hid, Team.setWave, hlen]

/-- The issuing slot after its wave was put back. -/
theorem State.find_putWave_view {s : State} {v : View} (h : s.view = some v) (w : Wave) :
    (s.putWave v w).find v.sl = some { sl := v.sl, t := v.t.setWave v.sl.wave w, w := w, p := w.slot v.sl.b } := by
  obtain ⟨h1, h2, ⟨w0, h3, -⟩, -⟩ := State.view_spec h
  exact State.find_putWave (h1 ▸ h2) (h1 ▸ (List.getElem?_eq_some_iff.1 h3).1) w

/-- Other teams are not changed by putting a wave back. -/
theorem State.team?_putWave_ne (s : State) (v : View) (w : Wave) {j : Nat} (h : j ≠ v.sl.team) :
    (s.putWave v w).team? j = s.team? j := by
  rw [State.putWave_eq, State.team?_modTeam s _ _ (f := fun t => t.setWave v.sl.wave w) (fun t => rfl)]
  cases ht : s.team? j with
  | none => rfl
  | some t => simp [State.team?_id ht, h]

/-- The team of a wave put back: only that wave of it changes. -/
theorem State.team?_putWave_self {s : State} {v : View} (ht : s.team? v.sl.team = some v.t) (w : Wave) :
    (s.putWave v w).team? v.sl.team = some (v.t.setWave v.sl.wave w) := by
  rw [State.putWave_eq, State.team?_modTeam s _ _ (f := fun t => t.setWave v.sl.wave w) (fun t => rfl), ht]
  simp [State.team?_id ht]

/-! ### Issuing -/

/-- Everything issuing can answer. -/
theorem issue_cases {s : State} {causes : View → List Nat} {wait : View → Bool} {run : View → State}
    {o : Host.Outcome State Fault Refusal} (h : issue s causes wait run = o) :
    (s.view = none ∧ o = .fault .noIssuingSlot) ∨
    (∃ v c, s.view = some v ∧ leastCause (causes v) = some c ∧ o = .next (s.killWave v c)) ∨
    (∃ v, s.view = some v ∧ causes v = [] ∧ wait v = true ∧ o = .next (s.putSlot v { v.p with stalled := true })) ∨
    (∃ v, s.view = some v ∧ causes v = [] ∧ wait v = false ∧ o = .next (run v)) := by
  have hl : ∀ l : List Nat, leastCause l = none → l = [] := by
    intro l hl
    cases l with
    | nil => rfl
    | cons c r =>
      simp only [leastCause] at hl
      split at hl <;> cases hl
  unfold issue at h
  split at h
  · exact .inl ⟨‹_›, h.symm⟩
  · next v hv =>
    split at h
    · next c hc => exact .inr (.inl ⟨v, c, hv, hc, h.symm⟩)
    · next hn =>
      split at h
      · next hw => exact .inr (.inr (.inl ⟨v, hv, hl _ hn, hw, h.symm⟩))
      · next hw => exact .inr (.inr (.inr ⟨v, hv, hl _ hn, by simpa using hw, h.symm⟩))

/-- An operation with nothing wrong and nothing to wait for runs. -/
theorem issue_run {s : State} {v : View} (hv : s.view = some v) {causes : View → List Nat} {wait : View → Bool}
    {run : View → State} (hc : causes v = []) (hw : wait v = false) : issue s causes wait run = .next (run v) := by
  simp [issue, hv, hc, hw, leastCause]

/-- An operation that has to wait changes nothing but the slot's mark of waiting. -/
theorem issue_wait {s : State} {v : View} (hv : s.view = some v) {causes : View → List Nat} {wait : View → Bool}
    {run : View → State} (hc : causes v = []) (hw : wait v = true) :
    issue s causes wait run = .next (s.putSlot v { v.p with stalled := true }) := by
  simp [issue, hv, hc, hw, leastCause]

/-- The least of a nonempty list of causes. -/
theorem leastCause_some {l : List Nat} (h : l ≠ []) : ∃ c, leastCause l = some c ∧ c ∈ l ∧ ∀ d ∈ l, c ≤ d := by
  induction l with
  | nil => exact absurd rfl h
  | cons a r ih =>
    by_cases hr : r = []
    · subst hr; exact ⟨a, rfl, by simp, by simp⟩
    · obtain ⟨c, hc, hm, hle⟩ := ih hr
      refine ⟨min a c, by simp [leastCause, hc], ?_, ?_⟩
      · rcases Nat.le_total a c with h | h
        · simp [Nat.min_eq_left h]
        · simp [Nat.min_eq_right h, hm]
      · intro d hd
        rcases List.mem_cons.1 hd with rfl | hd
        · exact Nat.min_le_left _ _
        · exact Nat.le_trans (Nat.min_le_right _ _) (hle d hd)

/-- An operation with something wrong kills its wave for the least cause. -/
theorem issue_kill {s : State} {v : View} (hv : s.view = some v) {causes : View → List Nat} {wait : View → Bool}
    {run : View → State} (hc : causes v ≠ []) :
    ∃ c ∈ causes v, (∀ d ∈ causes v, c ≤ d) ∧ issue s causes wait run = .next (s.killWave v c) := by
  obtain ⟨c, h1, h2, h3⟩ := leastCause_some hc
  exact ⟨c, h2, h3, by simp [issue, hv, h1]⟩

end Sys2Proof.Machine
end

