-- ==== Sys2Proof/Laws/Registers.lean ====
section
/-!
SUPPORT. What registers read after a write: scalars and mask words, vectors lane by lane, predicates, and the groups a
destination selector names.
-/

namespace Sys2Proof.Machine

/-! ### Mask words -/

theorem getLsbD_maskWord (m : Lanes) (i j : Nat) : (maskWord m i).getLsbD j = (decide (j < 32) && m.getLsbD (32 * i + j)) := by
  simp [maskWord, BitVec.getLsbD_extractLsb']

theorem getLsbD_setMaskWord (m : Lanes) (i j : Nat) (x : Word) (hi : i < 3) :
    (setMaskWord m i x).getLsbD j =
      if 32 * i ≤ j ∧ j < 32 * i + 32 then x.getLsbD (j - 32 * i) else m.getLsbD j := by
  simp only [setMaskWord, BitVec.getLsbD_or, BitVec.getLsbD_and, BitVec.getLsbD_not, BitVec.getLsbD_shiftLeft,
    BitVec.truncate_eq_setWidth, BitVec.getLsbD_setWidth, BitVec.getLsbD_allOnes]
  by_cases h1 : 32 * i ≤ j
  · by_cases h2 : j < 32 * i + 32
    · have h3 : j < 96 := by omega
      have h4 : j - 32 * i < 96 := by omega
      have h5 : j - 32 * i < 32 := by omega
      simp [h1, h2, h3, h4, h5, show ¬ j < 32 * i by omega]
    · have h5 : ¬ j - 32 * i < 32 := by omega
      by_cases h3 : j < 96
      · simp [h1, h2, h3, h5, show ¬ j < 32 * i by omega, BitVec.getLsbD_of_ge x (j - 32 * i) (by omega)]
      · simp [h2, h3, h5, BitVec.getLsbD_of_ge m j (by omega)]
  · by_cases h3 : j < 96
    · simp [h1, h3, show j < 32 * i by omega]
    · omega

theorem maskWord_setMaskWord_self (m : Lanes) {i : Nat} (x : Word) (hi : i < 3) : maskWord (setMaskWord m i x) i = x := by
  apply BitVec.eq_of_getLsbD_eq
  intro j hj
  rw [getLsbD_maskWord, getLsbD_setMaskWord _ _ _ _ hi]
  simp [hj, show 32 * i + j < 32 * i + 32 by omega]

theorem maskWord_setMaskWord_ne (m : Lanes) {i k : Nat} (x : Word) (hi : i < 3) (hk : k ≠ i) :
    maskWord (setMaskWord m i x) k = maskWord m k := by
  apply BitVec.eq_of_getLsbD_eq
  intro j hj
  rw [getLsbD_maskWord, getLsbD_maskWord, getLsbD_setMaskWord _ _ _ _ hi, if_neg (by omega)]

/-! ### Scalar registers -/

/-- Scalar register `n` as slot `b` of the wave reads it. -/
abbrev Wave.sreg (w : Wave) (b : Bool) (n : Nat) : Word := readSReg w (w.slot b) n

/-- A read after a write of a scalar register; a mask word keeps owned lanes only. -/
theorem sreg_writeSReg (w : Wave) (b : Bool) (n m : Nat) (x : Word) :
    (writeSReg w b n x).sreg b m = if m = n then ownedCut (w.slot b) n x else w.sreg b m := by
  unfold writeSReg
  split
  · next hn =>
    simp only [readSReg]
    by_cases hm : m < 32
    · simp only [hm, if_true, cellGet_cellSet, ownedCut, show ¬(60 ≤ n ∧ n ≤ 62) by omega, if_false]
    · simp only [hm, if_false, show m ≠ n by omega]
      cases b <;> rfl
  · next hn =>
    split
    · next hr =>
      simp only [readSReg, Wave.slot_setSlot, Wave.setSlot_s]
      by_cases hm : m < 32
      · simp [hm, show m ≠ n by omega]
      · simp only [hm, if_false]
        by_cases hk : 60 ≤ m ∧ m ≤ 62
        · simp only [hk, and_self, if_true, ownedCut, hr]
          by_cases he : m = n
          · subst he; rw [if_pos rfl, maskWord_setMaskWord_self _ _ (by omega)]
          · rw [if_neg he, maskWord_setMaskWord_ne _ _ (by omega) (by omega)]
        · simp only [hk, if_false, show m ≠ n by omega]
    · next hr =>
      simp only [readSReg, Wave.slot_setSlot, Wave.setSlot_s]
      by_cases hm : m < 32
      · simp [hm, show m ≠ n by omega]
      · simp only [hm, if_false]
        by_cases hk : 60 ≤ m ∧ m ≤ 62
        · simp [hk, show m ≠ n by omega]
        · simp only [hk, if_false, cellGet_cellSet, ownedCut, hr]

theorem writeSReg_slot_not (w : Wave) (b : Bool) (n : Nat) (x : Word) :
    (writeSReg w b n x).slot (!b) = w.slot (!b) := by
  unfold writeSReg
  split
  · cases b <;> rfl
  · split <;> simp

/-- A write of a scalar register leaves the slot's bank and mask apart, and the other stores of the wave. -/
theorem writeSReg_frame (w : Wave) (b : Bool) (n : Nat) (x : Word) :
    (writeSReg w b n x).v = w.v ∧ (writeSReg w b n x).k = w.k ∧ (writeSReg w b n x).stack = w.stack ∧
      (writeSReg w b n x).status = w.status ∧ (writeSReg w b n x).place = w.place ∧
      (writeSReg w b n x).slot b =
        { w.slot b with bank := ((writeSReg w b n x).slot b).bank, mask := ((writeSReg w b n x).slot b).mask } := by
  unfold writeSReg
  split
  · exact ⟨rfl, rfl, rfl, rfl, rfl, by cases b <;> rfl⟩
  · split <;> simp

/-! ### Vector registers -/

/-- What a lane reads after a register was written in the lanes `act`. -/
theorem laneGet_lanesSet (m : Cells 32) (r n l : Nat) (act : Lanes) (f : Nat → Word) (hl : l < 96) :
    laneGet (lanesSet m r act f) n l = if n = r ∧ act.getLsbD l = true then f l else laneGet m n l := by
  have key : ∀ (k : Nat), k ≤ 96 → laneGet ((List.range k).foldl
      (fun m l => if act.getLsbD l then cellSet m (96 * r + l) (f l) else m) m) n l =
      if n = r ∧ act.getLsbD l = true ∧ l < k then f l else laneGet m n l := by
    intro k
    induction k with
    | zero => intro _; simp
    | succ k ih =>
      intro hk
      rw [List.range_succ, List.foldl_append]
      simp only [List.foldl_cons, List.foldl_nil]
      have ih := ih (by omega)
      by_cases ha : act.getLsbD k = true
      · simp only [ha, if_true, laneGet, cellGet_cellSet] at ih ⊢
        by_cases he : 96 * n + l = 96 * r + k
        · have h1 : n = r := by omega
          have h2 : l = k := by omega
          subst h1 h2
          simp [ha]
        · rw [if_neg he, ih]
          by_cases h1 : n = r
          · have : l ≠ k := by omega
            simp only [h1, true_and, show (l < k + 1) = (l < k) from propext ⟨fun _ => by omega, fun _ => by omega⟩]
          · simp [h1]
      · simp only [ha, Bool.false_eq_true, if_false, ih]
        by_cases h2 : l = k
        · subst h2; simp [ha]
        · simp only [show (l < k + 1) = (l < k) from propext ⟨fun _ => by omega, fun _ => by omega⟩]
  have := key 96 (Nat.le_refl _)
  simpa [lanesSet, hl] using this

/-! ### Predicates -/

/-- A read after a write of a predicate. -/
theorem readKReg_writeKReg (w : Wave) (n m : Nat) (act x : Lanes) :
    readKReg (writeKReg w n act x) m =
      if m = n ∧ n ≠ 0 then (readKReg w n &&& ~~~act) ||| (x &&& act) else readKReg w m := by
  unfold writeKReg readKReg
  by_cases hn : n = 0
  · simp [hn]
  · simp only [hn, if_false, cellGet_cellSet]
    by_cases hm : m = 0
    · subst hm; simp [Ne.symm hn]
    · by_cases he : m = n <;> simp [hm, he, hn]

theorem writeKReg_frame (w : Wave) (n : Nat) (act x : Lanes) :
    (writeKReg w n act x).v = w.v ∧ (writeKReg w n act x).s = w.s ∧ (writeKReg w n act x).a = w.a ∧
      (writeKReg w n act x).b = w.b ∧ (writeKReg w n act x).stack = w.stack ∧
      (writeKReg w n act x).status = w.status ∧ (writeKReg w n act x).place = w.place := by
  unfold writeKReg; split <;> exact ⟨rfl, rfl, rfl, rfl, rfl, rfl, rfl⟩

/-! ### Destination groups -/

/-- The scalar temporary a slot reads, as part of its wave. -/
abbrev Wave.xreg (w : Wave) (b : Bool) (n : Nat) : Word := readXReg (w.slot b) n

/-- What writing register `i` of a scalar group does. -/
theorem writeScalarReg_spec (w : Wave) (b : Bool) (sel i : Nat) (x : Word) (h : sel < 0x40 ∨ 0x90 ≤ sel) :
    (∀ n, n < 64 → (writeScalarReg w b sel i x).sreg b n =
      if sel < 0x40 ∧ n = sel + i then ownedCut (w.slot b) n x else w.sreg b n) ∧
    (∀ n, n < 8 → (w.slot b).exp.isSome = true → (writeScalarReg w b sel i x).xreg b n =
      if 0x90 + n = sel + i ∧ 0x90 ≤ sel then x else w.xreg b n) ∧
    (∀ n l, readEReg ((writeScalarReg w b sel i x).slot b) n l = readEReg (w.slot b) n l) ∧
    (writeScalarReg w b sel i x).v = w.v ∧ (writeScalarReg w b sel i x).k = w.k ∧
    (writeScalarReg w b sel i x).stack = w.stack ∧ (writeScalarReg w b sel i x).status = w.status ∧
    (writeScalarReg w b sel i x).place = w.place ∧
    (writeScalarReg w b sel i x).slot (!b) = w.slot (!b) ∧
    (∃ bk mk ex, (writeScalarReg w b sel i x).slot b = { w.slot b with bank := bk, mask := mk, exp := ex } ∧
      ex.isSome = (w.slot b).exp.isSome ∧
      ∀ y, (w.slot b).exp = some y → ∃ z, ex = some { y with x := z }) := by
  unfold writeScalarReg
  by_cases hs : sel < 0x40
  · simp only [hs, if_true, true_and]
    obtain ⟨h1, h2, h3, h4, h5, h6⟩ := writeSReg_frame w b (sel + i) x
    refine ⟨fun n _ => ?_, fun n hn _ => ?_, fun n l => ?_, h1, h2, h3, h4, h5, writeSReg_slot_not .., ?_⟩
    · rw [sreg_writeSReg]
      split
      · next e => subst e; rfl
      · rfl
    · rw [if_neg (by omega)]; simp only [Wave.xreg, readXReg]; rw [h6]
    · simp only [readEReg]; rw [h6]
    · exact ⟨_, _, _, h6, rfl, fun y hy => ⟨y.x, by rw [hy]⟩⟩
  · have h90 : 0x90 ≤ sel := by omega
    simp only [hs, if_false, false_and]
    cases he : (w.slot b).exp with
    | none =>
      refine ⟨fun n _ => rfl, fun n hn hc => by simp at hc, fun n l => rfl, rfl, rfl, rfl, rfl, rfl, rfl, ?_⟩
      have hp : w.slot b = { w.slot b with exp := none } := by conv_rhs => rw [← he]
      exact ⟨(w.slot b).bank, (w.slot b).mask, none, hp, rfl, fun y hy => by simp at hy⟩
    | some y =>
      refine ⟨fun n _ => ?_, fun n hn hc => ?_, fun n l => ?_, by simp, by simp, by simp, by simp, by simp, by simp, ?_⟩
      · simp only [readSReg, Wave.slot_setSlot, Wave.setSlot_s]
      · simp only [readXReg, Wave.slot_setSlot, cellGet_cellSet, he, h90, and_true]
        by_cases hc : n = sel - 0x90 + i
        · rw [if_pos hc, if_pos (by omega)]
        · rw [if_neg hc, if_neg (by omega)]
      · simp only [readEReg, Wave.slot_setSlot, he]
      · refine ⟨(w.slot b).bank, (w.slot b).mask, some { y with x := cellSet y.x (sel - 0x90 + i) x }, ?_, rfl, ?_⟩
        · rw [Wave.slot_setSlot]
        · intro z hz
          cases hz
          exact ⟨_, rfl⟩

/-- What writing a scalar group does: its registers, lowest first, and nothing else. -/
theorem writeScal_spec (w : Wave) (b : Bool) (g : Nat) (sel : BitVec 8) (x : BitVec 128)
    (h : sel.toNat < 0x40 ∨ 0x90 ≤ sel.toNat) :
    (∀ n, n < 64 → (writeScal w b g sel x).sreg b n =
      if sel.toNat < 0x40 ∧ sel.toNat ≤ n ∧ n < sel.toNat + g then
        ownedCut (w.slot b) n (x.extractLsb' (32 * (n - sel.toNat)) 32) else w.sreg b n) ∧
    (∀ n, n < 8 → (w.slot b).exp.isSome = true → (writeScal w b g sel x).xreg b n =
      if 0x90 ≤ sel.toNat ∧ sel.toNat ≤ 0x90 + n ∧ 0x90 + n < sel.toNat + g then
        x.extractLsb' (32 * (0x90 + n - sel.toNat)) 32 else w.xreg b n) ∧
    (∀ n l, readEReg ((writeScal w b g sel x).slot b) n l = readEReg (w.slot b) n l) ∧
    (writeScal w b g sel x).v = w.v ∧ (writeScal w b g sel x).k = w.k ∧
    (writeScal w b g sel x).stack = w.stack ∧ (writeScal w b g sel x).status = w.status ∧
    (writeScal w b g sel x).place = w.place ∧
    (writeScal w b g sel x).slot (!b) = w.slot (!b) ∧
    (∃ bk mk ex, (writeScal w b g sel x).slot b = { w.slot b with bank := bk, mask := mk, exp := ex } ∧
      ex.isSome = (w.slot b).exp.isSome ∧
      ∀ y, (w.slot b).exp = some y → ∃ z, ex = some { y with x := z }) := by
  induction g with
  | zero =>
    have e0 : writeScal w b 0 sel x = w := rfl
    rw [e0]
    refine ⟨fun n _ => by rw [if_neg (by omega)], fun n _ _ => by rw [if_neg (by omega)], fun _ _ => rfl, rfl, rfl, rfl, rfl,
      rfl, rfl, ?_⟩
    exact ⟨(w.slot b).bank, (w.slot b).mask, (w.slot b).exp, rfl, rfl, fun y hy => ⟨y.x, by rw [hy]⟩⟩
  | succ g ih =>
    have e : writeScal w b (g + 1) sel x =
        writeScalarReg (writeScal w b g sel x) b sel.toNat g (x.extractLsb' (32 * g) 32) := by
      simp only [writeScal, List.range_succ, List.foldl_append, List.foldl_cons, List.foldl_nil]
    obtain ⟨i1, i2, i3, i4, i5, i6, i7, i8, i9, bk, mk, ex, i10, i11, i12⟩ := ih
    have hsome : ((writeScal w b g sel x).slot b).exp.isSome = (w.slot b).exp.isSome := by rw [i10]; exact i11
    obtain ⟨j1, j2, j3, j4, j5, j6, j7, j8, j9, bk', mk', ex', j10, j11, j12⟩ :=
      writeScalarReg_spec (writeScal w b g sel x) b sel.toNat g (x.extractLsb' (32 * g) 32) h
    have hown : ∀ n y, ownedCut ((writeScal w b g sel x).slot b) n y = ownedCut (w.slot b) n y := by
      intro n y; rw [i10]; rfl
    rw [e]
    refine ⟨fun n hn => ?_, fun n hn hx => ?_, fun n l => by rw [j3, i3], by rw [j4, i4], by rw [j5, i5], by rw [j6, i6],
      by rw [j7, i7], by rw [j8, i8], by rw [j9, i9], ?_⟩
    · rw [j1 n hn, i1 n hn, hown]
      by_cases hc : sel.toNat < 0x40 ∧ n = sel.toNat + g
      · rw [if_pos hc, if_pos (by omega), hc.2, Nat.add_sub_cancel_left]
      · rw [if_neg hc]
        by_cases hd : sel.toNat < 0x40 ∧ sel.toNat ≤ n ∧ n < sel.toNat + g
        · rw [if_pos hd, if_pos (by omega)]
        · rw [if_neg hd, if_neg (by omega)]
    · rw [j2 n hn (hsome.trans hx), i2 n hn hx]
      by_cases hc : 0x90 + n = sel.toNat + g ∧ 0x90 ≤ sel.toNat
      · rw [if_pos hc, if_pos (by omega)]; congr 2; omega
      · rw [if_neg hc]
        by_cases hd : 0x90 ≤ sel.toNat ∧ sel.toNat ≤ 0x90 + n ∧ 0x90 + n < sel.toNat + g
        · rw [if_pos hd, if_pos (by omega)]
        · rw [if_neg hd, if_neg (by omega)]
    · refine ⟨bk', mk', ex', ?_, j11.trans hsome, ?_⟩
      · rw [j10, i10]
      · intro y hy
        obtain ⟨z, hz⟩ := i12 y hy
        have : ((writeScal w b g sel x).slot b).exp = some { y with x := z } := by rw [i10]; exact hz
        obtain ⟨z', hz'⟩ := j12 _ this
        exact ⟨z', hz'⟩

/-- What writing a vector group does: its registers in the lanes `act`, and nothing else. -/
theorem writeVec_spec (w : Wave) (b : Bool) (g : Nat) (sel : BitVec 8) (act : Lanes) (f : Nat → Dword)
    (h : sel.toNat < 0x40 ∨ 0x90 ≤ sel.toNat) :
    (∀ n l, n < 64 → l < 96 → laneGet (writeVec w b g sel act f).v n l =
      if sel.toNat < 0x40 ∧ act.getLsbD l = true ∧ sel.toNat ≤ n ∧ n < sel.toNat + g then
        (f l).extractLsb' (32 * (n - sel.toNat)) 32 else laneGet w.v n l) ∧
    (∀ n l, n < 8 → l < 96 → (w.slot b).exp.isSome = true → readEReg ((writeVec w b g sel act f).slot b) n l =
      if 0x90 ≤ sel.toNat ∧ act.getLsbD l = true ∧ sel.toNat ≤ 0x90 + n ∧ 0x90 + n < sel.toNat + g then
        (f l).extractLsb' (32 * (0x90 + n - sel.toNat)) 32 else readEReg (w.slot b) n l) ∧
    (∀ n, readXReg ((writeVec w b g sel act f).slot b) n = readXReg (w.slot b) n) ∧
    (writeVec w b g sel act f).s = w.s ∧ (writeVec w b g sel act f).k = w.k ∧
    (writeVec w b g sel act f).stack = w.stack ∧ (writeVec w b g sel act f).status = w.status ∧
    (writeVec w b g sel act f).place = w.place ∧
    (writeVec w b g sel act f).slot (!b) = w.slot (!b) ∧
    (∃ ex, (writeVec w b g sel act f).slot b = { w.slot b with exp := ex } ∧
      ex.isSome = (w.slot b).exp.isSome ∧
      ∀ y, (w.slot b).exp = some y → ∃ z, ex = some { y with e := z }) := by
  induction g with
  | zero =>
    have e0 : writeVec w b 0 sel act f = w := rfl
    rw [e0]
    refine ⟨fun n l _ _ => by rw [if_neg (by omega)], fun n l _ _ _ => by rw [if_neg (by omega)], fun _ => rfl, rfl, rfl,
      rfl, rfl, rfl, rfl, ?_⟩
    exact ⟨(w.slot b).exp, rfl, rfl, fun y hy => ⟨y.e, by rw [hy]⟩⟩
  | succ g ih =>
    obtain ⟨i1, i2, i3, i4, i5, i6, i7, i8, i9, ex, i10, i11, i12⟩ := ih
    have e : writeVec w b (g + 1) sel act f =
        (if sel.toNat < 0x40 then
          { writeVec w b g sel act f with
            v := lanesSet (writeVec w b g sel act f).v (sel.toNat + g) act fun l => (f l).extractLsb' (32 * g) 32 }
        else match ((writeVec w b g sel act f).slot b).exp with
          | none => writeVec w b g sel act f
          | some y => (writeVec w b g sel act f).setSlot b { (writeVec w b g sel act f).slot b with exp := some { y with
              e := lanesSet y.e (sel.toNat - 0x90 + g) act fun l => (f l).extractLsb' (32 * g) 32 } }) := by
      conv_lhs => rw [writeVec, List.range_succ, List.foldl_append]
      simp only [List.foldl_cons, List.foldl_nil]
      rfl
    rw [e]
    by_cases hs : sel.toNat < 0x40
    · simp only [hs, if_true, true_and] at i1 ⊢
      refine ⟨fun n l hn hl => ?_, fun n l hn hl hx => ?_, fun n => ?_, i4, i5, i6, i7, i8, ?_, ?_⟩
      · rw [laneGet_lanesSet _ _ _ _ _ _ hl, i1 n l hn hl]
        by_cases ha : act.getLsbD l = true
        · by_cases hc : n = sel.toNat + g
          · rw [if_pos ⟨hc, ha⟩, if_pos ⟨ha, by omega, by omega⟩, hc, Nat.add_sub_cancel_left]
          · rw [if_neg (by simp [hc])]
            by_cases hd : sel.toNat ≤ n ∧ n < sel.toNat + g
            · rw [if_pos ⟨ha, hd⟩, if_pos ⟨ha, by omega, by omega⟩]
            · rw [if_neg (by simp only [ha, true_and]; exact hd), if_neg (by simp only [ha, true_and]; omega)]
        · simp [ha]
      · rw [if_neg (by omega)]
        have := i2 n l hn hl hx
        rw [if_neg (by omega)] at this
        rw [← this]; cases b <;> rfl
      · rw [← i3 n]; cases b <;> rfl
      · rw [← i9]; cases b <;> rfl
      · refine ⟨ex, ?_, i11, i12⟩
        rw [← i10]; cases b <;> rfl
    · have h90 : 0x90 ≤ sel.toNat := by omega
      simp only [hs, if_false, false_and, h90, true_and] at i1 i2 ⊢
      have hexp : ((writeVec w b g sel act f).slot b).exp = ex := by rw [i10]
      rw [hexp]
      cases ex with
      | none =>
        refine ⟨i1, fun n l hn hl hx => ?_, i3, i4, i5, i6, i7, i8, i9, none, i10, i11, i12⟩
        rw [hx] at i11; simp at i11
      | some y =>
        simp only
        refine ⟨fun n l hn hl => by rw [Wave.setSlot_v]; exact i1 n l hn hl, fun n l hn hl hx => ?_, fun n => ?_, by simp [i4],
          by simp [i5], by simp [i6], by simp [i7], by simp [i8], by simp [i9], ?_⟩
        · have i2 := i2 n l hn hl hx
          simp only [readEReg, Wave.slot_setSlot] at i2 ⊢
          rw [hexp] at i2
          simp only at i2
          rw [laneGet_lanesSet _ _ _ _ _ _ hl, i2]
          by_cases ha : act.getLsbD l = true
          · by_cases hc : n = sel.toNat - 0x90 + g
            · rw [if_pos ⟨hc, ha⟩, if_pos ⟨ha, by omega, by omega⟩]; congr 2; omega
            · rw [if_neg (by simp [hc])]
              by_cases hd : sel.toNat ≤ 0x90 + n ∧ 0x90 + n < sel.toNat + g
              · rw [if_pos ⟨ha, hd⟩, if_pos ⟨ha, by omega, by omega⟩]
              · rw [if_neg (by simp only [ha, true_and]; exact hd), if_neg (by simp only [ha, true_and]; omega)]
          · simp [ha]
        · rw [← i3 n]; simp only [readXReg, Wave.slot_setSlot, hexp]
        · refine ⟨some { y with
              e := lanesSet y.e (sel.toNat - 0x90 + g) act fun l => (f l).extractLsb' (32 * g) 32 }, ?_, i11, fun z hz => ?_⟩
          · rw [Wave.slot_setSlot, i10]
          obtain ⟨q, hq⟩ := i12 z hz
          cases hq
          exact ⟨_, rfl⟩

end Sys2Proof.Machine
end

