-- ==== Sys2Proof/Laws/Alu.lean ====
section
/-!
SUPPORT. What the shared course of the ALU-class operations, of the operations with tracked results, and of every other
operation does.
-/

namespace Sys2Proof.Machine

/-! ### Going on -/

@[simp] theorem Slot.push_exp (p : Slot) (x : Latch) : (p.push x).exp = p.exp := rfl
@[simp] theorem Slot.push_rep (p : Slot) (x : Latch) : (p.push x).rep = p.rep := rfl
@[simp] theorem Slot.push_pc (p : Slot) (x : Latch) : (p.push x).pc = p.pc := rfl

theorem Slot.chainStep_exp (p : Slot) (ch : Bool) : (p.chainStep ch).exp = p.exp := by cases ch <;> rfl
theorem Slot.chainStep_rep (p : Slot) (ch : Bool) : (p.chainStep ch).rep = p.rep := by cases ch <;> rfl
theorem Slot.chainStep_pc (p : Slot) (ch : Bool) : (p.chainStep ch).pc = p.pc := by cases ch <;> rfl

/-- Retiring outside a REP and an expansion: the next word (R26). -/
theorem Slot.retire_word {p : Slot} (hr : p.rep = none) (he : p.exp = none) : p.retire = { p with pc := p.pc + 8 } := by
  simp [Slot.retire, hr, Slot.pastWords, he]

/-- Retiring an instance of a REP that is not the last: the next instance (R45). -/
theorem Slot.retire_instance {p : Slot} {r : RepRun} (hr : p.rep = some r) (hj : r.j + 1 < r.n) :
    p.retire = { p with rep := some { r with j := r.j + 1 } } := by
  simp [Slot.retire, hr, hj]

/-- Retiring the last instance of a REP outside an expansion: past the REP and its word (R45). -/
theorem Slot.retire_last {p : Slot} {r : RepRun} (hr : p.rep = some r) (hj : ¬r.j + 1 < r.n) (he : p.exp = none) :
    p.retire = { p with rep := none, pc := p.pc + 16 } := by
  simp [Slot.retire, hr, hj, Slot.pastWords, he]

/-- Retiring a word of an expansion that goes on (R369). -/
theorem Slot.retire_inside {p : Slot} {x : Expansion} (hr : p.rep = none) (he : p.exp = some x)
    (hl : ¬x.words.length ≤ x.idx + 1) : p.retire = { p with exp := some { x with idx := x.idx + 1 } } := by
  simp [Slot.retire, hr, Slot.pastWords, he, hl]

/-- Retiring the last word of an expansion: past the guest instruction (R369). -/
theorem Slot.retire_leave {p : Slot} {x : Expansion} (hr : p.rep = none) (he : p.exp = some x)
    (hl : x.words.length ≤ x.idx + 1) : p.retire = { p.leaveExp with pc := p.pc + BitVec.ofNat 64 x.len } := by
  simp [Slot.retire, hr, Slot.pastWords, he, hl]

/-- Retiring the last instance of a REP inside an expansion that goes on. -/
theorem Slot.retire_last_inside {p : Slot} {r : RepRun} {x : Expansion} (hr : p.rep = some r) (hj : ¬r.j + 1 < r.n)
    (he : p.exp = some x) (hl : ¬x.words.length ≤ x.idx + 2) :
    p.retire = { p with rep := none, exp := some { x with idx := x.idx + 2 } } := by
  simp [Slot.retire, hr, hj, Slot.pastWords, he, hl]

/-- Retiring the last instance of a REP at the end of an expansion. -/
theorem Slot.retire_last_leave {p : Slot} {r : RepRun} {x : Expansion} (hr : p.rep = some r) (hj : ¬r.j + 1 < r.n)
    (he : p.exp = some x) (hl : x.words.length ≤ x.idx + 2) :
    p.retire = { p.leaveExp with pc := p.pc + BitVec.ofNat 64 x.len } := by
  simp [Slot.retire, hr, hj, Slot.pastWords, he, hl, Slot.leaveExp]

/-- The ways to retire: without leaving an expansion, or leaving one. -/
theorem Slot.retire_cases (p : Slot) :
    (∃ pc r e, p.retire = { p with pc := pc, rep := r, exp := e } ∧ (e = p.exp ∨ ∃ x i, p.exp = some x ∧ e = some { x with idx := i })) ∨
    (∃ x, p.exp = some x ∧ p.retire = { p.leaveExp with pc := p.pc + BitVec.ofNat 64 x.len }) := by
  rcases hr : p.rep with _ | r <;> rcases he : p.exp with _ | x
  · exact .inl ⟨p.pc + 8, p.rep, p.exp, by rw [Slot.retire_word hr he], .inl he⟩
  · by_cases hl : x.words.length ≤ x.idx + 1
    · exact .inr ⟨x, rfl, Slot.retire_leave hr he hl⟩
    · exact .inl ⟨p.pc, p.rep, _, Slot.retire_inside hr he hl, .inr ⟨x, _, rfl, rfl⟩⟩
  · by_cases hj : r.j + 1 < r.n
    · exact .inl ⟨p.pc, _, p.exp, Slot.retire_instance hr hj, .inl he⟩
    · exact .inl ⟨p.pc + 16, none, p.exp, Slot.retire_last hr hj he, .inl he⟩
  · by_cases hj : r.j + 1 < r.n
    · exact .inl ⟨p.pc, _, p.exp, Slot.retire_instance hr hj, .inl he⟩
    · by_cases hl : x.words.length ≤ x.idx + 2
      · exact .inr ⟨x, rfl, Slot.retire_last_leave hr hj he hl⟩
      · exact .inl ⟨p.pc, none, _, Slot.retire_last_inside hr hj he hl, .inr ⟨x, _, rfl, rfl⟩⟩

/-- Outside an expansion, retiring moves only the PC and the REP. -/
theorem Slot.retire_plain {p : Slot} (h : p.exp = none) :
    p.retire = { p with pc := p.retire.pc, rep := p.retire.rep } := by
  rcases Slot.retire_cases p with ⟨pc, r, e, h', he⟩ | ⟨x, he, -⟩
  · rcases he with rfl | ⟨x, i, hx, -⟩
    · rw [h']
    · rw [h] at hx; cases hx
  · rw [h] at he; cases he

/-- Where a slot goes on depends on its PC, its REP and its expansion's words, place and length only. -/
theorem Slot.retire_pc_congr {p q : Slot} (hp : q.pc = p.pc) (hr : q.rep = p.rep)
    (he : q.exp.map (fun x => (x.words, x.idx, x.len)) = p.exp.map fun x => (x.words, x.idx, x.len)) :
    q.retire.pc = p.retire.pc := by
  have key : ∀ k : Nat, ∀ p q : Slot, q.pc = p.pc →
      q.exp.map (fun x => (x.words, x.idx, x.len)) = p.exp.map (fun x => (x.words, x.idx, x.len)) →
      (q.pastWords k).pc = (p.pastWords k).pc := by
    intro k p q hp he
    unfold Slot.pastWords
    rcases h1 : q.exp with _ | x <;> rcases h2 : p.exp with _ | y <;> simp [h1, h2] at he
    · simp [hp]
    · obtain ⟨e1, e2, e3⟩ := he
      simp only [e1, e2, e3]
      split <;> simp [hp]
  unfold Slot.retire
  rw [hr]
  split
  · split
    · exact hp
    · exact key 2 _ _ hp he
  · exact key 1 _ _ hp he

/-! ### Everything else stays -/

/-- Putting back a wave changes nothing but that wave. -/
theorem onlyWave_putWave {s : State} {v : View} (hv : s.view = some v) (w : Wave) : OnlyWave v.sl s (s.putWave v w) := by
  obtain ⟨h1, h2, h3, -⟩ := State.view_spec hv
  rw [← h1] at h2
  refine ⟨rfl, fun a => rfl, fun id h => State.team?_putWave_ne s v w h, fun x hx => ?_⟩
  rw [h2] at hx
  cases hx
  refine ⟨_, State.team?_putWave_self h2 w, fun i hi => ?_⟩
  simp [Ne.symm hi]

/-! ### ALU-class operations -/

/-- The result is of the kind of the destination. -/
def KindOk (d : Dst) (r : AluResult) : Prop :=
  match d, r with
  | .scal g, .scal h _ => g = h
  | .vec g, .vec h _ => g = h
  | .pred, .pred _ => True
  | _, _ => False

theorem aluActive_eq {m : AluForm} {f : FmtA} {v : View} {r : AluResult} (hk : KindOk m.d r) :
    aluActive m f v = effLanes f r v := by
  unfold aluActive effLanes
  cases hd : m.d <;> cases r <;> simp only [hd, KindOk] at hk
  · simp only [View.activeTo]
    by_cases hn : f.c.nw = true
    · simp [hn]
    · simp only [hn, Bool.false_eq_true, if_false, Bool.not_false, Bool.true_and, decide_eq_true_eq]
  · rfl
  · rfl

/-- A legal destination selector is a register or a temporary. -/
theorem dst_range {v : View} {d : Dst} {sel : BitVec 8} (h : dstCauses v none d sel = []) (hd : d ≠ .none) (ha : d ≠ .acc) :
    sel.toNat < 0x40 ∨ 0x90 ≤ sel.toNat := by
  unfold dstCauses at h
  have h1 := (List.append_eq_nil_iff.1 h).1
  cases d with
  | none => exact absurd rfl hd
  | acc => exact absurd rfl ha
  | scal g => 
    simp only [dstForm] at h1
    by_cases hs : sel.toNat < 0x40
    · exact .inl hs
    · rw [if_neg hs] at h1
      split at h1
      · next hc => exact .inr hc.1
      · cases h1
  | vec g =>
    simp only [dstForm] at h1
    by_cases hs : sel.toNat < 0x40
    · exact .inl hs
    · rw [if_neg hs] at h1
      split at h1
      · next hc => exact .inr hc.1
      · cases h1
  | pred =>
    simp only [dstForm] at h1
    split at h1
    · exact .inl (by omega)
    · cases h1

/-- A slot that was pushed a latch, counted into the chain and retired goes on, whatever its registers are. -/
theorem slotGoesOn_retire {p q : Slot} {bk : Cells 32} {mk : Lanes} {ex : Option Expansion} (L : Latch) (ch : Bool)
    (hq : q = { p with bank := bk, mask := mk, exp := ex })
    (he : ex.map (fun x => (x.words, x.idx, x.len)) = p.exp.map fun x => (x.words, x.idx, x.len)) :
    SlotGoesOn p (((q.push L).chainStep ch).retire) := by
  have hr : ((q.push L).chainStep ch).rep = p.rep := by rw [Slot.chainStep_rep, Slot.push_rep, hq]
  have hp : ((q.push L).chainStep ch).pc = p.pc := by rw [Slot.chainStep_pc, Slot.push_pc, hq]
  have hx : ((q.push L).chainStep ch).exp = ex := by rw [Slot.chainStep_exp, Slot.push_exp, hq]
  have hpc := Slot.retire_pc_congr hp hr (by rw [hx, he])
  refine ⟨?_, hpc, fun hn => ?_⟩
  · rcases Slot.retire_cases ((q.push L).chainStep ch) with ⟨pc, r, e, h, -⟩ | ⟨x, -, h⟩
    · rw [h, hq]; cases ch <;> rfl
    · rw [h, hq]; cases ch <;> rfl
  · have hn' : ex = none := by rw [hn] at he; simpa using he
    rw [Slot.retire_plain (hx.trans hn'), hq]
    refine ⟨?_, ?_, ?_, ?_⟩
    · cases ch <;> exact hn'
    all_goals cases ch <;> rfl

/-- The chain and the latches after an ALU-class operation. -/
theorem latches_retire {p q : Slot} {bk : Cells 32} {mk : Lanes} {ex : Option Expansion} (L : Latch) (ch : Bool)
    (hq : q = { p with bank := bk, mask := mk, exp := ex }) (hn : ex.isSome = p.exp.isSome) :
    (((q.push L).chainStep ch).retire.inChain = true →
      ((q.push L).chainStep ch).retire.l0 = some L ∧ ((q.push L).chainStep ch).retire.l1 = p.latch 0 ∧
      ((q.push L).chainStep ch).retire.l2 = p.latch 1 ∧ ((q.push L).chainStep ch).retire.l3 = p.latch 2) ∧
    (ch = false → ((q.push L).chainStep ch).retire.chainOpen = false) ∧
    (ch = true → p.exp = none → ((q.push L).chainStep ch).retire.chainOpen = true) := by
  have hl : ∀ n, q.latch n = p.latch n := by intro n; rw [hq]; rfl
  have hx : ((q.push L).chainStep ch).exp = ex := by rw [Slot.chainStep_exp, Slot.push_exp, hq]
  rcases Slot.retire_cases ((q.push L).chainStep ch) with ⟨pc, r, e, h, -⟩ | ⟨x, hex, h⟩
  · rw [h]
    cases ch
    · exact ⟨fun hc => by simp [Slot.chainStep, Slot.endChain, Slot.inChain] at hc, fun _ => rfl, fun h => by cases h⟩
    · refine ⟨fun _ => ⟨rfl, ?_, ?_, ?_⟩, fun h => by (cases h), fun _ _ => rfl⟩
      · exact hl 0
      · exact hl 1
      · exact hl 2
  · rw [h]
    refine ⟨fun hc => by simp [Slot.leaveExp, Slot.inChain] at hc, fun _ => rfl, fun _ hp => ?_⟩
    rw [hx] at hex
    rw [hex, hp] at hn
    simp at hn

theorem temps_retire {q : Slot} (L : Latch) (ch : Bool) (h : (((q.push L).chainStep ch).retire).exp.isSome = true) :
    (∀ n, readXReg (((q.push L).chainStep ch).retire) n = readXReg q n) ∧
    (∀ n l, readEReg (((q.push L).chainStep ch).retire) n l = readEReg q n l) ∧ q.exp.isSome = true := by
  have hx : ((q.push L).chainStep ch).exp = q.exp := by rw [Slot.chainStep_exp, Slot.push_exp]
  rcases Slot.retire_cases ((q.push L).chainStep ch) with ⟨pc, r, e, h', he⟩ | ⟨x, -, h'⟩
  · have hee : (((q.push L).chainStep ch).retire).exp = e := by rw [h']
    rcases he with rfl | ⟨x, i, hx', rfl⟩
    · rw [hx] at hee
      refine ⟨fun n => ?_, fun n l => ?_, by rw [hee] at h; exact h⟩
      · unfold readXReg; rw [hee]
      · unfold readEReg; rw [hee]
    · rw [hx] at hx'
      refine ⟨fun n => ?_, fun n l => ?_, by rw [hx']; rfl⟩
      · unfold readXReg; rw [hee, hx']
      · unfold readEReg; rw [hee, hx']
  · rw [h'] at h; simp [Slot.leaveExp] at h

/-- The scalar registers a slot reads do not depend on its place in the program. -/
theorem readSReg_retire {w : Wave} {b : Bool} {p : Slot} (L : Latch) (ch : Bool) (n : Nat) :
    readSReg (w.setSlot b (((p.push L).chainStep ch).retire)) (((p.push L).chainStep ch).retire) n = readSReg w p n := by
  have h : (((p.push L).chainStep ch).retire).mask = p.mask ∧ (((p.push L).chainStep ch).retire).bank = p.bank := by
    rcases Slot.retire_cases ((p.push L).chainStep ch) with ⟨pc, r, e, h', -⟩ | ⟨x, -, h'⟩ <;> rw [h'] <;> cases ch <;>
      exact ⟨rfl, rfl⟩
  unfold readSReg
  rw [h.1, h.2, Wave.setSlot_s]

/-- Everything an ALU-class operation does. -/
theorem alu_effect {m : AluForm} {f : FmtA} {r : View → AluResult} {v : View} {s : State} (hv : s.view = some v)
    (hc : m.aluCauses f v = []) (hk : KindOk m.d (r v)) : AluEffect f (r v) v s (aluRun m f r v s) := by
  obtain ⟨-, -, -, hvp, -⟩ := State.view_spec hv
  have hw : ∃ w', (if f.c.nw then v.w else (r v).write v.w v.sl.b f.d (effLanes f (r v) v)) = w' ∧
      w'.slot (!v.sl.b) = v.w.slot (!v.sl.b) ∧ w'.stack = v.w.stack ∧ w'.status = v.w.status ∧
      (∀ n, n < 64 → w'.sreg v.sl.b n = (r v).sregAfter f (effLanes f (r v) v) v n) ∧
      (∀ n l, n < 64 → l < 96 → laneGet w'.v n l = (r v).vregAfter f (effLanes f (r v) v) v n l) ∧
      (∀ n, n < 8 → readKReg w' n = (r v).kregAfter f (effLanes f (r v) v) v n) ∧
      (v.p.exp.isSome = true → (∀ n, n < 8 → w'.xreg v.sl.b n = (r v).xregAfter f (effLanes f (r v) v) v n) ∧
        ∀ n l, n < 8 → l < 96 → readEReg (w'.slot v.sl.b) n l = (r v).eregAfter f (effLanes f (r v) v) v n l) ∧
      ∃ bk mk ex, w'.slot v.sl.b = { v.p with bank := bk, mask := mk, exp := ex } ∧ ex.isSome = v.p.exp.isSome ∧
        ex.map (fun x => (x.words, x.idx, x.len)) = v.p.exp.map fun x => (x.words, x.idx, x.len) := by
    have same : (∀ n, n < 64 → v.w.sreg v.sl.b n = readSReg v.w v.p n) := fun n _ => by rw [hvp]
    by_cases hn : f.c.nw = true
    · refine ⟨v.w, by rw [if_pos hn], rfl, rfl, rfl, fun n h => ?_, fun n l _ _ => ?_, fun n _ => ?_, fun _ => ⟨fun n _ => ?_,
        fun n l _ _ => ?_⟩, v.p.bank, v.p.mask, v.p.exp, by rw [← hvp], rfl, rfl⟩
      all_goals cases r v <;>
        simp only [AluResult.sregAfter, AluResult.vregAfter, AluResult.kregAfter, AluResult.xregAfter, AluResult.eregAfter, hn,
          Bool.true_eq_false, false_and, if_false, Wave.sreg, Wave.xreg, hvp]
    · have hn' : f.c.nw = false := by simpa using hn
      have hd : dstCauses (v.within (v.active f.c)) none m.d f.d = [] := by
        have := (List.append_eq_nil_iff.1 hc).2
        rwa [if_neg hn] at this
      have hr : f.d.toNat < 0x40 ∨ 0x90 ≤ f.d.toNat := by
        refine dst_range hd ?_ ?_ <;> intro e <;> rw [e] at hk <;> cases r v <;> exact hk
      rw [if_neg hn]
      refine ⟨_, rfl, ?_⟩
      cases hrv : r v with
      | pred x =>
        obtain ⟨k1, k2, k3, k4, k5, k6, k7⟩ := writeKReg_frame v.w f.d.toNat (effLanes f (.pred x) v) x
        have ks : ∀ b, (writeKReg v.w f.d.toNat (effLanes f (.pred x) v) x).slot b = v.w.slot b := by
          intro b; cases b
          · exact k3
          · exact k4
        simp only [AluResult.write, AluResult.sregAfter, AluResult.vregAfter, AluResult.kregAfter, AluResult.xregAfter,
          AluResult.eregAfter, hn', true_and]
        refine ⟨ks _, k5, k6, fun n h => ?_, fun n l _ _ => by rw [k1], fun n _ => ?_, fun _ => ⟨fun n _ => ?_, fun n l _ _ => ?_⟩,
          v.p.bank, v.p.mask, v.p.exp, by rw [ks, ← hvp], rfl, rfl⟩
        · simp only [Wave.sreg, readSReg, ks, k2, hvp]
        · rw [readKReg_writeKReg]
          by_cases h1 : n = f.d.toNat
          · subst h1
            by_cases h2 : f.d.toNat = 0 <;> simp [h2]
          · simp [h1]
        · simp only [Wave.xreg, ks, hvp]
        · rw [ks, hvp]
      | scal g x =>
        simp only [AluResult.write, AluResult.sregAfter, AluResult.vregAfter, AluResult.kregAfter, AluResult.xregAfter,
          AluResult.eregAfter, hn', true_and]
        have hz : ∀ k : Nat, (x.zeroExtend 128).extractLsb' (32 * k) 32 = x.extractLsb' (32 * k) 32 := by
          intro k
          apply BitVec.eq_of_getLsbD_eq
          intro j hj
          simp only [BitVec.getLsbD_extractLsb', BitVec.truncate_eq_setWidth, BitVec.getLsbD_setWidth]
          by_cases h2 : 32 * k + j < 128
          · simp [h2]
          · simp [h2, BitVec.getLsbD_of_ge x (32 * k + j) (by omega)]
        by_cases ha : effLanes f (.scal g x) v = 0
        · simp only [ha, if_true, ne_eq, not_true, false_and, if_false]
          exact ⟨trivial, trivial, trivial, same, fun _ _ _ _ => trivial, fun _ _ => trivial,
            fun _ => ⟨fun n _ => by rw [hvp], fun n l _ _ => by rw [hvp]⟩,
            v.p.bank, v.p.mask, v.p.exp, by rw [← hvp], rfl, rfl⟩
        · simp only [ha, if_false, ne_eq, not_false_eq_true, true_and]
          obtain ⟨j1, j2, j3, j4, j5, j6, j7, j8, j9, bk, mk, ex, j10, j11, j12⟩ :=
            writeScal_spec v.w v.sl.b g f.d (x.zeroExtend 128) hr
          refine ⟨j9, j6, j7, fun n h => ?_, fun n l _ _ => by rw [j4], fun n _ => by unfold readKReg; rw [j5],
            fun hx => ⟨fun n h => ?_, fun n l _ _ => by rw [j3, hvp]⟩, bk, mk, ex, by rw [j10, ← hvp], by rw [j11, ← hvp], ?_⟩
          · rw [j1 n h, hz, ← hvp]
            by_cases hc : f.d.toNat ≤ n ∧ n < f.d.toNat + g
            · rw [if_pos ⟨by omega, hc⟩, if_pos hc]
            · rw [if_neg (by tauto), if_neg hc]; exact same n h
          · rw [j2 n h (hvp ▸ hx), hz]
            simp only [Wave.xreg, hvp]
          · rw [← hvp] at j11 j12
            cases he : v.p.exp with
            | none => rw [he] at j11; simp at j11; rw [j11]
            | some y => obtain ⟨z, rfl⟩ := j12 y he; rfl
      | vec g h =>
        simp only [AluResult.write, AluResult.sregAfter, AluResult.vregAfter, AluResult.kregAfter, AluResult.xregAfter,
          AluResult.eregAfter, hn', true_and]
        obtain ⟨j1, j2, j3, j4, j5, j6, j7, j8, j9, ex, j10, j11, j12⟩ :=
          writeVec_spec v.w v.sl.b g f.d (effLanes f (.vec g h) v) h hr
        refine ⟨j9, j6, j7, fun n hh => ?_, fun n l hn hl => ?_, fun n _ => by unfold readKReg; rw [j5],
          fun hx => ⟨fun n _ => ?_, fun n l hn hl => ?_⟩, v.p.bank, v.p.mask, ex, by rw [j10, ← hvp], by rw [j11, ← hvp], ?_⟩
        · simp only [Wave.sreg, readSReg, j4, j10, ← hvp]
        · rw [j1 n l hn hl]
          by_cases hc : (effLanes f (.vec g h) v).getLsbD l = true ∧ f.d.toNat ≤ n ∧ n < f.d.toNat + g
          · rw [if_pos ⟨by omega, hc⟩, if_pos hc]
          · rw [if_neg (by tauto), if_neg hc]
        · rw [Wave.xreg, j3, hvp]
        · rw [j2 n l hn hl (hvp ▸ hx)]
          by_cases ha : (effLanes f (.vec g h) v).getLsbD l = true <;> simp [ha, hvp]
        · rw [← hvp] at j11 j12
          cases he : v.p.exp with
          | none => rw [he] at j11; simp at j11; rw [j11]
          | some y => obtain ⟨z, rfl⟩ := j12 y he; rfl
  obtain ⟨w', hw', h1, h2, h3, h4, h5, h6, h7, bk, mk, ex, h8, h9, h10⟩ := hw
  unfold AluEffect aluRun
  simp only [aluActive_eq hk, hw']
  refine ⟨onlyWave_putWave hv _, _, State.find_putWave_view hv _, ?_⟩
  simp only [Wave.slot_setSlot, Wave.slot_setSlot_not, Wave.setSlot_stack, Wave.setSlot_status, Wave.setSlot_v]
  refine ⟨h1, h2, h3, fun n hn => ?_, h5, fun n hn => ?_, fun hx => ?_, ?_, ?_⟩
  · rw [readSReg_retire]; exact h4 n hn
  · simp only [readKReg, Wave.setSlot_k] at h6 ⊢; exact h6 n hn
  · obtain ⟨t1, t2, t3⟩ := temps_retire _ _ hx
    have hx' : v.p.exp.isSome = true := by rw [h8] at t3; rw [← h9]; exact t3
    obtain ⟨e1, e2⟩ := h7 hx'
    exact ⟨fun n hn => by rw [t1]; exact e1 n hn, fun n l hn hl => by rw [t2]; exact e2 n l hn hl⟩
  · exact slotGoesOn_retire _ _ h8 h10
  · exact latches_retire _ _ h8 h9

/-! ### Other operations -/

/-- A slot after an operation that is not ALU-class: only its place, its chain and what an expansion's end drops. -/
theorem Slot.afterOther_frame (p : Slot) (ch : Bool) :
    (p.afterOther ch).pc = p.retire.pc ∧ (p.afterOther ch).bank = p.bank ∧ (p.afterOther ch).mask = p.mask ∧
      (p.afterOther ch).owned = p.owned ∧ (p.afterOther ch).mxst = p.mxst ∧ (p.afterOther ch).fmask = p.fmask ∧
      (p.afterOther ch).live = p.live ∧ (p.afterOther ch).pers = p.pers ∧ (p.afterOther ch).epib = p.epib ∧
      (p.afterOther ch).epi = p.epi ∧ (p.exp = none → (p.afterOther ch).pend = p.pend ∧ (p.afterOther ch).exp = none ∧
        (p.afterOther ch).status = p.status) ∧
      ((p.afterOther ch).inChain = true → (p.afterOther ch).l0 = none ∧ (p.afterOther ch).l1 = none ∧
        (p.afterOther ch).l2 = none ∧ (p.afterOther ch).l3 = none) := by
  have hp : (p.dropLatches.chainStep ch).pc = p.pc := Slot.chainStep_pc _ _
  have hr : (p.dropLatches.chainStep ch).rep = p.rep := Slot.chainStep_rep _ _
  have hx : (p.dropLatches.chainStep ch).exp = p.exp := Slot.chainStep_exp _ _
  have hpc : (p.afterOther ch).pc = p.retire.pc := Slot.retire_pc_congr hp hr (by rw [hx])
  refine ⟨hpc, ?_⟩
  rcases Slot.retire_cases (p.dropLatches.chainStep ch) with ⟨pc, r, e, h, he⟩ | ⟨x, hex, h⟩
  · have hn : p.exp = none → e = none := by
      intro hn
      rcases he with rfl | ⟨x, i, hx', -⟩
      · rw [hx, hn]
      · rw [hx, hn] at hx'; cases hx'
    unfold Slot.afterOther
    rw [h]
    cases ch
    · exact ⟨rfl, rfl, rfl, rfl, rfl, rfl, rfl, rfl, rfl, fun h => ⟨rfl, hn h, rfl⟩, fun _ => ⟨rfl, rfl, rfl, rfl⟩⟩
    · exact ⟨rfl, rfl, rfl, rfl, rfl, rfl, rfl, rfl, rfl, fun h => ⟨rfl, hn h, rfl⟩, fun _ => ⟨rfl, rfl, rfl, rfl⟩⟩
  · unfold Slot.afterOther
    rw [hx] at hex
    rw [h]
    cases ch
    · exact ⟨rfl, rfl, rfl, rfl, rfl, rfl, rfl, rfl, rfl, fun h => by (rw [hex] at h; cases h), fun _ => ⟨rfl, rfl, rfl, rfl⟩⟩
    · exact ⟨rfl, rfl, rfl, rfl, rfl, rfl, rfl, rfl, rfl, fun h => by (rw [hex] at h; cases h), fun _ => ⟨rfl, rfl, rfl, rfl⟩⟩

/-- Everything issuing an operation with a tracked result does. -/
theorem late_effect {s : State} {v : View} (hv : s.view = some v) (q : Pend) (ch : Bool) :
    LeavesPending q v s (s.putSlot v ((v.p.addPend q).afterOther ch)) := by
  obtain ⟨h1, h2, h3, h4, h5, h6, -, -, -, -, h7, h8⟩ := Slot.afterOther_frame (v.p.addPend q) ch
  refine ⟨onlyWave_putWave hv _, _, State.find_putWave_view hv _, ?_⟩
  simp only [OnlySlot, Wave.slot_setSlot]
  refine ⟨⟨trivial, trivial⟩, h1.trans (Slot.retire_pc_congr rfl rfl rfl), fun h => (h7 h).1, h2, h3, h4, h5, h6, h8⟩


end Sys2Proof.Machine
end

