-- ==== Sys2Proof/Laws/Crypto.lean ====
section
/-!
SUPPORT. The laws of the published algorithms: the lengths of what they answer (R382).
-/

namespace Sys2Proof.Machine

theorem bytesOf_length (v n : Nat) : (bytesOf v n).length = n := by
  induction n generalizing v with
  | zero => rfl
  | succ n ih => simp [bytesOf, ih]

theorem xorBytes_length (a b : List Byte) : (xorBytes a b).length = min a.length b.length := by simp [xorBytes]

theorem shiftRows_length (inv : Bool) (l : List Byte) : (shiftRows inv l).length = 16 := by simp [shiftRows]

theorem mixColumn_length (m c : List Byte) : (mixColumn m c).length = 4 := by simp [mixColumn]

theorem chunks_full {n k : Nat} {l : List Byte} (pos : 0 < n) (h : n * k ≤ l.length) :
    (chunks n k l).length = k ∧ ∀ x ∈ chunks n k l, x.length = n := by
  induction k generalizing l with
  | zero => simp [chunks]
  | succ k ih =>
    rw [Nat.mul_succ] at h
    have ne : l.isEmpty = false := by cases l with
      | nil => simp at h; omega
      | cons _ _ => rfl
    obtain ⟨h1, h2⟩ := ih (l := l.drop n) (by simp; omega)
    simp only [chunks, ne, Bool.false_eq_true, if_false, List.length_cons, h1, List.mem_cons, true_and]
    rintro x (rfl | hx)
    · simp only [List.length_take]; omega
    · exact h2 x hx

theorem chunks_short {n k : Nat} {l : List Byte} : ∀ x ∈ chunks n k l, x.length ≤ n := by
  induction k generalizing l with
  | zero => simp [chunks]
  | succ k ih =>
    simp only [chunks]
    split
    · simp
    · rintro x (_ | ⟨_, hx⟩)
      · simp only [List.length_take]; omega
      · exact ih x hx

theorem chunks_take {n k : Nat} {l : List Byte} (j : Nat) (h : j ≤ k) : (chunks n k l).take j = chunks n j l := by
  induction k generalizing l j with
  | zero => obtain rfl : j = 0 := by omega
            simp [chunks]
  | succ k ih =>
    cases j with
    | zero => simp [chunks]
    | succ j =>
      simp only [chunks]
      split
      · rfl
      · rw [List.take_succ_cons, ih j (by omega)]

theorem flatten_length_of {n : Nat} {l : List (List Byte)} (h : ∀ x ∈ l, x.length = n) : l.flatten.length = n * l.length := by
  induction l with
  | nil => rfl
  | cons a r ih =>
    simp only [List.mem_cons, forall_eq_or_imp] at h
    rw [List.flatten_cons, List.length_append, ih h.2, h.1, List.length_cons, Nat.mul_succ, Nat.add_comm]

theorem mixColumns_length (m l : List Byte) (h : l.length = 16) : (mixColumns m l).length = 16 := by
  rw [mixColumns, flatten_length_of (n := 4) (by
    intro x hx
    obtain ⟨y, -, rfl⟩ := List.mem_map.1 hx
    exact mixColumn_length m y)]
  simp [(chunks_full (n := 4) (k := 4) (l := l) (by omega) (by omega)).1]

theorem keyWord_length {ws : List (List Byte)} (i : Nat) (rcon : Byte) (h8 : 8 ≤ ws.length) (h4 : ∀ x ∈ ws, x.length = 4) :
    (keyWord ws i rcon).length = 4 := by
  have ht : (ws.headD []).length = 4 := by
    cases ws with
    | nil => simp at h8
    | cons a r => exact h4 a (by simp)
  have h7 : ((ws[7]?).getD []).length = 4 := by
    rw [List.getElem?_eq_getElem (by omega)]
    exact h4 _ (by simp)
  simp only [keyWord, xorBytes_length, h7]
  split
  · simp [xorBytes_length]
  · split
    · rw [List.length_map, ht, Nat.min_self]
    · rw [ht, Nat.min_self]

theorem keyExtend_length {n i : Nat} {rcon : Byte} {ws : List (List Byte)} (h8 : 8 ≤ ws.length)
    (h4 : ∀ x ∈ ws, x.length = 4) :
    (keyExtend n i rcon ws).length = n + ws.length ∧ ∀ x ∈ keyExtend n i rcon ws, x.length = 4 := by
  induction n generalizing i rcon ws with
  | zero => simpa [keyExtend] using h4
  | succ n ih =>
    simp only [keyExtend]
    obtain ⟨a, b⟩ := ih (i := i + 1) (rcon := if i % 8 = 0 then xtime rcon else rcon) (ws := keyWord ws i rcon :: ws)
      (by simp; omega) (by
        intro x hx
        rcases List.mem_cons.1 hx with rfl | hx
        · exact keyWord_length i rcon h8 h4
        · exact h4 x hx)
    exact ⟨by rw [a, List.length_cons]; omega, b⟩

/-- A 32-byte key has fifteen round keys of sixteen bytes. -/
theorem roundKeys_length {key : List Byte} (h : key.length = 32) :
    (roundKeys key).length = 15 ∧ ∀ x ∈ roundKeys key, x.length = 16 := by
  obtain ⟨a, b⟩ := chunks_full (n := 4) (k := 8) (l := key) (by omega) (by omega)
  obtain ⟨c, d⟩ := keyExtend_length (n := 52) (i := 8) (rcon := 1) (ws := (chunks 4 8 key).reverse) (by simp [a])
    (by simpa using b)
  refine chunks_full (by omega) ?_
  rw [flatten_length_of (n := 4) (by simpa using d), List.length_reverse, c, List.length_reverse, a]

theorem aesRounds_length {ks : List (List Byte)} {x : List Byte} (hk : ∀ k ∈ ks, k.length = 16) (hx : x.length = 16) :
    (aesRounds ks x).length = 16 := by
  induction ks generalizing x with
  | nil => exact hx
  | cons k r ih =>
    cases r with
    | nil => simp [aesRounds, xorBytes_length, shiftRows_length, hk k (by simp)]
    | cons k2 r =>
      refine ih (fun q hq => hk q (List.mem_cons_of_mem _ hq)) ?_
      rw [xorBytes_length, mixColumns_length _ _ (shiftRows_length _ _), hk k (by simp), Nat.min_self]

/-- AES-256 answers a block. -/
theorem aesEncrypt_length {key block : List Byte} (hk : key.length = 32) (hb : block.length = 16) :
    (aesEncrypt key block).length = 16 := by
  obtain ⟨-, h⟩ := roundKeys_length hk
  unfold aesEncrypt
  split
  · exact hb
  next k ks e =>
    rw [e] at h
    exact aesRounds_length (fun q hq => h q (List.mem_cons_of_mem _ hq))
      (by rw [xorBytes_length, hb, h k (by simp), Nat.min_self])

theorem cbcMac_length {key acc : List Byte} {bs : List (List Byte)} (hk : key.length = 32) (hb : ∀ b ∈ bs, b.length = 16)
    (ha : acc.length = 16) : (cbcMac key bs acc).length = 16 := by
  induction bs generalizing acc with
  | nil => exact ha
  | cons b r ih =>
    refine ih (fun q hq => hb q (List.mem_cons_of_mem _ hq)) (aesEncrypt_length hk ?_)
    rw [xorBytes_length, ha, hb b (by simp), Nat.min_self]

theorem cmacDouble_length (l : List Byte) : (cmacDouble l).length = 16 := by simp [cmacDouble, bytesOf_length]

/-- AES-CMAC of a nonempty message answers sixteen bytes. -/
theorem aesCmac_length {key msg : List Byte} (hk : key.length = 32) : (aesCmac key msg).length = 16 := by
  refine cbcMac_length hk ?_ (by simp)
  intro b hb
  rcases List.mem_append.1 hb with hb | hb
  · rw [chunks_take _ (by omega)] at hb
    exact (chunks_full (by omega) (by omega)).2 b hb
  · have short : ∀ l : Option (List Byte), (∀ x ∈ l, x.length ≤ 16) → (l.getD []).length ≤ 16 := by
      rintro (_ | x) h
      · simp
      · exact h x rfl
    have le := short ((chunks 16 ((msg.length + 15) / 16) msg)[(msg.length + 15) / 16 - 1]?) fun x hx =>
      chunks_short x (List.mem_of_getElem? (Option.mem_def.1 hx))
    rw [List.mem_singleton.1 hb]
    split
    next e => rw [xorBytes_length, e, cmacDouble_length, Nat.min_self]
    next ne =>
      simp only [xorBytes_length, cmacDouble_length, List.length_append, List.length_cons, List.length_replicate]
      omega

/-- A code tag is eight bytes (R382). -/
theorem codeTag_length (ckey : BitVec 256) (va : Nat) (line : List Byte) : (codeTag ckey va line).length = 8 := by
  simp [codeTag, aesCmac_length (bytesOf_length _ _)]

end Sys2Proof.Machine
end

