-- ==== Sys2Proof/Laws/Code.lean ====
section
/-!
SUPPORT. What reading a code line can do (R357, R384), and the lines a core's instruction cache holds after one is put in.
-/

namespace Sys2Proof.Machine

/-- A line whose tag is the tag of its bytes is read (R384). -/
theorem codeRead_ok {s s1 s2 : State} {core ctx : Nat} {a : Dword} {k : Access} {c : Context} {t : Target} {tag : List Byte}
    (hc : s.ctx? ctx = some c) (ha : canonical a = true) (hi : a.getLsbD 56 = false) (hb : c.tbase ≠ 0)
    (ht : globTarget s core ctx a 128 k = (s1, .ok t)) (hn : spanNeeds s1 false 128 t = [])
    (hp : spanPoisoned s1 128 t = false) (hr : readTag s1 core c a = (s2, .ok ([], tag)))
    (hw : xlateNeeds s core ctx a false ++ xlateNeeds s core ctx (tagAddr c a) false = [])
    (he : codeTag c.ckey a.toNat (readTarget (s2.recall none (spanLines t 128)) walkerSeat t 128) = tag) :
    codeRead s core ctx a k = (s2.recall none (spanLines t 128),
      .ok (BitVec.ofNat 1024 (ofBytes (readTarget (s2.recall none (spanLines t 128)) walkerSeat t 128)))) := by
  simp only [codeRead, hc, ha, hi, hb, ht, hn, hp, hr, hw, he, Bool.not_true, Bool.false_eq_true, if_false, if_true, or_self,
    ne_eq, not_true_eq_false]

/-- A line that is read carries the tag of its bytes, its tag was read after it, and its near copies have returned (R197,
R384). -/
theorem codeRead_tag {s s1 : State} {core ctx : Nat} {a : Dword} {k : Access} {bits : BitVec 1024}
    (h : codeRead s core ctx a k = (s1, .ok bits)) :
    ∃ c s0 s2 t tag, s.ctx? ctx = some c ∧ canonical a = true ∧ c.tbase ≠ 0 ∧
      globTarget s core ctx a 128 k = (s0, .ok t) ∧ readTag s0 core c a = (s2, .ok ([], tag)) ∧
      s1 = s2.recall none (spanLines t 128) ∧ codeTag c.ckey a.toNat (readTarget s1 walkerSeat t 128) = tag ∧
      bits = BitVec.ofNat 1024 (ofBytes (readTarget s1 walkerSeat t 128)) := by
  rcases hc : s.ctx? ctx with _ | c
  · simp [codeRead, hc] at h
  by_cases ha : canonical a = true
  swap
  · simp [codeRead, hc, ha] at h
  by_cases hb : a.getLsbD 56 = true ∨ c.tbase = 0
  · simp only [codeRead, hc, ha, hb, Bool.not_true, Bool.false_eq_true, if_false, if_true, Prod.mk.injEq, reduceCtorEq,
      and_false] at h
  by_cases hw : xlateNeeds s core ctx a false ++ xlateNeeds s core ctx (tagAddr c a) false = []
  swap
  · simp only [codeRead, hc, ha, hb, hw, Bool.not_true, Bool.false_eq_true, if_false, if_true, ne_eq, not_false_eq_true,
      Prod.mk.injEq, reduceCtorEq, and_false] at h
  simp only [codeRead, hc, ha, hb, hw, Bool.not_true, Bool.false_eq_true, if_false, ne_eq, not_true_eq_false] at h
  rcases ht : globTarget s core ctx a 128 k with ⟨s0, _ | t⟩
  · simp [ht] at h
  by_cases hn : spanNeeds s0 false 128 t = []
  swap
  · simp [ht, hn] at h
  by_cases hp : spanPoisoned s0 128 t = true
  · simp [ht, hn, hp] at h
  rcases hr : readTag s0 core c a with ⟨s2, _ | ⟨tn, tag⟩⟩
  · simp [ht, hn, hp, hr] at h
  by_cases htn : tn = []
  swap
  · simp [ht, hn, hp, hr, htn] at h
  by_cases he : codeTag c.ckey a.toNat (readTarget (s2.recall none (spanLines t 128)) walkerSeat t 128) = tag
  swap
  · simp [ht, hn, hp, hr, htn, he] at h
  subst htn
  simp only [ht, hn, hp, hr, he, if_true, if_false, ne_eq, not_true_eq_false, Bool.false_eq_true, Prod.mk.injEq,
    LineRes.ok.injEq] at h
  obtain ⟨rfl, rfl⟩ := h
  exact ⟨c, s0, s2, t, tag, rfl, ha, fun h0 => hb (.inr h0), rfl, hr, rfl, he, rfl⟩

/-- The line just put into a cache is the one it holds at its address. -/
@[simp] theorem iline_installLine (s : State) (unit ctx : Nat) (a : Dword) (bits : BitVec 1024) :
    iline (s.installLine unit ctx a bits) unit ctx a = some bits := by
  simp [iline, State.installLine]

/-- No other line changes. -/
theorem iline_installLine_other (s : State) {unit ctx u x : Nat} {a b : Dword} (bits : BitVec 1024)
    (hu : (s.icache.filter fun l => decide (l.core = unit)).length ≤ 511)
    (h : ¬(unit = u ∧ ctx = x ∧ codeLine a = codeLine b)) : iline (s.installLine unit ctx a bits) u x b = iline s u x b := by
  have ne : ¬(unit = u ∧ ctx = x ∧ (codeLine a).toNat = (codeLine b).toNat) := fun e =>
    h ⟨e.1, e.2.1, BitVec.eq_of_toNat_eq e.2.2⟩
  have l1 (l : List ILine) (p q : ILine → Bool) (himp : ∀ y, q y = true → p y = true) :
      (l.filter p).find? q = l.find? q := by
    induction l with
    | nil => rfl
    | cons y r ih =>
      by_cases hp : p y = true
      · simp only [List.filter_cons_of_pos hp, List.find?_cons, ih]
      · have hq : q y = false := by
          by_contra e
          exact hp (himp y (by simpa using e))
        simp only [List.filter_cons_of_neg hp, List.find?_cons, hq, ih]
  have l0 (l : List ILine) (p q : ILine → Bool) (himp : ∀ y, q y = true → p y = false) :
      (l.filter p).find? q = none := by
    rw [List.find?_eq_none]
    intro y hy hq
    rw [List.mem_filter, himp y hq] at hy
    exact Bool.noConfusion hy.2
  let q (l : ILine) : Bool := decide (l.core = u ∧ l.ctx = x ∧ l.va = (codeLine b).toNat)
  let old := s.icache.filter fun l => decide ¬(l.core = unit ∧ l.ctx = ctx ∧ l.va = (codeLine a).toNat)
  have hold : old.find? q = s.icache.find? q := l1 _ _ _ fun y hy => by
    simp only [q, decide_eq_true_eq] at hy ⊢
    rintro ⟨rfl, rfl, hv⟩
    exact ne ⟨hy.1, hy.2.1, hv.symm.trans hy.2.2⟩
  have hlen : (old.filter fun l => decide (l.core = unit)).length ≤ 511 := by
    refine le_trans ?_ hu
    rw [List.filter_comm]
    exact List.length_filter_le _ _
  show (List.find? q (_ :: (old.filter fun l => decide (l.core = unit)).take 511 ++ _)).map ILine.bits = _
  rw [List.take_of_length_le hlen, List.cons_append, List.find?_cons, List.find?_append]
  have hq0 : q { core := unit, ctx := ctx, va := (codeLine a).toNat, bits := bits } = false := decide_eq_false ne
  rw [hq0]
  by_cases hc : u = unit
  · subst hc
    rw [l1 old _ q fun y hy => by simp only [q, decide_eq_true_eq] at hy ⊢; exact hy.1,
      l0 old _ q fun y hy => by simp only [q, decide_eq_true_eq] at hy; simp [hy.1], Option.or_none, hold]
    rfl
  · rw [l0 old _ q fun y hy => by simp only [q, decide_eq_true_eq] at hy; simp [hy.1, hc],
      l1 old _ q fun y hy => by simp only [q, decide_eq_true_eq] at hy; simp [hy.1, hc], Option.none_or, hold]
    rfl

end Sys2Proof.Machine
end

