-- ==== Sys2Proof/Laws/Encoding.lean ====
section
/-!
SUPPORT. Reading back the fields an encoder wrote: one lemma for each format, and for class and opcode.
-/

namespace Sys2Proof

/-- Bit `i` of a field placed at `lo`. -/
theorem getLsbD_place {n : Nat} (x : BitVec n) (lo i : Nat) :
    (place x lo).getLsbD i = (decide (lo ≤ i) && decide (i < 64) && x.getLsbD (i - lo)) := by
  simp only [place, BitVec.getLsbD_shiftLeft, BitVec.getLsbD_setWidth]
  by_cases h : i < lo
  · have : ¬ lo ≤ i := by omega
    simp [h, this]
  · have h' : lo ≤ i := by omega
    by_cases h2 : i < 64
    · have : i - lo < 64 := by omega
      simp [h, h', h2, this]
    · simp [h2]

/-- A field placed elsewhere shows nothing in a range it does not meet. -/
theorem extract_place_out {n : Nat} (x : BitVec n) (lo a b : Nat) (h : a + b ≤ lo ∨ lo + n ≤ a) :
    (place x lo).extractLsb' a b = 0 := by
  apply BitVec.eq_of_getLsbD_eq
  intro i hi
  simp only [BitVec.getLsbD_extractLsb', getLsbD_place]
  by_cases h1 : lo ≤ a + i
  · have : n ≤ a + i - lo := by omega
    simp [BitVec.getLsbD_of_ge _ _ this]
  · simp [h1]

/-- A field placed is read back where it stands. -/
theorem extract_place_in {n : Nat} (x : BitVec n) (lo : Nat) (h : lo + n ≤ 64) : (place x lo).extractLsb' lo n = x := by
  apply BitVec.eq_of_getLsbD_eq
  intro i hi
  have h1 : lo ≤ lo + i := by omega
  have h2 : lo + i < 64 := by omega
  have h3 : lo + i - lo = i := by omega
  simp [hi, h2, h3]

theorem extract_or (x y : Dword) (a b : Nat) : (x ||| y).extractLsb' a b = x.extractLsb' a b ||| y.extractLsb' a b := by
  apply BitVec.eq_of_getLsbD_eq
  intro i hi
  simp [BitVec.getLsbD_extractLsb', BitVec.getLsbD_or]
  by_cases h : i < b <;> simp [h]

/-- One bit of a word as a field of width 1. -/
theorem getLsbD_eq_extract (x : Dword) (a : Nat) : x.getLsbD a = (x.extractLsb' a 1 == 1#1) := by
  cases h : x.getLsbD a <;> simp [BitVec.eq_of_getLsbD_eq_iff, h]


/-- The same for a field at bit 0, as `simp` writes it. -/
theorem extract_low_out {n : Nat} (x : BitVec n) (a b : Nat) (h : n ≤ a) : (x.setWidth 64).extractLsb' a b = 0 := by
  have := extract_place_out x 0 a b (by omega)
  simpa [place] using this

theorem extract_low_in {n : Nat} (x : BitVec n) (h : n ≤ 64) : (x.setWidth 64).extractLsb' 0 n = x := by
  have := extract_place_in x 0 (by omega)
  simpa [place] using this

theorem wordCls_or (x y : Dword) : wordCls (x ||| y) = (x.extractLsb' 61 3 ||| y.extractLsb' 61 3).toNat := by
  rw [wordCls, extract_or]

theorem readFmtA_write (cls op : Nat) (f : FmtA) : readFmtA (writeFmtA cls op f) = f := by
  rcases f with ⟨⟨ch, nw, kp, kn⟩⟩
  simp [readFmtA, readCtl, writeFmtA, writeCtl, extract_or, extract_place_in, extract_place_out,
    extract_low_in, extract_low_out]

theorem cls_writeFmtA (cls op : Nat) (f : FmtA) : (writeFmtA cls op f).extractLsb' 61 3 = BitVec.ofNat 3 cls := by
  simp [writeFmtA, writeCtl, extract_or, extract_place_in, extract_place_out,
    extract_low_in, extract_low_out]

theorem op_writeFmtA (cls op : Nat) (f : FmtA) : (writeFmtA cls op f).extractLsb' 54 7 = BitVec.ofNat 7 op := by
  simp [writeFmtA, writeCtl, extract_or, extract_place_in, extract_place_out,
    extract_low_in, extract_low_out]

theorem readFmtW_write (cls op : Nat) (f : FmtW) : readFmtW (writeFmtW cls op f) = f := by
  rcases f with ⟨⟨ch, nw, kp, kn⟩⟩
  simp [readFmtW, readCtl, writeFmtW, writeCtl, extract_or, extract_place_in, extract_place_out,
    extract_low_in, extract_low_out]

theorem cls_writeFmtW (cls op : Nat) (f : FmtW) : (writeFmtW cls op f).extractLsb' 61 3 = BitVec.ofNat 3 cls := by
  simp [writeFmtW, writeCtl, extract_or, extract_place_in, extract_place_out,
    extract_low_in, extract_low_out]

theorem op_writeFmtW (cls op : Nat) (f : FmtW) : (writeFmtW cls op f).extractLsb' 54 7 = BitVec.ofNat 7 op := by
  simp [writeFmtW, writeCtl, extract_or, extract_place_in, extract_place_out,
    extract_low_in, extract_low_out]

theorem readFmtI_write (cls op : Nat) (f : FmtI) : readFmtI (writeFmtI cls op f) = f := by
  rcases f with ⟨⟨ch, nw, kp, kn⟩⟩
  simp [readFmtI, readCtl, writeFmtI, writeCtl, extract_or, extract_place_in, extract_place_out,
    extract_low_in, extract_low_out]

theorem cls_writeFmtI (cls op : Nat) (f : FmtI) : (writeFmtI cls op f).extractLsb' 61 3 = BitVec.ofNat 3 cls := by
  simp [writeFmtI, writeCtl, extract_or, extract_place_in, extract_place_out,
    extract_low_in, extract_low_out]

theorem op_writeFmtI (cls op : Nat) (f : FmtI) : (writeFmtI cls op f).extractLsb' 54 7 = BitVec.ofNat 7 op := by
  simp [writeFmtI, writeCtl, extract_or, extract_place_in, extract_place_out,
    extract_low_in, extract_low_out]

theorem readFmtM_write (cls op : Nat) (f : FmtM) : readFmtM (writeFmtM cls op f) = f := by
  rcases f with ⟨⟨ch, nw, kp, kn⟩⟩
  simp [readFmtM, readCtl, writeFmtM, writeCtl, extract_or, extract_place_in, extract_place_out,
    extract_low_in, extract_low_out]

theorem cls_writeFmtM (cls op : Nat) (f : FmtM) : (writeFmtM cls op f).extractLsb' 61 3 = BitVec.ofNat 3 cls := by
  simp [writeFmtM, writeCtl, extract_or, extract_place_in, extract_place_out,
    extract_low_in, extract_low_out]

theorem op_writeFmtM (cls op : Nat) (f : FmtM) : (writeFmtM cls op f).extractLsb' 54 7 = BitVec.ofNat 7 op := by
  simp [writeFmtM, writeCtl, extract_or, extract_place_in, extract_place_out,
    extract_low_in, extract_low_out]

theorem readFmtB_write (cls op : Nat) (f : FmtB) : readFmtB (writeFmtB cls op f) = f := by
  rcases f with ⟨⟨ch, nw, kp, kn⟩⟩
  simp [readFmtB, readCtl, writeFmtB, writeCtl, extract_or, extract_place_in, extract_place_out,
    extract_low_in, extract_low_out]

theorem cls_writeFmtB (cls op : Nat) (f : FmtB) : (writeFmtB cls op f).extractLsb' 61 3 = BitVec.ofNat 3 cls := by
  simp [writeFmtB, writeCtl, extract_or, extract_place_in, extract_place_out,
    extract_low_in, extract_low_out]

theorem op_writeFmtB (cls op : Nat) (f : FmtB) : (writeFmtB cls op f).extractLsb' 54 7 = BitVec.ofNat 7 op := by
  simp [writeFmtB, writeCtl, extract_or, extract_place_in, extract_place_out,
    extract_low_in, extract_low_out]

theorem readFmtC_write (cls op : Nat) (f : FmtC) : readFmtC (writeFmtC cls op f) = f := by
  rcases f with ⟨⟨ch, nw, kp, kn⟩⟩
  simp [readFmtC, readCtl, writeFmtC, writeCtl, extract_or, extract_place_in, extract_place_out,
    extract_low_in, extract_low_out]

theorem cls_writeFmtC (cls op : Nat) (f : FmtC) : (writeFmtC cls op f).extractLsb' 61 3 = BitVec.ofNat 3 cls := by
  simp [writeFmtC, writeCtl, extract_or, extract_place_in, extract_place_out,
    extract_low_in, extract_low_out]

theorem op_writeFmtC (cls op : Nat) (f : FmtC) : (writeFmtC cls op f).extractLsb' 54 7 = BitVec.ofNat 7 op := by
  simp [writeFmtC, writeCtl, extract_or, extract_place_in, extract_place_out,
    extract_low_in, extract_low_out]

theorem readFmtX_write (cls op : Nat) (f : FmtX) : readFmtX (writeFmtX cls op f) = f := by
  rcases f with ⟨⟨ch, nw, kp, kn⟩⟩
  simp [readFmtX, readCtl, writeFmtX, writeCtl, extract_or, extract_place_in, extract_place_out,
    extract_low_in, extract_low_out]

theorem cls_writeFmtX (cls op : Nat) (f : FmtX) : (writeFmtX cls op f).extractLsb' 61 3 = BitVec.ofNat 3 cls := by
  simp [writeFmtX, writeCtl, extract_or, extract_place_in, extract_place_out,
    extract_low_in, extract_low_out]

theorem op_writeFmtX (cls op : Nat) (f : FmtX) : (writeFmtX cls op f).extractLsb' 54 7 = BitVec.ofNat 7 op := by
  simp [writeFmtX, writeCtl, extract_or, extract_place_in, extract_place_out,
    extract_low_in, extract_low_out]

theorem readFmtP_write (f : FmtP) : readFmtP (writeFmtP f) = f := by
  cases f
  simp [readFmtP, writeFmtP, extract_or, extract_place_in, extract_place_out,
    extract_low_in, extract_low_out]

theorem cls_writeFmtP (f : FmtP) : (writeFmtP f).extractLsb' 61 3 = 7 := by
  simp [writeFmtP, extract_or, extract_place_in, extract_place_out,
    extract_low_in, extract_low_out]

theorem op_writeFmtP (f : FmtP) : (writeFmtP f).extractLsb' 54 7 = 0 := by
  simp [writeFmtP, extract_or, extract_place_in, extract_place_out,
    extract_low_in, extract_low_out]

end Sys2Proof
end

