-- ==== Sys2Proof/Laws/Kills.lean ====
section
/-!
SUPPORT. What %err holds after the kills of one cycle, what a release of near lines or of pending bytes leaves alone.
-/

namespace Sys2Proof.Machine

/-! ### Kills of one cycle (R58) -/

@[simp] theorem errFold_nil (err : BitVec 128) : errFold err [] = err := rfl

@[simp] theorem errFold_cons (err : BitVec 128) (k : Nat × Nat × BitVec 128) (r : List (Nat × Nat × BitVec 128)) :
    errFold err (k :: r) = errFold (errAfterKill err k.2.2) r := rfl

theorem mem_putKill {k x : Nat × Nat × BitVec 128} {l : List (Nat × Nat × BitVec 128)} :
    x ∈ putKill k l ↔ x = k ∨ x ∈ l := by
  induction l with
  | nil => simp [putKill]
  | cons a r ih =>
    simp only [putKill]
    split
    · simp
    · simp only [List.mem_cons, ih]
      constructor <;> rintro (h | h | h) <;> simp [h]

theorem putKill_sorted {k : Nat × Nat × BitVec 128} {l : List (Nat × Nat × BitVec 128)}
    (h : l.Pairwise fun a b => a.1 ≤ b.1) : (putKill k l).Pairwise fun a b => a.1 ≤ b.1 := by
  induction l with
  | nil => simp [putKill]
  | cons a r ih =>
    have ⟨ha, hr⟩ := List.pairwise_cons.1 h
    simp only [putKill]
    split
    · rename_i hk
      exact List.pairwise_cons.2 ⟨fun b hb => (List.mem_cons.1 hb).elim (fun e => by subst e; omega)
        (fun hb => by have := ha b hb; omega), h⟩
    · rename_i hk
      exact List.pairwise_cons.2 ⟨fun b hb => (mem_putKill.1 hb).elim (fun e => by subst e; omega) (ha b), ih hr⟩

/-- The first kill of a cycle starts from %err as it is. -/
theorem Context.killed_first {c : Context} {n : Nat} (k : Nat × Nat × BitVec 128)
    (h : c.errNow.cycle ≠ n ∨ c.errNow.kills = []) : c.killed n k = { cycle := n, base := c.err, kills := [k] } := by
  have : ¬(c.errNow.cycle = n ∧ c.errNow.kills ≠ []) := fun hh => h.elim (fun e => e hh.1) (fun e => hh.2 e)
  simp [Context.killed, this, putKill]

/-- A later kill of the cycle takes its place among the others. -/
theorem Context.killed_next {c : Context} {n : Nat} (k : Nat × Nat × BitVec 128) (h : c.errNow.cycle = n)
    (hk : c.errNow.kills ≠ []) : c.killed n k = { c.errNow with kills := putKill k c.errNow.kills } := by
  simp [Context.killed, h, hk]

theorem FRec.withErr_other {e : ErrCycle} {x : FRec} (h : x.cls ≠ .kill) : x.withErr e = x := by simp [FRec.withErr, h]

/-! ### Near lines, pending bytes -/

/-- A recall changes which cores hold near lines, and nothing else. -/
theorem State.recall_frame (s : State) (keep : Option Nat) (lines : List Nat) :
    s.recall keep lines = { s with near := (s.recall keep lines).near } := rfl

/-- After a recall no core but the one that keeps them holds one of the lines. -/
theorem State.recall_gone {s : State} {keep : Option Nat} {lines : List Nat} {p : Nat × Nat}
    (h : p ∈ (s.recall keep lines).near) : some p.1 = keep ∨ p.2 ∉ lines := by
  simp only [State.recall, List.mem_filter, Bool.or_eq_true, decide_eq_true_eq, Bool.not_eq_true',
    List.contains_eq_mem, decide_eq_false_iff_not] at h
  exact h.2

/-- Dropping pending bytes changes the writes in flight only. -/
theorem State.dropBytes_frame (s : State) (p : Loc → Bool) : s.dropBytes p = { s with writes := (s.dropBytes p).writes } := rfl

theorem State.dropBytes_gone {s : State} {p : Loc → Bool} {w : PWrite} (h : w ∈ (s.dropBytes p).writes) {x : Loc × Byte}
    (hx : x ∈ w.bytes) : p x.1 = false := by
  simp only [State.dropBytes, List.mem_map] at h
  obtain ⟨w0, _, rfl⟩ := h
  simpa using (List.mem_filter.1 hx).2

end Sys2Proof.Machine
end

