-- ==== Sys2Proof/Laws/PerInstr.lean ====
section
/-!
SUPPORT. Families of statements made instruction by instruction: the round trip of the encoding.
-/

namespace Sys2Proof.Laws.RoundTrip

/-- Decoding the word of a well-formed operation answers the operation; an event has no word and is not well formed. -/
def Statement (i : Instr) : Prop := i.wellFormed = true → ∃ w, encode i = some w ∧ decodeWord w = i

/-- A decoded word by its class and opcode. -/
theorem decodeWord_eq (w : Dword) (c : BitVec 3) (o : BitVec 7) (hc : w.extractLsb' 61 3 = c) (ho : w.extractLsb' 54 7 = o) :
    decodeWord w = match c.toNat with
      | 0 => decodeScalar o.toNat w
      | 1 => decodeVector o.toNat w
      | 2 => decodeMemory o.toNat w
      | 3 => decodeCounter o.toNat w
      | 4 => decodeMatrix o.toNat w
      | 5 => decodeCopy o.toNat w
      | 6 => decodeControl o.toNat w
      | _ => decodeSystem o.toNat w := by
  subst hc ho
  rfl

theorem wf_kmov (f : FmtA) : (Instr.kmov f).wellFormed = !f.opb.getLsbD 0 := rfl

theorem wf_kmovFs (f : FmtA) : (Instr.kmovFs f).wellFormed = f.opb.getLsbD 0 := rfl

theorem wf_unassigned (w : Dword) : (Instr.unassignedOpcode w).wellFormed = !wordAssigned w := rfl

/-- Bit 0 of a format A word is bit 0 of its OPB. -/
theorem getLsbD_writeFmtA_zero (cls op : Nat) (f : FmtA) : (writeFmtA cls op f).getLsbD 0 = f.opb.getLsbD 0 := by
  have h := congrArg (fun z : BitVec 9 => z.getLsbD 0) (congrArg FmtA.opb (readFmtA_write cls op f))
  simp only [readFmtA, BitVec.getLsbD_extractLsb'] at h
  rw [← h]
  rfl

theorem unassignedScalar (op : Nat) (w : Dword) (h : (assignedOps 0).contains op = false) :
    decodeScalar op w = .unassignedOpcode w := by
  unfold decodeScalar
  split <;> first | rfl | (exfalso; revert h; decide)

theorem unassignedVector (op : Nat) (w : Dword) (h : (assignedOps 1).contains op = false) :
    decodeVector op w = .unassignedOpcode w := by
  unfold decodeVector
  split <;> first | rfl | (exfalso; revert h; decide)

theorem unassignedMemory (op : Nat) (w : Dword) (h : (assignedOps 2).contains op = false) :
    decodeMemory op w = .unassignedOpcode w := by
  unfold decodeMemory
  split <;> first | rfl | (exfalso; revert h; decide)

theorem unassignedCounter (op : Nat) (w : Dword) (h : (assignedOps 3).contains op = false) :
    decodeCounter op w = .unassignedOpcode w := by
  unfold decodeCounter
  split <;> first | rfl | (exfalso; revert h; decide)

theorem unassignedMatrix (op : Nat) (w : Dword) (h : (assignedOps 4).contains op = false) :
    decodeMatrix op w = .unassignedOpcode w := by
  unfold decodeMatrix
  split <;> first | rfl | (exfalso; revert h; decide)

theorem unassignedCopy (op : Nat) (w : Dword) (h : (assignedOps 5).contains op = false) :
    decodeCopy op w = .unassignedOpcode w := by
  unfold decodeCopy
  split <;> first | rfl | (exfalso; revert h; decide)

theorem unassignedControl (op : Nat) (w : Dword) (h : (assignedOps 6).contains op = false) :
    decodeControl op w = .unassignedOpcode w := by
  unfold decodeControl
  split <;> first | rfl | (exfalso; revert h; decide)

theorem unassignedSystem (op : Nat) (w : Dword) (h : (assignedOps 7).contains op = false) :
    decodeSystem op w = .unassignedOpcode w := by
  unfold decodeSystem
  split <;> first | rfl | (exfalso; revert h; decide)

theorem sadd (f : FmtA) : Statement (.sadd f) := fun _ =>
  ⟨_, rfl, (decodeWord_eq _ _ _ (cls_writeFmtA 0 0x00 f) (op_writeFmtA 0 0x00 f)).trans
    (congrArg Instr.sadd (readFmtA_write 0 0x00 f))⟩

theorem ssub (f : FmtA) : Statement (.ssub f) := fun _ =>
  ⟨_, rfl, (decodeWord_eq _ _ _ (cls_writeFmtA 0 0x01 f) (op_writeFmtA 0 0x01 f)).trans
    (congrArg Instr.ssub (readFmtA_write 0 0x01 f))⟩

theorem saddc (f : FmtA) : Statement (.saddc f) := fun _ =>
  ⟨_, rfl, (decodeWord_eq _ _ _ (cls_writeFmtA 0 0x02 f) (op_writeFmtA 0 0x02 f)).trans
    (congrArg Instr.saddc (readFmtA_write 0 0x02 f))⟩

theorem ssubb (f : FmtA) : Statement (.ssubb f) := fun _ =>
  ⟨_, rfl, (decodeWord_eq _ _ _ (cls_writeFmtA 0 0x03 f) (op_writeFmtA 0 0x03 f)).trans
    (congrArg Instr.ssubb (readFmtA_write 0 0x03 f))⟩

theorem smul (f : FmtA) : Statement (.smul f) := fun _ =>
  ⟨_, rfl, (decodeWord_eq _ _ _ (cls_writeFmtA 0 0x04 f) (op_writeFmtA 0 0x04 f)).trans
    (congrArg Instr.smul (readFmtA_write 0 0x04 f))⟩

theorem smulhs (f : FmtA) : Statement (.smulhs f) := fun _ =>
  ⟨_, rfl, (decodeWord_eq _ _ _ (cls_writeFmtA 0 0x05 f) (op_writeFmtA 0 0x05 f)).trans
    (congrArg Instr.smulhs (readFmtA_write 0 0x05 f))⟩

theorem smulhz (f : FmtA) : Statement (.smulhz f) := fun _ =>
  ⟨_, rfl, (decodeWord_eq _ _ _ (cls_writeFmtA 0 0x06 f) (op_writeFmtA 0 0x06 f)).trans
    (congrArg Instr.smulhz (readFmtA_write 0 0x06 f))⟩

theorem sand (f : FmtA) : Statement (.sand f) := fun _ =>
  ⟨_, rfl, (decodeWord_eq _ _ _ (cls_writeFmtA 0 0x08 f) (op_writeFmtA 0 0x08 f)).trans
    (congrArg Instr.sand (readFmtA_write 0 0x08 f))⟩

theorem sor (f : FmtA) : Statement (.sor f) := fun _ =>
  ⟨_, rfl, (decodeWord_eq _ _ _ (cls_writeFmtA 0 0x09 f) (op_writeFmtA 0 0x09 f)).trans
    (congrArg Instr.sor (readFmtA_write 0 0x09 f))⟩

theorem sxor (f : FmtA) : Statement (.sxor f) := fun _ =>
  ⟨_, rfl, (decodeWord_eq _ _ _ (cls_writeFmtA 0 0x0A f) (op_writeFmtA 0 0x0A f)).trans
    (congrArg Instr.sxor (readFmtA_write 0 0x0A f))⟩

theorem sandn (f : FmtA) : Statement (.sandn f) := fun _ =>
  ⟨_, rfl, (decodeWord_eq _ _ _ (cls_writeFmtA 0 0x0B f) (op_writeFmtA 0 0x0B f)).trans
    (congrArg Instr.sandn (readFmtA_write 0 0x0B f))⟩

theorem sshl (f : FmtA) : Statement (.sshl f) := fun _ =>
  ⟨_, rfl, (decodeWord_eq _ _ _ (cls_writeFmtA 0 0x0C f) (op_writeFmtA 0 0x0C f)).trans
    (congrArg Instr.sshl (readFmtA_write 0 0x0C f))⟩

theorem sshrz (f : FmtA) : Statement (.sshrz f) := fun _ =>
  ⟨_, rfl, (decodeWord_eq _ _ _ (cls_writeFmtA 0 0x0D f) (op_writeFmtA 0 0x0D f)).trans
    (congrArg Instr.sshrz (readFmtA_write 0 0x0D f))⟩

theorem sshrs (f : FmtA) : Statement (.sshrs f) := fun _ =>
  ⟨_, rfl, (decodeWord_eq _ _ _ (cls_writeFmtA 0 0x0E f) (op_writeFmtA 0 0x0E f)).trans
    (congrArg Instr.sshrs (readFmtA_write 0 0x0E f))⟩

theorem srot (f : FmtA) : Statement (.srot f) := fun _ =>
  ⟨_, rfl, (decodeWord_eq _ _ _ (cls_writeFmtA 0 0x0F f) (op_writeFmtA 0 0x0F f)).trans
    (congrArg Instr.srot (readFmtA_write 0 0x0F f))⟩

theorem sbfx (f : FmtA) : Statement (.sbfx f) := fun _ =>
  ⟨_, rfl, (decodeWord_eq _ _ _ (cls_writeFmtA 0 0x10 f) (op_writeFmtA 0 0x10 f)).trans
    (congrArg Instr.sbfx (readFmtA_write 0 0x10 f))⟩

theorem sbfi (f : FmtA) : Statement (.sbfi f) := fun _ =>
  ⟨_, rfl, (decodeWord_eq _ _ _ (cls_writeFmtA 0 0x11 f) (op_writeFmtA 0 0x11 f)).trans
    (congrArg Instr.sbfi (readFmtA_write 0 0x11 f))⟩

theorem sclz (f : FmtA) : Statement (.sclz f) := fun _ =>
  ⟨_, rfl, (decodeWord_eq _ _ _ (cls_writeFmtA 0 0x12 f) (op_writeFmtA 0 0x12 f)).trans
    (congrArg Instr.sclz (readFmtA_write 0 0x12 f))⟩

theorem sctz (f : FmtA) : Statement (.sctz f) := fun _ =>
  ⟨_, rfl, (decodeWord_eq _ _ _ (cls_writeFmtA 0 0x13 f) (op_writeFmtA 0 0x13 f)).trans
    (congrArg Instr.sctz (readFmtA_write 0 0x13 f))⟩

theorem spopc (f : FmtA) : Statement (.spopc f) := fun _ =>
  ⟨_, rfl, (decodeWord_eq _ _ _ (cls_writeFmtA 0 0x14 f) (op_writeFmtA 0 0x14 f)).trans
    (congrArg Instr.spopc (readFmtA_write 0 0x14 f))⟩

theorem sbrev (f : FmtA) : Statement (.sbrev f) := fun _ =>
  ⟨_, rfl, (decodeWord_eq _ _ _ (cls_writeFmtA 0 0x15 f) (op_writeFmtA 0 0x15 f)).trans
    (congrArg Instr.sbrev (readFmtA_write 0 0x15 f))⟩

theorem smins (f : FmtA) : Statement (.smins f) := fun _ =>
  ⟨_, rfl, (decodeWord_eq _ _ _ (cls_writeFmtA 0 0x18 f) (op_writeFmtA 0 0x18 f)).trans
    (congrArg Instr.smins (readFmtA_write 0 0x18 f))⟩

theorem sminz (f : FmtA) : Statement (.sminz f) := fun _ =>
  ⟨_, rfl, (decodeWord_eq _ _ _ (cls_writeFmtA 0 0x19 f) (op_writeFmtA 0 0x19 f)).trans
    (congrArg Instr.sminz (readFmtA_write 0 0x19 f))⟩

theorem smaxs (f : FmtA) : Statement (.smaxs f) := fun _ =>
  ⟨_, rfl, (decodeWord_eq _ _ _ (cls_writeFmtA 0 0x1A f) (op_writeFmtA 0 0x1A f)).trans
    (congrArg Instr.smaxs (readFmtA_write 0 0x1A f))⟩

theorem smaxz (f : FmtA) : Statement (.smaxz f) := fun _ =>
  ⟨_, rfl, (decodeWord_eq _ _ _ (cls_writeFmtA 0 0x1B f) (op_writeFmtA 0 0x1B f)).trans
    (congrArg Instr.smaxz (readFmtA_write 0 0x1B f))⟩

theorem scmp (f : FmtA) : Statement (.scmp f) := fun _ =>
  ⟨_, rfl, (decodeWord_eq _ _ _ (cls_writeFmtA 0 0x1C f) (op_writeFmtA 0 0x1C f)).trans
    (congrArg Instr.scmp (readFmtA_write 0 0x1C f))⟩

theorem ssel (f : FmtA) : Statement (.ssel f) := fun _ =>
  ⟨_, rfl, (decodeWord_eq _ _ _ (cls_writeFmtA 0 0x1D f) (op_writeFmtA 0 0x1D f)).trans
    (congrArg Instr.ssel (readFmtA_write 0 0x1D f))⟩

theorem smov (f : FmtA) : Statement (.smov f) := fun _ =>
  ⟨_, rfl, (decodeWord_eq _ _ _ (cls_writeFmtA 0 0x20 f) (op_writeFmtA 0 0x20 f)).trans
    (congrArg Instr.smov (readFmtA_write 0 0x20 f))⟩

theorem smovi (f : FmtI) : Statement (.smovi f) := fun _ =>
  ⟨_, rfl, (decodeWord_eq _ _ _ (cls_writeFmtI 0 0x21 f) (op_writeFmtI 0 0x21 f)).trans
    (congrArg Instr.smovi (readFmtI_write 0 0x21 f))⟩

theorem sadd64 (f : FmtA) : Statement (.sadd64 f) := fun _ =>
  ⟨_, rfl, (decodeWord_eq _ _ _ (cls_writeFmtA 0 0x28 f) (op_writeFmtA 0 0x28 f)).trans
    (congrArg Instr.sadd64 (readFmtA_write 0 0x28 f))⟩

theorem ssub64 (f : FmtA) : Statement (.ssub64 f) := fun _ =>
  ⟨_, rfl, (decodeWord_eq _ _ _ (cls_writeFmtA 0 0x29 f) (op_writeFmtA 0 0x29 f)).trans
    (congrArg Instr.ssub64 (readFmtA_write 0 0x29 f))⟩

theorem sshl64 (f : FmtA) : Statement (.sshl64 f) := fun _ =>
  ⟨_, rfl, (decodeWord_eq _ _ _ (cls_writeFmtA 0 0x2A f) (op_writeFmtA 0 0x2A f)).trans
    (congrArg Instr.sshl64 (readFmtA_write 0 0x2A f))⟩

theorem sshr64 (f : FmtA) : Statement (.sshr64 f) := fun _ =>
  ⟨_, rfl, (decodeWord_eq _ _ _ (cls_writeFmtA 0 0x2B f) (op_writeFmtA 0 0x2B f)).trans
    (congrArg Instr.sshr64 (readFmtA_write 0 0x2B f))⟩

theorem smul64 (f : FmtA) : Statement (.smul64 f) := fun _ =>
  ⟨_, rfl, (decodeWord_eq _ _ _ (cls_writeFmtA 0 0x2C f) (op_writeFmtA 0 0x2C f)).trans
    (congrArg Instr.smul64 (readFmtA_write 0 0x2C f))⟩

theorem vadd (f : FmtA) : Statement (.vadd f) := fun _ =>
  ⟨_, rfl, (decodeWord_eq _ _ _ (cls_writeFmtA 1 0x00 f) (op_writeFmtA 1 0x00 f)).trans
    (congrArg Instr.vadd (readFmtA_write 1 0x00 f))⟩

theorem vsub (f : FmtA) : Statement (.vsub f) := fun _ =>
  ⟨_, rfl, (decodeWord_eq _ _ _ (cls_writeFmtA 1 0x01 f) (op_writeFmtA 1 0x01 f)).trans
    (congrArg Instr.vsub (readFmtA_write 1 0x01 f))⟩

theorem vmul (f : FmtA) : Statement (.vmul f) := fun _ =>
  ⟨_, rfl, (decodeWord_eq _ _ _ (cls_writeFmtA 1 0x02 f) (op_writeFmtA 1 0x02 f)).trans
    (congrArg Instr.vmul (readFmtA_write 1 0x02 f))⟩

theorem vmulhs (f : FmtA) : Statement (.vmulhs f) := fun _ =>
  ⟨_, rfl, (decodeWord_eq _ _ _ (cls_writeFmtA 1 0x03 f) (op_writeFmtA 1 0x03 f)).trans
    (congrArg Instr.vmulhs (readFmtA_write 1 0x03 f))⟩

theorem vmulhz (f : FmtA) : Statement (.vmulhz f) := fun _ =>
  ⟨_, rfl, (decodeWord_eq _ _ _ (cls_writeFmtA 1 0x04 f) (op_writeFmtA 1 0x04 f)).trans
    (congrArg Instr.vmulhz (readFmtA_write 1 0x04 f))⟩

theorem vmad (f : FmtA) : Statement (.vmad f) := fun _ =>
  ⟨_, rfl, (decodeWord_eq _ _ _ (cls_writeFmtA 1 0x05 f) (op_writeFmtA 1 0x05 f)).trans
    (congrArg Instr.vmad (readFmtA_write 1 0x05 f))⟩

theorem vand (f : FmtA) : Statement (.vand f) := fun _ =>
  ⟨_, rfl, (decodeWord_eq _ _ _ (cls_writeFmtA 1 0x08 f) (op_writeFmtA 1 0x08 f)).trans
    (congrArg Instr.vand (readFmtA_write 1 0x08 f))⟩

theorem vor (f : FmtA) : Statement (.vor f) := fun _ =>
  ⟨_, rfl, (decodeWord_eq _ _ _ (cls_writeFmtA 1 0x09 f) (op_writeFmtA 1 0x09 f)).trans
    (congrArg Instr.vor (readFmtA_write 1 0x09 f))⟩

theorem vxor (f : FmtA) : Statement (.vxor f) := fun _ =>
  ⟨_, rfl, (decodeWord_eq _ _ _ (cls_writeFmtA 1 0x0A f) (op_writeFmtA 1 0x0A f)).trans
    (congrArg Instr.vxor (readFmtA_write 1 0x0A f))⟩

theorem vandn (f : FmtA) : Statement (.vandn f) := fun _ =>
  ⟨_, rfl, (decodeWord_eq _ _ _ (cls_writeFmtA 1 0x0B f) (op_writeFmtA 1 0x0B f)).trans
    (congrArg Instr.vandn (readFmtA_write 1 0x0B f))⟩

theorem vshl (f : FmtA) : Statement (.vshl f) := fun _ =>
  ⟨_, rfl, (decodeWord_eq _ _ _ (cls_writeFmtA 1 0x0C f) (op_writeFmtA 1 0x0C f)).trans
    (congrArg Instr.vshl (readFmtA_write 1 0x0C f))⟩

theorem vshrz (f : FmtA) : Statement (.vshrz f) := fun _ =>
  ⟨_, rfl, (decodeWord_eq _ _ _ (cls_writeFmtA 1 0x0D f) (op_writeFmtA 1 0x0D f)).trans
    (congrArg Instr.vshrz (readFmtA_write 1 0x0D f))⟩

theorem vshrs (f : FmtA) : Statement (.vshrs f) := fun _ =>
  ⟨_, rfl, (decodeWord_eq _ _ _ (cls_writeFmtA 1 0x0E f) (op_writeFmtA 1 0x0E f)).trans
    (congrArg Instr.vshrs (readFmtA_write 1 0x0E f))⟩

theorem vmins (f : FmtA) : Statement (.vmins f) := fun _ =>
  ⟨_, rfl, (decodeWord_eq _ _ _ (cls_writeFmtA 1 0x10 f) (op_writeFmtA 1 0x10 f)).trans
    (congrArg Instr.vmins (readFmtA_write 1 0x10 f))⟩

theorem vminz (f : FmtA) : Statement (.vminz f) := fun _ =>
  ⟨_, rfl, (decodeWord_eq _ _ _ (cls_writeFmtA 1 0x11 f) (op_writeFmtA 1 0x11 f)).trans
    (congrArg Instr.vminz (readFmtA_write 1 0x11 f))⟩

theorem vmaxs (f : FmtA) : Statement (.vmaxs f) := fun _ =>
  ⟨_, rfl, (decodeWord_eq _ _ _ (cls_writeFmtA 1 0x12 f) (op_writeFmtA 1 0x12 f)).trans
    (congrArg Instr.vmaxs (readFmtA_write 1 0x12 f))⟩

theorem vmaxz (f : FmtA) : Statement (.vmaxz f) := fun _ =>
  ⟨_, rfl, (decodeWord_eq _ _ _ (cls_writeFmtA 1 0x13 f) (op_writeFmtA 1 0x13 f)).trans
    (congrArg Instr.vmaxz (readFmtA_write 1 0x13 f))⟩

theorem vabs (f : FmtA) : Statement (.vabs f) := fun _ =>
  ⟨_, rfl, (decodeWord_eq _ _ _ (cls_writeFmtA 1 0x14 f) (op_writeFmtA 1 0x14 f)).trans
    (congrArg Instr.vabs (readFmtA_write 1 0x14 f))⟩

theorem vcmp (f : FmtA) : Statement (.vcmp f) := fun _ =>
  ⟨_, rfl, (decodeWord_eq _ _ _ (cls_writeFmtA 1 0x15 f) (op_writeFmtA 1 0x15 f)).trans
    (congrArg Instr.vcmp (readFmtA_write 1 0x15 f))⟩

theorem vsel (f : FmtA) : Statement (.vsel f) := fun _ =>
  ⟨_, rfl, (decodeWord_eq _ _ _ (cls_writeFmtA 1 0x16 f) (op_writeFmtA 1 0x16 f)).trans
    (congrArg Instr.vsel (readFmtA_write 1 0x16 f))⟩

theorem vmov (f : FmtA) : Statement (.vmov f) := fun _ =>
  ⟨_, rfl, (decodeWord_eq _ _ _ (cls_writeFmtA 1 0x17 f) (op_writeFmtA 1 0x17 f)).trans
    (congrArg Instr.vmov (readFmtA_write 1 0x17 f))⟩

theorem vbfx (f : FmtA) : Statement (.vbfx f) := fun _ =>
  ⟨_, rfl, (decodeWord_eq _ _ _ (cls_writeFmtA 1 0x18 f) (op_writeFmtA 1 0x18 f)).trans
    (congrArg Instr.vbfx (readFmtA_write 1 0x18 f))⟩

theorem vbfi (f : FmtA) : Statement (.vbfi f) := fun _ =>
  ⟨_, rfl, (decodeWord_eq _ _ _ (cls_writeFmtA 1 0x19 f) (op_writeFmtA 1 0x19 f)).trans
    (congrArg Instr.vbfi (readFmtA_write 1 0x19 f))⟩

theorem vpopc (f : FmtA) : Statement (.vpopc f) := fun _ =>
  ⟨_, rfl, (decodeWord_eq _ _ _ (cls_writeFmtA 1 0x1A f) (op_writeFmtA 1 0x1A f)).trans
    (congrArg Instr.vpopc (readFmtA_write 1 0x1A f))⟩

theorem vclz (f : FmtA) : Statement (.vclz f) := fun _ =>
  ⟨_, rfl, (decodeWord_eq _ _ _ (cls_writeFmtA 1 0x1B f) (op_writeFmtA 1 0x1B f)).trans
    (congrArg Instr.vclz (readFmtA_write 1 0x1B f))⟩

theorem vadd64 (f : FmtA) : Statement (.vadd64 f) := fun _ =>
  ⟨_, rfl, (decodeWord_eq _ _ _ (cls_writeFmtA 1 0x1C f) (op_writeFmtA 1 0x1C f)).trans
    (congrArg Instr.vadd64 (readFmtA_write 1 0x1C f))⟩

theorem vqdot (f : FmtA) : Statement (.vqdot f) := fun _ =>
  ⟨_, rfl, (decodeWord_eq _ _ _ (cls_writeFmtA 1 0x1D f) (op_writeFmtA 1 0x1D f)).trans
    (congrArg Instr.vqdot (readFmtA_write 1 0x1D f))⟩

theorem vfadd (f : FmtA) : Statement (.vfadd f) := fun _ =>
  ⟨_, rfl, (decodeWord_eq _ _ _ (cls_writeFmtA 1 0x20 f) (op_writeFmtA 1 0x20 f)).trans
    (congrArg Instr.vfadd (readFmtA_write 1 0x20 f))⟩

theorem vfsub (f : FmtA) : Statement (.vfsub f) := fun _ =>
  ⟨_, rfl, (decodeWord_eq _ _ _ (cls_writeFmtA 1 0x21 f) (op_writeFmtA 1 0x21 f)).trans
    (congrArg Instr.vfsub (readFmtA_write 1 0x21 f))⟩

theorem vfmul (f : FmtA) : Statement (.vfmul f) := fun _ =>
  ⟨_, rfl, (decodeWord_eq _ _ _ (cls_writeFmtA 1 0x22 f) (op_writeFmtA 1 0x22 f)).trans
    (congrArg Instr.vfmul (readFmtA_write 1 0x22 f))⟩

theorem vfma (f : FmtA) : Statement (.vfma f) := fun _ =>
  ⟨_, rfl, (decodeWord_eq _ _ _ (cls_writeFmtA 1 0x23 f) (op_writeFmtA 1 0x23 f)).trans
    (congrArg Instr.vfma (readFmtA_write 1 0x23 f))⟩

theorem vfmin (f : FmtA) : Statement (.vfmin f) := fun _ =>
  ⟨_, rfl, (decodeWord_eq _ _ _ (cls_writeFmtA 1 0x24 f) (op_writeFmtA 1 0x24 f)).trans
    (congrArg Instr.vfmin (readFmtA_write 1 0x24 f))⟩

theorem vfmax (f : FmtA) : Statement (.vfmax f) := fun _ =>
  ⟨_, rfl, (decodeWord_eq _ _ _ (cls_writeFmtA 1 0x25 f) (op_writeFmtA 1 0x25 f)).trans
    (congrArg Instr.vfmax (readFmtA_write 1 0x25 f))⟩

theorem vfcmp (f : FmtA) : Statement (.vfcmp f) := fun _ =>
  ⟨_, rfl, (decodeWord_eq _ _ _ (cls_writeFmtA 1 0x26 f) (op_writeFmtA 1 0x26 f)).trans
    (congrArg Instr.vfcmp (readFmtA_write 1 0x26 f))⟩

theorem vfclass (f : FmtA) : Statement (.vfclass f) := fun _ =>
  ⟨_, rfl, (decodeWord_eq _ _ _ (cls_writeFmtA 1 0x27 f) (op_writeFmtA 1 0x27 f)).trans
    (congrArg Instr.vfclass (readFmtA_write 1 0x27 f))⟩

theorem vfcvt (f : FmtA) : Statement (.vfcvt f) := fun _ =>
  ⟨_, rfl, (decodeWord_eq _ _ _ (cls_writeFmtA 1 0x28 f) (op_writeFmtA 1 0x28 f)).trans
    (congrArg Instr.vfcvt (readFmtA_write 1 0x28 f))⟩

theorem vcvti (f : FmtA) : Statement (.vcvti f) := fun _ =>
  ⟨_, rfl, (decodeWord_eq _ _ _ (cls_writeFmtA 1 0x29 f) (op_writeFmtA 1 0x29 f)).trans
    (congrArg Instr.vcvti (readFmtA_write 1 0x29 f))⟩

theorem vfrnd (f : FmtA) : Statement (.vfrnd f) := fun _ =>
  ⟨_, rfl, (decodeWord_eq _ _ _ (cls_writeFmtA 1 0x2A f) (op_writeFmtA 1 0x2A f)).trans
    (congrArg Instr.vfrnd (readFmtA_write 1 0x2A f))⟩

theorem vhfma (f : FmtA) : Statement (.vhfma f) := fun _ =>
  ⟨_, rfl, (decodeWord_eq _ _ _ (cls_writeFmtA 1 0x2B f) (op_writeFmtA 1 0x2B f)).trans
    (congrArg Instr.vhfma (readFmtA_write 1 0x2B f))⟩

theorem vhdot (f : FmtA) : Statement (.vhdot f) := fun _ =>
  ⟨_, rfl, (decodeWord_eq _ _ _ (cls_writeFmtA 1 0x2C f) (op_writeFmtA 1 0x2C f)).trans
    (congrArg Instr.vhdot (readFmtA_write 1 0x2C f))⟩

theorem vrcp (f : FmtA) : Statement (.vrcp f) := fun _ =>
  ⟨_, rfl, (decodeWord_eq _ _ _ (cls_writeFmtA 1 0x30 f) (op_writeFmtA 1 0x30 f)).trans
    (congrArg Instr.vrcp (readFmtA_write 1 0x30 f))⟩

theorem vrsq (f : FmtA) : Statement (.vrsq f) := fun _ =>
  ⟨_, rfl, (decodeWord_eq _ _ _ (cls_writeFmtA 1 0x31 f) (op_writeFmtA 1 0x31 f)).trans
    (congrArg Instr.vrsq (readFmtA_write 1 0x31 f))⟩

theorem vsqrt (f : FmtA) : Statement (.vsqrt f) := fun _ =>
  ⟨_, rfl, (decodeWord_eq _ _ _ (cls_writeFmtA 1 0x32 f) (op_writeFmtA 1 0x32 f)).trans
    (congrArg Instr.vsqrt (readFmtA_write 1 0x32 f))⟩

theorem vexp2 (f : FmtA) : Statement (.vexp2 f) := fun _ =>
  ⟨_, rfl, (decodeWord_eq _ _ _ (cls_writeFmtA 1 0x33 f) (op_writeFmtA 1 0x33 f)).trans
    (congrArg Instr.vexp2 (readFmtA_write 1 0x33 f))⟩

theorem vlog2 (f : FmtA) : Statement (.vlog2 f) := fun _ =>
  ⟨_, rfl, (decodeWord_eq _ _ _ (cls_writeFmtA 1 0x34 f) (op_writeFmtA 1 0x34 f)).trans
    (congrArg Instr.vlog2 (readFmtA_write 1 0x34 f))⟩

theorem vsin (f : FmtA) : Statement (.vsin f) := fun _ =>
  ⟨_, rfl, (decodeWord_eq _ _ _ (cls_writeFmtA 1 0x35 f) (op_writeFmtA 1 0x35 f)).trans
    (congrArg Instr.vsin (readFmtA_write 1 0x35 f))⟩

theorem vcos (f : FmtA) : Statement (.vcos f) := fun _ =>
  ⟨_, rfl, (decodeWord_eq _ _ _ (cls_writeFmtA 1 0x36 f) (op_writeFmtA 1 0x36 f)).trans
    (congrArg Instr.vcos (readFmtA_write 1 0x36 f))⟩

theorem vtanh (f : FmtA) : Statement (.vtanh f) := fun _ =>
  ⟨_, rfl, (decodeWord_eq _ _ _ (cls_writeFmtA 1 0x37 f) (op_writeFmtA 1 0x37 f)).trans
    (congrArg Instr.vtanh (readFmtA_write 1 0x37 f))⟩

theorem vshfl (f : FmtA) : Statement (.vshfl f) := fun _ =>
  ⟨_, rfl, (decodeWord_eq _ _ _ (cls_writeFmtA 1 0x40 f) (op_writeFmtA 1 0x40 f)).trans
    (congrArg Instr.vshfl (readFmtA_write 1 0x40 f))⟩

theorem vshflx (f : FmtA) : Statement (.vshflx f) := fun _ =>
  ⟨_, rfl, (decodeWord_eq _ _ _ (cls_writeFmtA 1 0x41 f) (op_writeFmtA 1 0x41 f)).trans
    (congrArg Instr.vshflx (readFmtA_write 1 0x41 f))⟩

theorem vshflup (f : FmtA) : Statement (.vshflup f) := fun _ =>
  ⟨_, rfl, (decodeWord_eq _ _ _ (cls_writeFmtA 1 0x42 f) (op_writeFmtA 1 0x42 f)).trans
    (congrArg Instr.vshflup (readFmtA_write 1 0x42 f))⟩

theorem vshfldn (f : FmtA) : Statement (.vshfldn f) := fun _ =>
  ⟨_, rfl, (decodeWord_eq _ _ _ (cls_writeFmtA 1 0x43 f) (op_writeFmtA 1 0x43 f)).trans
    (congrArg Instr.vshfldn (readFmtA_write 1 0x43 f))⟩

theorem vreadl (f : FmtA) : Statement (.vreadl f) := fun _ =>
  ⟨_, rfl, (decodeWord_eq _ _ _ (cls_writeFmtA 1 0x44 f) (op_writeFmtA 1 0x44 f)).trans
    (congrArg Instr.vreadl (readFmtA_write 1 0x44 f))⟩

theorem vwritel (f : FmtA) : Statement (.vwritel f) := fun _ =>
  ⟨_, rfl, (decodeWord_eq _ _ _ (cls_writeFmtA 1 0x45 f) (op_writeFmtA 1 0x45 f)).trans
    (congrArg Instr.vwritel (readFmtA_write 1 0x45 f))⟩

theorem vballot (f : FmtA) : Statement (.vballot f) := fun _ =>
  ⟨_, rfl, (decodeWord_eq _ _ _ (cls_writeFmtA 1 0x46 f) (op_writeFmtA 1 0x46 f)).trans
    (congrArg Instr.vballot (readFmtA_write 1 0x46 f))⟩

theorem vany (f : FmtA) : Statement (.vany f) := fun _ =>
  ⟨_, rfl, (decodeWord_eq _ _ _ (cls_writeFmtA 1 0x47 f) (op_writeFmtA 1 0x47 f)).trans
    (congrArg Instr.vany (readFmtA_write 1 0x47 f))⟩

theorem vall (f : FmtA) : Statement (.vall f) := fun _ =>
  ⟨_, rfl, (decodeWord_eq _ _ _ (cls_writeFmtA 1 0x48 f) (op_writeFmtA 1 0x48 f)).trans
    (congrArg Instr.vall (readFmtA_write 1 0x48 f))⟩

theorem vredadd (f : FmtA) : Statement (.vredadd f) := fun _ =>
  ⟨_, rfl, (decodeWord_eq _ _ _ (cls_writeFmtA 1 0x49 f) (op_writeFmtA 1 0x49 f)).trans
    (congrArg Instr.vredadd (readFmtA_write 1 0x49 f))⟩

theorem vredmin (f : FmtA) : Statement (.vredmin f) := fun _ =>
  ⟨_, rfl, (decodeWord_eq _ _ _ (cls_writeFmtA 1 0x4A f) (op_writeFmtA 1 0x4A f)).trans
    (congrArg Instr.vredmin (readFmtA_write 1 0x4A f))⟩

theorem vredmax (f : FmtA) : Statement (.vredmax f) := fun _ =>
  ⟨_, rfl, (decodeWord_eq _ _ _ (cls_writeFmtA 1 0x4B f) (op_writeFmtA 1 0x4B f)).trans
    (congrArg Instr.vredmax (readFmtA_write 1 0x4B f))⟩

theorem vscan (f : FmtA) : Statement (.vscan f) := fun _ =>
  ⟨_, rfl, (decodeWord_eq _ _ _ (cls_writeFmtA 1 0x4C f) (op_writeFmtA 1 0x4C f)).trans
    (congrArg Instr.vscan (readFmtA_write 1 0x4C f))⟩

theorem kand (f : FmtA) : Statement (.kand f) := fun _ =>
  ⟨_, rfl, (decodeWord_eq _ _ _ (cls_writeFmtA 1 0x50 f) (op_writeFmtA 1 0x50 f)).trans
    (congrArg Instr.kand (readFmtA_write 1 0x50 f))⟩

theorem kor (f : FmtA) : Statement (.kor f) := fun _ =>
  ⟨_, rfl, (decodeWord_eq _ _ _ (cls_writeFmtA 1 0x51 f) (op_writeFmtA 1 0x51 f)).trans
    (congrArg Instr.kor (readFmtA_write 1 0x51 f))⟩

theorem kxor (f : FmtA) : Statement (.kxor f) := fun _ =>
  ⟨_, rfl, (decodeWord_eq _ _ _ (cls_writeFmtA 1 0x52 f) (op_writeFmtA 1 0x52 f)).trans
    (congrArg Instr.kxor (readFmtA_write 1 0x52 f))⟩

theorem knot (f : FmtA) : Statement (.knot f) := fun _ =>
  ⟨_, rfl, (decodeWord_eq _ _ _ (cls_writeFmtA 1 0x53 f) (op_writeFmtA 1 0x53 f)).trans
    (congrArg Instr.knot (readFmtA_write 1 0x53 f))⟩

theorem kmov (f : FmtA) : Statement (.kmov f) := by
  intro h
  have h3 : f.opb.getLsbD 0 = false := by
    cases hx : f.opb.getLsbD 0 with
    | false => rfl
    | true => rw [wf_kmov, hx] at h; cases h
  have hb : (writeFmtA 1 0x54 f).getLsbD 0 = false := by
    rw [getLsbD_writeFmtA_zero, h3]
  refine ⟨_, rfl, (decodeWord_eq _ _ _ (cls_writeFmtA 1 0x54 f) (op_writeFmtA 1 0x54 f)).trans ?_⟩
  show (if (writeFmtA 1 0x54 f).getLsbD 0 then Instr.kmovFs (readFmtA _) else Instr.kmov (readFmtA _)) = _
  rw [hb, readFmtA_write]
  rfl

theorem kmovFs (f : FmtA) : Statement (.kmovFs f) := by
  intro h
  have h3 : f.opb.getLsbD 0 = true := by
    rwa [wf_kmovFs] at h
  have hb : (writeFmtA 1 0x54 f).getLsbD 0 = true := by
    rw [getLsbD_writeFmtA_zero, h3]
  refine ⟨_, rfl, (decodeWord_eq _ _ _ (cls_writeFmtA 1 0x54 f) (op_writeFmtA 1 0x54 f)).trans ?_⟩
  show (if (writeFmtA 1 0x54 f).getLsbD 0 then Instr.kmovFs (readFmtA _) else Instr.kmov (readFmtA _)) = _
  rw [hb, readFmtA_write]
  rfl

theorem ld (f : FmtM) : Statement (.ld f) := fun _ =>
  ⟨_, rfl, (decodeWord_eq _ _ _ (cls_writeFmtM 2 0x00 f) (op_writeFmtM 2 0x00 f)).trans
    (congrArg Instr.ld (readFmtM_write 2 0x00 f))⟩

theorem st (f : FmtM) : Statement (.st f) := fun _ =>
  ⟨_, rfl, (decodeWord_eq _ _ _ (cls_writeFmtM 2 0x01 f) (op_writeFmtM 2 0x01 f)).trans
    (congrArg Instr.st (readFmtM_write 2 0x01 f))⟩

theorem vld (f : FmtM) : Statement (.vld f) := fun _ =>
  ⟨_, rfl, (decodeWord_eq _ _ _ (cls_writeFmtM 2 0x02 f) (op_writeFmtM 2 0x02 f)).trans
    (congrArg Instr.vld (readFmtM_write 2 0x02 f))⟩

theorem vst (f : FmtM) : Statement (.vst f) := fun _ =>
  ⟨_, rfl, (decodeWord_eq _ _ _ (cls_writeFmtM 2 0x03 f) (op_writeFmtM 2 0x03 f)).trans
    (congrArg Instr.vst (readFmtM_write 2 0x03 f))⟩

theorem vldb (f : FmtM) : Statement (.vldb f) := fun _ =>
  ⟨_, rfl, (decodeWord_eq _ _ _ (cls_writeFmtM 2 0x04 f) (op_writeFmtM 2 0x04 f)).trans
    (congrArg Instr.vldb (readFmtM_write 2 0x04 f))⟩

theorem vstb (f : FmtM) : Statement (.vstb f) := fun _ =>
  ⟨_, rfl, (decodeWord_eq _ _ _ (cls_writeFmtM 2 0x05 f) (op_writeFmtM 2 0x05 f)).trans
    (congrArg Instr.vstb (readFmtM_write 2 0x05 f))⟩

theorem atom (f : FmtM) : Statement (.atom f) := fun _ =>
  ⟨_, rfl, (decodeWord_eq _ _ _ (cls_writeFmtM 2 0x08 f) (op_writeFmtM 2 0x08 f)).trans
    (congrArg Instr.atom (readFmtM_write 2 0x08 f))⟩

theorem red (f : FmtM) : Statement (.red f) := fun _ =>
  ⟨_, rfl, (decodeWord_eq _ _ _ (cls_writeFmtM 2 0x09 f) (op_writeFmtM 2 0x09 f)).trans
    (congrArg Instr.red (readFmtM_write 2 0x09 f))⟩

theorem pref (f : FmtM) : Statement (.pref f) := fun _ =>
  ⟨_, rfl, (decodeWord_eq _ _ _ (cls_writeFmtM 2 0x0C f) (op_writeFmtM 2 0x0C f)).trans
    (congrArg Instr.pref (readFmtM_write 2 0x0C f))⟩

theorem ipref (f : FmtB) : Statement (.ipref f) := fun _ =>
  ⟨_, rfl, (decodeWord_eq _ _ _ (cls_writeFmtB 2 0x0D f) (op_writeFmtB 2 0x0D f)).trans
    (congrArg Instr.ipref (readFmtB_write 2 0x0D f))⟩

theorem fence (f : FmtC) : Statement (.fence f) := fun _ =>
  ⟨_, rfl, (decodeWord_eq _ _ _ (cls_writeFmtC 2 0x10 f) (op_writeFmtC 2 0x10 f)).trans
    (congrArg Instr.fence (readFmtC_write 2 0x10 f))⟩

theorem fencew (f : FmtC) : Statement (.fencew f) := fun _ =>
  ⟨_, rfl, (decodeWord_eq _ _ _ (cls_writeFmtC 2 0x11 f) (op_writeFmtC 2 0x11 f)).trans
    (congrArg Instr.fencew (readFmtC_write 2 0x11 f))⟩

theorem cadd (f : FmtC) : Statement (.cadd f) := fun _ =>
  ⟨_, rfl, (decodeWord_eq _ _ _ (cls_writeFmtC 3 0x00 f) (op_writeFmtC 3 0x00 f)).trans
    (congrArg Instr.cadd (readFmtC_write 3 0x00 f))⟩

theorem caddx (f : FmtC) : Statement (.caddx f) := fun _ =>
  ⟨_, rfl, (decodeWord_eq _ _ _ (cls_writeFmtC 3 0x01 f) (op_writeFmtC 3 0x01 f)).trans
    (congrArg Instr.caddx (readFmtC_write 3 0x01 f))⟩

theorem cwait (f : FmtC) : Statement (.cwait f) := fun _ =>
  ⟨_, rfl, (decodeWord_eq _ _ _ (cls_writeFmtC 3 0x02 f) (op_writeFmtC 3 0x02 f)).trans
    (congrArg Instr.cwait (readFmtC_write 3 0x02 f))⟩

theorem cwait2 (f : FmtC) : Statement (.cwait2 f) := fun _ =>
  ⟨_, rfl, (decodeWord_eq _ _ _ (cls_writeFmtC 3 0x03 f) (op_writeFmtC 3 0x03 f)).trans
    (congrArg Instr.cwait2 (readFmtC_write 3 0x03 f))⟩

theorem ctest (f : FmtC) : Statement (.ctest f) := fun _ =>
  ⟨_, rfl, (decodeWord_eq _ _ _ (cls_writeFmtC 3 0x04 f) (op_writeFmtC 3 0x04 f)).trans
    (congrArg Instr.ctest (readFmtC_write 3 0x04 f))⟩

theorem cset (f : FmtC) : Statement (.cset f) := fun _ =>
  ⟨_, rfl, (decodeWord_eq _ _ _ (cls_writeFmtC 3 0x05 f) (op_writeFmtC 3 0x05 f)).trans
    (congrArg Instr.cset (readFmtC_write 3 0x05 f))⟩

theorem segnew (f : FmtW) : Statement (.segnew f) := fun _ =>
  ⟨_, rfl, (decodeWord_eq _ _ _ (cls_writeFmtW 3 0x10 f) (op_writeFmtW 3 0x10 f)).trans
    (congrArg Instr.segnew (readFmtW_write 3 0x10 f))⟩

theorem segatt (f : FmtW) : Statement (.segatt f) := fun _ =>
  ⟨_, rfl, (decodeWord_eq _ _ _ (cls_writeFmtW 3 0x11 f) (op_writeFmtW 3 0x11 f)).trans
    (congrArg Instr.segatt (readFmtW_write 3 0x11 f))⟩

theorem segdet (f : FmtW) : Statement (.segdet f) := fun _ =>
  ⟨_, rfl, (decodeWord_eq _ _ _ (cls_writeFmtW 3 0x12 f) (op_writeFmtW 3 0x12 f)).trans
    (congrArg Instr.segdet (readFmtW_write 3 0x12 f))⟩

theorem segrel (f : FmtW) : Statement (.segrel f) := fun _ =>
  ⟨_, rfl, (decodeWord_eq _ _ _ (cls_writeFmtW 3 0x13 f) (op_writeFmtW 3 0x13 f)).trans
    (congrArg Instr.segrel (readFmtW_write 3 0x13 f))⟩

theorem segfree (f : FmtW) : Statement (.segfree f) := fun _ =>
  ⟨_, rfl, (decodeWord_eq _ _ _ (cls_writeFmtW 3 0x14 f) (op_writeFmtW 3 0x14 f)).trans
    (congrArg Instr.segfree (readFmtW_write 3 0x14 f))⟩

theorem segevict (f : FmtW) : Statement (.segevict f) := fun _ =>
  ⟨_, rfl, (decodeWord_eq _ _ _ (cls_writeFmtW 3 0x15 f) (op_writeFmtW 3 0x15 f)).trans
    (congrArg Instr.segevict (readFmtW_write 3 0x15 f))⟩

theorem segqry (f : FmtW) : Statement (.segqry f) := fun _ =>
  ⟨_, rfl, (decodeWord_eq _ _ _ (cls_writeFmtW 3 0x16 f) (op_writeFmtW 3 0x16 f)).trans
    (congrArg Instr.segqry (readFmtW_write 3 0x16 f))⟩

theorem cjoin (f : FmtW) : Statement (.cjoin f) := fun _ =>
  ⟨_, rfl, (decodeWord_eq _ _ _ (cls_writeFmtW 3 0x20 f) (op_writeFmtW 3 0x20 f)).trans
    (congrArg Instr.cjoin (readFmtW_write 3 0x20 f))⟩

theorem cleave (f : FmtW) : Statement (.cleave f) := fun _ =>
  ⟨_, rfl, (decodeWord_eq _ _ _ (cls_writeFmtW 3 0x21 f) (op_writeFmtW 3 0x21 f)).trans
    (congrArg Instr.cleave (readFmtW_write 3 0x21 f))⟩

theorem mzero (f : FmtX) : Statement (.mzero f) := fun _ =>
  ⟨_, rfl, (decodeWord_eq _ _ _ (cls_writeFmtX 4 0x00 f) (op_writeFmtX 4 0x00 f)).trans
    (congrArg Instr.mzero (readFmtX_write 4 0x00 f))⟩

theorem mldb (f : FmtX) : Statement (.mldb f) := fun _ =>
  ⟨_, rfl, (decodeWord_eq _ _ _ (cls_writeFmtX 4 0x01 f) (op_writeFmtX 4 0x01 f)).trans
    (congrArg Instr.mldb (readFmtX_write 4 0x01 f))⟩

theorem mma (f : FmtX) : Statement (.mma f) := fun _ =>
  ⟨_, rfl, (decodeWord_eq _ _ _ (cls_writeFmtX 4 0x02 f) (op_writeFmtX 4 0x02 f)).trans
    (congrArg Instr.mma (readFmtX_write 4 0x02 f))⟩

theorem mmam (f : FmtX) : Statement (.mmam f) := fun _ =>
  ⟨_, rfl, (decodeWord_eq _ _ _ (cls_writeFmtX 4 0x03 f) (op_writeFmtX 4 0x03 f)).trans
    (congrArg Instr.mmam (readFmtX_write 4 0x03 f))⟩

theorem mdist (f : FmtX) : Statement (.mdist f) := fun _ =>
  ⟨_, rfl, (decodeWord_eq _ _ _ (cls_writeFmtX 4 0x04 f) (op_writeFmtX 4 0x04 f)).trans
    (congrArg Instr.mdist (readFmtX_write 4 0x04 f))⟩

theorem mtopk (f : FmtX) : Statement (.mtopk f) := fun _ =>
  ⟨_, rfl, (decodeWord_eq _ _ _ (cls_writeFmtX 4 0x05 f) (op_writeFmtX 4 0x05 f)).trans
    (congrArg Instr.mtopk (readFmtX_write 4 0x05 f))⟩

theorem mstore (f : FmtX) : Statement (.mstore f) := fun _ =>
  ⟨_, rfl, (decodeWord_eq _ _ _ (cls_writeFmtX 4 0x08 f) (op_writeFmtX 4 0x08 f)).trans
    (congrArg Instr.mstore (readFmtX_write 4 0x08 f))⟩

theorem mepi (f : FmtW) : Statement (.mepi f) := fun _ =>
  ⟨_, rfl, (decodeWord_eq _ _ _ (cls_writeFmtW 4 0x09 f) (op_writeFmtW 4 0x09 f)).trans
    (congrArg Instr.mepi (readFmtW_write 4 0x09 f))⟩

theorem mspill (f : FmtX) : Statement (.mspill f) := fun _ =>
  ⟨_, rfl, (decodeWord_eq _ _ _ (cls_writeFmtX 4 0x0A f) (op_writeFmtX 4 0x0A f)).trans
    (congrArg Instr.mspill (readFmtX_write 4 0x0A f))⟩

theorem mfill (f : FmtX) : Statement (.mfill f) := fun _ =>
  ⟨_, rfl, (decodeWord_eq _ _ _ (cls_writeFmtX 4 0x0B f) (op_writeFmtX 4 0x0B f)).trans
    (congrArg Instr.mfill (readFmtX_write 4 0x0B f))⟩

theorem mgemm (f : FmtW) : Statement (.mgemm f) := fun _ =>
  ⟨_, rfl, (decodeWord_eq _ _ _ (cls_writeFmtW 4 0x10 f) (op_writeFmtW 4 0x10 f)).trans
    (congrArg Instr.mgemm (readFmtW_write 4 0x10 f))⟩

theorem mstat (f : FmtW) : Statement (.mstat f) := fun _ =>
  ⟨_, rfl, (decodeWord_eq _ _ _ (cls_writeFmtW 4 0x11 f) (op_writeFmtW 4 0x11 f)).trans
    (congrArg Instr.mstat (readFmtW_write 4 0x11 f))⟩

theorem copy (f : FmtW) : Statement (.copy f) := fun _ =>
  ⟨_, rfl, (decodeWord_eq _ _ _ (cls_writeFmtW 5 0x00 f) (op_writeFmtW 5 0x00 f)).trans
    (congrArg Instr.copy (readFmtW_write 5 0x00 f))⟩

theorem copyh (f : FmtW) : Statement (.copyh f) := fun _ =>
  ⟨_, rfl, (decodeWord_eq _ _ _ (cls_writeFmtW 5 0x01 f) (op_writeFmtW 5 0x01 f)).trans
    (congrArg Instr.copyh (readFmtW_write 5 0x01 f))⟩

theorem copyg (f : FmtW) : Statement (.copyg f) := fun _ =>
  ⟨_, rfl, (decodeWord_eq _ _ _ (cls_writeFmtW 5 0x02 f) (op_writeFmtW 5 0x02 f)).trans
    (congrArg Instr.copyg (readFmtW_write 5 0x02 f))⟩

theorem copyw (f : FmtW) : Statement (.copyw f) := fun _ =>
  ⟨_, rfl, (decodeWord_eq _ _ _ (cls_writeFmtW 5 0x03 f) (op_writeFmtW 5 0x03 f)).trans
    (congrArg Instr.copyw (readFmtW_write 5 0x03 f))⟩

theorem qfence (f : FmtC) : Statement (.qfence f) := fun _ =>
  ⟨_, rfl, (decodeWord_eq _ _ _ (cls_writeFmtC 5 0x08 f) (op_writeFmtC 5 0x08 f)).trans
    (congrArg Instr.qfence (readFmtC_write 5 0x08 f))⟩

theorem qstat (f : FmtW) : Statement (.qstat f) := fun _ =>
  ⟨_, rfl, (decodeWord_eq _ _ _ (cls_writeFmtW 5 0x09 f) (op_writeFmtW 5 0x09 f)).trans
    (congrArg Instr.qstat (readFmtW_write 5 0x09 f))⟩

theorem br (f : FmtB) : Statement (.br f) := fun _ =>
  ⟨_, rfl, (decodeWord_eq _ _ _ (cls_writeFmtB 6 0x00 f) (op_writeFmtB 6 0x00 f)).trans
    (congrArg Instr.br (readFmtB_write 6 0x00 f))⟩

theorem brc (f : FmtB) : Statement (.brc f) := fun _ =>
  ⟨_, rfl, (decodeWord_eq _ _ _ (cls_writeFmtB 6 0x01 f) (op_writeFmtB 6 0x01 f)).trans
    (congrArg Instr.brc (readFmtB_write 6 0x01 f))⟩

theorem brdiv (f : FmtB) : Statement (.brdiv f) := fun _ =>
  ⟨_, rfl, (decodeWord_eq _ _ _ (cls_writeFmtB 6 0x02 f) (op_writeFmtB 6 0x02 f)).trans
    (congrArg Instr.brdiv (readFmtB_write 6 0x02 f))⟩

theorem join (f : FmtW) : Statement (.join f) := fun _ =>
  ⟨_, rfl, (decodeWord_eq _ _ _ (cls_writeFmtW 6 0x03 f) (op_writeFmtW 6 0x03 f)).trans
    (congrArg Instr.join (readFmtW_write 6 0x03 f))⟩

theorem call (f : FmtB) : Statement (.call f) := fun _ =>
  ⟨_, rfl, (decodeWord_eq _ _ _ (cls_writeFmtB 6 0x04 f) (op_writeFmtB 6 0x04 f)).trans
    (congrArg Instr.call (readFmtB_write 6 0x04 f))⟩

theorem ret (f : FmtW) : Statement (.ret f) := fun _ =>
  ⟨_, rfl, (decodeWord_eq _ _ _ (cls_writeFmtW 6 0x05 f) (op_writeFmtW 6 0x05 f)).trans
    (congrArg Instr.ret (readFmtW_write 6 0x05 f))⟩

theorem jmpi (f : FmtW) : Statement (.jmpi f) := fun _ =>
  ⟨_, rfl, (decodeWord_eq _ _ _ (cls_writeFmtW 6 0x06 f) (op_writeFmtW 6 0x06 f)).trans
    (congrArg Instr.jmpi (readFmtW_write 6 0x06 f))⟩

theorem exit (f : FmtW) : Statement (.exit f) := fun _ =>
  ⟨_, rfl, (decodeWord_eq _ _ _ (cls_writeFmtW 6 0x08 f) (op_writeFmtW 6 0x08 f)).trans
    (congrArg Instr.exit (readFmtW_write 6 0x08 f))⟩

theorem ppt (f : FmtW) : Statement (.ppt f) := fun _ =>
  ⟨_, rfl, (decodeWord_eq _ _ _ (cls_writeFmtW 6 0x09 f) (op_writeFmtW 6 0x09 f)).trans
    (congrArg Instr.ppt (readFmtW_write 6 0x09 f))⟩

theorem waitc (f : FmtI) : Statement (.waitc f) := fun _ =>
  ⟨_, rfl, (decodeWord_eq _ _ _ (cls_writeFmtI 6 0x0A f) (op_writeFmtI 6 0x0A f)).trans
    (congrArg Instr.waitc (readFmtI_write 6 0x0A f))⟩

theorem yield (f : FmtW) : Statement (.yield f) := fun _ =>
  ⟨_, rfl, (decodeWord_eq _ _ _ (cls_writeFmtW 6 0x0B f) (op_writeFmtW 6 0x0B f)).trans
    (congrArg Instr.yield (readFmtW_write 6 0x0B f))⟩

theorem nop (f : FmtW) : Statement (.nop f) := fun _ =>
  ⟨_, rfl, (decodeWord_eq _ _ _ (cls_writeFmtW 6 0x0C f) (op_writeFmtW 6 0x0C f)).trans
    (congrArg Instr.nop (readFmtW_write 6 0x0C f))⟩

theorem brk (f : FmtI) : Statement (.brk f) := fun _ =>
  ⟨_, rfl, (decodeWord_eq _ _ _ (cls_writeFmtI 6 0x10 f) (op_writeFmtI 6 0x10 f)).trans
    (congrArg Instr.brk (readFmtI_write 6 0x10 f))⟩

theorem trap (f : FmtI) : Statement (.trap f) := fun _ =>
  ⟨_, rfl, (decodeWord_eq _ _ _ (cls_writeFmtI 6 0x11 f) (op_writeFmtI 6 0x11 f)).trans
    (congrArg Instr.trap (readFmtI_write 6 0x11 f))⟩

theorem rep (f : FmtP) : Statement (.rep f) := fun _ =>
  ⟨_, rfl, (decodeWord_eq _ _ _ (cls_writeFmtP f) (op_writeFmtP f)).trans (congrArg Instr.rep (readFmtP_write f))⟩

theorem srd (f : FmtW) : Statement (.srd f) := fun _ =>
  ⟨_, rfl, (decodeWord_eq _ _ _ (cls_writeFmtW 7 0x01 f) (op_writeFmtW 7 0x01 f)).trans
    (congrArg Instr.srd (readFmtW_write 7 0x01 f))⟩

theorem swr (f : FmtW) : Statement (.swr f) := fun _ =>
  ⟨_, rfl, (decodeWord_eq _ _ _ (cls_writeFmtW 7 0x02 f) (op_writeFmtW 7 0x02 f)).trans
    (congrArg Instr.swr (readFmtW_write 7 0x02 f))⟩

theorem grow (f : FmtW) : Statement (.grow f) := fun _ =>
  ⟨_, rfl, (decodeWord_eq _ _ _ (cls_writeFmtW 7 0x04 f) (op_writeFmtW 7 0x04 f)).trans
    (congrArg Instr.grow (readFmtW_write 7 0x04 f))⟩

theorem launch (f : FmtW) : Statement (.launch f) := fun _ =>
  ⟨_, rfl, (decodeWord_eq _ _ _ (cls_writeFmtW 7 0x05 f) (op_writeFmtW 7 0x05 f)).trans
    (congrArg Instr.launch (readFmtW_write 7 0x05 f))⟩

theorem gsw (f : FmtW) : Statement (.gsw f) := fun _ =>
  ⟨_, rfl, (decodeWord_eq _ _ _ (cls_writeFmtW 7 0x08 f) (op_writeFmtW 7 0x08 f)).trans
    (congrArg Instr.gsw (readFmtW_write 7 0x08 f))⟩

theorem gret (f : FmtW) : Statement (.gret f) := fun _ =>
  ⟨_, rfl, (decodeWord_eq _ _ _ (cls_writeFmtW 7 0x09 f) (op_writeFmtW 7 0x09 f)).trans
    (congrArg Instr.gret (readFmtW_write 7 0x09 f))⟩

theorem halt (f : FmtW) : Statement (.halt f) := fun _ =>
  ⟨_, rfl, (decodeWord_eq _ _ _ (cls_writeFmtW 7 0x10 f) (op_writeFmtW 7 0x10 f)).trans
    (congrArg Instr.halt (readFmtW_write 7 0x10 f))⟩

theorem chainHoldLimit : ∀ x0, Statement (.chainHoldLimit x0) := fun _ h => nomatch h

theorem trackedResultWrite : ∀ x0 x1, Statement (.trackedResultWrite x0 x1) := fun _ _ h => nomatch h

theorem writePerform : ∀ x0, Statement (.writePerform x0) := fun _ h => nomatch h

theorem tlbFill : ∀ x0 x1 x2, Statement (.tlbFill x0 x1 x2) := fun _ _ _ h => nomatch h

theorem instructionCacheFill : ∀ x0 x1 x2, Statement (.instructionCacheFill x0 x1 x2) := fun _ _ _ h => nomatch h

theorem guestDecode : ∀ x0, Statement (.guestDecode x0) := fun _ h => nomatch h

theorem copyCommandStart : ∀ x0 x1 x2, Statement (.copyCommandStart x0 x1 x2) := fun _ _ _ h => nomatch h

theorem copyTransfer : ∀ x0 x1 x2, Statement (.copyTransfer x0 x1 x2) := fun _ _ _ h => nomatch h

theorem copyCompletion : ∀ x0 x1 x2, Statement (.copyCompletion x0 x1 x2) := fun _ _ _ h => nomatch h

theorem combiningBufferTimeout : ∀ x0 x1, Statement (.combiningBufferTimeout x0 x1) := fun _ _ h => nomatch h

theorem predictorDecay : ∀ x0, Statement (.predictorDecay x0) := fun _ h => nomatch h

theorem parkedPollingReread : ∀ x0, Statement (.parkedPollingReread x0) := fun _ h => nomatch h

theorem waiterWake : ∀ x0, Statement (.waiterWake x0) := fun _ h => nomatch h

theorem segmentRefillGranule : ∀ x0 x1 x2, Statement (.segmentRefillGranule x0 x1 x2) := fun _ _ _ h => nomatch h

theorem segmentWritebackGranule : ∀ x0 x1 x2, Statement (.segmentWritebackGranule x0 x1 x2) := fun _ _ _ h => nomatch h

theorem windowEnable : ∀ x0 x1, Statement (.windowEnable x0 x1) := fun _ _ h => nomatch h

theorem windowDisable : ∀ x0 x1, Statement (.windowDisable x0 x1) := fun _ _ h => nomatch h

theorem windowFlush : ∀ x0 x1, Statement (.windowFlush x0 x1) := fun _ _ h => nomatch h

theorem windowFlushDone : ∀ x0, Statement (.windowFlushDone x0) := fun _ h => nomatch h

theorem carveoutChange : ∀ x0 x1, Statement (.carveoutChange x0 x1) := fun _ _ h => nomatch h

theorem carveoutShrinkProceed : ∀ x0, Statement (.carveoutShrinkProceed x0) := fun _ h => nomatch h

theorem carveoutChangeDone : ∀ x0, Statement (.carveoutChangeDone x0) := fun _ h => nomatch h

theorem chrsvWrite : ∀ x0 x1, Statement (.chrsvWrite x0 x1) := fun _ _ h => nomatch h

theorem shootdown : ∀ x0, Statement (.shootdown x0) := fun _ h => nomatch h

theorem shootdownDone : Statement .shootdownDone := fun h => nomatch h

theorem counterAddWindowWrite : ∀ x0 x1 x2, Statement (.counterAddWindowWrite x0 x1 x2) := fun _ _ _ h => nomatch h

theorem hostHdmRead : ∀ x0 x1 x2 x3, Statement (.hostHdmRead x0 x1 x2 x3) := fun _ _ _ _ h => nomatch h

theorem hostHdmWrite : ∀ x0 x1 x2 x3, Statement (.hostHdmWrite x0 x1 x2 x3) := fun _ _ _ _ h => nomatch h

theorem hostSnoopAnswer : ∀ x0, Statement (.hostSnoopAnswer x0) := fun _ h => nomatch h

theorem hostSnoop : ∀ x0, Statement (.hostSnoop x0) := fun _ h => nomatch h

theorem hostLost : ∀ x0, Statement (.hostLost x0) := fun _ h => nomatch h

theorem peerReadRequest : ∀ x0 x1 x2 x3 x4, Statement (.peerReadRequest x0 x1 x2 x3 x4) := fun _ _ _ _ _ h => nomatch h

theorem peerWrite : ∀ x0 x1 x2 x3, Statement (.peerWrite x0 x1 x2 x3) := fun _ _ _ _ h => nomatch h

theorem peerCounterAdd : ∀ x0 x1 x2 x3 x4, Statement (.peerCounterAdd x0 x1 x2 x3 x4) := fun _ _ _ _ _ h => nomatch h

theorem remoteResponse : ∀ x0 x1 x2, Statement (.remoteResponse x0 x1 x2) := fun _ _ _ h => nomatch h

theorem flitReplay : ∀ x0, Statement (.flitReplay x0) := fun _ h => nomatch h

theorem managementMessage : ∀ x0, Statement (.managementMessage x0) := fun _ h => nomatch h

theorem timingMessage : ∀ x0, Statement (.timingMessage x0) := fun _ h => nomatch h

theorem peerLost : ∀ x0, Statement (.peerLost x0) := fun _ h => nomatch h

theorem linkDown : ∀ x0, Statement (.linkDown x0) := fun _ h => nomatch h

theorem linkRetry : ∀ x0 x1, Statement (.linkRetry x0 x1) := fun _ _ h => nomatch h

theorem queueEnable : ∀ x0, Statement (.queueEnable x0) := fun _ h => nomatch h

theorem qverUpdate : ∀ x0 x1, Statement (.qverUpdate x0 x1) := fun _ _ h => nomatch h

theorem reasonClear : ∀ x0, Statement (.reasonClear x0) := fun _ h => nomatch h

theorem frontEndTake : ∀ x0, Statement (.frontEndTake x0) := fun _ h => nomatch h

theorem feed : Statement .feed := fun h => nomatch h

theorem launchReady : ∀ x0, Statement (.launchReady x0) := fun _ h => nomatch h

theorem startTimeReached : Statement .startTimeReached := fun h => nomatch h

theorem gangStagePlace : ∀ x0 x1 x2, Statement (.gangStagePlace x0 x1 x2) := fun _ _ _ h => nomatch h

theorem launchComplete : ∀ x0, Statement (.launchComplete x0) := fun _ h => nomatch h

theorem kernelReplace : Statement .kernelReplace := fun h => nomatch h

theorem fehbWrite : Statement .fehbWrite := fun h => nomatch h

theorem frontEndWatchdog : Statement .frontEndWatchdog := fun h => nomatch h

theorem preemptionRequest : ∀ x0, Statement (.preemptionRequest x0) := fun _ h => nomatch h

theorem forcedStop : ∀ x0, Statement (.forcedStop x0) := fun _ h => nomatch h

theorem teamSave : ∀ x0, Statement (.teamSave x0) := fun _ h => nomatch h

theorem teamRestore : ∀ x0 x1, Statement (.teamRestore x0 x1) := fun _ _ h => nomatch h

theorem yieldSwap : ∀ x0, Statement (.yieldSwap x0) := fun _ h => nomatch h

theorem teamExit : ∀ x0, Statement (.teamExit x0) := fun _ h => nomatch h

theorem faultRecordWrite : ∀ x0, Statement (.faultRecordWrite x0) := fun _ h => nomatch h

theorem disposition : ∀ x0, Statement (.disposition x0) := fun _ h => nomatch h

theorem mchk : ∀ x0 x1, Statement (.mchk x0 x1) := fun _ _ h => nomatch h

theorem eqsetWrite : ∀ x0, Statement (.eqsetWrite x0) := fun _ h => nomatch h

theorem snapgo : ∀ x0, Statement (.snapgo x0) := fun _ h => nomatch h

theorem snapshotLatch : Statement .snapshotLatch := fun h => nomatch h

theorem islandControl : ∀ x0 x1, Statement (.islandControl x0 x1) := fun _ _ h => nomatch h

theorem powerLimitThrottle : ∀ x0, Statement (.powerLimitThrottle x0) := fun _ h => nomatch h

theorem keyDerive : ∀ x0, Statement (.keyDerive x0) := fun _ h => nomatch h

theorem keyClear : ∀ x0, Statement (.keyClear x0) := fun _ h => nomatch h

theorem egressRelease : ∀ x0, Statement (.egressRelease x0) := fun _ h => nomatch h

theorem almbaseWrite : ∀ x0, Statement (.almbaseWrite x0) := fun _ h => nomatch h

theorem almack : ∀ x0, Statement (.almack x0) := fun _ h => nomatch h

theorem almanacPortSelect : ∀ x0, Statement (.almanacPortSelect x0) := fun _ h => nomatch h

theorem leaderHeartbeat : Statement .leaderHeartbeat := fun h => nomatch h

theorem leaderTakeover : ∀ x0, Statement (.leaderTakeover x0) := fun _ h => nomatch h

theorem servicePairMismatch : ∀ x0, Statement (.servicePairMismatch x0) := fun _ h => nomatch h

theorem packageReset : ∀ x0, Statement (.packageReset x0) := fun _ h => nomatch h

theorem attestationRequest : ∀ x0, Statement (.attestationRequest x0) := fun _ h => nomatch h

theorem sealImport : ∀ x0 x1 x2, Statement (.sealImport x0 x1 x2) := fun _ _ _ h => nomatch h

theorem registerWrite : ∀ x0 x1 x2 x3, Statement (.registerWrite x0 x1 x2 x3) := fun _ _ _ _ h => nomatch h

theorem unassignedOpcode (w : Dword) : Statement (.unassignedOpcode w) := by
  intro h
  refine ⟨w, rfl, ?_⟩
  have h : (assignedOps (w.extractLsb' 61 3).toNat).contains (w.extractLsb' 54 7).toNat = false := by
    rw [wf_unassigned] at h
    cases hx : wordAssigned w with
    | false => exact hx
    | true => rw [hx] at h; cases h
  rw [decodeWord]
  have hb := (w.extractLsb' 61 3).isLt
  generalize (w.extractLsb' 61 3).toNat = c at h hb
  generalize (w.extractLsb' 54 7).toNat = o at h
  match c, hb, h with
  | 0, _, h => exact unassignedScalar o w h
  | 1, _, h => exact unassignedVector o w h
  | 2, _, h => exact unassignedMemory o w h
  | 3, _, h => exact unassignedCounter o w h
  | 4, _, h => exact unassignedMatrix o w h
  | 5, _, h => exact unassignedCopy o w h
  | 6, _, h => exact unassignedControl o w h
  | 7, _, h => exact unassignedSystem o w h

theorem mgemmSequencerStep : ∀ x0, Statement (.mgemmSequencerStep x0) := fun _ h => nomatch h

theorem matrixAcceptance : ∀ x0, Statement (.matrixAcceptance x0) := fun _ h => nomatch h

theorem cxlCacheResponse : ∀ x0 x1, Statement (.cxlCacheResponse x0 x1) := fun _ _ h => nomatch h

theorem servicePairAccess : ∀ x0 x1, Statement (.servicePairAccess x0 x1) := fun _ _ h => nomatch h

end Sys2Proof.Laws.RoundTrip
end

