-- ==== Sys2Proof/Machine/Formats.lean ====
section
/-!
DEFINITION. What the service software decides before it uses a file: the restore of a checkpoint's shards (R436, R437) and
the translation of a Pyroth container (R391, R392). No step of the machine reads these files.
-/

namespace Sys2Proof.Machine

/-! ### Checkpoint shards (R436, R437) -/

/-- A shard: its 64-byte header and its body. -/
structure Shard where
  header : List Byte
  body : List Byte
  deriving DecidableEq, Repr, Inhabited

/-- SHARD, NSHARD and STEP of a shard (R436). -/
def Shard.index (x : Shard) : Nat := recBits x.header 4 0 32

/-- The bytes begin with a shard's MAGIC (R436). -/
def Shard.isShard (x : Shard) : Bool := decide (recBits x.header 0 0 32 = 0x4B434852)

/-- Shards in the checkpoint, by one shard's header (R436). -/
def Shard.count (x : Shard) : Nat := recBits x.header 8 0 32

/-- The training step of a shard (R436). -/
def Shard.step (x : Shard) : Nat := recBits x.header 0x10 0 64

/-- A header that fails its HASH, has a reserved bit set or names a feature the part lacks (R409, R437). -/
def Shard.bad (x : Shard) : Bool :=
  decide (recBits x.header 0x0C 0 32 ≠ 0) || decide (ofBytes (x.header.drop 0x28) ≠ 0)
    || decide (recBits x.header 0x18 8 56 ≠ 0) || decide ((x.header.drop 0x20).take 8 ≠ (sha512 x.body).take 8)

/-- A shard of every index with that step is present (R437). -/
def wholeAt (l : List Shard) (step : Nat) : Bool :=
  match l.find? fun x => x.step = step with
  | none => false
  | some x => (List.range x.count).all fun i => l.any fun y => decide (y.index = i) && decide (y.step = step)

/-- The latest step of which every shard is present (R437). -/
def latestWhole (l : List Shard) : Option Nat :=
  ((l.map Shard.step).filter (wholeAt l)).foldl (fun m x => match m with
    | none => some x
    | some y => some (max x y)) none

/-- What a restore decides from the headers, before it writes anything (R437). -/
inductive RestoreVerdict
  | accepted
  | refused
  /-- refused because the STEP values differ, with what the report names -/
  | stepsDiffer (latest : Option Nat)
  deriving DecidableEq, Repr, Inhabited

/-- The decision of a restore over the shards it is given: where their STEP values differ it names a step, whatever else is
wrong (R437). What does not begin with MAGIC is no shard, and it is refused too: the model's choice (log entry 150). -/
def restoreVerdict (l : List Shard) : RestoreVerdict :=
  let shards := l.filter Shard.isShard
  if !shards.all fun x => shards.all fun y => decide (x.step = y.step) then .stepsDiffer (latestWhole shards)
  else if l.any fun x => !x.isShard || x.bad then .refused
  else .accepted

/-! ### Pyroth containers (R391, R392) -/

/-- The levels of a function. -/
inductive Level
  | tile
  | loop
  | scalar
  deriving DecidableEq, Repr, Inhabited

/-- The number of a level's record in a function entry (R391). -/
def Level.record : Level → Nat
  | .tile => 0
  | .loop => 1
  | .scalar => 2

/-- NFN (R391). -/
def containerFns (c : List Byte) : Nat := recBits c 6 0 16

/-- Where the level record of function `f` lies. -/
def levelAt (f : Nat) (k : Level) : Nat := 0x40 + 64 * f + 16 * k.record

/-- Function `f` has the level, and `feats` holds every feature its body needs (R391, R392). -/
def levelUsable (feats : Nat) (c : List Byte) (f : Nat) (k : Level) : Bool :=
  let need := recBits c (levelAt f k) 0 32
  decide (recBits c (levelAt f k + 8) 0 64 ≠ 0) && decide (need &&& feats = need)

/-- The level the translator takes for a function: the highest it supports entirely (R392). -/
def chosenLevel (feats : Nat) (c : List Byte) (f : Nat) : Option Level :=
  [Level.tile, .loop, .scalar].find? (levelUsable feats c f)

/-- The container is refused whole: an unknown VER, a function without a scalar level or with one the translator lacks a feature
for, or a HASH that does not match (R392). -/
def containerRefused (feats : Nat) (c : List Byte) : Bool :=
  decide (recBits c 4 0 16 ≠ 1) || (List.range (containerFns c)).any (fun f => !levelUsable feats c f .scalar)
    || decide ((c.drop 0x18).take 8 ≠ (sha512 (c.drop 0x40)).take 8)

end Sys2Proof.Machine
end

