-- ==== Sys2Proof/Tests/Slice0.lean ====
section
/-!
SUPPORT. Tests of the model's own: ill-formed terms, words of the spec, single steps, and for every statement with
hypotheses a state and operands that meet them.
-/

set_option maxRecDepth 20000

namespace Sys2Proof.Tests

open Sys2Proof.Machine

/-- No chain, KP 0, KN 0. -/
def c0 : Ctl := ⟨false, false, 0, false⟩

/-- Format A with every field zero. -/
def fa0 : FmtA := { c := c0, d := 0, sa := 0, sb := 0, sc := 0, ty := 0, rm := 0, sat := false, opb := 0 }

/-- Format A of classes 2 to 7 with every field zero. -/
def fw0 : FmtW := { c := c0, d := 0, sa := 0, sb := 0, sc := 0, m := 0 }

/-- Format I with every field zero. -/
def fi0 : FmtI := { c := c0, d := 0, sa := 0, imm := 0 }

/-- Format M with every field zero. -/
def fm0 : FmtM := { c := c0, d := 0, sa := 0, sb := 0, sc := 0, str := 0, spc := 0, sz := 0, sco := 0, cp := 0 }

/-- Format B with every field zero. -/
def fb0 : FmtB := { c := c0, d := 0, sa := 0, disp := 0 }

/-- Format C with every field zero. -/
def fc0 : FmtC :=
  { c := c0, d := 0, sa := 0, sb := 0, rsv := false, far := false, near := false, acq := false, rel := false, scope := 0
    mask := 0 }

/-- Format X with every field zero. -/
def fx0 : FmtX := { c := c0, d := 0, sa := 0, sb := 0, sc := 0, fa := 0, fb := 0, str := 0, xb := 0 }

/-- Format P with every field zero. -/
def fp0 : FmtP := { hi := 0, n1 := 0, sd := 0, sa := 0, sb := 0, sc := 0, lo := 0 }

/-- CH 1, NW 0, KP 5, KN 1: the control fields of the words below. -/
def cT : Ctl := ⟨true, false, 5, true⟩

/-- Bits 47 to 0 of the words below are 0x1234_5678_9ABC: their fields in each format (R29 to R34, R45). -/
def tA : FmtA :=
  { c := cT, d := 0x12, sa := 0x34, sb := 0x56, sc := 0x78, ty := 9, rm := 2, sat := true, opb := 0xBC }

def tW : FmtW := { c := cT, d := 0x12, sa := 0x34, sb := 0x56, sc := 0x78, m := 0x9ABC }

def tI : FmtI := { c := cT, d := 0x12, sa := 0x34, imm := 0x56789ABC }

def tM : FmtM := { c := cT, d := 0x12, sa := 0x34, sb := 0x56, sc := 0x78, str := 9, spc := 5, sz := 2, sco := 7, cp := 4 }

def tB : FmtB := { c := cT, d := 0x12, sa := 0x34, disp := 0x56789ABC }

def tC : FmtC :=
  { c := cT, d := 0x12, sa := 0x34, sb := 0x56, rsv := false, far := true, near := true, acq := true, rel := true
    scope := 0, mask := 0x9ABC }

def tX : FmtX :=
  { c := cT, d := 0x12, sa := 0x34, sb := 0x56, sc := 0x78, fa := 9, fb := 0xA, str := 0xB, xb := 0xC }

def tP : FmtP := { hi := 0x2B, n1 := 4, sd := 4, sa := 3, sb := 2, sc := 1, lo := 0x16789ABC }

/-- Every word of the list decodes to the instruction beside it, and that is written as the word. -/
def decodesTo (l : List (Dword × Instr)) : Bool := l.all fun p => decodeWord p.1 = p.2 && encode p.2 = some p.1

/-! ### Well-formed terms: an ill-formed term for each check (R53, R54, R227) -/

theorem test_wf_kmov : Instr.wellFormed (.kmov { fa0 with opb := 1 }) = false ∧
    Instr.wellFormed (.kmov fa0) = true := by decide

theorem test_wf_kmovFs : Instr.wellFormed (.kmovFs fa0) = false ∧
    Instr.wellFormed (.kmovFs { fa0 with opb := 1 }) = true := by decide

/-- The word is SADD, which R53 assigns; class 0 opcode 0x07 is one R54 names. -/
theorem test_wf_unassigned : Instr.wellFormed (.unassignedOpcode 0) = false ∧
    Instr.wellFormed (.unassignedOpcode 0x01C0_0000_0000_0000) = true := by decide

/-- An event has no word. -/
theorem test_wf_events1 : (([
    .chainHoldLimit ⟨0, 0, false⟩, .trackedResultWrite ⟨0, 0, false⟩ .ld, .writePerform 0, .tlbFill 0 0 0,
      .instructionCacheFill 0 0 0, .guestDecode ⟨0, 0, false⟩, .copyCommandStart 0 0 0, .copyTransfer 0 0 0,
      .copyCompletion 0 0 0, .combiningBufferTimeout 0 0, .predictorDecay 0, .parkedPollingReread ⟨0, 0, false⟩,
      .waiterWake 0, .segmentRefillGranule 0 0 0, .segmentWritebackGranule 0 0 0, .windowEnable 0 0,
      .windowDisable 0 0, .windowFlush 0 0, .windowFlushDone 0, .carveoutChange 0 0, .carveoutShrinkProceed 0,
      .carveoutChangeDone 0, .chrsvWrite 0 0, .shootdown 0, .counterAddWindowWrite 0 0 0, .hostHdmRead 0 0 0 false,
      .hostHdmWrite 0 0 0 [], .hostSnoopAnswer 0, .hostSnoop 0, .hostLost 0, .peerReadRequest 0 0 0 0 0,
      .peerWrite 0 0 0 [], .peerCounterAdd 0 0 0 0 none, .remoteResponse 0 false [], .flitReplay 0,
      .managementMessage (.loss 0), .timingMessage 0, .peerLost 0, .linkDown 0, .linkRetry 0 0, .queueEnable 0,
      .qverUpdate 0 0] : List Instr).all fun i => !i.wellFormed) = true := by
  decide

/-- An event has no word. -/
theorem test_wf_events2 : (([
    .reasonClear 0, .frontEndTake 0, .launchReady 0, .gangStagePlace 0 0 0, .launchComplete 0,
      .preemptionRequest (.os []), .forcedStop 0, .teamSave 0, .teamRestore 0 0, .yieldSwap 0, .teamExit 0,
      .faultRecordWrite 0, .disposition 0, .mchk 0 0, .eqsetWrite 0, .snapgo 0, .islandControl 0 0,
      .powerLimitThrottle 0, .keyDerive 0, .keyClear 0, .egressRelease 0, .almbaseWrite 0, .almack 0,
      .almanacPortSelect 0, .leaderTakeover 0, .servicePairMismatch 0, .packageReset 0, .attestationRequest [],
      .sealImport 0 0 [], .registerWrite .walker 0 0 0, .mgemmSequencerStep ⟨0, 0, false⟩, .matrixAcceptance ⟨0, 0,
      false⟩, .cxlCacheResponse 0 [], .servicePairAccess 0 (.load 0 8), .shootdownDone, .feed, .startTimeReached,
      .kernelReplace, .fehbWrite, .frontEndWatchdog, .snapshotLatch, .leaderHeartbeat] : List Instr).all fun i => !i.wellFormed) = true := by
  decide

/-! ### Decoding: each operation of the table of R53, its class and opcode as printed there, its other fields set apart -/

theorem test_decode_class0 : decodesTo [
    (0x002B_1234_5678_9ABC, .sadd tA), (0x04EB_1234_5678_9ABC, .sctz tA), (0x006B_1234_5678_9ABC, .ssub tA),
    (0x052B_1234_5678_9ABC, .spopc tA), (0x00AB_1234_5678_9ABC, .saddc tA), (0x056B_1234_5678_9ABC, .sbrev tA),
    (0x00EB_1234_5678_9ABC, .ssubb tA), (0x062B_1234_5678_9ABC, .smins tA), (0x012B_1234_5678_9ABC, .smul tA),
    (0x066B_1234_5678_9ABC, .sminz tA), (0x016B_1234_5678_9ABC, .smulhs tA), (0x06AB_1234_5678_9ABC, .smaxs tA),
    (0x01AB_1234_5678_9ABC, .smulhz tA), (0x06EB_1234_5678_9ABC, .smaxz tA), (0x022B_1234_5678_9ABC, .sand tA),
    (0x072B_1234_5678_9ABC, .scmp tA), (0x026B_1234_5678_9ABC, .sor tA), (0x076B_1234_5678_9ABC, .ssel tA),
    (0x02AB_1234_5678_9ABC, .sxor tA), (0x082B_1234_5678_9ABC, .smov tA), (0x02EB_1234_5678_9ABC, .sandn tA),
    (0x086B_1234_5678_9ABC, .smovi tI), (0x032B_1234_5678_9ABC, .sshl tA), (0x0A2B_1234_5678_9ABC, .sadd64 tA),
    (0x036B_1234_5678_9ABC, .sshrz tA), (0x0A6B_1234_5678_9ABC, .ssub64 tA), (0x03AB_1234_5678_9ABC, .sshrs tA),
    (0x0AAB_1234_5678_9ABC, .sshl64 tA), (0x03EB_1234_5678_9ABC, .srot tA), (0x0AEB_1234_5678_9ABC, .sshr64 tA),
    (0x042B_1234_5678_9ABC, .sbfx tA), (0x0B2B_1234_5678_9ABC, .smul64 tA), (0x046B_1234_5678_9ABC, .sbfi tA),
    (0x04AB_1234_5678_9ABC, .sclz tA)] = true := by decide

theorem test_decode_class1a : decodesTo [
    (0x202B_1234_5678_9ABC, .vadd tA), (0x2A2B_1234_5678_9ABC, .vfcvt tA), (0x206B_1234_5678_9ABC, .vsub tA),
    (0x2A6B_1234_5678_9ABC, .vcvti tA), (0x20AB_1234_5678_9ABC, .vmul tA), (0x2AAB_1234_5678_9ABC, .vfrnd tA),
    (0x20EB_1234_5678_9ABC, .vmulhs tA), (0x2AEB_1234_5678_9ABC, .vhfma tA), (0x212B_1234_5678_9ABC, .vmulhz tA),
    (0x2B2B_1234_5678_9ABC, .vhdot tA), (0x216B_1234_5678_9ABC, .vmad tA), (0x2C2B_1234_5678_9ABC, .vrcp tA),
    (0x222B_1234_5678_9ABC, .vand tA), (0x2C6B_1234_5678_9ABC, .vrsq tA), (0x226B_1234_5678_9ABC, .vor tA),
    (0x2CAB_1234_5678_9ABC, .vsqrt tA), (0x22AB_1234_5678_9ABC, .vxor tA), (0x2CEB_1234_5678_9ABC, .vexp2 tA),
    (0x22EB_1234_5678_9ABC, .vandn tA), (0x2D2B_1234_5678_9ABC, .vlog2 tA), (0x232B_1234_5678_9ABC, .vshl tA),
    (0x2D6B_1234_5678_9ABC, .vsin tA), (0x236B_1234_5678_9ABC, .vshrz tA), (0x2DAB_1234_5678_9ABC, .vcos tA),
    (0x23AB_1234_5678_9ABC, .vshrs tA), (0x2DEB_1234_5678_9ABC, .vtanh tA), (0x242B_1234_5678_9ABC, .vmins tA),
    (0x302B_1234_5678_9ABC, .vshfl tA), (0x246B_1234_5678_9ABC, .vminz tA), (0x306B_1234_5678_9ABC, .vshflx tA),
    (0x24AB_1234_5678_9ABC, .vmaxs tA), (0x30AB_1234_5678_9ABC, .vshflup tA), (0x24EB_1234_5678_9ABC, .vmaxz tA),
    (0x30EB_1234_5678_9ABC, .vshfldn tA)] = true := by decide

theorem test_decode_class1b : decodesTo [
    (0x252B_1234_5678_9ABC, .vabs tA), (0x312B_1234_5678_9ABC, .vreadl tA), (0x256B_1234_5678_9ABC, .vcmp tA),
    (0x316B_1234_5678_9ABC, .vwritel tA), (0x25AB_1234_5678_9ABC, .vsel tA), (0x31AB_1234_5678_9ABC, .vballot tA),
    (0x25EB_1234_5678_9ABC, .vmov tA), (0x31EB_1234_5678_9ABC, .vany tA), (0x262B_1234_5678_9ABC, .vbfx tA),
    (0x322B_1234_5678_9ABC, .vall tA), (0x266B_1234_5678_9ABC, .vbfi tA), (0x326B_1234_5678_9ABC, .vredadd tA),
    (0x26AB_1234_5678_9ABC, .vpopc tA), (0x32AB_1234_5678_9ABC, .vredmin tA), (0x26EB_1234_5678_9ABC, .vclz tA),
    (0x32EB_1234_5678_9ABC, .vredmax tA), (0x272B_1234_5678_9ABC, .vadd64 tA), (0x332B_1234_5678_9ABC, .vscan tA),
    (0x276B_1234_5678_9ABC, .vqdot tA), (0x342B_1234_5678_9ABC, .kand tA), (0x282B_1234_5678_9ABC, .vfadd tA),
    (0x346B_1234_5678_9ABC, .kor tA), (0x286B_1234_5678_9ABC, .vfsub tA), (0x34AB_1234_5678_9ABC, .kxor tA),
    (0x28AB_1234_5678_9ABC, .vfmul tA), (0x34EB_1234_5678_9ABC, .knot tA), (0x28EB_1234_5678_9ABC, .vfma tA),
    (0x352B_1234_5678_9ABC, .kmov tA), (0x292B_1234_5678_9ABC, .vfmin tA), (0x296B_1234_5678_9ABC, .vfmax tA),
    (0x29AB_1234_5678_9ABC, .vfcmp tA), (0x29EB_1234_5678_9ABC, .vfclass tA),
    (0x352B_1234_5678_9ABD, .kmovFs { tA with opb := 0xBD })] = true := by decide

theorem test_decode_class2 : decodesTo [
    (0x402B_1234_5678_9ABC, .ld tM), (0x422B_1234_5678_9ABC, .atom tM), (0x406B_1234_5678_9ABC, .st tM),
    (0x426B_1234_5678_9ABC, .red tM), (0x40AB_1234_5678_9ABC, .vld tM), (0x432B_1234_5678_9ABC, .pref tM),
    (0x40EB_1234_5678_9ABC, .vst tM), (0x436B_1234_5678_9ABC, .ipref tB), (0x412B_1234_5678_9ABC, .vldb tM),
    (0x442B_1234_5678_9ABC, .fence tC), (0x416B_1234_5678_9ABC, .vstb tM), (0x446B_1234_5678_9ABC, .fencew tC)] = true := by decide

theorem test_decode_class3 : decodesTo [
    (0x602B_1234_5678_9ABC, .cadd tC), (0x64AB_1234_5678_9ABC, .segdet tW), (0x606B_1234_5678_9ABC, .caddx tC),
    (0x64EB_1234_5678_9ABC, .segrel tW), (0x60AB_1234_5678_9ABC, .cwait tC), (0x652B_1234_5678_9ABC, .segfree tW),
    (0x60EB_1234_5678_9ABC, .cwait2 tC), (0x656B_1234_5678_9ABC, .segevict tW), (0x612B_1234_5678_9ABC, .ctest tC),
    (0x65AB_1234_5678_9ABC, .segqry tW), (0x616B_1234_5678_9ABC, .cset tC), (0x682B_1234_5678_9ABC, .cjoin tW),
    (0x642B_1234_5678_9ABC, .segnew tW), (0x686B_1234_5678_9ABC, .cleave tW), (0x646B_1234_5678_9ABC, .segatt tW)] = true := by decide

theorem test_decode_class4 : decodesTo [
    (0x802B_1234_5678_9ABC, .mzero tX), (0x822B_1234_5678_9ABC, .mstore tX), (0x806B_1234_5678_9ABC, .mldb tX),
    (0x826B_1234_5678_9ABC, .mepi tW), (0x80AB_1234_5678_9ABC, .mma tX), (0x82AB_1234_5678_9ABC, .mspill tX),
    (0x80EB_1234_5678_9ABC, .mmam tX), (0x82EB_1234_5678_9ABC, .mfill tX), (0x812B_1234_5678_9ABC, .mdist tX),
    (0x842B_1234_5678_9ABC, .mgemm tW), (0x816B_1234_5678_9ABC, .mtopk tX), (0x846B_1234_5678_9ABC, .mstat tW)] = true := by decide

theorem test_decode_class5 : decodesTo [
    (0xA02B_1234_5678_9ABC, .copy tW), (0xA0EB_1234_5678_9ABC, .copyw tW), (0xA06B_1234_5678_9ABC, .copyh tW),
    (0xA22B_1234_5678_9ABC, .qfence tC), (0xA0AB_1234_5678_9ABC, .copyg tW), (0xA26B_1234_5678_9ABC, .qstat tW)] = true := by decide

theorem test_decode_class6 : decodesTo [
    (0xC02B_1234_5678_9ABC, .br tB), (0xC22B_1234_5678_9ABC, .exit tW), (0xC06B_1234_5678_9ABC, .brc tB),
    (0xC26B_1234_5678_9ABC, .ppt tW), (0xC0AB_1234_5678_9ABC, .brdiv tB), (0xC2AB_1234_5678_9ABC, .waitc tI),
    (0xC0EB_1234_5678_9ABC, .join tW), (0xC2EB_1234_5678_9ABC, .yield tW), (0xC12B_1234_5678_9ABC, .call tB),
    (0xC32B_1234_5678_9ABC, .nop tW), (0xC16B_1234_5678_9ABC, .ret tW), (0xC42B_1234_5678_9ABC, .brk tI),
    (0xC1AB_1234_5678_9ABC, .jmpi tW), (0xC46B_1234_5678_9ABC, .trap tI)] = true := by decide

theorem test_decode_class7 : decodesTo [
    (0xE02B_1234_5678_9ABC, .rep tP), (0xE06B_1234_5678_9ABC, .srd tW), (0xE0AB_1234_5678_9ABC, .swr tW),
    (0xE12B_1234_5678_9ABC, .grow tW), (0xE16B_1234_5678_9ABC, .launch tW), (0xE22B_1234_5678_9ABC, .gsw tW),
    (0xE26B_1234_5678_9ABC, .gret tW), (0xE42B_1234_5678_9ABC, .halt tW)] = true := by decide
/-! ### Words the spec writes out, with their operands as the spec's assembly gives them -/

/-- R45 and the kernel of "Native encoding": the REP and the VADD it repeats; the chain example's VADD and VMAXS. -/
theorem test_words_chain : decodesTo [
    (0xE000_0C90_0000_0000, .rep { fp0 with n1 := 3, sd := 1, sa := 1 }),
    (0x2000_0800_0400_3000, .vadd { fa0 with d := 8, sa := 0, sb := 4, ty := 3 }),
    (0x2030_0080_C300_3000, .vadd { fa0 with c := ⟨true, true, 0, false⟩, sa := 0x80, sb := 0xC3, ty := 3 }),
    (0x2480_0480_8400_3000, .vmaxs { fa0 with d := 4, sa := 0x80, sb := 0x84, ty := 3 })] = true := by decide

/-- R132, "Encodings worked" of the memory instructions, R238, R245. -/
theorem test_words_memory : decodesTo [
    (0xA000_0008_0C10_40A0, .copy { fw0 with sa := 8, sb := 12, sc := 16, m := 0x40A0 }),
    (0x4240_0C06_03E1_1090, .red { fm0 with d := 12, sa := 6, sb := 3, sc := 0xE1, str := 1, sz := 2, sco := 2 }),
    (0x4080_0804_1000_0080, .vld { fm0 with d := 8, sa := 4, sb := 16, sz := 2 }),
    (0x2A30_0001_0084_C009, .vfcvt { fa0 with c := ⟨true, true, 0, false⟩, sa := 1, sc := 0x84, ty := 12, opb := 9 }),
    (0x3000_0704_0900_0002, .vshfl { fa0 with d := 7, sa := 4, sb := 9, opb := 2 })] = true := by decide

/-- The encodings of the matrix chapter, of R298 to R301, R167 and R348. -/
theorem test_words_engine : decodesTo [
    (0x8000_0000_0000_9000, .mzero { fx0 with fa := 9 }),
    (0x8040_0014_C500_0010, .mldb { fx0 with sa := 20, sb := 0xC5, str := 1 }),
    (0x8240_0018_0000_1000, .mepi { fw0 with sa := 24, m := 0x1000 }),
    (0x8200_001C_000C_0010, .mstore { fx0 with sa := 28, sc := 12, str := 1 }),
    (0x6000_0014_160A_0002, .cadd { fc0 with sa := 20, sb := 22, rel := true, scope := 2, mask := 2 }),
    (0x6080_0018_1A02_FFFF, .cwait { fc0 with sa := 24, sb := 26, scope := 2, mask := 0xFFFF }),
    (0x6100_0418_1A12_FFFF, .ctest { fc0 with d := 4, sa := 24, sb := 26, acq := true, scope := 2, mask := 0xFFFF }),
    (0x6440_2814_1600_0048, .segatt { fw0 with d := 40, sa := 20, sb := 22, m := 0x48 }),
    (0x2540_0185_4400_0006, .vcmp { fa0 with d := 1, sa := 0x85, sb := 0x44, opb := 6 }),
    (0xC000_0000_0000_0006, .br { fb0 with disp := 6 }),
    (0xC0C0_0000_0000_0000, .join fw0),
    (0xE100_0607_0000_0000, .grow { fw0 with d := 6, sa := 7 }),
    (0xE200_0014_C300_0000, .gsw { fw0 with sa := 20, sb := 0xC3 })] = true := by decide

/-- R3 gives the order of the bytes: a word is its eight bytes, least significant first, and fewer are no operation. -/
theorem test_decode_bytes :
    (match decodeBytes [0x00, 0x30, 0x00, 0x04, 0x00, 0x08, 0x00, 0x20, 0x55] with
      | .ok x => decide (x = (.vadd { fa0 with d := 8, sa := 0, sb := 4, ty := 3 }, [0x55]))
      | .error _ => false) = true ∧
    (match decodeBytes [1, 2, 3, 4, 5, 6, 7] with
      | .ok _ => false
      | .error e => decide (e = .truncated 7)) = true := by decide

/-! ### The state the tests stand on -/

/-- One team of one wave of 96 lanes on core 0, of context 1, its slot A at 0x1000 with nothing outstanding. -/
def base : State := State.reset.loadTeam

/-- A state whose team is changed. -/
def onTeam (g : Team → Team) (s : State) : State := { s with teams := s.teams.map g }

/-- A state whose waves are changed. -/
def onWave (g : Wave → Wave) : State → State := onTeam fun t => { t with waves := t.waves.map g }

/-- A state whose slot A is changed. -/
def onSlot (g : Slot → Slot) : State → State := onWave fun w => { w with a := g w.a }

/-- The slot in turn satisfies `p`. -/
def saw (s : State) (p : View → Bool) : Bool := s.view.any p

/-- The step answers a next state, and the slot in turn there satisfies `p`. -/
def thenSaw (o : Host.Outcome State Fault Refusal) (p : View → Bool) : Bool := match o with
  | .next t => t.view.any p
  | _ => false

/-- The step answers a next state that satisfies `p`. -/
def thenIs (o : Host.Outcome State Fault Refusal) (p : State → Bool) : Bool := match o with
  | .next t => p t
  | _ => false

/-- Scalar registers s0 to s3 hold these. -/
def withS (l : List Word) (s : State) : State :=
  onWave (fun w => { w with s := ((List.range l.length).zip l).foldl (fun c p => cellSet c p.1 p.2) w.s }) s

/-- The slot owns lanes 0 to 3 only and an expansion is under way. -/
def expanding : State := onSlot (fun p => { p with exp := some { words := [0, 0], idx := 0, len := 4, e := [], x := [] } }) base

/-- A result of the class is outstanding for v8, made by lane 0. -/
def withPend (n : Nat) (c : ResClass) (s : State) : State :=
  onSlot (fun p => { p with pend := List.replicate n (Pend.vec c 8 1 1 fun _ _ => 7) }) s

/-! ### Single steps, their results worked by hand from the rules -/

/-- R216, R217: 0xFFFFFFFF * 0xFFFFFFFF is 1 in its low half, a shift by 32 gives 0, and the PC goes on by 8 (R26). -/
theorem test_smul : thenSaw (exec (.smul { fa0 with d := 4, sa := 0, sb := 0 }) (withS [0xFFFFFFFF] base))
    (fun v => readSReg v.w v.p 4 = 1 && v.p.pc = 0x1008) = true := by decide

theorem test_sshl : thenSaw (exec (.sshl { fa0 with d := 4, sa := 0, sb := 1 }) (withS [0xFFFFFFFF, 32] base))
    (fun v => readSReg v.w v.p 4 = 0) = true := by decide

theorem test_sshrs : thenSaw (exec (.sshrs { fa0 with d := 4, sa := 0, sb := 1 }) (withS [0x80000000, 40] base))
    (fun v => readSReg v.w v.p 4 = 0xFFFFFFFF) = true := by decide

/-- R219: 0xFFFFFFFF + 0 + 1 is 0 with carry 1. -/
theorem test_saddc : thenSaw (exec (.saddc { fa0 with d := 4, sa := 0, sb := 0x84, sc := 1 }) (withS [0xFFFFFFFF, 1] base))
    (fun v => readSReg v.w v.p 4 = 0 && readSReg v.w v.p 5 = 1) = true := by decide

/-- R216 with SAT (R65): the greatest s32 plus 1 stays. -/
theorem test_sadd_sat :
    thenSaw (exec (.sadd { fa0 with d := 4, sa := 0, sb := 0xC1, ty := 3, sat := true }) (withS [0x7FFFFFFF] base))
      (fun v => readSReg v.w v.p 4 = 0x7FFFFFFF) = true := by decide

/-- R223's own figures: VABS of 0x80 without and with SAT, VADD.sat.z8 of 0xF0 and 0x20, VSUB.sat.z16 of 3 and 5. -/
theorem test_packed_values :
    narrowInt true false 8 128 = 0x80 ∧ narrowInt true true 8 128 = 0x7F ∧ narrowInt false true 8 (0xF0 + 0x20) = 0xFF ∧
      narrowInt false true 16 (3 - 5) = 0 := by decide

/-- R208: VADD of %lane and 3 writes lane 5 with 8. -/
theorem test_vadd : thenSaw (exec (.vadd { fa0 with d := 8, sa := 0x85, sb := 0xC3, ty := 3 }) base)
    (fun v => laneGet v.w.v 8 5 = 8 && laneGet v.w.v 8 95 = 98 && laneGet v.w.v 9 5 = 0) = true := by decide

/-- R224 and the divergence example: `vcmp.ltz k1, %lane, s4` sets the lanes below s4. -/
theorem test_vcmp :
    thenSaw (exec (.vcmp { fa0 with d := 1, sa := 0x85, sb := 0x40, opb := 6 }) (withS [3] base))
      (fun v => readKReg v.w 1 = 7) = true := by decide

/-- R232: 1.5 * 1.5 is 2.25 in FP32. -/
theorem test_vfmul : thenSaw (exec (.vfmul { fa0 with d := 1, sa := 0x40, sb := 0x40 }) (withS [0x3FC00000] base))
    (fun v => laneGet v.w.v 1 7 = 0x40100000) = true := by decide

/-- R241: the reciprocal of a zero is an infinity and DZ. -/
theorem test_vrcp_zero : specialFn .rcp 0x80000000 = (0xFF800000, { dz := true }) := by decide

/-- R340: `br` with a displacement of 6 goes to PC + 48. -/
theorem test_br : thenSaw (exec (.br { fb0 with disp := 6 }) base) (fun v => v.p.pc = 0x1030) = true := by decide

/-- R340: CALL leaves the address of the next operation in its pair. -/
theorem test_call : thenSaw (exec (.call { fb0 with d := 4, disp := 0xFFFFFFFF }) base)
    (fun v => v.p.pc = 0xFF8 && readSReg v.w v.p 4 = 0x1008 && readSReg v.w v.p 5 = 0) = true := by decide

/-- R341: lanes 0 to 2 taken; slot A goes on with the other 93 and slot B starts at the target. -/
theorem test_brdiv :
    thenSaw (exec (.brdiv { fb0 with sa := 1, disp := 3 }) (onWave (fun w => { w with k := [(1, 7)] }) base))
      (fun v => v.p.mask = ~~~7 && v.p.pc = 0x1008 && v.w.b.live && v.w.b.pc = 0x1018 && v.w.b.owned = 7) = true := by
  decide

/-- R54, R56: class 0 opcode 0x07 is unassigned, and the wave that issues it is killed. -/
theorem test_unassigned : thenIs (exec (.unassignedOpcode 0x01C0_0000_0000_0000) base)
    (fun t => t.teams.all fun x => x.waves.all fun w => w.status = .killed && !w.a.live) = true := by decide

/-- R49: a result is written by its event, and not before. -/
theorem test_tracked : thenSaw (exec (.trackedResultWrite ⟨0, 0, false⟩ .sf) (withPend 1 .sf base))
    (fun v => laneGet v.w.v 8 0 = 7 && laneGet v.w.v 8 1 = 0 && v.p.pend = []) = true := by decide

/-- R210, R55: SRD 0x18 reads the context. -/
theorem test_srd : thenSaw (exec (.srd { fw0 with d := 4, m := 0x18 }) base)
    (fun v => readSReg v.w v.p 4 = 1) = true := by decide

/-- A word set by withFetchWord is what the next step runs. -/
theorem test_step : thenSaw (step (State.reset.withFetchWord 64 0xC000_0000_0000_0006)) (fun v => v.p.pc = 0x1030) = true := by
  decide

/-! ### For every statement: a state and operands that meet its hypotheses, clause by clause -/

/-- Nothing is wrong with the ALU-class operation of this form. -/
def aluOk (s : State) (m : FmtA → AluForm) (f : FmtA) : Bool := saw s fun v => ((m f).aluCauses f v).isEmpty

/-- Nothing is wrong with the tracked operation of this form, and its class has room. -/
def lateOk (s : State) (m : FmtA → AluForm) (c : ResClass) (f : FmtA) : Bool :=
  saw s fun v => ((m f).lateCauses c f v).isEmpty && v.p.count c < 64

/-- ScalarOperationsComplete: each form at its lowest and highest destinations, a mask word, with NW, without a lane, and in
an expansion with a temporary as destination. -/
theorem test_witness_scalar :
    (([0, 59, 60, 62, 63].all fun d => aluOk base (fun _ => scalForm2) { fa0 with d := d, ty := 7 }) &&
      aluOk base (fun _ => scalForm1) { fa0 with d := 63, sa := 63 } &&
      aluOk base (fun _ => scalForm3) { fa0 with d := 63, sa := 63, sb := 0xC0, sc := 0xFF, ty := 3 } &&
      aluOk base (fun _ => scalForm2) { fa0 with c := ⟨true, true, 0, false⟩ } &&
      aluOk base (fun _ => scalForm2) { fa0 with c := ⟨false, false, 0, true⟩ } &&
      aluOk expanding (fun _ => scalForm2) { fa0 with d := 0x97 } &&
      saw base fun v => v.active ⟨false, false, 0, true⟩ = 0) = true := by decide

/-- ScalarWideOperationsComplete. -/
theorem test_witness_scalarWide :
    (([false, true].all fun sat => aluOk base (fun _ => { scalForm2 with sat := true }) { fa0 with ty := 7, sat := sat }) &&
      aluOk base (fun _ => { scalForm3 with d := .scal 2 }) { fa0 with d := 62 } &&
      ([0, 9].all fun c => aluOk base (fun _ => { scalForm2 with opb := intCondCauses }) { fa0 with opb := c }) &&
      (saw base fun v => (smoviForm.aluCauses (immAsA { fi0 with d := 63 }) v).isEmpty) &&
      ([0, 4, 8].all fun t => aluOk base (fun _ => scalForm64) { fa0 with d := 62, sa := 62, sb := 62, ty := t }) &&
      aluOk base (fun _ => { scalForm64 with b := srcS32 }) { fa0 with d := 62, sa := 0, sb := 63, ty := 4 }) = true := by
  decide

/-- ScalarAndPackedValueFunctions: the premises are ranges of indexes and widths. -/
theorem test_witness_values : (31 : Nat) < 32 ∧ (3 : Nat) < 32 / 8 ∧ (0 : Nat) < 32 / 32 := by decide

/-- VectorIntegerOperationsComplete: each form, at the highest registers, and a temporary. -/
theorem test_witness_vector :
    (aluOk base (fun _ => vecForm2) { fa0 with d := 63, sa := 63, sb := 0x7F } &&
      aluOk base (fun _ => { vecForm2 with b := .none }) { fa0 with sa := 0x85 } &&
      aluOk base (fun _ => { vecForm2 with c := srcV 32 }) { fa0 with d := 63, sa := 63, sb := 0x84, sc := 0x87, ty := 3 } &&
      aluOk base (fun _ => { vecForm2 with c := .pred }) { fa0 with sc := 7 } &&
      aluOk base (fun _ => { vecForm2 with d := .vec 2, a := .vec (.int 32) 2, b := .vec (.int 32) 2, tys := tys64 })
        { fa0 with d := 62, sa := 62, sb := 0, ty := 8 } &&
      aluOk expanding (fun _ => vecForm2) { fa0 with d := 0x97 } &&
      aluOk base (fun _ => vecForm2) { fa0 with c := ⟨false, true, 0, true⟩ }) = true := by decide

/-- PackedOperationsComplete: every type code the form takes, with and without SAT. -/
theorem test_witness_packed :
    ((tysPacked.all fun t => aluOk base (fun f => { vecForm2 with
        a := srcV (intCode f.ty.toNat).2, b := srcV (intCode f.ty.toNat).2, tys := tysPacked, sat := true })
        { fa0 with d := 63, ty := BitVec.ofNat 4 t, sat := true }) &&
      (tysPacked.all fun t => aluOk base (fun f => { vecForm2 with
        a := srcV (intCode f.ty.toNat).2, b := srcV (intCode f.ty.toNat).2, tys := tysPacked })
        { fa0 with d := 63, ty := BitVec.ofNat 4 t }) &&
      ([0, 3].all fun t => aluOk base (fun f => { vecForm2 with
        a := srcV (intCode f.ty.toNat).2, b := .none, tys := [0, 1, 2, 3], sat := true }) { fa0 with ty := t, sat := true }) &&
      ([1, 5].all fun t => aluOk base (fun _ => { vecForm2 with
        a := srcV 8, b := srcV 8, c := srcV 32, tys := [1, 5], sat := true }) { fa0 with ty := t, sat := true })) = true := by
  decide

/-- PredicateOperationsComplete: k0 and k7 as destinations. -/
theorem test_witness_predicates :
    (([0, 7].all fun d => aluOk base (fun _ => predForm2) { fa0 with d := d, sa := 7, sb := 0 }) &&
      aluOk base (fun _ => { predForm2 with b := .none }) { fa0 with d := 7 } &&
      aluOk base (fun _ => { predForm2 with a := .triple, b := .none, opb := fun x => if x = 1 then [] else [0x02] })
        { fa0 with d := 7, sa := 60, opb := 1 } &&
      aluOk base (fun _ => { vecForm2 with d := .pred, opb := intCondCauses }) { fa0 with d := 7, opb := 9 }) = true := by
  decide

/-- FloatArithmeticCompletes: each form in each rounding mode. -/
theorem test_witness_float :
    (([0, 1, 2, 3].all fun r =>
        aluOk base (fun _ => floatForm2) { fa0 with d := 63, ty := 9, rm := r, sat := true } &&
        aluOk base (fun _ => { floatForm2 with c := srcF .f32 }) { fa0 with rm := r }) &&
      ([10, 11].all fun t =>
        aluOk base (fun f => { floatForm2 with
          a := srcF (halfCode f.ty.toNat), b := srcF (halfCode f.ty.toNat), c := srcF (halfCode f.ty.toNat)
          tys := [10, 11] }) { fa0 with ty := t } &&
        aluOk base (fun f => { floatForm2 with
          a := srcF (halfCode f.ty.toNat), b := srcF (halfCode f.ty.toNat), c := srcF .f32, tys := [10, 11] })
          { fa0 with ty := t })) = true := by decide

/-- FloatCompareAndConvertComplete: every condition, every float type, conversions of both kinds. -/
theorem test_witness_floatConvert :
    (([0, 7].all fun c => aluOk base (fun _ => { floatForm2Exact with d := .pred, opb := floatCondCauses })
        { fa0 with d := 7, opb := c }) &&
      ([0, 9, 10, 11].all fun t =>
        aluOk base (fun f => { floatForm2Exact with
          a := srcF ((floatCode f.ty.toNat).getD .f32), b := .none, tys := [0, 9, 10, 11] }) { fa0 with ty := t } &&
        aluOk base (fun f => { floatForm2 with
          a := srcF ((floatCode f.ty.toNat).getD .f32), b := .none, tys := [0, 9, 10, 11], sat := false })
          { fa0 with ty := t, rm := 3 }) &&
      (let f := { fa0 with c := ⟨true, true, 0, false⟩, sa := 1, sc := 0x84, ty := 12, opb := 9 }
       (cvtTypes false f).isSome && aluOk base (cvtForm false) f) &&
      (let f := { fa0 with sa := 1, ty := 9, opb := 3 }
       (cvtTypes true f).isSome && aluOk base (cvtForm true) f)) = true := by decide

/-- FloatMinimumAndMaximum: two NaNs, one NaN on either side, ordered numbers, the two zeros. -/
theorem test_witness_floatMinMax :
    aluOk base (fun _ => floatForm2Exact) { fa0 with ty := 9 } = true ∧ (fread .f32 0x7FC00000).isNan = true ∧
      (fread .f32 0x3F800000).isNan = false ∧ fcompare 0x3F800000 0x40000000 = .lt := by decide

/-- FloatSpecialCasesAndCounts: an operand of each kind. -/
theorem test_witness_floatSpecial :
    (FVal.nan true).isNan = true ∧ (fread .f32 0x7F800001).isSnan = true ∧ fread .f32 0xFF800000 = .inf true ∧
      (match fread .f32 0 with | .fin false 0 _ => true | _ => false) = true ∧
      (match fread .f32 0xBF800000 with | .fin true (_ + 1) _ => true | _ => false) = true := by decide

/-- SpecialFunctionsComplete: nothing outstanding, and 63 results outstanding. -/
theorem test_witness_special :
    (lateOk base (fun _ => sfForm) .sf { fa0 with d := 63, ty := 9 } &&
      lateOk (withPend 63 .sf base) (fun _ => sfForm) .sf { fa0 with d := 0, sa := 0 }) = true := by decide

/-- CrossLaneOperationsComplete: each form, 32 and 64 bits wide where it has both. -/
theorem test_witness_crossLane :
    (([0, 1, 2, 3].all fun w => lateOk base shuffleForm .xl { fa0 with d := 62, sb := 1, opb := w }) &&
      ([0, 8].all fun t =>
        lateOk base (fun f => { d := .scal (moveGroup f), a := .vec (.int 32) (moveGroup f), b := srcS32, c := .none
                                tys := tysMove, rm := false, sat := false, opb := opbZero }) .xl
          { fa0 with d := 58, sa := 62, sb := 0xC0, ty := t } &&
        lateOk base (fun f => { d := .vec (moveGroup f), a := .scal (.int 32) (moveGroup f), b := srcS32, c := .none
                                tys := tysMove, rm := false, sat := false, opb := opbZero }) .xl
          { fa0 with d := 62, sa := 58, sb := 0xC0, ty := t }) &&
      lateOk base (fun _ => { predForm2 with d := .scal 4, b := .none }) .xl { fa0 with d := 56, sa := 7 } &&
      lateOk base (fun _ => { predForm2 with b := .none }) .xl { fa0 with d := 7, sa := 7 } &&
      ([3, 7, 9].all fun t => lateOk base (redFormOf true) .xl { fa0 with d := 59, sa := 63, ty := t }) &&
      ([3, 7, 9].all fun t => lateOk base (redFormOf false) .xl { fa0 with d := 59, sa := 63, ty := t }) &&
      ([0, 1, 2].all fun o => lateOk base
        (fun f => { redFormOf (decide (f.opb.toNat % 4 = 0)) f with d := .vec 1, opb := opbScan }) .xl
        { fa0 with d := 63, ty := 3, opb := o })) = true := by decide

/-- ShufflesAndScans: a premise on the fields alone. -/
theorem test_witness_scans : ({ fa0 with ty := 3 } : FmtA).ty ≠ 9 ∧ base.teams.length = 1 := by decide

/-- LegalFormsAndPendingRegisters: registers below 64 and nothing outstanding; a pending pair; results of one class. -/
theorem test_witness_legal :
    (saw base (fun v => v.p.pend.isEmpty) &&
      saw (withPend 2 .ld base) fun v => v.p.pending (.v 8) && !v.p.pending (.v 9) && v.p.pend.all fun q => q.cls = .ld) =
      true := by decide

/-- MaskWordsKeepOwnedLanes: each mask word, with the mask empty and lanes owned. -/
theorem test_witness_maskWords :
    (([60, 61, 62].all fun d => saw (onSlot (fun p => { p with mask := 0 }) base) fun v =>
      (smoviForm.aluCauses (immAsA { fi0 with d := d }) v).isEmpty && v.p.owned &&& guardLanes v.w c0 ≠ 0) &&
      saw base fun v => (dstCauses v (some .ld) (.scal 1) 60).contains 0x03) = true := by decide

/-- UnassignedOpcodesKillTheWave: a first kill of the context and a later one; in a REP or not. -/
theorem test_witness_unassigned :
    (saw base (fun v => v.p.exp.isNone && v.t.core < 768 && v.w.place < 16 &&
        (base.ctx? v.t.ctx).any fun c => !c.ended && !c.err.getLsbD 63) &&
      (({ base with ctxs := base.ctxs.map fun c => { c with err := 1 <<< 63 } } : State).ctx? 1).any fun c => c.err.getLsbD 63) =
      true := by decide

/-- IllegalOperationsAreKilledForTheLeastCause: two things wrong at once with each of the three. -/
theorem test_witness_illegal :
    (saw base (fun v => decide ((scalForm2.aluCauses { fa0 with ty := 1, opb := 1 } v).length = 2)) &&
      saw base (fun v => decide (vecForm2.aluCauses { fa0 with ty := 1, opb := 1 } v ≠ [])) &&
      saw base fun v => decide (controlCauses c0 v ++ allZeroCauses { fw0 with d := 1, m := 1 } ≠ [])) = true := by decide

/-- TrackedResultsWaitAndAreWritten: a full class; a vector, a scalar and a predicate result first of their class. -/
theorem test_witness_tracked :
    (saw (withPend 64 .sf base) (fun v => v.p.count .sf = 64 && (sfForm.lateCauses .sf fa0 v).isEmpty) &&
      saw (withPend 64 .xl base) (fun v => v.p.count .xl = 64 && ((shuffleForm fa0).lateCauses .xl fa0 v).isEmpty) &&
      (withPend 2 .ld base).find ⟨0, 0, false⟩ ≠ none &&
      (takePend .xl [Pend.scal .ld 4 1 none, Pend.scal .xl 56 4 (some 5)]).isSome &&
      (takePend .xl [Pend.pred .xl 7 1 1]).isSome) = true := by decide

/-- Virtual pages of context 1, by a page table at physical 0: from 0 a page of 2 MiB readable, writable and executable at
physical 0x200000, from 0x200000 a counter page, readable and writable, at 0x400000 (R117, R118); 64 KiB of scratchpad, 64 bytes of lane slice. -/
def mapped : State :=
  onTeam (fun t => { t with scratchSize := 65536, laneBytes := 64 })
    { base with mem := [(0, 0x01), (1, 0x10), (0x1000, 0x01), (0x1001, 0x20), (0x2000, 0x01), (0x2001, 0x30),
      (0x3000, 0x1F), (0x3002, 0x20), (0x3008, 0x2F), (0x300A, 0x40)] }

/-- The accesses of a memory operation pass their checks and wait for nothing. -/
def ready (s : State) (v : View) (n : Nat) (k : Access) (spc : Nat) (ok : Bool) (ps : List Part) : Bool :=
  let r := resolve s v spc n k ok ps
  r.2.bad.isEmpty && (r.2.good.all fun g => (targetNeeds r.1 (decide (k ≠ .load)) n g.t).isEmpty &&
      (touchNeeds r.1 v.t.core g.t n).isEmpty) &&
    (unanswered r.1 (.slot v.sl) r.2.good).isEmpty && !ps.isEmpty

/-- Only lanes 0 to 3 are active. -/
def few (s : State) : State := onSlot (fun p => { p with mask := 15 }) s

/-- RetiringAndRepeating: an instance that is not the last and the last; a word of an expansion; a REP whose word is cached
and one whose word is not; an open chain of 128. -/
theorem test_witness_rep :
    (saw ((base.pokeWord 0 1 0x1008 0x2000_0800_0400_3000)) (fun v =>
        ((repeatedWord (base.pokeWord 0 1 0x1008 0x2000_0800_0400_3000) v).map
          (repCauses { fp0 with n1 := 3, sd := 1, sa := 1 })) = some []) &&
      saw base (fun v => (repeatedWord base v).isNone) &&
      saw expanding (fun v => v.p.rep.isNone && v.p.exp.isSome) &&
      (onSlot (fun p => { p with chainOpen := true, chainLen := 128 }) base).find ⟨0, 0, false⟩ ≠ none) = true := by decide

/-- BranchesComplete: each form, with a lane and without, inside an expansion and outside. -/
theorem test_witness_branches :
    (saw base (fun v => (controlCauses c0 v ++ fieldZero fb0.d ++ fieldZero fb0.sa).isEmpty) &&
      saw expanding (fun v => (controlCauses c0 v ++ fieldZero fb0.d ++ srcCauses v false (.sreg 1) 63).isEmpty) &&
      saw base (fun v => (controlCauses ⟨false, false, 1, false⟩ v ++ srcCauses v false (.sreg 2) 62).isEmpty &&
        v.active ⟨false, false, 1, false⟩ = 0) &&
      saw base fun v => (dstCauses v none (.scal 2) 62).isEmpty && v.p.exp.isNone) = true := by decide

/-- DivergentBranchesComplete: no lane taken, all, some with the other slot free and some with it live, a full stack. -/
theorem test_witness_brdiv :
    (([(0, 1), (1, 1)].all fun x => saw (onWave (fun w => { w with k := [(1, 7)] }) base) fun v =>
        (brdivCauses { fb0 with sa := x.1 } v).isEmpty && v.p.pend.isEmpty && v.p.exp.isNone && v.p.rep.isNone) &&
      saw (onWave (fun w => { w with b := { w.b with live := true } }) base) (fun v => (v.w.slot true).live) &&
      saw (onWave (fun w => { w with stack := List.replicate 32 { kind := .unif, ownerB := false, pc := 0, lanes := 0 } }) base)
        fun v => v.w.stack.length = 32) = true := by decide

/-- JoinsAndExitsComplete: each kind of top entry, the other slot parked or not; EXIT of some lanes and of all. -/
theorem test_witness_joins :
    (([.unif, .defer, .merge, .split].all fun k => saw
        (onWave (fun w => { w with stack := [{ kind := k, ownerB := false, pc := 0x2000, lanes := 1 }] }) base) fun v =>
        (bareCauses c0 ++ allZeroCauses fw0).isEmpty && (topOwned v.w.stack false).any (fun e => e.kind = k) &&
          (v.w.slot true).pend.isEmpty && (topOwned v.w.stack true).isNone) &&
      saw (onWave (fun w => { w with b := { w.b with live := true, status := .parkedJoin } }) base)
        (fun v => (v.w.slot true).live && (v.w.slot true).status = .parkedJoin) &&
      saw base (fun v => (controlCauses c0 v).isEmpty && v.p.owned &&& ~~~v.active c0 = 0) &&
      saw (few base) fun v => v.p.owned &&& ~~~v.active c0 ≠ 0) = true := by decide

/-- WaitsHintsAndPreemptionPointsComplete: a class at its threshold and above it; a pre-emption request. -/
theorem test_witness_waits :
    (saw (withPend 3 .ld base) (fun v => v.p.count .ld ≤ (3 : BitVec 32).toNat % 64 && v.p.count .xl ≤ 0) &&
      saw (withPend 3 .ld base) (fun v => decide ((2 : BitVec 32).toNat % 64 < v.p.count .ld)) &&
      saw base (fun v => v.t.preempt = none && (controlCauses c0 v ++ allZeroCauses fw0).isEmpty) &&
      saw (onTeam (fun t => { t with preempt := some 0 }) expanding) fun v => v.t.preempt ≠ none && v.p.exp ≠ none) =
      true := by decide

/-- TrapsStopTheSlotWithTheirCode: with a lane and without. -/
theorem test_witness_traps :
    (saw base (fun v => (controlCauses c0 v ++ fieldZero fb0.d ++ fieldZero fb0.sa).isEmpty && v.active c0 ≠ 0 &&
        (base.ctx? v.t.ctx).map Context.ended ≠ some true) &&
      saw base fun v => v.active ⟨false, false, 1, false⟩ = 0) = true := by decide

/-- LoadsCompleteAndStoreNothing: each load, in .core, in .glob and in a lane slice, each size. -/
theorem test_witness_loads :
    (([0, 1, 2, 3, 4].all fun z => let f := { fm0 with d := 8, sa := 0, sb := 0x84, spc := 1, sz := z }
        saw mapped fun v => (memCauses f 3 (.scal (.int 32) 1) v ++
            dstCauses v (some .ld) (.scal (szGroup f.sz.toNat)) f.d).isEmpty && v.p.count .ld < 64 &&
          ready mapped v (szBytes f.sz.toNat) .load 1 true [scalarPart v f]) &&
      (let f := { fm0 with d := 8, sa := 0, sb := 0x84, sz := 2 }
       saw (few mapped) fun v => (memCauses f 4 (.vec (.int 32) 1) v ++ dstCauses v (some .ld) (.vec 1) f.d).isEmpty &&
         ready (few mapped) v 4 .load 0 true (gatherParts v f)) &&
      (let f := { fm0 with d := 8, sa := 0, sb := 0xC4, spc := 4, sz := 2 }
       saw (few mapped) fun v => (memCauses f 4 (.scal (.int 32) 1) v ++ dstCauses v (some .ld) (.vec 1) f.d).isEmpty &&
         ready (few mapped) v 4 .load 4 true (blockParts v f))) = true := by decide

/-- LoadsCompleteAndStoreNothing, its frame: nothing rests and nothing is in flight. -/
theorem test_witness_loadFrame : mapped.comb = [] ∧ mapped.writes = [] ∧ mapped.find ⟨0, 0, false⟩ ≠ none := by decide

/-- StoresComplete: each store. -/
theorem test_witness_stores :
    (([0, 4].all fun z => let f := { fm0 with d := 8, sa := 0, sb := 0x84, spc := 1, sz := z }
        saw mapped fun v => (memCauses f 3 (.scal (.int 32) 1) v ++ dataCauses v (.scal (szGroup f.sz.toNat)) f.d).isEmpty &&
          ready mapped v (szBytes f.sz.toNat) .store 1 true [scalarPart v f]) &&
      (let f := { fm0 with d := 8, sa := 0, sb := 0x84, sz := 2 }
       saw (few mapped) fun v => (memCauses f 4 (.vec (.int 32) 1) v ++ dataCauses v (.vec 1) f.d).isEmpty &&
         ready (few mapped) v 4 .store 0 true (gatherParts v f)) &&
      (let f := { fm0 with d := 8, sa := 0, sb := 0xC4, spc := 1, sz := 3 }
       saw (few mapped) fun v => (memCauses f 4 (.scal (.int 32) 1) v ++ dataCauses v (.vec 2) f.d).isEmpty &&
         ready (few mapped) v 8 .store 1 true (blockParts v { f with sb := 0x84 }))) = true := by decide

/-- AccessAddressesAndChecks: the last byte that fits and the first that does not, aligned and misaligned. -/
theorem test_witness_addresses :
    (saw mapped (fun v => 65532 + 4 ≤ v.t.scratchSize && v.t.scratchSize < 65533 + 4 && 60 + 4 ≤ v.t.laneBytes &&
        v.t.laneBytes < 61 + 4 && (attachedSeg mapped v.t (upperHalf 0x1_0000_0000)).isNone &&
        upperHalf 0x1_0000_0000 ≠ 0) &&
      canonical 0x0100_0000_0000_0000 = false && canonical 0x00FF_FFFF_FFFF_FFFF && canonical 0xFF00_0000_0000_0000) =
      true := by decide

/-- FaultingAccessesStopTheSlot: LD and ST out of range of .core, VLD and VST with lanes of both kinds. -/
theorem test_witness_faulting :
    (([Access.load, Access.store].all fun k => let f := { fm0 with d := 8, sa := 0, sb := 0x84, spc := 1, sz := 2 }
        let s := onTeam (fun t => { t with scratchSize := 0 }) mapped
        saw s fun v => let r := resolve s v 1 4 k true [scalarPart v f]
          (memCauses f 3 (.scal (.int 32) 1) v ++ dstCauses v (some .ld) (.scal 1) f.d ++ dataCauses v (.scal 1) f.d).isEmpty &&
            scalarActive v f.c && r.2.good.isEmpty && r.2.bad.length = 1 && r.1.writes.isEmpty) &&
      ([Access.load, Access.store].all fun k => let f := { fm0 with d := 8, sa := 0, sb := 0x85, spc := 4, sz := 0 }
        let s := onTeam (fun t => { t with laneBytes := 2 }) (few mapped)
        saw s fun v => let r := resolve s v 4 1 k true (gatherParts v f)
          (memCauses f 4 (.vec (.int 32) 1) v ++ dstCauses v (some .ld) (.vec 1) f.d ++ dataCauses v (.vec 1) f.d).isEmpty &&
            r.2.good.length = 2 && r.2.bad.length = 2 && (unanswered r.1 (.slot v.sl) r.2.good).isEmpty)) = true := by decide

/-- AtomicsAndReductions: ATOM and RED in .core and .glob, a location of each kind, both widths. -/
theorem test_witness_atomics :
    (([0, 1].all fun p => let f := { fm0 with d := 8, sa := 0, sb := 0x84, sc := 0xE0, spc := p, sz := 2, sco := 2 }
        saw (few mapped) fun v => (atomCauses f 10 v ++ dstForm v.inExp false (.vec (atomGroup f)) f.d.toNat ++
            dstCauses v (some .ld) (.vec 1) f.d).isEmpty && !atomWait f v && (atomCauses f 8 v ++ dataCauses v (.vec 1) f.d).isEmpty &&
          ready (few mapped) v 4 .atomic p.toNat false (gatherParts v f)) &&
      mapped.writes.isEmpty && mapped.hostLines.isEmpty && mapped.comb.isEmpty && (mapped.team? 0).isSome &&
      (Target.scratch 0 0 ≠ Target.phys 0 0) && decide ((2 : Nat) ^ 32 - 1 < 2 ^ 32)) = true := by decide

/-- A page of 2 MiB at virtual 0 that lies in host memory, in the TLBs, the line PREF names held by an L2 or not. -/
def hostPage (held : Bool) : State :=
  { base with
    tlb := [{ level2 := false, unit := 0, ctx := 1, page := 0, size := 0x200000, pa := hostBase, pte := 0x20009F, leaf := 0x3000
              rd := true, wr := true, ex := true, ct := false, ckp := false, dirty := true, mt := 1 }]
    hostMem := if held then [lineOf hostBase] else [] }

/-- FencesAndPrefetchesComplete: with a lane and without; a fence after a write in a stream it names; PREF of a line of host
memory that is held and of one that is not. -/
theorem test_witness_fences :
    (saw mapped (fun v => (fenceCauses { fc0 with mask := 0xFFFF } v).isEmpty && v.active c0 ≠ 0 && inMask 0xFFFF 0) &&
      saw mapped (fun v => (noNwCauses c0 ++ guardCauses v c0).isEmpty && v.active ⟨false, false, 1, false⟩ = 0) &&
      ([true, false].all fun held => saw (hostPage held) fun v => let f := { fm0 with sa := 0, sb := 0x84 }
        let a := (scalarPart v f).addr &&& ~~~127
        (memCauses f 0 (.scal (.int 32) 1) v).isEmpty && v.active f.c ≠ 0 && canonical a && (fabricOf (hostPage held) v.t.ctx a).isNone &&
          (xlateNeeds (hostPage held) v.t.core v.t.ctx a false).isEmpty &&
          (match globTarget (hostPage held) v.t.core v.t.ctx a 128 .load with
            | (s2, .ok (.phys pa 1)) => decide (s2.hostMem.contains (lineOf pa) = held) && s2.hostLines = []
            | _ => false))) = true := by decide

/-- A slot's write of one byte of physical memory, at a level. -/
def aWrite (id level : Nat) (deps : List Nat) : PWrite :=
  { id := id, seat := .of (.slot ⟨0, 0, false⟩) 0, stream := some 0, lane := some 0, bytes := [(.phys 0x200000, 7)]
    level := level, deps := deps }

/-- Two writes in flight that meet, the earlier one further on. -/
def inFlight : State := { mapped with writes := [aWrite 0 5 [], aWrite 1 4 [0]], nextWrite := 2 }

/-- The writes in flight are in order. -/
def writesOk (s : State) : Bool :=
  decide (s.writes.map PWrite.id).Nodup && (s.writes.all fun w => w.id < s.nextWrite && decide (w.level < 6)) &&
    decide (s.writes.Pairwise fun x y => x.meets y = true → y.level ≤ x.level)

/-- WritesAreOrdered, WritesAndTranslationsAreCompletedByEvents: one write that may go on, one everywhere next, one that is
blocked; a walk that checks out and one that fails; an entry that has rested long enough and one that has not. -/
theorem test_witness_writes :
    (writesOk inFlight && (aWrite 0 5 []).level = 5 && (aWrite 1 4 [0]).level < 5 &&
      writesOk { mapped with writes := [aWrite 0 4 [], aWrite 1 4 [0]], nextWrite := 2 } &&
      (match walk mapped 1 0x1000 with
        | (_, .ok e) => decide (e.ctx = 1 ∧ e.page ≤ 0x1000 ∧ 0x1000 < e.page + e.size)
        | _ => false) &&
      (match walk mapped 1 0x8000_0000 with
        | (_, .error e) => decide (e.cause = 5)
        | _ => false) &&
      ([0, 2048].all fun c => coreClock { mapped with islands := mapped.islands.map fun x => { x with clock := c } } 0 = c)) =
      true := by decide

/-- The state a step leaves, where it answers one. -/
def after (o : Host.Outcome State Fault Refusal) : State := match o with
  | .next t => t
  | _ => base

/-- s0:s1 name the counter at virtual 0x200000, s2:s3 hold the value or threshold 5. -/
def counting : State := withS [0x200000, 0, 5, 0] mapped

/-- The counter SA names is here and can be acted on. -/
def ctrOk (s : State) (f : FmtC) (chg remoteOk : Bool) : Bool := saw s fun v => match ctrNamed s v (readS64 v f.sa) chg remoteOk with
  | (s1, .ok (.here c)) => (ctrNeeds s1 chg c).isEmpty && !ctrPoisoned s1 c && v.active f.c ≠ 0 && !ctrWaited s1 c
  | _ => false

/-- The code of context 1 at 0x1000 is privileged. -/
def withService (s : State) : State := { s with ctxs := s.ctxs.map fun c => { c with svlo := 0x1000, svhi := 0x2000 } }

/-- CountersComplete: each operation, with its condition met and with REL; no lane; CSET in privileged code and outside. -/
theorem test_witness_counters :
    (let f := { fc0 with sa := 0, sb := 2, rel := true, mask := 0xFFFF }
     ctrOk counting f true true &&
      saw counting (fun v => (ctrCauses f true false true v ++ zeroCauses f.d).isEmpty && !(readS64 v f.sb).msb) &&
      saw counting (fun v => (ctrCauses { f with d := 8 } true true true v ++ dstCauses v (some .ld) (.scal 2) 8).isEmpty &&
        v.p.count .ld < 64) &&
      (ctrOk counting { f with rel := false } false false) &&
      saw counting (fun v => (ctrCauses { f with d := 8, rel := false } false true false v ++
        dstCauses v (some .ld) (.scal 1) 8).isEmpty) &&
      saw (onSlot (fun p => { p with svcOk := true }) (withService counting)) (fun v =>
        (onSlot (fun p => { p with svcOk := true }) (withService counting)).privileged v.t v.p &&
          (ctrCauses f true false false v ++ zeroCauses f.d).isEmpty) &&
      ctrOk counting f true false &&
      saw counting (fun v => !counting.privileged v.t v.p && v.p.exp.isNone && !v.p.replay &&
        v.active ⟨false, false, 1, false⟩ = 0)) = true := by decide

/-- CounterAddsAreAtomicAndReachWaiters: a counter in memory with a waiter at its threshold; the two sides of 2 to the 63. -/
theorem test_witness_adds :
    writesOk mapped = true ∧ mapped.hostLines = [] ∧ reached 5 5 = true ∧ reached 4 5 = false ∧
      reached 0x8000_0000_0000_0004 5 = true ∧ reached 0x8000_0000_0000_0005 5 = false := by decide

/-- s0:s1 and s2:s3 name two counters, s4:s5 and s6:s7 hold the thresholds 0 and 5. -/
def counting2 : State := withS [0x200000, 0, 0x200008, 0, 0, 0, 5, 0] mapped

/-- The state with one waiter of slot A at the first counter. -/
def parked (polling hit : Bool) (thr : Dword) : State :=
  { onSlot (fun p => { p with status := .parkedCtr false }) mapped with
    waiters := [{ seq := 0, sl := ⟨0, 0, false⟩, ctx := 1, ctr := .phys 0x400000, thr := thr, scope := 2, polling := polling
                  hit := hit }] }

/-- WaitsParkAndWake: CWAIT reached and not; CWAIT2 of one reached and none, in both modes; a marked entry, one not marked,
and a polling one with its threshold reached and not. -/
theorem test_witness_waitsParked :
    (ctrOk counting { fc0 with sa := 0, sb := 2 } false false && ctrOk counting { fc0 with sa := 0, sb := 0x84 } false false &&
      saw counting (fun v => (ctrCauses { fc0 with sa := 0, sb := 2 } false true false v).isEmpty &&
        !reached 0 (readS64 v 2) && reached 0 (readS64 v 0x84)) &&
      ([0, 1].all fun d => saw counting2 fun v => (noNwCauses c0 ++ guardCauses v c0 ++
          ctrFlagCauses { fc0 with d := d } false true false ++ srcCauses v false (.sreg 4) 0 ++
          srcCauses v false (.sreg 4) 4).isEmpty &&
        (match ctrBoth counting2 v ((readQuad v 0).extractLsb' 0 64) ((readQuad v 0).extractLsb' 64 64) with
          | (s1, .ok (c, e)) => (ctrNeeds s1 false c).isEmpty && (ctrNeeds s1 false e).isEmpty &&
            reached (ctrValue s1 c) ((readQuad v 4).extractLsb' 0 64) && !reached (ctrValue s1 e) ((readQuad v 4).extractLsb' 64 64)
          | _ => false)) &&
      ((parked false true 0).find ⟨0, 0, false⟩).any (fun v => v.p.status = .parkedCtr false) &&
      reached (ctrValue (parked true false 0) (.phys 0x400000)) 0 &&
      !reached (ctrValue (parked true false 5) (.phys 0x400000)) 5) = true := by decide

/-- s0 to s3 hold the name 5 and the backing address 0x1000, s4 a size of 2 granules. -/
def naming : State := withS [5, 0, 0x1000, 0, 2] (onTeam (fun t => { t with scratchSize := 0 }) mapped)

/-- The state with segment 5 made and the team attached; s0:s1 hold its name, s6 its handle. -/
def attached : State :=
  let s := after (exec (.segnew { fw0 with d := 8, sa := 0, sb := 4 }) naming)
  onTeam (fun t => { t with waves := t.waves.map fun w => { w with s := cellSet w.s 6 0x10000, a := { w.a with pend := [] } } }) s

/-- Segment 5 in a state, with the team attached or not. -/
def withSeg (g : Segment → Segment) (att : Bool) : State :=
  onTeam (fun t => { t with attach := if att then t.attach else [] }) { attached with segs := attached.segs.map g }

/-- SegmentOperationsComplete, the making of a segment: each way SEGNEW answers. -/
theorem test_witness_segnew :
    (let f := { fw0 with d := 8, sa := 0, sb := 4 }
     ([naming, withS [0, 0, 0x1000, 0, 2] naming, attached,
        onTeam (fun t => { t with attach := List.replicate 16 (9, 9) }) naming].all fun s => saw s fun v =>
        (segCauses f 0x0007 2 4 (some .ld) v ++ plainRegCauses f.sb ++ srcCauses v false (.sreg 1) f.sb).isEmpty &&
          v.p.count .ld < 64 && v.active f.c ≠ 0) &&
      (attached.segment? 1 5).isSome && (naming.segment? 1 5).isNone &&
      saw naming fun v => !runTooBig (stripeFor naming v.t false) 2 &&
        (match roomFor naming (clusterOf v.t.core) (stripeFor naming v.t false) 2 with | .now _ => true | _ => false)) = true := by
  decide

/-- SegmentOperationsComplete, the other operations: a name found and not found, a handle attached and not, a segment free,
pinned, and dirty. -/
theorem test_witness_segments :
    (let f := { fw0 with d := 8, sa := 0, sb := 0 }
     saw (withSeg id false) (fun v => (segCauses f 0x0008 2 2 (some .ld) v ++ zeroCauses f.sb).isEmpty &&
        (segFor (withSeg id false) v.t (readS64 v 0).toNat).any (fun g => g.state = .resident && g.cluster = clusterOf v.t.core) &&
        !v.t.attachedTo 5) &&
      saw attached (fun v => (segCauses { f with sa := 6 } 0 1 1 none v).isEmpty && v.activeTo f.c f.d ≠ 0 &&
        (v.t.attach.find? fun p => p.2 = readS32 v 6).isSome && (v.t.attach.find? fun p => p.2 = readS32 v 7).isNone) &&
      saw attached (fun v => (segCauses f 0 1 2 none v ++ zeroCauses f.sb).isEmpty && (segFor attached v.t 5).any (fun g =>
        pinCount attached g ≤ 1 && !segWaited attached g && pinCount attached g ≠ 0) && (segFor attached v.t 6).isNone) &&
      saw (withSeg id false) (fun v => (segCauses { f with sb := 2 } 0x00F0 1 2 none v ++ plainRegCauses 2 ++
        srcCauses v false (.sreg 2) 2).isEmpty && (segFor (withSeg id false) v.t 5).any fun g =>
        pinCount (withSeg id false) g = 0 && !g.stuck && g.dirty ≠ []) &&
      saw attached (fun v => (segCauses f 0 4 2 (some .ld) v ++ zeroCauses f.sb).isEmpty)) = true := by decide

/-- SharingGroupAndSegmentEngine: not a member and a member, no segment over the core and one; a granule to arrive, the last
one; a granule to write back, the last one and not the last. -/
theorem test_witness_sharing :
    (([false, true].all fun m => saw (onTeam (fun t => { t with member := m }) mapped) fun v =>
        (groupCauses { fw0 with d := 8 } v).isEmpty && v.activeTo c0 8 ≠ 0 && !groupPinned mapped v.t && v.t.member = m) &&
      saw (withSeg (fun g => { g with level1 := true, stripe := [0] }) true)
        (fun v => groupPinned (withSeg (fun g => { g with level1 := true, stripe := [0] }) true) v.t) &&
      (let s := withSeg (fun g => { g with state := .refilling, missing := [0] }) true
       (s.segment? 1 5).any fun x => x.missing.contains 0 && x.adds.isEmpty &&
        (match ctxTarget s 1 x.backing 4096 .copySrc with
          | (s1, .ok (.phys pa mt)) => (spanNeeds s1 false 4096 (.phys pa mt)).isEmpty && !spanPoisoned s1 4096 (.phys pa mt) &&
              s1.segment? 1 5 = some x
          | _ => false)) &&
      ([[0], [0, 1]].all fun l =>
        let s := withSeg (fun g => { g with state := .evicting, dirty := l }) false
        (s.segment? 1 5).any fun x => x.dirty.contains 0 && x.poison.isEmpty &&
        (match ctxTarget s 1 x.backing 4096 .copyDst with
          | (s1, .ok (.phys pa mt)) => (spanNeeds s1 true 4096 (.phys pa mt)).isEmpty && writesOk s1 && s1.writes.isEmpty &&
              s1.segment? 1 5 = some x
          | _ => false))) = true := by decide

/-- An accumulator of zeros. -/
def acc0 (tyI : Bool) : Acc := { tyI := tyI, res := false, sat := false, el := [] }

/-- A valid weight-store slot of zeros. -/
def wslot0 : WSlot :=
  { v := true, win := false, sk := 0, stf := 0, window := 0, ks := 0, roff := [], lines := [], scale := [] }

/-- A team with an accumulator of each type and eight slots; s0 to s3 hold a tile at .core 0 with rows 128 bytes apart, s4:s5
the address 0x2000 of a descriptor of one tile, one step, FA and FB e4m3; an image word stands after row 31. -/
def engine : State := withS [0, 0, 128, 0, 0x2000] (onTeam (fun t => { t with
  accs := [acc0 false, acc0 true], wslots := List.replicate 8 wslot0
  scratch := [(4099, 0xA5), (0x2028, 128), (0x202C, 128), (0x2030, 1), (0x2032, 1), (0x2036, 1), (0x203B, 0xCC)] }) mapped)

/-- The operation can be tried at once and its fields are right. -/
def mxOk (causes : View → List Nat) (names : View → List Nat × List Nat) : Bool :=
  saw engine fun v => (mxCtlCauses c0 v ++ causes v).isEmpty && v.active c0 ≠ 0 && !mxBusy v true (names v)

/-- The engine's reads answered. -/
def answered {α : Type} (r : Mx α) : Bool := match r.2 with
  | .ok _ => true
  | .error _ => false

/-- MatrixOperationsComplete: each operation; steps of floats and of integers, with a mask quad and without. -/
theorem test_witness_matrix :
    (mxOk (fun _ => mzeroCauses { fx0 with d := 1, fa := 3 }) (fun _ => ([1], [])) &&
      mxOk (fun v => zeroCauses 0 ++ srcCauses v false (.plain 4) 0 ++ srcCauses v false mxScalar 0xC7) (fun _ => ([], [7])) &&
      (saw engine fun v => (readS32 v 0xC7).toNat < v.t.wslots.length && (tileOf (readQuad v 0)).readOk &&
        answered (engLines engine v 1 0 ((List.range 32).map ((tileOf (readQuad v 0)).lineRef 8)))) &&
      mxOk (fun v => stepCauses { fx0 with sb := 0xC7, fa := 12, fb := 12 } v ++ keepCauses { fx0 with fa := 12 })
        (fun _ => ([0], [7])) &&
      mxOk (fun v => stepCauses { fx0 with sb := 0xC7, fa := 12, fb := 12 } v ++ maskCauses v false 0 ++ maskCauses v true 0x87)
        (fun _ => ([0], [7])) &&
      (saw engine fun v => wslot0.fits engine 12 && scaleTyOk 0 12 && !mxInt 12 && maskDepth (readQuad v 4) ≤ mxDepth 12 &&
        (readQuad v 4).extractLsb' 96 32 = 0 &&
        answered (engLines engine v 1 0 ((List.range 32).map ((tileOf (readQuad v 0)).lineRef (mxDepth 12 / 32))))) &&
      mxOk (fun v => accCauses 0 ++ topkDst { fx0 with sa := 8 } v ++ maskCauses v true 0x87) (fun _ => ([0], [])) &&
      mxOk (fun v => srcCauses v false (.plain 2) 6) (fun _ => ([], [])) &&
      (saw engine fun v => answered (readEpi (onTeam (fun t => { t with scratch := [(0x13, 0x90)] }) engine) v 0 0)) &&
      mxOk (fun v => imageCauses fx0 v) (fun _ => ([0], []))) = true := by decide

/-- The byte of `.core` may be accessed and is in place (CoreByteReady). -/
def byteOk (s : State) (v : View) (k : Access) (a : Dword) : Bool :=
  match teamTarget s v.t 1 a 1 1 k with
  | .ok t => (targetNeeds s (decide (k ≠ .load)) 1 t).isEmpty && (decide (k ≠ .load) || !targetPoisoned s 1 t)
  | .error _ => false

theorem byteOk_ready {s : State} {v : View} {k : Access} {a : Dword} (h : byteOk s v k a = true) : CoreByteReady s v k a := by
  unfold byteOk at h
  split at h
  · rename_i t ht
    simp only [Bool.and_eq_true, List.isEmpty_iff, Bool.or_eq_true, decide_eq_true_eq, Bool.not_eq_true'] at h
    exact ⟨t, ht, h.1, fun hk => h.2.resolve_left fun hn => hn hk⟩
  · exact absurd h (by decide)

/-- Runs of `.core` can be read (CoreReadable). -/
def readOk (s : State) (v : View) (str : BitVec 4) (rs : List Run) : Bool :=
  (rs.all fun r => decide (r.n ≤ 256) && decide (r.addr.toNat % r.al = 0) &&
    (List.range r.n).all fun j => byteOk s v .load (r.addr + BitVec.ofNat 64 j)) &&
    (beforeNeeds s v str [none] (coreLocs s v rs)).isEmpty

theorem readOk_readable {s : State} {v : View} {str : BitVec 4} {rs : List Run} (h : readOk s v str rs = true) :
    CoreReadable s v str rs := by
  simp only [readOk, Bool.and_eq_true, List.all_eq_true, List.mem_range, decide_eq_true_eq, List.isEmpty_iff] at h
  exact ⟨fun r hr => ⟨(h.1 r hr).1.1, (h.1 r hr).1.2, fun j hj => byteOk_ready ((h.1 r hr).2 j hj)⟩, h.2⟩

/-- Rows of 128 bytes from `.core` 0 on. -/
def rows (n : Nat) : List Run := (List.range n).map fun i => { addr := BitVec.ofNat 64 (128 * i), n := 128, al := 1 }

/-- MatrixOperationsComplete: the lines of a tile can be read. -/
theorem test_witness_matrixLines : saw engine (fun v => readOk engine v 0 (rows 32)) = true := by decide

/-- The runs of MLDB, of a step of e4m3 rows, and of MFILL are such rows; MFILL's last is the image word. -/
theorem test_witness_matrixRuns :
    saw engine (fun v => let d := tileOf (readQuad v 0)
      (((List.range 32).flatMap fun i => (d.lineRef 8 i).runs) = rows 32) &&
        (((List.range 32).flatMap fun i => (d.lineRef (mxDepth 12 / 32) i).runs) = rows 32) &&
        (((List.range 32).map fun i => ({ addr := d.row i, n := 128, al := 1 } : Run)) = rows 32) &&
        readOk engine v 0 [{ addr := d.row 32, n := 16, al := 4 }] && d.imageOk && d.readOk && d.sk = 0 &&
        imageStateOk (coreNum engine v (d.row 32) 16) [] && coreNum engine v (d.row 32) 16 = 0xA5000000 &&
        readOk (onTeam (fun t => { t with scratch := [(0x13, 0x90)] }) engine) v 0 [{ addr := 0, n := 64, al := 1 }] &&
        epiOk (BitVec.ofNat 512 (coreNum (onTeam (fun t => { t with scratch := [(0x13, 0x90)] }) engine)
          { v with t := { v.t with scratch := [(0x13, 0x90)] } } 0 64))) = true := by decide

/-- MatrixOperationsComplete: an image can be written, and each kind of MSTAT. -/
theorem test_witness_matrixImages :
    (saw engine (fun v =>
      let d := tileOf (readQuad v 0)
      d.imageOk && d.base.toNat % 4 = 0 && ((((List.range 32).flatMap fun i => placed (d.row i) (imageRow (acc0 false) i)) ++
        placed (d.row 32) (bytesOf 0xA5000000 16)).all fun x => byteOk engine v .store x.1)) &&
      ([0x0001, 0x0047, 0x0081].all fun m => let f := { fw0 with d := 8, m := m }
        mxOk (fun v => plainRegCauses f.d ++ dstCauses v (some .ld) (.scal 4) f.d ++
          srcCauses v false (if mstatKind f = 2 then mxScalar else .none) f.sa ++
          (if mstatKind f = 3 then [0x04] else [])) (fun _ => mstatNames f) &&
        saw engine fun v => !mgRuns v (mstatNames f)) &&
      saw engine fun v => v.t.accs.length = 2 && v.t.wslots.length = 8) = true := by decide

/-- MatrixElementsAndImages: 32 rows and columns; an element in residue form; an engine write whose pieces resolve. -/
theorem test_witness_matrixElements :
    ((List.range 32).map (fun i => (i, OpLine.int [])) |>.map Prod.fst) = List.range 32 ∧
      (BitVec.ofNat 32 (tri24Add 5 0) : Word) = BitVec.ofNat 32 5 ∧
      (saw engine fun v => (engWalks engine v 1 .store [{ addr := 0, n := 16, al := 4 }]).isEmpty &&
        (match engPieces v 1 .store [{ addr := 0, n := 16, al := 4 }] engine with
        | (s1, .ok ps) => (ps.flatMap fun p => spanNeeds s1 true p.2 p.1).isEmpty && s1.comb.isEmpty
        | _ => false)) = true := by decide

/-- The MGEMM of the descriptor at 0x2000, as its slot holds it. -/
def run0 : MgRun :=
  { desc := BitVec.ofNat 1024 (128 * 2 ^ 320 + 128 * 2 ^ 352 + 0x10001 * 2 ^ 384 + 0x10000 * 2 ^ 416 + 0xCC000000 * 2 ^ 448), epi := none
    m := 0, n := 0, k := 0, row := 0, store := false, str := 0, started := true }

/-- The state in which slot A is inside that MGEMM. -/
def inMgemm (g : MgRun → MgRun) : State := onSlot (fun p => { p with status := .mgemm, mg := some (g run0) }) engine

/-- MatrixStoresWaitsAndSequences: MSTORE of a row and a column; MGEMM planned; a step row and a stored row; the row after the
last; an operation that waits and can be accepted. -/
theorem test_witness_matrixSequences :
    (mxOk (fun v => accCauses 0 ++ srcCauses v false (.plain 4) 0 ++ maskCauses v true 0x87) (fun _ => ([0], [])) &&
      (saw engine fun v => (match boundEpi engine v false with
        | (s1, .ok (e, _)) => answered (storeRows s1 v 0 1 e (acc0 false) 0 128 0 [0, 31] [0, 31]) &&
            answered (epiVectors engine v 0 e 0 [31])
        | _ => false)) &&
      (saw engine fun v => (mgemmCauses { fw0 with sa := 4 } v).isEmpty && !v.p.mxst.getLsbD 63 &&
        answered (mgemmPlan { fw0 with sa := 4 } (readS64 v 4) v engine)) &&
      ((inMgemm fun r => { r with row := 1 }).find ⟨0, 0, false⟩).any (fun v => answered (mgStepRow v { run0 with row := 1 } engine) &&
        run0.m < mgMt run0.desc && !({ run0 with row := 1 } : MgRun).atPoint) &&
      ((inMgemm fun r => { r with store := true, row := 31 }).find ⟨0, 0, false⟩).any (fun v =>
        answered (mgStoreRow v { run0 with store := true, row := 31 } engine)) &&
      ((inMgemm fun r => { r with m := 1 }).find ⟨0, 0, false⟩).any (fun v => mgMt run0.desc ≤ 1 && mgCaddr run0.desc = 0 && v.p.live &&
        v.p.exp.isNone && v.p.rep.isNone && !mxBusy v false (mgNames { run0 with m := 1, row := 1 })) &&
      ((onSlot (fun p => { p with status := .accepting 0x8000_0100_0000_3000 ⟨0, 0, 0⟩ }) engine).find ⟨0, 0, false⟩).any (fun v =>
        (match mxBody (decodeWord 0x8000_0100_0000_3000) with
          | some (_, body) => answered (body ⟨0, 0, 0⟩ v engine)
          | none => false) && !mxBusy v false ([1], []))) = true := by decide

/-- MatrixStoresWaitsAndSequences, what is read and written: one element of MSTORE with the default block; the block after one
that was bound before; the descriptor at 0x2000; a line of the sequencer; slots that neither hold an accumulator. -/
theorem test_witness_matrixReads :
    (saw engine (fun v => v.p.epi.isNone && v.p.epib = 0 && (let d := tileOf (readQuad v 0)
        let e := epiDefault false
        let n := epiSize (epiOty e)
        !d.rsv && d.sk = 0 && d.soff = 0 && d.base.toNat % n = 0 && d.stride % n = 0 && n = 4 &&
          maskBits (BitVec.ofNat 32 (epiField e 0x20 0 32) &&& 1) = [0] && maskBits (BitVec.ofNat 32 (epiField e 0x24 0 32) &&& 0) = [] &&
          (vecRuns (decide (epiBias e ≠ 0)) (epiBias e) (epiSize (epiBty e)) 0 [0]).isEmpty &&
          (vecRuns (decide (epiSmd e = 2)) (epiScla e) 4 0 [0]).isEmpty && (List.range 4).all fun j => byteOk engine v .store (BitVec.ofNat 64 j))) &&
      saw engine (fun v => let a : Dword := 0x2000
        a.toNat % 128 = 0 && readOk engine v 0 [{ addr := a, n := 128, al := 1 }] &&
        (let d := BitVec.ofNat 1024 (coreNum engine v a 128)
         d = run0.desc && mgAcc d < 2 && mgSlot0 d + mgNt d * mgKs d ≤ 8 && mgOk d && mgOutOk d 4 && 0 < mgMt d && 0 < mgNt d && 0 < mgKs d &&
           d.extractLsb' 0x100 64 = (0 : Dword) && mgField d 0x38 20 2 = 0 && mgStart v.p.mxst = (0, 0, 0, 0, false)) &&
        readOk engine v 0 run0.lineRef.runs && wslot0.fits engine (mgFb run0.desc) && (!(acc0 false).tyI) && !mxInt (mgFa run0.desc)) &&
      ((inMgemm id).find ⟨0, 0, false⟩).any (fun v => v.p.status = .mgemm && v.t.preempt.isNone && !mxBusy v true run0.names) &&
      ((onTeam (fun t => { t with preempt := some 0 }) (inMgemm id)).find ⟨0, 0, false⟩).any (fun v =>
        v.t.preempt.isSome && v.p.exp.isNone && !mxBusy v true run0.names) &&
      ((onSlot (fun p => { p with status := .accepting 0x8280_0000_0000_0000 ⟨128 * 2 ^ 64, 0, 0⟩ }) engine).find ⟨0, 0, false⟩).any (fun v =>
        (match decodeWord 0x8280_0000_0000_0000 with | .mspill f => f.d = 0 | _ => false) && !mxBusy v false ([0], []) && v.p.live &&
          (tileOf (128 * 2 ^ 64)).imageOk && (tileOf (128 * 2 ^ 64)).row 32 = 4096 && byteOk engine v .store 4096)) = true := by decide

/-- A copy of two rows of 64 bytes from .core 0 to .core 0x1000. -/
def cmd0 : CopyCmd :=
  { id := 0, core := 0, team := 0, ctx := 1, sl := ⟨0, 0, false⟩, op := 0, qid := 0, m := 0x480
    words := [0, 0, 0x1000, 0, 64, 2, 64, 64, 0, 0, 0, 0], rowIdx := 0, fenceMask := 0, status := .queued, trs := [], after := [] }

/-- The state with that command, changed, at the front of queue 0. -/
def copying (g : CopyCmd → CopyCmd) : State := { mapped with cmds := [g cmd0] }

/-- CopyCommandsComplete: each transfer, room and none; QFENCE with nothing outstanding and with a command; QSTAT. -/
theorem test_witness_copyCommands :
    (([(0, 0x480), (1, 0x400), (2, 0x480), (3, 0)].all fun x => saw mapped fun v =>
        (copyCauses { fw0 with sa := 0, sb := 4, sc := 8, m := x.2 } x.1 v).isEmpty) &&
      queueUsed mapped 0 0 = 0 && queueUsed { mapped with cmds := List.replicate 32 cmd0 } 0 0 = 32 &&
      (copying id).cmds.all (fun c => c.qid < 8) &&
      saw mapped (fun v => (noNwCauses c0 ++ guardCauses v c0 ++ (if (0xE000 : BitVec 16).extractLsb' 0 13 = 0 then [] else [0x02]) ++
        dstCauses v (some .ld) (.scal 2) 58).isEmpty)) = true := by decide

/-- CopyEventsComplete: a descriptor that passes and one that does not; a transfer that ends a row and one that does not; a
completion without a counter and with one. -/
theorem test_witness_copyEvents :
    ((frontCmd (copying id) 0 0 0).isSome && (placedTeam (copying id) 0).any (fun t => copyDescOk (copying id) t cmd0) &&
      (placedTeam (copying id) 0).any (fun t => !copyDescOk (copying id) t { cmd0 with words := List.replicate 12 0 }) &&
      ([0, 1].all fun row => let c := { cmd0 with status := .active row 0 }
        let s := copying fun _ => c
        (placedTeam s 0).any fun t =>
          let da := c.dbase + BitVec.ofNat 64 row * (c.word 7).signExtend 64
          let sa := c.sbase + BitVec.ofNat 64 row * (c.word 6).signExtend 64
          let len := min c.rowb (128 - da.toNat % 128)
          row < c.rows && sa.toNat % 128 + len ≤ 128 && len = 64 &&
          (match teamTarget s t c.sspc sa len 1 .copySrc, teamTarget s t c.dspc da len 1 .copyDst with
            | .ok src, .ok dst => (spanNeeds s false len src).isEmpty && (spanNeeds s true len dst).isEmpty &&
                !spanPoisoned s len src && s.comb.isEmpty && !leavesPackage s dst
            | _, _ => false)) &&
      (let c := { cmd0 with status := .active 2 0 }
       decide (c.rowCount ≤ 2) && decide (c.caddr = (0 : Dword))) &&
      (let c := { cmd0 with words := [0, 0, 0x1000, 0, 64, 2, 64, 64, 0x200000, 0, 1, 0], status := .active 2 0 }
       let s := copying fun _ => c
       (placedTeam s 0).any fun t => match copyCounter s t c with
        | (s1, .ok (.here p)) => (ctrNeeds s1 true p).isEmpty && !ctrPoisoned s1 p
        | _ => false)) = true := by decide

/-- Privileged code of context 1, with personality 1 loaded. -/
def service : State := onSlot (fun p => { p with svcOk := true })
  (withService { counting with ctxs := counting.ctxs.map fun c => { c with pers := [(0, true, 0)] } })

/-- SystemOperationsComplete: SRD of %lane, of a plain special and of %mxst; SWR of each number; GROW that fits and that does
not; LAUNCH on a queue that is not enabled; GSW and GRET to a loaded personality and one that is not; HALT. -/
theorem test_witness_system :
    (([(0, 63), (0x18, 60), (0x20, 56), (0x28, 58)].all fun x => saw base fun v =>
        (srdCauses { fw0 with d := x.2, m := x.1 } v).isEmpty && v.activeTo c0 x.2 ≠ 0) &&
      ([0x20, 0x28, 0x30, 0x32, 0x38].all fun m => saw service fun v =>
        (swrCauses { fw0 with sa := 0, m := m } service v).isEmpty && v.active c0 ≠ 0) &&
      saw base (fun v => (growCauses { fw0 with d := 8, sa := 0xC1 } v).isEmpty &&
        (base.launch? v.t.launch).any fun l => mayGrow l 1 && mayGrow l 0xFFFFFFFD && !mayGrow l 0xFFFFFFFE) &&
      saw counting (fun v => (launchCauses { fw0 with d := 8, sa := 4, sb := 0xC0 } v).isEmpty &&
        (match globTarget ((counting.putSlot v v.p).release v 0xFFFF 4) 0 1 (readS64 v 4) 128 .load with
          | (s1, .ok x) => (spanNeeds s1 false 128 x).isEmpty && !spanPoisoned s1 128 x &&
              decide ((launchAppend s1 v 0 []).2 = .got 2)
          | _ => false)) &&
      saw service (fun v => (bareCauses c0 ++ srcCauses v false (.sreg 2) 0 ++ regOrImmCauses v false 0xC1).isEmpty &&
        persLoaded service v.t.ctx 0 && persLoaded service v.t.ctx 1 && !persLoaded service v.t.ctx 2 &&
        !([50, 51, 63].any fun n => v.p.pending (.s n))) &&
      saw service fun v => (bareCauses c0 ++ regOrImmCauses v true 0x84).isEmpty && service.privileged v.t v.p &&
        (service.ctx? v.t.ctx).any fun c => !c.ended) = true := by decide

/-- A cached translation of 2 MiB from a virtual page to physical 0x200000. -/
def tlb0 (page : Nat) : TlbEntry :=
  { level2 := false, unit := 0, ctx := 1, page := page, size := 0x200000, pa := 0x200000, pte := 0x20009F, leaf := 0x3000
    rd := true, wr := true, ex := true, ct := false, ckp := false, dirty := true, mt := 0 }

/-- Code of context 1 at 0x1000, with its tags at TBASE 1 and these eight bytes as its tag; both pages are in the TLB. -/
def coded (b0 b1 b2 b3 b4 b5 b6 b7 : Byte) : State :=
  { base with
    ctxs := base.ctxs.map fun c => { c with tbase := 1 }
    tlb := [tlb0 0, tlb0 0x10000000000000]
    mem := [(0x200100, b0), (0x200101, b1), (0x200102, b2), (0x200103, b3), (0x200104, b4), (0x200105, b5), (0x200106, b6)
      , (0x200107, b7)] }

theorem eight_bytes (l : List Byte) (h : l.length = 8) :
    l = [byteAt l 0, byteAt l 1, byteAt l 2, byteAt l 3, byteAt l 4, byteAt l 5, byteAt l 6, byteAt l 7] := by
  match l, h with
  | [_, _, _, _, _, _, _, _], _ => rfl

theorem coded_line (b0 b1 b2 b3 b4 b5 b6 b7 : Byte)
    (h : codeTag 0 0x1000 (List.replicate 128 0) = [b0, b1, b2, b3, b4, b5, b6, b7]) :
    ∃ s1 bits, codeRead (coded b0 b1 b2 b3 b4 b5 b6 b7) 0 1 (codeLine 0x1000) .fetch = (s1, .ok bits) := by
  have hg : (globTarget (coded b0 b1 b2 b3 b4 b5 b6 b7) 0 1 (codeLine 0x1000) 128 .fetch).2 = .ok (.phys 0x201000 0) := rfl
  have hr : (readTag (globTarget (coded b0 b1 b2 b3 b4 b5 b6 b7) 0 1 (codeLine 0x1000) 128 .fetch).1 0
      { Context.blank 1 with tbase := 1 } (codeLine 0x1000)).2 = .ok ([], [b0, b1, b2, b3, b4, b5, b6, b7]) := rfl
  have hw : xlateNeeds (coded b0 b1 b2 b3 b4 b5 b6 b7) 0 1 (codeLine 0x1000) false ++
      xlateNeeds (coded b0 b1 b2 b3 b4 b5 b6 b7) 0 1 (tagAddr { Context.blank 1 with tbase := 1 } (codeLine 0x1000)) false = [] := by
    simp only [List.append_eq_nil_iff]
    exact ⟨rfl, rfl⟩
  refine ⟨_, _, codeRead_ok (c := { Context.blank 1 with tbase := 1 }) (t := .phys 0x201000 0) rfl (by decide) (by decide)
    (by decide) (Prod.ext rfl hg) rfl rfl (Prod.ext rfl hr) hw ?_⟩
  exact h

/-- FencesAndPrefetchesComplete: a line that IPREF names, not in the cache, whose tag is that of its bytes. -/
theorem test_witness_ipref : ∃ s v s1 bits, s.view = some v ∧ v.active c0 ≠ 0 ∧ iline s 0 1 (codeLine (v.p.branchTarget 0)) = none ∧
    codeRead s 0 1 (codeLine (v.p.branchTarget 0)) .fetch = (s1, .ok bits) := by
  have hv : base.view.any (fun v => decide (v.active c0 ≠ 0 ∧ v.p.branchTarget 0 = 0x1000)) = true := by decide
  rcases hb : base.view with _ | v
  · simp [hb] at hv
  rw [hb, Option.any_some, decide_eq_true_eq] at hv
  have view (b0 b1 b2 b3 b4 b5 b6 b7 : Byte) : (coded b0 b1 b2 b3 b4 b5 b6 b7).view = base.view ∧
      iline (coded b0 b1 b2 b3 b4 b5 b6 b7) 0 1 (codeLine 0x1000) = none := ⟨rfl, rfl⟩
  obtain ⟨s1, bits, h⟩ := coded_line _ _ _ _ _ _ _ _ (eight_bytes _ (codeTag_length 0 0x1000 (List.replicate 128 0)))
  rw [← hv.2] at h view
  exact ⟨_, v, s1, bits, (view ..).1.trans hb, hv.1, (view ..).2, h⟩

/-- CodeIsCachedAndGuestsAreExpanded: a line whose tag is that of its bytes. -/
theorem test_witness_codeLine : ∃ s s1 bits, codeRead s 0 1 (codeLine 0x1000) .fetch = (s1, .ok bits) :=
  ⟨_, coded_line _ _ _ _ _ _ _ _ (eight_bytes _ (codeTag_length _ _ _))⟩

/-- An image of one plane that matches every word and names template 0; with the escape matching every word. -/
def image0 (escape : Bool) : Image := [(6, 0x80)] ++ (if escape then [(0x20, 1)] else []) ++ [(0x93, 0xA0)]

/-- Slot A in personality 1, its image in the decoder and its line in the instruction cache; operations the decoder holds. -/
def guest (escape : Bool) (ops : List DecOps) : State :=
  let s := onSlot (fun p => { p with pers := 1 }) { service with
    decs := [{ cluster := 0, ctx := 1, pers := 1, gen := 0, image := image0 escape, bad := none, used := 0 }], decOps := ops }
  s.installLine 0 1 0x1000 0

/-- CodeIsCachedAndGuestsAreExpanded: a line that fails its check; a guest word that names a template, the escape, and a
word whose operations the decoder holds. -/
theorem test_witness_guest :
    ((match codeRead base 0 1 0x1000 .fetch with | (_, .bad _) => true | _ => false) && State.reset.view.isNone &&
      ((guest false []).find ⟨0, 0, false⟩).any (fun v => v.issues && v.p.pers ≠ 0 && v.p.exp.isNone &&
        (guest false []).decOps = [] && cachedHalf (guest false []) 0 1 v.p.pc = some 0 &&
        (match imageFor (guest false []) 0 1 1 0 0 with
          | (s1, .ok m) => decide (searchGuest m 0 (some 0) = .plane 0) && (imgPlane m 0).tp && (imgPlane m 0).tpl = 0 &&
              (cachedHalf s1 0 1 (v.p.pc + 4)).isSome &&
              (match templateOf 0 with
                | some tp => let ds := (List.range 8).map (imgField m 0)
                    (substAll m ds (ds.map fun d => extractField d 0) tp).isSome
                | none => false)
          | _ => false)) &&
      (match imageFor (guest true []) 0 1 1 0 0 with
        | (_, .ok m) => decide (searchGuest m 0 (some 0) = .escape 4)
        | _ => false) &&
      (let y : DecOps := { cluster := 0, ctx := 1, pers := 1, gen := 0, va := 0x1000, words := [0], len := 4 }
       ((guest false [y]).find ⟨0, 0, false⟩).any fun v => v.issues && v.p.pers ≠ 0 && v.p.exp.isNone &&
        cachedHalf (guest false [y]) 0 1 v.p.pc = some 0 &&
        (guest false [y]).decOps.find? (fun x => x.same (decKey (guest false [y]) v [] 0)) = some y)) = true := by decide

/-- The context of that guest, with code tags. -/
def guestCtx : Context := { Context.blank 1 with tbase := 1, svlo := 0x1000, svhi := 0x2000, pers := [(0, true, 0)] }

/-- That guest, its page and its tags' page in the TLB, with these eight bytes as the tag of the template's line. -/
def guestCoded (ds : List DecSlot) (b0 b1 b2 b3 b4 b5 b6 b7 : Byte) : State :=
  { base with
    teams := (guest false []).teams
    icache := (guest false []).icache
    decs := ds
    ctxs := [guestCtx]
    tlb := [tlb0 0, tlb0 0x10000000000000]
    mem := [(0x200308, b0), (0x200309, b1), (0x20030A, b2), (0x20030B, b3), (0x20030C, b4), (0x20030D, b5), (0x20030E, b6)
      , (0x20030F, b7)] }

theorem guest_template (ds : List DecSlot) (b0 b1 b2 b3 b4 b5 b6 b7 : Byte)
    (h : codeTag 0 0x3080 (List.replicate 128 0) = [b0, b1, b2, b3, b4, b5, b6, b7]) :
    ∃ s2 b, templateLine (guestCoded ds b0 b1 b2 b3 b4 b5 b6 b7) 0 1 0 0 = (s2, .ok b) := by
  have hg : (globTarget (guestCoded ds b0 b1 b2 b3 b4 b5 b6 b7) 0 1 0x3080 128 .load).2 = .ok (.phys 0x203080 0) := rfl
  have hr : (readTag (globTarget (guestCoded ds b0 b1 b2 b3 b4 b5 b6 b7) 0 1 0x3080 128 .load).1 0 guestCtx 0x3080).2 =
      .ok ([], [b0, b1, b2, b3, b4, b5, b6, b7]) := rfl
  have hw : xlateNeeds (guestCoded ds b0 b1 b2 b3 b4 b5 b6 b7) 0 1 0x3080 false ++
      xlateNeeds (guestCoded ds b0 b1 b2 b3 b4 b5 b6 b7) 0 1 (tagAddr guestCtx 0x3080) false = [] := by
    simp only [List.append_eq_nil_iff]
    exact ⟨rfl, rfl⟩
  refine ⟨_, _, codeRead_ok (c := guestCtx) (t := .phys 0x203080 0) (a := 0x3080) rfl (by decide) (by decide) (by decide)
    (Prod.ext rfl hg) rfl rfl (Prod.ext rfl hr) hw ?_⟩
  exact h

/-- CodeIsCachedAndGuestsAreExpanded: that guest's slot, its image in the decoder, and the line of the template it names. -/
theorem test_witness_template : ∃ (ds : List DecSlot) (g : List DecSlot → State) (s2 : State) (b : BitVec 1024),
    (g []).teams = (guest false []).teams ∧ (g []).icache = (guest false []).icache ∧ (g []).decOps = [] ∧
    (∃ s0 ds0, s0 = g ds0 ∧ imageFor s0 0 1 1 0 0 = (g ds, .ok (image0 false))) ∧
    templateLine (g ds) 0 1 0 0 = (s2, .ok b) := by
  let d : DecSlot := { cluster := 0, ctx := 1, pers := 1, gen := 0, image := image0 false, bad := none, used := 0 }
  obtain ⟨s2, b, h⟩ := guest_template [{ d with used := base.tick }] _ _ _ _ _ _ _ _
    (eight_bytes _ (codeTag_length 0 0x3080 (List.replicate 128 0)))
  exact ⟨_, fun ds => guestCoded ds _ _ _ _ _ _ _ _, s2, b, rfl, rfl, rfl, ⟨_, [d], rfl, rfl⟩, h⟩


/-! ### Witnesses: the front end, launches and teams -/

/-- Bytes at places of a zero record of `n` bytes. -/
def rec_ (n : Nat) (l : List (Nat × Byte)) : List Byte := (List.range n).map fun i => ((l.find? fun p => p.1 = i).map Prod.snd).getD 0

/-- Cells of a list of bytes from an address, without its zeros. -/
def cellsAt (a : Nat) (l : List Byte) : List (Nat × Byte) := (l.zipIdx.filter fun p => decide (p.1 ≠ 0)).map fun p => (a + p.2, p.1)

/-- A LAUNCH record of kernel 0: grid 1 by 1 by 1, 1 team of 1 wave, 1 stage (R326, R327). -/
def launchRec : List Byte :=
  rec_ 128 [(3, 1), (4, 1), (8, 1), (0xA, 1), (0xC, 0), (0xE, 0x42), (0xF, 0x08)]

/-- A FEED record of 2 entries of 16 bytes into a ring of 4 (R329). -/
def feedRec : List Byte := rec_ 128 [(0, 2), (3, 2), (4, 1), (6, 2), (9, 0x10), (0x11, 0x18), (0x1A, 0x20), (0x22, 0x20), (0x20, 8)]

/-- A kernel descriptor with entry 0x1000, 1 team of 1 wave, 1 stage (R388), and its table entry (R387). -/
def kernelRec : List Byte := rec_ 64 [(1, 0x10), (0xA, 0x42), (0xB, 0x08)]

def kitRec : List Byte := rec_ 16 [(7, 0x80), (8, 0x00), (9, 0x30)]

/-- A queue's copy: records from virtual 0x1000, tail and head counters at virtual 0x200000 and 0x200008. -/
def copy0 : QcbCopy :=
  { ctx := 1, logn := 1, dev := true, en := true, rsvd := false, ring := 0x1000, tail := 0x200000, head := 0x200008 }

/-- Queue 0 in force with its second copy ready and, the tail counter at 1, a record; context 1 has one kernel. -/
def queued (r : List Byte) : State :=
  { mapped with
    mem := mapped.mem ++ cellsAt 0x201000 r ++ cellsAt 0x202000 kitRec ++ cellsAt 0x203000 kernelRec ++ [(0x400000, 1)]
    ctxs := mapped.ctxs.map fun c => { c with kitb := 0x2000, kitn := 1 }
    queues := mapped.queues.set 0 { c0 := copy0, c1 := { copy0 with en := false }, seq := 5, sel := false, sts := 1, next := 0
                                    reason := 1, idx := 7 } }

/-- The record at hand as the front end reads it. -/
def taken (s : State) (p : State → List Byte → Option Kernel → Bool) : Bool :=
  match ctrGot s 1 0x200000 false with
  | (s1, .got c) => decide (feTurn s1 = some 0) && (match ctrGot (s1.ctrSettle c) 1 0x200008 true with
    | (s2, .got _) => (match bytesGot s2 frontSeat 1 (recordAddr (s.queue 0) 0) 128 with
      | (s3, .got d) => (match kernelGot s3 1 (recBits d 0 0 16) with
        | (s4, .got k) => p s4 d k
        | _ => false)
      | _ => false)
    | _ => false)
  | _ => false

/-- FrontEndEventsComplete: a copy that may be enabled and one that may not; the next version and another; a LAUNCH record that
passes, a FEED record that passes, one that is rejected, another opcode; a tail counter that faults; a queue not enabled. -/
theorem test_witness_frontEnd :
    (feOpen (queued launchRec) 0 && !feOpen base 0 && qcbOk ((queued launchRec).queue 0).spare &&
      qcbOk (base.queue 0).spare = false &&
      (11 : Dword).extractLsb' 1 63 ≠ ((queued launchRec).queue 0).seq + 1 &&
      (13 : Dword).extractLsb' 1 63 = ((queued launchRec).queue 0).seq + 1 &&
      (let s := { queued launchRec with queues := mapped.queues.set 0 { (queued launchRec).queue 0 with c0 := { copy0 with tail := 0 } } }
       feOpen s 0 && (match ctrGot s 1 0 false with | (_, .bad _) => true | _ => false))) = true := by decide

theorem test_witness_records :
    (taken (queued launchRec) (fun s d k => recBits d 0 24 8 = 1 && k.isSome &&
        (match launchCheck s 0 0 1 d k with | .ok l => l.teams = 1 && l.waves = 1 && l.gcount = 1 | _ => false) &&
        (match launchCheck s 0 0 1 d none with | .error r => r = 2 | _ => false)) &&
      taken (queued feedRec) (fun _ d _ => recBits d 0 24 8 = 2 && feedReason d (feedOf 0 1 d) = none) &&
      taken (queued (rec_ 128 [])) (fun _ d _ => recBits d 0 24 8 ≠ 1 && recBits d 0 24 8 ≠ 2)) = true := by decide

/-- A FEED under way from virtual 0x1000 to a ring of 4 at 0x1800, its tail counter at 0x200000 and its head at 0x200008. -/
def feeding (t : Option Dword) : State :=
  { queued feedRec with feeds := [{ queue := 0, ctx := 1, wsco := 2, count := 2, logw := 2, rsz := 1, src := 0x1000, wring := 0x1800
                                    wtail := 0x200000, whead := 0x200008, t := t }] }

/-- FrontEndEventsComplete, a FEED: 2 entries find 4 places at tail 2 and only 1 at tail 3. -/
theorem test_witness_feed :
    ([(2, true), (3, false)].all fun x => match (feeding (some x.1)).feeds with
      | f :: _ => (match ctrGot (feeding (some x.1)) f.ctx f.wtail true with
        | (s1, .got tl) => (match ctrGot s1 f.ctx f.whead false with
          | (s2, .got hd) =>
            let s3 := (s2.ctrSettle tl).ctrSettle hd
            let t := f.t.getD (ctrValue s3 tl)
            decide (reached (ctrValue s3 hd) (t + BitVec.ofNat 64 f.count - BitVec.ofNat 64 (2 ^ f.logw)) = x.2) &&
              (!x.2 || (match feedCopy f t.toNat 0 s3 (f.count * f.rsz) with | .done _ => true | _ => false))
          | _ => false)
        | _ => false)
      | [] => false) = true := by decide

/-- Launch 0 changed: still to be placed, with the counters at 0x200000 (0) and 0x200008. -/
def launching (g : Launch → Launch) : State :=
  { mapped with teams := [], launches := mapped.launches.map fun l => g { l with status := .ready, placed := [], bound := true } }

/-- LaunchesBecomeReadyArePlacedAndComplete, readiness: no WADDR, one that can be read with its threshold reached and not,
one that faults; no such launch; a START not near. -/
theorem test_witness_launchReady :
    (([(0, 0), (0x200000, 0), (0x200000, 1)].all fun x =>
        let s := launching fun l => { l with status := .pending, waddr := x.1, wthr := x.2, start := 20000 }
        (s.launch? 0).any fun l => l.status = .pending && startNear s l && (decide (l.waddr = (0 : Dword)) ||
          (match ctrGot s l.ctx l.waddr false with
            | (s1, .got c) => decide (reached (ctrValue (s1.ctrSettle c) c) l.wthr = decide (x.2 = (0 : Dword)))
            | _ => false))) &&
      (let s := launching fun l => { l with status := .pending, waddr := 8, start := 20001 }
       (s.launch? 0).any fun l => !startNear s l && (match ctrGot s l.ctx l.waddr false with | (_, .bad _) => true | _ => false)) &&
      (launching id).launch? 1 = none && (base.launch? 0).any (fun l => l.status ≠ .pending) &&
      mapped.teams.all (fun t => startDue mapped t)) = true := by decide

/-- The first launch of the ready list is placed; a launch with a gang-stage to place, none with a team left, and one whose
teams are gone, with no CADDR, one that can be changed, one that faults. -/
theorem test_witness_launchPlaced :
    ((let s := launching id
      (s.launch? 0).any fun l => l.status = .ready && l.nextStage = some (0, 0) && !savedFirst s l.prio && l.bound &&
        (readyList s).map Launch.id = [0] && (match tryLaunch s [] l with | .placed t => t.teams.length = 1 | _ => false) &&
        pickCores s [] l 0 = some [0] && l.chipg = 0 && (affinity s l).isEmpty) &&
      (base.launch? 0).any (fun l => l.status = .ready && l.nextStage = none && !launchEmpty base l) &&
      ([0, 0x200000, 8].all fun a =>
        let s := launching fun l => { l with caddr := a, placed := [0] }
        (s.launch? 0).any fun l => l.status = .ready && launchEmpty s l && (decide (l.caddr = (0 : Dword)) ||
          (match ctrGot s l.ctx l.caddr true with
            | (_, .got _) => decide (a = (0x200000 : Dword))
            | (_, .bad _) => decide (a = (8 : Dword))
            | _ => false)))) = true := by decide

/-- A replace command that is malformed, one in the Winter mode, one that writes; the watchdog just before its limit and at
it. -/
theorem test_witness_replace :
    (let s (n : Nat) (win : Bool) : State := { queued launchRec with fe := { mapped.fe with krctx := 1, kridx := n, krnew := 1 <<< 63, win := win } }
     (s 0 false).fe.krbsy = false && replaceMalformed (s 1 false) && !replaceMalformed (s 0 true) && !replaceMalformed (s 0 false) &&
      ((s 0 false).ctx? 1).any (fun c => match spanGot (s 0 false) c.num (BitVec.ofNat 64 (c.kitb + 16 * 0)) 16 .store with
        | (_, .got _) => true
        | _ => false) &&
      decide (mapped.fe.fehbAge < 4000000) && decide (4000000 ≤ ({ mapped.fe with fehbAge := 4000000 } : FrontEnd).fehbAge)) = true := by
  decide

/-! ### Witnesses: teams -/

/-- A request stands for team 0 since cycle 0; its slot A has this status. -/
def asked (st : SlotStatus) (s : State) : State :=
  { onTeam (fun t => { t with preempt := some 0 }) (onSlot (fun p => { p with status := st }) s) with
    islands := mapped.islands.map fun x => { x with clock := 54096 } }

/-- Team 0 saved without a wave, at offset 0 of the save pool at `p`. -/
def savedTeam (p : Dword) (st : TeamStatus) : State :=
  onTeam (fun t => { t with waves := [], scratchSize := 0, laneBytes := 0, status := st, preempt := some 0 })
    { mapped with ctxs := mapped.ctxs.map fun c => { c with spool := p, splen := 1 } }

/-- Clusters 0 and 1 run, each with one team of a launch of priority 0 on its first core, and a launch of priority 3 is
ready whose gang needs every wave place of a cluster. -/
def fullClusters : State :=
  let s := placeTeam (loadLaunch 0 1) 1 0 [] State.reset.loadTeam 0 24
  let big := { loadLaunch 9 1 with prio := 3, teams := 24, waves := 16, placed := [], stage0 := [] }
  let part := s.islands.zipIdx.map fun x => if x.2 = 0 then x.1 else { x.1 with off := true }
  { s with islands := part, launches := s.launches ++ [big] }

/-- TeamsAreStoppedSavedRestoredAndEnd, the dispatcher: of two teams of lower priority it asks the one placed last, and
under the Winter scheduler none (R354, R426). -/
theorem test_witness_dispatcher_asks :
    dispatcherAsks fullClusters 9 = [1] ∧
    dispatcherAsks { fullClusters with fe := { fullClusters.fe with win := true } } 9 = [] := by
  decide

/-- TeamsAreStoppedSavedRestoredAndEnd, stopping: a team not asked, one asked just before its limit and at it; slots running
plainly, in a chain, in an expansion, parked and stopped. -/
theorem test_witness_stopping :
    ((placedTeam mapped 0).any (fun t => t.preempt = none) && (placedTeam mapped 1).isNone &&
      (placedTeam (asked .running mapped) 0).any (fun t => t.preempt = some 0 && teamPdist (asked .running mapped) t = 50000 &&
        coreClock (asked .running mapped) t.core = 54096 && !teamStill (asked .running mapped) t) &&
      (placedTeam (asked .stopped mapped) 0).any (fun t => t.preempt.isSome && teamStill (asked .stopped mapped) t) &&
      saw mapped (fun v => v.p.live && v.p.status = .running && v.p.exp = none && !v.p.inChain && v.p.rep = none) &&
      saw (onSlot (fun p => { p with chainOpen := true }) mapped) (fun v => v.p.exp = none && v.p.inChain) &&
      saw expanding (fun v => v.p.exp.isSome)) = true := by decide

/-- A save that finds room and its pool mapped, one whose pool faults, one whose pool is full (empty here). -/
theorem test_witness_saving :
    ([(0x1000, 1, some 0, true), (0x400000, 1, some 0, false), (0x1000, 0, none, false)].all fun x =>
      let s0 := savedTeam x.1 .placed
      let s := { s0 with ctxs := s0.ctxs.map fun c => { c with splen := x.2.1 } }
      (placedTeam s 0).any fun t0 => t0.preempt.isSome && teamStill s t0 && (
        let s2 := ((((teamSlots t0).foldl stopParked s).modTeam 0 Team.landed).flushComb fun e => decide (e.team = 0)).scratchSettle 0
        (s2.team? 0).any fun t => (s2.ctx? t0.ctx).any fun c => decide (saveSize s2 t = 512) &&
          decide (poolRoom s2 c (saveSize s2 t) = x.2.2.1) && (x.2.2.1.isNone || (
          match areaWrite t.ctx c.spool (List.replicate 512 0) s2 (spanPieces c.spool 512) with
            | .ok _ => x.2.2.2
            | .fault => !x.2.2.2
            | _ => false)))) = true := by decide

/-- A saved team whose header is accepted, one whose header is refused and one whose area names a segment that is not there; none that can return; a ready launch does not go
first. -/
theorem test_witness_restoring :
    ([([], true, false), ([(0x201009, (1 : Byte))], false, false), ([(0x201100, (1 : Byte))], true, true)].all fun x =>
      let s0 := savedTeam 0x1000 .saved
      let s := { s0 with mem := s0.mem ++ x.1 }
      ((restoreOrder s).find? fun t => !(restoreCores s t).isEmpty).any fun t => t.id = 0 && (restoreCores s t).contains 0 &&
        !launchFirst s t && s.team? 0 = some t && (s.ctx? t.ctx).any fun c =>
          (match bytesGot s homeSeat t.ctx (c.spool + BitVec.ofNat 64 t.saveOff) 256 with
            | (s1, .got h) => decide ((headerRefusal h).isNone = x.2.1) && (match areaRead t.ctx
                (c.spool + BitVec.ofNat 64 t.saveOff) s1 [] (spanPieces (c.spool + BitVec.ofNat 64 t.saveOff) (saveSize s1 t)) with
              | .ok s2 data => restoreMissing s2 (teamRead s2 t data) c data = x.2.2
              | _ => false)
            | _ => false)) = true ∧
      (restoreOrder mapped).find? (fun t => !(restoreCores mapped t).isEmpty) = none := by decide

/-- A write in flight of the 8 bytes of some page-table entries, seen by the walkers. -/
def entriesWritten (id : Nat) (l : List (Nat × Nat)) : PWrite :=
  { id := id, seat := .of .frontEnd 0, stream := none, lane := none, level := 5, deps := []
    bytes := l.flatMap fun p => (addrBytes p.1 (bytesOf p.2 8)).map fun x => (Loc.phys x.1, x.2) }

/-- Core 0 with a parked team of one granule and no wave, and team 7 of 192 granules saved from it; the save pool's next
place crosses from one page of 2 MiB to the next. -/
def swapping : State :=
  let s := savedTeam 0x13FC00 .placed
  let s1 := onTeam (fun t => { t with scratchSize := 4096, preempt := none }) s
  { s1 with
    teams := s1.teams ++ s.teams.map fun t => { t with id := 7, num := 1, launch := 5, scratchSize := 192 * 4096, status := .saved }
    ctxs := s1.ctxs.map fun c => { c with splen := 200 }
    writes := [entriesWritten 0 [(0, 0x1001), (0x1000, 0x2001), (0x2000, 0x3001), (0x3008, 0x40001F)], entriesWritten 1 [(0x3000, 0x20001F)]]
    nextWrite := 2 }

/-- A yield swap: slots parked just too short and long enough, with no candidate, a saved team that does not fit beside the
one that is saved for it, one that fits, and a ready launch that does not fit beside them. -/
theorem test_witness_swap :
    (let parkedTeam (n : Nat) (s : State) : State := onTeam (fun t => { t with preempt := none })
        (onSlot (fun p => { p with status := .parkedCtr false, idle := n }) s)
     !swapTrigger (parkedTeam 2047 mapped) 0 && swapTrigger (parkedTeam 2048 mapped) 0 && restoreOrder mapped = [] &&
      readyList mapped = [] && swapTrigger swapping 0 && (swapping.teams.map Team.id).Nodup &&
      (match restoreOrder swapping, swapOrder swapping 0 with
        | t :: _, [x] => !coreFits swapping [] t.size 0 && swapWouldFit swapping t.size 0 && t.cluster = clusterOf 0 &&
            !tiedToCore swapping t && !siblingOn swapping t 0 && queuesFit swapping t 0 && x.id = 0 &&
            (match swapSave swapping x with
              | .ok s1 => coreFits s1 [] t.size 0 && savedMore swapping s1
              | _ => false)
        | _, _ => false)) = true := by decide +kernel

/-- A team whose wave runs, and one whose wave has exited. -/
theorem test_witness_exit :
    ((mapped.team? 0).any (fun t => t.waves.any fun w => w.status = .running) &&
      (let s := onWave (fun w => { w with status := .exited }) mapped
       (s.team? 0).any fun t => (t.waves.all fun w => decide (w.status ≠ .running)) && t.mxDone && cmdsStill s t)) = true := by decide

/-! ### Witnesses: the fault unit, windows, the host, peers, services -/

/-- Record `n` of slot A of team 0: held with `slv`, or not. -/
def frec (n : Nat) (slv os : Bool) : FRec :=
  { FRec.blank mapped .mem 7 1 with id := n, slv := slv, toOs := os, sl := if slv then some ⟨0, 0, false⟩ else none, skipLen := some 8 }

/-- Context 1 has a ring of two records at virtual 0x1000, its counters at virtual 0x200000 and 0x200008, `next` records written
and `done` disposed of; slot A is held on record 0. -/
def ringed (next done : Nat) (l : List FRec) : State :=
  { onSlot (fun p => { p with status := .held 0 }) mapped with
    recs := l
    ctxs := mapped.ctxs.map fun c => { c with fring := 0x1000, ftail := 0x200000, fdisp := 0x200008, logf := 1, fnext := next, fdone := done } }

/-- The ring lies where no page is mapped. -/
def ringless : State := { mapped with ctxs := (ringed 0 0 []).ctxs.map fun c => { c with fring := 0x400000 } }

/-- FaultUnitEventsComplete, writing: the last place of a ring (next 1) and a full one (next 2), a record that holds and one that
does not, the first of two records and the second; a place that faults. -/
theorem test_witness_recordWrite :
    ((base.recs.find? fun r => r.id = 0) = none) ∧
    ([(1, true), (2, false)].all fun x => [true, false].all fun slv =>
      let s := ringed x.1 0 [frec 0 slv false, frec 1 slv false]
      ([(0, true), (1, false)].all fun y => (s.recs.find? fun r => r.id = y.1).any fun r => (s.ring? r.ringNo).any fun g =>
        match ringCounter s r.ringNo g.disp false with
        | (s1, .got d) =>
          decide (reached (ctrValue (s1.ctrSettle d) d) (BitVec.ofInt 64 ((g.next : Int) + 1 - (2 ^ g.logf : Nat))) = x.2) &&
          (!x.2 || (decide ((s1.recs.find? (fun x => x.ringNo = r.ringNo) = some r) = (y.2 = true)) &&
            (match ringCounter s1 r.ringNo g.tail true with
              | (s2, .got _) => (match ringSpan s2 r.ringNo (g.slot g.next) .store with | (_, .got _) => true | _ => false)
              | _ => false)))
        | _ => false)) = true ∧
    (ringless.ring? 1).any (fun g => match ringSpan ringless 1 (g.slot 0) .store with | (_, .bad _) => true | _ => false) = true := by decide

/-- The first record of the ring written, with the disposition counter at `n`. -/
def writtenTo (ring n : Nat) (r : FRec) (ended : Bool) : State :=
  let s := ringed 1 0 []
  { s with
    written := [{ ring := ring, index := 0, record := r }], osRing := 0x201000, osTail := 0x400000, osDisp := 0x400008, osLogf := 1
    osNext := 1, mem := s.mem ++ (if n = 0 then [] else [(0x400008, BitVec.ofNat 8 n)])
    ctxs := s.ctxs.map fun c => { c with ended := ended } }

/-- A disposition that has not come and one that has, of both rings, of a context that lives and of one that has ended; out of
turn; none written. -/
theorem test_witness_disposition :
    ([(1, 0, false), (1, 1, true), (0, 0, false), (0, 1, true)].all fun x =>
      let s := writtenTo x.1 x.2.1 (frec 0 true (x.1 = 0)) (x.1 = 0)
      (s.written.find? fun w => w.ring = x.1).any fun w => (s.ring? x.1).any fun g => w.index = g.done &&
        (match ringCounter s x.1 g.disp false with
          | (s1, .got d) => decide (reached (ctrValue (s1.ctrSettle d) d) (BitVec.ofNat 64 (g.done + 1)) = x.2.2) &&
            (match ringSpan s1 x.1 (g.slot g.done) .load with | (_, .got _) => true | _ => false) &&
            decide (ctxLive s1 w.record.ctx = decide (x.1 = 1))
          | _ => false)) = true ∧
      (let s := { writtenTo 1 1 (frec 0 true false) false with ctxs := (ringed 1 1 []).ctxs }
       (s.ring? 1).any fun g => g.done = 1) = true ∧
      (mapped.written.find? fun w => w.ring = 1) = none := by decide

/-- Records of a slot still held, with SKIP and without, of one held no more, of a command, and of nothing held; a context not
ended; machine checks of the least and greatest unit and of no unit. -/
theorem test_witness_dispose :
    ((heldSlot (ringed 0 0 []) (frec 0 true false)).isSome && (frec 0 true false).skipLen = some 8 && (frec 0 true false).cls ≠ .mchk &&
      (heldSlot (ringed 0 0 []) { frec 0 true false with skipLen := none }).isSome && (heldSlot mapped (frec 0 true false)).isNone &&
      (heldSlot mapped (frec 0 false false)).isNone && (heldCmd mapped (frec 0 false false)).isNone &&
      (heldCmd (copying id) { frec 0 false false with qv := true, cmd := some 0 }).isSome &&
      (heldSlot (copying id) { frec 0 false false with qv := true, cmd := some 0 }).isNone &&
      (mapped.ctx? 1).any (fun c => !c.ended) && (mapped.team? 0).any (fun t => t.status = .placed) && (mapped.team? 1).isNone) =
      true := by decide

/-- Window 0 with one unit at the base of the far tier, in plain format, enabled or not; the Almanac has a place or not. -/
def windowed (en : Bool) (base : Option Nat) : State :=
  { mapped with
    windows := mapped.windows.set 0 { Window.zero with en := en, raw := 0x010000000000, size := 1 }
    alm := { mapped.alm with base := base } }

/-- WindowCarveoutAndShootdownEventsComplete, windows: a request that passes every check, with room and without, one that fails the
first, one that fails the seventh; the last window and none. -/
theorem test_witness_windows :
    (([some 0x100000, none].all fun b => !((windowed false b).window 0).en && decide (almRoom (windowed false b) = b.isSome) &&
        decide (windowCheck (windowed false b) (((windowed false b).window 0).withCtl 1) 1 = 0) &&
        decide (windowCheck (windowed false b) (((windowed false b).window 0).withCtl 0x101) 0x101 = 1) &&
        decide (windowCheck (windowed false b) (((windowed false b).window 0).withCtl 9) 9 = 7)) &&
      decide (windowCheck mapped ((mapped.window 63).withCtl 0x11) 0x11 = 1) && (windowed true none).window 0 ≠ (mapped.window 0) &&
      ((windowed true (some 0x100000)).window 0).en && almRoom (windowed true (some 0x100000)) && (2 : Dword).getLsbD 0 = false &&
      (2 : Dword).getLsbD 1) = true := by decide

/-- Die 0 with its carve-out at 4, in the course `sts` of a change to `csz`; the team holds granule 31. -/
def carving (sts csz : Nat) (held : Bool) : State :=
  onTeam (fun t => { t with chip := if held then [31] else [] }) { mapped with l2cfg := mapped.l2cfg.set 0 { cur := 4, sts := sts, csz := csz } }

/-- The carve-out: a change under way, a size of 9, the present size, a smaller one with the last granule above it held and not,
a larger one; a shrink that may proceed and one that may not; a change done; a reservation. -/
theorem test_witness_carveout :
    (((carving 1 5 false).l2cfg[0]?).any (fun x => x.sts = 1) && ((carving 0 4 false).l2cfg[0]?).any (fun x => x.sts ≠ 1 && x.cur = 4) &&
      granuleHeld (carving 0 4 true) 0 (8 * 3) && !granuleHeld (carving 0 4 false) 0 (8 * 3) && granuleHeld (carving 2 3 true) 0 24 &&
      !granuleHeld (carving 2 3 false) 0 24 && writesOk (carving 1 3 false) && decide (0 < mapped.chrsv.length) &&
      decide (0 < mapped.chrsvWant.length)) = true := by decide

/-- Shootdowns: busy, malformed (a kind of 3, a range of no pages) and not; the last byte of a page range and the next; a command
that holds a removed translation and none. -/
theorem test_witness_shootdown :
    (mapped.shoot.bsy = false && (0x11 : Dword).getLsbD 4 && !shootMalformed mapped.shoot 0x11 && shootMalformed mapped.shoot 0x13 &&
      shootMalformed mapped.shoot 0x10 && !shootMalformed { mapped.shoot with ctx := 1, len := 1 } 0x10 &&
      ({ mapped.shoot with ctx := 1, len := 1 } : Shoot).covers 1 4095 1 && !({ mapped.shoot with ctx := 1, len := 1 } : Shoot).covers 1 4096 1 &&
      (let h : HeldTr := { dst := false, e := default, stale := true }
       (copying fun c => { c with trs := [h] }).cmds.any (fun c => c.trs.any HeldTr.stale)) &&
      !mapped.cmds.any (fun c => c.trs.any HeldTr.stale)) = true := by decide

/-- Slot 0 of the counter-add window is bound, valid or not, to the counter at virtual 0x200000. -/
def bound (v : Bool) : State := { mapped with bindings := [{ slot := 0, v := v, err := false, ctx := 1, addr := 0x200000 }] }

/-- A line of the near tier that host 0 holds modified, its first byte dirty, with a back-invalidate out since time 0. -/
def hostHeld : State :=
  { mapped with
    hostLines := [{ line := 0, host := 0, st := .m, dirty := [(0, 7)], used := 0 }], snoops := [{ line := 0, inv := true, since := 0 }]
    eqx := { mapped.eqx with now := 100000000 }, cxlReqs := [0x10000000000] }

/-- A plain window of egress class 1 over the first unit of the far tier, with tokens for `n` bytes, sealed or not. -/
def metering (n : Nat) (sealed : Bool) : State :=
  { mapped with
    windows := mapped.windows.set 0 { Window.zero with en := true, raw := 0x010000000000, size := 1, ec := 1, stf := if sealed then 8 else 0 }
    egress := mapped.egress.set 1 { rate := 1, burst := 1, total := 0, held := 0, bucket := 1000 * n }
    alm := { mapped.alm with base := some 0x100000 } }

/-- HostAndFabricEventsComplete, the host: a bound slot, one not valid, the last slot; reads that are out of range, sealed, metered
with tokens enough and one short, through the decoded range; writes refused and taken; a line held dirty; a lost host; a line that
arrives. -/
theorem test_witness_host :
    (((bound true).binding? 0).any (fun b => b.v && b.slot = 0 && (match ctrGot (bound true) b.ctx b.addr true with | (_, .got _) => true | _ => false)) &&
      ((bound false).binding? 0).any (fun b => !b.v) && (0x8000000000000000 : Dword).msb &&
      hdmAddr 3 0 = none && hdmAddr 0 0xC000000000 = none && hdmAddr 0 0 = some 0x010000000000 && hdmAddr 2 0 = some (decBase 0) &&
      inSealed (metering 128 true) 0x010000000000 128 &&
      ([(128, true), (127, false)].all fun x => let s := metering x.1 false
        !inSealed s 0x010000000000 128 && hostNeed s 0 (lineOf 0x010000000000) true = [] && decodedNeeds s 0x010000000000 = [] &&
          filterVictim s (lineOf 0x010000000000) = none && (s.meter (egressClass s 0x010000000000) 128).isSome = x.2) &&
      decodedNeeds (metering 128 false) (decBase 0) = [] && hdmAddr 1 0 = some 0 && !isCtPage State.reset 0 &&
      hostNeed State.reset 0 0 true = [] && filterVictim State.reset 0 = none && inSealed (metering 0 true) 0x010000000000 1 &&
      (hostHeld.snoops.find? fun q => q.line = 0).isSome && (mapped.snoops.find? fun q => q.line = 0).isNone && !hostHeld.hostsLost.contains 0 &&
      hostHeld.snoops.any (fun q => decide (q.since + 100000000 ≤ hostHeld.eqx.now.toNat) && hostHeld.hostLines.any fun x => x.line = q.line && x.host = 0) &&
      hostHeld.cxlReqs.contains 0x10000000000 && !hostHeld.cxlReqs.contains 0) = true := by decide

/-- Context 1 takes messages of fabric context 9. -/
def fabric : State := { mapped with ctxs := mapped.ctxs.map fun c => { c with fctx := 9, fen := true } }

/-- Peers: a context that takes the message and none; a read and a write that pass, a write to a counter page, a counter; a
failed link one second old and one not. -/
theorem test_witness_peers :
    ((fabricCtx fabric 9).isSome && (fabricCtx fabric 8).isNone &&
      (match walk fabric 1 0x1000 with
        | (s1, .ok e) =>
          let pa := e.pa + (0x1000 - e.page)
          !inSealed s1 pa 8 && entryCheck s1 e pa 8 .load = none && entryCheck s1 e pa 8 .store = none && e.ct = false &&
            spanNeeds s1 false 8 (physTarget s1 pa e.mt) = [] && spanNeeds s1 true 8 (physTarget s1 pa e.mt) = [] &&
            !spanPoisoned s1 8 (physTarget s1 pa e.mt) && (s1.meter (egressClass s1 pa) 8).isSome
        | _ => false) &&
      (match walk fabric 1 0x200000 with | (_, .ok e) => e.ct | _ => false) &&
      (match ctrGot fabric 1 (BitVec.ofNat 64 0x200000) true with | (_, .got _) => true | _ => false) && (5 : Dword).msb = false &&
      (let x : Link := { replay := 0, wid := 0, st := 4, since := 0 }
       decide (x.since + 1000000000 ≤ 1000000000) && !decide (x.since + 1000000000 ≤ 999999999))) = true := by decide

/-- The region of that address is the near tier's, so no window's. -/
theorem test_witness_peerRegion :
    (match walk fabric 1 0x1000 with
      | (s1, .ok e) => (match regionOf s1 (e.pa + (0x1000 - e.page)) 1 with | some (.dec _) => false | _ => true)
      | _ => false) = true := by decide

/-- The Almanac has room; key slot 0 is full, slot 1 empty. -/
def keyed : State :=
  { metering 128 true with keys := mapped.keys.set 0 { full := true, salt := 0, key := 0 }, alm := { mapped.alm with base := some 0x100000 } }

/-- PackageEventsComplete: a grandmaster and none; a snapshot before its time and at it; an island with a team and one without; a
key slot full and empty, with room and without; metered traffic of each kind with tokens and without; a sealed window. -/
theorem test_witness_package :
    (mapped.eqx.gm = false && ({ mapped.eqx with gm := true } : Equinox).gm && decide ((0 : Dword) < 1) && mapped.islands.length = 24 &&
      islandBusy mapped 0 && !islandBusy mapped 1 && almRoom keyed && !almRoom mapped && (keyed.keys[0]?).any KeySlot.full &&
      (keyed.keys[1]?).any (fun k => !k.full) && keyed.almWait = [] && (keyed.meter 1 128).isSome && (keyed.meter 1 129).isNone &&
      (keyed.window 0).en && (keyed.window 0).isSealed && decide (0 + 65536 ≤ (keyed.window 0).bytes) &&
      ([Waiting.copy (.queue 0 0), .hostRead 0 0 0 true, .peerRead 1 9 0x1000 8 0].all fun w =>
        let s := { keyed with metered := [{ cls := 1, bytes := 128, what := w }] }
        (s.metered.find? fun m => m.cls = 1).isSome && (s.metered.find? fun m => m.cls = 2).isNone)) = true := by decide

/-- A pair that has waited its turn and one that has not; the leader's port revoked or not. -/
def waitingPair (n e : Nat) : State :=
  { mapped with pairs := mapped.pairs.modify 1 fun p => { p with quiet := n, epoch := e }, svcPage := 0x400000 }

/-- ServiceEventsComplete: an Almanac placed and not; a follower a test before its turn and at it, with the epoch it saw and with
another; a report request of 64 bytes; a live pair with its port, and one stopped; an access that passes; context 1's words. -/
theorem test_witness_services :
    (keyed.alm.base = some 0x100000 && mapped.alm.base = none && mapped.almWait = [] && mapped.leader = 0 &&
      decide ((waitingPair 11 0 |>.pair 1).quiet < 10 + 2 * ((1 + 4 - 0) % 4)) && decide (10 + 2 * ((1 + 4 - 0) % 4) ≤ ((waitingPair 12 0).pair 1).quiet) &&
      ((waitingPair 12 0).pair 1).live && ctrNeeds (waitingPair 12 0) true (.phys 0x400000) = [] &&
      ctrNeeds (waitingPair 12 0) true (.phys 0x400008) = [] &&
      ((waitingPair 12 0).ctrAdd (.phys 0x400008) 1).2.toNat = ((waitingPair 12 0).pair 1).epoch &&
      ((waitingPair 12 1).ctrAdd (.phys 0x400008) 1).2.toNat ≠ ((waitingPair 12 1).pair 1).epoch && decide (1 < (waitingPair 12 1).pairs.length) &&
      (List.replicate 64 (0 : Byte)).length = 64 && (mapped.pair 3).live && (mapped.pair 3).port && (mapped.pair 4).live = false &&
      ((State.reset.pairs.modify 0 fun p => { p with port := false })[0]?).any (fun p => p.live && !p.port) &&
      !physBad mapped 0x400000 8 && spanNeeds mapped false 8 (physTarget mapped 0x400000 0) = [] && (mapped.ctx? 1).isSome &&
      spanNeeds mapped true 8 (physTarget mapped 0x400000 0) = [] && ctrNeeds mapped true (.phys 0x400000) = [] &&
      reachesBar .faultUnit = false && (mapped.window 0).en = false && ((metering 0 false).window 0).en) = true := by decide

/-! ### Witnesses: what waits, and what is left of the clauses above -/

/-- CopyCommandsComplete, CopyEventsComplete, SystemOperationsComplete: nothing has to be released or covered first; a queue
whose turn it is; a completion with a counter at the widest scope; an aligned LAUNCH record with no earlier write before it. -/
theorem test_witness_nothingFirst :
    (saw mapped (fun v => (releaseNeeds mapped v 0xFFFF 1).isEmpty && (releaseNeeds mapped v 0xFFFF 4).isEmpty &&
        (coverNeeds mapped (queueOf 0 255)).isEmpty && (coverNeeds (copying id) (queueOf 0 1)).isEmpty &&
        ((copying id).cmds.filter fun c => decide (c.team = v.t.id) && decide (c.op ≠ 8) && (255 : BitVec 8).getLsbD c.qid) ≠ [] &&
        (mapped.cmds.filter fun c => decide (c.team = v.t.id)) = []) &&
      ((copying id).ctxs.all fun c => !c.ended) && nextQueue (copying fun c => { c with status := .active 0 0 }) 0 = some 0 &&
      (let c : CopyCmd := { cmd0 with words := [0, 0, 0x1000, 0, 64, 2, 64, 64, 0x200000, 0, 1, 0], m := 0x484, status := .active 2 0 }
       let s := copying fun _ => c
       xlateNeeds s c.core c.ctx c.caddr true = [] && c.caddr ≠ 0 && (placedTeam s 0).any fun t => match copyCounter s t c with
        | (s1, .ok (.here _)) => (coverNeeds s1 (coveredBy (.queue t 0) fun w => decide (w.seat.who = (Seat.queue t 0).who))).isEmpty
        | _ => false) &&
      saw counting (fun v => !v.p.replay && (0x1000 : Dword).toNat % 128 = 0 && (xlateNeeds counting v.t.core v.t.ctx 0x1000 false).isEmpty &&
        (match globTarget ((counting.putSlot v v.p).release v 0xFFFF 4) 0 1 0x1000 128 .load with
          | (s1, .ok x) => (beforeNeeds s1 v 0 [none] (readLocs s1 128 x)).isEmpty
          | _ => false))) = true := by decide

/-- LaunchesBecomeReadyArePlacedAndComplete: a launch whose WADDR has been seen and one whose has not; nothing to cover before its
add; FEEDs under way for the Winter scheduler and none. -/
theorem test_witness_launchSeen :
    (((launching fun l => { l with status := .pending, waddr := 0x200000, seen := true }).launch? 0).any (fun l => l.seen) &&
      ((launching fun l => { l with status := .pending, waddr := 0x200000 }).launch? 0).any (fun l => !l.seen) &&
      (let s := launching fun l => { l with caddr := 0x200000, csco := 5, placed := [0] }
       (s.launch? 0).any fun l => match ctrGot s l.ctx l.caddr true with
        | (s1, .got _) => (coverNeeds s1 l.covered).isEmpty
        | _ => false) && mapped.feeds = [] && mapped.fe.win = false) = true := by decide

/-- FaultUnitEventsComplete: two records of one cycle, the second raised of the lower place, and one of a later cycle; the cycle
over and not; a diverted context; a slot held on a vector record and on an MGEMM's. -/
theorem test_witness_recordOrder :
    (let r (n core cycle : Nat) : FRec := { frec n true false with core := core, cycle := cycle }
     let s := { ringed 0 0 [r 0 1 3, r 1 0 3, r 2 0 4] with cycle := 4 }
     (firstRec s 1).any (fun x => x.id = 1 && decide (x.cycle < s.cycle)) && decide (({ s with cycle := 3 } : State).cycle ≤ (r 1 0 3).cycle) &&
      ((s.recs.map FRec.cycle) = [3, 3, 4]) && (s.ctx? 1).any (fun c => !c.diverted) &&
      (heldSlot s { r 0 1 3 with vec := true }).isSome && (heldSlot s { r 0 1 3 with mg := true }).isSome) = true := by decide

/-- WindowCarveoutAndShootdownEventsComplete: a flush under way with a decoded line of its window and one of another; a write of KIND
without GO; a shootdown under way with nothing to flush; no Almanac line that a host holds. -/
theorem test_witness_windowLines :
    (let s := { mapped with
        windows := mapped.windows.set 0 { Window.zero with bsy := true }, shoot := { mapped.shoot with bsy := true, run := (1, 1) }
        decoded := [{ w := 0, line := 0, scale := [] }, { w := 1, line := 0, scale := [] }] }
     (s.window 0).bsy && !(s.window 1).bsy && s.decoded.any (fun x => x.w = 0) && s.decoded.any (fun x => x.w ≠ 0) && s.shoot.bsy &&
      (flushNeeds s (fun _ => true) ++ coverNeeds s PWrite.physical).isEmpty && s.shoot.wholly 1 && !s.shoot.wholly 2 &&
      (2 : Dword).getLsbD 4 = false && (almHeld mapped).isEmpty) = true := by
  decide

/-- HostAndFabricEventsComplete: a line of host memory that is snooped; a full set of lines and none; nothing freed waits; peers and
walks that need no back-invalidate; a link that trained slow. -/
theorem test_witness_linesHeld :
    (let s : State := { mapped with hostMem := [hostBase / 128], hostLines := [], cxlReqs := [hostBase / 128] }
     s.hostMem.contains (hostBase / 128) && !mapped.hostMem.contains (hostBase / 128) && s.lateReds = [] && s.owedAdds = [] && s.prefs = [] &&
      s.almWait = [] && (walkNeeds fabric 1 0x1000).isEmpty && (walkNeeds fabric 1 0x200000).isEmpty && s.poison = [] &&
      (match walk fabric 1 0x400000 with | (_, .error _) => true | _ => false) &&
      decide ((s.hostMem.filter fun n => decide (homeDie (128 * n) = homeDie hostBase)).length < 4096)) = true := by decide

theorem test_witness_linesFull : 4096 ≤ ((List.replicate 4096 (hostBase / 128)).filter fun n =>
    decide (homeDie (128 * n) = homeDie hostBase)).length ∧ (List.replicate 4096 (hostBase / 128)).head? = some (hostBase / 128) := by
  rw [List.filter_replicate, if_pos (by decide)]
  simp

/-- PackageEventsComplete, AStepRunsTheDecodedInstruction: offsets to step, to hold and to slew by; a class with RATE 0; islands that
change and stay; a slot that is to stop at its boundary, inside a chain and outside. -/
theorem test_witness_changes :
    (decide ((-1000000 : Int) ≤ -1000000) && decide ((999999 : Int).natAbs < 1000000) && ((mapped.egressOf 1).rate = 0) &&
      ((metering 1 false).egressOf 1).rate ≠ 0 && decide (1 < (metering 1 false).egress.length) &&
      (mapped.islands[0]?).any (fun x => !x.thr && x.cur = 850 && !x.off) && computeIsland 0 && !computeIsland 4 &&
      saw (onSlot (fun p => { p with stopAtBoundary := true }) mapped) (fun v => v.p.stopAtBoundary && !v.p.inChain && v.p.rep.isNone &&
        v.p.exp.isNone && v.p.poisonStop.isNone) &&
      saw (onSlot (fun p => { p with stopAtBoundary := true, chainOpen := true }) mapped) (fun v => v.p.inChain && v.p.chainLen < 128)) = true := by
  decide

/-- ServiceEventsComplete: a pair that may act, one that may not; a sealed range and none; the waiter entries of slots that are
there; a pending personality list. -/
theorem test_witness_servicePairs :
    (mapped.mayAct (.service 0) && !(mapped.mayAct (.service 4)) &&
      !(({ mapped with pairs := mapped.pairs.modify 0 fun p => { p with port := false } } : State).mayAct (.service 0)) &&
      inSealed (metering 128 true) 0x010000000000 8 && almRoom (metering 128 true) && !physBad (metering 128 true) 0x010000000000 8 &&
      !inSealed mapped 0x400000 8 && (parked false false 1).waiters.all (fun w => ((parked false false 1).find w.sl).isSome) &&
      (mapped.ctxs.find? fun x => x.desc = 1).any (fun c => c.pers.length = 15 && c.persNext = none)) = true := by decide

/-! ### Witnesses: the remaining clauses -/

/-- FloatSpecialCasesAndCounts: an integer, a half, and each bound. -/
theorem test_witness_floatExact :
    ((match fread .f32 0x40400000 with | .fin false m e => decide (m * 2 ^ e.toNat = 3 * 2 ^ (-e).toNat) | _ => false) &&
      (match fread .f32 0xBFC00000 with | .fin true m e => decide (2 * m * 2 ^ e.toNat = (2 * 1 + 1) * 2 ^ (-e).toNat) | _ => false) &&
      decide (0x41120000 ≤ (0xC1120000 : BitVec 32).toNat % 2 ^ 31) && decide (0x43000000 ≤ (0x43000000 : BitVec 32).toNat) &&
      decide (0xC3160000 < (0xC3160001 : BitVec 32).toNat)) = true := by decide

/-- UnassignedOpcodesKillTheWave: the last word of an expansion, and the word before it inside a REP; a kill of the same cycle at
the same place and at a higher one. -/
theorem test_witness_unassignedPlaces :
    (saw (onSlot (fun p => { p with exp := p.exp.map fun x => { x with idx := 1 } }) expanding)
        (fun v => v.p.exp.any fun x => x.words.length ≤ 8 && x.idx + (if v.p.rep.isSome then 1 else 0) < x.words.length) &&
      saw (onSlot (fun p => { p with rep := some default }) expanding)
        (fun v => v.p.exp.any fun x => x.words.length ≤ 8 && x.idx + (if v.p.rep.isSome then 1 else 0) < x.words.length) &&
      ([0, 1].all fun p =>
        let s : State := { base with ctxs := base.ctxs.map fun c =>
          { c with errNow := { cycle := base.cycle, base := 0, kills := [(p, 0, 1 <<< 63)] } } }
        saw s fun v => (s.ctx? v.t.ctx).any fun c => decide (c.errNow.cycle = s.cycle) && !c.errNow.base.getLsbD 63 &&
          ((1 : BitVec 128) <<< 63).getLsbD 63 && decide ((v.t.core * 16 + v.w.place) * 2 + v.sl.b.toNat = 0))) = true := by decide

/-- IllegalOperationsAreKilledForTheLeastCause: each of its operations with a wrong field. -/
theorem test_witness_illegalForms :
    (saw base fun v =>
      let f : FmtA := { fa0 with d := 0xFF, sa := 0x98, rm := 3, opb := 0xFF }
      let w : FmtW := { fw0 with d := 0xFF, sa := 0xFF, sb := 0xFF, sc := 1, m := 0xFFFF }
      (aluForms.all fun x => !((x.2 f).aluCauses f v).isEmpty) &&
        (lateForms.all fun x => !((x.2.2 f).lateCauses x.2.1 f v).isEmpty) &&
        !(smoviForm.aluCauses (immAsA { fi0 with d := 0xFF }) v).isEmpty && !(bareCauses c0 ++ allZeroCauses w).isEmpty &&
        !(controlCauses c0 v ++ fieldZero w.d ++ srcCauses v false (.sreg 2) w.sa).isEmpty &&
        !(srdCauses w v).isEmpty && !(swrCauses w base v).isEmpty && !(growCauses w v).isEmpty &&
        !(controlCauses c0 v ++ fieldZero (1 : BitVec 8) ++ fieldZero fb0.sa).isEmpty && !(dstCauses v none (.scal 2) 0xFF).isEmpty &&
        !(brdivCauses { fb0 with d := 1 } v).isEmpty &&
        decide ((0xC0 : BitVec 32).toNat / 64 % 4 = 3)) = true := by decide

/-- TrapsStopTheSlotWithTheirCode: inside an expansion and inside a REP. -/
theorem test_witness_trapsInside :
    ([expanding, onSlot (fun p => { p with rep := some default }) base].all fun s => saw s fun v =>
      (controlCauses c0 v ++ fieldZero fb0.d ++ fieldZero fb0.sa).isEmpty && v.active c0 ≠ 0) = true := by decide

/-- FaultingAccessesStopTheSlot: VLDB, VSTB, ATOM and RED with lanes of both kinds, in a lane slice of two bytes and in .core. -/
theorem test_witness_faultingLanes :
    (([Access.load, Access.store].all fun k => let f := { fm0 with d := 8, sa := 0, sb := 0x84, spc := 1, sz := 2 }
        let s := onTeam (fun t => { t with scratchSize := 8 }) (few mapped)
        saw s fun v => let r := resolve s v 1 4 k true (blockParts v f)
          (memCauses f 4 (.scal (.int 32) 1) v ++ dstCauses (v.inLanes f.c) (some .ld) (.vec 1) f.d ++
              dataCauses (v.inLanes f.c) (.vec 1) f.d).isEmpty && (partNeeds s v 1 k (blockParts v f)).isEmpty &&
            r.2.good.length = 2 && r.2.bad.length = 2 && (unanswered r.1 (.slot v.sl) r.2.good).isEmpty &&
            (r.2.good.all fun g => (targetNeeds r.1 (decide (k ≠ .load)) 4 g.t).isEmpty && (touchNeeds r.1 v.t.core g.t 4).isEmpty &&
              !targetPoisoned r.1 4 g.t) &&
            (beforeNeeds r.1 v f.str (r.2.good.map (laneOf false)) (goodLocs r.1 4 r.2.good)).isEmpty) &&
      (let f := { fm0 with d := 8, sa := 0, sb := 0x85, sc := 0xE0, spc := 1, sz := 2, sco := 2 }
       let s := onTeam (fun t => { t with scratchSize := 8 }) (few mapped)
       saw s fun v => let r := resolve s v 1 4 .atomic false (gatherParts v f)
        (atomCauses f 10 v ++ dstForm v.inExp false (.vec (atomGroup f)) f.d.toNat ++
              dstCauses (v.inLanes f.c) (some .ld) (.vec 1) f.d ++ atomCauses f 8 v ++ dataCauses (v.inLanes f.c) (.vec 1) f.d).isEmpty &&
          !atomWait f v && (partNeeds s v 1 .atomic (gatherParts v f)).isEmpty && r.2.good.length ≠ 0 && r.2.bad.length ≠ 0 &&
          (unanswered r.1 (.slot v.sl) r.2.good).isEmpty && (locNeeds r.1 (goodLocs r.1 4 r.2.good)).isEmpty)) = true := by decide

/-- Slot A parked on two counters; `n` entries of it marked. -/
def parkedOnBoth (anyOf : Bool) (n : Nat) : State :=
  let w (k : Nat) : Waiter := { seq := k, sl := ⟨0, 0, false⟩, ctx := 1, ctr := .phys (0x400000 + 8 * k), thr := 0, scope := 2
                                polling := false, hit := decide (k < n) }
  { onSlot (fun p => { p with status := .parkedCtr anyOf }) mapped with waiters := [w 0, w 1] }

/-- WaitsParkAndWake: the first of two entries of a slot, taken with the other unmarked, under .any and .all; an entry behind
another on its counter; CWAIT2 with neither counter reached and one, and under a pre-emption request. -/
theorem test_witness_waitsSeveral :
    (([true, false].all fun b => (parkedOnBoth b 1).waiters.any (fun w => decide (w.seq = 0) && w.hit && !w.bad &&
        ((parkedOnBoth b 1).waiters.all fun x => !x.hit || decide (x.ctr ≠ w.ctr) || decide (w.seq ≤ x.seq)) &&
        (parkedOnBoth b 1).waiters.any fun x => decide (x.seq ≠ w.seq) && decide (x.sl = w.sl)) &&
        ((parkedOnBoth b 1).find ⟨0, 0, false⟩).any fun v => v.p.status = .parkedCtr b) &&
      (let s : State := { parkedOnBoth false 2 with waiters := (parkedOnBoth false 2).waiters.map fun w => { w with ctr := .phys 0x400000 } }
       s.waiters.any fun w => decide (w.seq = 1) && w.hit && s.waiters.any fun x => x.hit && decide (x.ctr = w.ctr) && decide (x.seq < w.seq)) &&
      ((parked true false 5).waiters.all fun w => !reached (ctrValue (parked true false 5) w.ctr) w.thr) &&
      saw (onTeam (fun t => { t with preempt := some 0 }) counting2) (fun v => v.t.preempt ≠ none && v.p.exp = none &&
        (match ctrBoth counting2 v 0x200000 0x200008 with
          | (s1, .ok (c, e)) => (ctrNeeds s1 false c ++ ctrNeeds s1 false e).isEmpty && reached (ctrValue s1 c) 0 &&
            !reached (ctrValue s1 e) 5
          | _ => false))) = true := by decide

/-- SegmentOperationsComplete: a segment in every state, attached and not, here and in another cluster; a team with no attachment
left; a command that uses the handle; no room, no descriptor, and room once segments have left. -/
theorem test_witness_segmentStates :
    ((([.evicting, .evicted, .refilling, .resident] : List SegState).all fun st => [0, 1].all fun cl => [true, false].all fun att =>
        let s := withSeg (fun g => { g with state := st, cluster := cl }) att
        saw s fun v => (segFor s v.t 5).any fun g => g.state = st && decide (g.cluster = clusterOf v.t.core) = decide (cl = 0) &&
          v.t.attachedTo 5 = att && decide (pinCount s g = if att then 1 else 0) && !segWaited s g && !g.stuck) &&
      saw (onTeam (fun t => { t with attach := List.replicate 16 (9, 9) }) (withSeg id false)) (fun v => v.t.attach.length = 16) &&
      (let s := withSeg (fun g => { g with state := .evicted, gen := 0 }) false
       saw s fun v => !runTooBig (stripeFor s v.t false) 2 && runTooBig (stripeFor s v.t false) 0x1000 &&
        (match roomFor s (clusterOf v.t.core) (stripeFor s v.t false) 2 with | .now _ => true | _ => false)) &&
      saw { attached with cmds := [{ cmd0 with words := [0, 0x10000, 0x1000, 0, 64, 2, 64, 64, 0, 0, 0, 0] }] } (fun v =>
        ({ cmd0 with words := [0, 0x10000, 0x1000, 0, 64, 2, 64, 64, 0, 0, 0, 0] } : CopyCmd).uses 0x10000 &&
          (v.t.attach.any fun p => p.2 = 0x10000)) &&
      saw (withSeg id false) (fun v => (segCauses { fw0 with d := 8, m := 8, sb := 2 } 0x00F8 2 2 (some .ld) v ++ plainRegCauses 2 ++
        srcCauses v false (.sreg 2) 2).isEmpty) &&
      (coverNeeds attached (segWrite 1 5)).isEmpty && saw mapped (fun v => (releaseNeeds mapped v 0xFFFF 2 ++
        coverNeeds mapped (revokedWrite v.t.id)).isEmpty)) = true := by decide

/-- The runs of a transfer and its destination are there, and nothing has to come first. -/
def copyReady (s : State) (c : CopyCmd) (row : Nat) : Bool :=
  (placedTeam s 0).any fun t =>
    let da := c.dbase + BitVec.ofNat 64 row * (c.word 7).signExtend 64
    let len := min c.rowLen (128 - da.toNat % 128)
    let sc := s.serve 0 0
    decide (row < c.rowCount) && decide (0 < len) && decide (nextQueue s 0 = some 0) &&
    (match copySource sc t c row 0 len with
      | (s1, .ok src) => (match copyPieces t true c.dspc .copyDst c.id [(da, len)] s1 with
        | (s2, .ok [d]) => let ps := src.filterMap id
          (pieceNeeds s2 false ps).isEmpty && (pieceNeeds s2 true [d]).isEmpty && s2.comb.isEmpty && s2.lateReds.isEmpty &&
            (ps.all fun p => !spanPoisoned s2 p.n p.t) && !leavesPackage s2 d.t
        | _ => false)
      | _ => false)

/-- CopyEventsComplete: the first transfer of a converting COPY, of a COPY from .glob, of a COPYH with a halo row of zeros, of a
COPYG whose index is in place, and a line of COPYW. -/
theorem test_witness_copyKinds :
    (([(0, (0x480 : BitVec 16), 0, 0x9A000000), (0, 0x80, 0x1000, 0), (1, 0x480, 0, 0x10008000)].all fun x =>
        let c : CopyCmd := { cmd0 with op := x.1, m := x.2.1, words := [x.2.2.1, 0, 0x1000, 0, 64, 2, 64, 64, 0, 0, 0, x.2.2.2]
                                       status := .active 0 0 }
        copyReady (copying fun _ => c) c 0) &&
      (let c : CopyCmd := { cmd0 with op := 2, words := [0, 0, 0x1000, 0, 64, 2, 64, 64, 0, 0, 0, 0x2000], status := .active 0 0 }
       let s := copying fun _ => c
       copyReady s c 0 && (placedTeam s 0).any fun t => match readIndex s t c 0 with
        | .ok (tg, n) => decide (n = 0) && !targetPoisoned s c.isz tg && (targetNeeds s false c.isz tg).isEmpty
        | _ => false) &&
      (let c : CopyCmd := { cmd0 with op := 3, m := 0, words := [0x1000, 0, 0x100, 0, 128, 128, 0, 0, 0, 0, 0, 0], status := .active 0 0 }
       let s := onTeam (fun t => { t with wslots := [wslot0] }) (copying fun _ => c)
       decide (0 < c.rowCount) && (xlateNeeds (s.serve 0 0) 0 1 (copyLineAddr c 0) false).isEmpty && (placedTeam s 0).any fun t =>
        (match copyPieces t false 0 .weight 0 [(copyLineAddr c 0, 128)] (s.serve 0 0) with
          | (s1, .ok [p]) => (match p.t with
            | .phys pa _ => (spanNeeds s1 false 128 p.t).isEmpty && !spanPoisoned s1 128 p.t && (rawWindow s1 pa).isNone &&
                (lineScale s1 (rawWindow s1 pa) pa).isEmpty && s1.comb.isEmpty && s1.lateReds.isEmpty &&
                (((s1.team? 0).bind fun t => t.wslots[c.slot0]?).isSome)
            | _ => false)
          | _ => false))) = true := by decide
/-- CodeIsCachedAndGuestsAreExpanded: a word that no plane matches, of an image with a handler and of one without, nothing
outstanding and a result. -/
theorem test_witness_noPlane :
    ([[(9, 0x10)], []].all fun m =>
      let s := { guest false [] with decs := [{ cluster := 0, ctx := 1, pers := 1, gen := 0, image := m, bad := none, used := 0 }] }
      [s, withPend 1 .sf s].all fun s => (s.find ⟨0, 0, false⟩).any fun v => v.issues && v.p.pers ≠ 0 && v.p.exp.isNone &&
        cachedHalf s 0 1 v.p.pc = some 0 && s.decOps = [] && (match imageFor s 0 1 1 0 0 with
          | (s1, .ok m') => decide (searchGuest m' 0 ((cachedHalf s1 0 1 (v.p.pc + 4)).map BitVec.toNat) = .noPlane) &&
              decide ((imgHndl m' = 0) = (m = []))
          | _ => false)) = true := by decide

/-- A save area that another package wrote at offset 0 of the pool at virtual 0x1000: one wave, gang 1. -/
def foreign : State :=
  { savedTeam 0x1000 .placed with
    mem := mapped.mem ++ [(0x201000, 0x45), (0x201001, 0x56), (0x201002, 0x41), (0x201003, 0x53), (0x201020, 1), (0x201028, 1)] }

/-- TeamsAreStoppedSavedRestoredAndEnd: nothing to cover before a save; a saved team that is next and its area; the area of another
package; a slot that waits for the matrix engine. -/
theorem test_witness_areas :
    (let s := savedTeam 0x1000 .saved
     leaveNeeds mapped 0 = [] && (restoreNext s).any (fun t => t.id = 0 && (restoreCores s t).contains 0 && s.team? 0 = some t) &&
      restoreNext mapped = none && (foreign.ctx? 1).any (fun c => (foreign.launch? 0).any fun l => l.ctx = 1 &&
        (match bytesGot foreign homeSeat 1 c.spool 256 with
          | (s1, .got h) => let t := teamOfHeader s1 l 0 0 h
            decide (recBits h 0 0 32 = 0x53415645) && t.fitsACore && t.isNew s1 && decide (t.waves.length = 1) &&
              (match areaRead 1 c.spool s1 [] (spanPieces c.spool (saveSize s1 t)) with | .ok _ _ => true | _ => false)
          | _ => false)) &&
      ((onSlot (fun p => { p with status := .accepting 0x8000_0100_0000_3000 ⟨0, 0, 0⟩ }) mapped).find ⟨0, 0, false⟩).any
        (fun v => v.p.live && v.p.status = .accepting 0x8000_0100_0000_3000 ⟨0, 0, 0⟩) &&
      (s.pair 0).live && (s.pair 0).port) = true := by decide

/-- FrontEndEventsComplete, FaultUnitEventsComplete: nothing to cover before an add; a record and its tail counter in memory; a slot
of a team that a machine check stopped and that no record holds any more; its team there once. -/
theorem test_witness_faultUnit :
    (frontNeeds mapped 5 = [] && coverNeeds mapped faultCovered = [] && mapped.writes = [] && mapped.hostLines = [] &&
      decide (0x400000 + 8 ≤ 0x400040) &&
      (let s := onTeam (fun t => { t with checked := some 7 }) (ringed 0 0 [])
       (s.find ⟨0, 0, false⟩).any (fun v => v.t.checked = some 7) && (heldSlot s { frec 0 true false with cls := .mchk }).isSome) &&
      saw mapped (fun v => v.t.checked = none) && (mapped.teams.filter fun x => decide (x.id = 0)).length = 1) = true := by decide

/-- WindowCarveoutAndShootdownEventsComplete: a personality entry written before a shootdown of its context, and one after it. -/
theorem test_witness_persDue :
    ([some [(0, true, 1)], some [(0, true, 2)]].all fun nxt =>
      let s : State := { mapped with
        ctxs := mapped.ctxs.map (fun c => { c with persNext := nxt, persDue := some [(0, true, 1)] })
        shoot := { mapped.shoot with bsy := true, run := (1, 1) } }
      s.shoot.wholly 1 && (flushNeeds s (fun _ => true) ++ coverNeeds s PWrite.physical).isEmpty &&
        (s.ctxs.any fun c => c.persDue.isSome && decide ((c.persNext = c.persDue) = (nxt = some [(0, true, 1)])))) = true := by decide

/-- A host holds line 0 shared while a write of it is at level 4. -/
def sharedWhileWritten : State :=
  { mapped with
    hostLines := [{ line := 0, host := 0, st := .s, dirty := [], used := 0 }], hostMem := [0, 1], cxlReqs := [1]
    writes := [{ aWrite 0 4 [] with bytes := [(.phys 0, 7)] }], nextWrite := 1 }

/-- HostAndFabricEventsComplete: a line that its host writes back unasked and one it only shares; a line whose writes wait for a
back-invalidate; a peer that is lost; a peer's counter that faults, that is there, that poison or a negative value meets. -/
theorem test_witness_hostMore :
    (({ hostHeld with snoops := [] } : State).hostLines.any (fun x => x.line = 0 && x.st = .m) &&
      (sharedWhileWritten.hostLines.all fun x => x.st ≠ .m && x.st ≠ .e) && sharedWhileWritten.hostMem.contains 0 &&
      coverNeeds sharedWhileWritten (onLine 0) ≠ [] && coverNeeds mapped (onLine 0) = [] && hostMemVictim mapped 0 = none &&
      ({ fabric with peersLost := [1] } : State).peersLost.contains 1 && !fabric.peersLost.contains 1 &&
      (match ctrGot fabric 1 8 true with | (_, .bad _) => true | _ => false) &&
      (match ctrGot fabric 1 0x200000 false with | (_, .got _) => true | _ => false) && (0x8000000000000000 : Dword).msb &&
      (match walk fabric 1 0x1000 with
        | (s1, .ok e) => (locNeeds s1 (readLocs s1 8 (physTarget s1 (e.pa + (0x1000 - e.page)) e.mt))).isEmpty
        | _ => false)) = true := by decide

/-- PackageEventsComplete, ServiceEventsComplete: a placed team at a snapshot; a read of the debug port that waits for its tokens;
nothing to cover before an import, a store and a release; a store to a decoded alias. -/
theorem test_witness_packageMore :
    ((mapped.teams.any fun y => y.status = .placed) && decide ((snapValues mapped).length ≤ 1024) &&
      ({ keyed with metered := [{ cls := 1, bytes := 128, what := .debugRead 0x010000000000 128 }] } : State).metered.any (fun m =>
        m.what = .debugRead 0x010000000000 128 && (keyed.meter m.cls m.bytes).isSome) &&
      (locNeeds keyed [Loc.phys 0x010000000000]).isEmpty &&
      (locNeeds mapped (readLocs mapped 8 (physTarget mapped 0x400000 0))).isEmpty &&
      (coverNeeds mapped (coveredBy (Seat.of (.service 0) 0) fun w => decide (w.seat.who = (Seat.of (.service 0) 0).who))).isEmpty &&
      ctrNeeds mapped false (.phys 0x400000) = [] &&
      physTarget (metering 0 false) (decBase 0) 0 = .dec (decBase 0 / 2 ^ 38 % 64) (decBase 0 % 2 ^ 38) &&
      !physBad (metering 0 false) (decBase 0) 1) = true := by decide

/-! ### Witnesses: steps -/

/-- EveryStepKeepsMemoryAndWritesInOrder: a state with memory and a write in flight meets both forms. -/
theorem test_witness_orders :
    Memory.wf mapped.mem = true ∧ mapped.mem ≠ [] ∧ writesOk (after (exec (.vst { fm0 with d := 0x81, sa := 0, sb := 0x84, spc := 1, sz := 2 }) (withS [0x1000, 0] mapped))) = true := by
  decide

/-- The word of slot A is in the cache of core 0. -/
def fetched (w : Dword) : State := { base.pokeWord 0 1 0x1000 w with agenda := [.issue ⟨0, 0, false⟩] }

/-- The state a step of that turn runs in. -/
def atTurn (s : State) : State := { s with agenda := [], tick := s.tick + 1, cur := ⟨0, 0, false⟩ }

/-- AStepRunsTheDecodedInstruction: a cached word, a REP whose next word is cached and one whose is not; no word cached; a chain of
128; an instance of a REP, a word of an expansion, a guest instruction; a slot that may not issue. -/
theorem test_witness_step :
    (((atTurn (fetched 0)).view).any (fun v => plainFetch (atTurn (fetched 0)) = some v &&
        cachedWord (atTurn (fetched 0)) v.t.core v.t.ctx v.p.pc = some 0 && inServiceRange (atTurn (fetched 0)) v = v.p.svcOk) &&
      (let s := atTurn ((fetched 0xE000000000000000).pokeWord 0 1 0x1008 0)
       s.view.any fun v => (cachedWord s v.t.core v.t.ctx (v.p.pc + 8)).isSome) &&
      base.view.any (fun v => plainFetch base = some v && cachedWord base v.t.core v.t.ctx v.p.pc = none && inServiceRange base v = v.p.svcOk) &&
      saw (onSlot (fun p => { p with chainOpen := true, chainLen := 128 }) base) (fun v => v.p.poisonStop = none && v.p.chainOpen && v.p.chainLen = 128) &&
      saw (onSlot (fun p => { p with rep := some default }) base) (fun v => v.p.poisonStop = none && !v.p.chainOpen && v.p.rep.isSome) &&
      saw expanding (fun v => v.p.rep.isNone && v.p.exp.any fun x => x.words[x.idx]? = some 0) &&
      (let s := onSlot (fun p => { p with pers := 1 }) (fetched 0)
       s.view.any fun v => v.p.rep.isNone && v.p.exp.isNone && v.p.pers ≠ 0 && (cachedHalf s v.t.core v.t.ctx v.p.pc).isSome) &&
      State.reset.view.isNone && encode .shootdownDone = none && base.agenda = []) = true := by decide

/-- UnassignedOpcodesAreExactlyThese: the slot in turn of `base`. -/
theorem test_witness_unassignedWord : base.view.isSome = true ∧ decodeWord 0x01C0000000000000 = .unassignedOpcode 0x01C0000000000000 := by
  decide

/-- One function of a container: its tile level needs feature 1, its loop level feature 0, its scalar level none. -/
def container : List Byte :=
  bytesOf 0x48545950 4 ++ bytesOf 1 2 ++ bytesOf 1 2 ++ List.replicate 56 0 ++
    (bytesOf 2 8 ++ bytesOf 0x100 8) ++ (bytesOf 1 8 ++ bytesOf 0x200 8) ++ (bytesOf 0 8 ++ bytesOf 0x300 8) ++ List.replicate 16 0

/-- The highest level whose features the translator supports is taken (R392). -/
theorem test_chosenLevel : chosenLevel 3 container 0 = some .tile ∧ chosenLevel 1 container 0 = some .loop ∧
    chosenLevel 0 container 0 = some .scalar := by decide

/-- A shard of step `step`, number `i` of two. -/
def shardAt (i step : Nat) : Shard :=
  { header := bytesOf 0x4B434852 4 ++ bytesOf i 4 ++ bytesOf 2 4 ++ bytesOf 0 4 ++ bytesOf step 8 ++ List.replicate 40 0, body := [] }

/-- The latest step of which every shard is there, or none (R437). -/
theorem test_latestWhole : latestWhole [shardAt 0 7, shardAt 1 7, shardAt 0 8] = some 7 ∧ latestWhole [shardAt 0 7, shardAt 0 8] = none := by
  decide

/-- A walk caches the non-leaf entries it passes, and the next walk of the die starts behind them (R121). -/
theorem test_walkCache :
    (let s := (walkBy mapped 0 1 0x1000).1
     s.walkCache.map WalkEntry.level = [2, 3, 4] ∧ (walkCached s 0 1 0x200000).map WalkEntry.level = some 2 ∧
       walkCached s 1 1 0x200000 = none ∧ walkCached s 0 2 0x200000 = none) := by decide

end Sys2Proof.Tests
end

section
/-!
PROOFS. What handing over a record changes, and the slot a fault leaves (R393, R399).
-/

namespace Sys2Proof.Machine

/-- A record handed over changes nothing but the records that wait and their numbers. -/
theorem State.addRec_frame (s : State) (r : FRec) (priv : Bool) :
    s.addRec r priv = { s with recs := (s.addRec r priv).recs, nextRec := (s.addRec r priv).nextRec } := by
  unfold State.addRec
  dsimp only
  split <;> split <;> rfl

@[simp] theorem State.team?_addRec (s : State) (r : FRec) (priv : Bool) (id : Nat) :
    (s.addRec r priv).team? id = s.team? id := by
  rw [State.addRec_frame]; rfl

/-- A record of a context that has not ended, or of none, is queued behind the others (R402). -/
theorem State.addRec_recs {s : State} {r : FRec} (priv : Bool) (h : (s.ctx? r.ctx).map Context.ended ≠ some true) :
    (s.addRec r priv).recs =
      s.recs ++ [{ r with id := s.nextRec, toOs := s.recToOs r priv, cycle := s.cycle }] := by
  unfold State.addRec
  dsimp only
  cases hc : s.ctx? r.ctx with
  | none => rfl
  | some c =>
    have hlive : c.ended = false := by simpa [hc] using h
    simp [hlive]

/-- The slot that stopped on a fault, as it is found afterwards. -/
theorem State.find_stopSlot {s : State} {v : View} (hv : s.view = some v) (r : FRec) :
    (s.stopSlot v r).find v.sl = some
      { sl := v.sl, t := v.t.setWave v.sl.wave (v.w.setSlot v.sl.b (v.p.holdOn s.nextRec))
        w := v.w.setSlot v.sl.b (v.p.holdOn s.nextRec), p := v.p.holdOn s.nextRec } := by
  obtain ⟨hsl, ht, ⟨w0, hw, -⟩, -⟩ := State.view_spec hv
  have hlen : v.sl.wave < v.t.waves.length := hsl ▸ (List.getElem?_eq_some_iff.1 hw).1
  unfold State.stopSlot
  rw [State.putSlot_eq, State.find_putWave (by rw [State.team?_addRec, hsl]; exact ht) hlen, Wave.slot_setSlot]

/-- The record a stop hands over, unless its context has ended. -/
theorem State.stopSlot_recs {s : State} {r : FRec} (v : View) (h : (s.ctx? r.ctx).map Context.ended ≠ some true) :
    ∃ x, (s.stopSlot v r).recs = s.recs ++ [x] ∧ x.cls = r.cls ∧ x.pc = r.pc ∧ x.sl = some v.sl :=
  ⟨_, State.addRec_recs _ h, rfl, rfl, rfl⟩

/-- Outside an expansion a fault ends the chain and holds the slot where it stands. -/
theorem Slot.holdOn_plain {p : Slot} (he : p.exp = none) (id : Nat) :
    p.holdOn id = { p.endChain with idle := 0, status := .held id } := by
  simp [Slot.holdOn, Slot.endChain, he]

end Sys2Proof.Machine
end

section
/-!
PROOFS. BRDIV: the places its two ways go on at, and the wave it leaves in each case of R341.
-/

namespace Sys2Proof.Machine

/-! ### Going on outside a REP and an expansion -/

/-- A control operation that goes on moves the PC by one word and leaves the lanes. -/
theorem Slot.onward_word {p : Slot} (hr : p.rep = none) (he : p.exp = none) :
    p.onward.pc = p.pc + 8 ∧ p.onward.mask = p.mask ∧ p.onward.owned = p.owned := by
  obtain ⟨hpc, -, hmask, howned, -⟩ := Slot.afterOther_frame p false
  exact ⟨hpc.trans (by rw [Slot.retire_word hr he]), hmask, howned⟩

/-- A control operation that jumps outside an expansion ends the chain and sets the PC. -/
theorem Slot.goTo_plain {p : Slot} (he : p.exp = none) (target : Dword) :
    p.goTo target = { p.endChain with pc := target } := by
  simp [Slot.goTo, Slot.jump, Slot.endChain, he]

/-- A format B target outside an expansion counts words from the PC (R35). -/
theorem Slot.branchTarget_plain {p : Slot} (he : p.exp = none) (disp : BitVec 32) :
    p.branchTarget disp = p.pc + disp.signExtend 64 * 8 := by
  simp [Slot.branchTarget, he]

/-! ### The wave BRDIV leaves -/

/-- The wave with one more entry on its divergence stack. -/
def Wave.pushDiv (w : Wave) (e : DivEntry) : Wave := { w with stack := e :: w.stack }

@[simp] theorem Wave.pushDiv_slot (w : Wave) (e : DivEntry) (b : Bool) : (w.pushDiv e).slot b = w.slot b := rfl
@[simp] theorem Wave.pushDiv_stack (w : Wave) (e : DivEntry) : (w.pushDiv e).stack = e :: w.stack := rfl
@[simp] theorem Wave.pushDiv_v (w : Wave) (e : DivEntry) : (w.pushDiv e).v = w.v := rfl
@[simp] theorem Wave.pushDiv_s (w : Wave) (e : DivEntry) : (w.pushDiv e).s = w.s := rfl
@[simp] theorem Wave.pushDiv_k (w : Wave) (e : DivEntry) : (w.pushDiv e).k = w.k := rfl

/-- The slot that keeps the lanes not taken, before it goes on. -/
def Slot.withoutLanes (p : Slot) (tk : Lanes) : Slot := { p with owned := p.owned &&& ~~~tk, mask := p.mask &&& ~~~tk }

/-- The lanes not taken are those whose predicate bit is clear. -/
theorem and_not_and (m k : Lanes) : m &&& ~~~(m &&& k) = m &&& ~~~k := by
  ext i hi
  cases hm : m[i] <;> simp [hm]

section
variable (s : State) (v : View) (t : Dword) {k : Lanes}

/-- No lane taken: UNIF, and the slot goes on. -/
theorem divWave_none (hk : v.p.mask &&& k = 0) :
    divWave s v t k =
      (v.w.pushDiv { kind := .unif, ownerB := v.sl.b, pc := 0, lanes := 0 }).setSlot v.sl.b v.p.onward := by
  simp [divWave, hk, Wave.pushDiv]

/-- Every lane taken: UNIF, and the slot branches. -/
theorem divWave_all (hk : v.p.mask &&& k ≠ 0) (hr : v.p.mask &&& ~~~(v.p.mask &&& k) = 0) :
    divWave s v t k =
      (v.w.pushDiv { kind := .unif, ownerB := v.sl.b, pc := 0, lanes := 0 }).setSlot v.sl.b (v.p.goTo t) := by
  rw [and_not_and] at hr
  simp only [divWave, hk, hr, or_true, if_true, if_false, Wave.pushDiv]

/-- Some lanes taken beside a live slot: they wait on the stack. -/
theorem divWave_defer (hk : v.p.mask &&& k ≠ 0) (hr : v.p.mask &&& ~~~(v.p.mask &&& k) ≠ 0)
    (hy : (v.w.slot (!v.sl.b)).live = true) :
    divWave s v t k =
      (v.w.pushDiv { kind := .defer, ownerB := v.sl.b, pc := t, lanes := v.p.mask &&& k }).setSlot v.sl.b
        (v.p.withoutLanes (v.p.mask &&& k)).onward := by
  rw [and_not_and] at hr
  simp only [divWave, hk, hr, hy, or_self, if_true, if_false, Wave.pushDiv, Slot.withoutLanes, and_not_and]

/-- Some lanes taken beside a free slot: it runs them. -/
theorem divWave_split (hk : v.p.mask &&& k ≠ 0) (hr : v.p.mask &&& ~~~(v.p.mask &&& k) ≠ 0)
    (hy : (v.w.slot (!v.sl.b)).live = false) :
    divWave s v t k =
      ((v.w.pushDiv { kind := .split, ownerB := v.sl.b, pc := 0, lanes := 0 }).setSlot v.sl.b
        (v.p.withoutLanes (v.p.mask &&& k)).onward).setSlot (!v.sl.b) (v.p.fork s v.sl (v.p.mask &&& k) t) := by
  rw [and_not_and] at hr
  simp only [divWave, hk, hr, hy, or_self, if_false, Bool.false_eq_true, Wave.pushDiv, Slot.withoutLanes, and_not_and]

/-- BRDIV writes no register the slots share. -/
theorem divWave_registers (k : Lanes) :
    (divWave s v t k).v = v.w.v ∧ (divWave s v t k).s = v.w.s ∧ (divWave s v t k).k = v.w.k := by
  by_cases hk : v.p.mask &&& k = 0
  · simp [divWave_none s v t hk]
  by_cases hr : v.p.mask &&& ~~~(v.p.mask &&& k) = 0
  · simp [divWave_all s v t hk hr]
  cases hy : (v.w.slot (!v.sl.b)).live
  · simp [divWave_split s v t hk hr hy]
  · simp [divWave_defer s v t hk hr hy]

/-- The slot that keeps the lanes not taken goes on at the next word. -/
theorem Slot.withoutLanes_onward {p : Slot} (hr : p.rep = none) (he : p.exp = none) (tk : Lanes) :
    (p.withoutLanes tk).onward.pc = p.pc + 8 ∧ (p.withoutLanes tk).onward.mask = p.mask &&& ~~~tk ∧
      (p.withoutLanes tk).onward.owned = p.owned &&& ~~~tk :=
  Slot.onward_word (p := p.withoutLanes tk) hr he

end

/-- The slot that runs the lanes taken: it starts at the target with those lanes and a copy of the banked registers
(R206, R341). -/
theorem Slot.fork_spec (x : Slot) (s : State) (sl : SlotId) (tk : Lanes) (pc : Dword) :
    (x.fork s sl tk pc).live = true ∧ (x.fork s sl tk pc).pc = pc ∧ (x.fork s sl tk pc).owned = tk ∧
      (x.fork s sl tk pc).mask = tk ∧ (x.fork s sl tk pc).bank = x.bank ∧ (x.fork s sl tk pc).pers = x.pers :=
  ⟨rfl, rfl, rfl, rfl, rfl, rfl⟩

/-! ### Issuing it -/

section
variable {f : FmtB} {s : State} {v : View} (hv : s.view = some v) (hc : brdivCauses f v = []) (hp : v.p.pend = [])
include hv hc hp

/-- BRDIV with nothing wrong and nothing outstanding, where the stack has room. -/
theorem exec_brdiv_room (hl : v.w.stack.length < 32) :
    exec (.brdiv f) s =
      .next (s.putWave v (divWave s v (v.p.branchTarget f.disp) (readKReg v.w f.sa.toNat))) := by
  show execBrdiv f s = _
  rw [execBrdiv, issue_run hv hc (by simp [hp]), if_neg (by omega)]

/-- BRDIV with nothing wrong and nothing outstanding, on a full stack. -/
theorem exec_brdiv_full (hl : 32 ≤ v.w.stack.length) :
    exec (.brdiv f) s = .next (s.stopSlot v (FRec.ofSlot s v .dstk 1)) := by
  show execBrdiv f s = _
  rw [execBrdiv, issue_run hv hc (by simp [hp]), if_pos hl]

end

/-- Settles O22: the wave of each case of R341 where the stack has room, and the stop on a full one. -/
theorem divergentBranchesComplete : Obligations.DivergentBranchesComplete := by
  intro f s v hv hc hp he hr b tk target
  by_cases hl : v.w.stack.length < 32
  · obtain ⟨hregV, hregS, hregK⟩ := divWave_registers s v target (readKReg v.w f.sa.toNat)
    refine ⟨_, _, exec_brdiv_room hv hc hp hl, State.find_putWave_view hv _, ?_⟩
    rw [Slot.branchTarget_plain he]
    refine ⟨hregV, hregS, hregK, fun _ => ⟨onlyWave_putWave hv _, fun hk => ?_, fun hk hrest => ?_, fun hk hrest => ?_⟩,
      fun hfull => absurd hl (by omega)⟩
    · rw [divWave_none s v _ hk]
      simp [b, Slot.onward_word hr he]
    · rw [divWave_all s v _ hk hrest]
      simp [b, target, Slot.goTo_plain he, Slot.endChain]
    · obtain ⟨hpc, hmask, howned⟩ := Slot.withoutLanes_onward hr he tk
      cases hy : (v.w.slot (!b)).live
      · rw [divWave_split s v _ hk hrest hy]
        simp [b, tk, target, hpc, hmask, howned, Slot.fork_spec]
      · rw [divWave_defer s v _ hk hrest hy]
        simp [b, tk, target, hpc, hmask, howned]
  · have hfull : 32 ≤ v.w.stack.length := by omega
    refine ⟨_, _, exec_brdiv_full hv hc hp hfull, State.find_stopSlot hv _, by simp, by simp, by simp,
      fun h => absurd h hl, fun _ => ?_⟩
    rw [Slot.holdOn_plain he]
    exact ⟨Wave.setSlot_stack .., rfl, rfl, fun hctx => State.stopSlot_recs v hctx⟩

end Sys2Proof.Machine
end

section
/-!
PROOFS. What a step does in a slot's turn, and the time a step lets pass.
-/

namespace Sys2Proof.Machine

/-! ### Turns -/

/-- A step takes the first turn of the agenda. -/
theorem step_turn {s : State} {t : Turn} {r : List Turn} (h : s.agenda = t :: r) :
    step s = runTurn t { s with agenda := r, tick := s.tick + 1 } := by
  simp [step, State.takeTurn, h]

/-- A step in an empty agenda takes the default turn. -/
theorem step_default {s : State} (h : s.agenda = []) : step s = step { s with agenda := [defaultTurn s] } := by
  rw [step_turn (s := { s with agenda := [defaultTurn s] }) rfl]
  simp [step, State.takeTurn, h]

section
variable {s : State} {sl : SlotId} {r : List Turn} (h : s.agenda = .issue sl :: r)
include h

/-- A slot that may not issue has no operation to run. -/
theorem step_no_slot (hv : State.view { s with agenda := r, tick := s.tick + 1, cur := sl } = none) :
    step s = .fault .noIssuingSlot := by
  rw [step_turn h]
  simp only [runTurn, hv]

/-- A slot's turn runs the operation the slot issues next. -/
theorem step_run {v : View} {i : Instr} {t : State}
    (hv : State.view { s with agenda := r, tick := s.tick + 1, cur := sl } = some v)
    (hn : nextInstr { s with agenda := r, tick := s.tick + 1, cur := sl } v = .run i t) : step s = exec i t := by
  rw [step_turn h]
  simp only [runTurn, hv, hn]

/-- A slot's turn stops the slot where that is what it does next. -/
theorem step_stop {v : View} {t : State}
    (hv : State.view { s with agenda := r, tick := s.tick + 1, cur := sl } = some v)
    (hn : nextInstr { s with agenda := r, tick := s.tick + 1, cur := sl } v = .stop t) : step s = .next t := by
  rw [step_turn h]
  simp only [runTurn, hv, hn]

end

/-! ### What a slot issues next -/

section
variable {s : State} {v : View} (hp : v.p.poisonStop = none)
include hp

/-- A chain of 128 operations ends first (R42). -/
theorem nextInstr_chain (ho : v.p.chainOpen = true) (hl : 128 ≤ v.p.chainLen) :
    nextInstr s v = .run (.chainHoldLimit v.sl) s := by
  simp [nextInstr, hp, ho, hl]

variable (hlim : ¬(v.p.chainOpen = true ∧ 128 ≤ v.p.chainLen))
include hlim

/-- Under a REP the slot issues the word of its next repetition (R45). -/
theorem nextInstr_rep {x : RepRun} (hr : v.p.rep = some x) : nextInstr s v = .run (decodeWord x.instance_) s := by
  simp [nextInstr, hp, hlim, hr]

/-- In an expansion the slot issues its next word (R369). -/
theorem nextInstr_word {x : Expansion} {w : Dword} (hr : v.p.rep = none) (he : v.p.exp = some x)
    (hw : x.words[x.idx]? = some w) : nextInstr s v = .run (decodeWord w) s := by
  simp [nextInstr, hp, hlim, hr, he, hw]

/-- A slot asked to stop does so at a boundary outside a chain (R344). -/
theorem nextInstr_boundary (hi : v.p.inChain = false) (hr : v.p.rep = none) (he : v.p.exp = none)
    (hb : v.p.stopAtBoundary = true) : nextInstr s v = .stop (s.putSlot v v.p.stopHere) := by
  simp [nextInstr, hp, hlim, hr, he, hb, hi]

/-- Otherwise it fetches at its PC. -/
theorem nextInstr_fetch (hr : v.p.rep = none) (he : v.p.exp = none)
    (hb : v.p.stopAtBoundary = true → v.p.inChain = true) : nextInstr s v = fetchAt s v := by
  have hstay : (v.p.stopAtBoundary && !v.p.inChain) = false := by
    cases hs : v.p.stopAtBoundary
    · rfl
    · simp [hb hs]
  simp [nextInstr, hp, hlim, hr, he, hstay]

end

section
variable {s : State} {v : View} (hs : inServiceRange s v = v.p.svcOk)
include hs

/-- A slot of personality 0 that stays on its side of the service range fetches a word. -/
theorem fetchAt_word (h0 : v.p.pers = 0) : fetchAt s v = fetchWord s v := by
  simp only [fetchAt, hs, Bool.and_not_self, Bool.false_eq_true, if_false, if_true]
  exact if_pos h0

/-- A slot of a guest personality decodes the guest instruction the cache holds (R367). -/
theorem fetchAt_guest (h0 : v.p.pers ≠ 0) (hw : (cachedHalf s v.t.core v.t.ctx v.p.pc).isSome = true) :
    fetchAt s v = .run (.guestDecode v.sl) s := by
  obtain ⟨w, hw⟩ := Option.isSome_iff_exists.1 hw
  simp [fetchAt, hs, h0, hw]

end

/-- A cached word runs, a REP once the word it repeats is cached too (R26, R45). -/
theorem fetchWord_cached {s : State} {v : View} {w : Dword} (hw : cachedWord s v.t.core v.t.ctx v.p.pc = some w)
    (hrep : wordCls w ≠ 7 ∨ wordOp w ≠ 0 ∨ (cachedWord s v.t.core v.t.ctx (v.p.pc + 8)).isSome = true) :
    fetchWord s v = .run (decodeWord w) s := by
  have hready : ¬(wordCls w = 7 ∧ wordOp w = 0 ∧ (cachedWord s v.t.core v.t.ctx (v.p.pc + 8)).isNone = true) := by
    rintro ⟨h7, h0, hn⟩
    rcases hrep with h | h | h
    · exact h h7
    · exact h h0
    · rw [Option.isNone_iff_eq_none.1 hn] at h; cases h
  simp only [fetchWord, hw, if_neg hready]

/-- A missing line is filled first (R384). -/
theorem fetchWord_missing {s : State} {v : View} (hw : cachedWord s v.t.core v.t.ctx v.p.pc = none) :
    fetchWord s v = .run (.instructionCacheFill v.t.core v.t.ctx v.p.pc.toNat) s := by
  simp only [fetchWord, hw]

/-- A slot that fetches a plain word: what it issues next is that fetch. -/
theorem nextInstr_plainFetch {s : State} {v : View} (hf : plainFetch s = some v)
    (hs : inServiceRange s v = v.p.svcOk) : nextInstr s v = fetchWord s v := by
  unfold plainFetch at hf
  split at hf
  · cases hf
  split at hf
  · next hcond =>
    cases hf
    obtain ⟨h0, he, hr, hp, hlim, hb, -⟩ := hcond
    rw [nextInstr_fetch (Option.isNone_iff_eq_none.1 hp) hlim (Option.isNone_iff_eq_none.1 hr)
      (Option.isNone_iff_eq_none.1 he) hb, fetchAt_word hs h0]
  · cases hf

/-! ### Time -/

/-- Charging lines with an error changes the records alone. -/
theorem State.chargeLines_frame (s : State) (p : Nat → Bool) :
    s.chargeLines p = { s with recs := (s.chargeLines p).recs, nextRec := (s.chargeLines p).nextRec } := by
  unfold State.chargeLines
  generalize s.poison.filter _ = lines
  induction lines generalizing s with
  | nil => rfl
  | cons l r ih =>
    rw [List.foldl_cons, ih, State.charge, State.addRec_frame]

/-- What time passing leaves of the state: memory and the writes in flight as they were, the next cycle, and each clock at
its own rate (R23, R423). -/
theorem State.pass_frame (s : State) (n : Nat) :
    (s.pass n).mem = s.mem ∧ (s.pass n).writes = s.writes ∧ (s.pass n).cycle = s.cycle + 1 ∧
      (s.pass n).eqx = s.eqx.pass n ∧ (s.pass n).islands = s.islands.map fun x => x.pass n := by
  unfold State.pass
  rw [State.chargeLines_frame]
  exact ⟨rfl, rfl, rfl, rfl, rfl⟩

/-- A running island counts the cycles of its own clock (R23, R440). -/
theorem Island.pass_eq (x : Island) (n : Nat) :
    x.pass n = if x.off then x else
      { x with clock := x.clock + (x.cur * n + x.part) / 1000, part := (x.cur * n + x.part) % 1000 } := by
  unfold Island.pass Island.cycles
  cases x.off <;> rfl

/-- The Equinox counter runs at half rate in a hold (R423). -/
theorem Equinox.pass_hold {e : Equinox} (h : e.hold = true) (n : Nat) :
    (e.pass n).now = e.now + BitVec.ofNat 64 ((n + bitOf e.half) / 2) := by
  simp [Equinox.pass, h, bitOf]

/-- Without an offset to close it counts nanoseconds. -/
theorem Equinox.pass_exact {e : Equinox} (h : e.hold = false) (hf : e.fix = 0) (n : Nat) :
    (e.pass n).now = e.now + BitVec.ofNat 64 n := by
  simp [Equinox.pass, h, hf]

/-- The correction of a slew is within 200 parts per million, and goes toward the offset and not past it (R423). -/
theorem Equinox.slew_bounds (e : Equinox) (n : Nat) :
    (e.slew n).natAbs ≤ 200 * n ∧ (e.slew n).natAbs ≤ e.fix.natAbs ∧ (0 ≤ e.fix → 0 ≤ e.slew n) ∧
      (e.fix < 0 → e.slew n ≤ 0) := by
  have hrate : min 200 (Config.slewPpm e.ofs) * n ≤ 200 * n := Nat.mul_le_mul_right n (min_le_left _ _)
  unfold Equinox.slew
  dsimp only
  split <;> omega

/-- While an offset is closed the counter moves within 200 parts per million of the time passed, keeps what is left below a
nanosecond, and the offset shrinks without changing its sign (R423). -/
theorem Equinox.pass_slew {e : Equinox} (h : e.hold = false) (hf : e.fix ≠ 0) (hp : e.part < 1000000) (n : Nat) :
    ∃ k, (e.pass n).now = e.now + BitVec.ofNat 64 k ∧ 1000000 * k ≤ 1000200 * n + e.part ∧
      999800 * n + e.part < 1000000 * (k + 1) ∧ (e.pass n).part < 1000000 ∧
      (e.pass n).fix.natAbs ≤ e.fix.natAbs ∧ (0 < e.fix → 0 ≤ (e.pass n).fix) ∧ (e.fix < 0 → (e.pass n).fix ≤ 0) := by
  obtain ⟨hrate, hfix, hpos, hneg⟩ := e.slew_bounds n
  have hpass : e.pass n = { e with
      now := e.now + BitVec.ofNat 64 ((1000000 * n + e.part + e.slew n).toNat / 1000000)
      part := (1000000 * n + e.part + e.slew n).toNat % 1000000
      fix := e.fix - e.slew n } := by
    simp [Equinox.pass, h, hf]
  rw [hpass]
  generalize e.slew n = d at *
  refine ⟨_, rfl, by omega, by omega, ?_, ?_, ?_, ?_⟩
  all_goals dsimp only; omega

/-- Settles O58: each turn by what the slot issues next, by the event's meaning, or by the time that passes. -/
theorem aStepRunsTheDecodedInstruction : Obligations.AStepRunsTheDecodedInstruction := by
  refine ⟨fun s sl r hag => ⟨step_no_slot hag, ?word, ?fill, ?chain, ?boundary⟩, ?event, ?time, fun s => step_default⟩
  case word =>
    intro v w hv hf hw hs hrep
    exact step_run hag hv ((nextInstr_plainFetch hf hs).trans (fetchWord_cached hw hrep))
  case fill =>
    intro v hv hf hw hs
    exact step_run hag hv ((nextInstr_plainFetch hf hs).trans (fetchWord_missing hw))
  case chain =>
    intro v hv hp ho hl
    exact step_run hag hv (nextInstr_chain hp ho hl)
  case boundary =>
    intro v hv hp ho
    have hlim : ¬(v.p.chainOpen = true ∧ 128 ≤ v.p.chainLen) := by simp [ho]
    have hi : v.p.inChain = false := by simp [Slot.inChain, ho]
    refine ⟨fun x hr => ?_, fun x w hr he hw => ?_, fun hr he hb => ?_, fun hr he hb h0 hs hw => ?_⟩
    · exact step_run hag hv (nextInstr_rep hp hlim hr)
    · exact step_run hag hv (nextInstr_word hp hlim hr he hw)
    · exact step_stop hag hv (nextInstr_boundary hp hlim hi hr he hb)
    · exact step_run hag hv ((nextInstr_fetch hp hlim hr he (fun h => by simp [hb] at h)).trans (fetchAt_guest hs h0 hw))
  case event =>
    intro s i r hag
    rw [step_turn hag]
    refine ⟨fun henc => ?_, fun henc => ?_⟩
    · simp only [runTurn, henc, Option.isNone_none, if_true]
    · simp [runTurn, henc]
  case time =>
    intro s n r hag
    obtain ⟨hmem, hwrites, hcycle, heqx, hislands⟩ :=
      State.pass_frame { s with agenda := r, tick := s.tick + 1 } n
    refine ⟨_, step_turn hag, hmem, hwrites, hcycle, ?_, ?_, ?_, fun k x hx => ?_⟩
    · intro hh; rw [heqx]; exact Equinox.pass_hold hh n
    · intro hh hfix; rw [heqx]; exact Equinox.pass_exact hh hfix n
    · intro hh hfix hpart; rw [heqx]; exact Equinox.pass_slew hh hfix hpart n
    · rw [hislands, List.getElem?_map, hx, Option.map_some, Island.pass_eq]

end Sys2Proof.Machine
end

section
/-!
PROOFS. The registers that reset gives as tables, entry by entry.
-/

namespace Sys2Proof.Machine

/-- Every window is disabled after reset (R100). -/
theorem reset_window {w : Nat} (h : w < 64) : State.reset.window w = .zero := by
  simp only [State.window, State.reset, List.getElem?_replicate_of_lt h, Option.getD_some]

/-- Every queue is disabled after reset (R323, R424). -/
theorem reset_queue {q : Nat} (h : q < 64) : State.reset.queue q = .zero := by
  simp only [State.queue, State.reset, List.getElem?_replicate_of_lt h, Option.getD_some]

/-- With no write in flight there is none out of order. -/
theorem WritesOk.of_none {s : State} (h : s.writes = []) : WritesOk s := by
  simp [WritesOk, h]

/-- Settles O54: each table of `State.reset` lists one value for every entry, and every other register is a field of it. -/
theorem resetGivesTheSpecifiedValues : Obligations.ResetGivesTheSpecifiedValues := by
  refine ⟨fun d hd => ?l2, fun w hw => ?window, fun q hq => ?queue, rfl, rfl, rfl, rfl, rfl, rfl, fun n hn => ?island,
    rfl, rfl, rfl, rfl, rfl, rfl, rfl, rfl, rfl, rfl, rfl, rfl, rfl, rfl, rfl, fun n hn => ?key, fun c hc => ?egress,
    fun n hn => ?link, rfl, rfl, rfl, rfl, rfl, rfl, rfl, rfl, rfl, rfl, rfl, rfl, rfl, nil_wf, WritesOk.of_none rfl⟩
  case l2 => exact ⟨List.getElem?_replicate_of_lt hd, List.getElem?_replicate_of_lt hd⟩
  case window =>
    rw [reset_window hw]
    exact ⟨List.getElem?_replicate_of_lt hw, rfl, rfl, rfl, rfl⟩
  case queue =>
    rw [reset_queue hq]
    exact ⟨rfl, rfl, rfl, rfl, rfl, rfl, rfl, rfl⟩
  case island => exact ⟨_, List.getElem?_replicate_of_lt hn, rfl, rfl, rfl, rfl, rfl⟩
  case key => exact ⟨_, List.getElem?_replicate_of_lt hn, rfl, rfl⟩
  case egress => exact ⟨_, List.getElem?_replicate_of_lt hc, rfl, rfl, rfl, rfl⟩
  case link => exact ⟨_, List.getElem?_replicate_of_lt hn, rfl, rfl, rfl⟩

end Sys2Proof.Machine
end

section
/-!
PROOFS. The operations whose exec is the shared course of the ALU-class operations, or of those with a tracked result.
-/

namespace Sys2Proof.Machine

section
variable {i : FmtA → Instr} {m : FmtA → AluForm}

/-- An operation that is the ALU course with a result of its destination's kind completes (R40 to R43). -/
theorem aluCompletes_of_alu {r : FmtA → View → AluResult} (he : ∀ f s, exec (i f) s = alu (m f) f (r f) s)
    (hk : ∀ f v, KindOk (m f).d (r f v)) : AluCompletes i m r := fun f s v hv hc =>
  ⟨_, (he f s).trans (issue_run hv hc rfl), alu_effect hv hc (hk f v)⟩

/-- An operation that is the course of tracked results completes where its class has room (R48, R49). -/
theorem lateCompletes_of_late {c : ResClass} {q : FmtA → View → Pend} {g : FmtA → View → Conds}
    (he : ∀ f s, exec (i f) s = late (m f) c f (q f) (g f) s) : LateCompletes i m c q g := fun f s v hv hc hn =>
  ⟨_, (he f s).trans (issue_run hv hc (decide_eq_false (by omega))), late_effect hv _ _⟩

end

/-- Three words put side by side by shifts. -/
theorem concat3_eq_shifts (x y z : Word) :
    x.zeroExtend 96 <<< 64 ||| y.zeroExtend 96 <<< 32 ||| z.zeroExtend 96 = (x ++ y ++ z : Lanes) := by
  apply BitVec.eq_of_getLsbD_eq
  intro j hj
  simp only [BitVec.getLsbD_or, BitVec.getLsbD_shiftLeft, BitVec.truncate_eq_setWidth, BitVec.getLsbD_setWidth,
    BitVec.getLsbD_append]
  by_cases h1 : j < 32
  · simp [h1, hj, show j < 64 by omega]
  · by_cases h2 : j < 64
    · simp [h1, h2, hj, BitVec.getLsbD_of_ge z j (by omega), show j - 32 < 32 by omega, show j - 32 < 96 by omega]
    · simp [h1, h2, hj, BitVec.getLsbD_of_ge z j (by omega), BitVec.getLsbD_of_ge y (j - 32) (by omega), Nat.sub_sub,
        show j - 32 < 96 by omega, show ¬j - 32 < 32 by omega, show j - 64 < 96 by omega]

/-- Settles O6: each is the ALU course with a predicate as its result. -/
theorem predicateOperationsComplete : Obligations.PredicateOperationsComplete := by
  refine ⟨?_, ?_, ?_, ?_, ?_, ?kmovFs, ?_⟩
  case kmovFs =>
    exact aluCompletes_of_alu
      (fun f s => congrArg (alu _ f · s) (funext fun v => congrArg AluResult.pred (concat3_eq_shifts ..)))
      fun _ _ => trivial
  all_goals exact aluCompletes_of_alu (fun _ _ => rfl) fun _ _ => trivial

/-- Settles O11: each is the course of tracked results with its function. -/
theorem specialFunctionsComplete : Obligations.SpecialFunctionsComplete := by
  refine ⟨?_, ?_, ?_, ?_, ?_, ?_, ?_, ?_⟩
  all_goals exact lateCompletes_of_late fun _ _ => rfl

/-- Settles O12: each is the course of tracked results with the value of its rule. -/
theorem crossLaneOperationsComplete : Obligations.CrossLaneOperationsComplete := by
  refine ⟨?_, ?_, ?_, ?_, ?_, ?_, ?_, ?any, ?all, ?_, ?_, ?_, ?_⟩
  case any => exact lateCompletes_of_late fun f s => by simp [exec, execVany, vote]
  case all => exact lateCompletes_of_late fun f s => by simp [exec, execVall, vote]
  all_goals exact lateCompletes_of_late fun _ _ => rfl

end Sys2Proof.Machine
end

section
/-!
PROOFS. The kill of a wave: what it leaves of the state, and %err after it (R54, R56 to R58).
-/

namespace Sys2Proof.Machine

/-! ### Fields of a word built by shifts -/

/-- A number of `n` bits shifted to `lo` shows nothing in a range it does not meet. -/
theorem extract_shift_out {x lo a b : Nat} (n : Nat) (hx : x < 2 ^ n) (h : a + b ≤ lo ∨ lo + n ≤ a) :
    (BitVec.ofNat 128 x <<< lo).extractLsb' a b = 0#b := by
  apply BitVec.eq_of_getLsbD_eq
  intro i hi
  have hbit : lo + n ≤ a → x.testBit (a + i - lo) = false := fun h =>
    Nat.testBit_lt_two_pow (lt_of_lt_of_le hx (Nat.pow_le_pow_right (by decide) (by omega)))
  rcases h with h | h
  · simp [show a + i < lo by omega]
  · simp [BitVec.getLsbD_ofNat, hbit h]

/-- A number of `n` bits shifted to `lo` is read back there. -/
theorem extract_shift_in {x lo n : Nat} (hn : lo + n ≤ 128) :
    (BitVec.ofNat 128 x <<< lo).extractLsb' lo n = BitVec.ofNat n x := by
  apply BitVec.eq_of_getLsbD_eq
  intro i hi
  simp only [BitVec.getLsbD_extractLsb', BitVec.getLsbD_shiftLeft, BitVec.getLsbD_ofNat]
  simp [hi, show lo + i < 128 by omega, show i < 128 by omega]

/-- The fields of %err as a kill writes it (R58): each is read back where it stands. -/
theorem errWord_fields {cause core place xop : Nat} (b exp : Bool) (pc : Dword) (hcause : cause < 2 ^ 6)
    (hcore : core < 2 ^ 10) (hplace : place < 2 ^ 4) (hxop : xop < 2 ^ 3) :
    let w := errWord cause core place xop b exp pc
    w.extractLsb' 64 64 = pc ∧ w.extractLsb' 63 1 = 1#1 ∧ w.extractLsb' 62 1 = 0#1 ∧ w.extractLsb' 56 6 = BitVec.ofNat 6 cause ∧
      w.extractLsb' 46 10 = BitVec.ofNat 10 core ∧ w.extractLsb' 42 4 = BitVec.ofNat 4 place ∧
      w.extractLsb' 41 1 = BitVec.ofNat 1 b.toNat ∧ w.extractLsb' 40 1 = BitVec.ofNat 1 exp.toNat ∧
      w.extractLsb' 37 3 = BitVec.ofNat 3 xop := by
  have hpc : pc.zeroExtend 128 = BitVec.ofNat 128 pc.toNat := by simp
  have hbool (c : Bool) : (BitVec.ofBool c).zeroExtend 128 = BitVec.ofNat 128 c.toNat := by cases c <;> rfl
  have hone : ((1 <<< 63 : Nat) : BitVec 128) = BitVec.ofNat 128 1 <<< 63 := by decide
  have hb (c : Bool) : c.toNat < 2 ^ 1 := by cases c <;> decide
  have hpc' := pc.isLt
  simp only [errWord, hpc, hbool, hone, BitVec.extractLsb'_or]
  refine ⟨?pc, ?_, ?_, ?_, ?_, ?_, ?_, ?_, ?_⟩
  all_goals
    simp (disch := omega) only [extract_shift_out 64 hpc', extract_shift_out 1 (show 1 < 2 ^ 1 by decide),
      extract_shift_out 6 hcause, extract_shift_out 10 hcore, extract_shift_out 4 hplace, extract_shift_out 1 (hb b), extract_shift_out 1 (hb exp),
      extract_shift_out 3 hxop, extract_shift_in, BitVec.or_zero, BitVec.zero_or]
  case pc => simp

/-- MK alone shows in no other field of %err. -/
theorem extract_mk_out (x : BitVec 128) {a b : Nat} (h : a + b ≤ 62 ∨ 63 ≤ a) :
    (x &&& (1 <<< 62 : Nat)).extractLsb' a b = 0#b := by
  have hone : ((1 <<< 62 : Nat) : BitVec 128) = BitVec.ofNat 128 1 <<< 62 := by decide
  rw [BitVec.extractLsb'_and, hone, extract_shift_out 1 (by decide) (by omega), BitVec.and_zero]

/-! ### The state a kill leaves -/

/-- The end of its wave stops a slot (R57). -/
theorem Slot.ended_live (p : Slot) : p.ended.live = false := by
  unfold Slot.ended
  split <;> rfl

/-- A wave as its kill leaves it (R57). -/
def Wave.killed (w : Wave) : Wave := { w with status := .killed, a := w.a.ended, b := w.b.ended }

/-- A team as the kill of one of its waves leaves it. -/
def Team.killWave (t : Team) (i : Nat) : Team := { t with waves := t.waves.modify i Wave.killed }

theorem Team.killWave_waves (t : Team) (i : Nat) : (t.killWave i).waves[i]? = t.waves[i]?.map Wave.killed := by
  simp [Team.killWave]

/-- The word of %err that the kill of the slot's wave would write alone (R58). -/
def killWord (v : View) (cause : Nat) : BitVec 128 :=
  errWord cause v.t.core v.w.place ((v.p.exp.map fun x => x.idx + if v.p.rep.isSome then 1 else 0).getD 0) v.sl.b
    v.p.exp.isSome v.p.opAddr

/-- The kill among those of its cycle: its place, its record, its word (R58). -/
def killEntry (s : State) (v : View) (cause : Nat) : Nat × Nat × BitVec 128 :=
  ((v.t.core * 16 + v.w.place) * 2 + v.sl.b.toNat, s.nextRec, killWord v cause)

/-- The kills of the context's cycle after this one. -/
def killsAfter (s : State) (v : View) (cause : Nat) (c : Context) : ErrCycle := c.killed s.cycle (killEntry s v cause)

/-- %err and its kills written into a context. -/
def Context.setErr (c : Context) (e : ErrCycle) : Context := { c with err := e.word, errNow := e }

section
variable (s : State) (v : View) (cause : Nat)

/-- A kill changes %err of the context, the records, the wave and its waits, and nothing else. -/
theorem State.killWave_frame :
    s.killWave v cause = { s with
      ctxs := s.ctxs.map fun c => if c.num = v.t.ctx then c.setErr (killsAfter s v cause c) else c
      recs := (s.killWave v cause).recs
      nextRec := (s.killWave v cause).nextRec
      teams := s.teams.map fun t => if t.id = v.sl.team then t.killWave v.sl.wave else t
      waiters := s.waiters.filter fun x => !(decide (x.sl.team = v.sl.team) && decide (x.sl.wave = v.sl.wave)) } := by
  unfold State.killWave
  dsimp only
  rw [State.addRec_frame]
  cases s.ctx? v.t.ctx <;> rfl

/-- The teams after a kill. -/
theorem State.team?_killWave (id : Nat) : (s.killWave v cause).team? id =
    (s.team? id).map fun t => if t.id = v.sl.team then t.killWave v.sl.wave else t := by
  rw [State.killWave_frame]
  exact find?_map_id (f := fun t => t.killWave v.sl.wave) (fun _ => rfl) id

theorem State.team?_killWave_ne {id : Nat} (h : id ≠ v.sl.team) : (s.killWave v cause).team? id = s.team? id := by
  rw [State.team?_killWave]
  cases ht : s.team? id with
  | none => rfl
  | some t => simp [State.team?_id ht, h]

theorem State.team?_killWave_self {t : Team} (h : s.team? v.sl.team = some t) :
    (s.killWave v cause).team? v.sl.team = some (t.killWave v.sl.wave) := by
  rw [State.team?_killWave, h]
  simp [State.team?_id h]

end

/-- The contexts after a change of those with one number. -/
theorem ctx?_map {l : List Context} {n : Nat} {f : Context → Context} (hf : ∀ c, (f c).num = c.num) {c : Context}
    (h : (l.find? fun c => decide (c.num = n) && decide (n ≠ 0)) = some c) :
    ((l.map fun c => if c.num = n then f c else c).find? fun c => decide (c.num = n) && decide (n ≠ 0)) = some (f c) := by
  have hn : n ≠ 0 := by
    have := List.find?_some h
    simp only [Bool.and_eq_true, decide_eq_true_eq] at this
    exact this.2
  induction l with
  | nil => cases h
  | cons x r ih =>
    by_cases hx : x.num = n
    · simp only [List.find?_cons, hx, hn, decide_true, ne_eq, not_false_eq_true, Bool.and_true, Option.some.injEq] at h
      subst h
      simp [hx, hf, hn]
    · simp only [List.find?_cons, hx, decide_false, Bool.false_and] at h
      simpa [hx] using ih h

/-- The context of a killed wave: %err and its kills of the cycle, nothing else (R58). -/
theorem State.ctx?_killWave {s : State} {v : View} (cause : Nat) {c : Context} (h : s.ctx? v.t.ctx = some c) :
    (s.killWave v cause).ctx? v.t.ctx = some (c.setErr (killsAfter s v cause c)) := by
  rw [State.killWave_frame]
  exact ctx?_map (f := fun c => c.setErr (killsAfter s v cause c)) (fun _ => rfl) h

/-- The record of a kill, behind those that wait, each with %err as its kill wrote it (R393, R398). -/
theorem State.killWave_recs {s : State} {v : View} (cause : Nat) {c : Context} (h : s.ctx? v.t.ctx = some c)
    (hlive : c.ended = false) : ∃ priv, (s.killWave v cause).recs =
      (s.recs ++ [{ FRec.ofSlot s v .kill cause with id := s.nextRec, toOs := priv, cycle := s.cycle }]).map
        (FRec.withErr (killsAfter s v cause c)) := by
  have hctx : (s.modCtx v.t.ctx fun c => c.setErr (killsAfter s v cause c)).ctx? v.t.ctx =
      some (c.setErr (killsAfter s v cause c)) :=
    ctx?_map (f := fun c => c.setErr (killsAfter s v cause c)) (fun _ => rfl) h
  have hrec := State.addRec_recs (s := s.modCtx v.t.ctx fun c => c.setErr (killsAfter s v cause c))
    (r := FRec.ofSlot s v .kill cause) (s.privileged v.t v.p) (by
      show Option.map Context.ended (State.ctx? _ v.t.ctx) ≠ _
      rw [hctx]; simp [Context.setErr, hlive])
  refine ⟨_, Eq.trans ?_ (congrArg (List.map (FRec.withErr (killsAfter s v cause c))) hrec)⟩
  unfold State.killWave
  dsimp only
  rw [h]
  rfl

/-! ### %err after a kill -/

/-- The first kill of the context: its word stands, MK as it was (R58). -/
theorem errAfterKill_first {err new : BitVec 128} (h : err.getLsbD 63 = false) :
    errAfterKill err new = new ||| (err &&& (1 <<< 62 : Nat)) := by
  simp only [errAfterKill, h]
  rfl

/-- A later kill marks MK (R58). -/
theorem errAfterKill_later {err new : BitVec 128} (h : err.getLsbD 63 = true) :
    errAfterKill err new = err ||| (1 <<< 62 : Nat) := by
  simp only [errAfterKill, h]
  rfl

/-- Of two kills the word of the first stands, and MK is set (R58). -/
theorem errFold_two {err x : BitVec 128} (a i b j : Nat) (y : BitVec 128) (h : err.getLsbD 63 = false)
    (hx : x.getLsbD 63 = true) : errFold err [(a, i, x), (b, j, y)] = x ||| (1 <<< 62 : Nat) := by
  rw [errFold_cons, errFold_cons, errFold_nil,
    errAfterKill_first h, errAfterKill_later (by rw [BitVec.getLsbD_or, hx, Bool.true_or]), BitVec.or_assoc]
  congr 1
  ext i hi
  simp

/-- One bit as a field of width 1. -/
theorem getLsbD_of_extract {n : Nat} {x : BitVec n} {i : Nat} {b : Bool} (h : x.extractLsb' i 1 = BitVec.ofNat 1 b.toNat) :
    x.getLsbD i = b := by
  have := congrArg (fun y : BitVec 1 => y.getLsbD 0) h
  cases b <;> simpa using this

section
variable {v : View} {cause : Nat} (hcause : cause < 2 ^ 6) (hcore : v.t.core < 768) (hplace : v.w.place < 16)
  (hexp : ∀ x, v.p.exp = some x → x.words.length ≤ 8 ∧ x.idx + (if v.p.rep.isSome then 1 else 0) < x.words.length)
include hcause hcore hplace hexp

/-- The fields of %err that a kill writes, whatever MK is (R58). -/
theorem killWord_fields (y : BitVec 128) :
    let e := killWord v cause ||| (y &&& (1 <<< 62 : Nat))
    e.extractLsb' 64 64 = v.p.opAddr ∧ e.getLsbD 63 = true ∧ e.getLsbD 62 = y.getLsbD 62 ∧
      e.extractLsb' 56 6 = BitVec.ofNat 6 cause ∧ (e.extractLsb' 46 10).toNat = v.t.core ∧
      (e.extractLsb' 42 4).toNat = v.w.place ∧ e.getLsbD 41 = v.sl.b ∧ e.getLsbD 40 = v.p.exp.isSome ∧
      (e.extractLsb' 37 3).toNat = (v.p.exp.map fun x => x.idx + if v.p.rep.isSome then 1 else 0).getD 0 := by
  have hxop : (v.p.exp.map fun x => x.idx + if v.p.rep.isSome then 1 else 0).getD 0 < 2 ^ 3 := by
    rcases he : v.p.exp with _ | x
    · simp
    · obtain ⟨hlen, hidx⟩ := hexp x he
      simp only [Option.map_some, Option.getD_some]
      omega
  obtain ⟨hpc, hkl, hmk, hca, hco, hpl, hb, he, hx⟩ :=
    errWord_fields v.sl.b v.p.exp.isSome v.p.opAddr hcause (show v.t.core < 2 ^ 10 by omega) (show v.w.place < 2 ^ 4 by omega) hxop
  have hmk' : (killWord v cause).getLsbD 62 = false := getLsbD_of_extract (b := false) hmk
  have hone : ((1 <<< 62 : Nat) : BitVec 128).getLsbD 62 = true := by decide
  intro e
  have hin {a n : Nat} (h : a + n ≤ 62 ∨ 63 ≤ a) : e.extractLsb' a n = (killWord v cause).extractLsb' a n := by
    rw [BitVec.extractLsb'_or, extract_mk_out y h, BitVec.or_zero]
  refine ⟨(hin (by decide)).trans hpc, getLsbD_of_extract (b := true) ((hin (by decide)).trans hkl), ?mk,
    (hin (by decide)).trans hca, ?core, ?place, getLsbD_of_extract ((hin (by decide)).trans hb),
    getLsbD_of_extract ((hin (by decide)).trans he), ?xop⟩
  case mk =>
    rw [BitVec.getLsbD_or, BitVec.getLsbD_and, hmk', hone, Bool.and_true, Bool.false_or]
  case core => rw [hin (by decide), killWord, hco, BitVec.toNat_ofNat, Nat.mod_eq_of_lt (by omega)]
  case place => rw [hin (by decide), killWord, hpl, BitVec.toNat_ofNat, Nat.mod_eq_of_lt (by omega)]
  case xop => rw [hin (by decide), killWord, hx, BitVec.toNat_ofNat, Nat.mod_eq_of_lt (by omega)]

end

/-- A record that no kill of the cycle names keeps its %err. -/
theorem FRec.withErr_unmentioned {e : ErrCycle} {x : FRec} (h : ∀ k ∈ e.kills, k.2.1 ≠ x.id) : x.withErr e = x := by
  have hw : e.wrote x.id = none := if_neg (by simpa only [List.any_eq_true, decide_eq_true_eq, not_exists, not_and] using h)
  simp [FRec.withErr, hw]

/-- An unassigned opcode kills the wave with cause 0x01 (R54, R56). -/
theorem exec_unassignedOpcode {s : State} {v : View} (hv : s.view = some v) (word : Dword) :
    exec (.unassignedOpcode word) s = .next (s.killWave v 0x01) := by
  obtain ⟨c, hc, -, he⟩ := issue_kill hv (causes := fun _ => [0x01]) (wait := fun _ => false)
    (run := fun v => s.putSlot v v.p.onward) (by decide)
  rw [List.mem_singleton.1 hc] at he
  exact he

/-- Settles O17: the state a kill leaves, and %err by the kills of its cycle. -/
theorem unassignedOpcodesKillTheWave : Obligations.UnassignedOpcodesKillTheWave := by
  intro s v word c hv hctx hcore hplace hexp own
  obtain ⟨hsl, ht, ⟨w0, hw0, -, hw⟩, -⟩ := State.view_spec hv
  rw [← hsl] at ht hw0 hw
  have hfields := killWord_fields (cause := 0x01) (by decide) hcore hplace hexp
  have hwave : (v.t.killWave v.sl.wave).waves[v.sl.wave]? = some w0.killed := by
    rw [Team.killWave_waves, hw0, Option.map_some]
  have hframe := State.killWave_frame s v 0x01
  refine ⟨_, _, _, _, exec_unassignedOpcode hv word, State.team?_killWave_self s v 0x01 ht, hwave, rfl, w0.a.ended_live,
    w0.b.ended_live, by rw [hw]; simp [Wave.killed], by rw [hw]; simp [Wave.killed], by rw [hw]; simp [Wave.killed], rfl,
    fun i hi => ?waves, fun id hid => State.team?_killWave_ne s v 0x01 hid, by rw [hframe], by rw [hframe], by rw [hframe],
    by rw [hframe], by rw [hframe], State.ctx?_killWave 0x01 hctx, rfl, fun hfirst => ?first, fun hcyc p id w0 hk hb hw0 => ?next,
    fun hlive => ?record, fun x hx => ?others⟩
  case first =>
    have hkills : killsAfter s v 0x01 c = { cycle := s.cycle, base := c.err, kills := [killEntry s v 0x01] } :=
      Context.killed_first _ hfirst
    have herr : (c.setErr (killsAfter s v 0x01 c)).err = errAfterKill c.err (killWord v 0x01) := by rw [hkills]; rfl
    rw [herr]
    refine ⟨errAfterKill_later, fun hkl => ?_, congrArg ErrCycle.cycle hkills, congrArg ErrCycle.base hkills, killWord v 0x01,
      congrArg ErrCycle.kills hkills⟩
    rw [errAfterKill_first hkl]
    obtain ⟨hpc, hkl, hmk, hca, hco, hpl, hb, he, hx⟩ := hfields c.err
    exact ⟨hpc.trans (by simp [Slot.opAddr, and_comm]), hkl, hca, hco, hpl, hb, he, hx, hmk⟩
  case next =>
    have hkills : killsAfter s v 0x01 c = { c.errNow with kills := putKill (killEntry s v 0x01) [(p, id, w0)] } := by
      rw [← hk]
      exact Context.killed_next _ hcyc (by simp [hk])
    have herr : (c.setErr (killsAfter s v 0x01 c)).err =
        errFold c.errNow.base (putKill (killEntry s v 0x01) [(p, id, w0)]) := by rw [hkills]; rfl
    rw [herr]
    refine ⟨fun hp => ?_, fun hp => ?_⟩
    · have hput : putKill (killEntry s v 0x01) [(p, id, w0)] = [(p, id, w0), killEntry s v 0x01] :=
        if_neg (show ¬own < p by omega)
      rw [hput]
      exact errFold_two _ _ _ _ _ hb hw0
    · have hput : putKill (killEntry s v 0x01) [(p, id, w0)] = [killEntry s v 0x01, (p, id, w0)] :=
        if_pos (show own < p from hp)
      obtain ⟨-, hkl, -⟩ := hfields 0#128
      rw [BitVec.zero_and, BitVec.or_zero] at hkl
      obtain ⟨-, hkl', hmk, -, hco, hpl, hbit, -⟩ := hfields (BitVec.allOnes 128)
      rw [BitVec.allOnes_and] at hkl' hmk hco hpl hbit
      rw [hput, killEntry, errFold_two _ _ _ _ _ hb hkl]
      exact ⟨hco, hpl, hbit, hkl', hmk.trans (by decide)⟩
  case record =>
    obtain ⟨priv, hrecs⟩ := State.killWave_recs 0x01 hctx hlive
    exact ⟨_, hrecs, rfl, rfl, rfl, rfl, rfl, rfl, rfl⟩
  case waves => simp [Team.killWave, Ne.symm hi]
  case others =>
    rcases hx with hx | hx
    · exact FRec.withErr_other hx
    · exact FRec.withErr_unmentioned hx

end Sys2Proof.Machine
end

section
/-!
PROOFS. The round trip of the encoding: every operation is some word, and every word is the word of its operation
(R26 to R34, R45, R53, R54).
-/

namespace Sys2Proof.Laws.RoundTrip

/-- The round trip of every operation, constructor by constructor. -/
theorem statement_all (i : Instr) : Statement i :=
  Instr.casesOn (motive := Statement) i
    sadd ssub saddc ssubb smul smulhs smulhz sand sor sxor sandn sshl sshrz sshrs srot sbfx sbfi sclz sctz spopc sbrev
    smins sminz smaxs smaxz scmp ssel smov smovi sadd64 ssub64 sshl64 sshr64 smul64 vadd vsub vmul vmulhs vmulhz vmad
    vand vor vxor vandn vshl vshrz vshrs vmins vminz vmaxs vmaxz vabs vcmp vsel vmov vbfx vbfi vpopc vclz vadd64 vqdot
    vfadd vfsub vfmul vfma vfmin vfmax vfcmp vfclass vfcvt vcvti vfrnd vhfma vhdot vrcp vrsq vsqrt vexp2 vlog2 vsin
    vcos vtanh vshfl vshflx vshflup vshfldn vreadl vwritel vballot vany vall vredadd vredmin vredmax vscan kand kor
    kxor knot kmov kmovFs ld st vld vst vldb vstb atom red pref ipref fence fencew cadd caddx cwait cwait2 ctest cset
    segnew segatt segdet segrel segfree segevict segqry cjoin cleave mzero mldb mma mmam mdist mtopk mstore mepi
    mspill mfill mgemm mstat copy copyh copyg copyw qfence qstat br brc brdiv join call ret jmpi exit ppt waitc yield
    nop brk trap rep srd swr grow launch gsw gret halt chainHoldLimit trackedResultWrite writePerform tlbFill
    instructionCacheFill guestDecode copyCommandStart copyTransfer copyCompletion combiningBufferTimeout
    predictorDecay parkedPollingReread waiterWake segmentRefillGranule segmentWritebackGranule windowEnable
    windowDisable windowFlush windowFlushDone carveoutChange carveoutShrinkProceed carveoutChangeDone chrsvWrite
    shootdown counterAddWindowWrite hostHdmRead hostHdmWrite hostSnoopAnswer hostSnoop hostLost peerReadRequest
    peerWrite peerCounterAdd remoteResponse flitReplay managementMessage timingMessage peerLost linkDown linkRetry
    queueEnable qverUpdate reasonClear frontEndTake launchReady gangStagePlace launchComplete preemptionRequest
    forcedStop teamSave teamRestore yieldSwap teamExit faultRecordWrite disposition mchk eqsetWrite snapgo
    islandControl powerLimitThrottle keyDerive keyClear egressRelease almbaseWrite almack almanacPortSelect
    leaderTakeover servicePairMismatch packageReset attestationRequest sealImport registerWrite unassignedOpcode
    mgemmSequencerStep matrixAcceptance cxlCacheResponse servicePairAccess shootdownDone feed startTimeReached
    kernelReplace fehbWrite frontEndWatchdog snapshotLatch leaderHeartbeat

end Sys2Proof.Laws.RoundTrip

namespace Sys2Proof

open Sys2Proof.Laws

/-! ### Writing back the fields that were read -/

/-- A word with its class and opcode replaced: the other 54 bits are those of `w` (R26). -/
def refield (cls op : Nat) (w : Dword) : Dword :=
  place (BitVec.ofNat 3 cls) 61 ||| place (BitVec.ofNat 7 op) 54 ||| place (field w 0 54) 0

/-- Two fields that stand side by side are one field. -/
theorem place_join (w : Dword) {lo n a m : Nat} (h : a = lo + n) :
    place (field w a m) a ||| place (field w lo n) lo = place (field w lo (m + n)) lo := by
  subst h
  apply BitVec.eq_of_getLsbD_eq
  intro i hi
  simp only [BitVec.getLsbD_or, getLsbD_place, BitVec.getLsbD_extractLsb']
  by_cases h1 : lo ≤ i
  · have e1 : lo + (i - lo) = i := by omega
    by_cases h2 : lo + n ≤ i
    · have e2 : lo + n + (i - (lo + n)) = i := by omega
      simp [h1, h2, hi, e1, e2, show (i - (lo + n) < m) ↔ i - lo < m + n by omega, show ¬i - lo < n by omega]
    · simp [h1, h2, hi, e1, show i - lo < n by omega, show i - lo < m + n by omega]
  · simp [h1, show ¬lo + n ≤ i by omega]

/-- The same behind other fields. -/
theorem place_join_behind (x w : Dword) {lo n a m : Nat} (h : a = lo + n) :
    x ||| place (field w a m) a ||| place (field w lo n) lo = x ||| place (field w lo (m + n)) lo := by
  rw [BitVec.or_assoc, place_join w h]

/-- One bit is a field of width 1. -/
theorem bit1_getLsbD (w : Dword) (i : Nat) : bit1 (w.getLsbD i) = field w i 1 := by
  apply BitVec.eq_of_getLsbD_eq
  intro j hj
  obtain rfl : j = 0 := by omega
  simp

/-- A word is its own class, opcode and other bits. -/
theorem refield_self (w : Dword) : refield (wordCls w) (wordOp w) w = w := by
  have hc : BitVec.ofNat 3 (wordCls w) = field w 61 3 := BitVec.eq_of_toNat_eq (by simp [wordCls])
  have ho : BitVec.ofNat 7 (wordOp w) = field w 54 7 := BitVec.eq_of_toNat_eq (by simp [wordOp])
  rw [refield, hc, ho, place_join w (by decide), place_join w (by decide)]
  simp [place]

section
variable (cls op : Nat) (w : Dword)

theorem writeFmtA_read : writeFmtA cls op (readFmtA w) = refield cls op w := by
  simp only [writeFmtA, writeCtl, readFmtA, readCtl, bit1_getLsbD, place_join_behind, refield]

theorem writeFmtW_read : writeFmtW cls op (readFmtW w) = refield cls op w := by
  simp only [writeFmtW, writeCtl, readFmtW, readCtl, bit1_getLsbD, place_join_behind, refield]

theorem writeFmtI_read : writeFmtI cls op (readFmtI w) = refield cls op w := by
  simp only [writeFmtI, writeCtl, readFmtI, readCtl, bit1_getLsbD, place_join_behind, refield]

theorem writeFmtM_read : writeFmtM cls op (readFmtM w) = refield cls op w := by
  simp only [writeFmtM, writeCtl, readFmtM, readCtl, bit1_getLsbD, place_join_behind, refield]

theorem writeFmtB_read : writeFmtB cls op (readFmtB w) = refield cls op w := by
  simp only [writeFmtB, writeCtl, readFmtB, readCtl, bit1_getLsbD, place_join_behind, refield]

theorem writeFmtC_read : writeFmtC cls op (readFmtC w) = refield cls op w := by
  simp only [writeFmtC, writeCtl, readFmtC, readCtl, bit1_getLsbD, place_join_behind, refield]

theorem writeFmtX_read : writeFmtX cls op (readFmtX w) = refield cls op w := by
  simp only [writeFmtX, writeCtl, readFmtX, readCtl, bit1_getLsbD, place_join_behind, refield]

theorem writeFmtP_read : writeFmtP (readFmtP w) = refield 7 0 w := by
  simp only [writeFmtP, readFmtP, place_join_behind, refield]
  simp [place]

end

/-! ### The operation of every word -/

/-- The operation is well formed, and its word is `w` with this class and opcode. -/
def Spelled (cls op : Nat) (w : Dword) (i : Instr) : Prop := i.wellFormed = true ∧ encode i = some (refield cls op w)

/-- Opcode 0x54 of class 1: OPB[0] tells KMOV and KMOV.FS apart (R227). -/
theorem spelled_kmov (w : Dword) : Spelled 1 0x54 w (decodeVector 0x54 w) := by
  show Spelled 1 0x54 w (if w.getLsbD 0 then .kmovFs (readFmtA w) else .kmov (readFmtA w))
  have hopb : (readFmtA w).opb.getLsbD 0 = w.getLsbD 0 := by simp [readFmtA]
  split
  · next h => exact ⟨hopb.trans h, congrArg some (writeFmtA_read ..)⟩
  · next h => exact ⟨by rw [RoundTrip.wf_kmov, hopb, Bool.eq_false_of_not_eq_true h]; rfl, congrArg some (writeFmtA_read ..)⟩

/-- The assigned opcodes of class 0 (R53). -/
theorem spelled_scalar (w : Dword) : ∀ op ∈ assignedOps 0, Spelled 0 op w (decodeScalar op w) := by
  intro op h
  fin_cases h
  iterate 28 exact ⟨rfl, congrArg some (writeFmtA_read ..)⟩
  · exact ⟨rfl, congrArg some (writeFmtI_read ..)⟩
  iterate 5 exact ⟨rfl, congrArg some (writeFmtA_read ..)⟩

/-- The assigned opcodes of class 1 (R53). -/
theorem spelled_vector (w : Dword) : ∀ op ∈ assignedOps 1, Spelled 1 op w (decodeVector op w) := by
  intro op h
  fin_cases h
  iterate 65 exact ⟨rfl, congrArg some (writeFmtA_read ..)⟩
  · exact spelled_kmov w

/-- The assigned opcodes of class 2 (R53). -/
theorem spelled_memory (w : Dword) : ∀ op ∈ assignedOps 2, Spelled 2 op w (decodeMemory op w) := by
  intro op h
  fin_cases h
  iterate 9 exact ⟨rfl, congrArg some (writeFmtM_read ..)⟩
  · exact ⟨rfl, congrArg some (writeFmtB_read ..)⟩
  iterate 2 exact ⟨rfl, congrArg some (writeFmtC_read ..)⟩

/-- The assigned opcodes of class 3 (R53). -/
theorem spelled_counter (w : Dword) : ∀ op ∈ assignedOps 3, Spelled 3 op w (decodeCounter op w) := by
  intro op h
  fin_cases h
  iterate 6 exact ⟨rfl, congrArg some (writeFmtC_read ..)⟩
  iterate 9 exact ⟨rfl, congrArg some (writeFmtW_read ..)⟩

/-- The assigned opcodes of class 4 (R53). -/
theorem spelled_matrix (w : Dword) : ∀ op ∈ assignedOps 4, Spelled 4 op w (decodeMatrix op w) := by
  intro op h
  fin_cases h
  iterate 7 exact ⟨rfl, congrArg some (writeFmtX_read ..)⟩
  · exact ⟨rfl, congrArg some (writeFmtW_read ..)⟩
  iterate 2 exact ⟨rfl, congrArg some (writeFmtX_read ..)⟩
  iterate 2 exact ⟨rfl, congrArg some (writeFmtW_read ..)⟩

/-- The assigned opcodes of class 5 (R53). -/
theorem spelled_copy (w : Dword) : ∀ op ∈ assignedOps 5, Spelled 5 op w (decodeCopy op w) := by
  intro op h
  fin_cases h
  iterate 4 exact ⟨rfl, congrArg some (writeFmtW_read ..)⟩
  · exact ⟨rfl, congrArg some (writeFmtC_read ..)⟩
  · exact ⟨rfl, congrArg some (writeFmtW_read ..)⟩

/-- The assigned opcodes of class 6 (R53). -/
theorem spelled_control (w : Dword) : ∀ op ∈ assignedOps 6, Spelled 6 op w (decodeControl op w) := by
  intro op h
  fin_cases h
  iterate 3 exact ⟨rfl, congrArg some (writeFmtB_read ..)⟩
  · exact ⟨rfl, congrArg some (writeFmtW_read ..)⟩
  · exact ⟨rfl, congrArg some (writeFmtB_read ..)⟩
  iterate 4 exact ⟨rfl, congrArg some (writeFmtW_read ..)⟩
  · exact ⟨rfl, congrArg some (writeFmtI_read ..)⟩
  iterate 2 exact ⟨rfl, congrArg some (writeFmtW_read ..)⟩
  iterate 2 exact ⟨rfl, congrArg some (writeFmtI_read ..)⟩

/-- The assigned opcodes of class 7 (R53). -/
theorem spelled_system (w : Dword) : ∀ op ∈ assignedOps 7, Spelled 7 op w (decodeSystem op w) := by
  intro op h
  fin_cases h
  · exact ⟨rfl, congrArg some (writeFmtP_read w)⟩
  iterate 7 exact ⟨rfl, congrArg some (writeFmtW_read ..)⟩


/-- Every word of an assigned opcode is the word of the operation it decodes to. -/
theorem spelled_word {w : Dword} (h : wordAssigned w = true) : Spelled (wordCls w) (wordOp w) w (decodeWord w) := by
  have hlt : wordCls w < 8 := (w.extractLsb' 61 3).isLt
  have hop : wordOp w ∈ assignedOps (wordCls w) := by simpa [wordAssigned] using h
  show Spelled _ _ w (match wordCls w with
    | 0 => decodeScalar (wordOp w) w
    | 1 => decodeVector (wordOp w) w
    | 2 => decodeMemory (wordOp w) w
    | 3 => decodeCounter (wordOp w) w
    | 4 => decodeMatrix (wordOp w) w
    | 5 => decodeCopy (wordOp w) w
    | 6 => decodeControl (wordOp w) w
    | _ => decodeSystem (wordOp w) w)
  generalize wordCls w = c at hlt hop ⊢
  generalize wordOp w = op at hop ⊢
  match c, hlt, hop with
  | 0, _, hop => exact spelled_scalar w op hop
  | 1, _, hop => exact spelled_vector w op hop
  | 2, _, hop => exact spelled_memory w op hop
  | 3, _, hop => exact spelled_counter w op hop
  | 4, _, hop => exact spelled_matrix w op hop
  | 5, _, hop => exact spelled_copy w op hop
  | 6, _, hop => exact spelled_control w op hop
  | 7, _, hop => exact spelled_system w op hop

/-- A word of an opcode R53 does not list decodes to itself as an unassigned opcode (R54). -/
theorem decodeWord_unassigned {w : Dword} (h : wordAssigned w = false) : decodeWord w = .unassignedOpcode w := by
  obtain ⟨x, hx, hd⟩ := RoundTrip.unassignedOpcode w (by rw [RoundTrip.wf_unassigned, h]; rfl)
  cases hx
  exact hd

/-- Decoding a word answers a well-formed operation, whose word it is. -/
theorem decodeWord_spelled (w : Dword) : (decodeWord w).wellFormed = true ∧ encode (decodeWord w) = some w := by
  cases h : wordAssigned w
  · rw [decodeWord_unassigned h]
    exact ⟨by rw [RoundTrip.wf_unassigned, h]; rfl, rfl⟩
  · obtain ⟨hwf, he⟩ := spelled_word h
    exact ⟨hwf, he.trans (congrArg some (refield_self w))⟩

/-- The unassigned opcodes are those R53 does not list. -/
theorem decodeWord_unassigned_iff (w : Dword) : decodeWord w = .unassignedOpcode w ↔ wordAssigned w = false := by
  refine ⟨fun h => ?_, decodeWord_unassigned⟩
  have hwf := (decodeWord_spelled w).1
  rw [h, RoundTrip.wf_unassigned] at hwf
  simpa using hwf

/-! ### Bytes -/

/-- The bytes of a word, least significant first, hold the word (R3). -/
theorem wordOfBytes_bytesOfWord (w : Dword) : wordOfBytes (bytesOfWord w) = w := by
  have step (lo : Nat) (x : Dword) (h : x = w >>> (lo + 8)) : (x <<< 8) ||| (w.extractLsb' lo 8).setWidth 64 = w >>> lo := by
    subst h
    apply BitVec.eq_of_getLsbD_eq
    intro i hi
    simp only [BitVec.getLsbD_or, BitVec.getLsbD_shiftLeft, BitVec.getLsbD_ushiftRight, BitVec.getLsbD_setWidth,
      BitVec.getLsbD_extractLsb']
    by_cases h8 : i < 8
    · simp [h8, hi]
    · simp [h8, hi, show lo + 8 + (i - 8) = lo + i by omega]
  have h64 : (0 : Dword) = w >>> (56 + 8) := by
    apply BitVec.eq_of_getLsbD_eq
    intro i hi
    simp
  have h : wordOfBytes (bytesOfWord w) = w >>> 0 :=
    step 0 _ (step 8 _ (step 16 _ (step 24 _ (step 32 _ (step 40 _ (step 48 _ (step 56 0 h64)))))))
  rw [h, BitVec.ushiftRight_zero]

/-- Eight bytes and more decode to the word of the first eight. -/
theorem decodeBytes_bytesOfWord (w : Dword) (r : List Byte) : decodeBytes (bytesOfWord w ++ r) = .ok (decodeWord w, r) := by
  have hlen : (bytesOfWord w).length = 8 := by simp [bytesOfWord]
  have htake : (bytesOfWord w ++ r).take 8 = bytesOfWord w := List.take_left' hlen
  have hdrop : (bytesOfWord w ++ r).drop 8 = r := List.drop_left' hlen
  rw [decodeBytes, htake, hdrop, wordOfBytes_bytesOfWord, if_neg (by simp [hlen])]

/-- Settles O56: the round trip of each operation, the fields of each word written back, and the bytes of a word. -/
theorem decodeAndEncodeAgree : Obligations.DecodeAndEncodeAgree :=
  ⟨RoundTrip.statement_all, decodeWord_spelled, decodeWord_unassigned_iff, decodeBytes_bytesOfWord,
    fun _ h => if_pos h⟩

/-- Settles O57: each word by running the decoder. -/
theorem wordsOfTheSpecDecode : Obligations.WordsOfTheSpecDecode := by
  refine ⟨?_, ?_, ?_, ?_, ?_, ?_, ?_, ?_, ?_⟩ <;> decide

/-! ### The table of R54 -/

/-- The values R53 leaves out of class 0. -/
theorem unlisted_scalar : ∀ o < 128, o ∉ assignedOps 0 ↔
    o ∈ [0x07, 0x16, 0x17, 0x1E, 0x1F] ∨ (0x22 ≤ o ∧ o ≤ 0x27) ∨ 0x2D ≤ o := by
  decide

/-- The values R53 leaves out of class 1. -/
theorem unlisted_vector : ∀ o < 128, o ∉ assignedOps 1 ↔
    o ∈ [0x06, 0x07, 0x0F, 0x1E, 0x1F, 0x2D, 0x2E, 0x2F, 0x4D, 0x4E, 0x4F] ∨ (0x38 ≤ o ∧ o ≤ 0x3F) ∨ 0x55 ≤ o := by
  decide

/-- The values R53 leaves out of class 2. -/
theorem unlisted_memory : ∀ o < 128, o ∉ assignedOps 2 ↔
    o ∈ [0x06, 0x07, 0x0A, 0x0B, 0x0E, 0x0F] ∨ 0x12 ≤ o := by
  decide

/-- The values R53 leaves out of class 3. -/
theorem unlisted_counter : ∀ o < 128, o ∉ assignedOps 3 ↔
    (0x06 ≤ o ∧ o ≤ 0x0F) ∨ (0x17 ≤ o ∧ o ≤ 0x1F) ∨ 0x22 ≤ o := by
  decide

/-- The values R53 leaves out of class 4. -/
theorem unlisted_matrix : ∀ o < 128, o ∉ assignedOps 4 ↔
    o ∈ [0x06, 0x07] ∨ (0x0C ≤ o ∧ o ≤ 0x0F) ∨ 0x12 ≤ o := by
  decide

/-- The values R53 leaves out of class 5. -/
theorem unlisted_copy : ∀ o < 128, o ∉ assignedOps 5 ↔
    (0x04 ≤ o ∧ o ≤ 0x07) ∨ 0x0A ≤ o := by
  decide

/-- The values R53 leaves out of class 6. -/
theorem unlisted_control : ∀ o < 128, o ∉ assignedOps 6 ↔
    o = 0x07 ∨ (0x0D ≤ o ∧ o ≤ 0x0F) ∨ 0x12 ≤ o := by
  decide

/-- The values R53 leaves out of class 7. -/
theorem unlisted_system : ∀ o < 128, o ∉ assignedOps 7 ↔
    o ∈ [0x03, 0x06, 0x07] ∨ (0x0A ≤ o ∧ o ≤ 0x0F) ∨ 0x11 ≤ o := by
  decide

end Sys2Proof

namespace Sys2Proof.Machine

/-- Settles O59: the table of each class by its 128 values, and the kill by the meaning of the instruction. -/
theorem unassignedOpcodesAreExactlyThese : Obligations.UnassignedOpcodesAreExactlyThese := by
  refine ⟨fun w => (decodeWord_unassigned_iff w).trans ?_, fun s v w hv => ?_⟩
  · have hlt : wordCls w < 8 := (w.extractLsb' 61 3).isLt
    have hop : wordOp w < 128 := (w.extractLsb' 54 7).isLt
    rw [wordAssigned, ← Bool.not_eq_true, List.contains_iff_mem]
    generalize wordCls w = c at hlt ⊢
    generalize wordOp w = o at hop ⊢
    match c, hlt with
    | 0, _ => simp [unlisted_scalar o hop]
    | 1, _ => simp [unlisted_vector o hop]
    | 2, _ => simp [unlisted_memory o hop]
    | 3, _ => simp [unlisted_counter o hop]
    | 4, _ => simp [unlisted_matrix o hop]
    | 5, _ => simp [unlisted_copy o hop]
    | 6, _ => simp [unlisted_control o hop]
    | 7, _ => simp [unlisted_system o hop]
  · exact exec_unassignedOpcode hv w

end Sys2Proof.Machine
end

section
/-!
PROOFS. An operation with something wrong ends in the kill of its wave for the least cause (R56, R57).
-/

namespace Sys2Proof.Machine

/-- An operation that takes the common course of issuing is killed for the least of its causes. -/
theorem killedForLeast_of_issue {i : Instr} {causes : State → View → List Nat} (wait : State → View → Bool)
    (run : State → View → State) (he : ∀ s, exec i s = issue s (causes s) (wait s) (run s)) : KilledForLeast i causes := by
  intro s v hv hc
  rw [he]
  exact issue_kill hv hc

/-! ### The forms of classes 0 to 2 -/

/-- A claim about several operations of one form, operation by operation. -/
theorem forall_mem_sameForm {g : FmtA → AluForm} {ops : List (FmtA → Instr)} :
    (∀ x ∈ sameForm g ops, ∀ f, KilledForLeast (x.1 f) fun _ => (x.2 f).aluCauses f) ↔
      ∀ i ∈ ops, ∀ f, KilledForLeast (i f) fun _ => (g f).aluCauses f := by
  simp [sameForm]

/-- The same for those whose result is tracked. -/
theorem forall_mem_sameLate {c : ResClass} {g : FmtA → AluForm} {ops : List (FmtA → Instr)} :
    (∀ x ∈ sameLate c g ops, ∀ f, KilledForLeast (x.1 f) fun _ => (x.2.2 f).lateCauses x.2.1 f) ↔
      ∀ i ∈ ops, ∀ f, KilledForLeast (i f) fun _ => (g f).lateCauses c f := by
  simp [sameLate]

/-- Every operation whose result is written at once takes the common course. -/
theorem killedForLeast_aluForms : ∀ x ∈ aluForms, ∀ f, KilledForLeast (x.1 f) fun _ => (x.2 f).aluCauses f := by
  simp only [aluForms, scalarForms, vectorForms, floatForms, List.flatten_cons, List.flatten_nil, List.forall_mem_append,
    forall_mem_sameForm, List.forall_mem_cons, List.not_mem_nil, false_imp_iff, implies_true, and_true]
  and_intros
  all_goals exact fun f => killedForLeast_of_issue _ _ fun _ => rfl

/-- And every operation whose result is tracked. -/
theorem killedForLeast_lateForms :
    ∀ x ∈ lateForms, ∀ f, KilledForLeast (x.1 f) fun _ => (x.2.2 f).lateCauses x.2.1 f := by
  simp only [lateForms, List.flatten_cons, List.flatten_nil, List.forall_mem_append, forall_mem_sameLate,
    List.forall_mem_cons, List.not_mem_nil, false_imp_iff, implies_true, and_true]
  and_intros
  all_goals exact fun f => killedForLeast_of_issue _ _ fun _ => rfl

/-- Class 3 is the one WAITC reserves (R52). -/
theorem waitcClass_isNone (imm : BitVec 32) : (waitcClass imm).isNone = true ↔ imm.toNat / 64 % 4 = 3 := by
  have h : (imm.extractLsb' 6 2).toNat = imm.toNat / 64 % 4 := by
    simp [Nat.shiftRight_eq_div_pow]
  rw [waitcClass, h]
  have hlt : imm.toNat / 64 % 4 < 4 := Nat.mod_lt _ (by decide)
  generalize imm.toNat / 64 % 4 = n at hlt ⊢
  match n, hlt with
  | 0, _ => simp
  | 1, _ => simp
  | 2, _ => simp
  | 3, _ => simp

/-! ### The causes an ALU-class operation can meet -/

theorem regCauses_subset (g n size : Nat) : regCauses g n size ⊆ [0x0A] := by
  unfold regCauses
  split <;> simp

theorem latchCauses_subset (alu : Bool) (p : Slot) (n : Nat) (ok : LatchKind → Bool) : latchCauses alu p n ok ⊆ [0x05] := by
  unfold latchCauses
  split
  · split <;> simp
  · simp

theorem specialCauses_subset (ty : OpTy) (laneOk : Bool) (sel : Nat) : specialCauses ty laneOk sel ⊆ [0x03] := by
  unfold specialCauses
  split_ifs <;> simp

/-- A list of causes chosen by a condition holds what its two cases hold. -/
theorem subset_ite {p : Prop} [Decidable p] {a b l : List Nat} (ha : a ⊆ l) (hb : b ⊆ l) : (if p then a else b) ⊆ l := by
  split
  · exact ha
  · exact hb

/-- What can be wrong with a source selector is a reserved field, a reserved selector, a latch, or a register group. -/
theorem srcForm_subset (inExp alu : Bool) (p : Slot) (k : Src) (sel : Nat) :
    srcForm inExp alu p k sel ⊆ [0x02, 0x03, 0x05, 0x0A] := by
  have hreg (g n size : Nat) : regCauses g n size ⊆ [0x02, 0x03, 0x05, 0x0A] := List.Subset.trans (regCauses_subset ..) (by decide)
  have hlatch (ok : LatchKind → Bool) : latchCauses alu p (sel - 0x80) ok ⊆ [0x02, 0x03, 0x05, 0x0A] :=
    List.Subset.trans (latchCauses_subset ..) (by decide)
  have hspec (ty : OpTy) (laneOk : Bool) : specialCauses ty laneOk sel ⊆ [0x02, 0x03, 0x05, 0x0A] :=
    List.Subset.trans (specialCauses_subset ..) (by decide)
  have h3 : [0x03] ⊆ [0x02, 0x03, 0x05, 0x0A] := by decide
  have h5 : [0x05] ⊆ [0x02, 0x03, 0x05, 0x0A] := by decide
  have hnil : [] ⊆ [0x02, 0x03, 0x05, 0x0A] := List.nil_subset _
  cases k with
  | none => exact subset_ite hnil (by decide)
  | scal ty g =>
    exact subset_ite (hreg ..) (subset_ite h3 (subset_ite (hlatch _) (subset_ite (subset_ite (hreg ..) h3) (hspec ..))))
  | sreg g => exact subset_ite (hreg ..) (subset_ite h5 (subset_ite (subset_ite (hreg ..) h3) h3))
  | vec ty g =>
    exact subset_ite (hreg ..)
      (subset_ite (hreg ..) (subset_ite (hlatch _) (subset_ite (subset_ite (hreg ..) h3) (hspec ..))))
  | pred => exact subset_ite hnil (subset_ite (hlatch _) h3)
  | preg => exact subset_ite hnil (subset_ite h5 h3)
  | acc => exact subset_ite hnil h3
  | triple => exact subset_ite hnil h3
  | plain g => exact subset_ite (hreg ..) (subset_ite h5 h3)
  | free => exact hnil

/-- A source can also name a pending register. -/
theorem srcCauses_subset (v : View) (alu : Bool) (k : Src) (sel : BitVec 8) :
    srcCauses v alu k sel ⊆ [0x02, 0x03, 0x05, 0x06, 0x0A] :=
  List.append_subset.2 ⟨List.Subset.trans (srcForm_subset ..) (by decide), subset_ite (by simp) (by simp)⟩

theorem dstForm_subset (inExp late : Bool) (k : Dst) (sel : Nat) : dstForm inExp late k sel ⊆ [0x02, 0x03, 0x0A] := by
  have hreg (g n size : Nat) : regCauses g n size ⊆ [0x02, 0x03, 0x0A] := List.Subset.trans (regCauses_subset ..) (by decide)
  have h3 : [0x03] ⊆ [0x02, 0x03, 0x0A] := by decide
  have hnil : [] ⊆ [0x02, 0x03, 0x0A] := List.nil_subset _
  cases k with
  | none => exact subset_ite hnil (by decide)
  | scal g =>
    exact subset_ite (List.append_subset.2 ⟨hreg .., subset_ite h3 hnil⟩) (subset_ite (hreg ..) h3)
  | vec g => exact subset_ite (hreg ..) (subset_ite (hreg ..) h3)
  | pred => exact subset_ite hnil h3
  | acc => exact subset_ite hnil h3

theorem dstCauses_subset (v : View) (cls : Option ResClass) (k : Dst) (sel : BitVec 8) :
    dstCauses v cls k sel ⊆ [0x02, 0x03, 0x07, 0x0A] :=
  List.append_subset.2 ⟨List.Subset.trans (dstForm_subset ..) (by decide), subset_ite (by simp) (by simp)⟩

/-- What can be wrong with TY, RM, SAT and OPB. -/
theorem fieldCauses_subset {m : AluForm} {f : FmtA} (h : ∀ x ∈ m.opb f.opb.toNat, x ∈ [0x02, 0x04]) :
    m.fieldCauses f ⊆ [0x02, 0x04] := by
  simp only [AluForm.fieldCauses, List.append_subset]
  exact ⟨⟨⟨subset_ite (by simp) (by simp), subset_ite (by simp) (by simp)⟩, subset_ite (by simp) (by simp)⟩, h⟩

/-- Every cause an ALU-class operation can meet. -/
theorem aluCauses_subset {m : AluForm} {f : FmtA} (v : View) (h : ∀ x ∈ m.opb f.opb.toNat, x ∈ [0x02, 0x04]) :
    m.aluCauses f v ⊆ [0x02, 0x03, 0x04, 0x05, 0x06, 0x07, 0x0A] := by
  have hsrc (u : View) (k : Src) (sel : BitVec 8) :
      srcCauses u true k sel ⊆ [0x02, 0x03, 0x04, 0x05, 0x06, 0x07, 0x0A] := List.Subset.trans (srcCauses_subset ..) (by decide)
  simp only [AluForm.aluCauses, AluForm.sourceCauses, guardCauses, List.append_subset]
  exact ⟨⟨⟨List.Subset.trans (fieldCauses_subset h) (by decide), subset_ite (by simp) (by simp)⟩, ⟨hsrc .., hsrc ..⟩, hsrc ..⟩,
    subset_ite (subset_ite (by simp) (by simp)) (List.Subset.trans (dstCauses_subset ..) (by decide))⟩

/-- Settles O18: each takes the common course of issuing, whose kill is of its wave alone. -/
theorem illegalOperationsAreKilledForTheLeastCause : Obligations.IllegalOperationsAreKilledForTheLeastCause := by
  refine ⟨killedForLeast_aluForms, killedForLeast_lateForms, fun f => ?_, fun f => ⟨?_, ?_, ?_, ?_, ?_, ?jump, ?_, ?_, ?_⟩,
    fun f => ⟨?_, ?_, ?_, ?_⟩, fun f => ⟨?_, ?_, ?waitc⟩, fun s v c => ?kill, fun f m v h c hc => ?table⟩
  case jump =>
    rintro i (rfl | rfl)
    · exact killedForLeast_of_issue _ _ fun _ => rfl
    · exact killedForLeast_of_issue _ _ fun _ => rfl
  case waitc =>
    simp only [← waitcClass_isNone]
    exact killedForLeast_of_issue _ _ fun _ => rfl
  case kill =>
    refine ⟨by rw [State.killWave_frame], fun w hw => ?_, fun id => State.team?_killWave_ne s v c⟩
    cases ht : s.team? v.sl.team with
    | none => simp [State.team?_killWave, ht] at hw
    | some t =>
      rw [State.team?_killWave_self s v c ht, Option.map_some, Option.join_some, Team.killWave_waves] at hw
      obtain ⟨w0, -, rfl⟩ := Option.map_eq_some_iff.1 hw
      rfl
  case table => exact List.Subset.trans (aluCauses_subset v h) (by decide) hc
  all_goals exact killedForLeast_of_issue _ _ fun _ => rfl

end Sys2Proof.Machine
end

section
/-!
PROOFS. A slot that goes on or jumps: what it keeps. NOP, YIELD, WAITC, PPT, and the branches (R339, R340, R344, R345).
-/

namespace Sys2Proof.Machine

/-! ### Going on -/

/-- Retiring opens no chain. -/
theorem Slot.retire_chainOpen {p : Slot} (h : p.chainOpen = false) : p.retire.chainOpen = false := by
  rcases Slot.retire_cases p with ⟨pc, r, e, hp, -⟩ | ⟨x, -, hp⟩
  · rw [hp]; exact h
  · rw [hp]; rfl

/-- A control operation ends the chain. -/
@[simp] theorem Slot.onward_chainOpen (p : Slot) : p.onward.chainOpen = false := Slot.retire_chainOpen rfl

@[simp] theorem Slot.onward_pc (p : Slot) : p.onward.pc = p.retire.pc := (p.afterOther_frame false).1
@[simp] theorem Slot.onward_bank (p : Slot) : p.onward.bank = p.bank := (p.afterOther_frame false).2.1
@[simp] theorem Slot.onward_mask (p : Slot) : p.onward.mask = p.mask := (p.afterOther_frame false).2.2.1
@[simp] theorem Slot.onward_owned (p : Slot) : p.onward.owned = p.owned := (p.afterOther_frame false).2.2.2.1

/-- Outside an expansion a slot that goes on keeps its results and its status. -/
theorem Slot.onward_plain {p : Slot} (h : p.exp = none) : p.onward.pend = p.pend ∧ p.onward.status = p.status := by
  obtain ⟨-, -, -, -, -, -, -, -, -, -, hplain, -⟩ := p.afterOther_frame false
  exact ⟨(hplain h).1, (hplain h).2.2⟩

@[simp] theorem Slot.goTo_chainOpen (p : Slot) (a : Dword) : (p.goTo a).chainOpen = false := by
  unfold Slot.goTo Slot.jump
  split <;> rfl

@[simp] theorem Slot.goTo_pc (p : Slot) (a : Dword) : (p.goTo a).pc = a := by
  unfold Slot.goTo Slot.jump
  split <;> rfl

@[simp] theorem Slot.goTo_bank (p : Slot) (a : Dword) : (p.goTo a).bank = p.bank := by
  unfold Slot.goTo Slot.jump
  split <;> rfl

@[simp] theorem Slot.goTo_mask (p : Slot) (a : Dword) : (p.goTo a).mask = p.mask := by
  unfold Slot.goTo Slot.jump
  split <;> rfl

/-! ### Putting a slot back -/

/-- The view of a slot that was put back. -/
def View.withSlot (v : View) (p : Slot) : View :=
  { sl := v.sl, t := v.t.setWave v.sl.wave (v.w.setSlot v.sl.b p), w := v.w.setSlot v.sl.b p, p := p }

section
variable {s : State} {v : View} (hv : s.view = some v) (p : Slot)
include hv

/-- A slot put back is found, and nothing but its wave differs. -/
theorem State.putSlot_spec : OnlyWave v.sl s (s.putSlot v p) ∧ (s.putSlot v p).find v.sl = some (v.withSlot p) := by
  refine ⟨onlyWave_putWave hv _, ?_⟩
  rw [State.putSlot_eq, State.find_putWave_view hv, Wave.slot_setSlot]
  rfl

end

theorem View.onlySlot_withSlot (v : View) (p : Slot) : OnlySlot v (v.withSlot p) := ⟨rfl, rfl⟩

/-! ### Hints, waits and pre-emption points -/

/-- The fields of WAITC's count and class (R52). -/
theorem waitc_fields {imm : BitVec 32} (h : imm.toNat < 256) :
    imm.extractLsb' 8 24 = 0#24 ∧ (imm.extractLsb' 0 6).toNat = imm.toNat % 64 ∧
      (imm.extractLsb' 6 2).toNat = imm.toNat / 64 := by
  refine ⟨BitVec.eq_of_toNat_eq ?_, ?_, ?_⟩
  · simp only [BitVec.extractLsb'_toNat, Nat.shiftRight_eq_div_pow, BitVec.toNat_ofNat]
    omega
  · simp only [BitVec.extractLsb'_toNat, Nat.shiftRight_eq_div_pow]
    omega
  · simp only [BitVec.extractLsb'_toNat, Nat.shiftRight_eq_div_pow]
    omega

/-- Settles O24: each is issued with nothing wrong, and goes on, waits or stops as its rule says. -/
theorem waitsHintsAndPreemptionPointsComplete : Obligations.WaitsHintsAndPreemptionPointsComplete := by
  refine ⟨fun f s v hv hc => ⟨issue_run hv hc rfl, issue_run hv hc rfl⟩, fun f s v c hv hctl hd hsa himm hcls => ?waitc,
    fun f s v hv hc => ?ppt, fun s v hv => ?onward⟩
  case waitc =>
    obtain ⟨hhigh, hcount, hclass⟩ := waitc_fields himm
    have hcls : waitcClass f.imm = some c := by
      unfold waitcClass
      rw [hclass]
      rcases hcls with ⟨h, rfl⟩ | ⟨h, rfl⟩ | ⟨h, rfl⟩ <;> simp only [h]
    have hc : bareCauses f.c ++ fieldZero f.d ++ fieldZero f.sa ++ fieldZero (f.imm.extractLsb' 8 24) ++
        (if (waitcClass f.imm).isNone then [0x04] else []) = [] := by
      rw [hctl, hd, hsa, hhigh, hcls]; rfl
    refine ⟨fun hn => issue_run hv hc ?_, fun hn => issue_wait hv hc ?_⟩
    · simp only [hcls, hcount]; exact decide_eq_false (by omega)
    · simp only [hcls, hcount]; exact decide_eq_true hn
  case ppt =>
    refine ⟨fun hp => (issue_run hv hc rfl).trans ?_, fun hp hx => (issue_run hv hc rfl).trans ?_,
      fun hp hx => (issue_run hv hc rfl).trans ?_⟩
    · simp [hp]
    · simp [hp, View.inExp, hx]
    · simp [hp, View.inExp, Option.isSome_iff_ne_none.2 hx]
  case onward =>
    obtain ⟨hframe, hfind⟩ := State.putSlot_spec hv v.p.onward
    exact ⟨_, hfind, v.onlySlot_withSlot _, hframe, Slot.onward_pc _, Slot.onward_chainOpen _, Slot.onward_bank _,
      Slot.onward_mask _, Slot.onward_owned _, Slot.onward_plain⟩

/-! ### Branches -/

/-- An indirect target outside an expansion lies on an operation boundary (R340). -/
theorem Slot.indirect_plain {p : Slot} (h : p.exp = none) (x : Dword) : p.indirect x = x &&& ~~~7 := by
  simp [Slot.indirect, h]

/-- Inside an expansion both kinds of target are guest addresses (R368). -/
theorem Slot.targets_guest {p : Slot} (h : p.exp.isSome = true) (d : BitVec 32) (x : Dword) :
    p.branchTarget d = (p.pc + d.signExtend 64) &&& ~~~3 ∧ p.indirect x = x &&& ~~~3 := by
  obtain ⟨y, hy⟩ := Option.isSome_iff_exists.1 h
  simp [Slot.branchTarget, Slot.indirect, hy]

/-- A branch that is not taken goes on, one that is taken goes to its target; both keep the registers. -/
theorem branch_effect {s : State} {v : View} (hv : s.view = some v) (stay : Prop) [Decidable stay] (a : Dword) :
    let t := s.putSlot v (if stay then v.p.onward else v.p.goTo a)
    ∃ u, OnlyWave v.sl s t ∧ t.find v.sl = some u ∧ OnlySlot v u ∧ u.p.bank = v.p.bank ∧ u.p.mask = v.p.mask ∧
      u.p.chainOpen = false ∧ u.p.pc = if stay then v.p.retire.pc else a := by
  obtain ⟨hframe, hfind⟩ := State.putSlot_spec hv (if stay then v.p.onward else v.p.goTo a)
  refine ⟨_, hframe, hfind, v.onlySlot_withSlot _, ?_⟩
  by_cases h : stay
  · simp [View.withSlot, h]
  · simp [View.withSlot, h]

/-- What scalar registers read depends on the shared ones, the bank and the mask alone. -/
theorem readSReg_congr {w w' : Wave} {p p' : Slot} (hs : w'.s = w.s) (hb : p'.bank = p.bank) (hm : p'.mask = p.mask) (n : Nat) :
    readSReg w' p' n = readSReg w p n := by
  unfold readSReg
  rw [hs, hb, hm]

/-- Widening a value leaves its words. -/
theorem extract_zeroExtend {n m : Nat} (x : BitVec n) (h : n ≤ m) (a b : Nat) :
    (x.zeroExtend m).extractLsb' a b = x.extractLsb' a b := by
  apply BitVec.eq_of_getLsbD_eq
  intro j hj
  simp only [BitVec.getLsbD_extractLsb', BitVec.truncate_eq_setWidth, BitVec.getLsbD_setWidth]
  by_cases h2 : a + j < m
  · simp [h2]
  · simp [h2, BitVec.getLsbD_of_ge x (a + j) (by omega)]

/-- Outside an expansion a legal scalar destination is a register (R38, R370). -/
theorem scalDst_register {v : View} {c : Option ResClass} {g : Nat} {d : BitVec 8} (he : v.p.exp = none)
    (h : dstCauses v c (.scal g) d = []) : d.toNat < 0x40 := by
  by_contra hd
  have := (List.append_eq_nil_iff.1 h).1
  simp [dstForm, hd, View.inExp, he] at this

/-- CALL writes the address of the next operation to its pair and goes to its target (R340). -/
theorem call_effect {s : State} {v : View} (hv : s.view = some v) {d : BitVec 8} (hd : d.toNat < 0x40) (he : v.p.exp = none)
    (a : Dword) :
    let w := writeScal v.w v.sl.b 2 d (v.p.linkAddr.zeroExtend 128)
    let t := s.putWave v (w.setSlot v.sl.b ((w.slot v.sl.b).goTo a))
    ∃ u, OnlyWave v.sl s t ∧ t.find v.sl = some u ∧ u.w.v = v.w.v ∧ u.w.k = v.w.k ∧ u.w.stack = v.w.stack ∧
      u.w.slot (!v.sl.b) = v.w.slot (!v.sl.b) ∧ u.p.pc = a ∧ ∀ n, n < 64 → readSReg u.w u.p n =
        if n = d.toNat then ownedCut v.p n ((v.p.pc + 8).extractLsb' 0 32)
        else if n = d.toNat + 1 then ownedCut v.p n ((v.p.pc + 8).extractLsb' 32 32) else readSReg v.w v.p n := by
  obtain ⟨-, -, -, hvp, -⟩ := State.view_spec hv
  have hlink : v.p.linkAddr = v.p.pc + 8 := by simp [Slot.linkAddr, he]
  obtain ⟨hsreg, -, -, hv', hk, hstack, -, -, hother, -⟩ :=
    writeScal_spec v.w v.sl.b 2 d (v.p.linkAddr.zeroExtend 128) (.inl hd)
  generalize writeScal v.w v.sl.b 2 d (v.p.linkAddr.zeroExtend 128) = w at *
  refine ⟨_, onlyWave_putWave hv _, State.find_putWave_view hv _, ?_⟩
  simp only [Wave.setSlot_v, Wave.setSlot_k, Wave.setSlot_stack, Wave.slot_setSlot_not, Wave.slot_setSlot, Slot.goTo_pc]
  refine ⟨hv', hk, hstack, hother, trivial, fun n hn => ?_⟩
  have hread := hsreg n hn
  rw [← hvp, extract_zeroExtend _ (by decide), hlink] at hread
  rw [readSReg_congr (w := w) (p := w.slot v.sl.b) (Wave.setSlot_s ..) (Slot.goTo_bank ..) (Slot.goTo_mask ..)]
  refine hread.trans ?_
  by_cases h0 : n = d.toNat
  · simp [h0, hd]
  · by_cases h1 : n = d.toNat + 1
    · simp [h1, hd]
    · rw [if_neg (by omega), if_neg h0, if_neg h1, hvp]

/-- Settles O21: each is issued with nothing wrong, and goes on or to its target. -/
theorem branchesComplete : Obligations.BranchesComplete := by
  refine ⟨fun f s v hv hc => ?br, fun f s v hv hc => ?brc, fun f s v hv hc i hi => ?jump, fun f s v hv he hc => ?call,
    fun p d x => ⟨fun h => ⟨Slot.branchTarget_plain h d, Slot.indirect_plain h x⟩, fun h => Slot.targets_guest h d x⟩⟩
  case br =>
    obtain ⟨u, hu⟩ := branch_effect hv (v.active f.c = 0) (v.p.branchTarget f.disp)
    exact ⟨_, u, issue_run hv hc rfl, hu⟩
  case brc =>
    obtain ⟨u, hu⟩ := branch_effect hv (v.active f.c = 0 ∨ readS32 v f.sa = 0) (v.p.branchTarget f.disp)
    exact ⟨_, u, issue_run hv hc rfl, hu⟩
  case jump =>
    obtain ⟨u, hu⟩ := branch_effect hv (v.active f.c = 0) (v.p.indirect (readS64 v f.sa))
    rcases hi with rfl | rfl
    · exact ⟨_, u, issue_run hv hc rfl, hu⟩
    · exact ⟨_, u, issue_run hv hc rfl, hu⟩
  case call =>
    have hd : f.d.toNat < 0x40 :=
      scalDst_register he (List.append_eq_nil_iff.1 (List.append_eq_nil_iff.1 hc).1).2
    by_cases ha : v.activeTo f.c f.d = 0
    · obtain ⟨hframe, hfind⟩ := State.putSlot_spec hv v.p.onward
      refine ⟨_, _, (issue_run hv hc rfl).trans (congrArg _ (if_pos ha)), hframe, hfind, by simp [View.withSlot], by simp [View.withSlot], by simp [View.withSlot],
        by simp [View.withSlot], fun _ => ⟨Slot.onward_pc _, fun n _ => ?_⟩, fun h => absurd ha h⟩
      exact readSReg_congr (Wave.setSlot_s ..) (Slot.onward_bank _) (Slot.onward_mask _) n
    · obtain ⟨u, hframe, hfind, hv', hk, hstack, hother, hpc, hregs⟩ := call_effect hv hd he (v.p.branchTarget f.disp)
      exact ⟨_, u, (issue_run hv hc rfl).trans (congrArg _ (if_neg ha)), hframe, hfind, hv', hk, hstack, hother, fun h => absurd h ha,
        fun _ => ⟨hpc.trans (Slot.branchTarget_plain he _), hregs⟩⟩

end Sys2Proof.Machine
end

section
/-!
PROOFS. REP: the fields of its instances, and where a slot goes on after a word, an instance and an expansion (R42, R45).
-/

namespace Sys2Proof.Machine

/-! ### A field of a word replaced -/

theorem getLsbD_setBits (w : Dword) {lo n x i : Nat} (hi : i < 64) :
    (setBits w lo n x).getLsbD i = if lo ≤ i ∧ i < lo + n then x.testBit (i - lo) else w.getLsbD i := by
  have hones : (BitVec.ofNat 64 (2 ^ n - 1)).getLsbD (i - lo) = decide (i - lo < n) := by
    rw [BitVec.getLsbD_ofNat, Nat.testBit_two_pow_sub_one, decide_eq_true (show i - lo < 64 by omega), Bool.true_and]
  have hnew : (BitVec.ofNat 64 (x % 2 ^ n)).getLsbD (i - lo) = (decide (i - lo < n) && x.testBit (i - lo)) := by
    rw [BitVec.getLsbD_ofNat, Nat.testBit_mod_two_pow, decide_eq_true (show i - lo < 64 by omega), Bool.true_and]
  simp only [setBits, BitVec.getLsbD_or, BitVec.getLsbD_and, BitVec.getLsbD_not, BitVec.getLsbD_shiftLeft, hones, hnew, hi,
    decide_true, Bool.true_and]
  by_cases h1 : i < lo
  · simp [h1]
  · by_cases h2 : i - lo < n
    · simp [h1, h2, show lo ≤ i by omega, show i < lo + n by omega]
    · simp [h1, h2, show ¬i < lo + n by omega]

/-- The field reads as written. -/
theorem extract_setBits_in (w : Dword) {lo n x : Nat} (h : lo + n ≤ 64) :
    (setBits w lo n x).extractLsb' lo n = BitVec.ofNat n x := by
  apply BitVec.eq_of_getLsbD_eq
  intro i hi
  rw [BitVec.getLsbD_extractLsb', getLsbD_setBits w (by omega), if_pos (by omega), BitVec.getLsbD_ofNat, Nat.add_sub_cancel_left]

/-- The rest of the word reads as before. -/
theorem extract_setBits_out (w : Dword) {lo n x a b : Nat} (h : a + b ≤ 64) (ho : a + b ≤ lo ∨ lo + n ≤ a) :
    (setBits w lo n x).extractLsb' a b = w.extractLsb' a b := by
  apply BitVec.eq_of_getLsbD_eq
  intro i hi
  rw [BitVec.getLsbD_extractLsb', BitVec.getLsbD_extractLsb', getLsbD_setBits w (by omega), if_neg (by omega)]

/-! ### Instances -/

section
variable (w : Dword) (j : Nat) (st : BitVec 3)

/-- A stepped field is moved by `j` strides. -/
theorem extract_stepField_in {lo : Nat} (h : lo + 8 ≤ 64) :
    (stepField w lo j st).extractLsb' lo 8 = w.extractLsb' lo 8 + BitVec.ofInt 8 ((j : Int) * st.toInt) := by
  rw [stepField, extract_setBits_in w h, BitVec.ofNat_toNat, BitVec.setWidth_eq]

/-- The rest of the word is not. -/
theorem extract_stepField_out {lo a b : Nat} (h : a + b ≤ 64) (ho : a + b ≤ lo ∨ lo + 8 ≤ a) :
    (stepField w lo j st).extractLsb' a b = w.extractLsb' a b :=
  extract_setBits_out w h ho

end

/-- The word of an instance before CH is set. -/
def RepRun.stepped (r : RepRun) : Dword :=
  stepField (stepField (stepField (stepField r.word 40 r.j r.sd) 32 r.j r.sa) 24 r.j r.sb) 16 r.j r.sc

/-- CH of an instance, set but for the last (R45). -/
theorem RepRun.instance_ch (r : RepRun) : r.instance_.getLsbD 53 = (decide (r.j + 1 < r.n) || r.stepped.getLsbD 53) := by
  by_cases h : r.j + 1 < r.n
  · simp [RepRun.instance_, RepRun.stepped, h, Bool.or_comm]
  · simp [RepRun.instance_, RepRun.stepped, h]

/-- Every field but CH is that of the stepped word. -/
theorem RepRun.extract_instance (r : RepRun) {a b : Nat} (h : a + b ≤ 53 ∨ 54 ≤ a) :
    r.instance_.extractLsb' a b = r.stepped.extractLsb' a b := by
  have hch : (0x0020000000000000 : Dword) = place (1 : BitVec 1) 53 := by decide
  simp only [RepRun.instance_, RepRun.stepped]
  split
  · rw [extract_or, hch, extract_place_out _ _ _ _ h]
    exact BitVec.or_zero
  · rfl

/-- The fields of an instance (R45). -/
theorem RepRun.instance_fields (r : RepRun) :
    (∀ lo st, (lo, st) ∈ [(40, r.sd), (32, r.sa), (24, r.sb), (16, r.sc)] →
      r.instance_.extractLsb' lo 8 = r.word.extractLsb' lo 8 + BitVec.ofInt 8 ((r.j : Int) * st.toInt)) ∧
    r.instance_.extractLsb' 0 16 = r.word.extractLsb' 0 16 ∧ r.instance_.extractLsb' 54 10 = r.word.extractLsb' 54 10 ∧
    r.instance_.extractLsb' 48 5 = r.word.extractLsb' 48 5 ∧
    r.instance_.getLsbD 53 = (decide (r.j + 1 < r.n) || r.word.getLsbD 53) := by
  have hsame {a b : Nat} (h : a + b ≤ 16 ∨ 48 ≤ a ∧ a + b ≤ 64) : r.stepped.extractLsb' a b = r.word.extractLsb' a b := by
    simp (disch := omega) only [RepRun.stepped, extract_stepField_out]
  refine ⟨?fields, ?_, ?_, ?_, ?ch⟩
  case fields =>
    simp only [List.mem_cons, Prod.mk.injEq, List.not_mem_nil, or_false]
    rintro lo st (⟨rfl, rfl⟩ | ⟨rfl, rfl⟩ | ⟨rfl, rfl⟩ | ⟨rfl, rfl⟩)
    all_goals
      rw [r.extract_instance (by omega)]
      simp (disch := omega) only [RepRun.stepped, extract_stepField_in, extract_stepField_out]
  case ch => rw [r.instance_ch, getLsbD_eq_extract, hsame (by omega), ← getLsbD_eq_extract]
  all_goals rw [r.extract_instance (by omega), hsame (by omega)]

/-! ### Issuing REP -/

section
variable {s : State} {v : View} (hv : s.view = some v) (f : FmtP)
include hv

/-- REP with nothing wrong sets up its instances (R45). -/
theorem exec_rep {w : Dword} (hw : repeatedWord s v = some w) (hc : repCauses f w = []) :
    exec (.rep f) s = .next (s.putSlot v { v.p with
      rep := some { j := 0, n := f.n1.toNat + 1, word := w, sd := f.sd, sa := f.sa, sb := f.sb, sc := f.sc } }) :=
  (issue_run hv (by simp only [hw, hc]) (by simp only [hw, Option.isNone_some])).trans (by simp only [hw])

/-- REP waits for the word it repeats. -/
theorem exec_rep_missing (hw : repeatedWord s v = none) :
    exec (.rep f) s = .next (s.putSlot v { v.p with stalled := true }) :=
  issue_wait hv (by simp only [hw]) (by simp only [hw, Option.isNone_none])

end

/-! ### Chains -/

theorem Slot.latch_none {p : Slot} (h : p.inChain = false) (n : Nat) : p.latch n = none := by
  simp [Slot.latch, h]

/-- Settles O20: the ways to retire, the fields of an instance, and the end of a chain. -/
theorem retiringAndRepeating : Obligations.RetiringAndRepeating := by
  refine ⟨fun p => ⟨Slot.retire_word, fun r => Slot.retire_instance, fun r hr hj => Slot.retire_last hr (by omega),
      fun x hr he hl => Slot.retire_inside hr he (by omega), fun x hr he hl => ?leave⟩,
    fun f s v w hv hw => exec_rep hv f hw, fun f s v hv => exec_rep_missing hv f, fun r _ _ => r.instance_fields,
    fun s v sl hf => ⟨fun ho hl => ?limit, rfl, Slot.latch_none rfl, fun hl => Slot.latch_none ?_⟩⟩
  case leave =>
    rw [Slot.retire_leave hr he hl]
    refine ⟨rfl, rfl, rfl, rfl, fun q hq => ?_⟩
    obtain ⟨q0, -, rfl⟩ := List.mem_map.1 hq
    exact ⟨rfl, rfl⟩
  case limit =>
    show execChainHoldLimit sl s = _
    simp only [execChainHoldLimit, hf, ho, hl, and_self, if_true]
  · simp [Slot.inChain, show ¬v.p.chainLen < 128 by omega]

end Sys2Proof.Machine
end

section
/-!
PROOFS. Legal plain forms, and what a pending register forbids (R28, R36, R38, R49 to R51, R212, R228).
-/

namespace Sys2Proof.Machine

/-! ### Registers that exist -/

theorem groupOk_of_aligned {g n size : Nat} (ha : n % g = 0) (hfit : n + g ≤ size) : groupOk g n size = true := by
  simp [groupOk, ha, hfit]

/-- A scalar or vector source that names an existing group of registers is wrong only where one of them is pending. -/
theorem srcCauses_registers {v : View} {alu : Bool} {k : Src} {ty : OpTy} {g : Nat} {sel : BitVec 8} (hsel : sel.toNat < 64)
    (hg : groupOk g sel.toNat 64 = true) (hk : k = .scal ty g ∨ k = .vec ty g) :
    srcCauses v alu k sel = if (srcRegs k sel.toNat).any v.p.pending then [0x06] else [] := by
  obtain rfl | rfl := hk <;> simp [srcCauses, srcForm, regCauses, hsel, hg]

theorem srcRegs_scal {ty : OpTy} {g n : Nat} (h : n < 64) : srcRegs (.scal ty g) n = (List.range g).map fun i => .s (n + i) := by
  simp [srcRegs, h]

theorem srcRegs_vec {ty : OpTy} {g n : Nat} (h : n < 64) : srcRegs (.vec ty g) n = (List.range g).map fun i => .v (n + i) := by
  simp [srcRegs, h]

/-- A scalar or vector destination of registers that exist is wrong only where another class has a result for one. -/
theorem dstCauses_registers {v : View} {cls : Option ResClass} {k : Dst} {g : Nat} {sel : BitVec 8} (hsel : sel.toNat < 64)
    (hg : groupOk g sel.toNat 64 = true) (hk : k = .vec g ∨ k = .scal g ∧ cls = none) :
    dstCauses v cls k sel = if (dstRegs k sel.toNat).any (v.p.pendingOther cls) then [0x07] else [] := by
  obtain rfl | ⟨rfl, rfl⟩ := hk <;> simp [dstCauses, dstForm, regCauses, hsel, hg]

theorem dstRegs_vec {g n : Nat} (h : n < 64) : dstRegs (.vec g) n = (List.range g).map fun i => .v (n + i) := by
  simp [dstRegs, h]

/-! ### Pending registers -/

theorem Slot.pending_of_none {p : Slot} (h : p.pend = []) (r : Reg) : p.pending r = false := by simp [Slot.pending, h]

theorem Slot.pendingOther_of_none {p : Slot} (h : p.pend = []) (c : Option ResClass) (r : Reg) : p.pendingOther c r = false := by
  simp [Slot.pendingOther, h]

/-- An untracked operation meets every mark. -/
theorem Slot.pendingOther_untracked (p : Slot) : p.pendingOther none = p.pending := by
  funext r
  simp [Slot.pendingOther, Slot.pending]

/-- A tracked operation does not meet the marks of its own class. -/
theorem Slot.pendingOther_of_class {p : Slot} {c : ResClass} (h : ∀ q ∈ p.pend, q.cls = c) (r : Reg) :
    p.pendingOther (some c) r = false := by
  simp only [Slot.pendingOther, List.any_eq_false]
  intro q hq
  simp [h q hq]

theorem any_pending_group {p : Slot} {g n : Nat} {reg : Nat → Reg} :
    ((List.range g).map fun i => reg (n + i)).any p.pending = true ↔ ∃ i, i < g ∧ p.pending (reg (n + i)) = true := by
  simp

theorem View.within_pend_of_none {v : View} (h : v.p.pend = []) (act : Lanes) : (v.within act).p.pend = [] := by
  simp [View.within, h]

/-! ### Forms -/

/-- With no result outstanding, operands that name registers leave only the fields TY, RM, SAT and OPB to be wrong. -/
theorem AluForm.aluCauses_of_registers {m : AluForm} {f : FmtA} {v : View} {ta tb : OpTy} (hp : v.p.pend = [])
    (hnw : f.c.nw = false) (hd : f.d.toNat < 64) (hsa : f.sa.toNat < 64) (hsb : f.sb.toNat < 64) (hsc : f.sc = 0)
    (ka : m.a = .scal ta 1 ∨ m.a = .vec ta 1) (kb : m.b = .none ∧ f.sb = 0 ∨ m.b = .scal tb 1 ∨ m.b = .vec tb 1)
    (kc : m.c = .none) (kd : m.d = .vec 1 ∨ m.d = .scal 1) : m.aluCauses f v = m.fieldCauses f := by
  have hone {n : Nat} (h : n < 64) : groupOk 1 n 64 = true := groupOk_of_aligned (Nat.mod_one n) (by omega)
  have hpend := Slot.pending_of_none (View.within_pend_of_none hp (v.active f.c))
  have hother := Slot.pendingOther_of_none (View.within_pend_of_none hp (v.active f.c))
  have ha : srcCauses (v.within (v.active f.c)) true m.a f.sa = [] := by simp [srcCauses_registers hsa (hone hsa) ka, hpend]
  have hb : srcCauses (v.within (v.active f.c)) true m.b f.sb = [] := by
    obtain ⟨kb, h0⟩ | kb := kb
    · simp [kb, h0, srcCauses, srcForm, srcRegs]
    · simp [srcCauses_registers hsb (hone hsb) kb, hpend]
  have hc : srcCauses (v.within (v.active f.c)) true m.c f.sc = [] := by simp [kc, hsc, srcCauses, srcForm, srcRegs]
  have hdst : dstCauses (v.within (v.active f.c)) none m.d f.d = [] := by
    simp [dstCauses_registers hd (hone hd) (kd.imp id fun h => ⟨h, rfl⟩), hother]
  have hguard : guardCauses v f.c = [] := by simp [guardCauses, Slot.pending_of_none hp]
  simp [AluForm.aluCauses, AluForm.sourceCauses, ha, hb, hc, hdst, hguard, hnw]

/-- Settles O14: the plain forms by `aluCauses_of_registers` and their field checks, groups of registers by their marks. -/
theorem legalFormsAndPendingRegisters : Obligations.LegalFormsAndPendingRegisters := by
  refine ⟨fun f v hp hnw hd hsa hsb hsc => ?forms, fun v sel g alu hsel _ ha hfit => ?groups⟩
  case forms =>
    have scal2 : scalForm2.aluCauses f v = scalForm2.fieldCauses f :=
      AluForm.aluCauses_of_registers hp hnw hd hsa hsb hsc (.inl rfl) (.inr (.inl rfl)) rfl (.inr rfl)
    have vec2 : vecForm2.aluCauses f v = vecForm2.fieldCauses f :=
      AluForm.aluCauses_of_registers hp hnw hd hsa hsb hsc (.inr rfl) (.inr (.inr rfl)) rfl (.inl rfl)
    have flt2 : floatForm2.aluCauses f v = floatForm2.fieldCauses f :=
      AluForm.aluCauses_of_registers hp hnw hd hsa hsb hsc (.inr rfl) (.inr (.inr rfl)) rfl (.inl rfl)
    have scal1 (h0 : f.sb = 0) : scalForm1.aluCauses f v = scalForm1.fieldCauses f :=
      AluForm.aluCauses_of_registers (tb := .int 32) hp hnw hd hsa hsb hsc (.inl rfl) (.inl ⟨rfl, h0⟩) rfl (.inr rfl)
    have hopb : f.opb ≠ 0 → f.opb.toNat ≠ 0 := fun h h' => h (BitVec.eq_of_toNat_eq h')
    rw [scal2, vec2, flt2]
    refine ⟨fun hrm hsat ho => ⟨fun hty => ⟨?_, ?_, fun h0 => ?_⟩, fun hty => ?_⟩, fun hty ho => ?_, fun hty hrm hsat ho => ?_,
      fun hty hrm hsat ho => ?_, fun hty hrm hsat ho => ?_⟩
    · simp [AluForm.fieldCauses, scalForm2, tys32, opbZero, hrm, hsat, ho, hty]
    · simp [AluForm.fieldCauses, vecForm2, tys32, opbZero, hrm, hsat, ho, hty]
    · rw [scal1 h0]
      simp [AluForm.fieldCauses, scalForm1, scalForm2, tys32, opbZero, hrm, hsat, ho, hty]
    · simpa [AluForm.fieldCauses, scalForm2, vecForm2, tys32, opbZero, hrm, hsat, ho] using hty
    · obtain hty | hty := hty <;> simp [AluForm.fieldCauses, floatForm2, opbZero, hty, ho]
    · have hrm' : f.rm ≠ 0#2 := hrm
      simp [AluForm.fieldCauses, scalForm2, tys32, opbZero, hty, hrm', hsat, ho]
    · simp [AluForm.fieldCauses, scalForm2, tys32, opbZero, hty, hrm, hsat, ho]
    · simp [AluForm.fieldCauses, scalForm2, tys32, opbZero, hty, hrm, hsat, hopb ho]
  case groups =>
    have hg := groupOk_of_aligned ha hfit
    rw [srcCauses_registers hsel hg (.inl rfl), srcCauses_registers hsel hg (.inr rfl), srcRegs_scal hsel, srcRegs_vec hsel,
      dstCauses_registers hsel hg (.inl rfl), dstRegs_vec hsel, Slot.pendingOther_untracked]
    refine ⟨fun h => if_pos (any_pending_group.mpr h), fun h => ?_, fun h => if_pos (any_pending_group.mpr h),
      fun h => if_pos (any_pending_group.mpr h), fun c hc => ?_, fun r hp => Slot.pending_of_none hp r⟩
    · simpa using h
    · simp [dstCauses_registers hsel hg (.inl rfl), Slot.pendingOther_of_class hc]

end Sys2Proof.Machine
end

section
/-!
PROOFS. The values of operand selectors (R36, R37, R214).
-/

namespace Sys2Proof.Machine

theorem truncate_zeroExtend_word (x : Word) : (x.zeroExtend 64).truncate 32 = x := by
  ext i hi
  simp

/-! ### Registers -/

theorem readS32_register {v : View} {sel : BitVec 8} (h : sel.toNat < 0x40) : readS32 v sel = readSReg v.w v.p sel.toNat := by
  simp [readS32, readScal, readScalarReg, h]

theorem readS64_register {v : View} {sel : BitVec 8} (h : sel.toNat < 0x40) :
    readS64 v sel = readSReg v.w v.p (sel.toNat + 1) ++ readSReg v.w v.p sel.toNat := by
  have hpair (lo hi : Word) : pairOf lo hi = hi ++ lo := by
    ext i hi
    rw [BitVec.getElem_append]
    by_cases h : i < 32
    · simp [pairOf, h]
    · simp [pairOf, h, BitVec.getLsbD_of_ge lo i (by omega), BitVec.getLsbD_eq_getElem (show i - 32 < 32 by omega)]
  simp [readS64, readScal, readScalarReg, h, hpair]

theorem readV32_register {v : View} {sel : BitVec 8} {w l : Nat} (h : sel.toNat < 0x40) :
    readV32 v w sel l = laneGet v.w.v sel.toNat l := by
  simp [readV32, readVec, readVectorReg, h, show sel.toNat < 0x80 by omega]

/-- A vector operand that names a scalar register delivers it in every lane. -/
theorem readV32_broadcast {v : View} {sel : BitVec 8} {w l : Nat} (h : 0x40 ≤ sel.toNat) (h' : sel.toNat < 0x80) :
    readV32 v w sel l = readSReg v.w v.p (sel.toNat - 0x40) := by
  simp [readV32, readVec, readVectorReg, h', show ¬ sel.toNat < 0x40 by omega]

/-! ### Special values -/

/-- The immediate of a selector is the sign-extended value of its low six bits. -/
theorem immValue_eq {sel : BitVec 8} (h : 0xC0 ≤ sel.toNat) : immValue sel.toNat = (sel.extractLsb' 0 6).toInt := by
  refine congrArg BitVec.toInt (BitVec.eq_of_toNat_eq ?_)
  simp only [BitVec.toNat_ofNat, BitVec.extractLsb'_toNat]
  omega

/-- The value of an immediate selector for an integer operand. -/
theorem specialValue_imm {v : View} {w g l n : Nat} (h : 0xC0 ≤ n) : specialValue v (.int w) g l n =
    if g = 1 then
      if w = 32 then (BitVec.ofInt 32 (immValue n)).zeroExtend 64 else replicateElem w (BitVec.ofInt w (immValue n)).toNat
    else BitVec.ofInt 64 (immValue n) := by
  unfold specialValue
  extract_lets whole
  split
  case h_7 => by_cases hg : g = 1 <;> simp [whole, hg, OpTy.elemWidth]
  all_goals omega

theorem readScal_special {v : View} {ty : OpTy} {g : Nat} {sel : BitVec 8} (h : 0x84 ≤ sel.toNat)
    (hx : ¬ (0x90 ≤ sel.toNat ∧ sel.toNat < 0x98)) : readScal v ty g sel = specialValue v ty g 0 sel.toNat := by
  simp only [readScal]
  rw [if_neg (by omega), if_neg (by omega)]

theorem readVec_special {v : View} {ty : OpTy} {g l : Nat} {sel : BitVec 8} (h : 0x84 ≤ sel.toNat)
    (hx : ¬ (0x90 ≤ sel.toNat ∧ sel.toNat < 0x98)) : readVec v ty g sel l = specialValue v ty g l sel.toNat := by
  simp only [readVec]
  rw [if_neg (by omega), if_neg (by omega)]

/-- Every element of a lane that repeats a byte is that byte. -/
theorem elemOf_replicated_byte (x : BitVec 8) {i : Nat} (hi : i < 4) : elemOf 8 (packElems 8 fun _ => x) i = x := by
  ext j hj
  interval_cases i <;> interval_cases j <;> simp [packElems, List.range_succ, elemOf]

theorem readV32_imm_byte {v : View} {sel : BitVec 8} {l : Nat} (h : 0xC0 ≤ sel.toNat) :
    readV32 v 8 sel l = packElems 8 fun _ => (sel.extractLsb' 0 6).signExtend 8 := by
  rw [readV32, readVec_special (by omega) (by omega), specialValue_imm h, immValue_eq h]
  simp only [replicateElem, BitVec.ofNat_toNat, BitVec.setWidth_eq]
  exact truncate_zeroExtend_word _

/-- Settles O15: one lemma for each range of selectors. -/
theorem operandSelectorsDeliverTheirValues : Obligations.OperandSelectorsDeliverTheirValues := by
  intro v sel l _
  refine ⟨fun h => ⟨readS32_register h, readV32_register h, readS64_register h⟩, readV32_broadcast, ?zero, ?lane, ?wave, ?ones,
    ?team, ?stage, fun h => ⟨?_, ?_, ?_, fun i hi => ?_⟩⟩
  case zero =>
    rintro rfl
    exact ⟨rfl, rfl, rfl⟩
  case ones =>
    rintro rfl
    exact ⟨rfl, rfl, rfl⟩
  case lane =>
    rintro rfl
    rw [readV32, readVec_special (by decide) (by decide)]
    simp [specialValue, replicateElem, OpTy.elemWidth]
  case wave =>
    rintro rfl
    rw [readS32, readV32, readScal_special (by decide) (by decide), readVec_special (by decide) (by decide)]
    simp [specialValue, replicateElem, OpTy.elemWidth]
  case team =>
    rintro rfl
    rw [readS32, readScal_special (by decide) (by decide)]
    simp [specialValue, replicateElem, OpTy.elemWidth]
  case stage =>
    rintro rfl
    rw [readS32, readScal_special (by decide) (by decide)]
    simp [specialValue, replicateElem, OpTy.elemWidth]
  · rw [readS32, readScal_special (by omega) (by omega), specialValue_imm h, immValue_eq h]
    exact truncate_zeroExtend_word _
  · rw [readS64, readScal_special (by omega) (by omega), specialValue_imm h, immValue_eq h]
    rfl
  · rw [readV32, readVec_special (by omega) (by omega), specialValue_imm h, immValue_eq h]
    exact truncate_zeroExtend_word _
  · rw [readV32_imm_byte h, elemOf_replicated_byte _ hi]

end Sys2Proof.Machine
end

section
/-!
PROOFS. Work on memory: reads, writes, walks, flushes and releases leave the waves of every team and the launches as they
were. A slot that is put back after such work is found where it was.
-/

namespace Sys2Proof.Machine

/-- The state changed in no team's waves and in no launch. -/
def MemoryWork (s s' : State) : Prop :=
  (∀ id, (s'.team? id).map Team.waves = (s.team? id).map Team.waves) ∧ s'.launches = s.launches

theorem MemoryWork.refl (s : State) : MemoryWork s s := ⟨fun _ => rfl, rfl⟩

theorem MemoryWork.trans {s s' s'' : State} (h : MemoryWork s s') (h' : MemoryWork s' s'') : MemoryWork s s'' :=
  ⟨fun id => (h'.1 id).trans (h.1 id), h'.2.trans h.2⟩

/-- Most of the work touches neither the teams nor the launches at all. -/
theorem MemoryWork.of_same {s s' : State} (ht : s'.teams = s.teams) (hl : s'.launches = s.launches) : MemoryWork s s' :=
  ⟨fun id => by simp only [State.team?, ht], hl⟩

theorem MemoryWork.foldl {α : Type} {f : State → α → State} (h : ∀ s x, MemoryWork s (f s x)) (l : List α) (s : State) :
    MemoryWork s (l.foldl f s) := by
  induction l generalizing s with
  | nil => exact .refl s
  | cons x l ih => exact (h s x).trans (ih (f s x))

theorem memoryWork_modTeam (s : State) (id : Nat) {f : Team → Team} (hid : ∀ t, (f t).id = t.id) (hw : ∀ t, (f t).waves = t.waves) :
    MemoryWork s (s.modTeam id f) := by
  refine ⟨fun j => ?_, rfl⟩
  rw [State.team?_modTeam s id j hid, Option.map_map]
  congr 1
  funext t
  simp only [Function.comp]
  split
  · exact hw t
  · rfl

/-! ### Writes -/

theorem memoryWork_setBase (s : State) (l : Loc) (b : Byte) : MemoryWork s (setBase s l b) := by
  cases l with
  | phys a => exact .of_same rfl rfl
  | scratch t o => exact memoryWork_modTeam s t (fun _ => rfl) (fun _ => rfl)
  | seg c n o => exact .of_same rfl rfl

theorem memoryWork_setBases (s : State) (bytes : List (Loc × Byte)) :
    MemoryWork s (bytes.foldl (fun s p => setBase s p.1 p.2) s) := .foldl (fun s p => memoryWork_setBase s p.1 p.2) bytes s

theorem memoryWork_dropDecoded (s : State) (lines : List Nat) : MemoryWork s (s.dropDecoded lines) := .of_same rfl rfl

/-- A list of writes in place of those in flight. -/
theorem memoryWork_writes (s : State) (ws : List PWrite) : MemoryWork s { s with writes := ws } := .of_same rfl rfl

theorem memoryWork_settle (s : State) : MemoryWork s s.settle :=
  ((memoryWork_writes s _).trans (memoryWork_dropDecoded _ _)).trans (.foldl (fun s (w : PWrite) => memoryWork_setBases s w.bytes) _ _)

theorem memoryWork_perform (s : State) (lvl : Nat) (p : PWrite → Bool) : MemoryWork s (s.perform lvl p) :=
  (memoryWork_writes s _).trans (memoryWork_settle _)

theorem memoryWork_hostYield (s : State) (line : Nat) (inv : Bool) : MemoryWork s (s.hostYield line inv) := by
  unfold State.hostYield
  split
  · exact .refl s
  · exact .of_same rfl rfl

theorem memoryWork_writeNow (s : State) (bytes : List (Loc × Byte)) : MemoryWork s (s.writeNow bytes) := by
  have hyield (s : State) : MemoryWork s ((physLines bytes).foldl (fun s l => s.hostYield l true) s) :=
    .foldl (fun s l => memoryWork_hostYield s l true) _ s
  exact (((memoryWork_perform s 6 _).trans (hyield _)).trans (memoryWork_dropDecoded _ _)).trans (memoryWork_setBases _ bytes)

theorem memoryWork_recall (s : State) (keep : Option Nat) (lines : List Nat) : MemoryWork s (s.recall keep lines) :=
  .of_same rfl rfl

/-! ### Walks and translation -/

theorem memoryWork_orPte (s : State) (a : Nat) (bits : Dword) : MemoryWork s (orPte s a bits) :=
  (memoryWork_recall s none _).trans (memoryWork_writeNow _ _)

/-- Other entries in the walk caches, and in the TLBs. -/
theorem memoryWork_walkCache (s : State) (c : List WalkEntry) : MemoryWork s { s with walkCache := c } := .of_same rfl rfl

theorem memoryWork_tlb (s : State) (t : List TlbEntry) : MemoryWork s { s with tlb := t } := .of_same rfl rfl

theorem memoryWork_walk (s : State) (ctx va : Nat) : MemoryWork s (walk s ctx va).1 := by
  unfold walk
  split
  · exact .refl s
  · next c _ =>
    dsimp only
    have h1 : MemoryWork s (s.recallWalk va 5 c.ptroot) := memoryWork_recall s none _
    split
    · exact h1
    · split
      · exact h1
      · exact h1.trans (memoryWork_orPte _ _ _)

theorem memoryWork_walkBy (s : State) (die ctx va : Nat) : MemoryWork s (walkBy s die ctx va).1 := by
  unfold walkBy
  split
  · exact .refl s
  · dsimp only
    split
    · exact memoryWork_recall s none _
    · split
      · exact memoryWork_recall s none _
      · exact ((memoryWork_recall s none _).trans (memoryWork_walkCache _ _)).trans (memoryWork_orPte _ _ _)

theorem memoryWork_tlbLook (s : State) (core ctx va : Nat) : MemoryWork s (tlbLook s core ctx va).1 := by
  unfold tlbLook
  have h := memoryWork_walkBy s (dieOf core) ctx va
  split
  · exact memoryWork_tlb s _
  · split
    · next heq => rw [heq] at h; exact h
    · next heq => rw [heq] at h; exact h.trans (memoryWork_tlb _ _)

theorem memoryWork_refetch (s : State) (core ctx va : Nat) (e : TlbEntry) : MemoryWork s (refetch s core ctx va e).1 := by
  unfold refetch
  dsimp only
  split
  · exact .refl s
  · exact (memoryWork_tlb s _).trans (memoryWork_tlbLook (s.tlbDrop e) core ctx va)

theorem memoryWork_setDirty (s : State) (core : Nat) (e : TlbEntry) (va : Nat) : MemoryWork s (s.setDirty core e va) :=
  (memoryWork_orPte s (e.leafOf va) 0x80).trans (memoryWork_tlb _ _)

theorem memoryWork_xlate (s : State) (core ctx : Nat) (a : Dword) : MemoryWork s (xlate s core ctx a).1 := by
  have hit (va : Nat) : MemoryWork s (match tlbLook s core ctx va with
      | (s1, .error f) => (s1, Xlat.bad f)
      | (s1, .ok e) => (s1, .hit e (e.pa + (va - e.page)))).1 := by
    have h := memoryWork_tlbLook s core ctx va
    split
    · next heq => rw [heq] at h; exact h
    · next heq => rw [heq] at h; exact h
  unfold xlate
  split
  · exact .refl s
  · dsimp only
    split
    · exact hit _
    · split
      · exact hit _
      · exact .refl s

theorem memoryWork_globTarget (s : State) (core ctx : Nat) (a : Dword) (n : Nat) (k : Access) :
    MemoryWork s (globTarget s core ctx a n k).1 := by
  unfold globTarget
  have hx := memoryWork_xlate s core ctx a
  split
  · exact .refl s
  · split
    · next heq => rw [heq] at hx; exact hx
    · next heq => rw [heq] at hx; exact hx
    · next s1 e pa heq =>
      rw [heq] at hx
      split
      · exact hx
      · split
        · have hr := memoryWork_refetch s1 core ctx (tableVa s1 ctx a) e
          dsimp only
          split
          · next h2 => rw [h2] at hr; exact hx.trans hr
          · next h2 =>
            rw [h2] at hr
            split
            · exact hx.trans hr
            · exact (hx.trans hr).trans (memoryWork_setDirty _ _ _ _)
        · exact hx

theorem memoryWork_slotTarget (s : State) (v : View) (spc lane : Nat) (a : Dword) (n : Nat) (k : Access) :
    MemoryWork s (slotTarget s v spc lane a n k).1 := by
  unfold slotTarget
  split
  · split
    · exact .refl s
    · exact memoryWork_globTarget s _ _ a n k
  · split
    · exact .refl s
    · split <;> exact .refl s
  · exact .refl s

/-! ### Flushes, late reductions and releases -/

theorem memoryWork_snoop (s : State) (line : Nat) (inv : Bool) : MemoryWork s (s.snoop line inv) := by
  unfold State.snoop
  split <;> exact .of_same rfl rfl

theorem memoryWork_request (s : State) (ns : List Need) : MemoryWork s (s.request ns) := by
  refine .foldl (fun s x => ?_) ns s
  cases x with
  | snoop l inv => exact memoryWork_snoop s l inv
  | cxl l => dsimp only; split <;> exact .of_same rfl rfl
  | team t => dsimp only; split <;> exact .of_same rfl rfl
  | place => exact .refl s

theorem memoryWork_addRec (s : State) (r : FRec) (priv : Bool) : MemoryWork s (s.addRec r priv) := by
  rw [State.addRec_frame s r priv]
  exact .of_same rfl rfl

theorem memoryWork_grant (s : State) (core line : Nat) : MemoryWork s (s.grant core line) := by
  unfold State.grant
  dsimp only
  split <;> exact .of_same rfl rfl

theorem memoryWork_placeAtomic (s : State) (core pl line : Nat) : MemoryWork s (s.placeAtomic core pl line) := by
  unfold State.placeAtomic
  dsimp only
  split
  · exact memoryWork_grant s core line
  · split <;> exact .of_same rfl rfl

theorem memoryWork_rmw (s : State) (r : Seat) (t : Target) (n : Nat) (f : Nat → Nat) : MemoryWork s (s.rmw r t n f).1 := by
  unfold State.rmw
  split
  · exact memoryWork_modTeam s _ (fun _ => rfl) (fun _ => rfl)
  · exact (memoryWork_perform s 6 _).trans (memoryWork_writeNow _ _)

/-- Other entries in the combining buffers, and other late reductions. -/
theorem memoryWork_comb (s : State) (l : List CombEntry) : MemoryWork s { s with comb := l } := .of_same rfl rfl

theorem memoryWork_lateReds (s : State) (l : List CombEntry) : MemoryWork s { s with lateReds := l } := .of_same rfl rfl

theorem memoryWork_flushEntry (s : State) (e : CombEntry) : MemoryWork s (s.flushEntry e) := by
  unfold State.flushEntry
  split
  · exact memoryWork_addRec s _ false
  · split
    · exact (memoryWork_lateReds s _).trans (memoryWork_request _ _)
    · exact MemoryWork.trans (.foldl (fun s l => memoryWork_placeAtomic s e.core e.pl l) _ s) (memoryWork_rmw _ _ _ _ _)

theorem memoryWork_performLate (s : State) : MemoryWork s s.performLate :=
  ((memoryWork_lateReds s _).trans (.foldl memoryWork_flushEntry _ _)).trans (memoryWork_request _ _)

theorem memoryWork_flushComb (s : State) (p : CombEntry → Bool) : MemoryWork s (s.flushComb p) :=
  ((memoryWork_performLate s).trans (memoryWork_comb _ _)).trans (.foldl memoryWork_flushEntry _ _)

theorem memoryWork_flushFor (s : State) (core : Nat) (t : Target) (n : Nat) : MemoryWork s (s.flushFor core t n) := by
  cases t with
  | phys pa mt => exact memoryWork_flushComb s _
  | dec w q => exact memoryWork_flushComb s _
  | _ => exact .refl s

theorem memoryWork_release (s : State) (v : View) (mask : BitVec 16) (scope : Nat) : MemoryWork s (s.release v mask scope) :=
  (memoryWork_flushComb s _).trans (memoryWork_perform _ _ _)

theorem memoryWork_forceBefore (s : State) (v : View) (k : BitVec 4) (lanes : List (Option Nat)) (locs : List Loc) :
    MemoryWork s (s.forceBefore v k lanes locs) := memoryWork_perform s 6 _

theorem memoryWork_fillFor (s : State) (r : Seat) (t : Target) (n : Nat) : MemoryWork s (s.fillFor r t n) := by
  cases t <;> exact .of_same rfl rfl

/-! ### A slot put back after the work -/

/-- The team and the wave of a slot are there. -/
def State.Holds (s : State) (sl : SlotId) : Prop := ∃ t, s.team? sl.team = some t ∧ sl.wave < t.waves.length

theorem State.holds_of_find {s : State} {sl : SlotId} {v : View} (h : s.find sl = some v) : s.Holds sl := by
  obtain ⟨-, ht, hw, -⟩ := State.find_spec h
  exact ⟨_, ht, (List.getElem?_eq_some_iff.1 hw).1⟩

theorem State.holds_of_view {s : State} {v : View} (hv : s.view = some v) : s.Holds v.sl := by
  obtain ⟨hsl, ht, ⟨w, hw, -⟩, -⟩ := State.view_spec hv
  exact hsl ▸ ⟨_, ht, (List.getElem?_eq_some_iff.1 hw).1⟩

theorem MemoryWork.holds {s s' : State} {sl : SlotId} (h : MemoryWork s s') (hs : s.Holds sl) : s'.Holds sl := by
  obtain ⟨t, ht, hlen⟩ := hs
  have hwaves := h.1 sl.team
  rw [ht] at hwaves
  obtain ⟨t', ht', hw⟩ : ∃ t', s'.team? sl.team = some t' ∧ t'.waves = t.waves := by simpa using hwaves
  exact ⟨t', ht', hw ▸ hlen⟩

section
variable {s : State} {v : View} (hs : s.Holds v.sl)
include hs

/-- A wave is put back where it was, and nothing else changes. -/
theorem State.Holds.putWave (w : Wave) : OnlyWave v.sl s (s.putWave v w) ∧
    ∃ t, (s.putWave v w).find v.sl = some { sl := v.sl, t := t, w := w, p := w.slot v.sl.b } := by
  obtain ⟨t, ht, hlen⟩ := hs
  refine ⟨⟨rfl, fun _ => rfl, fun _ hid => State.team?_putWave_ne s v w hid, fun x hx => ?_⟩, _,
    State.find_putWave (v := { v with t := t }) ht hlen w⟩
  obtain rfl : t = x := Option.some.inj (ht.symm.trans hx)
  exact ⟨_, State.team?_putWave_self (v := { v with t := t }) ht w, fun i hi => by simp [Ne.symm hi]⟩

/-- A slot that goes on with its results and its fault mask moves on. -/
theorem State.Holds.movesOn {p : Slot} (ch : Bool)
    (hp : p = { v.p with pend := p.pend, fmask := p.fmask, replay := p.replay, idle := p.idle }) :
    MovesOn p.pend p.fmask v s (s.putSlot v (p.afterOther ch)) := by
  obtain ⟨honly, t, hfind⟩ := hs.putWave (v.w.setSlot v.sl.b (p.afterOther ch))
  rw [Wave.slot_setSlot] at hfind
  obtain ⟨hpc, hbank, hmask, howned, hmxst, hfmask, -, -, -, -, hplain, hlatch⟩ := p.afterOther_frame ch
  refine ⟨honly, _, hfind, ⟨rfl, rfl⟩, hpc.trans ?_, fun he => ?_, hbank.trans ?_, hmask.trans ?_, howned.trans ?_, hmxst.trans ?_,
    hfmask, hlatch⟩
  · exact Slot.retire_pc_congr (by rw [hp]) (by rw [hp]) (by rw [hp])
  · obtain ⟨hpend, -, hstatus⟩ := hplain (by rw [hp]; exact he)
    exact ⟨hpend, hstatus.trans (by rw [hp])⟩
  all_goals rw [hp]

end

end Sys2Proof.Machine
end

section
/-!
PROOFS. Loads: the checks of the accesses, the common course of a memory operation with nothing to wait for, the pending
result, and what a load leaves as it was (R180 to R187, R312).
-/

namespace Sys2Proof.Machine

/-! ### Checking the accesses -/

/-- Outside .glob the checks of an access change nothing. -/
theorem slotTarget_state (s : State) (v : View) {spc : Nat} (lane : Nat) (a : Dword) (n : Nat) (k : Access) (h : spc ≠ 0) :
    (slotTarget s v spc lane a n k).1 = s := by
  unfold slotTarget
  split
  · exact absurd rfl h
  · split
    · rfl
    · split <;> rfl
  · rfl

/-- Checking one access leaves the state of its checks, and answers it among the good ones or not. -/
theorem resolveOne_cases (v : View) (spc n : Nat) (k : Access) (ok : Bool) (acc : State × Resolved) (p : Part) :
    (resolveOne v spc n k ok acc p).1 = (slotTarget acc.1 v spc p.lane p.addr n k).1 ∧
      ((resolveOne v spc n k ok acc p).2.good = acc.2.good ∨
        ∃ g, g.lane = p.lane ∧ (resolveOne v spc n k ok acc p).2.good = acc.2.good ++ [g]) := by
  unfold resolveOne
  split
  · next heq => exact ⟨by rw [heq], .inl rfl⟩
  · next heq =>
    dsimp only
    split
    · exact ⟨by rw [heq], .inl rfl⟩
    · exact ⟨by rw [heq], .inr ⟨_, rfl, rfl⟩⟩
  · next heq => exact ⟨by rw [heq], .inr ⟨_, rfl, rfl⟩⟩

theorem resolve_state (s : State) (v : View) {spc : Nat} (n : Nat) (k : Access) (ok : Bool) (ps : List Part) (h : spc ≠ 0) :
    (resolve s v spc n k ok ps).1 = s := by
  have key (acc : State × Resolved) : (ps.foldl (resolveOne v spc n k ok) acc).1 = acc.1 := by
    induction ps generalizing acc with
    | nil => rfl
    | cons p ps ih =>
      rw [List.foldl_cons, ih, (resolveOne_cases v spc n k ok acc p).1, slotTarget_state _ _ _ _ _ _ h]
  exact key _

theorem memoryWork_resolve (s : State) (v : View) (spc n : Nat) (k : Access) (ok : Bool) (ps : List Part) :
    MemoryWork s (resolve s v spc n k ok ps).1 := by
  have key (acc : State × Resolved) : MemoryWork acc.1 (ps.foldl (resolveOne v spc n k ok) acc).1 := by
    induction ps generalizing acc with
    | nil => exact .refl _
    | cons p ps ih =>
      have hone : MemoryWork acc.1 (resolveOne v spc n k ok acc p).1 :=
        (resolveOne_cases v spc n k ok acc p).1 ▸ memoryWork_slotTarget acc.1 v spc p.lane p.addr n k
      exact hone.trans (ih _)
  exact key _

/-- The good accesses are some of those checked, in their order. -/
theorem resolve_lanes (s : State) (v : View) (spc n : Nat) (k : Access) (ok : Bool) (ps : List Part) :
    ((resolve s v spc n k ok ps).2.good.map Good.lane).Sublist (ps.map Part.lane) := by
  have key (acc : State × Resolved) : ∃ l : List Nat, l.Sublist (ps.map Part.lane) ∧
      (ps.foldl (resolveOne v spc n k ok) acc).2.good.map Good.lane = acc.2.good.map Good.lane ++ l := by
    induction ps generalizing acc with
    | nil => exact ⟨[], List.Sublist.refl _, by simp⟩
    | cons p ps ih =>
      obtain ⟨l, hl, heq⟩ := ih (resolveOne v spc n k ok acc p)
      rcases (resolveOne_cases v spc n k ok acc p).2 with hg | ⟨g, hlane, hg⟩
      · exact ⟨l, hl.cons _, by rw [List.foldl_cons, heq, hg]⟩
      · exact ⟨p.lane :: l, hl.cons_cons _, by rw [List.foldl_cons, heq, hg]; simp [hlane]⟩
  obtain ⟨l, hl, heq⟩ := key (s, ⟨[], []⟩)
  exact heq ▸ hl

theorem lanesList_nodup (act : Lanes) : (lanesList act).Nodup := List.nodup_range.filter _

theorem gatherParts_lanes (v : View) (f : FmtM) : (gatherParts v f).map Part.lane = lanesList (memActive v f.c) := by
  simp [gatherParts, Function.comp_def]

theorem blockParts_lanes (v : View) (f : FmtM) : (blockParts v f).map Part.lane = lanesList (memActive v f.c) := by
  simp [blockParts, Function.comp_def]

/-! ### The common course -/

theorem neededFor_none {p : PWrite → Bool} {l : List PWrite} (h : ∀ w ∈ l, p w = false) : neededFor p l = [] := by
  induction l with
  | nil => rfl
  | cons w l ih => simp [neededFor, ih fun x hx => h x (List.mem_cons_of_mem _ hx), h w List.mem_cons_self]

/-- Nothing comes before no access. -/
theorem beforeNeeds_nil (s : State) (v : View) (k : BitVec 4) : beforeNeeds s v k [] [] = [] := by
  have hnone : ∀ w ∈ s.writes, (([] : List (Option Nat)).flatMap (fun l => orderedBefore s v.sl v.p k l) ++
      sameAddress s v.sl v.p []).contains w.id = false := by simp [sameAddress]
  simp only [beforeNeeds, coverNeeds, writeSnoops, neededFor_none hnone]
  split <;> rfl

/-- A memory operation whose accesses are all ready acts on them and goes on; a replay is then over. -/
theorem memRun_ready {s s1 : State} {v : View} {n : Nat} {k : Access} {f : FmtM} {ok scalar : Bool} {ps : List Part}
    {gs : List Good} (h : AccessesReady s v n k f ok scalar ps s1 gs) (data : Nat → List Byte)
    (act : State → List Good → State × Slot) :
    memRun f.c f.str n k f.spc.toNat ok scalar ps data act v s =
      ((act s1 gs).1.clearRemote (.slot v.sl)).putSlot v
        (({ (act s1 gs).2 with fmask := fmaskAfter v, replay := false, idle := 0 } : Slot).afterOther f.c.ch) := by
  obtain ⟨hwalks, hres, hneeds, hfar, hatomic, hbefore⟩ := h
  have htargets : (gs.flatMap fun g => targetNeeds s1 (decide (k ≠ .load)) n g.t ++ touchNeeds s1 v.t.core g.t n) = [] := by
    simpa [List.flatMap_eq_nil_iff] using hneeds
  have hloc : (if k = .atomic then locNeeds s1 (gs.flatMap fun g => readLocs s1 n g.t) else []) = [] := by
    split
    · next hk => exact hatomic hk
    · rfl
  have hord : (if k = .store then beforeNeeds s1 v f.str
        (([] : List Good).map fun g => if scalar then none else some g.lane) []
      else beforeNeeds s1 v f.str (gs.map fun g => if scalar then none else some g.lane)
        (gs.flatMap fun g => readLocs s1 n g.t)) = [] := by
    split
    · exact beforeNeeds_nil s1 v f.str
    · next hk => exact hbefore hk
  simp only [memRun, hwalks, hres, htargets, hloc, hfar, hord]
  rfl

/-! ### The pending result of a load -/

/-- Register `i` of lane `l`, from the bytes read in each lane. -/
def regOfLane (vals : List (Nat × List Byte)) (i l : Nat) : Word :=
  match vals.find? fun x => x.1 = l with
  | none => 0
  | some x => regOfBytes x.2 i

/-- The result a load leaves, once what comes before its accesses is performed. -/
def loadPend (f : FmtM) (scalar : Bool) (v : View) (s : State) (gs : List Good) : Pend :=
  let n := szBytes f.sz.toNat
  let g := szGroup f.sz.toNat
  let ok := (splitPoison s v n gs).1
  let vals := ok.map fun x => (x.lane, goodBytes s v.seat n x)
  let q : Pend :=
    if scalar then Pend.scal .ld f.d g (vals.head?.map fun x => BitVec.ofNat 128 (ofBytes x.2))
    else Pend.vec .ld f.d g (goodMask ok) (regOfLane vals)
  v.ordered { q with poison := (splitPoison s v n gs).2 }

theorem loadAct_eq (f : FmtM) (scalar : Bool) (v : View) (s : State) (gs : List Good) :
    let n := szBytes f.sz.toNat
    let s2 := (s.quiet v.t.core n gs).forceBefore v f.str (gs.map (laneOf scalar)) (goodLocs s n gs)
    loadAct f scalar v s gs =
      (s2.fillGood v.seat n gs, if scalar ∧ gs = [] then v.p else v.p.addPend (loadPend f scalar v s2 gs)) := rfl

theorem Pend.scal_poison (c : ResClass) (sel : BitVec 8) (g : Nat) (x : Option (BitVec 128)) : (Pend.scal c sel g x).poison = none := by
  by_cases h : sel.toNat < 0x40 <;> simp [Pend.scal, Pend.empty, h]

theorem Pend.vec_poison (c : ResClass) (sel : BitVec 8) (g : Nat) (act : Lanes) (f : Nat → Nat → Word) :
    (Pend.vec c sel g act f).poison = none := by
  by_cases h : sel.toNat < 0x40 <;> simp [Pend.vec, Pend.empty, h]

theorem Pend.with_poison_none {q : Pend} (h : q.poison = none) : { q with poison := none } = q := by
  rw [← h]

/-- Where no access meets poison, every one is read and there is no record. -/
theorem splitPoison_clean {s : State} {v : View} {n : Nat} {gs : List Good} (h : ∀ g ∈ gs, targetPoisoned s n g.t = false) :
    splitPoison s v n gs = (gs, none) := by
  have hfind : gs.find? (fun g => targetPoisoned s n g.t) = none := List.find?_eq_none.mpr fun g hg => by simp [h g hg]
  have hfilter : gs.filter (fun g => !targetPoisoned s n g.t) = gs := List.filter_eq_self.mpr fun g hg => by simp [h g hg]
  simp [splitPoison, hfind, hfilter]

/-- The result of a scalar load holds the bytes of its access. -/
theorem loadPend_scalar {f : FmtM} {v : View} {s : State} {g : Good} (h : targetPoisoned s (szBytes f.sz.toNat) g.t = false) :
    loadPend f true v s [g] = v.ordered
      (Pend.scal .ld f.d (szGroup f.sz.toNat) (some (BitVec.ofNat 128 (ofBytes (goodBytes s v.seat (szBytes f.sz.toNat) g))))) := by
  have hclean : splitPoison s v (szBytes f.sz.toNat) [g] = ([g], none) := splitPoison_clean (by simpa using h)
  simp only [loadPend, hclean, if_true]
  exact congrArg v.ordered (Pend.with_poison_none (Pend.scal_poison ..))

/-- In a list of accesses of distinct lanes, the one of a lane is found by it. -/
theorem find?_lane {β : Type} {gs : List Good} (hl : (gs.map Good.lane).Nodup) {g : Good} (hg : g ∈ gs) (val : Good → β) :
    (gs.map fun x => (x.lane, val x)).find? (fun x => x.1 = g.lane) = some (g.lane, val g) := by
  induction gs with
  | nil => nomatch hg
  | cons x gs ih =>
    obtain ⟨hx, hl⟩ := List.nodup_cons.mp hl
    rcases List.mem_cons.mp hg with rfl | hg
    · simp
    · have hne : x.lane ≠ g.lane := fun h => hx (h ▸ List.mem_map_of_mem hg)
      rw [List.map_cons, List.find?_cons_of_neg (by simpa using hne), ih hl hg]

/-- The result of a vector load holds in each lane the bytes of that lane's access. -/
theorem loadPend_vector {f : FmtM} {v : View} {s : State} {gs : List Good} (hl : (gs.map Good.lane).Nodup)
    (h : ∀ g ∈ gs, targetPoisoned s (szBytes f.sz.toNat) g.t = false) :
    ∃ val, loadPend f false v s gs = v.ordered (Pend.vec .ld f.d (szGroup f.sz.toNat) (goodMask gs) val) ∧
      ∀ g ∈ gs, ∀ j, val j g.lane = regOfBytes (goodBytes s v.seat (szBytes f.sz.toNat) g) j := by
  refine ⟨regOfLane (gs.map fun x => (x.lane, goodBytes s v.seat (szBytes f.sz.toNat) x)), ?_, fun g hg j => ?_⟩
  · simp only [loadPend, splitPoison_clean h, Bool.false_eq_true, if_false]
    exact congrArg v.ordered (Pend.with_poison_none (Pend.vec_poison ..))
  · simp only [regOfLane, find?_lane hl hg]

/-- The record of a load whose lowest access meets poison. -/
theorem loadPend_poison {f : FmtM} {scalar : Bool} {v : View} {s : State} {g : Good} {rest : List Good}
    (h : targetPoisoned s (szBytes f.sz.toNat) g.t = true) :
    (loadPend f scalar v s (g :: rest)).poison = some (poisonRec s v g.addr) := by
  simp [loadPend, View.ordered, splitPoison, h]

/-! ### What a load leaves -/

theorem State.performLate_of_none {s : State} (h : s.lateReds = []) : s.performLate = s := by
  have hs : ({ s with lateReds := [] } : State) = s := by rw [← h]
  simp [State.performLate, h, hs, State.request]

/-- Where nothing is to be flushed and no reduction is late, a flush does nothing. -/
theorem State.flushComb_of_none {s : State} {p : CombEntry → Bool} (hc : ∀ e ∈ s.comb, p e = false) (hl : s.lateReds = []) :
    s.flushComb p = s := by
  have hkeep : s.comb.filter (fun e => !p e) = s.comb := List.filter_eq_self.mpr fun e he => by simp [hc e he]
  have hnone : s.comb.filter p = [] := List.filter_eq_nil_iff.mpr fun e he => by simp [hc e he]
  simp only [State.flushComb, State.performLate_of_none hl, hkeep, hnone, List.foldl_nil]

/-- An access touches entries of its core only. -/
theorem touches_core {s : State} {core n : Nat} {t : Target} {e : CombEntry} (h : e.core ≠ core) : touches s core t n e = false := by
  cases t <;> simp [touches, h]

theorem State.flushFor_of_none {s : State} {core : Nat} (t : Target) (n : Nat) (hc : ∀ e ∈ s.comb, e.core ≠ core)
    (hl : s.lateReds = []) : s.flushFor core t n = s := by
  cases t with
  | phys pa mt => exact State.flushComb_of_none (fun e he => touches_core (hc e he)) hl
  | dec w q => exact State.flushComb_of_none (fun e he => touches_core (hc e he)) hl
  | _ => rfl

/-- With no reduction of the core resting and none late, quieting recalls near lines and does nothing else. -/
theorem State.quiet_of_none {core : Nat} (n : Nat) (gs : List Good) {s : State} (hc : ∀ e ∈ s.comb, e.core ≠ core)
    (hl : s.lateReds = []) : ∃ near, s.quiet core n gs = { s with near := near } := by
  induction gs generalizing s with
  | nil => exact ⟨s.near, rfl⟩
  | cons g gs ih =>
    have hstep : s.quiet core n (g :: gs) = (s.recall (some core) (readLines s n g.t)).quiet core n gs := by
      rw [State.quiet, List.foldl_cons, State.flushFor_of_none g.t n hc hl]
      rfl
    obtain ⟨near, h⟩ := ih (s := s.recall (some core) (readLines s n g.t)) hc hl
    exact ⟨near, hstep.trans h⟩

/-- Performing no write changes which decoded lines are held, and nothing else. -/
theorem State.perform_none {s : State} {p : PWrite → Bool} (lvl : Nat) (h : ∀ w ∈ s.writes, p w = false)
    (hlev : ∀ w ∈ s.writes, w.level < 6) : ∃ dec, s.perform lvl p = { s with decoded := dec } := by
  have hdone : s.writes.filter (fun w => decide (6 ≤ w.level)) = [] :=
    List.filter_eq_nil_iff.mpr fun w hw => by have := hlev w hw; simpa
  have hkeep : s.writes.filter (fun w => decide (w.level < 6)) = s.writes :=
    List.filter_eq_self.mpr fun w hw => by simpa using hlev w hw
  simp only [State.perform, neededFor_none h, State.settle, List.map_nil, List.contains_nil, Bool.false_eq_true, if_false,
    List.map_id', hdone, hkeep, List.foldl_nil, State.dropDecoded]
  exact ⟨_, rfl⟩

/-- With nothing to come first, nothing is performed. -/
theorem State.forceBefore_of_none {s : State} {v : View} {k : BitVec 4} {ls : List (Option Nat)} {locs : List Loc}
    (hord : ∀ l ∈ ls, orderedBefore s v.sl v.p k l = []) (haddr : sameAddress s v.sl v.p locs = [])
    (hlev : ∀ w ∈ s.writes, w.level < 6) : ∃ dec, s.forceBefore v k ls locs = { s with decoded := dec } := by
  have hids : ls.flatMap (fun l => orderedBefore s v.sl v.p k l) ++ sameAddress s v.sl v.p locs = [] := by
    simp [haddr, List.flatMap_eq_nil_iff.mpr hord]
  exact State.perform_none 6 (fun w _ => by rw [hids]; rfl) hlev

theorem State.fillGood_decoded (s : State) (r : Seat) (n : Nat) (gs : List Good) :
    ∃ dec, s.fillGood r n gs = { s with decoded := dec } := by
  induction gs generalizing s with
  | nil => exact ⟨s.decoded, rfl⟩
  | cons g gs ih =>
    have hstep : ∃ dec, s.fillFor r g.t n = { s with decoded := dec } := by
      cases g.t <;> exact ⟨_, rfl⟩
    obtain ⟨dec, h⟩ := hstep
    obtain ⟨dec', h'⟩ := ih (s.fillFor r g.t n)
    refine ⟨dec', ?_⟩
    rw [State.fillGood, List.foldl_cons]
    exact h'.trans (by rw [h])

theorem memoryWork_quiet (s : State) (core n : Nat) (gs : List Good) : MemoryWork s (s.quiet core n gs) :=
  .foldl (fun s (g : Good) => (memoryWork_flushFor s core g.t n).trans (memoryWork_recall _ _ _)) gs s

theorem memoryWork_fillGood (s : State) (r : Seat) (n : Nat) (gs : List Good) : MemoryWork s (s.fillGood r n gs) :=
  .foldl (fun s (g : Good) => memoryWork_fillFor s r g.t n) gs s

theorem memoryWork_clearRemote (s : State) (who : Agent) : MemoryWork s (s.clearRemote who) := .of_same rfl rfl

/-! ### What every agent reads after a change of one wave -/

section
variable {sl : SlotId} {s t : State} (h : OnlyWave sl s t) {x : Team} (hx : s.team? sl.team = some x)
include h hx

/-- A change of one wave leaves the scratchpads and the lane slices of every team. -/
theorem OnlyWave.stores (id : Nat) :
    (t.team? id).map (fun y => (y.scratch, y.lane)) = (s.team? id).map fun y => (y.scratch, y.lane) := by
  obtain ⟨-, -, hother, hself⟩ := h
  by_cases hid : id = sl.team
  · subst hid
    obtain ⟨ws, ht, -⟩ := hself x hx
    rw [ht, hx]
    rfl
  · rw [hother id hid]

theorem OnlyWave.locBase (l : Loc) : locBase t l = Machine.locBase s l := by
  cases l with
  | phys a => exact h.2.1 a
  | seg c n o => rw [h.1]; rfl
  | scratch tm o =>
    have hst := h.stores hx tm
    simp only [Machine.locBase]
    cases hs : s.team? tm <;> cases ht : t.team? tm <;> simp [hs, ht] at hst ⊢
    rw [hst.1]

theorem OnlyWave.seenByte (r : Seat) (l : Loc) : seenByte t r l = Machine.seenByte s r l := by
  have hw : t.writes = s.writes := by rw [h.1]
  have hd (a : Nat) : hostDirty t a = hostDirty s a := by rw [h.1]; rfl
  simp only [Machine.seenByte, hw, hd, h.locBase hx]

theorem OnlyWave.finalByte (l : Loc) : finalByte t l = Machine.finalByte s l := by
  have hw : t.writes = s.writes := by rw [h.1]
  simp only [Machine.finalByte, hw, h.locBase hx]

theorem OnlyWave.laneByte (team key : Nat) : laneByte t team key = Machine.laneByte s team key := by
  have hst := h.stores hx team
  simp only [Machine.laneByte]
  cases hs : s.team? team <;> cases ht : t.team? team <;> simp [hs, ht] at hst ⊢
  rw [hst.2]

end

/-! ### Loads complete -/

section
variable {f : FmtM} {s s1 : State} {v : View} {gs : List Good} {scalar : Bool} {ps : List Part} (hv : s.view = some v)
  (h : AccessesReady s v (szBytes f.sz.toNat) .load f true scalar ps s1 gs)
include hv h

/-- The common course of a load: its result is pending, and its slot goes on. -/
theorem load_movesOn :
    let n := szBytes f.sz.toNat
    let s2 := (s1.quiet v.t.core n gs).forceBefore v f.str (gs.map (laneOf scalar)) (goodLocs s1 n gs)
    MovesOn (if scalar ∧ gs = [] then v.p.pend else v.p.pend ++ [loadPend f scalar v s2 gs]) (fmaskAfter v) v
      ((s2.fillGood v.seat n gs).clearRemote (.slot v.sl))
      (memRun f.c f.str n .load f.spc.toNat true scalar ps (fun _ => []) (loadAct f scalar v) v s) := by
  have hres : MemoryWork s s1 := by
    have := memoryWork_resolve s v f.spc.toNat (szBytes f.sz.toNat) .load true ps
    rwa [h.2.1] at this
  have hwork := (((hres.trans (memoryWork_quiet s1 v.t.core (szBytes f.sz.toNat) gs)).trans
    (memoryWork_forceBefore _ v f.str (gs.map (laneOf scalar)) (goodLocs s1 (szBytes f.sz.toNat) gs))).trans
    (memoryWork_fillGood _ v.seat (szBytes f.sz.toNat) gs)).trans (memoryWork_clearRemote _ (.slot v.sl))
  have hs := hwork.holds (State.holds_of_view hv)
  intro n s2
  rw [memRun_ready h, loadAct_eq]
  by_cases hn : scalar ∧ gs = []
  · simp only [if_pos hn]
    exact hs.movesOn f.c.ch (p := { v.p with fmask := fmaskAfter v, replay := false, idle := 0 }) rfl
  · simp only [if_neg hn]
    exact hs.movesOn f.c.ch rfl

end

/-- A load completes, given its issue and the distinct lanes of its accesses. -/
theorem loadCompletes_of_issue {i : FmtM → Instr} {causes : FmtM → View → List Nat} {scalar : Bool}
    {parts : FmtM → View → List Part}
    (he : ∀ f s, exec (i f) s = issue s (causes f) (fun v => v.full .ld) fun v =>
      memRun f.c f.str (szBytes f.sz.toNat) .load f.spc.toNat true scalar (parts f v) (fun _ => []) (loadAct f scalar v) v s)
    (hl : scalar = false → ∀ f v, ((parts f v).map Part.lane).Nodup) : LoadCompletes i causes scalar parts := by
  intro f s v s1 gs hv hc hcount h
  have hfull : v.full .ld = false := decide_eq_false (by omega)
  refine ⟨_, loadPend f scalar v _ gs, (he f s).trans (issue_run hv hc hfull), load_movesOn hv h, fun hclean => ?_,
    fun g rest hg hp => ?_⟩
  · cases scalar with
    | true =>
      rw [if_pos rfl]
      rintro g rfl
      exact loadPend_scalar (hclean g List.mem_cons_self)
    | false =>
      rw [if_neg (by decide)]
      have hlanes := resolve_lanes s v f.spc.toNat (szBytes f.sz.toNat) .load true (parts f v)
      rw [h.2.1] at hlanes
      exact loadPend_vector (hlanes.nodup (hl rfl f v)) hclean
  · subst hg
    exact ⟨_, loadPend_poison hp, rfl, rfl, rfl⟩

/-- Settles O26: the common course of the loads, and what their checks, flushes and fills leave as it was. -/
theorem loadsCompleteAndStoreNothing : Obligations.LoadsCompleteAndStoreNothing := by
  refine ⟨⟨loadCompletes_of_issue (fun _ _ => rfl) (fun h => nomatch h),
    loadCompletes_of_issue (fun _ _ => rfl) fun _ f v => gatherParts_lanes v f ▸ lanesList_nodup _,
    loadCompletes_of_issue (fun _ _ => rfl) fun _ f v => blockParts_lanes v f ▸ lanesList_nodup _⟩,
    fun s v spc n k ok ps h => resolve_state s v n k ok ps h, fun s v n gs k ls locs hc hl hord haddr hlev => ?force,
    fun s v n gs hc hl => State.quiet_of_none n gs hc hl, fun s r n gs => s.fillGood_decoded r n gs,
    fun s t pend fm v near dec hv hm => ?same⟩
  case force =>
    obtain ⟨near, hq⟩ := State.quiet_of_none n gs hc hl
    rw [hq]
    obtain ⟨dec, hf⟩ := State.forceBefore_of_none (s := { s with near := near }) hord haddr hlev
    exact ⟨near, dec, hf⟩
  case same =>
    obtain ⟨-, ht, -⟩ := State.find_spec hv
    have hx : (({ s with near := near, decoded := dec } : State).clearRemote (.slot v.sl)).team? v.sl.team = some v.t := ht
    exact ⟨fun r l => hm.1.seenByte hx r l, fun team key => hm.1.laneByte hx team key, fun l => hm.1.finalByte hx l⟩

end Sys2Proof.Machine
end

section
/-!
PROOFS. Tracked results: a full class waits, and TRACKED_RESULT_WRITE writes the oldest result of a class and nothing
else (R48, R49, R183, R208).
-/

namespace Sys2Proof.Machine

/-! ### The oldest result of a class -/

theorem takePend_append {c : ResClass} {q : Pend} (hq : q.cls = c) (rest : List Pend) :
    ∀ {pre : List Pend}, (∀ x ∈ pre, x.cls ≠ c) → takePend c (pre ++ q :: rest) = some (q, pre ++ rest)
  | [], _ => by simp [takePend, hq]
  | x :: pre, h => by
    have ih := takePend_append hq rest (pre := pre) fun y hy => h y (List.mem_cons_of_mem _ hy)
    simp [takePend, h x List.mem_cons_self, ih]

theorem takePend_some {c : ResClass} {q : Pend} {l rest : List Pend} (h : takePend c l = some (q, rest)) :
    q.cls = c ∧ ∃ a b, l = a ++ q :: b ∧ rest = a ++ b ∧ ∀ x ∈ a, x.cls ≠ c := by
  induction l generalizing rest with
  | nil => nomatch h
  | cons x l ih =>
    rw [takePend] at h
    split at h
    · next hx =>
      obtain ⟨rfl, rfl⟩ : x = q ∧ l = rest := by simpa using h
      exact ⟨hx, [], l, rfl, rfl, by simp⟩
    · next hx =>
      split at h
      · nomatch h
      · next y r heq =>
        obtain ⟨rfl, rfl⟩ : y = q ∧ x :: r = rest := by simpa using h
        obtain ⟨hc, a, b, rfl, rfl, ha⟩ := ih heq
        exact ⟨hc, x :: a, b, rfl, rfl, by simpa [hx] using ha⟩

/-! ### Order of the writes of a shared scalar -/

theorem Wave.lastAt_noteWrite_ne (w : Wave) (b : Bool) {n m : Nat} (k : Nat) (h : m ≠ n) :
    (w.noteWrite b n k).lastAt m = w.lastAt m := by
  simp only [Wave.lastAt, Wave.noteWrite]
  split
  · rw [List.find?_cons_of_neg (by simpa using h.symm), List.find?_filter]
    congr 3
    funext p
    grind
  · rfl

theorem le_foldl_max {l : List Nat} {n a : Nat} (h : n ≤ a ∨ n ∈ l) : n ≤ l.foldl max a := by
  induction l generalizing a with
  | nil => simpa using h
  | cons x l ih =>
    refine ih ?_
    simp only [List.mem_cons] at h
    rcases h with h | rfl | h
    · exact .inl (h.trans (Nat.le_max_left _ _))
    · exact .inl (Nat.le_max_right _ _)
    · exact .inr h

/-- The next order of a wave is above that of every outstanding result. -/
theorem Wave.at_lt_nextAt {w : Wave} {b : Bool} {q : Pend} (h : q ∈ (w.slot b).pend) : q.at_ < w.nextAt := by
  refine Nat.lt_succ_of_le (le_foldl_max (.inr (List.mem_append_right _ (List.mem_map_of_mem ?_))))
  cases b
  · exact List.mem_append_left _ h
  · exact List.mem_append_right _ h

/-- A write of a shared scalar that a result of the other slot still marks is noted with a later order than that result. -/
theorem at_lt_lastAt_writeSReg {w : Wave} {b : Bool} {n : Nat} {x : Word} {q : Pend} (hn : n < 32)
    (hq : q ∈ (w.slot (!b)).pend) (hm : n ∈ q.sMarks) : q.at_ < (writeSReg w b n x).lastAt n := by
  have hany : ((w.slot (!b)).pend.any fun q => q.sMarks.contains n) = true := List.any_eq_true.mpr ⟨q, hq, by simpa using hm⟩
  have hlast : (writeSReg w b n x).lastAt n = w.nextAt := by
    simp only [writeSReg, hn, if_true, Wave.lastAt, Wave.noteWrite, hany]
    simp
  exact hlast ▸ Wave.at_lt_nextAt hq

/-! ### The stages of writing a result -/

/-- The parts of a wave that the write of a result of slot `b` leaves: the other slot, the divergence stack, and the
course of the slot. -/
def Wave.SameCourse (b : Bool) (w w' : Wave) : Prop :=
  w'.slot (!b) = w.slot (!b) ∧ w'.stack = w.stack ∧ (w'.slot b).pend = (w.slot b).pend ∧
    (w'.slot b).pc = (w.slot b).pc ∧ (w'.slot b).owned = (w.slot b).owned

theorem Wave.SameCourse.refl (b : Bool) (w : Wave) : Wave.SameCourse b w w := ⟨rfl, rfl, rfl, rfl, rfl⟩

theorem Wave.SameCourse.trans {b : Bool} {w w' w'' : Wave} (h : Wave.SameCourse b w w') (h' : Wave.SameCourse b w' w'') :
    Wave.SameCourse b w w'' := by
  obtain ⟨h1, h2, h3, h4, h5⟩ := h
  obtain ⟨h1', h2', h3', h4', h5'⟩ := h'
  exact ⟨h1'.trans h1, h2'.trans h2, h3'.trans h3, h4'.trans h4, h5'.trans h5⟩

/-- The vector registers of a result. -/
def Wave.landVectors (w : Wave) (q : Pend) : Wave :=
  { w with v := q.vMarks.foldl (fun m r => lanesSet m r q.vLanes fun l => cellGet q.vWrites (96 * r + l)) w.v }

/-- The scalar registers of a result. -/
def Wave.landScalars (w : Wave) (b : Bool) (k : Nat) (l : List (Nat × Word)) : Wave :=
  l.foldl (fun w x => landSReg b k w x.1 x.2) w

/-- The predicate of a result. -/
def Wave.landPred (w : Wave) (q : Pend) : Wave :=
  match q.kWrite with
  | none => w
  | some (n, act, x) => writeKReg w n act x

/-- The temporaries of a result. -/
def Wave.landTemps (w : Wave) (b : Bool) (q : Pend) : Wave :=
  match (w.slot b).exp with
  | none => w
  | some x =>
    w.setSlot b { w.slot b with exp := some { x with
      e := q.eMarks.foldl (fun m r => lanesSet m r q.vLanes fun l => cellGet q.eWrites (96 * r + l)) x.e
      x := cellSetAll x.x q.xWrites } }

theorem Wave.land_eq (w : Wave) (b : Bool) (q : Pend) :
    w.land b q = (((w.landVectors q).landScalars b q.at_ q.sWrites).landPred q).landTemps b q := rfl

theorem Wave.landVectors_spec (w : Wave) (b : Bool) (q : Pend) : Wave.SameCourse b w (w.landVectors q) ∧
    (∀ n, (w.landVectors q).sreg b n = w.sreg b n) ∧ (w.landVectors q).k = w.k ∧ (w.landVectors q).lastAt = w.lastAt := by
  cases b <;> exact ⟨⟨rfl, rfl, rfl, rfl, rfl⟩, fun _ => rfl, rfl, rfl⟩

theorem Wave.landPred_spec (w : Wave) (b : Bool) (q : Pend) : Wave.SameCourse b w (w.landPred q) ∧
    (∀ n, (w.landPred q).sreg b n = w.sreg b n) ∧ (w.landPred q).v = w.v := by
  unfold Wave.landPred
  split
  · exact ⟨.refl b w, fun _ => rfl, rfl⟩
  · next n act x _ =>
    obtain ⟨hv, hs, ha, hb, hstack, -, -⟩ := writeKReg_frame w n act x
    have hslot : (writeKReg w n act x).slot = w.slot := by
      funext c
      simp [Wave.slot, ha, hb]
    exact ⟨⟨by rw [hslot], hstack, by rw [hslot], by rw [hslot], by rw [hslot]⟩, fun m => by simp [readSReg, hslot, hs], hv⟩

theorem Wave.landTemps_spec (w : Wave) (b : Bool) (q : Pend) : Wave.SameCourse b w (w.landTemps b q) ∧
    (∀ n, (w.landTemps b q).sreg b n = w.sreg b n) ∧ (w.landTemps b q).v = w.v ∧ (w.landTemps b q).k = w.k := by
  unfold Wave.landTemps
  split
  · exact ⟨.refl b w, fun _ => rfl, rfl, rfl⟩
  · simp [Wave.SameCourse, readSReg]

/-! ### Scalars -/

/-- Writing one scalar of a result, below the mask words. -/
theorem landSReg_spec (b : Bool) (k : Nat) (w : Wave) {n : Nat} (x : Word) :
    Wave.SameCourse b w (landSReg b k w n x) ∧ (landSReg b k w n x).v = w.v ∧ (landSReg b k w n x).k = w.k ∧
    (∀ m, m ≠ n → (landSReg b k w n x).lastAt m = w.lastAt m) ∧
    (n < 60 → ∀ m, (landSReg b k w n x).sreg b m = if m = n ∧ (m < 32 → w.lastAt m < k) then x else w.sreg b m) := by
  unfold landSReg
  split
  · next hn =>
    split
    · next hlt =>
      refine ⟨by cases b <;> exact ⟨rfl, rfl, rfl, rfl, rfl⟩, rfl, rfl, fun m hm => w.lastAt_noteWrite_ne b k hm, fun _ m => ?_⟩
      by_cases hm : m = n
      · subst hm
        simp [readSReg, hn, hlt]
      · rw [if_neg fun h => hm h.1]
        simp only [readSReg, cellGet_cellSet_ne _ _ hm]
        cases b <;> rfl
    · next hlt =>
      refine ⟨.refl b w, rfl, rfl, fun _ _ => rfl, fun _ m => ?_⟩
      rw [if_neg]
      rintro ⟨rfl, h⟩
      exact hlt (h hn)
  · next hn =>
    obtain ⟨hv, hk, hstack, -, -, hslot⟩ := writeSReg_frame w b n x
    refine ⟨⟨writeSReg_slot_not w b n x, hstack, by rw [hslot], by rw [hslot], by rw [hslot]⟩, hv, hk, fun m _ => ?_, fun h60 m => ?_⟩
    · simp only [writeSReg, hn, if_false, Wave.lastAt]
      split <;> cases b <;> rfl
    · rw [sreg_writeSReg, ownedCut, if_neg (show ¬ (60 ≤ n ∧ n ≤ 62) by omega)]
      refine if_congr ?_ rfl rfl
      omega

theorem Wave.landScalars_course (b : Bool) (k : Nat) (l : List (Nat × Word)) (w : Wave) :
    Wave.SameCourse b w (w.landScalars b k l) ∧ (w.landScalars b k l).v = w.v ∧ (w.landScalars b k l).k = w.k := by
  induction l generalizing w with
  | nil => exact ⟨.refl b w, rfl, rfl⟩
  | cons x l ih =>
    obtain ⟨hc, hv, hk, -⟩ := landSReg_spec b k w (n := x.1) x.2
    obtain ⟨hc', hv', hk'⟩ := ih (landSReg b k w x.1 x.2)
    exact ⟨hc.trans hc', hv'.trans hv, hk'.trans hk⟩

/-- A group of scalars below the mask words: each shared one only where no later write was made. -/
theorem Wave.landScalars_group (b : Bool) (k : Nat) (w : Wave) (d : Nat) (x : Nat → Word) :
    ∀ g, d + g ≤ 60 →
      (∀ m, (w.landScalars b k ((List.range g).map fun i => (d + i, x i))).sreg b m =
        if d ≤ m ∧ m < d + g ∧ (m < 32 → w.lastAt m < k) then x (m - d) else w.sreg b m) ∧
      ∀ m, d + g ≤ m → (w.landScalars b k ((List.range g).map fun i => (d + i, x i))).lastAt m = w.lastAt m
  | 0, _ => ⟨fun m => by rw [if_neg (by omega)]; rfl, fun _ _ => rfl⟩
  | g + 1, hg => by
    obtain ⟨hs, hl⟩ := landScalars_group b k w d x g (by omega)
    set w' := w.landScalars b k ((List.range g).map fun i => (d + i, x i)) with hw'
    have hstep : w.landScalars b k ((List.range (g + 1)).map fun i => (d + i, x i)) = landSReg b k w' (d + g) (x g) := by
      simp [Wave.landScalars, List.range_succ, hw']
    obtain ⟨-, -, -, hlast, hsreg⟩ := landSReg_spec b k w' (n := d + g) (x g)
    rw [hstep]
    refine ⟨fun m => ?_, fun m hm => (hlast m (by omega)).trans (hl m (by omega))⟩
    rw [hsreg (by omega) m, hs m]
    by_cases hm : m = d + g
    · subst hm
      simp [hl]
    · refine (if_neg fun h => hm h.1).trans (if_congr ?_ rfl rfl)
      omega

/-! ### Vectors -/

/-- The registers `d` to `d + g - 1` of a store of vectors, written in the lanes `act`. -/
def groupSet (m : Cells 32) (d g : Nat) (act : Lanes) (f : Nat → Nat → Word) : Cells 32 :=
  (List.range g).foldl (fun m i => lanesSet m (d + i) act (f i)) m

theorem laneGet_groupSet (m : Cells 32) (d : Nat) (act : Lanes) (f : Nat → Nat → Word) {n l : Nat} (hl : l < 96) (g : Nat) :
    laneGet (groupSet m d g act f) n l =
      if d ≤ n ∧ n < d + g ∧ act.getLsbD l = true then f (n - d) l else laneGet m n l := by
  induction g with
  | zero => rw [if_neg (by omega)]; rfl
  | succ g ih =>
    have hstep : groupSet m d (g + 1) act f = lanesSet (groupSet m d g act f) (d + g) act (f g) := by
      simp [groupSet, List.range_succ]
    rw [hstep, laneGet_lanesSet _ _ _ _ _ _ hl, ih]
    by_cases hn : n = d + g
    · subst hn
      by_cases ha : act.getLsbD l = true <;> simp [ha]
    · refine (if_neg fun h => hn h.1).trans (if_congr ?_ rfl rfl)
      rw [show n < d + g ↔ n < d + (g + 1) by omega]

/-- A vector result as its registers are written from its cells. -/
theorem landVectors_vec (w : Wave) (c : ResClass) {d : BitVec 8} (g k : Nat) (act m : Lanes) (f : Nat → Nat → Word)
    (hd : d.toNat < 0x40) : (w.landVectors { Pend.vec c d g act f with mLanes := m, at_ := k }).v =
      groupSet w.v d.toNat g act fun i l => laneGet (groupSet [] d.toNat g act f) (d.toNat + i) l := by
  simp [Wave.landVectors, Pend.vec, hd, groupSet, List.foldl_map, laneGet]

/-! ### The three kinds of results -/

/-- What writing a result leaves, and which stage decides each store. -/
theorem Wave.land_spec (w : Wave) (b : Bool) (q : Pend) : Wave.SameCourse b w (w.land b q) ∧
    (∀ n, (w.land b q).sreg b n = ((w.landVectors q).landScalars b q.at_ q.sWrites).sreg b n) ∧
    (w.land b q).v = (w.landVectors q).v ∧
    (w.land b q).k = (((w.landVectors q).landScalars b q.at_ q.sWrites).landPred q).k := by
  obtain ⟨hc, -, -, -⟩ := w.landVectors_spec b q
  obtain ⟨hc', hv', -⟩ := Wave.landScalars_course b q.at_ q.sWrites (w.landVectors q)
  obtain ⟨hc'', hs'', hv''⟩ := Wave.landPred_spec ((w.landVectors q).landScalars b q.at_ q.sWrites) b q
  obtain ⟨ht, hst, hvt, hkt⟩ := Wave.landTemps_spec (((w.landVectors q).landScalars b q.at_ q.sWrites).landPred q) b q
  rw [Wave.land_eq]
  exact ⟨((hc.trans hc').trans hc'').trans ht, fun n => (hst n).trans (hs'' n), (hvt.trans hv'').trans hv', hkt⟩

/-- A vector result writes its registers in its lanes, and no scalar or predicate. -/
theorem Wave.land_vec (w : Wave) (b : Bool) (c : ResClass) {d : BitVec 8} {g : Nat} (k : Nat) (act m : Lanes)
    (f : Nat → Nat → Word) (hfit : d.toNat + g ≤ 64) :
    (∀ n l, l < 96 → laneGet (w.land b { Pend.vec c d g act f with mLanes := m, at_ := k }).v n l =
      if d.toNat ≤ n ∧ n < d.toNat + g ∧ act.getLsbD l = true then f (n - d.toNat) l else laneGet w.v n l) ∧
    (∀ n, (w.land b { Pend.vec c d g act f with mLanes := m, at_ := k }).sreg b n = w.sreg b n) ∧
    (w.land b { Pend.vec c d g act f with mLanes := m, at_ := k }).k = w.k := by
  obtain ⟨-, hs, hv, hk⟩ := w.land_spec b { Pend.vec c d g act f with mLanes := m, at_ := k }
  obtain ⟨-, hs', hk', -⟩ := w.landVectors_spec b { Pend.vec c d g act f with mLanes := m, at_ := k }
  have hsw : ({ Pend.vec c d g act f with mLanes := m, at_ := k } : Pend).sWrites = [] := by
    by_cases hd : d.toNat < 0x40 <;> simp [Pend.vec, Pend.empty, hd]
  have hkw : ({ Pend.vec c d g act f with mLanes := m, at_ := k } : Pend).kWrite = none := by
    by_cases hd : d.toNat < 0x40 <;> simp [Pend.vec, Pend.empty, hd]
  refine ⟨fun n l hl => ?_, fun n => ?_, ?_⟩
  · rw [hv]
    by_cases hd : d.toNat < 0x40
    · rw [landVectors_vec w c g k act m f hd, laneGet_groupSet _ _ _ _ hl]
      split
      · next h =>
        rw [show d.toNat + (n - d.toNat) = n by omega, laneGet_groupSet _ _ _ _ hl, if_pos h]
      · rfl
    · rw [if_neg (by omega)]
      simp [Wave.landVectors, Pend.vec, Pend.empty, hd]
  · rw [hs, hsw]
    exact hs' n
  · rw [hk, hsw, Wave.landPred, hkw]
    exact hk'

/-- A scalar result below the mask words writes its group, a shared scalar unless a later write was made, and no vector or
predicate. -/
theorem Wave.land_scal (w : Wave) (b : Bool) (c : ResClass) {d : BitVec 8} {g : Nat} (k : Nat) (m : Lanes) (x : BitVec 128)
    (hfit : d.toNat + g ≤ 60) :
    (∀ n, (w.land b { Pend.scal c d g (some x) with mLanes := m, at_ := k }).sreg b n =
      if d.toNat ≤ n ∧ n < d.toNat + g ∧ (n < 32 → w.lastAt n < k) then x.extractLsb' (32 * (n - d.toNat)) 32
      else w.sreg b n) ∧
    (w.land b { Pend.scal c d g (some x) with mLanes := m, at_ := k }).v = w.v ∧
    (w.land b { Pend.scal c d g (some x) with mLanes := m, at_ := k }).k = w.k := by
  obtain ⟨-, hs, hv, hk⟩ := w.land_spec b { Pend.scal c d g (some x) with mLanes := m, at_ := k }
  have hd : d.toNat < 0x40 := by omega
  have hlv : w.landVectors { Pend.scal c d g (some x) with mLanes := m, at_ := k } = w := by
    simp [Wave.landVectors, Pend.scal, Pend.empty, hd]
  rw [hlv] at hs hv hk
  obtain ⟨-, -, hk'⟩ := Wave.landScalars_course b k
    ({ Pend.scal c d g (some x) with mLanes := m, at_ := k } : Pend).sWrites w
  refine ⟨fun n => ?_, hv, ?_⟩
  · rw [hs]
    simpa [Pend.scal, hd] using (Wave.landScalars_group b k w d.toNat (fun i => x.extractLsb' (32 * i) 32) g hfit).1 n
  · rw [hk, Wave.landPred]
    simpa [Pend.scal, Pend.empty, hd] using hk'

/-- A predicate result writes its predicate in its lanes, and no scalar. -/
theorem Wave.land_pred (w : Wave) (b : Bool) (c : ResClass) (d : BitVec 8) (k : Nat) (act x m : Lanes) :
    (∀ n, readKReg (w.land b { Pend.pred c d act x with mLanes := m, at_ := k }) n =
      if n = d.toNat ∧ n ≠ 0 then (readKReg w n &&& ~~~act) ||| (x &&& act) else readKReg w n) ∧
    ∀ n, (w.land b { Pend.pred c d act x with mLanes := m, at_ := k }).sreg b n = w.sreg b n := by
  obtain ⟨-, hs, -, hk⟩ := w.land_spec b { Pend.pred c d act x with mLanes := m, at_ := k }
  refine ⟨fun n => ?_, hs⟩
  have hread : readKReg (w.land b { Pend.pred c d act x with mLanes := m, at_ := k }) n =
      readKReg (writeKReg w d.toNat act x) n := by
    simp only [readKReg, hk]
    rfl
  rw [hread, readKReg_writeKReg]
  by_cases hn : n = d.toNat
  · subst hn; rfl
  · simp [hn]

/-! ### TRACKED_RESULT_WRITE -/

/-- The wave of a slot with its outstanding results `l` and a poison record noted. -/
def View.withPend (v : View) (l : List Pend) (r : Option FRec) : Wave :=
  v.w.setSlot v.sl.b { v.p with pend := l, poisonStop := v.p.poisonStop <|> r }

/-- That wave differs from the slot's wave in the outstanding results and the noted record alone. -/
theorem View.withPend_spec {s : State} {sl : SlotId} {v : View} (hv : s.find sl = some v) (l : List Pend) (r : Option FRec) :
    (v.withPend l r).slot sl.b = { v.p with pend := l, poisonStop := v.p.poisonStop <|> r } ∧
    (v.withPend l r).slot (!sl.b) = v.w.slot (!sl.b) ∧ (v.withPend l r).stack = v.w.stack ∧ (v.withPend l r).v = v.w.v ∧
    (v.withPend l r).k = v.w.k ∧ (v.withPend l r).lastAt = v.w.lastAt ∧
    ∀ n, (v.withPend l r).sreg sl.b n = readSReg v.w v.p n := by
  obtain ⟨rfl, -⟩ := State.find_spec hv
  refine ⟨by simp [View.withPend], by simp [View.withPend], by simp [View.withPend], by simp [View.withPend],
    by simp [View.withPend], ?_, fun n => by simp [View.withPend, readSReg]⟩
  funext n
  unfold View.withPend
  cases v.sl.b <;> rfl

theorem execTrackedResultWrite_eq {s : State} {sl : SlotId} {v : View} {q : Pend} {pre rest : List Pend} (hv : s.find sl = some v)
    (hp : v.p.pend = pre ++ q :: rest) (hpre : ∀ x ∈ pre, x.cls ≠ q.cls) :
    exec (.trackedResultWrite sl q.cls) s =
      .next (s.putWave v ((v.withPend (pre ++ rest) q.poison).land sl.b q)) := by
  obtain ⟨rfl, -⟩ := State.find_spec hv
  change execTrackedResultWrite v.sl q.cls s = _
  simp only [execTrackedResultWrite, hv, hp, takePend_append rfl rest hpre]
  rfl

/-- Settles O19: what issuing a tracked result does, the oldest of a class, and the stages of writing it. -/
theorem trackedResultsWaitAndAreWritten : Obligations.TrackedResultsWaitAndAreWritten := by
  refine ⟨⟨fun f s v hv hc hn => issue_wait hv hc (decide_eq_true hn), fun f s v hv hc hn => issue_wait hv hc (decide_eq_true hn),
    fun p q c => ?count, fun c l rest q h => ?oldest, fun s sl v q rest hv h => ?event, fun c d g act m val x i hd hi => ?marks⟩,
    fun s sl v q pre rest hv hp hpre => ?written, fun w b n x q hn hq hm => at_lt_lastAt_writeSReg hn hq hm⟩
  case count =>
    by_cases h : q.cls = c <;> simp [Slot.count, Slot.addPend, h]
  case oldest =>
    obtain ⟨hq, a, b, rfl, rfl, ha⟩ := takePend_some h
    refine ⟨hq, ⟨a, b, rfl, rfl, ha⟩, ?_⟩
    simp [hq]
    omega
  case event =>
    obtain ⟨-, a, b, hp, rfl, ha⟩ := takePend_some h
    obtain ⟨rfl, -⟩ := State.find_spec hv
    obtain ⟨-, t, hfind⟩ := (State.holds_of_find hv).putWave ((v.withPend (a ++ b) q.poison).land v.sl.b q)
    obtain ⟨⟨-, -, hpend, -⟩, -⟩ := Wave.land_spec (v.withPend (a ++ b) q.poison) v.sl.b q
    exact ⟨_, _, execTrackedResultWrite_eq hv hp ha, hfind, hpend.trans (congrArg Slot.pend (v.withPend_spec hv _ _).1)⟩
  case marks =>
    refine ⟨?_, ?_, fun h => ?_⟩
    · simp [Pend.vec, Pend.marks, hd, hi]
    · simp [Pend.scal, Pend.marks, hd, hi]
    · have h' : d ≠ 0#8 := h
      simp [Pend.pred, Pend.marks, h']
  case written =>
    obtain ⟨rfl, -⟩ := State.find_spec hv
    obtain ⟨honly, t, hfind⟩ := (State.holds_of_find hv).putWave ((v.withPend (pre ++ rest) q.poison).land v.sl.b q)
    obtain ⟨⟨hother, hstack, hpend, hpc, howned⟩, -⟩ := Wave.land_spec (v.withPend (pre ++ rest) q.poison) v.sl.b q
    obtain ⟨hslot, hother', hstack', hv', hk', hlast, hsreg⟩ := v.withPend_spec hv (pre ++ rest) q.poison
    rw [hslot] at hpend hpc howned
    refine ⟨_, _, execTrackedResultWrite_eq hv hp hpre, honly, hfind, hpend, hpc, howned, hother.trans hother',
      hstack.trans hstack', fun c d g k act m val hfit hq => ?vec, fun c d g k m x hfit _ hq => ?scal, fun c d k act x m _ hq => ?pred⟩
    case vec =>
      have h := Wave.land_vec (v.withPend (pre ++ rest) q.poison) v.sl.b c k act m val hfit
      rw [← hq, hv', hk'] at h
      exact ⟨fun n l _ hl => h.1 n l hl, fun n _ => (h.2.1 n).trans (hsreg n), h.2.2⟩
    case scal =>
      have h := Wave.land_scal (v.withPend (pre ++ rest) q.poison) v.sl.b c k m x hfit
      rw [← hq, hv', hk', hlast] at h
      exact ⟨fun n _ => (h.1 n).trans (by rw [hsreg]), fun n l _ _ => by rw [h.2.1], h.2.2⟩
    case pred =>
      have h := Wave.land_pred (v.withPend (pre ++ rest) q.poison) v.sl.b c d k act x m
      rw [← hq] at h
      exact ⟨fun n _ => (h.1 n).trans (by simp only [readKReg, hk']), fun n _ => (h.2 n).trans (hsreg n)⟩

end Sys2Proof.Machine
end

section
/-!
PROOFS. Class 7: special state, GROW, LAUNCH, the switches of personality and HALT (R210, R211, R347, R348, R377, R378,
R402, R413).
-/

namespace Sys2Proof.Machine

/-! ### Slots whose registers changed -/

/-- An expansion whose temporaries alone changed stands at the same word. -/
theorem expansion_place {ex e : Option Expansion} (hsome : ex.isSome = e.isSome)
    (htemps : ∀ y, e = some y → ∃ z z', ex = some { y with x := z, e := z' }) :
    ex.map (fun x => (x.words, x.idx, x.len)) = e.map fun x => (x.words, x.idx, x.len) := by
  cases e with
  | none => simpa using hsome
  | some y =>
    obtain ⟨z, z', rfl⟩ := htemps y rfl
    rfl

/-- A slot whose registers alone changed goes on as it would have. -/
theorem Slot.onward_of_registers {p q : Slot} {bk : Cells 32} {mk : Lanes} {ex : Option Expansion}
    (hq : q = { p with bank := bk, mask := mk, exp := ex })
    (he : ex.map (fun x => (x.words, x.idx, x.len)) = p.exp.map fun x => (x.words, x.idx, x.len)) :
    q.onward.pc = p.retire.pc ∧ q.onward.owned = p.owned ∧
      (p.exp = none → q.onward.pend = p.pend ∧ q.onward.status = p.status) := by
  refine ⟨(Slot.onward_pc q).trans (Slot.retire_pc_congr (by rw [hq]) (by rw [hq]) (by rw [hq]; exact he)),
    (Slot.onward_owned q).trans (by rw [hq]), fun hn => ?_⟩
  have hx : q.exp = none := by rw [hn] at he; rw [hq]; simpa using he
  obtain ⟨hpend, hstatus⟩ := Slot.onward_plain hx
  exact ⟨hpend.trans (by rw [hq]), hstatus.trans (by rw [hq])⟩

/-- A control operation that writes a scalar group and goes on (R207). -/
theorem scalarGroup_effect {s : State} {v : View} (hvp : v.p = v.w.slot v.sl.b) (hs : s.Holds v.sl) {g : Nat} {d : BitVec 8}
    (hd : d.toNat < 0x40 ∨ 0x90 ≤ d.toNat) (x : BitVec 128) :
    let w := writeScal v.w v.sl.b g d x
    let t := s.putWave v (w.setSlot v.sl.b (w.slot v.sl.b).onward)
    OnlyWave v.sl s t ∧ ∃ u, t.find v.sl = some u ∧ u.w.slot (!v.sl.b) = v.w.slot (!v.sl.b) ∧ u.w.stack = v.w.stack ∧
      u.w.v = v.w.v ∧ u.w.k = v.w.k ∧ u.p.pc = v.p.retire.pc ∧ u.p.owned = v.p.owned ∧
      (v.p.exp = none → u.p.pend = v.p.pend ∧ u.p.status = v.p.status) ∧
      ∀ n, n < 64 → readSReg u.w u.p n = if d.toNat ≤ n ∧ n < d.toNat + g then
        ownedCut v.p n (x.extractLsb' (32 * (n - d.toNat)) 32) else readSReg v.w v.p n := by
  intro w t
  obtain ⟨hsreg, -, -, hv', hk, hstack, -, -, hother, bk, mk, ex, hslot, hsome, htemps⟩ := writeScal_spec v.w v.sl.b g d x hd
  obtain ⟨honly, t', hfind⟩ := hs.putWave (w.setSlot v.sl.b (w.slot v.sl.b).onward)
  rw [← hvp] at hslot hsome htemps
  obtain ⟨hpc, howned, hplain⟩ := Slot.onward_of_registers (q := w.slot v.sl.b) hslot
    (expansion_place hsome fun y hy => (htemps y hy).imp fun z hz => ⟨y.e, hz⟩)
  refine ⟨honly, _, hfind, ?_⟩
  simp only [Wave.setSlot_v, Wave.setSlot_k, Wave.setSlot_stack, Wave.slot_setSlot_not, Wave.slot_setSlot]
  refine ⟨hother, hstack, hv', hk, hpc, howned, hplain, fun n hn => ?_⟩
  rw [readSReg_congr (w := w) (p := w.slot v.sl.b) (Wave.setSlot_s ..) (Slot.onward_bank ..) (Slot.onward_mask ..)]
  refine (hsreg n hn).trans ?_
  rw [← hvp]
  exact if_congr (by omega) rfl (by rw [hvp])

/-- The low word of a number. -/
theorem extract_ofNat_low {m : Nat} (x : Nat) (h : 32 ≤ m) : (BitVec.ofNat m x).extractLsb' 0 32 = BitVec.ofNat 32 x := by
  apply BitVec.eq_of_toNat_eq
  simp only [BitVec.extractLsb'_toNat, BitVec.toNat_ofNat, Nat.shiftRight_zero]
  exact Nat.mod_mod_of_dvd x (Nat.pow_dvd_pow 2 h)

/-- A class 7 operation that answers a status. -/
theorem sysStatus_says {s : State} {f : FmtW} {v : View} (hvp : v.p = v.w.slot v.sl.b) (hs : s.Holds v.sl)
    (hd : dstCauses v none (.scal 1) f.d = []) (x : Nat) : SaysNow f.d (BitVec.ofNat 32 x) v s (sysStatus f v x s) := by
  obtain ⟨honly, u, hfind, hother, hstack, hv', hk, hpc, howned, hplain, hregs⟩ :=
    scalarGroup_effect hvp hs (g := 1) (dst_range hd (by simp) (by simp)) (BitVec.ofNat 128 x)
  have hst : sysStatus f v x s = s.putWave v ((writeScal v.w v.sl.b 1 f.d (BitVec.ofNat 128 x)).setSlot v.sl.b
      ((writeScal v.w v.sl.b 1 f.d (BitVec.ofNat 128 x)).slot v.sl.b).onward) := by
    rw [sysStatus, hvp, Wave.setSlot_slot]
    rfl
  rw [hst]
  refine ⟨honly, u, hfind, hother, hstack, hv', hk, hpc, howned, hplain, fun n hn => (hregs n hn).trans ?_⟩
  by_cases h : n = f.d.toNat
  · rw [if_pos (by omega), if_pos h, h, Nat.sub_self, Nat.mul_zero, extract_ofNat_low x (by decide)]
  · rw [if_neg (by omega), if_neg h]

/-! ### SRD -/

/-- The special of a number other than %lane goes to its group of scalars. -/
theorem specialDst_scal {n : Nat} {k : Dst} (hn : n ≠ 0) (h : specialDst n = some k) : k = .scal (specialGroup n) := by
  simp only [specialGroup, h]
  rw [specialDst, if_neg hn] at h
  split_ifs at h <;> cases h <;> rfl

theorem specialGroup_le (n : Nat) : specialGroup n ≤ 4 := by
  unfold specialGroup specialDst
  split_ifs <;> decide

/-- Where nothing is wrong with SRD, its number names a special and its destination is legal. -/
theorem srd_destination {f : FmtW} {v : View} (h : srdCauses f v = []) : ∃ k, specialDst (specialNo f) = some k ∧
    dstCauses (v.within (v.active f.c)) (srdClass f) k f.d = [] := by
  have h' := (List.append_eq_nil_iff.1 h).2
  split at h'
  · nomatch h'
  · next k hk => exact ⟨k, hk, h'⟩

/-- SRD of %lane writes each active lane's number to its register. -/
theorem srdLane_effect {s : State} {v : View} (hv : s.view = some v) {d : BitVec 8} (hd : d.toNat < 0x40 ∨ 0x90 ≤ d.toNat)
    (act : Lanes) :
    let w := writeVec v.w v.sl.b 1 d act fun l => BitVec.ofNat 64 l
    let t := s.putWave v (w.setSlot v.sl.b (w.slot v.sl.b).onward)
    ∃ u, OnlyWave v.sl s t ∧ t.find v.sl = some u ∧ u.p.pc = v.p.retire.pc ∧
      (d.toNat < 64 → ∀ n l, n < 64 → l < 96 → laneGet u.w.v n l =
        if n = d.toNat ∧ act.getLsbD l = true then BitVec.ofNat 32 l else laneGet v.w.v n l) ∧
      ∀ n, n < 64 → readSReg u.w u.p n = readSReg v.w v.p n := by
  intro w t
  obtain ⟨-, -, -, hvp, -⟩ := State.view_spec hv
  obtain ⟨hlanes, -, -, hs, -, -, -, -, -, ex, hslot, hsome, htemps⟩ :=
    writeVec_spec v.w v.sl.b 1 d act (fun l => BitVec.ofNat 64 l) hd
  obtain ⟨honly, t', hfind⟩ := (State.holds_of_view hv).putWave (w.setSlot v.sl.b (w.slot v.sl.b).onward)
  rw [← hvp] at hslot hsome htemps
  have hslot' : w.slot v.sl.b = { v.p with bank := v.p.bank, mask := v.p.mask, exp := ex } := hslot
  obtain ⟨hpc, -⟩ := Slot.onward_of_registers hslot'
    (expansion_place hsome fun y hy => (htemps y hy).imp' (fun _ => y.x) fun z hz => ⟨z, hz⟩)
  refine ⟨_, honly, hfind, ?_⟩
  simp only [Wave.setSlot_v, Wave.slot_setSlot]
  refine ⟨hpc, fun hd' n l hn hl => (hlanes n l hn hl).trans ?_, fun n _ => ?_⟩
  · by_cases h : n = d.toNat
    · subst h
      by_cases ha : act.getLsbD l = true
      · simp [ha, extract_ofNat_low l (show 32 ≤ 64 by decide), hd']
      · simp [ha]
    · rw [if_neg (by omega), if_neg fun hc => h hc.1]
  · exact readSReg_congr ((Wave.setSlot_s ..).trans hs) ((Slot.onward_bank _).trans (by rw [hslot]))
      ((Slot.onward_mask _).trans (by rw [hslot])) n

/-- The values of the specials (R210). -/
theorem specialState_values (s : State) (v : View) : specialState s v 1 = BitVec.ofNat 128 v.sl.wave ∧
    specialState s v 3 = BitVec.ofNat 128 v.t.num ∧ specialState s v 4 = BitVec.ofNat 128 v.t.gx ∧
    specialState s v 7 = BitVec.ofNat 128 v.t.stage ∧ specialState s v 0x11 = s.eqx.now.zeroExtend 128 ∧
    specialState s v 0x18 = BitVec.ofNat 128 v.t.ctx ∧
    (∀ c, s.ctx? v.t.ctx = some c → specialState s v 0x20 = c.err) ∧
    (∀ i, i < 3 → specialState s v (0x30 + i) = (v.p.fmask.extractLsb' (32 * i) 32).zeroExtend 128) ∧
    specialState s v 0x38 = v.p.epib.zeroExtend 128 ∧ (∀ n, specialGroup n ≤ 4) := by
  refine ⟨rfl, rfl, rfl, rfl, rfl, rfl, fun c hc => ?_, fun i hi => ?_, rfl, specialGroup_le⟩
  · change ((s.ctx? v.t.ctx).map Context.err).getD 0 = c.err
    rw [hc]
    rfl
  · interval_cases i <;> rfl

/-! ### SWR -/

/-- With nothing wrong, SWR names a special that it may write. -/
theorem swr_number {f : FmtW} {s : State} {v : View} (h : swrCauses f s v = []) : specialNo f ∈ swrNumbers := by
  have h' := (List.append_eq_nil_iff.1 h).2
  split at h'
  · next hn => simpa using (Bool.and_eq_true_iff.1 hn).1
  · nomatch h'

/-- A fault mask word takes the owned lanes of its value (R211). -/
theorem setFmask_lane {p : Slot} {i l : Nat} (x : Word) (hi : i < 3) : (setFmask p i x).fmask.getLsbD l =
    if l / 32 = i then x.getLsbD (l % 32) && p.owned.getLsbD l else p.fmask.getLsbD l := by
  rw [setFmask, getLsbD_setMaskWord _ _ _ _ hi]
  by_cases h : l / 32 = i
  · have hmod : l - 32 * i = l % 32 := by omega
    have hsum : 32 * i + l % 32 = l := by omega
    rw [if_pos (by omega), if_pos h, BitVec.getLsbD_and, getLsbD_maskWord, hmod, hsum]
    simp [Nat.mod_lt l (show 0 < 32 by decide)]
  · rw [if_neg (by omega), if_neg h]

/-- KL and MK alone are written, and only cleared (R58). -/
theorem clearErr_bit (err x : BitVec 128) {i : Nat} (hi : i < 128) : (clearErr err x).getLsbD i =
    (err.getLsbD i && !(decide (i = 62 ∨ i = 63) && x.getLsbD i)) := by
  have hbits : ∀ i : Fin 128, ((3 <<< 62 : Nat) : BitVec 128).getLsbD i = decide (i.val = 62 ∨ i.val = 63) := by decide
  simp only [clearErr, BitVec.getLsbD_and, BitVec.getLsbD_not, hbits ⟨i, hi⟩, hi, decide_true, Bool.true_and]
  rw [Bool.and_comm (x.getLsbD i)]

/-- What SWR of a special other than %err leaves in its slot. -/
def swrSlot (f : FmtW) (v : View) : Slot :=
  if specialNo f = 0x28 then { v.p.onward with mxst := readS64 v f.sa &&& mxstBits }
  else if specialNo f = 0x38 then { v.p.onward with epib := readS64 v f.sa, epi := none }
  else (setFmask v.p (specialNo f - 0x30) (readS32 v f.sa)).onward

theorem execSwr_slot {f : FmtW} {s : State} {v : View} (hv : s.view = some v) (hc : swrCauses f s v = [])
    (ha : v.active f.c ≠ 0) (hn : specialNo f ≠ 0x20) : exec (.swr f) s = .next (s.putSlot v (swrSlot f v)) := by
  refine (issue_run hv hc rfl).trans (congrArg _ ((if_neg ha).trans ?_))
  have hmem := swr_number hc
  simp only [swrNumbers, List.mem_cons, List.not_mem_nil, or_false] at hmem
  rcases hmem with h | h | h | h | h | h
  · exact absurd h hn
  all_goals simp only [swrSlot, h]; rfl

/-- That slot goes on with its registers; of the special state the named one alone changed. -/
theorem swrSlot_spec (f : FmtW) (v : View) : (swrSlot f v).pc = v.p.retire.pc ∧ (swrSlot f v).bank = v.p.bank ∧
    (swrSlot f v).mask = v.p.mask ∧
    (specialNo f = 0x28 → (swrSlot f v).mxst = readS64 v f.sa &&& 0xFFFFFFFFF000001F ∧ (swrSlot f v).fmask = v.p.fmask ∧
      (swrSlot f v).epib = v.p.epib) ∧
    (specialNo f = 0x38 → (swrSlot f v).epib = readS64 v f.sa ∧ (swrSlot f v).epi = none ∧ (swrSlot f v).mxst = v.p.mxst ∧
      (swrSlot f v).fmask = v.p.fmask) ∧
    (∀ i, i < 3 → specialNo f = 0x30 + i → (swrSlot f v).mxst = v.p.mxst ∧ ∀ l, l < 96 → (swrSlot f v).fmask.getLsbD l =
      if l / 32 = i then (readS32 v f.sa).getLsbD (l % 32) && v.p.owned.getLsbD l else v.p.fmask.getLsbD l) := by
  obtain ⟨-, -, -, -, hmxst, hfmask, -, -, hepib, -⟩ := v.p.afterOther_frame false
  obtain ⟨hpc', hbank', hmask', -, hmxst', hfmask', -⟩ :=
    (setFmask v.p (specialNo f - 0x30) (readS32 v f.sa)).afterOther_frame false
  have hpc'' : (setFmask v.p (specialNo f - 0x30) (readS32 v f.sa)).retire.pc = v.p.retire.pc :=
    Slot.retire_pc_congr rfl rfl rfl
  by_cases h28 : specialNo f = 0x28
  · have hslot : swrSlot f v = { v.p.onward with mxst := readS64 v f.sa &&& mxstBits } := if_pos h28
    rw [hslot]
    exact ⟨Slot.onward_pc _, Slot.onward_bank _, Slot.onward_mask _, fun _ => ⟨rfl, hfmask, hepib⟩,
      fun h => absurd (h28.symm.trans h) (by decide), fun i _ h => absurd (h28.symm.trans h) (by omega)⟩
  by_cases h38 : specialNo f = 0x38
  · have hslot : swrSlot f v = { v.p.onward with epib := readS64 v f.sa, epi := none } := (if_neg h28).trans (if_pos h38)
    rw [hslot]
    exact ⟨Slot.onward_pc _, Slot.onward_bank _, Slot.onward_mask _, fun h => absurd h h28, fun _ => ⟨rfl, rfl, hmxst, hfmask⟩,
      fun i hi h => absurd (h38.symm.trans h) (by omega)⟩
  · have hslot : swrSlot f v = (setFmask v.p (specialNo f - 0x30) (readS32 v f.sa)).onward := (if_neg h28).trans (if_neg h38)
    rw [hslot]
    refine ⟨hpc'.trans hpc'', hbank', hmask', fun h => absurd h h28, fun h => absurd h h38, fun i hi h => ⟨hmxst', fun l _ => ?_⟩⟩
    rw [show specialNo f - 0x30 = i by omega] at hfmask' ⊢
    exact (congrArg (fun m => m.getLsbD l) hfmask').trans (setFmask_lane _ hi)

/-! ### GROW -/

/-- A launch found by its identity is found changed. -/
theorem launch?_map {l : List Launch} {id : Nat} {x : Launch} (f : Launch → Launch) (hf : ∀ y, (f y).id = y.id)
    (h : l.find? (fun y => y.id = id) = some x) :
    (l.map fun y => if y.id = x.id then f y else y).find? (fun y => y.id = id) = some (f x) := by
  have hid (y : Launch) : (if y.id = x.id then f y else y).id = y.id := by split <;> simp [hf]
  have hcomp : ((fun y : Launch => decide (y.id = id)) ∘ fun y => if y.id = x.id then f y else y) =
      fun y => decide (y.id = id) := by
    funext y
    simp only [Function.comp, hid]
  rw [List.find?_map, hcomp, h]
  simp

/-- What GROW leaves when its launch may grow: the release, and the raised gang count. -/
def growState (s : State) (v : View) (l : Launch) (n : Nat) : State :=
  let s1 := s.release v 0xFFFF 4
  { s1 with launches := s1.launches.map fun x => if x.id = l.id then { x with gcount := l.gcount + n } else x }

theorem execGrow_grows {f : FmtW} {s : State} {v : View} {l : Launch} (hv : s.view = some v) (hc : growCauses f v = [])
    (ha : v.activeTo f.c f.d ≠ 0) (hl : s.launch? v.t.launch = some l) (hg : mayGrow l (readS32 v f.sa).toNat = true)
    (hn : releaseNeeds s v 0xFFFF 4 = []) :
    exec (.grow f) s = .next (sysStatus f v l.gcount (growState s v l (readS32 v f.sa).toNat)) := by
  refine (issue_run hv hc rfl).trans (congrArg _ ((if_neg ha).trans ?_))
  simp only [hl, hg, hn]
  rfl

theorem execGrow_refuses {f : FmtW} {s : State} {v : View} (hv : s.view = some v) (hc : growCauses f v = [])
    (ha : v.activeTo f.c f.d ≠ 0)
    (hl : s.launch? v.t.launch = none ∨ ∃ l, s.launch? v.t.launch = some l ∧ mayGrow l (readS32 v f.sa).toNat = false) :
    exec (.grow f) s = .next (sysStatus f v 0xFFFFFFFF s) := by
  refine (issue_run hv hc rfl).trans (congrArg _ ((if_neg ha).trans ?_))
  rcases hl with hl | ⟨l, hl, hg⟩
  · simp only [hl]
  · simp only [hl, hg]
    rfl

/-- A launch may grow where its gangs form one row, its teams are placed by rank, and the count stays below the reserved one. -/
theorem mayGrow_iff (l : Launch) (n : Nat) :
    mayGrow l n = true ↔ l.gy = 1 ∧ l.gz = 1 ∧ l.cores = false ∧ l.gcount + n ≤ 0xFFFFFFFE := by
  simp [mayGrow, and_assoc]

theorem grow_destination {f : FmtW} {v : View} (h : growCauses f v = []) : dstCauses v none (.scal 1) f.d = [] := by
  simp only [growCauses, List.append_eq_nil_iff] at h
  obtain ⟨⟨⟨⟨⟨-, hd⟩, -⟩, -⟩, -⟩, -⟩ := h
  exact hd

/-! ### LAUNCH -/

theorem memoryWork_ctrOfCtx (s : State) (ctx : Nat) (a : Dword) : MemoryWork s (ctrOfCtx s ctx a).1 := by
  unfold ctrOfCtx
  have hw := memoryWork_walk s ctx (a.toNat % 2 ^ 57)
  split
  · exact .refl s
  · split
    · exact .refl s
    · split
      · exact .refl s
      · dsimp only
        split
        · next heq => rw [heq] at hw; exact hw
        · next heq =>
          rw [heq] at hw
          split <;> exact hw

theorem memoryWork_markCtrOf (s : State) (ctx : Nat) (a : Dword) : MemoryWork s (s.markCtrOf ctx a) := by
  unfold State.markCtrOf
  have hw := memoryWork_walk s ctx (a.toNat % 2 ^ 57)
  dsimp only
  split
  · next heq =>
    rw [heq] at hw
    split
    · exact hw
    · exact hw.trans (memoryWork_orPte _ _ _)
  · next heq => rw [heq] at hw; exact hw

theorem memoryWork_ctrGot (s : State) (ctx : Nat) (a : Dword) (chg : Bool) : MemoryWork s (ctrGot s ctx a chg).1 := by
  unfold ctrGot
  have hc := memoryWork_ctrOfCtx s ctx a
  extract_lets walks
  split
  · exact .refl s
  · split
    · next heq => rw [heq] at hc; exact hc
    · next heq =>
      rw [heq] at hc
      extract_lets ns
      split
      · exact hc
      · split
        · exact hc
        · refine hc.trans (MemoryWork.trans ?_ (memoryWork_recall _ _ _))
          split
          · exact memoryWork_markCtrOf _ _ _
          · exact .refl _

theorem memoryWork_ctxTarget (s : State) (ctx : Nat) (a : Dword) (n : Nat) (k : Access) :
    MemoryWork s (ctxTarget s ctx a n k).1 := by
  unfold ctxTarget
  have hw := memoryWork_walk s ctx (a.toNat % 2 ^ 57)
  split
  · exact .refl s
  · split
    · exact .refl s
    · dsimp only
      split
      · next heq => rw [heq] at hw; exact hw
      · next heq =>
        rw [heq] at hw
        split
        · exact hw
        · dsimp only
          split
          · exact hw.trans (memoryWork_orPte _ _ _)
          · exact hw

theorem memoryWork_spanGot (s : State) (ctx : Nat) (a : Dword) (n : Nat) (k : Access) : MemoryWork s (spanGot s ctx a n k).1 := by
  unfold spanGot
  have hc := memoryWork_ctxTarget s ctx a n k
  split
  · exact .refl s
  · split
    · next heq => rw [heq] at hc; exact hc
    · next heq =>
      rw [heq] at hc
      extract_lets ns
      split
      · exact hc
      · split <;> exact hc

theorem memoryWork_queueDisable (s : State) (q : Nat) (addr : Dword) : MemoryWork s (s.queueDisable q addr) :=
  MemoryWork.trans (s' := s.modQueue q fun x => { x.modCur (fun c => { c with en := false }) with sts := 3 })
    (.of_same rfl rfl) (memoryWork_addRec _ _ _)

theorem memoryWork_ctrAdd (s : State) (c : CtrPlace) (x : Dword) : MemoryWork s (s.ctrAdd c x).1 :=
  ((memoryWork_perform s 6 _).trans (memoryWork_writeNow _ _)).trans (.of_same rfl rfl)

theorem memoryWork_launchAppend (s : State) (v : View) (q : Nat) (d : List Byte) : MemoryWork s (launchAppend s v q d).1 := by
  unfold launchAppend
  dsimp only
  split
  · exact .refl s
  · have h1 := memoryWork_ctrGot s (s.queue q).cur.ctx (s.queue q).cur.tail true
    split
    · next heq => rw [heq] at h1; exact h1.trans (memoryWork_queueDisable _ _ _)
    · next heq => rw [heq] at h1; exact h1
    · next s1 tail heq =>
      rw [heq] at h1
      have h2 := memoryWork_ctrGot s1 (s.queue q).cur.ctx (s.queue q).cur.head false
      split
      · next heq2 => rw [heq2] at h2; exact (h1.trans h2).trans (memoryWork_queueDisable _ _ _)
      · next heq2 => rw [heq2] at h2; exact h1.trans h2
      · next s2 head heq2 =>
        rw [heq2] at h2
        have h3 : MemoryWork s ((s2.ctrSettle tail).ctrSettle head) :=
          ((h1.trans h2).trans (memoryWork_perform _ _ _)).trans (memoryWork_perform _ _ _)
        split
        · exact h3
        · have h4 := memoryWork_spanGot ((s2.ctrSettle tail).ctrSettle head) (s.queue q).cur.ctx
            (recordAddr (s.queue q) (ctrValue ((s2.ctrSettle tail).ctrSettle head) tail)) 128 .store
          split
          · next heq3 => rw [heq3] at h4; exact (h3.trans h4).trans (memoryWork_queueDisable _ _ _)
          · next heq3 => rw [heq3] at h4; exact h3.trans h4
          · next heq3 =>
            rw [heq3] at h4
            exact ((h3.trans h4).trans ((memoryWork_recall _ _ _).trans (memoryWork_writeNow _ _))).trans (memoryWork_ctrAdd _ _ _)

/-- A queue that is none, is disabled or is of another context is not appended to (R348). -/
theorem launchAppend_disabled {s : State} {v : View} {q : Nat} (d : List Byte)
    (h : 63 < q ∨ (s.queue q).cur.en = false ∨ (s.queue q).cur.dev = false ∨ (s.queue q).cur.ctx ≠ v.t.ctx) :
    launchAppend s v q d = (s, .got 2) := by
  unfold launchAppend
  exact if_pos (by simpa using h)

theorem launch_destination {f : FmtW} {v : View} (h : launchCauses f v = []) : dstCauses v none (.scal 1) f.d = [] := by
  simp only [launchCauses, List.append_eq_nil_iff] at h
  obtain ⟨⟨⟨⟨⟨-, hd⟩, -⟩, -⟩, -⟩, -⟩ := h
  exact hd

/-- The state in which LAUNCH appends the record that it read. -/
def launchState (s1 : State) (v : View) (x : Target) : State :=
  (((s1.flushFor v.t.core x 128).forceBefore v 0 [none] (readLocs s1 128 x)).recall (some v.t.core)
    (spanLines x 128 ++ readLines s1 128 x)).fillFor v.seat x 128

theorem memoryWork_launchState (s1 : State) (v : View) (x : Target) : MemoryWork s1 (launchState s1 v x) :=
  (((memoryWork_flushFor s1 _ x 128).trans (memoryWork_forceBefore _ _ _ _ _)).trans (memoryWork_recall _ _ _)).trans
    (memoryWork_fillFor _ _ _ _)

section
variable {f : FmtW} {s s1 s3 : State} {v : View} {x : Target} {st : Nat} (hr : v.p.replay = false)
  (hal : (readS64 v f.sa).toNat % 128 = 0) (hrel : releaseNeeds s v 0xFFFF 4 = [])
  (hwalk : xlateNeeds s v.t.core v.t.ctx (readS64 v f.sa) false = [])
  (ht : globTarget ((s.putSlot v v.p).release v 0xFFFF 4) v.t.core v.t.ctx (readS64 v f.sa) 128 .load = (s1, .ok x))
  (hx : ∀ pkg va, x ≠ .remote pkg va) (hspan : spanNeeds s1 false 128 x = []) (htouch : touchNeeds s1 v.t.core x 128 = [])
  (hbefore : beforeNeeds s1 v 0 [none] (readLocs s1 128 x) = []) (hpoison : spanPoisoned s1 128 x = false)
  (happ : launchAppend (launchState s1 v x) v (readS32 v f.sb).toNat (readTarget (launchState s1 v x) v.seat x 128) = (s3, .got st))
include hr hal hrel hwalk ht hx hspan htouch hbefore hpoison happ

/-- LAUNCH with its record there and nothing to wait for answers the status of the append. -/
theorem launchRun_ready : launchRun f v s = sysStatus f v st s3 := by
  have hp : ({ v.p with replay := false } : Slot) = v.p := by rw [← hr]
  unfold launchState at happ
  unfold launchRun
  simp only [hp, hrel, hwalk, hal, ht]
  cases x with
  | remote pkg va => exact absurd rfl (hx pkg va)
  | _ =>
    simp only [hspan, htouch, hbefore, hpoison, happ]
    rfl

omit hr hal hrel hwalk hx hspan htouch hbefore hpoison in
/-- The slot of a LAUNCH is still there when it answers. -/
theorem launch_holds (hv : s.view = some v) : s3.Holds v.sl := by
  have hput : (s.putSlot v v.p).Holds v.sl := State.holds_of_find (State.find_putWave_view hv _)
  have hglob := memoryWork_globTarget ((s.putSlot v v.p).release v 0xFFFF 4) v.t.core v.t.ctx (readS64 v f.sa) 128 .load
  rw [ht] at hglob
  have happend := memoryWork_launchAppend (launchState s1 v x) v (readS32 v f.sb).toNat
    (readTarget (launchState s1 v x) v.seat x 128)
  rw [happ] at happend
  exact ((((memoryWork_release _ v 0xFFFF 4).trans hglob).trans (memoryWork_launchState s1 v x)).trans happend).holds hput

end

/-! ### Personalities -/

/-- A slot that enters a personality keeps its registers and continues at the aligned address. -/
theorem enter_effect {s : State} {v : View} (hv : s.view = some v) (q : Nat) (a : Dword) :
    ∃ u, OnlyWave v.sl s (s.putSlot v (v.p.enter q a)) ∧ (s.putSlot v (v.p.enter q a)).find v.sl = some u ∧ OnlySlot v u ∧
      u.p.pers = q ∧ u.p.bank = v.p.bank ∧ u.p.mask = v.p.mask ∧ u.p.pc = if q = 0 then a &&& ~~~7 else a &&& ~~~3 := by
  obtain ⟨honly, hfind⟩ := State.putSlot_spec hv (v.p.enter q a)
  exact ⟨_, honly, hfind, v.onlySlot_withSlot _, rfl, Slot.goTo_bank _ _, Slot.goTo_mask _ _, Slot.goTo_pc _ _⟩

/-- GRET continues at the saved address, or behind the guest instruction of four or eight bytes there (R378). -/
theorem gret_address (again long : Bool) (x : Dword) :
    (if again then x else x + BitVec.ofNat 64 (if long then 8 else 4)) =
      x + (if again then 0 else if long then 8 else 4) := by
  cases again <;> cases long <;> simp

/-- A personality that is not loaded stops the slot where it is, with the record of the fault (R378, R379). -/
theorem unloaded_effect {s : State} {v : View} (hv : s.view = some v) (he : v.p.exp = none)
    (hctx : (s.ctx? v.t.ctx).map Context.ended ≠ some true) :
    ∃ u r, (unloaded s v).find v.sl = some u ∧ OnlySlot v u ∧ u.p.pc = v.p.pc ∧ u.p.pers = v.p.pers ∧
      u.p.status = .held s.nextRec ∧ (unloaded s v).recs = s.recs ++ [r] ∧ r.cls = .pers ∧ r.cause = 1 := by
  have hhold := Slot.holdOn_plain he s.nextRec
  refine ⟨_, _, State.find_stopSlot hv _, ⟨rfl, rfl⟩, ?_, ?_, ?_, State.addRec_recs _ hctx, rfl, rfl⟩
  · rw [hhold]; rfl
  · rw [hhold]; rfl
  · rw [hhold]

/-! ### HALT -/

/-- A wave that has stopped for good: killed, with neither slot live. -/
def Wave.Dead (w : Wave) : Prop := w.status = .killed ∧ w.a.live = false ∧ w.b.live = false

theorem Wave.killed_dead (w : Wave) : w.killed.Dead := ⟨rfl, Slot.ended_live _, Slot.ended_live _⟩

/-- The wave at place `i` of the team, if there is one, has stopped for good. -/
def Team.DeadAt (t : Team) (i : Nat) : Prop := ∀ w, t.waves[i]? = some w → w.Dead

/-- A change of teams that keeps them, their contexts and their places, and no stopped wave of which goes on. -/
def Stopping (g : Team → Team) : Prop :=
  ∀ t, (g t).id = t.id ∧ (g t).ctx = t.ctx ∧ (g t).waves.length = t.waves.length ∧ ∀ i, t.DeadAt i → (g t).DeadAt i

theorem stopping_id : Stopping id := fun _ => ⟨rfl, rfl, rfl, fun _ => id⟩

theorem Stopping.comp {g h : Team → Team} (hg : Stopping g) (hh : Stopping h) : Stopping (g ∘ h) := fun t => by
  obtain ⟨hid, hctx, hlen, hdead⟩ := hh t
  obtain ⟨hid', hctx', hlen', hdead'⟩ := hg (h t)
  exact ⟨hid'.trans hid, hctx'.trans hctx, hlen'.trans hlen, fun i hi => hdead' i (hdead i hi)⟩

/-- Stopping one wave of the teams of an identity. -/
def Team.stop (tid i : Nat) (t : Team) : Team := if t.id = tid then t.killWave i else t

theorem Team.stop_deadAt {tid i : Nat} {t : Team} (h : t.id = tid) : (t.stop tid i).DeadAt i := by
  intro w hw
  rw [Team.stop, if_pos h, Team.killWave_waves] at hw
  obtain ⟨w0, -, rfl⟩ := Option.map_eq_some_iff.1 hw
  exact w0.killed_dead

theorem Team.stop_stopping (tid i : Nat) : Stopping (Team.stop tid i) := fun t => by
  unfold Team.stop
  split
  · refine ⟨rfl, rfl, by simp [Team.killWave], fun j hj w hw => ?_⟩
    simp only [Team.killWave, List.getElem?_modify] at hw
    obtain ⟨w0, hw0, rfl⟩ := Option.map_eq_some_iff.1 hw
    split
    · exact w0.killed_dead
    · exact hj w0 hw0
  · exact ⟨rfl, rfl, rfl, fun _ h => h⟩

/-- Stopping a wave changes the teams, and withdraws waits. -/
theorem State.stopWave_frame (s : State) (sl : SlotId) : s.stopWave sl =
    { s with teams := s.teams.map (Team.stop sl.team sl.wave), waiters := (s.stopWave sl).waiters } := rfl

/-- The teams after the first `n` waves of a team are stopped. -/
theorem State.stopWaves_spec (s : State) (tid n : Nat) : ∃ ws g,
    (List.range n).foldl (fun s i => s.stopWave ⟨tid, i, false⟩) s = { s with teams := s.teams.map g, waiters := ws } ∧
      Stopping g ∧ ∀ y, y.id = tid → ∀ i, i < n → (g y).DeadAt i := by
  induction n with
  | zero => exact ⟨s.waiters, id, by simp, stopping_id, fun _ _ _ h => absurd h (Nat.not_lt_zero _)⟩
  | succ n ih =>
    obtain ⟨ws, g, heq, hg, hdead⟩ := ih
    have hstep : (List.range (n + 1)).foldl (fun s i => s.stopWave ⟨tid, i, false⟩) s =
        ({ s with teams := s.teams.map g, waiters := ws } : State).stopWave ⟨tid, n, false⟩ := by
      rw [List.range_succ, List.foldl_append, heq]
      rfl
    refine ⟨_, Team.stop tid n ∘ g, hstep.trans ((State.stopWave_frame _ _).trans (by rw [← List.map_map])),
      (Team.stop_stopping tid n).comp hg, fun y hy i hi => ?_⟩
    by_cases h : i = n
    · subst h
      exact Team.stop_deadAt ((hg y).1.trans hy)
    · exact (Team.stop_stopping tid n (g y)).2.2.2 i (hdead y hy i (by omega))

/-- The teams after every wave of some teams is stopped. -/
theorem State.stopTeams_spec (l : List Team) (s : State) : ∃ ws g,
    l.foldl State.stopTeam s = { s with teams := s.teams.map g, waiters := ws } ∧ Stopping g ∧
      ∀ t ∈ l, ∀ y, y.id = t.id → ∀ i, i < t.waves.length → (g y).DeadAt i := by
  induction l generalizing s with
  | nil => exact ⟨s.waiters, id, by simp, stopping_id, by simp⟩
  | cons t l ih =>
    obtain ⟨ws, g, heq, hg, hdead⟩ := s.stopWaves_spec t.id t.waves.length
    obtain ⟨ws', g', heq', hg', hdead'⟩ := ih { s with teams := s.teams.map g, waiters := ws }
    refine ⟨ws', g' ∘ g, ?_, hg'.comp hg, fun u hu y hy i hi => ?_⟩
    · rw [List.foldl_cons, State.stopTeam, heq, heq', ← List.map_map]
    · rcases List.mem_cons.1 hu with rfl | hu
      · exact (hg' (g y)).2.2.2 i (hdead y hy i hi)
      · exact hdead' u hu (g y) ((hg y).1.trans hy) i hi

/-- A CHARGE record of a low code reaches the device operating system, the context's last one too (R399, R402). -/
theorem State.charge_recs {s : State} {ctx code : Nat} (addr : Dword) (info2 : Word) (h : code < 0x10) :
    (s.charge ctx code addr info2).recs = s.recs ++ [{ FRec.blank s .charge code ctx with
      addr := addr, info := BitVec.ofNat 64 code, info2 := info2, id := s.nextRec, toOs := true, cycle := s.cycle }] := by
  have hos : s.recToOs { FRec.blank s .charge code ctx with addr := addr, info := BitVec.ofNat 64 code, info2 := info2 } false =
      true := by
    unfold State.recToOs
    split
    · rfl
    · simp [FRec.blank, h]
  unfold State.charge State.addRec
  simp only [hos]
  split
  · rw [if_neg (by simp [FRec.blank])]
  · rfl

/-- The state of a context's end, before the context is marked and charged. -/
def State.dropContext (s : State) (ctx : Nat) : State :=
  let s1 := (s.teams.filter fun t => t.ctx = ctx).foldl State.stopTeam s
  let s2 := { s1 with
    cmds := s1.cmds.filter fun c => c.ctx ≠ ctx
    waiters := s1.waiters.filter fun w => w.ctx ≠ ctx
    segs := s1.segs.filter fun g => g.ctx ≠ ctx
    launches := s1.launches.filter fun l => l.ctx ≠ ctx
    feeds := s1.feeds.filter fun f => f.ctx ≠ ctx
    queues := s1.queues.map fun (x : Queue) =>
      if x.cur.ctx = ctx then { x.modCur (fun c => { c with en := false }) with sts := 0 } else x
    recs := s1.recs.filter fun r => r.ctx ≠ ctx ∨ r.toOs
    owedAdds := s1.owedAdds.filter fun a => a.1 ≠ ctx
    prefs := s1.prefs.filter fun x => x.2.1 ≠ ctx
    fe := s1.fe.forget ((s1.launches.filter fun (l : Launch) => decide (l.ctx = ctx)).map Launch.id) }
  if s1.feeds.head?.map FeedRun.ctx = some ctx then s2.takeOver else s2

theorem State.endContext_eq {s : State} {ctx : Nat} {c : Context} (h : s.ctx? ctx = some c) (hc : c.ended = false) (code : Nat)
    (info2 : Word) : s.endContext ctx code info2 =
      ((s.dropContext ctx).modCtx ctx fun c => { c with ended := true }).charge ctx code 0 info2 := by
  simp only [State.endContext, h, hc]
  rfl

/-- Everything about a context's end that is not in its record (R402). -/
theorem State.dropContext_spec (s : State) (ctx : Nat) :
    (∃ (ws : List Waiter) (g : Team → Team) (fe : FrontEnd), s.dropContext ctx = { s with
      teams := s.teams.map g
      waiters := ws.filter fun w => w.ctx ≠ ctx
      cmds := s.cmds.filter fun c => c.ctx ≠ ctx
      segs := s.segs.filter fun g => g.ctx ≠ ctx
      launches := s.launches.filter fun l => l.ctx ≠ ctx
      feeds := s.feeds.filter fun f => f.ctx ≠ ctx
      queues := s.queues.map fun (x : Queue) =>
        if x.cur.ctx = ctx then { x.modCur (fun c => { c with en := false }) with sts := 0 } else x
      recs := s.recs.filter fun r => r.ctx ≠ ctx ∨ r.toOs
      owedAdds := s.owedAdds.filter fun a => a.1 ≠ ctx
      prefs := s.prefs.filter fun x => x.2.1 ≠ ctx
      fe := fe } ∧ Stopping g ∧
      ∀ t ∈ s.teams, t.ctx = ctx → ∀ i, i < t.waves.length → (g t).DeadAt i) := by
  obtain ⟨ws, g, heq, hg, hdead⟩ := State.stopTeams_spec (s.teams.filter fun t => t.ctx = ctx) s
  have hall : ∀ t ∈ s.teams, t.ctx = ctx → ∀ i, i < t.waves.length → (g t).DeadAt i := fun t ht hc =>
    hdead t (List.mem_filter.2 ⟨ht, by simpa using hc⟩) t rfl
  unfold State.dropContext State.takeOver
  simp only [heq]
  split
  · split
    · exact ⟨ws, g, _, rfl, hg, hall⟩
    · exact ⟨ws, g, _, rfl, hg, hall⟩
  · exact ⟨ws, g, _, rfl, hg, hall⟩

theorem Queue.cur_disabled (x : Queue) : ({ x.modCur (fun c => { c with en := false }) with sts := 0 } : Queue).cur =
    { x.cur with en := false } := by
  unfold Queue.modCur Queue.cur
  cases h : x.sel <;> simp

/-- The end of a context: its waves have stopped, its commands, segments, waits and launches are gone, its queues are
disabled, it is marked ended, and the last record is the CHARGE of the end (R402). -/
theorem endContext_effect {s t : State} {ctx code : Nat} {info2 : Word} {c : Context} (h : s.ctx? ctx = some c)
    (hc : c.ended = false) (hcode : code < 0x10) (ht : t = s.endContext ctx code info2) :
    ∃ c' r, t.ctx? ctx = some c' ∧ c' = { c with ended := true } ∧ (∀ x ∈ t.cmds, x.ctx ≠ ctx) ∧
      (∀ x ∈ t.segs, x.ctx ≠ ctx) ∧ (∀ x ∈ t.waiters, x.ctx ≠ ctx) ∧ (∀ x ∈ t.launches, x.ctx ≠ ctx) ∧
      (∀ x ∈ t.queues, x.cur.ctx = ctx → x.cur.en = false) ∧ (∀ x ∈ t.teams, x.ctx = ctx → ∀ w ∈ x.waves, w.Dead) ∧
      (∃ pre, t.recs = pre ++ [r]) ∧ r.cls = .charge ∧ r.cause = code ∧ r.info2 = info2 ∧ r.toOs = true ∧
      t.mem = s.mem ∧ t.writes = s.writes := by
  rw [State.endContext_eq h hc] at ht
  obtain ⟨ws, g, fe, hdrop, hg, hdead⟩ := s.dropContext_spec ctx
  have hframe := State.addRec_frame ((s.dropContext ctx).modCtx ctx fun c => { c with ended := true })
    { FRec.blank ((s.dropContext ctx).modCtx ctx fun c => { c with ended := true }) .charge code ctx with
      addr := 0, info := BitVec.ofNat 64 code, info2 := info2 } false
  have hrecs := State.charge_recs (s := (s.dropContext ctx).modCtx ctx fun c => { c with ended := true }) (ctx := ctx) 0 info2 hcode
  rw [← ht] at hrecs
  rw [State.charge, hframe, hdrop] at ht
  refine ⟨_, _, ?_, rfl, ?_, ?_, ?_, ?_, ?_, ?_, ⟨_, hrecs⟩, rfl, rfl, rfl, rfl, ?_, ?_⟩
  all_goals rw [ht]
  · exact ctx?_map (f := fun c => { c with ended := true }) (fun _ => rfl) h
  · intro x hx; simpa using (List.mem_filter.1 hx).2
  · intro x hx; simpa using (List.mem_filter.1 hx).2
  · intro x hx; simpa using (List.mem_filter.1 hx).2
  · intro x hx; simpa using (List.mem_filter.1 hx).2
  · intro x hx
    obtain ⟨y, -, rfl⟩ := List.mem_map.1 hx
    split
    · intro _
      rw [Queue.cur_disabled]
    · next hy => exact fun h => absurd h hy
  · intro x hx hxc w hw
    obtain ⟨y, hy, rfl⟩ := List.mem_map.1 hx
    obtain ⟨-, hctx, hlen, -⟩ := hg y
    obtain ⟨i, hi⟩ := List.mem_iff_getElem?.1 hw
    exact hdead y hy (hctx ▸ hxc) i (hlen ▸ (List.getElem?_eq_some_iff.1 hi).1) w hi
  · rfl
  · rfl

/-! ### The obligation -/

/-- SRD with nothing wrong (R210). -/
theorem srd_completes {f : FmtW} {s : State} {v : View} (hv : s.view = some v) (hc : srdCauses f v = []) :
    (specialNo f = 0 → ∃ t u, exec (.srd f) s = .next t ∧ OnlyWave v.sl s t ∧ t.find v.sl = some u ∧ u.p.pc = v.p.retire.pc ∧
      (f.d.toNat < 64 → ∀ n l, n < 64 → l < 96 → laneGet u.w.v n l =
        if n = f.d.toNat ∧ (v.active f.c).getLsbD l = true then BitVec.ofNat 32 l else laneGet v.w.v n l) ∧
      ∀ n, n < 64 → readSReg u.w u.p n = readSReg v.w v.p n) ∧
    (specialNo f ≠ 0 → v.activeTo f.c f.d = 0 → v.p.count .ld < 64 →
      ∃ t, exec (.srd f) s = .next t ∧ MovesOn v.p.pend v.p.fmask v s t) ∧
    (specialNo f ≠ 0 → specialNo f ≠ 0x28 → v.activeTo f.c f.d ≠ 0 →
      ∃ t u, exec (.srd f) s = .next t ∧ OnlyWave v.sl s t ∧ t.find v.sl = some u ∧ u.p.pc = v.p.retire.pc ∧
        u.w.v = v.w.v ∧ u.w.k = v.w.k ∧ ∀ n, n < 64 → readSReg u.w u.p n =
          if f.d.toNat ≤ n ∧ n < f.d.toNat + specialGroup (specialNo f) then
            ownedCut v.p n ((specialState s v (specialNo f)).extractLsb' (32 * (n - f.d.toNat)) 32)
          else readSReg v.w v.p n) ∧
    (specialNo f = 0x28 → v.activeTo f.c f.d ≠ 0 → v.p.count .ld < 64 →
      ∃ t, exec (.srd f) s = .next t ∧
        MovesOn (v.p.pend ++ [v.ordered (Pend.scal .ld f.d 2 (some (v.p.mxst.zeroExtend 128)))]) v.p.fmask v s t) := by
  obtain ⟨k, hk, hd⟩ := srd_destination hc
  obtain ⟨-, -, -, hvp, -⟩ := State.view_spec hv
  have hholds := State.holds_of_view hv
  have hroom (h : v.p.count .ld < 64) : (decide (specialNo f = 0x28) && v.full .ld) = false := by
    simp [View.full, h]
  have huntracked (h : specialNo f ≠ 0x28) : (decide (specialNo f = 0x28) && v.full .ld) = false := by simp [h]
  have hrange (h : specialNo f ≠ 0x28) (hk' : k ≠ .none) (ha : k ≠ .acc) : f.d.toNat < 0x40 ∨ 0x90 ≤ f.d.toNat := by
    rw [srdClass, if_neg h] at hd
    exact dst_range hd hk' ha
  refine ⟨fun h0 => ?lane, fun h0 ha hn => ?idle, fun h0 h28 ha => ?scalar, fun h28 ha hn => ?tracked⟩
  case lane =>
    have h28 : specialNo f ≠ 0x28 := by omega
    obtain rfl : Dst.vec 1 = k := by rw [h0] at hk; exact Option.some.inj hk
    obtain ⟨u, hu⟩ := srdLane_effect hv (hrange h28 (by simp) (by simp)) (v.active f.c)
    exact ⟨_, u, (issue_run hv hc (huntracked h28)).trans (congrArg _ (if_pos h0)), hu⟩
  case idle =>
    exact ⟨_, (issue_run hv hc (hroom hn)).trans (congrArg _ ((if_neg h0).trans (if_pos ha))), hholds.movesOn false rfl⟩
  case scalar =>
    obtain rfl := specialDst_scal h0 hk
    obtain ⟨honly, u, hfind, -, -, hv', hk', hpc, -, -, hregs⟩ :=
      scalarGroup_effect hvp hholds (g := specialGroup (specialNo f)) (hrange h28 (by simp) (by simp)) (specialState s v (specialNo f))
    exact ⟨_, u, (issue_run hv hc (huntracked h28)).trans
      (congrArg _ ((if_neg h0).trans ((if_neg ha).trans (if_neg h28)))), honly, hfind, hpc, hv', hk', hregs⟩
  case tracked =>
    have h0 : specialNo f ≠ 0 := by omega
    refine ⟨_, (issue_run hv hc (hroom hn)).trans (congrArg _ ((if_neg h0).trans ((if_neg ha).trans (if_pos h28)))), ?_⟩
    rw [h28]
    exact hholds.movesOn false (p := v.p.addPend (v.ordered (Pend.scal .ld f.d 2 (some (v.p.mxst.zeroExtend 128))))) rfl

/-- SWR of %err with nothing wrong clears the bits of its context that its value names (R58, R211). -/
theorem swrErr_completes {f : FmtW} {s : State} {v : View} (hv : s.view = some v) (hc : swrCauses f s v = [])
    (ha : v.active f.c ≠ 0) (hn : specialNo f = 0x20) : ∃ t s1, exec (.swr f) s = .next t ∧
      MovesOn v.p.pend v.p.fmask v s1 t ∧ s1 = { s with ctxs := s1.ctxs } ∧
      ∀ c, s.ctx? v.t.ctx = some c → ∃ c', t.ctx? v.t.ctx = some c' ∧ c' = { c with err := c'.err, errNow := c'.errNow } ∧
        ∀ i, i < 128 → c'.err.getLsbD i =
          (c.err.getLsbD i && !(decide (i = 62 ∨ i = 63) && (readQuad v f.sa).getLsbD i)) := by
  let clear : Context → Context := fun c =>
    { c with err := clearErr c.err (readQuad v f.sa), errNow := { c.errNow with kills := [] } }
  have hwork : MemoryWork s (s.modCtx v.t.ctx clear) := .of_same rfl rfl
  have hexec : exec (.swr f) s = .next ((s.modCtx v.t.ctx clear).putSlot v v.p.onward) := by
    refine (issue_run hv hc rfl).trans (congrArg _ ((if_neg ha).trans ?_))
    simp only [hn]
    rfl
  exact ⟨_, _, hexec, (hwork.holds (State.holds_of_view hv)).movesOn false rfl, rfl, fun c hctx =>
    ⟨clear c, ctx?_map (f := clear) (fun _ => rfl) hctx, rfl, fun i hi => clearErr_bit _ _ hi⟩⟩

/-- Settles O44: each operation of class 7 in turn. -/
theorem systemOperationsComplete : Obligations.SystemOperationsComplete := by
  refine ⟨fun f s v hv hc => srd_completes hv hc, specialState_values, fun f s v hv hc => ?swr, fun f s v hv hc ha => ?grow,
    fun f s s1 s3 v x st hv hc ha hr hal hrel hwalk ht hx hspan htouch hbefore hpoison happ => ?launch,
    fun s v q d h => launchAppend_disabled d h, fun f s v hv hc ha he => ?gsw, fun f s v hv hc ha he => ?gret,
    fun f s v c hv hc hpriv hctx hlive => ?halt⟩
  case swr =>
    refine ⟨fun ha => ?_, swrErr_completes hv hc, fun ha hn => ?_⟩
    · exact ⟨_, (issue_run hv hc rfl).trans (congrArg _ (if_pos ha)), (State.holds_of_view hv).movesOn false rfl⟩
    · obtain ⟨honly, hfind⟩ := State.putSlot_spec hv (swrSlot f v)
      exact ⟨_, _, execSwr_slot hv hc ha hn, honly, hfind, v.onlySlot_withSlot _, swrSlot_spec f v⟩
  case grow =>
    obtain ⟨-, -, -, hvp, -⟩ := State.view_spec hv
    have hholds := State.holds_of_view hv
    refine ⟨fun l hl hg hn => ?_, fun hl => ?_, mayGrow_iff⟩
    · have hwork := memoryWork_release s v 0xFFFF 4
      have hholds' : (growState s v l (readS32 v f.sa).toNat).Holds v.sl := hwork.holds hholds
      refine ⟨_, _, execGrow_grows hv hc ha hl hg hn, sysStatus_says hvp hholds' (grow_destination hc) _, rfl, ?_⟩
      have hlaunches : (s.release v 0xFFFF 4).launches.find? (fun y => y.id = v.t.launch) = some l := by rw [hwork.2]; exact hl
      exact launch?_map (fun x => { x with gcount := l.gcount + (readS32 v f.sa).toNat }) (fun _ => rfl) hlaunches
    · exact ⟨_, execGrow_refuses hv hc ha hl, sysStatus_says hvp hholds (grow_destination hc) _⟩
  case launch =>
    obtain ⟨-, -, -, hvp, -⟩ := State.view_spec hv
    refine ⟨sysStatus f v st s3, (issue_run hv hc rfl).trans (congrArg _ ((if_neg ha).trans ?_)),
      sysStatus_says hvp (launch_holds ht happ hv) (launch_destination hc) _⟩
    exact launchRun_ready hr hal hrel hwalk ht hx hspan htouch hbefore hpoison happ
  case gsw =>
    refine ⟨fun hq hl => ?_, fun hq hctx => ?_⟩
    · obtain ⟨u, hu⟩ := enter_effect hv (readS32 v f.sb).toNat (readS64 v f.sa)
      refine ⟨_, u, (issue_run hv hc rfl).trans (congrArg _ ((if_neg ha).trans (if_neg ?_))), hu⟩
      simp [hl, hq]
    · obtain ⟨u, r, hu⟩ := unloaded_effect hv he hctx
      refine ⟨_, u, r, (issue_run hv hc rfl).trans (congrArg _ ((if_neg ha).trans (if_pos ?_))), hu⟩
      simpa using hq
  case gret =>
    intro h q a hl
    obtain ⟨u, hu⟩ := enter_effect hv q a
    refine ⟨_, u, (issue_run hv hc rfl).trans (congrArg _ ((if_neg ha).trans ((if_neg ?_).trans ?_))), hu⟩
    · simpa [q, h] using hl
    · exact congrArg (fun a => s.putSlot v (v.p.enter q a)) (gret_address (f.m.getLsbD 0) (h.getLsbD 4) _)
  case halt =>
    have hc' : bareCauses f.c ++ fieldZero f.d ++ regOrImmCauses v true f.sa ++ fieldZero f.sb ++ fieldZero f.sc ++
        fieldZero f.m ++ (if s.privileged v.t v.p then [] else [0x0B]) = [] := by rw [hc, hpriv]; rfl
    refine ⟨fun ha => ?_, fun ha => ?_⟩
    · exact ⟨_, (issue_run hv hc' rfl).trans (congrArg _ (if_pos ha)), (State.holds_of_view hv).movesOn false rfl⟩
    · obtain ⟨c', r, hend⟩ := endContext_effect hctx hlive (code := 0x04) (info2 := readS32 v f.sa) (by decide) rfl
      exact ⟨_, c', r, (issue_run hv hc' rfl).trans (congrArg _ (if_neg ha)), hend⟩

end Sys2Proof.Machine
end

section
/-!
PROOFS. The value functions of the scalar and packed operations: their bits, counts, products and elements (R65, R214,
R216, R217, R218, R223).
-/

namespace Sys2Proof.Machine

/-! ### Shifts and rotations (R217) -/

theorem getLsbD_shlWord (a b : Word) {i : Nat} (hi : i < 32) :
    (shlWord a b).getLsbD i = (decide (b.toNat ≤ i) && a.getLsbD (i - b.toNat)) := by
  unfold shlWord
  split
  · rw [BitVec.getLsbD_shiftLeft]
    by_cases h : b.toNat ≤ i <;> simp [hi, h]
  · have h : ¬b.toNat ≤ i := by omega
    simp [h]

theorem getLsbD_shrWordZ (a b : Word) (i : Nat) : (shrWordZ a b).getLsbD i = a.getLsbD (i + b.toNat) := by
  unfold shrWordZ
  split
  · rw [BitVec.getLsbD_ushiftRight, Nat.add_comm]
  · rw [BitVec.getLsbD_of_ge a _ (by omega)]
    exact BitVec.getLsbD_zero

theorem getLsbD_shrWordS (a b : Word) {i : Nat} (hi : i < 32) :
    (shrWordS a b).getLsbD i = if i + b.toNat < 32 then a.getLsbD (i + b.toNat) else a.getLsbD 31 := by
  have hmsb : a.msb = a.getLsbD 31 := BitVec.msb_eq_getLsbD_last a
  unfold shrWordS
  split
  · rw [BitVec.getLsbD_sshiftRight, hmsb, Nat.add_comm b.toNat i]
    simp [hi]
  · have hout : ¬i + b.toNat < 32 := by omega
    rw [if_neg hout, ← hmsb]
    by_cases h : a.msb = true
    · rw [if_pos h, h, BitVec.getLsbD_allOnes, decide_eq_true hi]
    · rw [if_neg h, Bool.eq_false_iff.mpr h]
      exact BitVec.getLsbD_zero

/-- A rotation by a count moves each bit up by it, modulo 32. -/
theorem getLsbD_rotWord (a b : Word) {i : Nat} (hi : i < 32) :
    (rotWord a b).getLsbD ((i + b.toNat) % 32) = a.getLsbD i := by
  have hr : b.toNat % 32 % 32 = b.toNat % 32 := Nat.mod_mod ..
  rw [rotWord, BitVec.getLsbD_rotateLeft, hr]
  by_cases h : i + b.toNat % 32 < 32
  · have hn : ¬(i + b.toNat) % 32 < b.toNat % 32 := by omega
    have hlt : (i + b.toNat) % 32 < 32 := by omega
    simp only [hn, hlt, decide_false, decide_true, cond_false, Bool.true_and]
    congr 1
    omega
  · have hn : (i + b.toNat) % 32 < b.toNat % 32 := by omega
    simp only [hn, decide_true, cond_true]
    congr 1
    omega

/-! ### High halves of products (R216) -/

/-- The upper half of a signed double word is its value divided by the word. -/
theorem toInt_upper (x : BitVec 64) : (x.extractLsb' 32 32).toInt = x.toInt / 2 ^ 32 := by
  have hx := x.isLt
  rw [BitVec.toInt_extractLsb', BitVec.toInt_eq_toNat_bmod, Nat.shiftRight_eq_div_pow]
  simp only [Int.bmod]
  omega

theorem toInt_mulHiS (a b : Word) : (mulHiS a b).toInt = a.toInt * b.toInt / 2 ^ 32 := by
  have hlo : -2 ^ 62 ≤ a.toInt * b.toInt := BitVec.le_toInt_mul_toInt
  have hhi : a.toInt * b.toInt ≤ 2 ^ 62 := BitVec.toInt_mul_toInt_le
  rw [mulHiS, toInt_upper, wrapInt, BitVec.toInt_ofInt_eq_self (by decide) (by omega) (by omega)]

theorem toNat_mulHiZ (a b : Word) : (mulHiZ a b).toNat = a.toNat * b.toNat / 2 ^ 32 := by
  have h : a.toNat * b.toNat < 2 ^ 32 * 2 ^ 32 := Nat.mul_lt_mul'' a.isLt b.isLt
  rw [mulHiZ, BitVec.toNat_ofNat, Nat.mod_eq_of_lt (Nat.div_lt_of_lt_mul h)]

/-! ### Bit fields (R218) -/

theorem getLsbD_bitExtract (sg : Bool) (a b c : Word) {i : Nat} (hi : i < 32) :
    (bitExtract sg a b c).getLsbD i =
      if c = 0 ∨ 32 ≤ b.toNat then false
      else if i < min c.toNat (32 - b.toNat) then a.getLsbD (b.toNat + i)
      else sg && a.getLsbD (b.toNat + min c.toNat (32 - b.toNat) - 1) := by
  unfold bitExtract
  split
  · exact BitVec.getLsbD_zero
  · next h =>
    obtain ⟨hc, hb⟩ := not_or.mp h
    have hpos : 0 < c.toNat := Nat.pos_of_ne_zero fun h0 => hc (BitVec.eq_of_toNat_eq h0)
    have hk : 0 < min c.toNat (32 - b.toNat) := by omega
    have htop : b.toNat + (min c.toNat (32 - b.toNat) - 1) = b.toNat + min c.toNat (32 - b.toNat) - 1 := by omega
    generalize min c.toNat (32 - b.toNat) = k at hk htop
    cases sg with
    | false => by_cases hik : i < k <;> simp [hi, hik]
    | true =>
      have hmsb : ((a >>> b.toNat).extractLsb' 0 k).msb = a.getLsbD (b.toNat + k - 1) := by
        rw [BitVec.msb_eq_getLsbD_last, ← htop]
        simp [hk]
      simp only [if_true, BitVec.getLsbD_signExtend, hmsb, hi, decide_true, Bool.true_and]
      by_cases hik : i < k <;> simp [hik]

theorem getLsbD_bitInsert (a b c : Word) {i : Nat} (hi : i < 32) :
    (bitInsert a b c).getLsbD i =
      if c.toNat % 32 ≤ i ∧ i < c.toNat % 32 + c.toNat / 256 % 64 then b.getLsbD (i - c.toNat % 32) else a.getLsbD i := by
  have hp : (c.extractLsb' 0 5).toNat = c.toNat % 32 := by simp
  have hn : (c.extractLsb' 8 6).toNat = c.toNat / 256 % 64 := by simp [Nat.shiftRight_eq_div_pow]
  unfold bitInsert
  simp only [hp, hn]
  generalize c.toNat % 32 = p
  generalize c.toNat / 256 % 64 = n
  have hmask : (BitVec.ofNat 32 ((2 ^ min n (32 - p) - 1) * 2 ^ p)).getLsbD i = decide (p ≤ i ∧ i < p + n) := by
    rw [BitVec.getLsbD_ofNat, Nat.testBit_mul_two_pow, Nat.testBit_two_pow_sub_one, Bool.eq_iff_iff]
    simp only [Bool.and_eq_true, decide_eq_true_eq]
    omega
  rw [BitVec.getLsbD_or, BitVec.getLsbD_and, BitVec.getLsbD_and, BitVec.getLsbD_not, hmask, BitVec.getLsbD_shiftLeft]
  by_cases h : p ≤ i ∧ i < p + n
  · simp [h, hi]
  · simp [h, hi]

theorem getLsbD_reverseBits (a : Word) {i : Nat} (hi : i < 32) : (reverseBits a).getLsbD i = a.getLsbD (31 - i) := by
  rw [reverseBits, BitVec.getLsbD_reverse, BitVec.getMsbD]
  simp [hi]

/-! ### Counts of bits (R218) -/

/-- A fold that counts the members of a list with a property. -/
theorem toNat_foldl_count (p : Nat → Bool) (l : List Nat) {n : Word} (h : n.toNat + l.length < 2 ^ 32) :
    (l.foldl (fun (n : Word) i => if p i then n + 1 else n) n).toNat = n.toNat + (l.filter p).length := by
  induction l generalizing n with
  | nil => rfl
  | cons i l ih =>
    rw [List.length_cons] at h
    rw [List.foldl_cons, List.filter_cons]
    split
    · have hn : (n + 1).toNat = n.toNat + 1 := by rw [BitVec.toNat_add]; exact Nat.mod_eq_of_lt (by simp; omega)
      rw [ih (by omega), hn, List.length_cons]
      omega
    · exact ih (by omega)

theorem toNat_popCount (a : Word) : (popCount a).toNat = ((List.range 32).filter fun i => a.getLsbD i).length := by
  rw [popCount, toNat_foldl_count (fun i => a.getLsbD i) (List.range 32) (by simp)]
  exact Nat.zero_add _

theorem log2_toNat_lt (a : Word) : Nat.log2 a.toNat < 32 := by
  by_cases h : a.toNat = 0
  · simp [h]
  · exact (Nat.log2_lt h).mpr a.isLt

theorem toNat_leadingZeros (a : Word) : (leadingZeros a).toNat = if a = 0 then 32 else 31 - Nat.log2 a.toNat := by
  unfold leadingZeros
  split
  · rfl
  · rw [BitVec.toNat_ofNat, Nat.mod_eq_of_lt (by omega)]

theorem leadingZeros_clear (a : Word) {i : Nat} (h : 32 - (leadingZeros a).toNat ≤ i) : a.getLsbD i = false := by
  rw [toNat_leadingZeros] at h
  split at h
  · next h0 => rw [h0]; exact BitVec.getLsbD_zero
  · have := log2_toNat_lt a
    exact Nat.testBit_lt_two_pow (Nat.lt_log2_self.trans_le (Nat.pow_le_pow_right (by decide) (by omega)))

theorem leadingZeros_set (a : Word) (h : (leadingZeros a).toNat < 32) : a.getLsbD (31 - (leadingZeros a).toNat) = true := by
  rw [toNat_leadingZeros] at h ⊢
  split at h
  · omega
  · next h0 =>
    have := log2_toNat_lt a
    rw [if_neg h0, show 31 - (31 - Nat.log2 a.toNat) = Nat.log2 a.toNat by omega]
    exact Nat.testBit_log2 fun hz => h0 (BitVec.eq_of_toNat_eq hz)

/-- A word and its negation have in common only the least set bit. -/
theorem and_neg_eq_twoPow (a : Word) {t : Nat} (ht : a.getLsbD t = true) (hlow : ∀ j < t, a.getLsbD j = false) :
    a &&& -a = BitVec.twoPow 32 t := by
  ext i hi
  rw [BitVec.getElem_and, ← BitVec.getLsbD_eq_getElem, ← BitVec.getLsbD_eq_getElem, ← BitVec.getLsbD_eq_getElem,
    BitVec.getLsbD_neg, BitVec.getLsbD_twoPow]
  rcases Nat.lt_trichotomy i t with hit | rfl | hit
  · simp [hlow i hit, hit.ne']
  · have hnone : ¬∃ j < i, a.getLsbD j = true := by
      rintro ⟨j, hj, hset⟩
      simp [hlow j hj] at hset
    simp [ht, hi, hnone]
  · have hsome : ∃ j < i, a.getLsbD j = true := ⟨t, hit, ht⟩
    simp [hi, hsome, hit.ne]

/-- The trailing zeros of a nonzero word are the place of its least set bit. -/
theorem trailingZeros_spec {a : Word} (h : a ≠ 0) :
    (trailingZeros a).toNat < 32 ∧ a.getLsbD (trailingZeros a).toNat = true ∧
      ∀ i < (trailingZeros a).toNat, a.getLsbD i = false := by
  have hset : ∃ t, a.getLsbD t = true := by
    by_contra hno
    exact h (BitVec.eq_of_getLsbD_eq fun i _ => by simpa using fun hi => hno ⟨i, hi⟩)
  classical
  have ht := Nat.find_spec hset
  have hlow : ∀ j < Nat.find hset, a.getLsbD j = false := fun j hj => by simpa using Nat.find_min hset hj
  have hlt : Nat.find hset < 32 := BitVec.lt_of_getLsbD ht
  have hval : (trailingZeros a).toNat = Nat.find hset := by
    rw [trailingZeros, if_neg h, and_neg_eq_twoPow a ht hlow, BitVec.toNat_twoPow,
      Nat.mod_eq_of_lt (Nat.pow_lt_pow_right (by decide) hlt), Nat.log2_two_pow, BitVec.toNat_ofNat]
    exact Nat.mod_eq_of_lt (by omega)
  rw [hval]
  exact ⟨hlt, ht, hlow⟩

theorem toNat_trailingZeros_zero : (trailingZeros 0).toNat = 32 := rfl

/-! ### Elements of a lane (R65) -/

/-- A bit of the first `k` elements of a lane is a bit of the element it lies in. -/
theorem getLsbD_packed (w : Nat) (g : Nat → BitVec w) (k : Nat) {n : Nat} (hn : n < 32) :
    ((List.range k).foldl (fun (r : Word) i => r ||| ((g i).zeroExtend 32 <<< (w * i))) 0).getLsbD n =
      (decide (n < w * k) && (g (n / w)).getLsbD (n % w)) := by
  induction k with
  | zero => simp
  | succ k ih =>
    rw [List.range_succ, List.foldl_append, List.foldl_cons, List.foldl_nil, BitVec.getLsbD_or, ih, BitVec.getLsbD_shiftLeft,
      Nat.mul_succ]
    rcases Nat.lt_or_ge n (w * k) with h | h
    · simp [h, Nat.lt_add_right w h]
    · rcases Nat.lt_or_ge n (w * k + w) with h' | h'
      · have hdiv : n / w = k := Nat.div_eq_of_lt_le (by rwa [Nat.mul_comm]) (by rwa [Nat.mul_comm, Nat.mul_succ])
        have hmod : n % w = n - w * k := by rw [Nat.mod_eq_sub, hdiv]
        simp [h.not_gt, h', hn, hdiv, hmod, show n - w * k < 32 by omega]
      · have hout : (g k).getLsbD (n - w * k) = false := BitVec.getLsbD_of_ge _ _ (by omega)
        simp [h.not_gt, h'.not_gt, hout]

/-- Each element of a packed lane is the one it was made of. -/
theorem elemOf_packElems {w i : Nat} (g : Nat → BitVec w) (h : i < 32 / w) : elemOf w (packElems w g) i = g i := by
  have htop : w * (i + 1) ≤ w * (32 / w) := Nat.mul_le_mul_left w h
  have hle : w * (32 / w) ≤ 32 := Nat.mul_div_le ..
  rw [Nat.mul_succ] at htop
  refine BitVec.eq_of_getLsbD_eq fun j hj => ?_
  have hdiv : (w * i + j) / w = i := by rw [Nat.mul_add_div (by omega), Nat.div_eq_of_lt hj, Nat.add_zero]
  have hmod : (w * i + j) % w = j := by rw [Nat.mul_add_mod, Nat.mod_eq_of_lt hj]
  rw [elemOf, BitVec.getLsbD_extractLsb', packElems, getLsbD_packed w g _ (by omega), hdiv, hmod]
  simp [hj, show w * i + j < w * (32 / w) by omega]

/-! ### Narrowing (R214, R223) -/

theorem narrowInt_wraps (sg : Bool) (w : Nat) (x : Int) : narrowInt sg false w x = BitVec.ofInt w x := rfl

theorem clampInt_eq {lo hi : Int} (h : lo ≤ hi) (x : Int) : clampInt x lo hi = max lo (min x hi) := by
  unfold clampInt
  split
  · omega
  · split <;> omega

theorem toInt_narrowInt_clamps {w : Nat} (hw : 0 < w) (x : Int) :
    (narrowInt true true w x).toInt = max (-(2 ^ (w - 1))) (min x (2 ^ (w - 1) - 1)) := by
  have hpos : (0 : Int) < 2 ^ (w - 1) := by positivity
  have hclamp : clampInt x (minOf true w) (maxOf true w) = max (-(2 ^ (w - 1))) (min x (2 ^ (w - 1) - 1)) :=
    clampInt_eq (by simp [minOf, maxOf]) x
  rw [narrowInt, if_pos rfl, hclamp, wrapInt, BitVec.toInt_ofInt_eq_self hw (by omega) (by omega)]

theorem toNat_narrowInt_clamps (w : Nat) (x : Int) :
    ((narrowInt false true w x).toNat : Int) = max 0 (min x (2 ^ w - 1)) := by
  have hpos : (0 : Int) < 2 ^ w := by positivity
  have hclamp : clampInt x (minOf false w) (maxOf false w) = max 0 (min x (2 ^ w - 1)) :=
    clampInt_eq (by simp [minOf, maxOf]; omega) x
  rw [narrowInt, if_pos rfl, hclamp, wrapInt, BitVec.toNat_ofInt, Int.toNat_of_nonneg (Int.emod_nonneg _ (by positivity)),
    Int.emod_eq_of_lt (by omega)]
  push_cast
  omega

/-- Settles O3: each value function by its bits, its value or its elements. -/
theorem scalarAndPackedValueFunctions : Obligations.ScalarAndPackedValueFunctions := by
  refine ⟨fun a b c => ⟨fun _ => getLsbD_shlWord a b, fun i _ => getLsbD_shrWordZ a b i, fun _ => getLsbD_shrWordS a b,
      fun _ => getLsbD_rotWord a b, toInt_mulHiS a b, toNat_mulHiZ a b, fun sg _ => getLsbD_bitExtract sg a b c,
      fun _ => getLsbD_bitInsert a b c, fun _ => getLsbD_reverseBits a, toNat_popCount a, ?leadingLe,
      fun _ h _ => leadingZeros_clear a h, leadingZeros_set a, ?trailing⟩,
    fun w _ g i h => elemOf_packElems g h, fun w x => ⟨narrowInt_wraps true w x, narrowInt_wraps false w x⟩,
    fun w x hw => toInt_narrowInt_clamps hw x, toNat_narrowInt_clamps⟩
  case leadingLe =>
    rw [toNat_leadingZeros]
    split <;> omega
  case trailing =>
    by_cases h : a = 0
    · subst h
      rw [toNat_trailingZeros_zero]
      exact ⟨le_rfl, fun i _ => BitVec.getLsbD_zero, fun h => absurd h (lt_irrefl 32)⟩
    · obtain ⟨hlt, hset, hlow⟩ := trailingZeros_spec h
      exact ⟨hlt.le, hlow, fun _ => hset⟩

end Sys2Proof.Machine
end

section
/-!
PROOFS. The matrix engine: an element after a step, an image read back, and what an engine write shows to each agent (R81,
R84, R85, R90, R258, R263, R271, R272, R314).
-/

namespace Sys2Proof.Machine

/-! ### A step of 32 rows and columns (R263) -/

/-- A key that several writes name, always with one value, reads as that value. -/
theorem cellGet_cellSetAll_mem {w : Nat} (m : Cells w) {l : List (Nat × BitVec w)} {a : Nat} {x : BitVec w} (h : (a, x) ∈ l)
    (hone : ∀ p ∈ l, p.1 = a → p.2 = x) : cellGet (cellSetAll m l) a = x := by
  induction l using List.reverseRecOn with
  | nil => nomatch h
  | append_singleton l p ih =>
    rw [cellSetAll, List.foldl_append, List.foldl_cons, List.foldl_nil, cellGet_cellSet]
    split
    · next hp => exact hone p (by simp) hp.symm
    · next hp =>
      have hl : (a, x) ∈ l := by
        rcases List.mem_append.mp h with hl | hl
        · exact hl
        · exact absurd (congrArg Prod.fst (List.mem_singleton.mp hl)) hp
      exact ih hl fun q hq => hone q (List.mem_append_left _ hq)

/-- Among rows numbered from 0 each is found by its number. -/
theorem find?_row {α : Type} {rows : List (Nat × α)} {n i : Nat} {r : α} (h : rows.map Prod.fst = List.range n)
    (hr : rows[i]? = some (i, r)) : rows.find? (fun x => x.1 = i) = some (i, r) := by
  obtain ⟨hi, hget⟩ := List.getElem?_eq_some_iff.mp hr
  refine List.find?_eq_some_iff_getElem.mpr ⟨by simp, i, hi, hget, fun j hj => ?_⟩
  have hj' : j < (rows.map Prod.fst).length := by rw [List.length_map]; omega
  have hfst : (rows.map Prod.fst)[j] = j := by simp only [h, List.getElem_range]
  rw [List.getElem_map] at hfst
  simp [hfst, hj.ne]

/-- Element (i, j) after a step over all rows and columns. -/
theorem cellGet_step {a : Acc} {k : KStep} {rows : List (Nat × OpLine)} {cols : List OpLine} {i j : Nat} {r c : OpLine}
    (hrows : rows.map Prod.fst = List.range 32) (hcols : cols.length = 32) (hr : rows[i]? = some (i, r))
    (hc : cols[j]? = some c) :
    cellGet (a.step k rows cols).el (32 * i + j) = stepElem k a i j (cellGet a.el (32 * i + j)) r c := by
  have hi : i < 32 := by
    obtain ⟨hi, -⟩ := List.getElem?_eq_some_iff.mp hr
    have hlen := congrArg List.length hrows
    simp at hlen
    omega
  have hj : j < 32 := hcols ▸ (List.getElem?_eq_some_iff.mp hc).1
  have hfind := find?_row hrows hr
  refine cellGet_cellSetAll_mem [] (List.mem_flatMap.mpr ⟨i, List.mem_range.mpr hi, ?_⟩) fun p hp hkey => ?_
  · rw [hfind]
    exact List.mem_map.mpr ⟨(c, j), List.mk_mem_zipIdx_iff_getElem?.mpr hc, rfl⟩
  · obtain ⟨i', hi', hp⟩ := List.mem_flatMap.mp hp
    have hrow : p.1 / 32 = i' := by
      split at hp
      · obtain ⟨⟨c', j'⟩, hmem, rfl⟩ := List.mem_map.mp hp
        have hj' : j' < 32 := hcols ▸ (List.getElem?_eq_some_iff.mp (List.mk_mem_zipIdx_iff_getElem?.mp hmem)).1
        show (32 * i' + j') / 32 = i'
        omega
      · obtain ⟨j', hmem, rfl⟩ := List.mem_map.mp hp
        have hj' := List.mem_range.mp hmem
        show (32 * i' + j') / 32 = i'
        omega
    obtain rfl : i' = i := by omega
    rw [hfind] at hp
    obtain ⟨⟨c', j'⟩, hmem, rfl⟩ := List.mem_map.mp hp
    obtain rfl : j' = j := Nat.add_left_cancel hkey
    obtain rfl : c' = c := Option.some.inj ((List.mk_mem_zipIdx_iff_getElem?.mp hmem).symm.trans hc)
    rfl

/-! ### One element (R85, R90) -/

/-- A word is unchanged by narrowing its own value. -/
theorem narrowInt_toInt (sat : Bool) (x : Word) : narrowInt true sat 32 x.toInt = x := by
  have hlo := BitVec.le_toInt x
  have hhi := BitVec.toInt_lt (x := x)
  have hclamp : clampInt x.toInt (minOf true 32) (maxOf true 32) = x.toInt := by
    unfold clampInt minOf maxOf
    simp only [if_true]
    rw [if_neg (by omega), if_neg (by omega)]
  rw [narrowInt, hclamp, ite_self, wrapInt, BitVec.ofInt_toInt]

theorem stepElem_int {a : Acc} {k : KStep} (hk : k.keep = false) (ha : a.res = false) (i j : Nat) (x : Word) (r c : List Int) :
    stepElem k a i j x (.int r) (.int c) = narrowInt true a.sat 32 (x.toInt +
      if k.rm.getLsbD i && k.cm.getLsbD j then (((r.zip c).take k.dep).map fun t => t.1 * t.2).sum else 0) := by
  simp only [stepElem, intElem, hk, ha, Bool.false_eq_true, if_false]

/-- One group of terms: rounded once, onto their exact sum with +0 for the terms past the depth. -/
theorem stepElem_flt {a : Acc} {k : KStep} {i j : Nat} (x : Word) {r c : List FVal} (hr : r.length = 32) (hc : c.length = 32)
    (hi : k.rm.getLsbD i = true) (hj : k.cm.getLsbD j = true) (hd : k.dist = false) :
    stepElem k a i j x (.flt r) (.flt c) = BitVec.ofNat 32 (froundSum .f32 .rne false false []
      [fread .f32 x.toNat, (fsum false ((if k.dep < 32 then [.fin false 0 0] else []) ++
        ((r.zip c).take k.dep).map fun t => (fprod t.1 t.2).1)).1]).1 := by
  have hlen : ((r.zip c).take k.dep).length = min k.dep 32 := by simp [hr, hc]
  have hall : ((r.zip c).take k.dep).take 32 = (r.zip c).take k.dep := List.take_of_length_le (by omega)
  have hfew : (min k.dep 32 < 32) = (k.dep < 32) := by simp
  simp only [stepElem, hi, hj, Bool.and_self, if_true, hr, Nat.div_self (show 0 < 32 by decide), floatElem, Nat.mul_zero,
    List.drop_zero, hall, addGroup, groupSum, hd, Bool.false_eq_true, if_false, hlen, hfew]

/-! ### Images (R81, R272) -/

/-- The bytes of a number give back its low bytes. -/
theorem ofBytes_bytesOf (v n : Nat) : ofBytes (bytesOf v n) = v % 256 ^ n := by
  induction n generalizing v with
  | zero => simp [bytesOf, ofBytes, Nat.mod_one]
  | succ n ih =>
    have hpow : 256 ^ (n + 1) = 2 ^ 8 * 256 ^ n := Nat.pow_succ'
    rw [bytesOf, ofBytes, ih, BitVec.toNat_ofNat, hpow]
    exact Nat.mod_mul.symm

/-- In a list of blocks of one length, block `j` begins at `j` times the length. -/
theorem block_flatMap {α β : Type} {f : α → List β} {n : Nat} (hf : ∀ x, (f x).length = n) (rest : List β) {xs : List α}
    {j : Nat} (h : j < xs.length) : (((xs.flatMap f) ++ rest).drop (n * j)).take n = f xs[j] := by
  induction xs generalizing j with
  | nil => nomatch h
  | cons x xs ih =>
    rw [List.flatMap_cons, List.append_assoc]
    cases j with
    | zero => rw [Nat.mul_zero, List.drop_zero, List.take_left' (hf x), List.getElem_cons_zero]
    | succ j =>
      have hskip : n * (j + 1) = (f x).length + n * j := by rw [hf, Nat.mul_succ, Nat.add_comm]
      rw [hskip, List.drop_length_add_append, List.getElem_cons_succ]
      exact ih _

/-- The elements of row `i`. -/
def Acc.rowElems (a : Acc) (i : Nat) : List Nat := (List.range 32).map fun j => (cellGet a.el (32 * i + j)).toNat

theorem imageRow_plain {a : Acc} (h : a.res = false) (i : Nat) :
    imageRow a i = (a.rowElems i).flatMap (fun x => bytesOf x 4) ++ [] := by
  simp only [imageRow, h, Bool.false_eq_true, if_false, List.append_nil, Acc.rowElems]

theorem imageRow_residues {a : Acc} (h : a.res = true) (i : Nat) :
    imageRow a i = (a.rowElems i).flatMap (fun x => bytesOf x 3) ++ List.replicate 32 0 := by
  simp only [imageRow, h, if_true, Acc.rowElems]

/-- Element `j` of a row, written as `n` bytes each, is read back modulo those bytes. -/
theorem ofBytes_rowElems (a : Acc) (i n : Nat) (rest : List Byte) {j : Nat} (hj : j < 32) :
    ofBytes (((((a.rowElems i).flatMap fun x => bytesOf x n) ++ rest).drop (n * j)).take n) =
      (cellGet a.el (32 * i + j)).toNat % 256 ^ n := by
  have hlen : j < (a.rowElems i).length := by simpa [Acc.rowElems] using hj
  rw [block_flatMap (f := fun x => bytesOf x n) (fun x => bytesOf_length x n) rest hlen, ofBytes_bytesOf]
  simp [Acc.rowElems]

theorem fillRow_imageRow_plain {a : Acc} (h : a.res = false) (i : Nat) :
    fillRow false (imageRow a i) = (List.range 32).map fun j => cellGet a.el (32 * i + j) := by
  refine List.map_congr_left fun j hj => ?_
  have hlt : (cellGet a.el (32 * i + j)).toNat < 256 ^ 4 := (cellGet a.el (32 * i + j)).isLt
  rw [if_neg Bool.false_ne_true, imageRow_plain h, ofBytes_rowElems a i 4 [] (List.mem_range.mp hj), Nat.mod_eq_of_lt hlt,
    BitVec.ofNat_toNat, BitVec.setWidth_eq]

/-- Residues that are reduced already are read back as they were. -/
theorem fillRow_imageRow_residues {a : Acc} (h : a.res = true) {i : Nat}
    (hres : ∀ j, j < 32 → cellGet a.el (32 * i + j) = BitVec.ofNat 32 (tri24Add (cellGet a.el (32 * i + j)).toNat 0) ∧
      (cellGet a.el (32 * i + j)).toNat < 2 ^ 24) :
    fillRow true (imageRow a i) = (List.range 32).map fun j => cellGet a.el (32 * i + j) := by
  refine List.map_congr_left fun j hj => ?_
  obtain ⟨hred, hlt⟩ := hres j (List.mem_range.mp hj)
  rw [show 2 ^ 24 = 256 ^ 3 by norm_num] at hlt
  rw [if_pos rfl, imageRow_residues h, ofBytes_rowElems a i 3 _ (List.mem_range.mp hj), Nat.mod_eq_of_lt hlt, ← hred]

/-! ### Writes in flight (R314) -/

/-- A segment but for its dirty bits and its poison. -/
def Segment.body (g : Segment) : Segment := { g with dirty := [], poison := [] }

/-- What sending writes leaves as it was: all but the writes themselves, near lines, and the marks of segments. -/
def SendFrame (s t : State) : Prop :=
  t = { s with writes := t.writes, nextWrite := t.nextWrite, near := t.near, segs := t.segs } ∧
    t.segs.map Segment.body = s.segs.map Segment.body

theorem SendFrame.refl (s : State) : SendFrame s s := ⟨rfl, rfl⟩

theorem SendFrame.trans {s t u : State} (h : SendFrame s t) (h' : SendFrame t u) : SendFrame s u := by
  refine ⟨?_, h'.2.trans h.2⟩
  rw [h'.1, h.1]

theorem SendFrame.foldl {α : Type} {f : State → α → State} (h : ∀ s x, SendFrame s (f s x)) (l : List α) (s : State) :
    SendFrame s (l.foldl f s) := by
  induction l generalizing s with
  | nil => exact .refl s
  | cons x l ih => exact (h s x).trans (ih (f s x))

theorem SendFrame.same {s t : State} (h : SendFrame s t) : t.teams = s.teams ∧ t.comb = s.comb ∧ t.lateReds = s.lateReds := by
  rw [h.1]
  exact ⟨rfl, rfl, rfl⟩

theorem SendFrame.engineFrame {s t : State} (h : SendFrame s t) : EngineFrame s t := by
  obtain ⟨hrec, hsegs⟩ := h
  refine ⟨by rw [hrec], by rw [hrec], ?_⟩
  have hstill := congrArg (List.map Segment.still) hsegs
  rw [List.map_map, List.map_map] at hstill
  exact hstill

/-- A byte performed everywhere is as it was. -/
theorem SendFrame.locBase {s t : State} (h : SendFrame s t) (l : Loc) : locBase t l = Machine.locBase s l := by
  obtain ⟨hrec, hsegs⟩ := h
  cases l with
  | phys a => rw [hrec]; rfl
  | scratch tm o => rw [hrec]; rfl
  | seg c n o =>
    have hfind (x : State) : (x.segment? c n).map Segment.body =
        (x.segs.map Segment.body).find? fun g => g.ctx = c ∧ g.name = n := by
      rw [List.find?_map]; rfl
    have hbody : (t.segment? c n).map Segment.body = (s.segment? c n).map Segment.body := by rw [hfind, hfind, hsegs]
    simp only [Machine.locBase]
    cases ht : t.segment? c n <;> cases hs : s.segment? c n <;> simp [ht, hs] at hbody ⊢
    exact congrArg (fun g => cellGet g.data o) hbody

theorem SendFrame.hostDirty {s t : State} (h : SendFrame s t) (a : Nat) : hostDirty t a = Machine.hostDirty s a := by
  rw [h.1]; rfl

theorem sendFrame_recall (s : State) (keep : Option Nat) (lines : List Nat) : SendFrame s (s.recall keep lines) := ⟨rfl, rfl⟩

/-- A byte written at a location marks its segment, where it lies in one. -/
def State.touchLoc (s : State) : Loc → State
  | .seg c n o => s.modSeg c n fun g => g.touch o
  | _ => s

theorem State.touchLoc_segs (s : State) (l : Loc) :
    ∃ gs, s.touchLoc l = { s with segs := gs } ∧ gs.map Segment.body = s.segs.map Segment.body := by
  cases l with
  | phys a => exact ⟨s.segs, rfl, rfl⟩
  | scratch t o => exact ⟨s.segs, rfl, rfl⟩
  | seg c n o =>
    refine ⟨_, rfl, ?_⟩
    rw [List.map_map]
    refine List.map_congr_left fun g _ => ?_
    simp only [Function.comp_apply]
    split <;> rfl

/-- Bytes written at locations mark the segments of those. -/
def State.touchAll (s : State) (bytes : List (Loc × Byte)) : State := bytes.foldl (fun s p => s.touchLoc p.1) s

theorem State.touchAll_segs (s : State) (bytes : List (Loc × Byte)) :
    ∃ gs, s.touchAll bytes = { s with segs := gs } ∧ gs.map Segment.body = s.segs.map Segment.body := by
  induction bytes generalizing s with
  | nil => exact ⟨s.segs, rfl, rfl⟩
  | cons p bytes ih =>
    obtain ⟨gs, hloc, hbody⟩ := s.touchLoc_segs p.1
    obtain ⟨gs', hall, hbody'⟩ := ih { s with segs := gs }
    refine ⟨gs', ?_, hbody'.trans hbody⟩
    rw [State.touchAll, List.foldl_cons, hloc]
    exact hall

section
variable (s : State) (seat : Seat) (stream : Option (BitVec 4)) (lane : Option Nat) (deps : List Nat) (bytes : List (Loc × Byte))

/-- A write is put behind the others and marks its segments. -/
theorem State.addWrite_eq : ∃ gs, s.addWrite seat stream lane deps bytes =
    { s with
      segs := gs
      writes := s.writes ++ [{ id := s.nextWrite, seat := seat, stream := stream, lane := lane, bytes := bytes, level := 0
                               deps := deps }]
      nextWrite := s.nextWrite + 1 } ∧ gs.map Segment.body = s.segs.map Segment.body := by
  obtain ⟨gs, htouch, hbody⟩ := s.touchAll_segs bytes
  have hdef : s.addWrite seat stream lane deps bytes =
      { s.touchAll bytes with
        writes := (s.touchAll bytes).writes ++ [{ id := (s.touchAll bytes).nextWrite, seat := seat, stream := stream, lane := lane
                                                  bytes := bytes, level := 0, deps := deps }]
        nextWrite := (s.touchAll bytes).nextWrite + 1 } := rfl
  exact ⟨gs, by rw [hdef, htouch], hbody⟩

theorem sendFrame_addWrite : SendFrame s (s.addWrite seat stream lane deps bytes) := by
  obtain ⟨gs, h, hbody⟩ := s.addWrite_eq seat stream lane deps bytes
  rw [h]
  exact ⟨rfl, hbody⟩

/-- What `bytes` make of the byte `b` at a location. -/
def overwrite (bytes : List (Loc × Byte)) (l : Loc) (b : Byte) : Byte := ((bytes.find? fun p => p.1 = l).map Prod.snd).getD b

/-- The agents of the writer's wave see a write at once, the others see what they saw. -/
theorem seenByte_addWrite (r : Seat) (l : Loc) : seenByte (s.addWrite seat stream lane deps bytes) r l =
    if joinScope seat r = 0 then overwrite bytes l (seenByte s r l) else seenByte s r l := by
  have hframe := sendFrame_addWrite s seat stream lane deps bytes
  obtain ⟨gs, h, -⟩ := s.addWrite_eq seat stream lane deps bytes
  have hw := congrArg State.writes h
  cases l <;> simp only [seenByte, hframe.locBase, hframe.hostDirty, hw, List.foldl_append, List.foldl_cons, List.foldl_nil,
    Nat.le_zero, PWrite.at?, overwrite]

end

theorem seenByte_recall (s : State) (keep : Option Nat) (lines : List Nat) (r : Seat) (l : Loc) :
    seenByte (s.recall keep lines) r l = seenByte s r l := rfl

/-! ### The writes of one run of bytes (R181, R271) -/

/-- What several writes make of a byte, the later last. -/
theorem foldl_overwrite {us : List (List (Loc × Byte))} (h : (us.flatten.map Prod.fst).Nodup) (l : Loc) (b : Byte) :
    us.foldl (fun b u => overwrite u l b) b = overwrite us.flatten l b := by
  induction us generalizing b with
  | nil => rfl
  | cons u us ih =>
    rw [List.flatten_cons, List.map_append, List.nodup_append] at h
    obtain ⟨-, hus, hdisj⟩ := h
    rw [List.foldl_cons, ih hus, List.flatten_cons]
    simp only [overwrite, List.find?_append]
    cases hu : u.find? fun p => p.1 = l with
    | none => simp
    | some p =>
      have hp : p.1 = l := by simpa using List.find?_some hu
      have hrest : us.flatten.find? (fun p => p.1 = l) = none := by
        refine List.find?_eq_none.mpr fun q hq => ?_
        have := hdisj p.1 (List.mem_map_of_mem (List.mem_of_find?_eq_some hu)) q.1 (List.mem_map_of_mem hq)
        simpa [← hp] using this.symm
      simp [hrest]

theorem flatten_eights {n : Nat} {l : List (Loc × Byte)} (h : l.length ≤ 8 * n) : (eights n l).flatten = l := by
  induction n generalizing l with
  | zero => simpa [eights] using (List.length_eq_zero_iff.mp (by omega)).symm
  | succ n ih =>
    rw [eights, List.flatten_cons, ih (by rw [List.length_drop]; omega), List.take_append_drop]

/-- The units of an access hold its bytes, in order. -/
theorem flatten_alignedUnits (t : Target) (data : List Byte) : (alignedUnits t data).flatten = targetBytes t data := by
  unfold alignedUnits
  extract_lets all start first
  have hlate : (eights ((all.length - first + 7) / 8) (all.drop first)).flatten = all.drop first :=
    flatten_eights (by rw [List.length_drop]; omega)
  rw [List.flatten_append, hlate]
  split
  · next h => simp [h, all]
  · simp [all]

/-- Different bytes of a target lie at different locations. -/
theorem targetLoc_inj {t : Target} {i j : Nat} {l : Loc} (hi : targetLoc t i = some l) (hj : targetLoc t j = some l) : i = j := by
  have heq : targetLoc t i = targetLoc t j := hi.trans hj.symm
  cases t with
  | phys pa mt => simpa [targetLoc] using heq
  | scratch tm o => simpa [targetLoc] using heq
  | seg c nm o => simpa [targetLoc] using heq
  | dec w q => nomatch hi
  | lane key => nomatch hi
  | remote pkg va => nomatch hi

/-- The bytes of an access lie at different locations. -/
theorem targetBytes_nodup (t : Target) (data : List Byte) : ((targetBytes t data).map Prod.fst).Nodup := by
  have hfst : (targetBytes t data).map Prod.fst = (List.range data.length).filterMap (targetLoc t) := by
    rw [targetBytes, List.map_filterMap]
    refine List.filterMap_congr fun i _ => ?_
    cases targetLoc t i <;> rfl
  rw [hfst]
  exact List.nodup_range.filterMap fun i j l hi hj => targetLoc_inj hi hj

theorem overwrite_targetBytes (t : Target) (data : List Byte) (l : Loc) (b : Byte) :
    overwrite (targetBytes t data) l b = (storedAt t data l).getD b := rfl

/-- One run of bytes written by the engine: its target and length, and its bytes. -/
abbrev EngPiece := (Target × Nat) × Out

/-- A run sent as writes of its units, when the core's reductions and the near copies of its lines have been seen to. -/
def engSend (v : View) (str : BitVec 4) (deps : List Nat) (s : State) (x : EngPiece) : State :=
  let s1 := (s.flushFor v.t.core x.1.1 x.1.2).recall (some v.t.core) (spanLines x.1.1 x.1.2)
  (alignedUnits x.1.1 x.2.data).foldl (fun s u => s.addWrite v.seat (some str) none deps u) s1

/-- Writes sent one after the other: the agents of the writer's wave see them all. -/
theorem addWrites_spec (seat : Seat) (stream : Option (BitVec 4)) (deps : List Nat) (us : List (List (Loc × Byte))) (s : State) :
    let t := us.foldl (fun s u => s.addWrite seat stream none deps u) s
    SendFrame s t ∧ ∀ r l, seenByte t r l =
      if joinScope seat r = 0 then us.foldl (fun b u => overwrite u l b) (seenByte s r l) else seenByte s r l := by
  refine ⟨SendFrame.foldl (fun s u => sendFrame_addWrite s seat stream none deps u) us s, fun r l => ?_⟩
  induction us generalizing s with
  | nil => simp
  | cons u us ih =>
    rw [List.foldl_cons, ih, seenByte_addWrite, List.foldl_cons]
    split <;> rfl

section
variable (v : View) (str : BitVec 4) (deps : List Nat)

/-- With no reduction of the core resting and none late, a run sent is seen at the locations of its target. -/
theorem engSend_spec {s : State} (hcomb : ∀ e ∈ s.comb, e.core ≠ v.t.core) (hlate : s.lateReds = []) (x : EngPiece) :
    SendFrame s (engSend v str deps s x) ∧ ∀ r l, seenByte (engSend v str deps s x) r l =
      if joinScope v.seat r = 0 then (storedAt x.1.1 x.2.data l).getD (seenByte s r l) else seenByte s r l := by
  have hdef : engSend v str deps s x = (alignedUnits x.1.1 x.2.data).foldl (fun s u => s.addWrite v.seat (some str) none deps u)
      (s.recall (some v.t.core) (spanLines x.1.1 x.1.2)) := by
    rw [engSend, State.flushFor_of_none x.1.1 x.1.2 hcomb hlate]
  obtain ⟨hframe, hseen⟩ := addWrites_spec v.seat (some str) deps (alignedUnits x.1.1 x.2.data)
    (s.recall (some v.t.core) (spanLines x.1.1 x.1.2))
  have hnodup : ((alignedUnits x.1.1 x.2.data).flatten.map Prod.fst).Nodup := by
    rw [flatten_alignedUnits]
    exact targetBytes_nodup x.1.1 x.2.data
  rw [hdef]
  refine ⟨(sendFrame_recall s _ _).trans hframe, fun r l => ?_⟩
  rw [hseen, seenByte_recall, foldl_overwrite hnodup, flatten_alignedUnits, overwrite_targetBytes]

/-- Runs sent in order: the later of two at one place is seen. -/
theorem engSends_spec (xs : List EngPiece) {s : State} (hcomb : ∀ e ∈ s.comb, e.core ≠ v.t.core) (hlate : s.lateReds = []) :
    SendFrame s (xs.foldl (engSend v str deps) s) ∧ ∀ r l, seenByte (xs.foldl (engSend v str deps) s) r l =
      if joinScope v.seat r = 0 then xs.foldl (fun b x => (storedAt x.1.1 x.2.data l).getD b) (seenByte s r l)
      else seenByte s r l := by
  induction xs generalizing s with
  | nil => exact ⟨.refl s, fun r l => (ite_self _).symm⟩
  | cons x xs ih =>
    obtain ⟨hframe, hseen⟩ := engSend_spec v str deps hcomb hlate x
    obtain ⟨-, hc, hl⟩ := hframe.same
    obtain ⟨hframe', hseen'⟩ := ih (s := engSend v str deps s x) (by rwa [hc]) (by rwa [hl])
    refine ⟨hframe.trans hframe', fun r l => ?_⟩
    rw [List.foldl_cons, hseen', hseen, List.foldl_cons]
    split <;> rfl

end

/-- With no reduction of the core resting and none late, no access waits for one. -/
theorem touchNeeds_of_none {s : State} {core : Nat} (hcomb : ∀ e ∈ s.comb, e.core ≠ core) (hlate : s.lateReds = [])
    (t : Target) (n : Nat) : touchNeeds s core t n = [] := by
  have hnone : (s.comb ++ s.lateReds).filter (touches s core t n) = [] := by
    rw [hlate, List.append_nil]
    exact List.filter_eq_nil_iff.mpr fun e he => by simp [touches_core (hcomb e he)]
  rw [touchNeeds, flushNeeds, hnone, List.flatMap_nil]

/-- An engine write whose runs are all accepted and wait for nothing sends each of them. -/
theorem engWrite_ready {s s1 : State} {v : View} {spc : Nat} (str : BitVec 4) {runs : List Out} {ps : List (Target × Nat)}
    (hwalk : engWalks s v spc .store (runs.map fun r => { addr := r.addr, n := r.data.length, al := r.al }) = [])
    (hps : engPieces v spc .store (runs.map fun r => { addr := r.addr, n := r.data.length, al := r.al }) s = (s1, .ok ps))
    (hspan : (ps.flatMap fun p => spanNeeds s1 true p.2 p.1) = []) (hcomb : ∀ e ∈ s1.comb, e.core ≠ v.t.core)
    (hlate : s1.lateReds = []) :
    engWrite s v spc str runs = ((ps.zip runs).foldl (engSend v str (orderedBefore s1 v.sl v.p str none)) s1, .ok ()) := by
  have hneeds : (ps.flatMap fun p => spanNeeds s1 true p.2 p.1 ++ touchNeeds s1 v.t.core p.1 p.2) = [] := by
    simpa only [touchNeeds_of_none hcomb hlate, List.append_nil] using hspan
  unfold engWrite
  simp only [hwalk, hps, hneeds, ne_eq, not_true_eq_false, if_false]
  rfl

/-- Settles O40: the element of a step by its key, sums and images by their definitions, an engine write run by run. -/
theorem matrixElementsAndImages : Obligations.MatrixElementsAndImages := by
  refine ⟨fun a k rows cols i j r c hrows hcols hr hc => ⟨cellGet_step hrows hcols hr hc, rfl, rfl, rfl⟩,
    fun a k i j x r c hk ha => ⟨fun hi hj => ?on, fun hoff => ?off⟩,
    fun a k i j x r c hr hc hi hj hd => stepElem_flt x hr hc hi hj hd,
    fun a i _ h => fillRow_imageRow_plain h i, fun a i _ h hres => fillRow_imageRow_residues h hres,
    fun a i j h => by rw [Acc.value, h]; rfl,
    fun s s1 v spc str runs ps hwalk hps hspan hcomb hlate => ?write⟩
  case on =>
    rw [stepElem_int hk ha, hi, hj]
    rfl
  case off => rw [stepElem_int hk ha, hoff, if_neg Bool.false_ne_true, Int.add_zero, narrowInt_toInt]
  case write =>
    obtain ⟨hframe, hseen⟩ := engSends_spec v str (orderedBefore s1 v.sl v.p str none) (ps.zip runs) hcomb hlate
    exact ⟨_, engWrite_ready str hwalk hps hspan hcomb hlate, hseen, hframe.same.1, hframe.engineFrame⟩

end Sys2Proof.Machine
end

section
/-!
PROOFS. Float special cases: NaN results and classes, the exact inputs of the special functions, and the saturating counts of
conditions (R68, R230, R231, R232, R236, R242).
-/

namespace Sys2Proof.Machine

/-! ### NaN results and classes (R230, R232, R236) -/

theorem FVal.isNan_iff {x : FVal} : x.isNan = true ↔ ∃ q, x = .nan q := by
  cases x <;> simp [FVal.isNan]

/-- A sum of two terms one of which is a NaN is a NaN, and no infinities of opposite sign meet in it. -/
theorem fsum_pair_nan (rdn : Bool) {x y : FVal} (h : x.isNan = true ∨ y.isNan = true) :
    fsum rdn [x, y] = (.nan false, false) := by
  rcases h with h | h
  · obtain ⟨q, rfl⟩ := FVal.isNan_iff.mp h
    cases y <;> simp [fsum, FVal.isNan]
  · obtain ⟨q, rfl⟩ := FVal.isNan_iff.mp h
    cases x <;> simp [fsum, FVal.isNan]

theorem froundSum_pair_nan (t : FloatTy) (md : RMode) (sat snan : Bool) {x y : FVal} (h : x.isNan = true ∨ y.isNan = true) :
    froundSum t md sat snan [] [x, y] = (t.nan, { nv := snan }) := by
  simp [froundSum, fsum_pair_nan _ h]

/-- Zero times infinity is invalid whatever is added to it. -/
theorem froundSum_zero_times_inf (t : FloatTy) (md : RMode) (sat n k snan : Bool) (y : FVal) (e : Int) :
    froundSum t md sat snan [fprod (.inf n) (.fin k 0 e)] [y] = (t.nan, { nv := true }) := by
  have hprod : fprod (.inf n) (.fin k 0 e) = (.nan false, true) := rfl
  simp [froundSum, hprod, fsum_pair_nan _ (x := .nan false) (y := y) (.inl rfl)]

theorem froundSum_opposite_infs (t : FloatTy) (md : RMode) (sat n : Bool) :
    froundSum t md sat false [] [.inf n, .inf !n] = (t.nan, { nv := true }) := by
  cases n <;> simp [froundSum, fsum]

theorem fclassBits_one_bit (t : FloatTy) (bits : Nat) : ∃ i, i < 10 ∧ fclassBits t bits = 2 ^ i := by
  unfold fclassBits
  split
  · exact ⟨8, by decide, rfl⟩
  · exact ⟨9, by decide, rfl⟩
  · exact ⟨0, by decide, rfl⟩
  · exact ⟨7, by decide, rfl⟩
  · refine ⟨_, ?_, rfl⟩
    dsimp only
    split_ifs <;> decide

/-! ### Rounding an FP32 value that is exact (R73) -/

theorem spacing_f32 (m : Nat) (e : Int) : spacing .f32 m e = max (e + (Nat.log2 m : Int)) (-126) - 23 := by
  simp only [spacing, FloatTy.emin, FloatTy.prec, FloatTy.bias, FloatTy.frac]
  omega

theorem cutRound_exact (md : RMode) (neg : Bool) (m : Nat) {e q : Int} (h : q ≤ e) :
    cutRound md neg (cutAt m e q) = m * 2 ^ (e - q).toNat := by
  simp [cutRound, roundsAway, cutAt, if_pos h]

/-- A value that is a multiple of its spacing `2^q` and below the greatest is itself. -/
theorem roundTo_f32_exact (md : RMode) (sat neg : Bool) {m : Nat} {e q : Int} (hm : m ≠ 0)
    (hq : q = max (e + (Nat.log2 m : Int)) (-126) - 23) (hqe : q ≤ e)
    (hmax : m * 2 ^ (e - q).toNat + (q + 149).toNat * 2 ^ 23 ≤ 0x7F7FFFFF) :
    roundTo .f32 md sat neg m e = (FloatTy.f32.signed neg (m * 2 ^ (e - q).toNat + (q + 149).toNat * 2 ^ 23), {}) := by
  have hshift : q + (FloatTy.prec .f32 : Int) - 2 + (FloatTy.bias .f32 : Int) = q + 149 := by
    simp only [FloatTy.prec, FloatTy.bias, FloatTy.frac]; omega
  have hexact : (cutAt m e q).exact = true := by simp [cutAt, if_pos hqe]
  simp only [roundTo, if_neg hm, spacing_f32, ← hq, hshift, cutRound_exact md neg m hqe, hexact, FloatTy.frac, FloatTy.maxBits]
  rw [if_neg (by omega)]
  rfl

theorem log2_one : Nat.log2 1 = 0 := by decide

/-- A power of two in the normal range. -/
theorem roundTo_f32_pow_normal (md : RMode) (sat neg : Bool) {j : Int} (hlo : -126 ≤ j) (hhi : j ≤ 127) :
    roundTo .f32 md sat neg 1 j = (FloatTy.f32.signed neg ((j + 127).toNat * 2 ^ 23), {}) := by
  have hq : j - 23 = max (j + (Nat.log2 1 : Int)) (-126) - 23 := by rw [log2_one]; omega
  have hd : (j - (j - 23)).toNat = 23 := by omega
  have hmag : 1 * 2 ^ 23 + (j - 23 + 149).toNat * 2 ^ 23 = (j + 127).toNat * 2 ^ 23 := by omega
  rw [roundTo_f32_exact md sat neg one_ne_zero hq (by omega) (by rw [hd]; omega), hd, hmag]

/-- A power of two below the normal range. -/
theorem roundTo_f32_pow_subnormal (md : RMode) (sat neg : Bool) {j : Int} (hlo : -149 ≤ j) (hhi : j < -126) :
    roundTo .f32 md sat neg 1 j = (FloatTy.f32.signed neg (2 ^ (j + 149).toNat), {}) := by
  have hq : -149 = max (j + (Nat.log2 1 : Int)) (-126) - 23 := by rw [log2_one]; omega
  have hd : (j - -149).toNat = (j + 149).toNat := by omega
  have hle : 2 ^ (j + 149).toNat ≤ 2 ^ 23 := Nat.pow_le_pow_right (by decide) (by omega)
  have hmag : 1 * 2 ^ (j + 149).toNat + (-149 + 149 : Int).toNat * 2 ^ 23 = 2 ^ (j + 149).toNat := by simp
  rw [roundTo_f32_exact md sat neg one_ne_zero hq hlo (by rw [hd, hmag]; omega), hd, hmag]

/-- A power of two above every finite value. -/
theorem roundTo_f32_pow_overflow (neg : Bool) {j : Int} (h : 128 ≤ j) :
    roundTo .f32 .rne false neg 1 j = (FloatTy.f32.signed neg 0x7F800000, { ovf := true, nx := true }) := by
  have hq : spacing .f32 1 j = j - 23 := by rw [spacing_f32, log2_one]; omega
  have hbig : FloatTy.f32.maxBits < cutRound .rne neg (cutAt 1 j (j - 23)) +
      (j - 23 + (FloatTy.prec .f32 : Int) - 2 + (FloatTy.bias .f32 : Int)).toNat * 2 ^ FloatTy.frac .f32 := by
    have hd : (j - (j - 23)).toNat = 23 := by omega
    rw [cutRound_exact _ _ _ (by omega), hd]
    simp only [FloatTy.prec, FloatTy.bias, FloatTy.frac, FloatTy.maxBits]
    omega
  simp only [roundTo, one_ne_zero, if_false, hq, if_pos hbig]
  rfl

/-- A number of at most 24 bits, shifted to 24. -/
theorem shifted_to_24 {k : Nat} (hk : k ≠ 0) (h : k < 2 ^ 24) :
    2 ^ 23 ≤ k * 2 ^ (23 - Nat.log2 k) ∧ k * 2 ^ (23 - Nat.log2 k) < 2 ^ 24 := by
  have hlog : Nat.log2 k < 24 := (Nat.log2_lt hk).mpr h
  have hlow : 2 ^ 23 = 2 ^ Nat.log2 k * 2 ^ (23 - Nat.log2 k) := by rw [← Nat.pow_add]; congr 1; omega
  have hhigh : 2 ^ 24 = 2 ^ (Nat.log2 k + 1) * 2 ^ (23 - Nat.log2 k) := by rw [← Nat.pow_add]; congr 1; omega
  constructor
  · rw [hlow]
    exact Nat.mul_le_mul_right _ (Nat.log2_self_le hk)
  · rw [hhigh]
    exact Nat.mul_lt_mul_of_pos_right Nat.lt_log2_self (by positivity)

/-- A natural number of at most 24 bits is itself. -/
theorem roundTo_f32_natural (md : RMode) (sat neg : Bool) {k : Nat} (hk : k ≠ 0) (h : k < 2 ^ 24) :
    roundTo .f32 md sat neg k 0 =
      (FloatTy.f32.signed neg (k * 2 ^ (23 - Nat.log2 k) + (Nat.log2 k + 126) * 2 ^ 23), {}) := by
  have hlog : Nat.log2 k < 24 := (Nat.log2_lt hk).mpr h
  have hq : (Nat.log2 k : Int) - 23 = max (0 + (Nat.log2 k : Int)) (-126) - 23 := by omega
  have hd : (0 - ((Nat.log2 k : Int) - 23)).toNat = 23 - Nat.log2 k := by omega
  have he : ((Nat.log2 k : Int) - 23 + 149).toNat = Nat.log2 k + 126 := by omega
  obtain ⟨-, htop⟩ := shifted_to_24 hk h
  rw [roundTo_f32_exact md sat neg hk hq (by omega) (by rw [hd, he]; omega), hd, he]

/-! ### Reading FP32 values (R66) -/

/-- The fixed-point value of a normal magnitude. -/
def f32Fixed (mag : Nat) : Nat := (2 ^ 23 + mag % 2 ^ 23) * 2 ^ (mag / 2 ^ 23 + 50)

/-- Greater magnitudes have greater values. -/
theorem f32Fixed_strictMono : StrictMono f32Fixed := by
  intro a b hab
  unfold f32Fixed
  rcases Nat.lt_or_ge (a / 2 ^ 23) (b / 2 ^ 23) with h | h
  · calc (2 ^ 23 + a % 2 ^ 23) * 2 ^ (a / 2 ^ 23 + 50) < 2 ^ 24 * 2 ^ (a / 2 ^ 23 + 50) :=
          Nat.mul_lt_mul_of_pos_right (by omega) (by positivity)
      _ = 2 ^ 23 * 2 ^ (a / 2 ^ 23 + 51) := by ring
      _ ≤ (2 ^ 23 + b % 2 ^ 23) * 2 ^ (b / 2 ^ 23 + 50) :=
          Nat.mul_le_mul (by omega) (Nat.pow_le_pow_right (by decide) (by omega))
  · have heq : a / 2 ^ 23 = b / 2 ^ 23 := by omega
    rw [heq]
    exact Nat.mul_lt_mul_of_pos_right (by omega) (by positivity)

/-- A finite FP32 value by its exponent and fraction. -/
theorem fread_f32_finite {bits : Nat} (h : bits % 2 ^ 31 < 0x7F800000) :
    fread .f32 bits = if bits % 2 ^ 31 / 2 ^ 23 = 0 then .fin (decide (bits / 2 ^ 31 % 2 = 1)) (bits % 2 ^ 31 % 2 ^ 23) (-149)
      else .fin (decide (bits / 2 ^ 31 % 2 = 1)) (2 ^ 23 + bits % 2 ^ 31 % 2 ^ 23) ((bits % 2 ^ 31 / 2 ^ 23 : Nat) - 127 - 23) := by
  have hmax : ¬FloatTy.f32.maxBits < bits % 2 ^ (FloatTy.f32.width - 1) := by
    show ¬0x7F7FFFFF < bits % 2 ^ 31
    omega
  simp only [fread, if_neg hmax]
  rfl

theorem fread_f32_normal {bits : Nat} (hlo : 2 ^ 23 ≤ bits % 2 ^ 31) (hhi : bits % 2 ^ 31 < 0x7F800000) :
    fread .f32 bits = .fin (decide (bits / 2 ^ 31 % 2 = 1)) (2 ^ 23 + bits % 2 ^ 31 % 2 ^ 23)
      ((bits % 2 ^ 31 / 2 ^ 23 : Nat) - 150) := by
  rw [fread_f32_finite hhi, if_neg (by omega)]
  congr 1
  omega

theorem fread_f32_subnormal {bits : Nat} (h : bits % 2 ^ 31 < 2 ^ 23) :
    fread .f32 bits = .fin (decide (bits / 2 ^ 31 % 2 = 1)) (bits % 2 ^ 31) (-149) := by
  rw [fread_f32_finite (by omega), if_pos (by omega), Nat.mod_eq_of_lt h]

/-- The fixed-point value of a normal magnitude is exact. -/
theorem toFix_normal (neg : Bool) (mag : Nat) :
    toFix neg (2 ^ 23 + mag % 2 ^ 23) ((mag / 2 ^ 23 : Nat) - 150) =
      (if neg then -1 else 1) * (f32Fixed mag : Int) := by
  have hk : (0 : Int) ≤ ((mag / 2 ^ 23 : Nat) : Int) - 150 + (fixBits : Nat) := by simp only [fixBits]; omega
  have hpow : (((mag / 2 ^ 23 : Nat) : Int) - 150 + (fixBits : Nat)).toNat = mag / 2 ^ 23 + 50 := by simp only [fixBits]; omega
  rw [toFix, f32Fixed]
  generalize 2 ^ 23 + mag % 2 ^ 23 = m
  simp only [if_pos hk, hpow]
  split
  · push_cast
    ring
  · push_cast
    ring

theorem f32_signed (n : Bool) (mag : Nat) : FloatTy.f32.signed n mag = mag + if n then 2 ^ 31 else 0 := by
  cases n <;> simp [FloatTy.signed, FloatTy.width, Nat.add_comm]

/-- The word of a magnitude and a sign has both. -/
theorem toNat_signed_word (n : Bool) {mag : Nat} (h : mag < 2 ^ 31) :
    (BitVec.ofNat 32 (FloatTy.f32.signed n mag)).toNat % 2 ^ 31 = mag ∧
      decide ((BitVec.ofNat 32 (FloatTy.f32.signed n mag)).toNat / 2 ^ 31 % 2 = 1) = n := by
  rw [f32_signed, BitVec.toNat_ofNat]
  cases n
  · simp; omega
  · simp; omega

theorem fread_word_normal (n : Bool) {mag : Nat} (hlo : 2 ^ 23 ≤ mag) (hhi : mag < 0x7F800000) :
    fread .f32 (BitVec.ofNat 32 (FloatTy.f32.signed n mag)).toNat =
      .fin n (2 ^ 23 + mag % 2 ^ 23) ((mag / 2 ^ 23 : Nat) - 150) := by
  obtain ⟨hmag, hsign⟩ := toNat_signed_word n (mag := mag) (by omega)
  rw [fread_f32_normal (by rwa [hmag]) (by rwa [hmag]), hsign, hmag]

theorem fread_word_subnormal (n : Bool) {mag : Nat} (h : mag < 2 ^ 23) :
    fread .f32 (BitVec.ofNat 32 (FloatTy.f32.signed n mag)).toNat = .fin n mag (-149) := by
  obtain ⟨hmag, hsign⟩ := toNat_signed_word n (mag := mag) (by omega)
  rw [fread_f32_subnormal (by rwa [hmag]), hsign, hmag]

/-- The word of a power of two. -/
theorem fread_word_pow (n : Bool) {k : Nat} (hlo : 1 ≤ k) (hhi : k ≤ 254) :
    fread .f32 (BitVec.ofNat 32 (FloatTy.f32.signed n (k * 2 ^ 23))).toNat = .fin n (2 ^ 23) (k - 150) := by
  rw [fread_word_normal n (by omega) (by omega), Nat.mul_mod_left, Nat.add_zero, Nat.mul_div_cancel k (by decide)]

/-! ### NaNs, infinities, zeros and negative operands of the special functions (R242) -/

theorem specialFn_nan {x : Word} {q : Bool} (h : fread .f32 x.toNat = .nan q) (fn : SpecialFn) :
    specialFn fn x = (0x7FC00000, { nv := q }) := by
  unfold specialFn
  rw [h]
  cases fn <;> rfl

theorem specialFn_inf {x : Word} {n : Bool} (h : fread .f32 x.toNat = .inf n) :
    specialFn .rcp x = (FloatTy.f32.signed n 0, {}) ∧ specialFn .exp2 x = (if n then 0 else 0x7F800000, {}) ∧
      specialFn .tanh x = (FloatTy.f32.signed n 0x3F800000, {}) ∧ specialFn .sin x = (0x7FC00000, { nv := true }) ∧
      specialFn .cos x = (0x7FC00000, { nv := true }) ∧
      specialFn .rsq x = (if n then (0x7FC00000, { nv := true }) else (0, {})) ∧
      specialFn .sqrt x = (if n then (0x7FC00000, { nv := true }) else (0x7F800000, {})) ∧
      specialFn .log2 x = if n then (0x7FC00000, { nv := true }) else (0x7F800000, {}) := by
  unfold specialFn
  rw [h]
  cases n <;> exact ⟨rfl, rfl, rfl, rfl, rfl, rfl, rfl, rfl⟩

theorem specialFn_zero {x : Word} {n : Bool} {e : Int} (h : fread .f32 x.toNat = .fin n 0 e) :
    specialFn .rcp x = (FloatTy.f32.signed n 0x7F800000, { dz := true }) ∧
      specialFn .rsq x = (FloatTy.f32.signed n 0x7F800000, { dz := true }) ∧
      specialFn .sqrt x = (FloatTy.f32.signed n 0, {}) ∧ specialFn .exp2 x = (0x3F800000, {}) ∧
      specialFn .log2 x = (0xFF800000, { dz := true }) ∧ specialFn .sin x = (FloatTy.f32.signed n 0, {}) ∧
      specialFn .cos x = (0x3F800000, {}) ∧ specialFn .tanh x = (FloatTy.f32.signed n 0, {}) := by
  unfold specialFn
  rw [h]
  exact ⟨rfl, rfl, rfl, rfl, rfl, rfl, rfl, rfl⟩

/-- A finite operand that is not zero goes to its function's own course. -/
theorem specialFn_finite {x : Word} {n : Bool} {m : Nat} {e : Int} (h : fread .f32 x.toNat = .fin n m e) (hm : m ≠ 0) :
    specialFn .rcp x = sfRcp x n m e ∧ specialFn .rsq x = (if n then sfInvalid else sfRsq x m e) ∧
      specialFn .sqrt x = (if n then sfInvalid else sfSqrt m e) ∧ specialFn .exp2 x = sfExp2 x n m e ∧
      specialFn .log2 x = (if n then sfInvalid else sfLog2 x m e) ∧ specialFn .sin x = sfSin x n m e ∧
      specialFn .cos x = sfCos x n m e ∧ specialFn .tanh x = sfTanh x n m e := by
  obtain ⟨m, rfl⟩ := Nat.exists_eq_succ_of_ne_zero hm
  unfold specialFn
  rw [h]
  exact ⟨rfl, rfl, rfl, rfl, rfl, rfl, rfl, rfl⟩

/-! ### Half turns (R242) -/

/-- Twice a value that is `t` halves. -/
theorem twiceInt_of_halves (neg : Bool) {m t : Nat} {e : Int} (h : 2 * m * 2 ^ e.toNat = t * 2 ^ (-e).toNat) :
    twiceInt neg m e = some (if neg then -(t : Int) else t) := by
  have hsign (y : Nat) : (if neg then (-1 : Int) else 1) * (y : Int) = if neg then -(y : Int) else y := by cases neg <;> simp
  unfold twiceInt
  by_cases he : 0 ≤ e + 1
  · have hval : m * 2 ^ (e + 1).toNat = t := by
      rcases lt_or_ge e 0 with hneg | hpos
      · obtain rfl : e = -1 := by omega
        simpa [Nat.mul_comm] using h
      · rw [show (-e).toNat = 0 by omega, Nat.pow_zero, Nat.mul_one] at h
        rw [show (e + 1).toNat = e.toNat + 1 by omega, Nat.pow_succ, ← h]
        ring
    rw [if_pos he, ← hsign t, ← hval]
    push_cast
    rw [mul_assoc]
  · have hval : m = t * 2 ^ (-(e + 1)).toNat := by
      rw [show e.toNat = 0 by omega, show (-e).toNat = (-(e + 1)).toNat + 1 by omega, Nat.pow_succ] at h
      linarith
    have hpos : 0 < 2 ^ (-(e + 1)).toNat := by positivity
    rw [if_neg he, hval, if_pos (Nat.mul_mod_left ..), Nat.mul_div_cancel _ hpos, ← hsign t]

/-- An integer number of half turns. -/
theorem sin_cos_integer {x : Word} {n : Bool} {m k : Nat} {e : Int} (h : fread .f32 x.toNat = .fin n m e)
    (hv : m * 2 ^ e.toNat = k * 2 ^ (-e).toNat) (hk : 0 < k) :
    specialFn .sin x = (FloatTy.f32.signed n 0, {}) ∧ specialFn .cos x = (if k % 2 = 0 then 0x3F800000 else 0xBF800000, {}) := by
  have hm : m ≠ 0 := by
    rintro rfl
    have : 0 < k * 2 ^ (-e).toNat := by positivity
    omega
  obtain ⟨-, -, -, -, -, hsin, hcos, -⟩ := specialFn_finite h hm
  have htwice := twiceInt_of_halves n (t := 2 * k) (by rw [Nat.mul_assoc, hv, Nat.mul_assoc])
  have heven : (if n then -((2 * k : Nat) : Int) else ((2 * k : Nat) : Int)) % 2 = 0 := by cases n <;> simp
  rw [hsin, hcos, sfSin, sfCos, htwice]
  simp only [if_pos heven]
  refine ⟨trivial, ?_⟩
  have hodd : decide ((if n then -((2 * k : Nat) : Int) else ((2 * k : Nat) : Int)) % 4 = 2) = decide (k % 2 ≠ 0) := by
    rw [decide_eq_decide]
    cases n <;> simp <;> omega
  rw [hodd]
  by_cases heq : k % 2 = 0
  · rw [if_pos heq, decide_eq_false (not_not.mpr heq)]
    rfl
  · rw [if_neg heq, decide_eq_true heq]
    rfl

/-- Half of an odd number of half turns. -/
theorem sin_cos_half {x : Word} {n : Bool} {m k : Nat} {e : Int} (h : fread .f32 x.toNat = .fin n m e)
    (hv : 2 * m * 2 ^ e.toNat = (2 * k + 1) * 2 ^ (-e).toNat) :
    specialFn .sin x = (if (k % 2 = 0) ↔ n = false then 0x3F800000 else 0xBF800000, {}) ∧ specialFn .cos x = (0, {}) := by
  have hm : m ≠ 0 := by
    rintro rfl
    have : 0 < (2 * k + 1) * 2 ^ (-e).toNat := by positivity
    omega
  obtain ⟨-, -, -, -, -, hsin, hcos, -⟩ := specialFn_finite h hm
  have hodd : ¬(if n then -((2 * k + 1 : Nat) : Int) else ((2 * k + 1 : Nat) : Int)) % 2 = 0 := by cases n <;> simp
  rw [hsin, hcos, sfSin, sfCos, twiceInt_of_halves n hv]
  simp only [if_neg hodd]
  refine ⟨?_, trivial⟩
  have hneg : decide ((if n then -((2 * k + 1 : Nat) : Int) else ((2 * k + 1 : Nat) : Int)) % 4 = 3) =
      decide (¬(k % 2 = 0 ↔ n = false)) := by
    rw [decide_eq_decide]
    cases n <;> simp <;> omega
  rw [hneg]
  by_cases hpos : k % 2 = 0 ↔ n = false
  · rw [if_pos hpos, decide_eq_false (not_not.mpr hpos)]
    rfl
  · rw [if_neg hpos, decide_eq_true hpos]
    rfl

/-! ### Large operands (R242) -/

theorem sfInexact_one (n : Bool) : sfInexact (FloatTy.f32.signed n f32One) = (FloatTy.f32.signed n f32One, { nx := true }) := by
  cases n <;> decide

/-- Operands of VTANH of 9.125 and more. -/
theorem tanh_large {x : Word} (hlo : 0x41120000 ≤ x.toNat % 2 ^ 31) (hhi : x.toNat % 2 ^ 31 < 0x7F800000) :
    specialFn .tanh x = (if x.msb then 0xBF800000 else 0x3F800000, { nx := true }) := by
  have hbound : 8 * f32Fixed 0x41120000 = 73 * fixOne := by norm_num [f32Fixed, fixOne, fixBits]
  have hfin := fread_f32_normal (bits := x.toNat) (by omega) hhi
  obtain ⟨-, -, -, -, -, -, -, htanh⟩ := specialFn_finite hfin (by omega)
  have hbig : 73 * fixOne ≤ 8 *
      (toFix false (2 ^ 23 + x.toNat % 2 ^ 31 % 2 ^ 23) ((x.toNat % 2 ^ 31 / 2 ^ 23 : Nat) - 150)).toNat := by
    rw [toFix_normal, if_neg Bool.false_ne_true, one_mul, Int.toNat_natCast, ← hbound]
    exact Nat.mul_le_mul_left 8 (f32Fixed_strictMono.monotone hlo)
  have hsign : decide (x.toNat / 2 ^ 31 % 2 = 1) = x.msb := by
    have := x.isLt
    rw [BitVec.msb_eq_decide, decide_eq_decide]
    omega
  rw [htanh, sfTanh]
  simp only [if_pos hbig, sfInexact_one, hsign]
  cases x.msb <;> rfl

/-- Operands of VEXP2 of 128 and more. -/
theorem exp2_large {x : Word} (hlo : 0x43000000 ≤ x.toNat) (hhi : x.toNat < 0x7F800000) :
    specialFn .exp2 x = (0x7F800000, { ovf := true, nx := true }) := by
  have hbound : f32Fixed 0x43000000 = 128 * fixOne := by norm_num [f32Fixed, fixOne, fixBits]
  have hle : 128 * fixOne ≤ f32Fixed (x.toNat % 2 ^ 31) := hbound ▸ f32Fixed_strictMono.monotone (by omega)
  have hfin := fread_f32_normal (bits := x.toNat) (by omega) (by omega)
  have hsign : decide (x.toNat / 2 ^ 31 % 2 = 1) = false := decide_eq_false (by omega)
  obtain ⟨-, -, -, hexp, -⟩ := specialFn_finite hfin (by omega)
  have hbig : 128 * (fixOne : Int) ≤
      toFix false (2 ^ 23 + x.toNat % 2 ^ 31 % 2 ^ 23) ((x.toNat % 2 ^ 31 / 2 ^ 23 : Nat) - 150) := by
    rw [toFix_normal, if_neg Bool.false_ne_true, one_mul]
    exact_mod_cast hle
  rw [hexp, hsign, sfExp2]
  simp only [if_pos hbig]
  rfl

/-- Operands of VEXP2 below -150. -/
theorem exp2_small {x : Word} (hlo : 0xC3160000 < x.toNat) (hhi : x.toNat < 0xFF800000) :
    specialFn .exp2 x = (0, { unf := true, nx := true }) := by
  have hbound : f32Fixed 0x43160000 = 150 * fixOne := by norm_num [f32Fixed, fixOne, fixBits]
  have hlt : 150 * fixOne < f32Fixed (x.toNat % 2 ^ 31) := hbound ▸ f32Fixed_strictMono (by omega)
  have hlt' : 150 * (fixOne : Int) < f32Fixed (x.toNat % 2 ^ 31) := by exact_mod_cast hlt
  have hfin := fread_f32_normal (bits := x.toNat) (by omega) (by omega)
  have hsign : decide (x.toNat / 2 ^ 31 % 2 = 1) = true := decide_eq_true (by omega)
  obtain ⟨-, -, -, hexp, -⟩ := specialFn_finite hfin (by omega)
  have hsmall : toFix true (2 ^ 23 + x.toNat % 2 ^ 31 % 2 ^ 23) ((x.toNat % 2 ^ 31 / 2 ^ 23 : Nat) - 150) <
      -150 * (fixOne : Int) := by
    rw [toFix_normal, if_pos rfl]
    linarith
  have hnot : ¬128 * (fixOne : Int) ≤
      toFix true (2 ^ 23 + x.toNat % 2 ^ 31 % 2 ^ 23) ((x.toNat % 2 ^ 31 / 2 ^ 23 : Nat) - 150) := by
    have hpos : (0 : Int) ≤ fixOne := Int.natCast_nonneg fixOne
    exact not_le.mpr (by linarith)
  rw [hexp, hsign, sfExp2]
  simp only [if_neg hnot, if_pos hsmall]

/-! ### Powers of two and integers (R242) -/

theorem powerOfTwo_pow (p : Nat) (e : Int) : powerOfTwo (2 ^ p) e = some (e + p) := by
  rw [powerOfTwo, Nat.log2_two_pow, if_pos rfl]

theorem rcp_pow_normal (n : Bool) {k : Nat} (hlo : 1 ≤ k) (hhi : k ≤ 253) :
    specialFn .rcp (BitVec.ofNat 32 (FloatTy.f32.signed n (k * 2 ^ 23))) = (FloatTy.f32.signed n ((254 - k) * 2 ^ 23), {}) := by
  obtain ⟨hrcp, -⟩ := specialFn_finite (fread_word_pow n hlo (by omega)) (by decide)
  have hexp : (-((k : Int) - 150 + (23 : Nat)) + 127).toNat = 254 - k := by omega
  rw [hrcp, sfRcp, powerOfTwo_pow]
  simp only
  rw [roundTo_f32_pow_normal _ _ _ (by omega) (by omega), hexp]

theorem rcp_pow_subnormal (n : Bool) {k : Nat} (h : k < 22) :
    specialFn .rcp (BitVec.ofNat 32 (FloatTy.f32.signed n (2 ^ k))) =
      (FloatTy.f32.signed n 0x7F800000, { ovf := true, nx := true }) := by
  have hlt : 2 ^ k < 2 ^ 23 := Nat.pow_lt_pow_right (by decide) (by omega)
  obtain ⟨hrcp, -⟩ := specialFn_finite (fread_word_subnormal n hlt) (by positivity)
  rw [hrcp, sfRcp, powerOfTwo_pow]
  exact roundTo_f32_pow_overflow n (by omega)

theorem rsq_pow {k : Nat} (h : k ≤ 126) :
    specialFn .rsq (BitVec.ofNat 32 (FloatTy.f32.signed false ((2 * k + 1) * 2 ^ 23))) = ((190 - k) * 2 ^ 23, {}) := by
  obtain ⟨-, hrsq, -⟩ := specialFn_finite (fread_word_pow false (k := 2 * k + 1) (by omega) (by omega)) (by decide)
  have heven : ((2 * k + 1 : Nat) - 150 + (23 : Nat) : Int) % 2 = 0 := by omega
  have hexp : (-(((2 * k + 1 : Nat) - 150 + (23 : Nat) : Int) / 2) + 127).toNat = 190 - k := by omega
  rw [hrsq, if_neg Bool.false_ne_true, sfRsq, powerOfTwo_pow]
  simp only [if_pos heven]
  rw [roundTo_f32_pow_normal _ _ _ (by omega) (by omega), hexp]
  rfl

/-- The rounding of a small natural number raises no condition. -/
theorem roundTo_f32_natural_eq (neg : Bool) {k : Nat} (h : k < 2 ^ 24) :
    roundTo .f32 .rne false neg k 0 = ((roundTo .f32 .rne false neg k 0).1, {}) := by
  by_cases hk : k = 0
  · subst hk
    rfl
  · rw [roundTo_f32_natural _ _ _ hk h]

theorem log2_pow {k : Nat} (hlo : 1 ≤ k) (hhi : k ≤ 254) :
    specialFn .log2 (BitVec.ofNat 32 (FloatTy.f32.signed false (k * 2 ^ 23))) =
      ((roundTo .f32 .rne false (decide (k < 127)) ((k : Int) - 127).natAbs 0).1, {}) := by
  obtain ⟨-, -, -, -, hlog, -⟩ := specialFn_finite (fread_word_pow false hlo hhi) (by decide)
  have hexp : ((k : Int) - 150 + (23 : Nat)) = k - 127 := by omega
  have hsign : decide ((k : Int) - 127 < 0) = decide (k < 127) := decide_eq_decide.mpr (by omega)
  rw [hlog, if_neg Bool.false_ne_true, sfLog2, powerOfTwo_pow]
  simp only [hexp, hsign]
  exact roundTo_f32_natural_eq _ (by omega)

/-- The word of a natural number of at most 24 bits. -/
theorem fread_word_natural (n : Bool) {k : Nat} (hk : k ≠ 0) (h : k < 2 ^ 24) :
    fread .f32 (BitVec.ofNat 32 (roundTo .f32 .rne false n k 0).1).toNat =
      .fin n (k * 2 ^ (23 - Nat.log2 k)) ((Nat.log2 k : Int) - 23) := by
  have hlog : Nat.log2 k < 24 := (Nat.log2_lt hk).mpr h
  obtain ⟨hlow, htop⟩ := shifted_to_24 hk h
  rw [roundTo_f32_natural _ _ _ hk h, fread_word_normal n (by omega) (by omega)]
  generalize k * 2 ^ (23 - Nat.log2 k) = m at hlow htop
  congr 1 <;> omega

/-- VEXP2 of an integer in range is the power of two. -/
theorem sfExp2_integer (x : Word) {n : Bool} {m : Nat} {e t : Int} (hfix : toFix n m e = t * fixOne) (hlo : -149 ≤ t)
    (hhi : t < 128) (htwice : twiceInt n m e ≠ none) : sfExp2 x n m e = roundTo .f32 .rne false false 1 t := by
  have hpos : (0 : Int) < fixOne := by norm_num [fixOne, fixBits]
  have hbig : ¬128 * (fixOne : Int) ≤ t * fixOne := by
    rw [mul_le_mul_iff_left₀ hpos]
    omega
  have hsmall : ¬t * (fixOne : Int) < -150 * fixOne := by
    rw [mul_lt_mul_iff_left₀ hpos]
    omega
  rw [sfExp2, hfix]
  simp only [if_neg hbig, if_neg hsmall, Int.mul_ediv_cancel t hpos.ne', Int.mul_emod_left, Int.toNat_zero]
  rw [if_pos ⟨trivial, hlo, htwice⟩]

/-- The fixed-point value of a natural number read back from its word. -/
theorem toFix_natural (n : Bool) {k : Nat} (h : Nat.log2 k < 24) :
    toFix n (k * 2 ^ (23 - Nat.log2 k)) ((Nat.log2 k : Int) - 23) = (if n then -(k : Int) else k) * fixOne := by
  have hpos : (0 : Int) ≤ (Nat.log2 k : Int) - 23 + (fixBits : Nat) := by simp only [fixBits]; omega
  have hpow : 2 ^ (23 - Nat.log2 k) * 2 ^ ((Nat.log2 k : Int) - 23 + (fixBits : Nat)).toNat = fixOne := by
    rw [← Nat.pow_add, fixOne]
    congr 1
    simp only [fixBits]
    omega
  rw [toFix]
  simp only [if_pos hpos]
  rw [← hpow]
  split
  · push_cast
    ring
  · push_cast
    ring

theorem twiceInt_natural (n : Bool) {k : Nat} (h : Nat.log2 k < 24) :
    twiceInt n (k * 2 ^ (23 - Nat.log2 k)) ((Nat.log2 k : Int) - 23) ≠ none := by
  rw [twiceInt_of_halves n (t := 2 * k)]
  · exact Option.some_ne_none _
  · rw [show ((Nat.log2 k : Int) - 23).toNat = 0 by omega,
      show (-((Nat.log2 k : Int) - 23)).toNat = 23 - Nat.log2 k by omega]
    ring

theorem f32_signed_false (mag : Nat) : FloatTy.f32.signed false mag = mag := rfl

theorem exp2_integer (n : Bool) {k : Nat} (hlo : 1 ≤ k) (hhi : k ≤ if n then 149 else 127) :
    specialFn .exp2 (BitVec.ofNat 32 (roundTo .f32 .rne false n k 0).1) =
      (if n then (if k ≤ 126 then (127 - k) * 2 ^ 23 else 2 ^ (149 - k)) else (127 + k) * 2 ^ 23, {}) := by
  have hk : k ≤ 149 := by split at hhi <;> omega
  have hk0 : k ≠ 0 := by omega
  have hlog : Nat.log2 k < 24 := (Nat.log2_lt hk0).mpr (by omega)
  have hm : k * 2 ^ (23 - Nat.log2 k) ≠ 0 := by positivity
  obtain ⟨-, -, -, hexp, -⟩ := specialFn_finite (fread_word_natural n hk0 (by omega)) hm
  have hcourse (t : Int) (ht : t = if n then -(k : Int) else k) (hlo : -149 ≤ t) (hhi : t < 128) :
      specialFn .exp2 (BitVec.ofNat 32 (roundTo .f32 .rne false n k 0).1) = roundTo .f32 .rne false false 1 t := by
    rw [hexp, sfExp2_integer _ (ht ▸ toFix_natural n hlog) hlo hhi (twiceInt_natural n hlog)]
  cases n with
  | false =>
    have hk' : k ≤ 127 := hhi
    rw [hcourse k rfl (by omega) (by omega), roundTo_f32_pow_normal _ _ _ (by omega) (by omega), f32_signed_false,
      if_neg Bool.false_ne_true, show ((k : Int) + 127).toNat = 127 + k by omega]
  | true =>
    rw [hcourse (-k) rfl (by omega) (by omega), if_pos rfl]
    by_cases hn : k ≤ 126
    · rw [if_pos hn, roundTo_f32_pow_normal _ _ _ (by omega) (by omega), f32_signed_false,
        show (-(k : Int) + 127).toNat = 127 - k by omega]
    · rw [if_neg hn, roundTo_f32_pow_subnormal _ _ _ (by omega) (by omega), f32_signed_false,
        show (-(k : Int) + 149).toNat = 149 - k by omega]

/-! ### Counts of conditions (R231) -/

theorem satInc_eq (x : Word) : satInc x = if x = 0xFFFFFFFF then 0xFFFFFFFF else x + 1 := by
  have hones : BitVec.allOnes 32 = 0xFFFFFFFF := by decide
  rw [satInc, hones]
  split_ifs with h
  · exact h
  · rfl

/-- A count grows where its condition was raised, and the others stay. -/
theorem cellGet_countCond (raised : Bool) (key a : Nat) (m : Cells 32) :
    cellGet (countCond raised key m) a = if raised = true ∧ a = key then satInc (cellGet m a) else cellGet m a := by
  unfold countCond
  cases raised with
  | false => simp
  | true =>
    rw [if_pos rfl, cellGet_cellSet]
    by_cases h : a = key <;> simp [h]

/-- Counts of different cores, contexts or conditions have different keys. -/
theorem condKey_inj {core ctx i core' ctx' j : Nat} (hctx : ctx < 2 ^ 32) (hctx' : ctx' < 2 ^ 32) (hi : i < 8) (hj : j < 8) :
    condKey core ctx i = condKey core' ctx' j ↔ core = core' ∧ ctx = ctx' ∧ i = j := by
  unfold condKey
  omega

theorem cellGet_countConds (s : State) (t : Team) (c : Conds) {core ctx i : Nat} (hi : i < 5) (hctx : ctx < 2 ^ 32)
    (ht : t.ctx < 2 ^ 32) : cellGet (s.countConds t c).conds (condKey core ctx i) =
      if core = t.core ∧ ctx = t.ctx ∧ [c.nv, c.dz, c.ovf, c.unf, c.nx].getD i false then
        satInc (cellGet s.conds (condKey core ctx i))
      else cellGet s.conds (condKey core ctx i) := by
  have hkey (j : Nat) (hj : j < 8) := condKey_inj (core := core) (core' := t.core) hctx ht (i := i) (by omega) hj
  simp only [State.countConds, cellGet_countCond, hkey 0 (by decide), hkey 1 (by decide), hkey 2 (by decide), hkey 3 (by decide),
    hkey 4 (by decide)]
  interval_cases i <;> simp [and_comm, and_left_comm]

/-- Settles O10: each case of R230 to R236 and R242 by its own lemma, and the counts by their keys. -/
theorem floatSpecialCasesAndCounts : Obligations.FloatSpecialCasesAndCounts := by
  refine ⟨⟨fun t md sat x y h => froundSum_pair_nan t md sat _ h,
      fun t md sat n k y e => froundSum_zero_times_inf t md sat n k _ y e, froundSum_opposite_infs, rfl, rfl, rfl,
      fclassBits_one_bit⟩,
    fun x n q => ⟨specialFn_nan, specialFn_inf, fun e => specialFn_zero, fun m e h => ?negative, fun m e k => sin_cos_integer,
      fun m e k => sin_cos_half, tanh_large, exp2_large, exp2_small⟩,
    fun n k => ⟨fun hlo hhi => ?rcpNormal, fun h => ?rcpSubnormal, rsq_pow, log2_pow, exp2_integer n⟩,
    fun s t c core ctx i hi hctx ht => ⟨?count, rfl⟩⟩
  case negative =>
    obtain ⟨-, hrsq, hsqrt, -, hlog, -⟩ := specialFn_finite h (Nat.succ_ne_zero m)
    exact ⟨hrsq, hsqrt, hlog⟩
  case rcpNormal =>
    rw [← f32_signed, ← f32_signed]
    exact rcp_pow_normal n hlo hhi
  case rcpSubnormal =>
    rw [← f32_signed, ← f32_signed]
    exact rcp_pow_subnormal n h
  case count => rw [cellGet_countConds s t c hi hctx ht, satInc_eq]

end Sys2Proof.Machine
end

section

/-! PROOFS. Writes in flight that list a location twice (O33). -/

namespace Sys2Proof.Machine

/-- The reset state but for one write in flight, performed for the hosts and nowhere further, that lists the byte of
physical address 0 twice. -/
def twiceListed : State :=
  { State.reset with
    writes := [{ id := 0, seat := homeSeat, stream := none, lane := none, bytes := [(.phys 0, 1), (.phys 0, 2)], level := 5, deps := [] }]
    nextWrite := 1 }

theorem writesOk_twiceListed : WritesOk twiceListed :=
  ⟨List.nodup_singleton _, fun _ hw => List.mem_singleton.mp hw ▸ ⟨Nat.zero_lt_one, by decide⟩, List.pairwise_singleton _ _⟩

/-- A reader of the write takes the byte listed first (R314). -/
theorem finalByte_twiceListed : finalByte twiceListed (.phys 0) = 1 := rfl

/-- Performed everywhere, the write leaves the byte listed last. -/
theorem finalByte_performed_twiceListed : finalByte (twiceListed.performNext 0) (.phys 0) = 2 := rfl

/-- Refutes O33: a write performed everywhere stores its bytes one after another, so where it lists a location twice the
byte listed last stays, and readers took the one listed first until then. -/
theorem not_writesAndTranslationsAreCompletedByEvents : ¬ Obligations.WritesAndTranslationsAreCompletedByEvents := by
  unfold Obligations.WritesAndTranslationsAreCompletedByEvents
  intro ⟨_, _, hlast, _⟩
  obtain ⟨t, ht, _, hkept⟩ := hlast twiceListed [] [] _ rfl writesOk_twiceListed rfl fun x hx h => by
    rcases h with h | h <;> exact nomatch h
  have ht : twiceListed.performNext 0 = t := Host.Outcome.next.inj ht
  have hsame := hkept (.phys 0) trivial
  rw [← ht, finalByte_performed_twiceListed, finalByte_twiceListed] at hsame
  exact absurd hsame (by decide)

end Sys2Proof.Machine
end

section

/-! PROOFS. What keeps memory in its canonical form and the writes in flight in their order (O55). A state is related by
`Keeps` to the one the work on it began with; every function of the model that changes the state has a lemma `Keeps.<function>`,
which goes through its branches and names for each the functions called there. -/

namespace Sys2Proof.Machine

/-! ### Order of the writes in flight (R314) -/

/-- The writes in flight are distinct, older than the next one, and of two that meet the earlier is performed at least as far;
unlike in `WritesOk`, some may be performed everywhere already. -/
def WritesOrdered (s : State) : Prop :=
  (s.writes.map PWrite.id).Nodup ∧ (∀ w ∈ s.writes, w.id < s.nextWrite) ∧
    s.writes.Pairwise fun x y => x.meets y = true → y.level ≤ x.level

theorem WritesOk.ordered {s : State} (h : WritesOk s) : WritesOrdered s :=
  ⟨h.1, fun w hw => (h.2.1 w hw).1, h.2.2⟩

/-- Leaving out what is performed everywhere leaves writes in order. -/
theorem WritesOrdered.unsettled {s t : State} (h : WritesOrdered s)
    (hw : t.writes = s.writes.filter fun w => decide (w.level < 6)) (hn : t.nextWrite = s.nextWrite) : WritesOk t := by
  obtain ⟨hids, hnext, hpair⟩ := h
  have hsub : t.writes.Sublist s.writes := hw ▸ List.filter_sublist
  refine ⟨hids.sublist (hsub.map _), fun w hmem => ⟨hn ▸ hnext w (hsub.subset hmem), ?_⟩, hpair.sublist hsub⟩
  rw [hw, List.mem_filter] at hmem
  exact of_decide_eq_true hmem.2

/-- A change of every write that keeps its number and its locations keeps the order, if it keeps that of levels. -/
theorem WritesOrdered.map {s t : State} (h : WritesOrdered s) {f : PWrite → PWrite} (hw : t.writes = s.writes.map f)
    (hn : t.nextWrite = s.nextWrite) (hid : ∀ w, (f w).id = w.id)
    (hl : s.writes.Pairwise fun x y => (f x).meets (f y) = true → (f y).level ≤ (f x).level) : WritesOrdered t := by
  obtain ⟨hids, hnext, -⟩ := h
  refine ⟨?_, ?_, ?_⟩
  · rw [hw, List.map_map, show PWrite.id ∘ f = PWrite.id from funext hid]
    exact hids
  · rw [hw, hn]
    intro w hmem
    obtain ⟨x, hx, rfl⟩ := List.mem_map.mp hmem
    rw [hid]
    exact hnext x hx
  · rw [hw]
    exact List.pairwise_map.mpr hl

theorem neededFor_subset (p : PWrite → Bool) (l : List PWrite) : neededFor p l ⊆ l := by
  induction l with
  | nil => exact List.Subset.refl _
  | cons w l ih =>
    simp only [neededFor]
    split
    · exact List.cons_subset_cons w ih
    · exact fun x hx => List.mem_cons_of_mem w (ih hx)

/-- What meets a needed write and comes before it is needed as well (R314). -/
theorem neededFor_closed (p : PWrite → Bool) {l : List PWrite} (hids : (l.map PWrite.id).Nodup) :
    l.Pairwise fun x y => x.meets y = true → y.id ∈ (neededFor p l).map PWrite.id → x.id ∈ (neededFor p l).map PWrite.id := by
  induction l with
  | nil => exact List.Pairwise.nil
  | cons w l ih =>
    rw [List.map_cons, List.nodup_cons] at hids
    obtain ⟨hfresh, hids⟩ := hids
    have hmem (y : PWrite) (hy : y ∈ l) : y.id ∈ (neededFor p (w :: l)).map PWrite.id → y ∈ neededFor p l := by
      intro h
      have hne : y.id ≠ w.id := fun he => hfresh (he ▸ List.mem_map_of_mem hy)
      obtain ⟨z, hz, he⟩ := List.mem_map.mp h
      have hz : z ∈ neededFor p l := by
        simp only [neededFor] at hz
        split at hz
        · rcases List.mem_cons.mp hz with rfl | hz
          · exact absurd he.symm hne
          · exact hz
        · exact hz
      exact List.inj_on_of_nodup_map hids hy (neededFor_subset p l hz) he.symm ▸ hz
    refine List.pairwise_cons.mpr ⟨fun y hy hmeets hneed => ?_, (ih hids).imp_of_mem fun {x y} hx hy hclosed hmeets hneed => ?_⟩
    · have hw : (p w || (neededFor p l).any fun y => y.deps.contains w.id || w.meets y) = true := by
        rw [Bool.or_eq_true]
        exact .inr (List.any_eq_true.mpr ⟨y, hmem y hy hneed, by simp [hmeets]⟩)
      rw [neededFor, if_pos hw]
      exact List.mem_cons_self
    · have hx := hclosed hmeets (List.mem_map_of_mem (hmem y hy hneed))
      simp only [neededFor]
      split
      · exact List.mem_cons_of_mem _ hx
      · exact hx

/-- What a release raises stays in order (R314, R316). -/
theorem WritesOrdered.raise {s : State} (h : WritesOrdered s) (lvl : Nat) (p : PWrite → Bool) :
    WritesOrdered { s with writes := s.writes.map fun w =>
      if ((neededFor p s.writes).map PWrite.id).contains w.id then { w with level := max w.level lvl } else w } := by
  refine h.map rfl rfl (fun w => by split <;> rfl) (((neededFor_closed p h.1).and h.2.2).imp fun {x y} hboth hmeets => ?_)
  obtain ⟨hclosed, hle⟩ := hboth
  have hmeets : x.meets y = true := by
    split at hmeets <;> split at hmeets <;> exact hmeets
  have hle := hle hmeets
  have hclosed := hclosed hmeets
  simp only [← List.contains_iff_mem] at hclosed
  split
  · next hy =>
    rw [if_pos (hclosed hy)]
    exact max_le_max_right lvl hle
  · split
    · exact hle.trans (le_max_left _ _)
    · exact hle

/-- A write that no earlier one in its way holds back goes one scope further in order (R314). -/
theorem WritesOrdered.next {s : State} (h : WritesOrdered s) (id : Nat) (lvl : Nat)
    (hlvl : ∀ w ∈ s.writes, w.id = id → w.level ≤ lvl)
    (hpre : s.writes.Pairwise fun x y => y.id = id → x.meets y = true → lvl ≤ x.level) :
    WritesOrdered { s with writes := s.writes.map fun x => if x.id = id then { x with level := lvl } else x } := by
  refine h.map rfl rfl (fun w => by split <;> rfl) ?_
  refine (((List.Pairwise.and h.2.2 hpre)).imp_of_mem fun {x y} hx hy hboth hmeets => ?_)
  obtain ⟨hle, hfar⟩ := hboth
  have hmeets : x.meets y = true := by
    split at hmeets <;> split at hmeets <;> exact hmeets
  split
  · next he =>
    split
    · exact le_rfl
    · exact hfar he hmeets
  · split
    · next he => exact (hle hmeets).trans (hlvl x hx he)
    · exact hle hmeets

/-! ### What work on memory keeps -/

/-- Nothing has come into sight of the outside: the same contexts, shootdown and peers, and no entry of another host. -/
structure Inside (o s : State) : Prop where
  ctxs : s.ctxs = o.ctxs
  shoot : s.shoot = o.shoot
  hostsLost : s.hostsLost = o.hostsLost
  routes : s.routes = o.routes
  peersLost : s.peersLost = o.peersLost
  remote : s.remote = o.remote
  hosts : ∀ x ∈ s.hostLines, ∃ y ∈ o.hostLines, y.host = x.host

theorem Inside.refl (s : State) : Inside s s := ⟨rfl, rfl, rfl, rfl, rfl, rfl, fun x hx => ⟨x, hx, rfl⟩⟩

/-- On the way from `o` to `s` memory has stayed in its canonical form and the writes in flight in their order, and where `b`
says so nothing has come into sight of the outside. -/
structure Keeps (b : Bool) (o s : State) : Prop where
  mem : MemOk o → MemOk s
  writes : WritesOk o → WritesOk s
  inside : b = true → Inside o s

theorem Keeps.refl {b : Bool} {s : State} : Keeps b s s := ⟨id, id, fun _ => .refl s⟩

variable {b : Bool} {o s t : State}

theorem Keeps.weak (h : Keeps b o s) : Keeps false o s := ⟨h.mem, h.writes, fun h => nomatch h⟩

/-- The parts of the state that `Keeps false` speaks of. -/
def State.core (s : State) : Cells 8 × List PWrite × Nat := (s.mem, s.writes, s.nextWrite)

/-- The parts of the state that `Inside` speaks of. -/
def State.edge (s : State) : List Context × Shoot × List Nat × List (Nat × Nat) × List Nat × List RemoteReq × List HostLine :=
  (s.ctxs, s.shoot, s.hostsLost, s.routes, s.peersLost, s.remote, s.hostLines)

theorem Inside.of_edge (h : Inside o s) (e : t.edge = s.edge) : Inside o t := by
  simp only [State.edge, Prod.mk.injEq] at e
  obtain ⟨hctxs, hshoot, hlost, hroutes, hpeers, hremote, hlines⟩ := e
  exact ⟨hctxs.trans h.ctxs, hshoot.trans h.shoot, hlost.trans h.hostsLost, hroutes.trans h.routes, hpeers.trans h.peersLost,
    hremote.trans h.remote, hlines ▸ h.hosts⟩

theorem MemOk.of_core (h : MemOk s) (e : t.core = s.core) : MemOk t := by
  simp only [State.core, Prod.mk.injEq] at e
  exact (congrArg (fun m => Memory.wf m = true) e.1).mpr h

theorem WritesOk.of_core (h : WritesOk s) (e : t.core = s.core) : WritesOk t := by
  simp only [State.core, Prod.mk.injEq] at e
  obtain ⟨-, hw, hn⟩ := e
  unfold WritesOk at h ⊢
  rwa [hw, hn]

/-- A change of neither memory nor the writes in flight. -/
theorem Keeps.frame (h : Keeps false o s) (e : t.core = s.core := by dsimp only [State.core]) : Keeps false o t :=
  ⟨fun ho => (h.mem ho).of_core e, fun ho => (h.writes ho).of_core e, fun h => nomatch h⟩

/-- A change of none of the parts that `Keeps` speaks of. -/
theorem Keeps.free (h : Keeps b o s) (e : (t.core, t.edge) = (s.core, s.edge) := by dsimp only [State.core, State.edge]) :
    Keeps b o t := by
  obtain ⟨hc, he⟩ := Prod.mk.inj e
  exact ⟨fun ho => (h.mem ho).of_core hc, fun ho => (h.writes ho).of_core hc, fun hb => (h.inside hb).of_edge he⟩

theorem Keeps.fst {α : Type} {r : State × α} {x : α} (h : Keeps b o r.1) (e : r = (s, x)) : Keeps b o s := by
  subst e
  exact h

/-- `Keeps` of a state that is answered together with a value. -/
def Leaves {α : Type} (b : Bool) (o : State) (r : State × α) : Prop := Keeps b o r.1

theorem Leaves.fst {α : Type} {r : State × α} {x : α} (h : Leaves b o r) (e : r = (s, x)) : Keeps b o s := Keeps.fst h e

theorem Keeps.foldl {α : Type} {f : State → α → State} {l : List α} (h : Keeps b o s)
    (hf : ∀ s x, Keeps b o s → Keeps b o (f s x)) : Keeps b o (l.foldl f s) := by
  induction l generalizing s with
  | nil => exact h
  | cons x l ih => exact ih (hf s x h)

/-- A fold that carries more than the state. -/
theorem Keeps.foldl_fst {α β : Type} {f : State × β → α → State × β} {l : List α} {a : State × β} (h : Keeps b o a.1)
    (hf : ∀ a x, Keeps b o a.1 → Keeps b o (f a x).1) : Keeps b o (l.foldl f a).1 := by
  induction l generalizing a with
  | nil => exact h
  | cons x l ih => exact ih (hf a x h)

/-- Writing cells of memory. -/
theorem Keeps.cells (h : Keeps b o s) {l} (em : t.mem = cellSetAll s.mem l) (ew : t.writes = s.writes)
    (en : t.nextWrite = s.nextWrite) (ee : t.edge = s.edge) : Keeps b o t := by
  refine ⟨fun ho => ?_, fun ho => ?_, fun hb => (h.inside hb).of_edge ee⟩
  · unfold MemOk
    rw [em]
    exact cellSetAll_wf (h.mem ho) l
  · have := h.writes ho
    unfold WritesOk at this ⊢
    rwa [ew, en]

/-- Losing cells of memory. -/
theorem Keeps.lost (h : Keeps b o s) {p} (em : t.mem = cellFilter p s.mem) (ew : t.writes = s.writes)
    (en : t.nextWrite = s.nextWrite) (hi : b = true → Inside o t) : Keeps b o t := by
  refine ⟨fun ho => ?_, fun ho => ?_, hi⟩
  · unfold MemOk
    rw [em]
    exact cellFilter_wf p (h.mem ho)
  · have := h.writes ho
    unfold WritesOk at this ⊢
    rwa [ew, en]

/-! ### Writes -/

theorem Keeps.modTeam (h : Keeps b o s) {id f} : Keeps b o (s.modTeam id f) := h.free rfl

theorem Keeps.modSeg (h : Keeps b o s) {c n f} : Keeps b o (s.modSeg c n f) := h.free rfl

theorem Keeps.dropDecoded (h : Keeps b o s) {lines} : Keeps b o (s.dropDecoded lines) := h.free rfl

theorem Keeps.setBase (h : Keeps b o s) {l x} : Keeps b o (setBase s l x) := by
  cases l with
  | phys a => exact h.cells (l := [(a, x)]) rfl rfl rfl rfl
  | scratch t p => exact h.modTeam
  | seg c n p => exact h.modSeg

/-- Writes go where they are performed everywhere, whatever state they are taken from. -/
theorem Keeps.settle (hm : MemOk o → MemOk s) (hw : WritesOk o → WritesOrdered s) (hi : b = true → Inside o s) :
    Keeps b o s.settle := by
  refine Keeps.foldl ?_ fun s w h => h.foldl fun s x h => h.setBase
  exact ⟨hm, fun ho => (hw ho).unsettled rfl rfl, fun hb => (hi hb).of_edge rfl⟩

theorem Keeps.perform (h : Keeps b o s) {lvl p} : Keeps b o (s.perform lvl p) :=
  .settle h.mem (fun ho => (h.writes ho).ordered.raise lvl p) fun hb => (h.inside hb).of_edge rfl

theorem Keeps.snoop (h : Keeps b o s) {line inv} : Keeps b o (s.snoop line inv) := by
  unfold State.snoop
  split
  · exact h
  · exact h.free

/-- The write with a number, and what stands before it. -/
theorem takeWhile_before {l : List PWrite} (hids : (l.map PWrite.id).Nodup) (id : Nat) :
    l.Pairwise fun x y => y.id = id → x ∈ l.takeWhile fun x => x.id ≠ id := by
  induction l with
  | nil => exact List.Pairwise.nil
  | cons w l ih =>
    rw [List.map_cons, List.nodup_cons] at hids
    refine List.pairwise_cons.mpr ⟨fun y hy he => ?_, (ih hids.2).imp_of_mem fun {x y} hx hy hin he => ?_⟩
    all_goals
      have hne : w.id ≠ id := fun hw => hids.1 (hw.trans he.symm ▸ List.mem_map_of_mem hy)
      simp only [List.takeWhile_cons, decide_eq_true hne, if_true]
    · exact List.mem_cons_self
    · exact List.mem_cons_of_mem _ (hin he)

/-- The write with a number goes one scope further, where nothing that meets it comes before it and is not further on. -/
theorem Keeps.oneFurther (h : Keeps b o s) {id : Nat} {w : PWrite} (hfind : s.writes.find? (fun w => w.id = id) = some w)
    (hfree : ∀ x ∈ s.writes, x ∈ s.writes.takeWhile (fun x => x.id ≠ id) → x.meets w = true → w.level < x.level) :
    Keeps b o (State.settle
      { s with writes := s.writes.map fun x => if x.id = id then { x with level := w.level + 1 } else x }) := by
  refine .settle h.mem (fun ho => ?_) fun hb => (h.inside hb).of_edge rfl
  have hok := (h.writes ho).ordered
  have hid : w.id = id := by simpa using List.find?_some hfind
  have honly (x : PWrite) (hx : x ∈ s.writes) (he : x.id = id) : x = w :=
    List.inj_on_of_nodup_map hok.1 hx (List.mem_of_find?_eq_some hfind) (he.trans hid.symm)
  refine hok.next id (w.level + 1) (fun x hx he => honly x hx he ▸ Nat.le_succ _) ?_
  exact (takeWhile_before hok.1 id).imp_of_mem fun {x y} hx hy hbefore he hmeets =>
    hfree x hx (hbefore he) (honly y hy he ▸ hmeets)

theorem Keeps.performNext (h : Keeps b o s) {id} : Keeps b o (s.performNext id) := by
  unfold State.performNext
  split
  · exact h
  next w hfind =>
    dsimp only
    split
    · exact h
    next hblocked =>
      have hgo := h.oneFurther hfind fun x hx hbefore hmeets => by
        by_contra hlow
        refine hblocked (List.any_eq_true.mpr ⟨x, hx, ?_⟩)
        have hany : ((s.writes.takeWhile fun x => x.id ≠ id).any fun y => decide (y.id = x.id)) = true :=
          List.any_eq_true.mpr ⟨x, hbefore, decide_eq_true rfl⟩
        simp only [hany, hmeets, Bool.and_true, Bool.or_true, Bool.true_and, decide_eq_true_eq]
        omega
      split
      · split
        · exact h.foldl fun s x h => h.snoop
        · exact hgo
      · exact hgo

theorem Keeps.hostYield (h : Keeps b o s) {line inv} : Keeps b o (s.hostYield line inv) := by
  unfold State.hostYield
  split
  · exact h
  next x hx =>
    refine ⟨fun ho => cellSetAll_wf (h.mem ho) _, fun ho => h.writes ho, fun hb => ?_⟩
    have hin := h.inside hb
    refine ⟨hin.ctxs, hin.shoot, hin.hostsLost, hin.routes, hin.peersLost, hin.remote, fun y hy => ?_⟩
    dsimp only at hy
    split at hy
    · exact hin.hosts y (List.mem_filter.mp hy).1
    · obtain ⟨z, hz, rfl⟩ := List.mem_map.mp hy
      obtain ⟨u, hu, he⟩ := hin.hosts z hz
      exact ⟨u, hu, by split <;> exact he⟩

theorem Keeps.writeNow (h : Keeps b o s) {bytes} : Keeps b o (s.writeNow bytes) :=
  (h.perform.foldl fun _ _ h => h.hostYield).dropDecoded.foldl fun _ _ h => h.setBase

/-- A write put behind the others, numbered after them and performed nowhere yet. -/
theorem WritesOk.append (h : WritesOk s) {w : PWrite} (hid : w.id = s.nextWrite) (hlvl : w.level = 0) :
    WritesOk { s with writes := s.writes ++ [w], nextWrite := s.nextWrite + 1 } := by
  obtain ⟨hids, hnext, hpair⟩ := h
  refine ⟨?_, fun x hx => ?_, ?_⟩
  · simp only [List.map_append, List.map_cons, List.map_nil]
    refine hids.append (List.nodup_singleton _) (List.disjoint_singleton.mpr fun hmem => ?_)
    obtain ⟨x, hx, he⟩ := List.mem_map.mp hmem
    have := (hnext x hx).1
    omega
  · rcases List.mem_append.mp hx with hx | hx
    · exact ⟨Nat.lt_succ_of_lt (hnext x hx).1, (hnext x hx).2⟩
    · rw [List.mem_singleton.mp hx, hid, hlvl]
      exact ⟨Nat.lt_succ_self _, by decide⟩
  · refine List.pairwise_append.mpr ⟨hpair, List.pairwise_singleton _ _, fun x _ y hy _ => ?_⟩
    rw [List.mem_singleton.mp hy, hlvl]
    exact Nat.zero_le _

theorem Keeps.append (h : Keeps b o s) {w : PWrite} (hid : w.id = s.nextWrite) (hlvl : w.level = 0) :
    Keeps b o { s with writes := s.writes ++ [w], nextWrite := s.nextWrite + 1 } :=
  ⟨h.mem, fun ho => (h.writes ho).append hid hlvl, fun hb => (h.inside hb).of_edge rfl⟩

theorem Keeps.addWrite (h : Keeps b o s) {seat k lane deps bytes} : Keeps b o (s.addWrite seat k lane deps bytes) := by
  refine Keeps.append (h.foldl fun s x h => ?_) rfl rfl
  split
  · exact h.modSeg
  · exact h

theorem PWrite.at?_filter {w : PWrite} {p : Loc → Bool} {l : Loc}
    (h : ({ w with bytes := w.bytes.filter fun x => !p x.1 } : PWrite).at? l ≠ none) : w.at? l ≠ none := by
  simp only [PWrite.at?, ne_eq, Option.map_eq_none_iff, List.find?_eq_none, not_forall] at h ⊢
  obtain ⟨x, hx, he⟩ := h
  exact ⟨x, (List.mem_filter.mp hx).1, he⟩

/-- Two writes that meet without some of their bytes meet with them. -/
theorem PWrite.meets_filter {x y : PWrite} {p : Loc → Bool}
    (h : ({ x with bytes := x.bytes.filter fun z => !p z.1 } : PWrite).meets
      { y with bytes := y.bytes.filter fun z => !p z.1 } = true) : x.meets y = true := by
  obtain ⟨z, hz, hat⟩ := List.any_eq_true.mp h
  refine List.any_eq_true.mpr ⟨z, (List.mem_filter.mp hz).1, ?_⟩
  rw [Option.isSome_iff_ne_none] at hat ⊢
  exact PWrite.at?_filter hat

theorem Keeps.dropBytes (h : Keeps b o s) {p} : Keeps b o (s.dropBytes p) := by
  refine ⟨h.mem, fun ho => ?_, fun hb => (h.inside hb).of_edge rfl⟩
  have hok := h.writes ho
  obtain ⟨hids, hnext, hpair⟩ := hok.ordered.map (t := s.dropBytes p) rfl rfl (fun _ => rfl)
    (hok.2.2.imp fun hle hmeets => hle (PWrite.meets_filter hmeets))
  refine ⟨hids, fun w hw => ⟨hnext w hw, ?_⟩, hpair⟩
  obtain ⟨x, hx, rfl⟩ := List.mem_map.mp hw
  exact (hok.2.1 x hx).2

/-! ### Outcomes -/

/-- Where the operation or event goes on, memory and the writes in flight have been kept. -/
def Ends (o : State) (r : Host.Outcome State Fault Refusal) : Prop := ∀ t, r = .next t → Keeps false o t

theorem Keeps.next (h : Keeps b o s) : Ends o (.next s) := by
  rintro t ⟨⟩
  exact h.weak

theorem Ends.fault {o : State} {f : Fault} : Ends o (.fault f) := fun _ h => nomatch h

theorem Ends.unsupported {o : State} {r : Refusal} : Ends o (.refused r) := fun _ h => nomatch h

/-- Where there is a state at all, memory and the writes in flight have been kept on the way to it. -/
def MayKeep (b : Bool) (o : State) (r : Option State) : Prop := ∀ t, r = some t → Keeps b o t

theorem Keeps.may (h : Keeps b o s) : MayKeep b o (some s) := fun _ e => Option.some.inj e ▸ h

theorem MayKeep.none : MayKeep b o none := fun _ e => nomatch e

theorem MayKeep.findSome? {α : Type} {f : α → Option State} {l : List α} (hf : ∀ x, MayKeep b o (f x)) :
    MayKeep b o (l.findSome? f) := by
  intro t e
  obtain ⟨x, -, he⟩ := List.exists_of_findSome?_eq_some e
  exact hf x t he

theorem MayKeep.orElse {r : Option State} {f : Unit → Option State} (hr : MayKeep b o r) (hf : MayKeep b o (f ())) :
    MayKeep b o (r.orElse f) := by
  cases r with
  | none => exact hf
  | some s => exact hr

theorem MayKeep.getD {r : Option State} (hr : MayKeep b o r) (h : Keeps b o s) : Keeps b o (r.getD s) := by
  cases r with
  | none => exact h
  | some s => exact hr s rfl

end Sys2Proof.Machine
end

section

/-! PROOFS. Memory and the writes in flight in operations, memory, the Almanac, translation and accesses (O55). -/

namespace Sys2Proof.Machine

-- Many of these lemmas split the same definition: one after another, so that none waits in a thread of its own.
set_option Elab.async false

variable {b : Bool} {o s t : State}

/-! ### Operations -/

theorem Keeps.setWave (h : Keeps b o s) {sl w} : Keeps b o (State.setWave s sl w) := h.modTeam

theorem Keeps.modCtx (h : Keeps false o s) {n f} : Keeps false o (State.modCtx s n f) := h.frame rfl

theorem Keeps.putSlot (h : Keeps b o s) {v p} : Keeps b o (State.putSlot s v p) := h.setWave

theorem Keeps.putWave (h : Keeps b o s) {v w} : Keeps b o (State.putWave s v w) := h.setWave

theorem Keeps.addRec (h : Keeps b o s) {r₁ priv} : Keeps b o (State.addRec s r₁ priv) := by
  unfold State.addRec
  extract_lets
  split
  · exact h
  · exact h.free

theorem Keeps.charge (h : Keeps b o s) {ctx code addr info2} : Keeps b o (State.charge s ctx code addr info2) :=
  h.addRec

theorem Keeps.dropWaits (h : Keeps b o s) {q} : Keeps b o (State.dropWaits s q) := h.free rfl

theorem Keeps.stopWave (h : Keeps b o s) {sl} : Keeps b o (State.stopWave s sl) := by
  unfold State.stopWave
  extract_lets s1
  have h1 : Keeps b o s1 := h.modTeam
  exact h1.dropWaits

theorem Keeps.killWave (h : Keeps false o s) {v cause} : Keeps false o (State.killWave s v cause) := by
  unfold State.killWave
  extract_lets _ _ _ _ s1 s2 s3
  have h1 : Keeps false o s1 := h.modCtx
  have h2 : Keeps false o s2 := h1.addRec
  have h3 : Keeps false o s3 := by
    dsimp only [s3]
    split
    · exact h2
    · exact h2.free
  exact h3.stopWave

theorem Keeps.stopSlot (h : Keeps b o s) {v r₁} : Keeps b o (State.stopSlot s v r₁) := h.addRec.putSlot

theorem Keeps.issue (h : Keeps false o s) {causes wait run} (hrun : ∀ v, Keeps false o (run v)) :
    Ends o (Machine.issue s causes wait run) := by
  unfold Machine.issue
  split
  · exact .fault
  · split
    · exact h.killWave.next
    · split
      · exact h.putSlot.next
      · exact (hrun _).next

/-! ### Memory -/

theorem Keeps.fillDecoded (h : Keeps b o s) {r₁ w q n} : Keeps b o (State.fillDecoded s r₁ w q n) := h.free rfl

theorem Keeps.recall (h : Keeps b o s) {keep lines} : Keeps b o (State.recall s keep lines) := h.free rfl

theorem Keeps.grant (h : Keeps b o s) {core line} : Keeps b o (State.grant s core line) := by
  unfold State.grant
  extract_lets s1
  have h1 : Keeps b o s1 := h.recall
  split <;> exact h1.free

theorem Keeps.placeAtomic (h : Keeps b o s) {core pl line} : Keeps b o (State.placeAtomic s core pl line) := by
  unfold State.placeAtomic
  extract_lets _ s1
  have h1 : Keeps b o s1 := h.recall
  split
  · exact h.grant
  · split
    · exact h1
    · exact h1.free

theorem Keeps.execPredictorDecay (h : Keeps false o s) {line} : Ends o (Machine.execPredictorDecay line s) :=
  h.free.next

theorem Keeps.execWritePerform (h : Keeps false o s) {id} : Ends o (Machine.execWritePerform id s) :=
  h.performNext.next

theorem Keeps.releaseWrites (h : Keeps b o s) {seat own scope} : Keeps b o (State.releaseWrites s seat own scope) :=
  h.perform

/-! ### The Almanac -/

theorem Keeps.almAsk (h : Keeps b o s) : Keeps b o (State.almAsk s) := h.foldl fun _ _ h => h.snoop

theorem Keeps.almWrite (h : Keeps b o s) {off data} : Keeps b o (s.almWrite off data) := by
  unfold State.almWrite
  split
  · exact h
  · exact h.cells rfl rfl rfl rfl

theorem Keeps.almWriteEntry (h : Keeps b o s) {evt ctx data} : Keeps b o (State.almWriteEntry s evt ctx data) := by
  unfold State.almWriteEntry
  extract_lets _ _ _ s1 _ s2 _ s3
  have h1 : Keeps b o s1 := h.almWrite
  have h2 : Keeps b o s2 := h1.free
  have h3 : Keeps b o s3 := h2.almWrite
  split
  · exact h3.free
  · exact h2

theorem Keeps.almAppend (h : Keeps b o s) {evt ctx data} : Keeps b o (State.almAppend s evt ctx data) := by
  unfold State.almAppend
  split
  · exact h.almWriteEntry
  · exact h.free

theorem Keeps.almDrain (h : Keeps b o s) {n} : Keeps b o (s.almDrain n) := by
  induction n generalizing s with
  | zero => exact h
  | succ n ih =>
    unfold State.almDrain
    split
    · exact h
    · split
      · exact ih h.free.almWriteEntry
      · exact h

theorem Keeps.almFlush (h : Keeps b o s) : Keeps b o (State.almFlush s) := h.almDrain

theorem Keeps.execAlmbaseWrite (h : Keeps false o s) {v} : Ends o (Machine.execAlmbaseWrite v s) := by
  unfold Machine.execAlmbaseWrite
  extract_lets
  split
  · exact h.next
  · exact h.free.almFlush.next

theorem Keeps.execAlmack (h : Keeps false o s) {k} : Ends o (Machine.execAlmack k s) := h.free.almFlush.next

theorem Keeps.execAlmanacPortSelect (h : Keeps false o s) {v} : Ends o (Machine.execAlmanacPortSelect v s) :=
  h.free.next

theorem Keeps.meter (h : Keeps b o s) {c n} : MayKeep b o (State.meter s c n) := by
  unfold State.meter
  split
  · exact h.may
  · extract_lets e crossed s1
    have h1 : Keeps b o s1 := h.free
    split
    · exact .none
    · refine Keeps.may ?_
      split
      · exact h1.almAppend
      · exact h1

theorem Keeps.refillEgress (h : Keeps b o s) {ns} : Keeps b o (State.refillEgress s ns) := h.free rfl

theorem Keeps.meterWait (h : Keeps b o s) {m} : Keeps b o (State.meterWait s m) := by
  unfold State.meterWait
  split
  · exact h
  · exact h.free

theorem Keeps.meterDone (h : Keeps b o s) {w} : Keeps b o (State.meterDone s w) := h.free rfl

theorem Keeps.countConds (h : Keeps b o s) {t₁ c} : Keeps b o (State.countConds s t₁ c) := h.free rfl

theorem Keeps.aluRun (h : Keeps b o s) {m f r₁ v} : Keeps b o (Machine.aluRun m f r₁ v s) := h.putWave

theorem Keeps.alu (h : Keeps false o s) {m f r₁} : Ends o (Machine.alu m f r₁ s) := h.issue fun _ => h.aluRun

theorem Keeps.aluFloat (h : Keeps false o s) {m f r₁ g} : Ends o (Machine.aluFloat m f r₁ g s) :=
  h.issue fun _ => h.aluRun.countConds

theorem Keeps.lateRun (h : Keeps b o s) {f q v} : Keeps b o (Machine.lateRun f q v s) := h.putSlot

theorem Keeps.late (h : Keeps false o s) {m c f q g} : Ends o (Machine.late m c f q g s) :=
  h.issue fun _ => h.lateRun.countConds

/-! ### Translation -/

theorem Keeps.orPte (h : Keeps b o s) {a bits} : Keeps b o (Machine.orPte s a bits) := h.recall.writeNow

theorem Keeps.recallWalk (h : Keeps b o s) {va n base} : Keeps b o (State.recallWalk s va n base) := h.recall

theorem Keeps.walk (h : Keeps b o s) {ctx va} : Keeps b o (Machine.walk s ctx va).1 := by
  unfold Machine.walk
  split
  · exact h
  · extract_lets s1
    have h1 : Keeps b o s1 := h.recallWalk
    split
    · exact h1
    · split
      · exact h1
      · exact h1.orPte

theorem Keeps.walkBy (h : Keeps b o s) {die ctx va} : Keeps b o (Machine.walkBy s die ctx va).1 := by
  unfold Machine.walkBy
  split
  · exact h
  · extract_lets _ s1
    have h1 : Keeps b o s1 := h.recallWalk
    split
    · exact h1
    · split
      · exact h1
      · exact h1.free.orPte

theorem Keeps.tlbAdd (h : Keeps b o s) {core e₁} : Keeps b o (State.tlbAdd s core e₁) := h.free rfl

theorem Keeps.tlbLook (h : Keeps b o s) {core ctx va} : Keeps b o (Machine.tlbLook s core ctx va).1 := by
  unfold Machine.tlbLook
  split
  · exact h.free
  · split
    · exact h.walkBy.fst ‹_›
    · exact (h.walkBy.fst ‹_›).tlbAdd

theorem Keeps.tlbDrop (h : Keeps b o s) {e₁} : Keeps b o (State.tlbDrop s e₁) := h.free rfl

theorem Keeps.setDirty (h : Keeps b o s) {core e₁ va} : Keeps b o (State.setDirty s core e₁ va) := by
  unfold State.setDirty
  extract_lets s1
  have h1 : Keeps b o s1 := h.orPte
  exact h1.free

theorem Keeps.refetch (h : Keeps b o s) {core ctx va e₁} : Keeps b o (Machine.refetch s core ctx va e₁).1 := by
  unfold Machine.refetch
  extract_lets
  split
  · exact h
  · exact h.tlbDrop.tlbLook

theorem Keeps.xlate (h : Keeps b o s) {core ctx a} : Keeps b o (Machine.xlate s core ctx a).1 := by
  unfold Machine.xlate
  extract_lets hit
  dsimp only [hit]
  split
  · exact h
  · split
    · split <;> exact h.tlbLook.fst ‹_›
    · split
      · split <;> exact h.tlbLook.fst ‹_›
      · exact h

theorem Keeps.execTlbFill (h : Keeps false o s) {core ctx va} : Ends o (Machine.execTlbFill core ctx va s) := by
  unfold Machine.execTlbFill
  split
  · exact (h.walkBy.fst ‹_›).next
  · exact (h.walkBy.fst ‹_›).tlbAdd.next

/-! ### Accesses -/

theorem Keeps.globTarget (h : Keeps b o s) {core ctx a n k} : Keeps b o (Machine.globTarget s core ctx a n k).1 := by
  unfold Machine.globTarget
  split
  · exact h
  · split
    · exact h.xlate.fst ‹_›
    · exact h.xlate.fst ‹_›
    · extract_lets
      split
      · exact h.xlate.fst ‹_›
      · split
        · split
          · exact (h.xlate.fst ‹_›).refetch.fst ‹_›
          · extract_lets
            split
            · exact (h.xlate.fst ‹_›).refetch.fst ‹_›
            · exact ((h.xlate.fst ‹_›).refetch.fst ‹_›).setDirty
        · exact h.xlate.fst ‹_›

theorem Keeps.slotTarget (h : Keeps b o s) {v spc lane a n k} : Keeps b o (Machine.slotTarget s v spc lane a n k).1 := by
  unfold Machine.slotTarget
  split
  · split
    · exact h
    · exact h.globTarget
  · split
    · exact h
    · split <;> exact h
  · exact h

theorem Keeps.request (h : Keeps b o s) {ns} : Keeps b o (State.request s ns) := by
  unfold State.request
  refine h.foldl fun _ _ h => ?_
  extract_lets
  split
  · exact h.snoop
  · split
    · exact h
    · exact h.free
  · split
    · exact h
    · exact h.free
  · exact h

theorem Keeps.storeTarget (h : Keeps b o s) {r₁ core stream lane deps t₁ data} :
    Keeps b o (Machine.storeTarget s r₁ core stream lane deps t₁ data) := by
  unfold Machine.storeTarget
  split
  · exact h.modTeam
  · exact h.recall.foldl fun _ _ h => h.addWrite

theorem Keeps.rmw (h : Keeps b o s) {r₁ t₁ n f} : Keeps b o (State.rmw s r₁ t₁ n f).1 := by
  unfold State.rmw
  extract_lets _ s1
  have h1 : Keeps b o s1 := h.perform
  split
  · exact h.modTeam
  · exact h1.writeNow

theorem Keeps.flushEntry (h : Keeps b o s) {e₁} : Keeps b o (State.flushEntry s e₁) := by
  unfold State.flushEntry
  extract_lets _ s1
  have h1 : Keeps b o s1 := h.foldl fun _ _ h => h.placeAtomic
  split
  · exact h.charge
  · split
    · exact h.free.request
    · exact h1.rmw

theorem Keeps.performLate (h : Keeps b o s) : Keeps b o (State.performLate s) :=
  (h.free.foldl fun _ _ h => h.flushEntry).request

theorem Keeps.flushComb (h : Keeps b o s) {p} : Keeps b o (State.flushComb s p) :=
  h.performLate.free.foldl fun _ _ h => h.flushEntry

theorem Keeps.flushFor (h : Keeps b o s) {core t₁ n} : Keeps b o (State.flushFor s core t₁ n) := by
  unfold State.flushFor
  split
  · exact h.flushComb
  · exact h.flushComb
  · exact h

theorem Keeps.fillFor (h : Keeps b o s) {r₁ t₁ n} : Keeps b o (State.fillFor s r₁ t₁ n) := by
  unfold State.fillFor
  split
  · exact h.fillDecoded
  · exact h

end Sys2Proof.Machine
end

section

/-! PROOFS. Memory and the writes in flight in loads and stores, control and counters (O55). -/

namespace Sys2Proof.Machine

-- Many of these lemmas split the same definition: one after another, so that none waits in a thread of its own.
set_option Elab.async false

variable {b : Bool} {o s t : State}

/-! ### Loads and stores -/

theorem Keeps.resolveOne {acc} (h : Keeps b o acc.1) {v spc n k ok p} :
    Keeps b o (Machine.resolveOne v spc n k ok acc p).1 :=
  (resolveOne_cases v spc n k ok acc p).1 ▸ h.slotTarget

theorem Keeps.resolve (h : Keeps b o s) {v spc n k remoteOk ps} : Keeps b o (Machine.resolve s v spc n k remoteOk ps).1 :=
  Keeps.foldl_fst (f := Machine.resolveOne v spc n k remoteOk) (a := (s, ⟨[], []⟩)) h fun _ _ h => h.resolveOne

theorem Keeps.sendRemote (h : Keeps false o s) {who part pkg va n kind data} :
    Keeps false o (State.sendRemote s who part pkg va n kind data) := by
  unfold State.sendRemote
  split
  · exact h
  · exact h.frame

theorem Keeps.clearRemote (h : Keeps false o s) {who} : Keeps false o (State.clearRemote s who) := h.frame rfl

theorem Keeps.sendParts (h : Keeps false o s) {who n kind data gs} :
    Keeps false o (State.sendParts s who n kind data gs) := by
  unfold State.sendParts
  refine h.foldl fun _ _ h => ?_
  extract_lets
  split
  · exact h.sendRemote
  · exact h

theorem Keeps.forceBefore (h : Keeps b o s) {v k lanes locs} : Keeps b o (State.forceBefore s v k lanes locs) :=
  h.perform

theorem Keeps.forceFenced (h : Keeps b o s) {v k lanes} : Keeps b o (State.forceFenced s v k lanes) := h.perform

theorem Keeps.memRun (h : Keeps false o s) {c str n k spc remoteOk scalar ps data act v}
    (hact : ∀ {s gs}, Keeps false o s → Keeps false o (act s gs).1) :
    Keeps false o (Machine.memRun c str n k spc remoteOk scalar ps data act v s) := by
  unfold Machine.memRun
  extract_lets
  split
  · extract_lets _ _ s2 s3
    have h2 : Keeps false o s2 := (h.resolve.fst ‹_›).request
    have h3 : Keeps false o s3 := by
      dsimp only [s3]
      split
      · exact h2
      · exact h2.forceBefore.sendParts
    split
    · exact h.request.putSlot
    · split
      · exact h3.putSlot
      · split
        extract_lets s4
        have h4 : Keeps false o s4 := ((hact (h.resolve.fst ‹_›)).fst ‹_›).clearRemote
        split
        · exact h4.putSlot
        · exact h4.stopSlot

theorem Keeps.quiet (h : Keeps b o s) {core n gs} : Keeps b o (State.quiet s core n gs) :=
  h.foldl fun _ _ h => h.flushFor.recall

theorem Keeps.fillGood (h : Keeps b o s) {r₁ n gs} : Keeps b o (State.fillGood s r₁ n gs) :=
  h.foldl fun _ _ h => h.fillFor

theorem Keeps.loadAct (h : Keeps b o s) {f scalar v gs} : Keeps b o (Machine.loadAct f scalar v s gs).1 := by
  unfold Machine.loadAct
  extract_lets _ _ s1
  have h1 : Keeps b o s1 := h.quiet.forceBefore
  split
  · extract_lets
    exact h1.fillGood

theorem Keeps.execLd (h : Keeps false o s) {f} : Ends o (Machine.execLd f s) := by
  unfold Machine.execLd
  refine h.issue fun v => ?_
  extract_lets
  refine h.memRun ?_
  intro s gs h
  extract_lets
  exact h.loadAct

theorem Keeps.vectorLoad (h : Keeps false o s) {f sb parts} : Ends o (Machine.vectorLoad f sb parts s) := by
  unfold Machine.vectorLoad
  refine h.issue fun v => ?_
  extract_lets
  refine h.memRun ?_
  intro s gs h
  extract_lets
  exact h.loadAct

theorem Keeps.storeAct (h : Keeps b o s) {f scalar data v gs} : Keeps b o (Machine.storeAct f scalar data v s gs).1 := by
  unfold Machine.storeAct
  extract_lets _ s1
  have h1 : Keeps b o s1 := h.quiet
  refine h1.foldl fun _ _ h => ?_
  extract_lets
  split
  · exact h
  · exact h.storeTarget

theorem Keeps.execSt (h : Keeps false o s) {f} : Ends o (Machine.execSt f s) := by
  unfold Machine.execSt
  refine h.issue fun v => ?_
  extract_lets
  refine h.memRun ?_
  intro s gs h
  extract_lets
  exact h.storeAct

theorem Keeps.vectorStore (h : Keeps false o s) {f sb parts} : Ends o (Machine.vectorStore f sb parts s) := by
  unfold Machine.vectorStore
  refine h.issue fun v => ?_
  extract_lets
  refine h.memRun ?_
  intro s gs h
  extract_lets
  exact h.storeAct

theorem Keeps.atomLane (h : Keeps b o s) {v f g} : Keeps b o (Machine.atomLane v f s g).1 :=
  (h.foldl fun _ _ h => h.placeAtomic).rmw

theorem Keeps.atomAct (h : Keeps false o s) {f v gs} : Keeps false o (Machine.atomAct f v s gs).1 := by
  unfold Machine.atomAct
  extract_lets _ _ s1 s2
  have h1 : Keeps false o s1 := h.foldl fun _ _ h => h.flushFor
  have h2 : Keeps false o s2 := h1.forceBefore
  split
  split
  exact (Keeps.foldl_fst (a := (s2, [])) h2 fun _ _ h => h.atomLane).fst ‹_›

theorem Keeps.execAtom (h : Keeps false o s) {f} : Ends o (Machine.execAtom f s) := by
  unfold Machine.execAtom
  refine h.issue fun v => ?_
  extract_lets
  refine h.memRun ?_
  intro s gs h
  extract_lets
  exact h.atomAct

theorem Keeps.rest (h : Keeps b o s) {x} : Keeps b o (s.rest x) := by
  unfold State.rest
  extract_lets _ s1 _ mine s2
  have h1 : Keeps b o s1 := h.flushComb
  have h2 : Keeps b o s2 := by
    dsimp only [s2]
    generalize mine = l
    split
    · exact h1
    · split
      · exact h1
      · exact h1.free.flushEntry
  split
  · exact h1.free
  · exact h2.free

theorem Keeps.redLane (h : Keeps b o s) {v f g} : Keeps b o (Machine.redLane v f s g) := by
  unfold Machine.redLane
  split
  · exact h.rest
  · exact h.atomLane

theorem Keeps.redAct (h : Keeps b o s) {f v gs} : Keeps b o (Machine.redAct f v s gs).1 := by
  unfold Machine.redAct
  extract_lets _ _ s1
  have h1 : Keeps b o s1 := h.forceFenced
  split
  · extract_lets
    exact h1.foldl fun _ _ h => h.redLane

theorem Keeps.execRed (h : Keeps false o s) {f} : Ends o (Machine.execRed f s) := by
  unfold Machine.execRed
  refine h.issue fun v => ?_
  extract_lets
  refine h.memRun ?_
  intro s gs h
  extract_lets
  exact h.redAct

theorem Keeps.execCombiningBufferTimeout (h : Keeps false o s) {core idx} :
    Ends o (Machine.execCombiningBufferTimeout core idx s) := by
  unfold Machine.execCombiningBufferTimeout
  split
  · exact h.next
  · split
    · exact h.free.flushEntry.next
    · exact h.next

theorem Keeps.prefetchData (h : Keeps b o s) {core ctx b₁} : Keeps b o (State.prefetchData s core ctx b₁) := by
  unfold State.prefetchData
  extract_lets later
  dsimp only [later]
  split
  · exact h
  · split
    · exact h.request.free
    · split
      · exact h.globTarget.fst ‹_›
      · split
        · exact (h.globTarget.fst ‹_›).request.free
        · split
          · exact h.globTarget.fst ‹_›
          · exact (h.globTarget.fst ‹_›).fillFor

theorem Keeps.execPref (h : Keeps false o s) {f} : Ends o (Machine.execPref f s) := by
  unfold Machine.execPref
  refine h.issue fun v => ?_
  extract_lets _ s1
  have h1 : Keeps false o s1 := by
    dsimp only [s1]
    split
    · exact h
    · exact h.foldl fun _ _ h => h.prefetchData
  exact h1.putSlot

theorem Keeps.fence (h : Keeps false o s) {f across} : Ends o (Machine.fence f across s) := h.issue fun _ => h.putSlot

theorem Keeps.execTrackedResultWrite (h : Keeps false o s) {sl cls} : Ends o (Machine.execTrackedResultWrite sl cls s) := by
  unfold Machine.execTrackedResultWrite
  split
  · exact h.next
  · extract_lets
    split
    · exact h.next
    · extract_lets
      exact h.putWave.next

/-! ### Control -/

theorem Keeps.execBr (h : Keeps false o s) {f} : Ends o (Machine.execBr f s) := h.issue fun _ => h.putSlot

theorem Keeps.execBrc (h : Keeps false o s) {f} : Ends o (Machine.execBrc f s) := h.issue fun _ => h.putSlot

theorem Keeps.execCall (h : Keeps false o s) {f} : Ends o (Machine.execCall f s) := by
  unfold Machine.execCall
  refine h.issue fun v => ?_
  extract_lets
  split
  · exact h.putSlot
  · exact h.putWave

theorem Keeps.indirectJump (h : Keeps false o s) {f} : Ends o (Machine.indirectJump f s) := h.issue fun _ => h.putSlot

theorem Keeps.execBrdiv (h : Keeps false o s) {f} : Ends o (Machine.execBrdiv f s) := by
  unfold Machine.execBrdiv
  refine h.issue fun v => ?_
  extract_lets
  split
  · exact h.stopSlot
  · exact h.putWave

theorem Keeps.execJoin (h : Keeps false o s) {f} : Ends o (Machine.execJoin f s) := h.issue fun _ => h.putWave

theorem Keeps.execExit (h : Keeps false o s) {f} : Ends o (Machine.execExit f s) := h.issue fun _ => h.putWave

theorem Keeps.execPpt (h : Keeps false o s) {f} : Ends o (Machine.execPpt f s) := by
  unfold Machine.execPpt
  refine h.issue fun v => ?_
  extract_lets
  split
  · exact h.putSlot
  · split <;> exact h.putSlot

theorem Keeps.execWaitc (h : Keeps false o s) {f} : Ends o (Machine.execWaitc f s) := h.issue fun _ => h.putSlot

theorem Keeps.execYield (h : Keeps false o s) {f} : Ends o (Machine.execYield f s) := h.issue fun _ => h.putSlot

theorem Keeps.execNop (h : Keeps false o s) {f} : Ends o (Machine.execNop f s) := h.issue fun _ => h.putSlot

theorem Keeps.execBrk (h : Keeps false o s) {f} : Ends o (Machine.execBrk f s) := by
  unfold Machine.execBrk
  refine h.issue fun v => ?_
  extract_lets
  split
  · exact h.putSlot
  · exact h.stopSlot

theorem Keeps.execTrap (h : Keeps false o s) {f} : Ends o (Machine.execTrap f s) := by
  unfold Machine.execTrap
  refine h.issue fun v => ?_
  extract_lets _ s1
  have h1 : Keeps false o s1 := h.addRec
  split
  · exact h.putSlot
  · exact h1.putSlot

/-! ### Counters -/

theorem Keeps.ctrSettle (h : Keeps b o s) {c} : Keeps b o (State.ctrSettle s c) := h.perform

theorem Keeps.ctrHome (h : Keeps b o s) {c} : Keeps b o (State.ctrHome s c) := h.recall.ctrSettle

theorem Keeps.ctrPut (h : Keeps b o s) {c x} : Keeps b o (State.ctrPut s c x) := h.writeNow

theorem Keeps.ctrAdd (h : Keeps b o s) {c x} : Keeps b o (State.ctrAdd s c x).1 := h.ctrSettle.ctrPut.free rfl

theorem Keeps.ctrGlob (h : Keeps b o s) {core ctx a chg} : Keeps b o (Machine.ctrGlob s core ctx a chg).1 := by
  unfold Machine.ctrGlob
  split
  · exact h.xlate.fst ‹_›
  · exact h.xlate.fst ‹_›
  · extract_lets
    split
    · exact h.xlate.fst ‹_›
    · split
      · split
        · exact (h.xlate.fst ‹_›).refetch.fst ‹_›
        · extract_lets
          split
          · exact (h.xlate.fst ‹_›).refetch.fst ‹_›
          · exact (h.xlate.fst ‹_›).refetch.fst ‹_›
      · exact h.xlate.fst ‹_›

theorem Keeps.markCtr (h : Keeps b o s) {core ctx a} : Keeps b o (State.markCtr s core ctx a) := by
  unfold State.markCtr
  split
  · split
    · exact h.xlate.fst ‹_›
    · exact (h.xlate.fst ‹_›).setDirty
  · exact h.xlate.fst ‹_›

theorem Keeps.ctrNamed (h : Keeps b o s) {v a chg remoteOk} : Keeps b o (Machine.ctrNamed s v a chg remoteOk).1 := by
  unfold Machine.ctrNamed
  extract_lets
  split
  · exact h
  · split
    · exact h
    · split
      · exact h.ctrGlob.fst ‹_›
      · exact h.ctrGlob

theorem Keeps.ctrOfCtx (h : Keeps b o s) {ctx a} : Keeps b o (Machine.ctrOfCtx s ctx a).1 := by
  unfold Machine.ctrOfCtx
  extract_lets
  split
  · exact h
  · split
    · exact h
    · split
      · exact h
      · split
        · exact h.walk.fst ‹_›
        · extract_lets
          split <;> exact h.walk.fst ‹_›

theorem Keeps.markCtrOf (h : Keeps b o s) {ctx a} : Keeps b o (State.markCtrOf s ctx a) := by
  unfold State.markCtrOf
  extract_lets
  split
  · split
    · exact h.walk.fst ‹_›
    · exact (h.walk.fst ‹_›).orPte
  · exact h.walk.fst ‹_›

theorem Keeps.ctrStop (h : Keeps b o s) {v f a} : Keeps b o (State.ctrStop s v f a) := h.stopSlot

theorem Keeps.release (h : Keeps b o s) {v mask scope} : Keeps b o (State.release s v mask scope) :=
  h.flushComb.releaseWrites

theorem Keeps.ctrPlaceOp (h : Keeps b o s) {core f c} : Keeps b o (State.ctrPlaceOp s core f c) := by
  unfold State.ctrPlaceOp
  split
  · exact h
  · extract_lets
    exact h.placeAtomic

theorem Keeps.ctrRun (h : Keeps false o s) {f chg remoteOk value priv kind act v}
    (hact : ∀ {s r}, Keeps false o s → Keeps false o (act s r)) :
    Keeps false o (Machine.ctrRun f chg remoteOk value priv kind act v s) := by
  unfold Machine.ctrRun
  extract_lets _ _ _ skip _ wait
  dsimp only [wait, skip]
  split
  · exact h.putSlot
  · split
    · exact h.ctrStop
    · split
      · exact h.request.putSlot
      · split
        · exact (h.ctrNamed.fst ‹_›).ctrStop
        · split
          · have h1 := h.ctrNamed.fst ‹_›
            split
            · exact h1.clearRemote.ctrStop
            · split
              · exact hact h1
              · exact h1.putSlot
              · split
                · exact h1.request.putSlot
                · split
                  · exact h1.release.sendRemote.putSlot
                  · exact h1.sendRemote.putSlot
          · have h1 := h.ctrNamed.fst ‹_›
            split
            · exact h1.ctrStop
            · split
              · exact h1.ctrStop
              · split
                · exact h1.request.putSlot
                · split
                  · exact h1.ctrStop
                  · refine hact ?_
                    split
                    · exact h1.markCtr
                    · exact h1

theorem Keeps.ctrWaveAdd (h : Keeps false o s) {f v r₁} : Keeps false o (Machine.ctrWaveAdd f v s r₁).1 := by
  unfold Machine.ctrWaveAdd
  extract_lets _ s1
  have h1 : Keeps false o s1 := by
    dsimp only [s1]
    split
    · exact h.release
    · exact h
  split
  · exact h.clearRemote
  · exact h1.ctrPlaceOp.ctrAdd

theorem Keeps.execCadd (h : Keeps false o s) {f} : Ends o (Machine.execCadd f s) := by
  unfold Machine.execCadd
  refine h.issue fun v => ?_
  extract_lets
  refine h.ctrRun ?_
  intro s r h
  extract_lets
  exact h.ctrWaveAdd.putSlot

theorem Keeps.ctrResult (h : Keeps b o s) {f g x v} : Keeps b o (Machine.ctrResult f g x v s) := h.putSlot

theorem Keeps.execCaddx (h : Keeps false o s) {f} : Ends o (Machine.execCaddx f s) := by
  unfold Machine.execCaddx
  refine h.issue fun v => ?_
  extract_lets
  refine h.ctrRun ?_
  intro s r h
  extract_lets
  split
  · exact (h.ctrWaveAdd.fst ‹_›).ctrResult

theorem Keeps.register (h : Keeps b o s) {v scope c t₁} : Keeps b o (State.register s v scope c t₁) := by
  unfold State.register
  extract_lets _ s1
  have h1 : Keeps b o s1 := h.recall
  exact h1.free

theorem Keeps.parkOn (h : Keeps b o s) {f v any entries} : Keeps b o (State.parkOn s f v any entries) := by
  unfold State.parkOn
  extract_lets
  split
  · exact h.putSlot
  · exact (h.foldl fun _ _ h => h.register).putSlot

theorem Keeps.execCwait (h : Keeps false o s) {f} : Ends o (Machine.execCwait f s) := by
  unfold Machine.execCwait
  refine h.issue fun v => ?_
  extract_lets
  refine h.ctrRun ?_
  intro s r h
  extract_lets
  split
  · exact h
  · extract_lets s1
    have h1 : Keeps false o s1 := h.ctrHome
    split
    · exact h1.putSlot
    · exact h1.parkOn

theorem Keeps.ctrBoth (h : Keeps b o s) {v a b₁} : Keeps b o (Machine.ctrBoth s v a b₁).1 := by
  unfold Machine.ctrBoth
  split
  · exact h.ctrNamed.fst ‹_›
  · exact h.ctrNamed.fst ‹_›
  · split
    · exact (h.ctrNamed.fst ‹_›).ctrNamed.fst ‹_›
    · exact (h.ctrNamed.fst ‹_›).ctrNamed.fst ‹_›
    · split
      · exact (h.ctrNamed.fst ‹_›).ctrNamed.fst ‹_›
      · split
        · exact (h.ctrNamed.fst ‹_›).ctrNamed.fst ‹_›
        · exact (h.ctrNamed.fst ‹_›).ctrNamed.fst ‹_›

theorem Keeps.cwait2Act (h : Keeps b o s) {f v c d} : Keeps b o (Machine.cwait2Act f v s c d) := by
  unfold Machine.cwait2Act
  extract_lets _ _ _ s1
  have h1 : Keeps b o s1 := h.ctrHome.ctrHome
  split
  · exact h1.putSlot
  · exact h1.parkOn

theorem Keeps.execCwait2 (h : Keeps false o s) {f} : Ends o (Machine.execCwait2 f s) := by
  unfold Machine.execCwait2
  refine h.issue fun v => ?_
  extract_lets
  split
  · exact h.putSlot
  · split
    · exact h.request.putSlot
    · split
      · exact (h.ctrBoth.fst ‹_›).ctrStop
      · extract_lets
        split
        · exact (h.ctrBoth.fst ‹_›).request.putSlot
        · exact (h.ctrBoth.fst ‹_›).cwait2Act

theorem Keeps.execCtest (h : Keeps false o s) {f} : Ends o (Machine.execCtest f s) := by
  unfold Machine.execCtest
  refine h.issue fun v => ?_
  extract_lets
  refine h.ctrRun ?_
  intro s r h
  extract_lets
  split
  · exact h
  · extract_lets s1
    have h1 : Keeps false o s1 := h.ctrHome
    exact h1.ctrResult

theorem Keeps.execCset (h : Keeps false o s) {f} : Ends o (Machine.execCset f s) := by
  unfold Machine.execCset
  refine h.issue fun v => ?_
  extract_lets
  refine h.ctrRun ?_
  intro s r h
  extract_lets s1
  have h1 : Keeps false o s1 := by
    dsimp only [s1]
    split
    · exact h.release
    · exact h
  split
  · exact h
  · exact h1.ctrHome.ctrPut.putSlot

theorem Keeps.endWait (h : Keeps b o s) {sl} : Keeps b o (State.endWait s sl) := by
  unfold State.endWait
  extract_lets s1
  have h1 : Keeps b o s1 := h.dropWaits
  split
  · exact h
  · extract_lets
    split
    · exact h1.putSlot
    · exact h1

theorem Keeps.entryDone (h : Keeps b o s) {w} : Keeps b o (State.entryDone s w) := by
  unfold State.entryDone
  extract_lets s1
  have h1 : Keeps b o s1 := h.free
  split
  · exact h1.endWait
  · exact h1

theorem Keeps.execWaiterWake (h : Keeps false o s) {seq} : Ends o (Machine.execWaiterWake seq s) := by
  unfold Machine.execWaiterWake
  split
  · exact h.next
  · split
    · exact h.entryDone.next
    · exact h.next

theorem Keeps.execParkedPollingReread (h : Keeps false o s) {sl} : Ends o (Machine.execParkedPollingReread sl s) :=
  ((h.foldl fun _ _ h => h.recall).foldl fun _ _ h => h.entryDone).next

end Sys2Proof.Machine
end

section

/-! PROOFS. Memory and the writes in flight in segments, copies and queues (O55). -/

namespace Sys2Proof.Machine

-- Many of these lemmas split the same definition: one after another, so that none waits in a thread of its own.
set_option Elab.async false

variable {b : Bool} {o s t : State}

/-! ### Segments -/

theorem Keeps.ctxTarget (h : Keeps b o s) {ctx a n k} : Keeps b o (Machine.ctxTarget s ctx a n k).1 := by
  unfold Machine.ctxTarget
  extract_lets
  split
  · exact h
  · split
    · exact h
    · split
      · exact h.walk.fst ‹_›
      · extract_lets
        split
        · exact h.walk.fst ‹_›
        · split
          · exact (h.walk.fst ‹_›).orPte
          · exact h.walk.fst ‹_›

theorem Keeps.segAdd (h : Keeps b o s) {ctx a} : Keeps b o (s.segAdd ctx a) := by
  unfold State.segAdd
  extract_lets fail named owed _
  have hfail (s : State) (cause : Nat) (h : Keeps b o s) : Keeps b o (fail s cause) := by
    dsimp only [fail]
    split
    · exact h
    · exact h.addRec
  have hnamed : Keeps b o named.1 := by
    dsimp only [named]
    split
    · exact h
    · split
      · exact h
      · exact h.ctrOfCtx
  have howed (s : State) (ns : List Need) (h : Keeps b o s) : Keeps b o (owed s ns) := h.free.request
  clear_value fail named owed
  split
  · exact h
  · split
    · exact howed _ _ h
    · split
      · exact hfail _ _ hnamed
      · exact hfail _ _ hnamed
      · extract_lets
        split
        · exact howed _ _ hnamed
        · split
          · exact hfail _ _ hnamed
          · refine Keeps.ctrAdd (Keeps.recall ?_)
            split
            · exact hnamed
            · exact hnamed.markCtrOf

theorem Keeps.performOwed (h : Keeps b o s) : Keeps b o (State.performOwed s) := h.free.foldl fun _ _ h => h.segAdd

theorem Keeps.segSettle (h : Keeps b o s) {ctx name} : Keeps b o (State.segSettle s ctx name) := h.perform

theorem Keeps.endEvict (h : Keeps b o s) {g} : Keeps b o (State.endEvict s g) := h.modSeg.foldl fun _ _ h => h.segAdd

theorem Keeps.startEvict (h : Keeps b o s) {ctx name} : Keeps b o (State.startEvict s ctx name) := by
  unfold State.startEvict
  extract_lets s1
  have h1 : Keeps b o s1 := h.modSeg
  split
  · exact h
  · split
    · exact h1.endEvict
    · exact h1

theorem Keeps.execSegmentWritebackGranule (h : Keeps false o s) {ctx name g} :
    Ends o (Machine.execSegmentWritebackGranule ctx name g s) := by
  unfold Machine.execSegmentWritebackGranule
  extract_lets _ s'
  have h' : Keeps false o s' := by
    dsimp only [s']
    split
    · exact h.segSettle
    · exact h
  split
  · exact h.next
  · extract_lets
    split
    · exact h.next
    · split
      · exact h.request.next
      · split
        · exact h'.request.next
        · split
          · split
            · exact h'.next
            · exact (h'.ctxTarget.fst ‹_›).modSeg.charge.next
          · extract_lets _ s2 _ s3 s4 s5
            have h2 : Keeps false o s2 := (h'.ctxTarget.fst ‹_›).recall.writeNow
            have h3 : Keeps false o s3 := h2.free
            have h4 : Keeps false o s4 := by
              dsimp only [s4]
              split
              · exact h3.charge
              · exact h3
            have h5 : Keeps false o s5 := h4.modSeg
            split
            · exact (h'.ctxTarget.fst ‹_›).request.next
            · split
              · split
                · exact h5.endEvict.next
                · exact h5.next
              · exact h5.next

theorem Keeps.execSegmentRefillGranule (h : Keeps false o s) {ctx name g} :
    Ends o (Machine.execSegmentRefillGranule ctx name g s) := by
  unfold Machine.execSegmentRefillGranule
  split
  · exact h.next
  · extract_lets _ _ arrive
    dsimp only [arrive]
    split
    · exact h.next
    · split
      · exact h.request.next
      · split
        · split
          · exact h.next
          · split
            · exact (((h.ctxTarget.fst ‹_›).modSeg.performOwed.foldl fun _ _ h => h.segAdd).charge).next
            · exact (h.ctxTarget.fst ‹_›).modSeg.performOwed.charge.next
        · split
          · exact (h.ctxTarget.fst ‹_›).request.next
          · split
            · split
              · exact (((h.ctxTarget.fst ‹_›).modSeg.performOwed.foldl fun _ _ h => h.segAdd).charge).next
              · exact (h.ctxTarget.fst ‹_›).modSeg.performOwed.charge.next
            · split
              · exact ((h.ctxTarget.fst ‹_›).recall.fillFor.modSeg.performOwed.foldl fun _ _ h => h.segAdd).next
              · exact (h.ctxTarget.fst ‹_›).recall.fillFor.modSeg.performOwed.next

theorem Keeps.segPair (h : Keeps b o s) {f v h₁ st} : Keeps b o (Machine.segPair f v h₁ st s) := h.putSlot

theorem Keeps.segStatus (h : Keeps b o s) {f v st} : Keeps b o (Machine.segStatus f v st s) := h.putWave

theorem Keeps.whenActive (h : Keeps false o s) {c d run v} (hrun : ∀ v s, Keeps false o s → Keeps false o (run v s)) :
    Keeps false o (Machine.whenActive c d run v s) := by
  unfold Machine.whenActive
  split
  · exact h.putSlot
  · exact hrun v s h

theorem Keeps.attachTo (h : Keeps b o s) {t₁ name h₁} : Keeps b o (State.attachTo s t₁ name h₁) := h.modTeam

theorem Keeps.evictAndWait (h : Keeps b o s) {v l} : Keeps b o (State.evictAndWait s v l) :=
  (h.foldl fun _ _ h => h.startEvict).putSlot

theorem Keeps.segnewRun (h : Keeps b o s) {f v} : Keeps b o (Machine.segnewRun f v s) := by
  unfold Machine.segnewRun
  extract_lets
  split
  · split
    · exact h.segPair
    · split
      · exact h.segPair
      · split
        · exact h.segPair
        · split
          · exact h.segPair
          · split
            · exact h.segPair
            · exact h.segPair
            · exact h.evictAndWait
            · extract_lets _ _ s1
              have h1 : Keeps b o s1 := h.free
              exact h1.attachTo.segPair
  · split
    · exact h.segPair
    · split
      · exact h.segPair
      · split
        · exact h.segPair
        · split
          · exact h.segPair
          · split
            · exact h.segPair
            · exact h.segPair
            · exact h.evictAndWait
            · extract_lets _ _ s1
              have h1 : Keeps b o s1 := h.free
              exact h1.attachTo.segPair

theorem Keeps.execSegnew (h : Keeps false o s) {f} : Ends o (Machine.execSegnew f s) := by
  unfold Machine.execSegnew
  refine h.issue fun v => ?_
  extract_lets
  refine h.whenActive ?_
  intro v s h
  extract_lets
  exact h.segnewRun

theorem Keeps.attachMiss (h : Keeps b o s) {v name sub} : Keeps b o (Machine.attachMiss v name sub s) := h.stopSlot

theorem Keeps.oweAdd (h : Keeps b o s) {g a} : Keeps b o (State.oweAdd s g a) := h.modSeg

theorem Keeps.segRefill (h : Keeps b o s) {f v g} : Keeps b o (Machine.segRefill f v g s) := by
  unfold Machine.segRefill
  extract_lets
  split
  · exact h.segPair
  · split
    · exact h.segPair
    · split
      · exact h.segPair
      · exact h.segPair
      · exact h.evictAndWait
      · extract_lets _ _ r s1
        have hr : Keeps b o r := h.modSeg
        have h1 : Keeps b o s1 := hr.free
        exact h1.attachTo.segPair

theorem Keeps.segattRun (h : Keeps b o s) {f v} : Keeps b o (Machine.segattRun f v s) := by
  unfold Machine.segattRun
  extract_lets _ _ owe
  dsimp only [owe]
  split
  · exact h.segPair
  · split
    · split
      · exact h.segPair
      · exact h.attachMiss
    · split
      · exact h.putSlot
      · split
        · exact h.segRefill
        · exact h.attachMiss
      · split
        · split
          · split
            · split
              · exact h.segAdd.segPair
              · exact h.oweAdd.segPair
            · exact h.segPair
          · split
            · exact h.segPair
            · split
              · split
                · exact h.attachTo.segAdd.segPair
                · exact h.attachTo.oweAdd.segPair
              · exact h.attachTo.segPair
        · split
          · exact h.attachMiss
          · split
            · exact h.segPair
            · exact h.evictAndWait

theorem Keeps.execSegatt (h : Keeps false o s) {f} : Ends o (Machine.execSegatt f s) := by
  unfold Machine.execSegatt
  refine h.issue fun v => ?_
  extract_lets
  refine h.whenActive ?_
  intro v s h
  extract_lets
  exact h.segattRun

theorem Keeps.segRelease (h : Keeps b o s) {v name} : Keeps b o (State.segRelease s v name) := h.perform.release

theorem Keeps.segLeave (h : Keeps b o s) {f detach v} : Keeps b o (Machine.segLeave f detach v s) := by
  unfold Machine.segLeave
  extract_lets
  split
  · exact h.segStatus
  · extract_lets _ s1 s2 s3
    have h1 : Keeps b o s1 := h.segRelease
    have h2 : Keeps b o s2 := by
      dsimp only [s2]
      split
      · exact h1.modTeam
      · exact h1
    have h3 : Keeps b o s3 := h2.modSeg
    split
    · exact h.putSlot
    · split
      · exact h.request.putSlot
      · exact h3.segStatus

theorem Keeps.execSegdet (h : Keeps false o s) {f} : Ends o (Machine.execSegdet f s) := by
  unfold Machine.execSegdet
  refine h.issue fun v => ?_
  extract_lets
  refine h.whenActive ?_
  intro v s h
  extract_lets
  exact h.segLeave

theorem Keeps.execSegrel (h : Keeps false o s) {f} : Ends o (Machine.execSegrel f s) := by
  unfold Machine.execSegrel
  refine h.issue fun v => ?_
  extract_lets
  refine h.whenActive ?_
  intro v s h
  extract_lets
  exact h.segLeave

theorem Keeps.dropSeg (h : Keeps b o s) {ctx name} : Keeps b o (State.dropSeg s ctx name) := h.dropBytes.free rfl

theorem Keeps.segfreeRun (h : Keeps b o s) {f v} : Keeps b o (Machine.segfreeRun f v s) := by
  unfold Machine.segfreeRun
  extract_lets
  split
  · exact h.segStatus
  · split
    · exact h.dropSeg.segStatus
    · split
      · exact h.segStatus
      · exact h.dropSeg.segStatus

theorem Keeps.execSegfree (h : Keeps false o s) {f} : Ends o (Machine.execSegfree f s) := by
  unfold Machine.execSegfree
  refine h.issue fun v => ?_
  extract_lets
  refine h.whenActive ?_
  intro v s h
  extract_lets
  exact h.segfreeRun

theorem Keeps.segevictRun (h : Keeps b o s) {f v} : Keeps b o (Machine.segevictRun f v s) := by
  unfold Machine.segevictRun
  extract_lets
  split
  · exact h.segStatus
  · split
    · exact h.segAdd.segStatus
    · exact h.oweAdd.segStatus
    · exact h.segStatus
    · split
      · exact h.segStatus
      · exact h.oweAdd.startEvict.segStatus

theorem Keeps.execSegevict (h : Keeps false o s) {f} : Ends o (Machine.execSegevict f s) := by
  unfold Machine.execSegevict
  refine h.issue fun v => ?_
  extract_lets
  refine h.whenActive ?_
  intro v s h
  extract_lets
  exact h.segevictRun

theorem Keeps.execSegqry (h : Keeps false o s) {f} : Ends o (Machine.execSegqry f s) := by
  unfold Machine.execSegqry
  refine h.issue fun v => ?_
  extract_lets
  refine h.whenActive ?_
  intro v s h
  extract_lets
  exact h.putSlot

theorem Keeps.execCjoin (h : Keeps false o s) {f} : Ends o (Machine.execCjoin f s) := by
  unfold Machine.execCjoin
  refine h.issue fun v => ?_
  extract_lets
  refine h.whenActive ?_
  intro v s h
  extract_lets
  exact h.modTeam.segStatus

theorem Keeps.cleaveRun (h : Keeps b o s) {f v} : Keeps b o (Machine.cleaveRun f v s) := by
  unfold Machine.cleaveRun
  extract_lets _ _ s1 s2
  have h1 : Keeps b o s1 := h.release
  have h2 : Keeps b o s2 := h1.perform
  split
  · exact h.segStatus
  · split
    · exact h.segStatus
    · split
      · exact h.request.putSlot
      · exact h2.modTeam.segStatus

theorem Keeps.execCleave (h : Keeps false o s) {f} : Ends o (Machine.execCleave f s) := by
  unfold Machine.execCleave
  refine h.issue fun v => ?_
  extract_lets
  refine h.whenActive ?_
  intro v s h
  extract_lets
  exact h.cleaveRun

/-! ### Copies -/

theorem Keeps.modQStat (h : Keeps b o s) {team q f} : Keeps b o (State.modQStat s team q f) := h.modTeam

theorem Keeps.pushCmd (h : Keeps b o s) {v op f} : Keeps b o (State.pushCmd s v op f) := h.free rfl

theorem Keeps.copyIssue (h : Keeps false o s) {op f} : Ends o (Machine.copyIssue op f s) := by
  unfold Machine.copyIssue
  extract_lets
  refine h.issue fun v => ?_
  extract_lets
  refine h.whenActive ?_
  intro v s h
  extract_lets _ _ _ s1
  have h1 : Keeps false o s1 := h.release.pushCmd
  split
  · exact h.request.putSlot
  · exact h1.modQStat.putSlot

theorem Keeps.settleQueues (h : Keeps b o s) {team mask} : Keeps b o (State.settleQueues s team mask) := h.perform

theorem Keeps.execQfence (h : Keeps false o s) {f} : Ends o (Machine.execQfence f s) := by
  unfold Machine.execQfence
  extract_lets
  refine h.issue fun v => ?_
  extract_lets
  refine h.whenActive ?_
  intro v s h
  extract_lets _ s1
  have h1 : Keeps false o s1 := by
    dsimp only [s1]
    split
    · exact h.settleQueues
    · exact h.free
  exact h1.putSlot

theorem Keeps.execQstat (h : Keeps false o s) {f} : Ends o (Machine.execQstat f s) := by
  unfold Machine.execQstat
  refine h.issue fun v => ?_
  extract_lets
  refine h.whenActive ?_
  intro v s h
  extract_lets
  exact h.putSlot

theorem Keeps.modCmd (h : Keeps b o s) {id f} : Keeps b o (State.modCmd s id f) := h.free rfl

theorem Keeps.sweepMarkers (h : Keeps b o s) : Keeps b o (State.sweepMarkers s) := by
  unfold State.sweepMarkers
  extract_lets
  refine h.foldl fun _ _ h => ?_
  extract_lets
  split
  · exact h.request
  · exact h.free.settleQueues

theorem Keeps.endCmd (h : Keeps false o s) {c} : Keeps false o (State.endCmd s c) :=
  h.free.modQStat.sweepMarkers.clearRemote

theorem Keeps.copyFault (h : Keeps false o s) {t₁ c row off cause sub rst addr} :
    Keeps false o (State.copyFault s t₁ c row off cause sub rst addr) :=
  h.modCmd.clearRemote.modQStat.addRec

theorem Keeps.execCopyCommandStart (h : Keeps false o s) {core q team} :
    Ends o (Machine.execCopyCommandStart core q team s) := by
  unfold Machine.execCopyCommandStart
  extract_lets s' _ s1
  have h' : Keeps false o s' := h.sweepMarkers
  have h1 : Keeps false o s1 := h'.settleQueues
  split
  · extract_lets
    split
    · exact h'.next
    · split
      · exact h'.request.next
      · split
        · exact h1.modCmd.next
        · exact h1.copyFault.next
  · exact h'.next

theorem Keeps.copyPoint (h : Keeps b o s) {t₁ c dst spc a n k} : Keeps b o (Machine.copyPoint s t₁ c dst spc a n k).1 := by
  unfold Machine.copyPoint
  extract_lets
  split
  · exact h
  · split
    · extract_lets
      split <;> exact h
    · split
      · extract_lets
        exact (h.globTarget.fst ‹_›).modCmd
      · exact h.globTarget

theorem Keeps.copyPieces (h : Keeps b o s) {t₁ dst spc k id l} : Keeps b o (Machine.copyPieces t₁ dst spc k id l s).1 := by
  induction l generalizing s with
  | nil => exact h
  | cons p l ih =>
    unfold Machine.copyPieces
    split
    · exact h
    · split
      · exact h.copyPoint.fst ‹_›
      · have h1 := ih (h.copyPoint.fst ‹_›)
        split <;> exact h1.fst ‹_›

theorem Keeps.copySource (h : Keeps b o s) {t₁ c row off len} : Keeps b o (Machine.copySource s t₁ c row off len).1 := by
  unfold Machine.copySource
  extract_lets some'
  dsimp only [some']
  split
  · exact h
  · split
    · exact h
    · exact h.copyPieces

theorem Keeps.pieceRemote (h : Keeps false o s) {who kind data i p} :
    Keeps false o (Machine.pieceRemote s who kind data i p).1 := by
  unfold Machine.pieceRemote
  split
  · split
    · exact h
    · split
      · exact h
      · exact h.sendRemote
  · exact h

theorem Keeps.copyWrite (h : Keeps b o s) {t₁ c d data} : Keeps b o (Machine.copyWrite s t₁ c d data) :=
  h.flushFor.recall.foldl fun _ _ h => h.addWrite

theorem Keeps.advanceCmd (h : Keeps b o s) {t₁ c row off len} : Keeps b o (State.advanceCmd s t₁ c row off len) := by
  unfold State.advanceCmd
  split
  · extract_lets
    exact h.modCmd

theorem Keeps.meterPieces (h : Keeps b o s) {who l} (e : Machine.meterPieces who l s = .ok t) : Keeps b o t := by
  induction l generalizing s with
  | nil => exact Except.ok.inj e ▸ h
  | cons p l ih =>
    unfold Machine.meterPieces at e
    split at e
    · exact nomatch e
    · exact ih (h.meter _ ‹_›) e

theorem Keeps.copyMove (h : Keeps false o s) {t₁ c row off len src d} :
    Keeps false o (Machine.copyMove s t₁ c row off len src d) := by
  unfold Machine.copyMove
  extract_lets seat ps ns metered
  have hmetered {s k} (h : Keeps false o s) (hk : ∀ {s}, Keeps false o s → Keeps false o (k s)) :
      Keeps false o (metered s k) := by
    dsimp only [metered]
    split
    · exact h.meterWait
    · next he =>
      refine hk (Keeps.meterDone ?_)
      split at he
      · exact h.meterPieces he
      · exact Except.ok.inj he ▸ h
  clear_value metered
  split
  · exact h.request
  · split
    next s1 got hgot =>
    have h1 : Keeps false o s1 := (Keeps.foldl_fst (a := (s, [])) h fun _ _ h => h.pieceRemote).fst hgot
    split
    · exact h1.copyFault
    · split
      · exact h1
      · split
        · exact h1.copyFault
        · extract_lets s2 s3
          have h2 : Keeps false o s2 := h1.foldl fun _ _ h => h.flushFor.recall
          have h3 : Keeps false o s3 := h2.foldl fun _ _ h => h.fillFor
          split
          extract_lets
          split
          · split
            · exact h3.copyFault
            · split
              · exact hmetered h3 fun h => h.sendRemote
              · exact h3
              · exact h3.advanceCmd.clearRemote
          · exact hmetered h3 fun h => h.copyWrite.advanceCmd.clearRemote

theorem Keeps.copyStep (h : Keeps false o s) {t₁ c row off} : Keeps false o (Machine.copyStep s t₁ c row off) := by
  unfold Machine.copyStep
  extract_lets _ _ fault go
  dsimp only [go]
  dsimp only [fault]
  split
  · split
    · exact h.copyFault
    · split
      · exact h.copyFault
      · split
        · exact h
        · split
          · exact h.modCmd.request
          · split
            · exact (h.modCmd.copySource.fst ‹_›).copyFault
            · split
              · exact ((h.modCmd.copySource.fst ‹_›).copyPieces.fst ‹_›).copyFault
              · split
                · exact ((h.modCmd.copySource.fst ‹_›).copyPieces.fst ‹_›).copyFault
                · split
                  · exact ((h.modCmd.copySource.fst ‹_›).copyPieces.fst ‹_›).copyMove
                  · exact (h.modCmd.copySource.fst ‹_›).copyPieces.fst ‹_›
              · exact (h.modCmd.copySource.fst ‹_›).copyPieces.fst ‹_›
  · split
    · exact h.request
    · split
      · exact (h.copySource.fst ‹_›).copyFault
      · split
        · exact ((h.copySource.fst ‹_›).copyPieces.fst ‹_›).copyFault
        · split
          · exact ((h.copySource.fst ‹_›).copyPieces.fst ‹_›).copyFault
          · split
            · exact ((h.copySource.fst ‹_›).copyPieces.fst ‹_›).copyMove
            · exact (h.copySource.fst ‹_›).copyPieces.fst ‹_›
        · exact (h.copySource.fst ‹_›).copyPieces.fst ‹_›

theorem Keeps.dropSlot (h : Keeps b o s) {team n} : Keeps b o (State.dropSlot s team n) := h.modTeam

theorem Keeps.copyLine (h : Keeps false o s) {t₁ c row} : Keeps false o (Machine.copyLine s t₁ c row) := by
  unfold Machine.copyLine
  extract_lets _ _ _ _ fault
  dsimp only [fault]
  split
  · exact h.request
  · split
    · exact (h.copyPieces.fst ‹_›).dropSlot.copyFault
    · split
      · exact (h.copyPieces.fst ‹_›).dropSlot.copyFault
      · split
        · split
          · exact (h.copyPieces.fst ‹_›).request
          · split
            · exact (h.copyPieces.fst ‹_›).dropSlot.copyFault
            · split
              · exact (h.copyPieces.fst ‹_›).flushFor.flushComb.recall.dropSlot.copyFault
              · exact (h.copyPieces.fst ‹_›).flushFor.flushComb.recall.modTeam.modCmd.advanceCmd
        · split
          · exact (h.copyPieces.fst ‹_›).request
          · split
            · exact (h.copyPieces.fst ‹_›).dropSlot.copyFault
            · split
              · exact (h.copyPieces.fst ‹_›).flushFor.flushComb.recall.dropSlot.copyFault
              · exact (h.copyPieces.fst ‹_›).flushFor.flushComb.recall.modTeam.modCmd.advanceCmd
    · exact h.copyPieces.fst ‹_›

theorem Keeps.serve (h : Keeps b o s) {core q} : Keeps b o (State.serve s core q) := h.free rfl

theorem Keeps.execCopyTransfer (h : Keeps false o s) {core q team} : Ends o (Machine.execCopyTransfer core q team s) := by
  unfold Machine.execCopyTransfer
  extract_lets s1
  have h1 : Keeps false o s1 := h.serve
  split
  · split
    · split
      · exact h.next
      · split
        · exact h1.copyLine.next
        · exact h1.copyStep.next
    · exact h.next
  · exact h.next

theorem Keeps.copyCounter (h : Keeps b o s) {t₁ c} : Keeps b o (Machine.copyCounter s t₁ c).1 := by
  unfold Machine.copyCounter
  split
  · exact h
  · split
    · exact h
    · exact h.ctrGlob

theorem Keeps.execCopyCompletion (h : Keeps false o s) {core q team} :
    Ends o (Machine.execCopyCompletion core q team s) := by
  unfold Machine.execCopyCompletion
  split
  · extract_lets
    split
    · split
      · exact h.next
      · split
        · exact h.endCmd.next
        · split
          · exact h.request.next
          · split
            · extract_lets _ s2
              have h2 : Keeps false o s2 := by
                dsimp only [s2]
                split
                · exact (h.copyCounter.fst ‹_›).releaseWrites
                · exact (h.copyCounter.fst ‹_›).markCtr.releaseWrites
              split
              · exact (h.copyCounter.fst ‹_›).request.next
              · split
                · exact (h.copyCounter.fst ‹_›).copyFault.next
                · exact h2.recall.ctrAdd.endCmd.next
            · exact (h.copyCounter.fst ‹_›).copyFault.next
    · exact h.next
  · exact h.next

/-! ### Queues -/

theorem Keeps.modQueue (h : Keeps b o s) {q f} : Keeps b o (State.modQueue s q f) := h.free rfl

theorem Keeps.queueDisable (h : Keeps b o s) {q addr} : Keeps b o (State.queueDisable s q addr) := h.modQueue.addRec

theorem Keeps.ctrGot (h : Keeps b o s) {ctx a chg} : Keeps b o (Machine.ctrGot s ctx a chg).1 := by
  unfold Machine.ctrGot
  extract_lets
  split
  · exact h
  · split
    · exact h.ctrOfCtx.fst ‹_›
    · extract_lets
      split
      · exact h.ctrOfCtx.fst ‹_›
      · split
        · exact h.ctrOfCtx.fst ‹_›
        · split
          · exact (h.ctrOfCtx.fst ‹_›).markCtrOf.recall
          · exact (h.ctrOfCtx.fst ‹_›).recall

theorem Keeps.spanGot (h : Keeps b o s) {ctx a n k} : Keeps b o (Machine.spanGot s ctx a n k).1 := by
  unfold Machine.spanGot
  split
  · exact h
  · split
    · exact h.ctxTarget.fst ‹_›
    · extract_lets
      split
      · exact h.ctxTarget.fst ‹_›
      · split <;> exact h.ctxTarget.fst ‹_›

theorem Keeps.bytesGot (h : Keeps b o s) {seat ctx a n} : Keeps b o (Machine.bytesGot s seat ctx a n).1 := by
  unfold Machine.bytesGot
  split
  · exact (h.spanGot.fst ‹_›).recall.fillFor
  · exact h.spanGot.fst ‹_›
  · exact h.spanGot.fst ‹_›

theorem Keeps.spanWrite (h : Keeps b o s) {t₁ data} : Keeps b o (State.spanWrite s t₁ data) := h.recall.writeNow

theorem Keeps.kernelGot (h : Keeps b o s) {ctx i} : Keeps b o (Machine.kernelGot s ctx i).1 := by
  unfold Machine.kernelGot
  split
  · exact h
  · split
    · exact h
    · split
      · exact h.bytesGot.fst ‹_›
      · exact h.bytesGot.fst ‹_›
      · split
        · exact h.bytesGot.fst ‹_›
        · split
          · exact (h.bytesGot.fst ‹_›).bytesGot.fst ‹_›
          · exact (h.bytesGot.fst ‹_›).bytesGot.fst ‹_›
          · exact (h.bytesGot.fst ‹_›).bytesGot.fst ‹_›

theorem Keeps.sysStatus (h : Keeps b o s) {f v x} : Keeps b o (Machine.sysStatus f v x s) := h.putWave

theorem Keeps.launchAppend (h : Keeps b o s) {v q data} : Keeps b o (Machine.launchAppend s v q data).1 := by
  unfold Machine.launchAppend
  extract_lets
  split
  · exact h
  · split
    · exact (h.ctrGot.fst ‹_›).queueDisable
    · exact h.ctrGot.fst ‹_›
    · split
      · exact ((h.ctrGot.fst ‹_›).ctrGot.fst ‹_›).queueDisable
      · exact (h.ctrGot.fst ‹_›).ctrGot.fst ‹_›
      · extract_lets s3
        have h3 : Keeps b o s3 := (((h.ctrGot.fst ‹_›).ctrGot.fst ‹_›).ctrSettle).ctrSettle
        split
        · exact h3
        · split
          · exact (h3.spanGot.fst ‹_›).queueDisable
          · exact h3.spanGot.fst ‹_›
          · exact (h3.spanGot.fst ‹_›).spanWrite.ctrAdd

theorem Keeps.launchRun (h : Keeps b o s) {f v0} : Keeps b o (Machine.launchRun f v0 s) := by
  unfold Machine.launchRun
  extract_lets _ _ _ _ s0 stop
  have h0 : Keeps b o s0 := h.putSlot.release
  dsimp only [stop]
  split
  · exact h.request.putSlot
  · split
    · exact h0.stopSlot
    · split
      · exact (h0.globTarget.fst ‹_›).stopSlot
      · exact (h0.globTarget.fst ‹_›).stopSlot
      · split
        · exact (h0.globTarget.fst ‹_›).request.putSlot
        · split
          · exact (h0.globTarget.fst ‹_›).stopSlot
          · split
            · exact (((h0.globTarget.fst ‹_›).flushFor.forceBefore.recall.fillFor.launchAppend.fst ‹_›).request).putSlot
            · exact ((h0.globTarget.fst ‹_›).flushFor.forceBefore.recall.fillFor.launchAppend.fst ‹_›).sysStatus
            · exact ((h0.globTarget.fst ‹_›).flushFor.forceBefore.recall.fillFor.launchAppend.fst ‹_›).sysStatus

theorem Keeps.execLaunch (h : Keeps false o s) {f} : Ends o (Machine.execLaunch f s) := by
  unfold Machine.execLaunch
  refine h.issue fun v => ?_
  extract_lets
  split
  · exact h.putSlot
  · exact h.launchRun

theorem Keeps.execQueueEnable (h : Keeps false o s) {q} : Ends o (Machine.execQueueEnable q s) := by
  unfold Machine.execQueueEnable
  extract_lets
  split
  · exact h.next
  · exact h.modQueue.next

theorem Keeps.execQverUpdate (h : Keeps false o s) {q v} : Ends o (Machine.execQverUpdate q v s) := by
  unfold Machine.execQverUpdate
  split
  · exact h.modQueue.next
  · exact h.next

theorem Keeps.execReasonClear (h : Keeps false o s) {q} : Ends o (Machine.execReasonClear q s) := h.modQueue.next

end Sys2Proof.Machine
end

section

/-! PROOFS. Memory and the writes in flight in faults and guest code (O55). -/

namespace Sys2Proof.Machine

-- Many of these lemmas split the same definition: one after another, so that none waits in a thread of its own.
set_option Elab.async false

variable {b : Bool} {o s t : State}

/-! ### Faults -/

theorem Keeps.stopTeam (h : Keeps b o s) {t₁} : Keeps b o (State.stopTeam s t₁) := h.foldl fun _ _ h => h.stopWave

theorem Keeps.takeOver (h : Keeps b o s) : Keeps b o (State.takeOver s) := by
  unfold State.takeOver
  extract_lets
  split
  · exact h.free
  · exact h

theorem Keeps.endContext (h : Keeps false o s) {ctx code info2} : Keeps false o (State.endContext s ctx code info2) := by
  unfold State.endContext
  extract_lets s1 s2 s2' s3
  have h1 : Keeps false o s1 := h.foldl fun _ _ h => h.stopTeam
  have h2 : Keeps false o s2 := h1.free
  have h2' : Keeps false o s2' := by
    dsimp only [s2']
    split
    · exact h2.takeOver
    · exact h2
  have h3 : Keeps false o s3 := h2'.modCtx
  split
  · exact h
  · split
    · exact h
    · exact h3.charge

theorem Keeps.execHalt (h : Keeps false o s) {f} : Ends o (Machine.execHalt f s) := by
  unfold Machine.execHalt
  refine h.issue fun v => ?_
  extract_lets
  split
  · exact h.putSlot
  · exact h.endContext

theorem Keeps.putRing (h : Keeps false o s) {n next done} : Keeps false o (State.putRing s n next done) := by
  unfold State.putRing
  split
  · exact h.free
  · exact h.modCtx

theorem Keeps.countOvf (h : Keeps false o s) {n} : Keeps false o (State.countOvf s n) := by
  unfold State.countOvf
  split
  · exact h.free
  · exact h.modCtx

theorem Keeps.ringCounter (h : Keeps b o s) {n a chg} : Keeps b o (Machine.ringCounter s n a chg).1 := by
  unfold Machine.ringCounter
  extract_lets
  split
  · exact h.ctrGot
  · split
    · exact h
    · split
      · exact h
      · split
        · exact h
        · exact h.recall

theorem Keeps.ringSpan (h : Keeps b o s) {n a k} : Keeps b o (Machine.ringSpan s n a k).1 := by
  unfold Machine.ringSpan
  extract_lets
  split
  · exact h.spanGot
  · split
    · exact h
    · exact h.recall

theorem Keeps.divert (h : Keeps false o s) {r₁ n addr cls f} : Keeps false o (State.divert s r₁ n addr cls f) := by
  unfold State.divert
  extract_lets s1 s2
  have h1 : Keeps false o s1 := h.modCtx
  have h2 : Keeps false o s2 := h1.free
  split
  · exact h.free.countOvf
  · exact h2.charge

theorem Keeps.putRecord (h : Keeps false o s) {r₁ n g t₁ tail} : Keeps false o (State.putRecord s r₁ n g t₁ tail) :=
  h.spanWrite.releaseWrites.ctrAdd.putRing.free rfl

theorem Keeps.execFaultRecordWrite (h : Keeps false o s) {rec} : Ends o (Machine.execFaultRecordWrite rec s) := by
  unfold Machine.execFaultRecordWrite
  split
  · exact h.next
  · extract_lets
    split
    · exact h.free.next
    · split
      · exact (h.ringCounter.fst ‹_›).request.next
      · exact (h.ringCounter.fst ‹_›).divert.next
      · split
        · split
          · exact (h.ringCounter.fst ‹_›).next
          · exact (h.ringCounter.fst ‹_›).free.countOvf.next
        · split
          · exact (h.ringCounter.fst ‹_›).next
          · split
            · exact (((h.ringCounter.fst ‹_›).ringCounter.fst ‹_›).request).next
            · exact (((h.ringCounter.fst ‹_›).ringCounter.fst ‹_›).divert).next
            · split
              · exact ((((h.ringCounter.fst ‹_›).ringCounter.fst ‹_›).ringSpan.fst ‹_›).request).next
              · exact ((((h.ringCounter.fst ‹_›).ringCounter.fst ‹_›).ringSpan.fst ‹_›).divert).next
              · split
                · exact ((((h.ringCounter.fst ‹_›).ringCounter.fst ‹_›).ringSpan.fst ‹_›).request).next
                · exact ((((h.ringCounter.fst ‹_›).ringCounter.fst ‹_›).ringSpan.fst ‹_›).putRecord).next

theorem Keeps.resumeSlot (h : Keeps b o s) {v} : Keeps b o (Machine.resumeSlot s v) := h.putSlot

theorem Keeps.skipSlot (h : Keeps b o s) {v r₁ n} : Keeps b o (Machine.skipSlot s v r₁ n) := h.putWave

theorem Keeps.killHeld (h : Keeps b o s) {v r₁} : Keeps b o (Machine.killHeld s v r₁) := by
  unfold Machine.killHeld
  split
  · exact h.stopTeam
  · exact h.stopWave

theorem Keeps.discardFrom (h : Keeps false o s) {c} : Keeps false o (Machine.discardFrom s c) :=
  h.foldl fun _ _ h => h.endCmd

theorem Keeps.resumeCmd (h : Keeps false o s) {c} : Keeps false o (Machine.resumeCmd s c) := by
  unfold Machine.resumeCmd
  split
  · exact h.modCmd
  · exact h.discardFrom

theorem Keeps.forwardRec (h : Keeps b o s) {r₁} : Keeps b o (Machine.forwardRec s r₁) := h.free rfl

theorem Keeps.forwardCmd (h : Keeps b o s) {c r₁} : Keeps b o (Machine.forwardCmd s c r₁) :=
  h.forwardRec.modQStat.modCmd

theorem Keeps.dispose (h : Keeps false o s) {ring r₁ act} : Keeps false o (Machine.dispose s ring r₁ act) := by
  unfold Machine.dispose
  extract_lets slot cmd
  generalize slot = slot, cmd = cmd
  split
  · exact h
  · split
    · exact h.endContext
    · split
      · exact h.killHeld
      · exact h.resumeSlot
    · split
      · split
        · exact h.killHeld
        · exact h.skipSlot
      · exact h.killHeld
    · split
      · exact h.forwardRec
      · exact h.killHeld
    · exact h.killHeld
    · exact h.resumeCmd
    · split
      · exact h.forwardCmd
      · exact h.discardFrom
    · exact h.discardFrom
    · exact h

theorem Keeps.execDisposition (h : Keeps false o s) {ring} : Ends o (Machine.execDisposition ring s) := by
  unfold Machine.execDisposition
  split
  · split
    · exact h.next
    · split
      · split
        · exact (h.ringCounter.fst ‹_›).next
        · split
          · extract_lets _ r s3
            have hr : Keeps false o r := ((h.ringCounter.fst ‹_›).ringSpan.fst ‹_›).putRing
            have h3 : Keeps false o s3 := hr.free
            split
            · exact h3.dispose.next
            · exact h3.next
          · exact (((h.ringCounter.fst ‹_›).ringSpan.fst ‹_›).request).next
          · exact ((h.ringCounter.fst ‹_›).ringSpan.fst ‹_›).next
      · exact (h.ringCounter.fst ‹_›).request.next
      · exact (h.ringCounter.fst ‹_›).next
  · exact h.next

theorem Keeps.execMchk (h : Keeps false o s) {team unit} : Ends o (Machine.execMchk team unit s) := by
  unfold Machine.execMchk
  extract_lets _ s1 s2
  have h1 : Keeps false o s1 := h.dropWaits
  have h2 : Keeps false o s2 := h1.modTeam
  split
  · exact h.next
  · extract_lets
    split
    · exact h.next
    · exact h2.addRec.next

/-! ### Guest code -/

/-- The function is put in for its name as a whole, as unfolding it in the goal makes the kernel evaluate the tag's address. -/
theorem Keeps.readTag (h : Keeps b o s) {core c a} : Leaves b o (Machine.readTag s core c a) := by
  generalize hf : Machine.readTag = f
  delta Machine.readTag at hf
  subst hf
  beta_reduce
  split
  · exact h.globTarget.fst ‹_›
  · exact h.globTarget.fst ‹_›
  · have h1 := h.globTarget.fst ‹_›
    split
    · exact h1
    · unfold Leaves
      dsimp only
      split
      · exact h1.recall
      · exact h1

theorem Keeps.codeRead (h : Keeps b o s) {core ctx a k} : Keeps b o (Machine.codeRead s core ctx a k).1 := by
  unfold Machine.codeRead
  split
  · exact h
  · extract_lets
    split
    · exact h
    · split
      · exact h
      · split
        · exact h
        · split
          · exact h.globTarget.fst ‹_›
          · extract_lets
            split
            · exact h.globTarget.fst ‹_›
            · split
              · exact h.globTarget.fst ‹_›
              · split
                · exact (h.globTarget.fst ‹_›).readTag.fst ‹_›
                · extract_lets s2
                  have h2 : Keeps b o s2 := ((h.globTarget.fst ‹_›).readTag.fst ‹_›).recall
                  split
                  · exact (h.globTarget.fst ‹_›).readTag.fst ‹_›
                  · split <;> exact h2

theorem Keeps.installLine (h : Keeps b o s) {core ctx a bits} : Keeps b o (State.installLine s core ctx a bits) :=
  h.free rfl

theorem Keeps.execInstructionCacheFill (h : Keeps false o s) {core ctx va} :
    Ends o (Machine.execInstructionCacheFill core ctx va s) := by
  unfold Machine.execInstructionCacheFill
  extract_lets a slot
  generalize slot = slot
  split
  · exact h.next
  · split
    · exact (h.codeRead.fst ‹_›).installLine.next
    · have h1 := h.codeRead.fst ‹_›
      cases slot with
      | none => exact h1.request.next
      | some v => exact h1.request.putSlot.next
    · have h1 := h.codeRead.fst ‹_›
      cases slot with
      | none => exact h1.next
      | some v => exact h1.stopSlot.next

theorem Keeps.prefetchLine (h : Keeps b o s) {core ctx a} : Keeps b o (State.prefetchLine s core ctx a) := by
  unfold State.prefetchLine
  split
  · exact h
  · split
    · exact (h.codeRead.fst ‹_›).installLine
    · extract_lets r
      have hr : Keeps b o r := (h.codeRead.fst ‹_›).request
      exact hr.free
    · exact h.codeRead.fst ‹_›

theorem Keeps.retryPrefetches (h : Keeps b o s) : Keeps b o (State.retryPrefetches s) := by
  unfold State.retryPrefetches
  refine h.free.foldl fun _ _ h => ?_
  extract_lets
  split
  · exact h.prefetchLine
  · exact h.prefetchData

theorem Keeps.execIpref (h : Keeps false o s) {f} : Ends o (Machine.execIpref f s) := by
  unfold Machine.execIpref
  refine h.issue fun v => ?_
  extract_lets _ s1
  have h1 : Keeps false o s1 := by
    dsimp only [s1]
    split
    · exact h
    · exact h.foldl fun _ _ h => h.prefetchLine
  exact h1.putSlot

theorem Keeps.imageLines (h : Keeps b o s) {core ctx img l m} : Keeps b o (Machine.imageLines core ctx img l s m).1 := by
  induction l generalizing s m with
  | nil => exact h
  | cons i l ih =>
    unfold Machine.imageLines
    split
    · exact ih (h.codeRead.fst ‹_›)
    · exact h.codeRead.fst ‹_›
    · exact h.codeRead.fst ‹_›

theorem Keeps.loadImage (h : Keeps b o s) {core ctx img} : Keeps b o (Machine.loadImage core ctx img s).1 := by
  unfold Machine.loadImage
  split
  · extract_lets
    split
    · exact h.imageLines.fst ‹_›
    · split
      · split <;> exact (h.imageLines.fst ‹_›).imageLines.fst ‹_›
      · exact (h.imageLines.fst ‹_›).imageLines
  · exact h.imageLines

theorem Keeps.putDec (h : Keeps b o s) {d} : Keeps b o (State.putDec s d) := h.free rfl

theorem Keeps.imageFor (h : Keeps b o s) {core ctx pers img gen} :
    Keeps b o (Machine.imageFor s core ctx pers img gen).1 := by
  unfold Machine.imageFor
  extract_lets
  split
  · exact h.free
  · split
    · exact (h.loadImage.fst ‹_›).putDec
    · exact h.loadImage.fst ‹_›
    · exact (h.loadImage.fst ‹_›).putDec

theorem Keeps.emulate (h : Keeps b o s) {v m why plane tpl len word fld} :
    Keeps b o (Machine.emulate s v m why plane tpl len word fld) := by
  unfold Machine.emulate
  extract_lets
  split
  · exact h.stopSlot
  · split <;> exact h.putSlot

theorem Keeps.templateLine (h : Keeps b o s) {core ctx img tpl} : Keeps b o (Machine.templateLine s core ctx img tpl).1 :=
  h.codeRead

theorem Keeps.putOps (h : Keeps b o s) {x} : Keeps b o (State.putOps s x) := h.free rfl

theorem Keeps.decodePlane (h : Keeps b o s) {v m img n word} : Keeps b o (Machine.decodePlane s v m img n word) := by
  unfold Machine.decodePlane
  extract_lets
  split
  · exact h.emulate
  · split
    · exact (h.templateLine.fst ‹_›).request.putSlot
    · exact (h.templateLine.fst ‹_›).stopSlot
    · split
      · exact (h.templateLine.fst ‹_›).stopSlot
      · split
        · exact (h.templateLine.fst ‹_›).emulate
        · extract_lets
          exact (h.templateLine.fst ‹_›).putOps.putSlot

theorem Keeps.decodeWith (h : Keeps b o s) {v m img lo hi} : Keeps b o (Machine.decodeWith s v m img lo hi) := by
  unfold Machine.decodeWith
  extract_lets
  split
  · exact h
  · exact h.putSlot
  · exact h.decodePlane
  · exact h.emulate

theorem Keeps.execGuestDecode (h : Keeps false o s) {sl} : Ends o (Machine.execGuestDecode sl s) := by
  unfold Machine.execGuestDecode
  split
  · exact h.next
  · extract_lets
    split
    · exact h.next
    · split
      · split
        · exact h.putOps.putSlot.next
        · split
          · exact (h.imageFor.fst ‹_›).request.putSlot.next
          · exact (h.imageFor.fst ‹_›).stopSlot.next
          · extract_lets
            split
            · split
              · exact (((h.imageFor.fst ‹_›).codeRead.fst ‹_›).installLine).next
              · exact ((((h.imageFor.fst ‹_›).codeRead.fst ‹_›).request).putSlot).next
              · exact (((h.imageFor.fst ‹_›).codeRead.fst ‹_›).stopSlot).next
            · exact (h.imageFor.fst ‹_›).decodeWith.next
      · exact h.stopSlot.next
      · exact h.next

end Sys2Proof.Machine
end

section

/-! PROOFS. Memory and the writes in flight in matrix operations and repeats (O55). -/

namespace Sys2Proof.Machine

-- Many of these lemmas split the same definition: one after another, so that none waits in a thread of its own.
set_option Elab.async false

variable {b : Bool} {o s t : State}

/-! ### Matrix operations -/

/-- A course of checks and reads whose states are kept; where it has not failed, `p` holds of its value. -/
def Mx.Kept {α : Type} (b : Bool) (o : State) (p : α → Prop) (r : Mx α) : Prop := Keeps b o r.1 ∧ ∀ x, r.2 = .ok x → p x

theorem Mx.Kept.ok {α : Type} {p : α → Prop} {x : α} (h : Keeps b o s) (hx : p x) : Mx.Kept b o p (s, .ok x) :=
  ⟨h, fun _ e => Except.ok.inj e ▸ hx⟩

theorem Mx.Kept.error {α : Type} {p : α → Prop} {e : MxErr} (h : Keeps b o s) :
    Mx.Kept b o p (s, .error e) := ⟨h, fun _ e => nomatch e⟩

theorem Mx.Kept.mxThen {α β : Type} {q : α → Prop} {p : β → Prop} {r : Mx α} {f : State → α → Mx β} (h : Mx.Kept b o q r)
    (hf : ∀ s x, Keeps b o s → Mx.Kept b o p (f s x)) : Mx.Kept b o p (Machine.mxThen r f) := by
  match r, h with
  | (_, .error _), h => exact .error h.1
  | (s, .ok x), h => exact hf s x h.1

theorem Keeps.mxCheck {α : Type} {p : α → Prop} (h : Keeps b o s) {ok cause r} (hr : Mx.Kept b o p r) :
    Mx.Kept b o p (Machine.mxCheck ok cause s r) := by
  unfold Machine.mxCheck
  split
  · exact hr
  · exact .error h

theorem Keeps.engTarget (h : Keeps b o s) {v spc a n k} : Keeps b o (Machine.engTarget s v spc a n k).1 := by
  unfold Machine.engTarget
  split
  · split
    · exact h
    · exact h.globTarget
  · exact h

theorem Keeps.runTarget (h : Keeps b o s) {v spc r₁ k} : Keeps b o (Machine.runTarget s v spc r₁ k).1 := by
  unfold Machine.runTarget
  split
  · exact h.engTarget
  · split
    · exact h
    · split <;> exact h

theorem Keeps.engPieces (h : Keeps b o s) {v spc k l} : Mx.Kept b o (fun _ => True) (Machine.engPieces v spc k l s) := by
  induction l generalizing s with
  | nil => exact .ok h trivial
  | cons x l ih =>
    unfold Machine.engPieces
    split
    · exact .error (h.runTarget.fst ‹_›)
    · have h1 := h.runTarget.fst ‹_›
      split
      · exact .error h1
      · exact (ih h1).mxThen fun s x h => .ok h trivial

theorem Keeps.engRead (h : Keeps b o s) {v spc str runs} :
    Mx.Kept b o (fun _ => True) (Machine.engRead s v spc str runs) := by
  unfold Machine.engRead
  extract_lets
  split
  · exact .error h
  · refine h.engPieces.mxThen fun s1 ps h1 => ?_
    extract_lets _ s2 s3
    split
    · have h3 : Keeps b o s3 := (h1.foldl fun _ _ h => h.flushFor.recall).forceBefore
      exact .ok (h3.foldl fun _ _ h => h.fillFor) trivial
    · exact .error h1

theorem Keeps.engWrite (h : Keeps b o s) {v spc str runs} :
    Mx.Kept b o (fun _ => True) (Machine.engWrite s v spc str runs) := by
  unfold Machine.engWrite
  extract_lets
  split
  · exact .error h
  · split
    · exact .error h
    · next he =>
      split
      · exact .ok ((h.engPieces.1.fst he).foldl fun _ _ h => (h.flushFor.recall).foldl fun _ _ h => h.addWrite) trivial
      · exact .error h

theorem Keeps.engLines (h : Keeps b o s) {v spc str rs} : Mx.Kept b o (fun _ => True) (Machine.engLines s v spc str rs) :=
  h.engRead.mxThen fun _ _ h => .ok h trivial

theorem Keeps.mxFinish {r : Mx (State × Slot)} (h : Mx.Kept false o (fun y => Keeps false o y.1) r) {c word x v} :
    Keeps false o (Machine.mxFinish c word x v r) := by
  obtain ⟨h, hok⟩ := h
  unfold Machine.mxFinish
  split
  · exact (hok _ rfl).putSlot
  · exact h.request.putSlot
  · split
    · exact h.stopSlot
    · exact h.putSlot
  · split
    · exact h.stopSlot
    · exact h.putSlot

theorem Keeps.mxIssue (h : Keeps false o s) {c word causes wait names args body}
    (hbody : ∀ x v s, Keeps false o s → Mx.Kept false o (fun y => Keeps false o y.1) (body x v s)) :
    Ends o (Machine.mxIssue c word causes wait names args body s) := by
  refine h.issue fun v => ?_
  split
  · exact h.putSlot
  · exact Keeps.mxFinish (hbody _ _ _ h)

theorem Keeps.setAcc (h : Keeps b o s) {t₁ n a} : Keeps b o (State.setAcc s t₁ n a) := h.modTeam

theorem Keeps.mxAcc {α : Type} {p : α → Prop} (h : Keeps b o s) {v n f} (hf : ∀ a, Mx.Kept b o p (f a)) :
    Mx.Kept b o p (Machine.mxAcc v s n f) := by
  unfold Machine.mxAcc
  split
  · exact .error h
  · exact hf _

theorem Keeps.mxSlot {α : Type} {p : α → Prop} (h : Keeps b o s) {v n f} (hf : ∀ w, Mx.Kept b o p (f w)) :
    Mx.Kept b o p (Machine.mxSlot v s n f) := by
  unfold Machine.mxSlot
  split
  · exact .error h
  · exact hf _

theorem Keeps.mzeroBody (h : Keeps b o s) {f x v} : Mx.Kept b o (fun y => Keeps b o y.1) (Machine.mzeroBody f x v s) :=
  h.mxAcc fun _ => .ok h h.setAcc

theorem Keeps.execMzero (h : Keeps false o s) {f} : Ends o (Machine.execMzero f s) := h.mxIssue fun _ _ _ h => h.mzeroBody

theorem Keeps.mldbBody (h : Keeps b o s) {f x v} : Mx.Kept b o (fun y => Keeps b o y.1) (Machine.mldbBody f x v s) :=
  h.mxSlot fun _ => h.mxCheck (h.engLines.mxThen fun _ _ h => .ok h h.modTeam)

theorem Keeps.execMldb (h : Keeps false o s) {f} : Ends o (Machine.execMldb f s) := h.mxIssue fun _ _ _ h => h.mldbBody

theorem Keeps.stepBody (h : Keeps b o s) {f masked dist x v} :
    Mx.Kept b o (fun y => Keeps b o y.1) (Machine.stepBody f masked dist x v s) :=
  h.mxAcc fun _ => h.mxSlot fun _ => h.mxCheck <| h.mxCheck <| h.mxCheck <| h.mxCheck <| h.engLines.mxThen fun _ _ h => .ok h h.setAcc

theorem Keeps.execMma (h : Keeps false o s) {f} : Ends o (Machine.execMma f s) := h.mxIssue fun _ _ _ h => h.stepBody

theorem Keeps.execMmam (h : Keeps false o s) {f} : Ends o (Machine.execMmam f s) := h.mxIssue fun _ _ _ h => h.stepBody

theorem Keeps.execMdist (h : Keeps false o s) {f} : Ends o (Machine.execMdist f s) := h.mxIssue fun _ _ _ h => h.stepBody

theorem Keeps.mtopkBody (h : Keeps b o s) {f x v} : Mx.Kept b o (fun y => Keeps b o y.1) (Machine.mtopkBody f x v s) :=
  h.mxAcc fun _ => h.mxCheck (.ok h h)

theorem Keeps.execMtopk (h : Keeps false o s) {f} : Ends o (Machine.execMtopk f s) := h.mxIssue fun _ _ _ h => h.mtopkBody

theorem Keeps.readEpi (h : Keeps b o s) {v str a} : Mx.Kept b o (fun _ => True) (Machine.readEpi s v str a) :=
  h.mxCheck (h.engRead.mxThen fun _ _ h => h.mxCheck (.ok h trivial))

theorem Keeps.mepiBody (h : Keeps b o s) {f x v} : Mx.Kept b o (fun y => Keeps b o y.1) (Machine.mepiBody f x v s) :=
  h.readEpi.mxThen fun _ _ h => .ok h h

theorem Keeps.execMepi (h : Keeps false o s) {f} : Ends o (Machine.execMepi f s) := h.mxIssue fun _ _ _ h => h.mepiBody

theorem Keeps.epiVectors (h : Keeps b o s) {v str e c0 cols} :
    Mx.Kept b o (fun _ => True) (Machine.epiVectors s v str e c0 cols) :=
  h.engRead.mxThen fun _ _ h => .ok h trivial

theorem Keeps.storeRows (h : Keeps b o s) {v str spc e a base stride c0 rows cols} :
    Mx.Kept b o (fun _ => True) (Machine.storeRows s v str spc e a base stride c0 rows cols) := by
  unfold Machine.storeRows
  split
  · exact .ok h trivial
  · exact h.epiVectors.mxThen fun _ _ h => h.engWrite

theorem Keeps.boundEpi (h : Keeps b o s) {v tyI} : Mx.Kept b o (fun _ => True) (Machine.boundEpi s v tyI) := by
  unfold Machine.boundEpi
  split
  · exact .ok h trivial
  · split
    · exact .ok h trivial
    · exact h.readEpi.mxThen fun _ _ h => .ok h trivial

theorem Keeps.mstoreBody (h : Keeps b o s) {f x v} : Mx.Kept b o (fun y => Keeps b o y.1) (Machine.mstoreBody f x v s) :=
  h.mxAcc fun _ => h.mxCheck <| h.boundEpi.mxThen fun _ _ h => h.mxCheck <| h.storeRows.mxThen fun _ _ h => .ok h h

theorem Keeps.execMstore (h : Keeps false o s) {f} : Ends o (Machine.execMstore f s) := h.mxIssue fun _ _ _ h => h.mstoreBody

theorem Keeps.mspillBody (h : Keeps b o s) {f x v} : Mx.Kept b o (fun y => Keeps b o y.1) (Machine.mspillBody f x v s) :=
  h.mxAcc fun _ => h.mxCheck (h.engWrite.mxThen fun _ _ h => .ok h h)

theorem Keeps.mfillBody (h : Keeps b o s) {f x v} : Mx.Kept b o (fun y => Keeps b o y.1) (Machine.mfillBody f x v s) :=
  h.mxAcc fun _ => h.mxCheck <| h.engRead.mxThen fun _ _ h => h.mxCheck <| .ok h h.setAcc

theorem Keeps.execMspill (h : Keeps false o s) {f} : Ends o (Machine.execMspill f s) := h.mxIssue fun _ _ _ h => h.mspillBody

theorem Keeps.execMfill (h : Keeps false o s) {f} : Ends o (Machine.execMfill f s) := h.mxIssue fun _ _ _ h => h.mfillBody

theorem Keeps.mstatBody (h : Keeps b o s) {f x v} : Mx.Kept b o (fun y => Keeps b o y.1) (Machine.mstatBody f x v s) := by
  unfold Machine.mstatBody
  extract_lets _ done
  have hdone (y : Nat) : Mx.Kept b o (fun y => Keeps b o y.1) (done y) := .ok h h
  split
  · exact h.mxAcc fun _ => hdone _
  · exact h.mxSlot fun _ => hdone _
  · exact h.mxAcc fun _ => hdone _

theorem Keeps.execMstat (h : Keeps false o s) {f} : Ends o (Machine.execMstat f s) := h.mxIssue fun _ _ _ h => h.mstatBody

/-- The effects of the operations that may be accepted later. -/
theorem Keeps.mxBody (h : Keeps b o s) {i c body} (e : mxBody i = some (c, body)) {x v} :
    Mx.Kept b o (fun y => Keeps b o y.1) (body x v s) := by
  unfold Machine.mxBody at e
  split at e
  case h_12 => exact nomatch e
  all_goals cases e
  · exact h.mzeroBody
  · exact h.mldbBody
  · exact h.stepBody
  · exact h.stepBody
  · exact h.stepBody
  · exact h.mtopkBody
  · exact h.mstoreBody
  · exact h.mepiBody
  · exact h.mspillBody
  · exact h.mfillBody
  · exact h.mstatBody

theorem Keeps.execMatrixAcceptance (h : Keeps false o s) {sl} : Ends o (Machine.execMatrixAcceptance sl s) := by
  unfold Machine.execMatrixAcceptance
  split
  · exact h.next
  · split
    · split
      · exact h.next
      · split
        · exact h.next
        · exact (Keeps.mxFinish (h.mxBody ‹_›)).next
    · exact h.next

theorem Keeps.mgemmPlan (h : Keeps b o s) {f a v} : Mx.Kept b o (fun _ => True) (Machine.mgemmPlan f a v s) := by
  refine h.mxCheck (h.engRead.mxThen fun s1 ds h1 => h1.mxCheck <| h1.mxCheck <| h1.mxCheck ?_)
  dsimp only
  split
  · exact h1.mxCheck (.ok h1 trivial)
  · exact h1.readEpi.mxThen fun _ _ h => h.mxCheck (.ok h trivial)

theorem Keeps.execMgemm (h : Keeps false o s) {f} : Ends o (Machine.execMgemm f s) := by
  refine h.issue fun v => ?_
  dsimp only
  split
  · exact h.putSlot
  · have hp := h.mgemmPlan (f := f) (a := readS64 v f.sa) (v := v)
    split
    · exact (hp.1.fst ‹_›).putSlot
    · exact (hp.1.fst ‹_›).request.putSlot
    · exact (hp.1.fst ‹_›).stopSlot
    · exact (hp.1.fst ‹_›).stopSlot

theorem Keeps.mgStepRow (h : Keeps b o s) {v r₁} : Mx.Kept b o (Keeps b o) (Machine.mgStepRow v r₁ s) :=
  h.mxAcc fun _ => h.mxSlot fun _ => h.mxCheck <| h.mxCheck <| h.mxCheck <| h.engLines.mxThen fun _ _ h => .ok h h.setAcc

theorem Keeps.mgStoreRow (h : Keeps b o s) {v r₁} : Mx.Kept b o (Keeps b o) (Machine.mgStoreRow v r₁ s) :=
  h.mxAcc fun _ => h.storeRows.mxThen fun _ _ h => .ok h h

theorem Keeps.mgComplete (h : Keeps false o s) {v r₁} : Keeps false o (Machine.mgComplete v r₁ s) := by
  unfold Machine.mgComplete
  extract_lets d a fail clus str sco walks
  have hfail (s : State) (cause : Nat) (h : Keeps false o s) : Keeps false o (fail s cause) := h.addRec.putSlot
  clear_value fail
  split
  · exact h.putSlot
  · split
    · exact h.request
    · split
      · exact hfail _ _ h
      · have hctr : Keeps false o (if clus then (s, ctrSeg s v.t a) else Machine.ctrGlob s v.t.core v.t.ctx a true).1 := by
          split
          · exact h
          · exact h.ctrGlob
        split
        · have h1 := hctr.fst ‹_›
          split
          · split
            · exact hfail _ _ h1
            · refine (Keeps.ctrAdd (Keeps.recall (Keeps.release ?_))).putSlot
              split
              · exact h1
              · exact h1.markCtr
          · exact h1.request
        · exact hfail _ _ (hctr.fst ‹_›)
        · exact hfail _ _ (hctr.fst ‹_›)

theorem Keeps.mgRow (h : Keeps false o s) {v r₁} : Keeps false o (Machine.mgRow v r₁ s) := by
  unfold Machine.mgRow
  extract_lets d stop
  have hstop (s : State) (cause : Nat) (rec : View → FRec) (h : Keeps false o s) : Keeps false o (stop s cause rec) := by
    dsimp only [stop]
    split
    · exact h.stopSlot
    · exact h.putSlot
  have hrow : Mx.Kept false o (Keeps false o) (if r₁.store then Machine.mgStoreRow v r₁ s else Machine.mgStepRow v r₁ s) := by
    split
    · exact h.mgStoreRow
    · exact h.mgStepRow
  generalize (if r₁.store then Machine.mgStoreRow v r₁ s else Machine.mgStepRow v r₁ s) = row at hrow
  clear_value stop
  obtain ⟨h1, hok⟩ := hrow
  split
  · exact (hok _ rfl).putSlot
  · exact h1.request.putSlot
  · exact hstop _ _ _ h1
  · exact hstop _ _ _ h1

theorem Keeps.mgAdvance (h : Keeps false o s) {v r₁} : Keeps false o (Machine.mgAdvance v r₁ s) := by
  unfold Machine.mgAdvance
  extract_lets _ _ s1
  have h1 : Keeps false o s1 := by
    dsimp only [s1]
    split
    · exact h
    · exact h.setAcc
  split
  · split
    · exact h.mgComplete
    · exact h.putSlot
  · split
    · exact h1.putSlot
    · split
      · exact h1.putSlot
      · split
        · exact h1
        · extract_lets
          exact h1.mgRow

theorem Keeps.execMgemmSequencerStep (h : Keeps false o s) {sl} : Ends o (Machine.execMgemmSequencerStep sl s) := by
  unfold Machine.execMgemmSequencerStep
  split
  · exact h.next
  · split
    · split
      · exact h.next
      · exact h.mgAdvance.next
    · exact h.next

/-! ### Repeats -/

theorem Keeps.execRep (h : Keeps false o s) {f} : Ends o (Machine.execRep f s) := by
  unfold Machine.execRep
  refine h.issue fun v => ?_
  extract_lets
  split
  · exact h
  · exact h.putSlot

end Sys2Proof.Machine
end

section

/-! PROOFS. Memory and the writes in flight in the front end, placement and preemption (O55). -/

namespace Sys2Proof.Machine

-- Many of these lemmas split the same definition: one after another, so that none waits in a thread of its own.
set_option Elab.async false

variable {b : Bool} {o s t : State}

/-! ### The front end -/

theorem Keeps.rejectRec (h : Keeps b o s) {q idx reason addr} : Keeps b o (State.rejectRec s q idx reason addr) :=
  h.modQueue.addRec

theorem Keeps.frontRelease (h : Keeps b o s) {scope} : Keeps b o (State.frontRelease s scope) := h.releaseWrites

theorem Keeps.feAdvance (h : Keeps b o s) {q head} : Keeps b o (State.feAdvance s q head) := by
  unfold State.feAdvance
  extract_lets s1 s2
  have h1 : Keeps b o s1 := h.frontRelease.ctrAdd
  have h2 : Keeps b o s2 := h1.modQueue
  exact h2.free

theorem Keeps.feRecord (h : Keeps b o s) {q ctx n addr d k} : Keeps b o (State.feRecord s q ctx n addr d k) := by
  unfold State.feRecord
  extract_lets
  split
  · split
    · exact h.rejectRec
    · exact h.free
  · split
    · exact h.rejectRec
    · exact h.free
  · exact h.rejectRec

theorem Keeps.feTake (h : Keeps b o s) {q} : Keeps b o (Machine.feTake s q) := by
  unfold Machine.feTake
  extract_lets
  split
  · exact (h.ctrGot.fst ‹_›).request
  · exact (h.ctrGot.fst ‹_›).queueDisable
  · split
    · exact ((h.ctrGot.fst ‹_›).bytesGot.fst ‹_›).request
    · exact ((h.ctrGot.fst ‹_›).bytesGot.fst ‹_›).queueDisable
    · split
      · exact ((h.ctrGot.fst ‹_›).bytesGot.fst ‹_›).request
      · split
        · split
          · exact (((h.ctrGot.fst ‹_›).bytesGot.fst ‹_›).kernelGot.fst ‹_›).request
          · exact ((((h.ctrGot.fst ‹_›).bytesGot.fst ‹_›).kernelGot.fst ‹_›).feAdvance).feRecord
          · exact ((((h.ctrGot.fst ‹_›).bytesGot.fst ‹_›).kernelGot.fst ‹_›).feAdvance).feRecord
        · exact (((h.ctrGot.fst ‹_›).bytesGot.fst ‹_›).feAdvance).feRecord

theorem Keeps.execFrontEndTake (h : Keeps false o s) {q} : Ends o (Machine.execFrontEndTake q s) := by
  unfold Machine.execFrontEndTake
  extract_lets
  split
  · exact h.next
  · split
    · exact (h.ctrGot.fst ‹_›).queueDisable.next
    · exact (h.ctrGot.fst ‹_›).request.next
    · split
      · exact (h.ctrGot.fst ‹_›).ctrSettle.feTake.next
      · exact h.next

/-- The state of a step of a feed. -/
def FeedStep.Kept (b : Bool) (o : State) : FeedStep → Prop
  | .done s => Keeps b o s
  | .wait s _ => Keeps b o s
  | .bad s _ => Keeps b o s

theorem FeedStep.Kept.done {r : FeedStep} (h : r.Kept b o) (e : r = .done s) : Keeps b o s := by
  subst e
  exact h

theorem FeedStep.Kept.wait {r : FeedStep} {ns} (h : r.Kept b o) (e : r = .wait s ns) : Keeps b o s := by
  subst e
  exact h

theorem FeedStep.Kept.bad {r : FeedStep} {a} (h : r.Kept b o) (e : r = .bad s a) : Keeps b o s := by
  subst e
  exact h

theorem Keeps.feedPiece (h : Keeps b o s) {ctx src dst} : (Machine.feedPiece s ctx src dst).Kept b o := by
  unfold Machine.feedPiece
  split
  · exact h.bytesGot.fst ‹_›
  · exact h.bytesGot.fst ‹_›
  · have h1 := h.bytesGot.fst ‹_›
    split
    · exact h1.spanGot.fst ‹_›
    · exact h1.spanGot.fst ‹_›
    · exact (h1.spanGot.fst ‹_›).spanWrite

theorem Keeps.feedCopy (h : Keeps b o s) {f t₁ i n} : (Machine.feedCopy f t₁ i s n).Kept b o := by
  induction n generalizing s i with
  | zero => exact h
  | succ n ih =>
    unfold Machine.feedCopy
    extract_lets
    split
    · exact ih (h.feedPiece.done ‹_›)
    · exact h.feedPiece

theorem Keeps.feedEnd (h : Keeps b o s) {f} : Keeps b o (State.feedEnd s f) := h.modQueue.free.takeOver

theorem Keeps.feedFault (h : Keeps b o s) {f addr} : Keeps b o (State.feedFault s f addr) :=
  h.free.takeOver.queueDisable

theorem Keeps.execFeed (h : Keeps false o s) : Ends o (Machine.execFeed s) := by
  unfold Machine.execFeed
  split
  · exact h.next
  · split
    · exact (h.ctrGot.fst ‹_›).request.next
    · exact (h.ctrGot.fst ‹_›).feedFault.next
    · have h1 := h.ctrGot.fst ‹_›
      split
      · exact (h1.ctrGot.fst ‹_›).request.next
      · exact (h1.ctrGot.fst ‹_›).feedFault.next
      · extract_lets s3 _
        have h3 : Keeps false o s3 := (h1.ctrGot.fst ‹_›).ctrSettle.ctrSettle
        split
        · exact (Keeps.free h3.modQueue).next
        · split
          · exact (Keeps.request (h3.feedCopy.wait ‹_›).free).next
          · exact (h3.feedCopy.bad ‹_›).feedFault.next
          · have h4 := h3.feedCopy.done ‹_›
            split
            · exact (Keeps.request h4.free).next
            · exact h4.frontRelease.ctrAdd.feedEnd.next

theorem Keeps.modLaunch (h : Keeps b o s) {id f} : Keeps b o (State.modLaunch s id f) := h.free rfl

theorem Keeps.dropLaunch (h : Keeps b o s) {id} : Keeps b o (State.dropLaunch s id) := h.free rfl

theorem Keeps.makeReady (h : Keeps b o s) {l} : Keeps b o (State.makeReady s l) := by
  unfold State.makeReady
  split
  · exact h.modLaunch
  · exact h

theorem Keeps.execLaunchReady (h : Keeps false o s) {launch} : Ends o (Machine.execLaunchReady launch s) := by
  unfold Machine.execLaunchReady
  split
  · exact h.next
  · split
    · exact h.next
    · split
      · exact h.makeReady.next
      · split
        · exact (h.ctrGot.fst ‹_›).request.next
        · exact (h.ctrGot.fst ‹_›).rejectRec.dropLaunch.next
        · extract_lets s2
          have h2 : Keeps false o s2 := (h.ctrGot.fst ‹_›).ctrSettle
          split
          · exact h2.modLaunch.makeReady.next
          · exact h2.next

theorem Keeps.execStartTimeReached (h : Keeps false o s) : Ends o (Machine.execStartTimeReached s) := h.free.next

theorem Keeps.execLaunchComplete (h : Keeps false o s) {launch} : Ends o (Machine.execLaunchComplete launch s) := by
  unfold Machine.execLaunchComplete
  split
  · exact h.next
  · split
    · exact h.next
    · split
      · exact h.dropLaunch.next
      · split
        · exact (h.ctrGot.fst ‹_›).request.next
        · exact (h.ctrGot.fst ‹_›).charge.dropLaunch.next
        · extract_lets
          split
          · exact (h.ctrGot.fst ‹_›).request.next
          · exact (h.ctrGot.fst ‹_›).perform.ctrAdd.dropLaunch.next

/-! ### Placement -/

theorem Keeps.clearGranule (h : Keeps false o s) {die g} : Keeps false o (State.clearGranule s die g) := by
  unfold State.clearGranule
  extract_lets lo inside
  exact (h.dropBytes (p := Loc.inRange lo (lo + 2 ^ 20))).lost (p := fun a => !inside a) rfl rfl rfl nofun

theorem Keeps.placeTeam (h : Keeps false o s) {l gang stage pins num core} :
    Keeps false o (Machine.placeTeam l gang stage pins s num core) :=
  h.free.foldl fun _ _ h => h.clearGranule

theorem Keeps.placeTeams (h : Keeps false o s) {l gang stage cores pins} :
    Keeps false o (Machine.placeTeams s l gang stage cores pins) :=
  h.foldl fun _ _ h => h.placeTeam

/-- The state of a refill. -/
def Refill.Kept (b : Bool) (o : State) : Refill → Prop
  | .done s _ => Keeps b o s
  | .wait _ => True

theorem Refill.Kept.done {r : Refill} {names} (h : r.Kept b o) (e : r = .done s names) : Keeps b o s := by
  subst e
  exact h

theorem Keeps.refillOne (h : Keeps b o s) {l cl cores names g} : (Machine.refillOne l cl cores s names g).Kept b o := by
  unfold Machine.refillOne
  extract_lets
  split
  · exact h.modSeg.free
  · trivial
  · exact h

theorem Keeps.refillAll (h : Keeps b o s) {l cl cores names gs} : (Machine.refillAll l cl cores s names gs).Kept b o := by
  induction gs generalizing s names with
  | nil => exact h
  | cons g gs ih =>
    unfold Machine.refillAll
    split
    · exact ih (h.refillOne.done ‹_›)
    · trivial

/-- The state of an attempt to place. -/
def Attempt.Kept (b : Bool) (o : State) : Attempt → Prop
  | .placed s => Keeps b o s
  | .wait _ _ => True

theorem Attempt.Kept.placed {r : Attempt} (h : r.Kept b o) (e : r = .placed s) : Keeps b o s := by
  subst e
  exact h

theorem Keeps.finishPlace (h : Keeps false o s) {l gang stage cl cores} :
    (Machine.finishPlace s l gang stage cl cores).Kept false o := by
  unfold Machine.finishPlace
  extract_lets _ bare
  have hbare : Keeps false o bare := h.placeTeams
  split
  · trivial
  · exact (hbare.refillAll.done ‹_›).frame.modLaunch

theorem Keeps.tryPlace (h : Keeps false o s) {avoid l gang stage} :
    (Machine.tryPlace s avoid l gang stage).Kept false o := by
  unfold Machine.tryPlace
  extract_lets
  split
  · exact h.finishPlace
  · split <;> trivial

theorem Keeps.tryMany (h : Keeps false o s) {avoid id n} : (Machine.tryMany s avoid id n).Kept false o := by
  induction n generalizing s with
  | zero => exact h
  | succ n ih =>
    unfold Machine.tryMany
    split
    · trivial
    · split
      · exact h
      · split
        · exact ih (h.tryPlace.placed ‹_›)
        · exact h.tryPlace

theorem Keeps.tryLaunch (h : Keeps false o s) {avoid l} : (Machine.tryLaunch s avoid l).Kept false o := by
  unfold Machine.tryLaunch
  split
  · trivial
  · split
    · exact h.tryMany
    · exact h.tryPlace

theorem Keeps.dispatchTo (h : Keeps false o s) {id avoid ls} (e : Machine.dispatchTo s id avoid ls = some (.placed t)) :
    Keeps false o t := by
  induction ls generalizing avoid with
  | nil => exact nomatch e
  | cons l ls ih =>
    unfold Machine.dispatchTo at e
    split at e
    · next he =>
      have h1 := h.tryLaunch.placed he
      split at e
      · cases e
        exact h1
      · exact nomatch e
    · split at e
      · exact nomatch e
      · exact ih e

theorem Keeps.bindKernel (h : Keeps b o s) {l} : Keeps b o (Machine.bindKernel s l).1 := by
  unfold Machine.bindKernel
  split
  · exact h
  · split
    · exact h.kernelGot.fst ‹_›
    · extract_lets
      split
      · exact (h.kernelGot.fst ‹_›).rejectRec.dropLaunch
      · exact (h.kernelGot.fst ‹_›).modLaunch
    · exact (h.kernelGot.fst ‹_›).rejectRec.dropLaunch

theorem Keeps.execGangStagePlace (h : Keeps false o s) {launch gang stage} :
    Ends o (Machine.execGangStagePlace launch gang stage s) := by
  unfold Machine.execGangStagePlace
  split
  · exact h.next
  · split
    · exact h.next
    · split
      · exact h.next
      · split
        · exact (h.bindKernel.fst ‹_›).request.next
        · split
          · exact ((h.bindKernel.fst ‹_›).dispatchTo ‹_›).next
          · exact (h.foldl fun _ _ h => h.startEvict).next
          · exact h.next
        · exact (h.bindKernel.fst ‹_›).next

/-! ### Preemption -/

theorem Keeps.scratchSettle (h : Keeps b o s) {id} : Keeps b o (State.scratchSettle s id) := h.perform

theorem Keeps.exitRelease (h : Keeps b o s) {t₁} : Keeps b o (State.exitRelease s t₁) :=
  h.flushComb.perform.scratchSettle

theorem Keeps.markFree (h : Keeps b o s) {ctx names} : Keeps b o (State.markFree s ctx names) := h.free rfl

theorem Keeps.unpin (h : Keeps b o s) {t₁} : Keeps b o (State.unpin s t₁) := by
  unfold State.unpin
  extract_lets
  split
  · exact h
  · exact h.free

theorem Keeps.takeUpReserve (h : Keeps b o s) {t₁} : Keeps b o (State.takeUpReserve s t₁) := h.free rfl

theorem Keeps.endKernelSegs (h : Keeps b o s) {id} : Keeps b o (State.endKernelSegs s id) := by
  unfold State.endKernelSegs
  split
  · exact h
  · split
    · exact h.foldl fun _ _ h => h.dropSeg
    · exact h

theorem Keeps.removeTeam (h : Keeps false o s) {t₁} : Keeps false o (State.removeTeam s t₁) :=
  (h.foldl fun _ _ h => h.endCmd).free.unpin.markFree.takeUpReserve.endKernelSegs

theorem Keeps.noteCovers (h : Keeps b o s) {t₁} : Keeps b o (State.noteCovers s t₁) := h.modLaunch

theorem Keeps.execTeamExit (h : Keeps false o s) {team} : Ends o (Machine.execTeamExit team s) := by
  unfold Machine.execTeamExit
  split
  · exact h.next
  · extract_lets s1
    have h1 : Keeps false o s1 := h.exitRelease
    split
    · exact h.next
    · split
      · exact h.request.next
      · exact h1.noteCovers.removeTeam.next

theorem Keeps.stopParked (h : Keeps b o s) {sl} : Keeps b o (Machine.stopParked s sl) := by
  unfold Machine.stopParked
  extract_lets s1
  have h1 : Keeps b o s1 := h.endWait
  split
  · exact h
  · split
    · exact h.putSlot
    · split
      · extract_lets
        exact h1.putSlot
      · exact h1
    · exact h

theorem Keeps.askTeam (h : Keeps b o s) {id} : Keeps b o (Machine.askTeam s id) := by
  unfold Machine.askTeam
  split
  · exact h
  · split
    · exact h
    · exact h.modTeam.foldl fun _ _ h => h.stopParked

theorem Keeps.execPreemptionRequest (h : Keeps false o s) {ask} : Ends o (Machine.execPreemptionRequest ask s) := by
  unfold Machine.execPreemptionRequest
  split <;> exact (h.foldl fun _ _ h => h.askTeam).next

theorem Keeps.execForcedStop (h : Keeps false o s) {team} : Ends o (Machine.execForcedStop team s) := by
  unfold Machine.execForcedStop
  split
  · exact h.next
  · split
    · exact h.next
    · split
      · exact h.next
      · exact h.modTeam.next

/-- The state of a write of a save area. -/
def Moved.Kept (b : Bool) (o : State) : Moved → Prop
  | .ok s => Keeps b o s
  | .wait s _ => Keeps b o s
  | .fault => True

theorem Moved.Kept.ok {r : Moved} (h : r.Kept b o) (e : r = .ok s) : Keeps b o s := by
  subst e
  exact h

theorem Keeps.areaWrite (h : Keeps b o s) {ctx a data l} : (Machine.areaWrite ctx a data s l).Kept b o := by
  induction l generalizing s with
  | nil => exact h
  | cons p l ih =>
    unfold Machine.areaWrite
    split
    · exact h.spanGot.fst ‹_›
    · trivial
    · exact ih (h.spanGot.fst ‹_›).spanWrite

/-- The state of a read of a save area. -/
def AreaRes.Kept (b : Bool) (o : State) : AreaRes → Prop
  | .ok s _ => Keeps b o s
  | .wait s _ => Keeps b o s
  | .fault => True

theorem AreaRes.Kept.ok {r : AreaRes} {data} (h : r.Kept b o) (e : r = .ok s data) : Keeps b o s := by
  subst e
  exact h

theorem AreaRes.Kept.wait {r : AreaRes} {ns} (h : r.Kept b o) (e : r = .wait s ns) : Keeps b o s := by
  subst e
  exact h

theorem Keeps.areaRead (h : Keeps b o s) {ctx a data l} : (Machine.areaRead ctx a s data l).Kept b o := by
  induction l generalizing s data with
  | nil => exact h
  | cons p l ih =>
    unfold Machine.areaRead
    split
    · exact h.bytesGot.fst ‹_›
    · trivial
    · exact ih (h.bytesGot.fst ‹_›)

/-- The state of a swap. -/
def Swapped.Kept (b : Bool) (o : State) : Swapped → Prop
  | .ok s => Keeps b o s
  | .wait s _ => Keeps b o s
  | .ended s => Keeps b o s

theorem Swapped.Kept.ok {r : Swapped} (h : r.Kept b o) (e : r = .ok s) : Keeps b o s := by
  subst e
  exact h

theorem Swapped.Kept.ended {r : Swapped} (h : r.Kept b o) (e : r = .ended s) : Keeps b o s := by
  subst e
  exact h

theorem Swapped.Kept.state {r : Swapped} (h : r.Kept b o) : Keeps b o r.state := by
  cases r with
  | ok s => exact h
  | wait s ns => exact Keeps.request h
  | ended s => exact h

theorem Keeps.saveTeam (h : Keeps false o s) {id} : (Machine.saveTeam s id).Kept false o := by
  unfold Machine.saveTeam
  split
  · exact h
  · extract_lets s1 s2
    have h2 : Keeps false o s2 := (h.foldl fun _ _ h => h.stopParked).modTeam.flushComb.scratchSettle
    split
    · exact h
    · split
      · split
        · exact h
        · extract_lets
          split
          · exact h
          · exact h.endContext
          · exact Keeps.modTeam (h2.areaWrite.ok ‹_›)
      · exact h

theorem Keeps.execTeamSave (h : Keeps false o s) {team} : Ends o (Machine.execTeamSave team s) := by
  unfold Machine.execTeamSave
  split
  · exact h.next
  · split
    · exact h.saveTeam.state.next
    · exact h.next

theorem Keeps.putBack (h : Keeps b o s) {t₁ core cmds} : Keeps b o (Machine.putBack s t₁ core cmds) := h.free rfl

theorem Keeps.restoreTeam (h : Keeps false o s) {id core} : (Machine.restoreTeam s id core).Kept false o := by
  unfold Machine.restoreTeam
  split
  · exact h
  · split
    · exact h
    · extract_lets a
      split
      · exact h.bytesGot.fst ‹_›
      · exact h.endContext
      · have h1 := h.bytesGot.fst ‹_›
        split
        · exact h1.charge
        · split
          · exact h1.areaRead.wait ‹_›
          · exact h.endContext
          · extract_lets
            split
            · exact h1.charge
            · exact (h1.areaRead.ok ‹_›).putBack

theorem Keeps.adoptArea (h : Keeps b o s) {ctx off launch cluster} :
    Keeps b o (Machine.adoptArea s ctx off launch cluster) := by
  unfold Machine.adoptArea
  split
  · extract_lets
    split
    · exact h
    · split
      · exact (h.bytesGot.fst ‹_›).request
      · exact h.bytesGot.fst ‹_›
      · have h1 := h.bytesGot.fst ‹_›
        extract_lets
        split
        · exact h1
        · split
          · exact (h1.areaRead.wait ‹_›).request
          · exact h1
          · have h2 := h1.areaRead.ok ‹_›
            extract_lets _ s3
            have h3 : Keeps b o s3 := h2.free
            split
            · exact h3
            · exact h3.modLaunch
  · exact h

theorem Keeps.execTeamRestore (h : Keeps false o s) {team core} : Ends o (Machine.execTeamRestore team core s) := by
  unfold Machine.execTeamRestore
  split
  · exact h.next
  · split
    · exact h.next
    · exact h.restoreTeam.state.next

theorem Keeps.swapSave (h : Keeps false o s) {t₁} : (Machine.swapSave s t₁).Kept false o := by
  unfold Machine.swapSave
  extract_lets s1
  split
  · split
    · exact h.modTeam.saveTeam
    · exact h
  · exact h

theorem Keeps.saveUntil (h : Keeps false o s) {z core l} : (Machine.saveUntil z core s l).Kept false o := by
  induction l generalizing s with
  | nil =>
    unfold Machine.saveUntil
    split <;> exact h
  | cons t l ih =>
    unfold Machine.saveUntil
    split
    · exact h
    · split
      · exact ih (h.swapSave.ok ‹_›)
      · exact h.swapSave

theorem Keeps.saveOnCores (h : Keeps false o s) {z l} : (Machine.saveOnCores z s l).Kept false o := by
  induction l generalizing s with
  | nil => exact h
  | cons c l ih =>
    unfold Machine.saveOnCores
    split
    · exact ih (h.saveUntil.ok ‹_›)
    · exact h.saveUntil

theorem Keeps.swapPlace (h : Keeps false o s) {l gang stage cl cores} :
    (Machine.swapPlace s l gang stage cl cores).Kept false o := by
  unfold Machine.swapPlace
  split
  · have h1 := h.finishPlace.placed ‹_›
    split
    · exact h1.tryMany
    · exact h1
  · exact h.finishPlace

theorem Keeps.swapLater (h : Keeps false o s) {ns evict} : MayKeep false o (Machine.swapLater s ns evict) := by
  unfold Machine.swapLater
  split
  · exact .none
  · exact (h.request.foldl fun _ _ h => h.startEvict).may

theorem Keeps.swapFor (h : Keeps false o s) {core l} : MayKeep false o (Machine.swapFor s core l) := by
  unfold Machine.swapFor
  split
  · exact .none
  · extract_lets
    split
    · exact .none
    · split
      · exact .none
      · split
        · exact h.swapLater
        · exact (h.saveOnCores.ended ‹_›).may
        · have h1 := h.saveOnCores.ok ‹_›
          split
          · exact .none
          · split
            · split
              · exact ((h1.bindKernel.fst ‹_›).swapPlace.placed ‹_›).may
              · exact h.swapLater
            · exact h.request.may
            · exact (h1.bindKernel.fst ‹_›).may

theorem Keeps.swapBack (h : Keeps false o s) {core t₁} : MayKeep false o (Machine.swapBack s core t₁) := by
  unfold Machine.swapBack
  split
  · exact .none
  · split
    · exact h.swapLater
    · exact (h.saveUntil.ended ‹_›).may
    · split
      · exact (h.saveUntil.ok ‹_›).restoreTeam.state.may
      · exact .none

theorem Keeps.execYieldSwap (h : Keeps false o s) {core} : Ends o (Machine.execYieldSwap core s) := by
  unfold Machine.execYieldSwap
  extract_lets back first found
  have hfound : MayKeep false o found :=
    .orElse (.findSome? fun _ => h.swapBack) (.orElse (.findSome? fun _ => h.swapFor) (.findSome? fun _ => h.swapBack))
  split
  · exact h.next
  · exact (hfound.getD h).next

end Sys2Proof.Machine
end

section

/-! PROOFS. Memory and the writes in flight in windows, the outside and the service pages (O55). -/

namespace Sys2Proof.Machine

-- Many of these lemmas split the same definition: one after another, so that none waits in a thread of its own.
set_option Elab.async false

variable {b : Bool} {o s t : State}

/-! ### Windows -/

theorem Keeps.modWindow (h : Keeps b o s) {w f} : Keeps b o (State.modWindow s w f) := h.free rfl

theorem Keeps.execWindowEnable (h : Keeps false o s) {w v} : Ends o (Machine.execWindowEnable w v s) := by
  unfold Machine.execWindowEnable
  extract_lets
  split
  · exact h.next
  · split
    · split
      · exact h.modWindow.almAppend.next
      · exact h.almAsk.next
    · exact h.modWindow.next

theorem Keeps.execWindowDisable (h : Keeps false o s) {w v} : Ends o (Machine.execWindowDisable w v s) := by
  unfold Machine.execWindowDisable
  extract_lets
  split
  · exact h.next
  · split
    · exact h.almAsk.next
    · exact h.modWindow.almAppend.next

theorem Keeps.execWindowFlush (h : Keeps false o s) {w v} : Ends o (Machine.execWindowFlush w v s) := by
  unfold Machine.execWindowFlush
  split
  · exact h.modWindow.next
  · exact h.next

theorem Keeps.execWindowFlushDone (h : Keeps false o s) {w} : Ends o (Machine.execWindowFlushDone w s) :=
  h.free.modWindow.next

theorem Keeps.writeWctl (h : Keeps false o s) {w v} : Ends o (Machine.writeWctl w v s) := by
  unfold Machine.writeWctl
  extract_lets flush
  dsimp only [flush]
  split
  · split
    · split
      · exact h.modWindow.next
      · exact h.next
    · exact h.execWindowDisable
  · split
    · split
      · exact h.modWindow.execWindowEnable
      · exact h.execWindowEnable
    · split
      · exact h.modWindow.modWindow.next
      · exact h.modWindow.next

theorem Keeps.writeWindowReg (h : Keeps false o s) {w off v} : Ends o (Machine.writeWindowReg w off v s) := by
  unfold Machine.writeWindowReg
  split
  · exact h.writeWctl
  · split
    · exact h.next
    · split
      · exact h.modWindow.next
      · exact h.modWindow.next
      · exact h.modWindow.next
      · exact h.next

theorem Keeps.execCarveoutChange (h : Keeps false o s) {d v} : Ends o (Machine.execCarveoutChange d v s) := by
  unfold Machine.execCarveoutChange
  extract_lets _ _ put
  dsimp only [put]
  split
  · exact h.next
  · split
    · exact h.free.next
    · split
      · exact h.free.next
      · split <;> exact h.free.next

theorem Keeps.execCarveoutShrinkProceed (h : Keeps false o s) {d} : Ends o (Machine.execCarveoutShrinkProceed d s) := by
  unfold Machine.execCarveoutShrinkProceed
  extract_lets
  split
  · exact h.free.next
  · exact h.next

theorem Keeps.chargeLines (h : Keeps b o s) {p} : Keeps b o (State.chargeLines s p) := h.foldl fun _ _ h => h.charge

theorem Keeps.execCarveoutChangeDone (h : Keeps false o s) {d} : Ends o (Machine.execCarveoutChangeDone d s) := by
  unfold Machine.execCarveoutChangeDone
  extract_lets x lo hi inside s1 low s2
  have h2 : Keeps false o s2 := (h.dropBytes (p := Loc.inRange lo hi)).lost (p := fun a => !inside a) rfl rfl rfl nofun
  split
  · exact h.next
  · split
    · exact h2.chargeLines.next
    · exact h2.next

theorem Keeps.execChrsvWrite (h : Keeps false o s) {d v} : Ends o (Machine.execChrsvWrite d v s) := h.free.next

theorem Keeps.execShootdown (h : Keeps false o s) {v} : Ends o (Machine.execShootdown v s) := by
  unfold Machine.execShootdown
  extract_lets
  split
  · exact h.frame.next
  · split
    · exact h.next
    · split <;> exact h.frame.next

theorem Keeps.execShootdownDone (h : Keeps false o s) : Ends o (Machine.execShootdownDone s) := by
  unfold Machine.execShootdownDone
  extract_lets _ s1
  have h1 : Keeps false o s1 := h.flushComb.perform
  split
  · exact h.next
  · split
    · exact h.request.next
    · exact h1.frame.next

theorem Keeps.writeShootReg (h : Keeps false o s) {off v} : Ends o (Machine.writeShootReg off v s) := by
  unfold Machine.writeShootReg
  extract_lets
  split
  · exact h.frame.next
  · exact h.frame.next
  · exact h.frame.next
  · exact h.execShootdown
  · exact h.next

/-! ### The outside -/

theorem Keeps.modBinding (h : Keeps b o s) {slot f} : Keeps b o (State.modBinding s slot f) := h.free rfl

theorem Keeps.execCounterAddWindowWrite (h : Keeps false o s) {slot size v} :
    Ends o (Machine.execCounterAddWindowWrite slot size v s) := by
  unfold Machine.execCounterAddWindowWrite
  extract_lets drop
  dsimp only [drop]
  split
  · exact h.next
  · split
    · split
      · exact h.modBinding.next
      · split
        · exact (h.ctrGot.fst ‹_›).request.next
        · exact (h.ctrGot.fst ‹_›).modBinding.charge.next
        · exact (h.ctrGot.fst ‹_›).ctrAdd.next
    · exact h.modBinding.next

theorem Keeps.fevcAdd (h : Keeps b o s) : Keeps b o (State.fevcAdd s) := h.foldl fun _ _ h => h.segAdd

theorem Keeps.linesFreed (h : Keeps b o s) : Keeps b o (State.linesFreed s) :=
  h.performLate.performOwed.retryPrefetches.almFlush

theorem Keeps.markLost (h : Keeps b o s) {kind n} : Keeps b o (State.markLost s kind n) := h.fevcAdd.almAppend

theorem Keeps.losePeer (h : Keeps false o s) {pkg} : Keeps false o (State.losePeer s pkg) := h.frame.markLost

theorem Keeps.setHostLine (h : Keeps false o s) {host line st dirty} :
    Keeps false o (State.setHostLine s host line st dirty) :=
  h.frame rfl

theorem Keeps.sealedReply (h : Keeps b o s) {data ctx a} : Keeps b o (State.sealedReply s data ctx a) := by
  unfold State.sealedReply
  split
  · exact h.free.almAppend
  · exact h.almAsk

theorem Keeps.refuse (h : Keeps b o s) {ctx a} : Keeps b o (State.refuse s ctx a) := by
  unfold State.refuse
  split
  · exact h.almAppend
  · exact h.almAsk

theorem Keeps.hostReadAt (h : Keeps false o s) {host dec off a own} :
    Keeps false o (Machine.hostReadAt s host dec off a own) := by
  unfold Machine.hostReadAt
  extract_lets _ ns
  generalize ns = ns
  split
  · exact h.sealedReply
  · split
    · exact h.request
    · split
      · exact h.meterWait
      · extract_lets s2 s3
        have h3 : Keeps false o s3 := (h.meter _ ‹_›).recall.meterDone.free
        split
        · exact h3
        · exact h3.setHostLine

theorem Keeps.execHostHdmRead (h : Keeps false o s) {host dec off own} :
    Ends o (Machine.execHostHdmRead host dec off own s) := by
  unfold Machine.execHostHdmRead
  split
  · exact h.next
  · exact h.hostReadAt.next

theorem Keeps.hostWriteAt (h : Keeps false o s) {host a data} : Keeps false o (Machine.hostWriteAt s host a data) := by
  unfold Machine.hostWriteAt
  extract_lets _ _ s1
  have h1 : Keeps false o s1 := h.recall.perform
  split
  · exact h.refuse
  · split
    · exact h.request
    · exact h1.setHostLine

theorem Keeps.execHostHdmWrite (h : Keeps false o s) {host dec off data} :
    Ends o (Machine.execHostHdmWrite host dec off data s) := by
  unfold Machine.execHostHdmWrite
  split
  · exact h.next
  · split
    · exact h.refuse.next
    · split
      · exact h.next
      · exact h.hostWriteAt.next

theorem Keeps.execHostSnoopAnswer (h : Keeps false o s) {line} : Ends o (Machine.execHostSnoopAnswer line s) := by
  unfold Machine.execHostSnoopAnswer
  extract_lets _ s1
  have h1 : Keeps false o s1 := h.hostYield
  split
  · exact h.next
  · exact h1.free.linesFreed.next

theorem Keeps.leaveL2 (h : Keeps b o s) {line} : Keeps b o (State.leaveL2 s line) := h.recall.perform.free rfl

theorem Keeps.execHostSnoop (h : Keeps false o s) {line} : Ends o (Machine.execHostSnoop line s) := by
  unfold Machine.execHostSnoop
  extract_lets s1
  have h1 : Keeps false o s1 := h.leaveL2
  split
  · exact h.next
  · split
    · exact h.request.next
    · exact h1.free.next

theorem Keeps.execHostLost (h : Keeps false o s) {host} : Ends o (Machine.execHostLost host s) := by
  unfold Machine.execHostLost
  extract_lets _ s1
  have h1 : Keeps false o s1 := h.frame
  split
  · exact h.next
  · split
    · exact h.next
    · exact h1.markLost.linesFreed.almAsk.next

theorem Keeps.execCxlCacheResponse (h : Keeps false o s) {line data} :
    Ends o (Machine.execCxlCacheResponse line data s) := by
  unfold Machine.execCxlCacheResponse
  extract_lets ns s1
  have h1 : Keeps false o s1 := by
    dsimp only [s1]
    split
    · exact h.leaveL2
    · exact h
  clear_value s1
  split
  · exact h.next
  · split
    · exact h.request.next
    · refine (Keeps.linesFreed (b := false) ?_).next
      exact h1.cells rfl rfl rfl rfl

theorem Keeps.answer (h : Keeps b o s) {tag ok data} : Keeps b o (State.answer s tag ok data) := h.free rfl

theorem Keeps.answerBad (h : Keeps b o s) {tag cls f} : Keeps b o (State.answerBad s tag cls f) := h.answer

theorem Keeps.execPeerReadRequest (h : Keeps false o s) {pkg fctx va size tag} :
    Ends o (Machine.execPeerReadRequest pkg fctx va size tag s) := by
  unfold Machine.execPeerReadRequest
  split
  · exact h.answerBad.next
  · split
    · exact h.request.next
    · split
      · exact (h.walk.fst ‹_›).answerBad.next
      · have h1 := h.walk.fst ‹_›
        extract_lets
        split
        · exact h1.sealedReply.next
        · split
          · exact h1.answerBad.next
          · split
            · exact h1.request.next
            · split
              · exact h1.answerBad.next
              · split
                · exact h.meterWait.next
                · exact (h1.meter _ ‹_›).recall.fillFor.meterDone.answer.next

theorem Keeps.execPeerWrite (h : Keeps false o s) {tag fctx va data} :
    Ends o (Machine.execPeerWrite tag fctx va data s) := by
  unfold Machine.execPeerWrite
  split
  · exact h.answerBad.next
  · split
    · exact h.request.next
    · split
      · exact (h.walk.fst ‹_›).answerBad.next
      · extract_lets _ _ _ _ s2
        have h2 : Keeps false o s2 := by
          dsimp only [s2]
          split
          · exact h.walk.fst ‹_›
          · exact (h.walk.fst ‹_›).orPte
        split
        · exact (h.walk.fst ‹_›).refuse.next
        · split
          · exact (h.walk.fst ‹_›).answerBad.next
          · split
            · exact (h.walk.fst ‹_›).request.next
            · exact h2.spanWrite.next

theorem Keeps.execPeerCounterAdd (h : Keeps false o s) {pkg fctx va v tag} :
    Ends o (Machine.execPeerCounterAdd pkg fctx va v tag s) := by
  unfold Machine.execPeerCounterAdd
  extract_lets back
  dsimp only [back]
  split
  · exact h.next
  · split
    · exact h.answer.next
    · split
      · exact (h.ctrGot.fst ‹_›).request.next
      · exact (h.ctrGot.fst ‹_›).answer.next
      · split
        · exact (h.ctrGot.fst ‹_›).answer.next
        · split
          · exact (h.ctrGot.fst ‹_›).ctrAdd.answer.next
          · exact (h.ctrGot.fst ‹_›).ctrAdd.next

theorem Keeps.execRemoteResponse (h : Keeps false o s) {tag ok data} : Ends o (Machine.execRemoteResponse tag ok data s) :=
  h.frame.next

theorem Keeps.modLink (h : Keeps b o s) {n f} : Keeps b o (State.modLink s n f) := h.free rfl

theorem Keeps.execFlitReplay (h : Keeps false o s) {link} : Ends o (Machine.execFlitReplay link s) := h.modLink.next

theorem Keeps.setRoute (h : Keeps false o s) {pkg link} : Keeps false o (State.setRoute s pkg link) := by
  unfold State.setRoute
  extract_lets
  split <;> exact h.frame

theorem Keeps.peerLoss (h : Keeps false o s) {pkg} : Keeps false o (State.peerLoss s pkg) := by
  unfold State.peerLoss
  split
  · exact h.losePeer
  · exact h.almAsk

theorem Keeps.execManagementMessage (h : Keeps false o s) {msg} : Ends o (Machine.execManagementMessage msg s) := by
  unfold Machine.execManagementMessage
  split
  · exact h.modLink.next
  · exact h.setRoute.next
  · exact h.peerLoss.next

theorem Keeps.execPeerLost (h : Keeps false o s) {pkg} : Ends o (Machine.execPeerLost pkg s) := by
  unfold Machine.execPeerLost
  split
  · exact h.peerLoss.next
  · exact h.next

theorem Keeps.execLinkDown (h : Keeps false o s) {n} : Ends o (Machine.execLinkDown n s) := h.modLink.next

theorem Keeps.execLinkRetry (h : Keeps false o s) {n lanes} : Ends o (Machine.execLinkRetry n lanes s) :=
  h.modLink.next

theorem Keeps.execTimingMessage (h : Keeps false o s) {ofs} : Ends o (Machine.execTimingMessage ofs s) := by
  unfold Machine.execTimingMessage
  extract_lets
  split
  · exact h.next
  · exact h.free.next

theorem Keeps.execEqsetWrite (h : Keeps false o s) {v} : Ends o (Machine.execEqsetWrite v s) := by
  unfold Machine.execEqsetWrite
  extract_lets
  split
  · exact h.next
  · exact h.free.next

/-! ### The service pages -/

theorem Keeps.execKeyDerive (h : Keeps false o s) {n} : Ends o (Machine.execKeyDerive n s) := by
  unfold Machine.execKeyDerive
  split
  · exact h.next
  · extract_lets
    split
    · exact h.next
    · split
      · exact h.almAsk.next
      · exact h.free.almAppend.next

theorem Keeps.execKeyClear (h : Keeps false o s) {n} : Ends o (Machine.execKeyClear n s) := by
  unfold Machine.execKeyClear
  split
  · exact h.next
  · extract_lets
    split
    · exact h.next
    · split
      · exact h.almAsk.next
      · exact h.free.almAppend.next

theorem Keeps.execSealImport (h : Keeps false o s) {w off data} : Ends o (Machine.execSealImport w off data s) := by
  unfold Machine.execSealImport
  extract_lets
  split
  · exact h.next
  · extract_lets _ s1
    have h1 : Keeps false o s1 := h.recall.writeNow
    split
    · exact h.next
    · split
      · exact h.almAsk.next
      · split
        · exact h.request.next
        · exact h1.almAppend.next

theorem Keeps.debugReadAt (h : Keeps b o s) {pa n} : Keeps b o (Machine.debugReadAt s pa n) := by
  unfold Machine.debugReadAt
  extract_lets
  split
  · exact h
  · split
    · exact h.sealedReply
    · split
      · exact h.request
      · split
        · exact h.meterWait
        · exact (h.meter _ ‹_›).recall.fillFor.meterDone.free

theorem Keeps.execEgressRelease (h : Keeps false o s) {cls} : Ends o (Machine.execEgressRelease cls s) := by
  unfold Machine.execEgressRelease
  split
  · exact h.next
  · split
    · exact h.almAsk.next
    · split
      · exact h.meterDone.next
      · exact h.execHostHdmRead
      · exact h.execPeerReadRequest
      · exact h.debugReadAt.next

theorem Keeps.writeEgress (h : Keeps b o s) {c v} : Keeps b o (Machine.writeEgress c v s) := by
  unfold Machine.writeEgress
  split
  · exact h.almAsk
  · exact h.free.almAppend

theorem Keeps.execAttestationRequest (h : Keeps false o s) {nonce} : Ends o (Machine.execAttestationRequest nonce s) := by
  unfold Machine.execAttestationRequest
  extract_lets _ _ s1
  have h1 : Keeps false o s1 := h.almAppend
  split
  · exact h.next
  · split
    · exact h.almAsk.next
    · exact h1.free.next

theorem Keeps.execLeaderHeartbeat (h : Keeps false o s) : Ends o (Machine.execLeaderHeartbeat s) := by
  unfold Machine.execLeaderHeartbeat
  extract_lets _ _ s1 s2
  have h1 : Keeps false o s1 := by
    dsimp only [s1]
    split
    · exact h.recall.ctrAdd
    · exact h
  have h2 : Keeps false o s2 := h1.ctrSettle
  split
  · exact h.request.next
  · exact h2.free.next

theorem Keeps.execLeaderTakeover (h : Keeps false o s) {die} : Ends o (Machine.execLeaderTakeover die s) := by
  unfold Machine.execLeaderTakeover
  extract_lets
  split
  · exact h.next
  · split
    · exact h.almAsk.next
    · split
      · exact h.request.next
      · split
        · split
          · exact (h.recall.ctrAdd.fst ‹_›).free.almAppend.next
          · exact (h.recall.ctrAdd.fst ‹_›).free.next

theorem Keeps.execServicePairMismatch (h : Keeps false o s) {die} : Ends o (Machine.execServicePairMismatch die s) := by
  unfold Machine.execServicePairMismatch
  split
  · exact h.next
  · split
    · exact h.almAsk.next
    · exact h.free.almAppend.next

theorem Keeps.execPackageReset {selfTest} : Ends o (Machine.execPackageReset selfTest s) := by
  rintro t ⟨⟩
  exact ⟨fun _ => by rfl, fun _ => ⟨List.nodup_nil, nofun, List.Pairwise.nil⟩, nofun⟩

theorem Keeps.replaceEnd (h : Keeps b o s) {bad old} : Keeps b o (State.replaceEnd s bad old) := h.free rfl

theorem Keeps.replaceNow (h : Keeps b o s) : Keeps b o (Machine.replaceNow s) := by
  unfold Machine.replaceNow
  split
  · exact h.replaceEnd
  · split
    · extract_lets r
      have hr : Keeps b o r := (h.spanGot.fst ‹_›).request
      exact hr.free
    · exact (h.spanGot.fst ‹_›).replaceEnd
    · exact (h.spanGot.fst ‹_›).spanWrite.replaceEnd

theorem Keeps.execKernelReplace (h : Keeps false o s) : Ends o (Machine.execKernelReplace s) := by
  unfold Machine.execKernelReplace
  extract_lets
  split
  · split
    · exact h.next
    · exact h.replaceNow.next
  · split
    · exact h.free.next
    · split
      · exact h.free.next
      · exact h.replaceNow.next

theorem Keeps.heartbeatOf (h : Keeps false o s) {v} : Ends o (Machine.heartbeatOf v s) := by
  unfold Machine.heartbeatOf
  extract_lets
  split <;> exact h.free.next

theorem Keeps.execFrontEndWatchdog (h : Keeps false o s) : Ends o (Machine.execFrontEndWatchdog s) := by
  unfold Machine.execFrontEndWatchdog
  extract_lets
  split
  · exact h.next
  · exact h.free.next

theorem Keeps.execSnapgo (h : Keeps false o s) {t₁} : Ends o (Machine.execSnapgo t₁ s) := h.free.next

theorem Keeps.execSnapshotLatch (h : Keeps false o s) : Ends o (Machine.execSnapshotLatch s) := by
  unfold Machine.execSnapshotLatch
  split
  · exact h.next
  · split
    · exact h.next
    · exact h.free.next

theorem Keeps.emptyIsland (h : Keeps b o s) {n} : Keeps b o (State.emptyIsland s n) :=
  (h.foldl fun _ _ h => h.endWait).free rfl

theorem Keeps.execIslandControl (h : Keeps false o s) {n v} : Ends o (Machine.execIslandControl n v s) := by
  unfold Machine.execIslandControl
  extract_lets _ _ _ s1
  have h1 : Keeps false o s1 := by
    dsimp only [s1]
    split
    · exact h.emptyIsland
    · exact h
  exact h1.free.next

theorem Keeps.execPowerLimitThrottle (h : Keeps false o s) {watts} : Ends o (Machine.execPowerLimitThrottle watts s) :=
  (h.foldl fun _ _ h => h.emptyIsland).free.next

theorem Keeps.writeQcb (h : Keeps false o s) {q second off v} : Ends o (Machine.writeQcb q second off v s) := by
  unfold Machine.writeQcb
  extract_lets put _ s1 s1'
  have h1 : Keeps false o s1 := by
    dsimp only [s1]
    dsimp only [put]
    split
    · exact h.modQueue
    · exact h
  have h1' : Keeps false o s1' := h.modQueue
  dsimp only [put]
  split
  · split
    · exact h1.execReasonClear
    · exact h1.next
  · split
    · exact h.next
    · split
      · split
        · exact h1'.execQueueEnable
        · exact h1'.next
      · exact h.modQueue.next
      · exact h.modQueue.next
      · exact h.modQueue.next
      · exact h.modQueue.next
      · exact h.modQueue.next
      · exact h.next

theorem Keeps.writeFe (h : Keeps false o s) {o₁ v} : Ends o (Machine.writeFe o₁ v s) := by
  unfold Machine.writeFe
  extract_lets
  split
  · exact h.writeQcb
  · split
    · exact h.execQverUpdate
    · split
      · exact h.heartbeatOf
      · exact h.free.next
      · exact h.free.next
      · exact h.free.next
      · exact h.free.next
      · split
        · exact h.next
        · split
          · exact h.free.next
          · exact h.execKernelReplace
      · exact h.next

theorem Keeps.writeKeys (h : Keeps false o s) {who o₁ v} : Ends o (Machine.writeKeys who o₁ v s) := by
  unfold Machine.writeKeys
  extract_lets
  split
  · exact h.execAlmanacPortSelect
  · split
    · exact h.execAlmack
    · split
      · exact h.next
      · split
        · exact h.execAlmbaseWrite
        · split
          · split
            · split
              · exact h.execKeyDerive
              · split
                · exact h.execKeyClear
                · exact h.next
            · split
              · exact h.free.next
              · exact h.next
          · split
            · exact h.writeEgress.next
            · exact h.next

theorem Keeps.writeTime (h : Keeps false o s) {who o₁ v} : Ends o (Machine.writeTime who o₁ v s) := by
  unfold Machine.writeTime
  extract_lets
  split
  · exact h.execIslandControl
  · split
    · split
      · exact h.free.next
      · exact h.next
    · exact h.execEqsetWrite
    · exact h.execSnapgo
    · exact h.free.next
    · exact h.next

theorem Keeps.regWrite (h : Keeps false o s) {who off v} : Ends o (Machine.regWrite who off v s) := by
  unfold Machine.regWrite
  extract_lets
  split
  · exact h.writeFe
  · split
    · exact h.writeWindowReg
    · exact h.next
  · split
    · exact h.execCarveoutChange
    · split
      · exact h.execChrsvWrite
      · exact h.writeShootReg
  · exact h.writeKeys
  · exact h.writeTime
  · exact h.next

theorem Keeps.stopRevoked (h : Keeps b o s) {x2} : Keeps b o (State.stopRevoked s x2) := by
  unfold State.stopRevoked
  split
  · exact h.free
  · exact h

theorem Keeps.execRegisterWrite (h : Keeps false o s) {who off size v} :
    Ends o (Machine.execRegisterWrite who off size v s) := by
  unfold Machine.execRegisterWrite
  extract_lets
  split
  · exact h.next
  · split
    · exact h.stopRevoked.next
    · split
      · split
        · exact h.next
        · exact h.execCounterAddWindowWrite
      · split
        · exact h.regWrite
        · split
          · exact h.regWrite
          · exact h.next

theorem Keeps.privWrite (h : Keeps false o s) {r₁ v} : Keeps false o (Machine.privWrite r₁ v s) := by
  unfold Machine.privWrite
  split
  · extract_lets s1
    have h1 : Keeps false o s1 := by
      dsimp only [s1]
      split
      · exact h
      · exact h.frame
    split
    · exact h
    · exact h1.frame
  · split
    · exact h
    · split
      · exact h.modBinding
      · exact h.modBinding
  · split
    · exact h.free
    · exact h.free
    · exact h.free
    · exact h.free
    · exact h
  · split
    · exact h
    · exact h.setRoute
  · exact h

theorem Keeps.execServicePairAccess (h : Keeps false o s) {die acc} : Ends o (Machine.execServicePairAccess die acc s) := by
  unfold Machine.execServicePairAccess
  extract_lets
  split
  · exact h.stopRevoked.next
  · split
    · exact h.debugReadAt.next
    · exact h.adoptArea.next
    · extract_lets _ _ s1
      have h1 : Keeps false o s1 := h.recall.fillFor
      split
      · exact h.next
      · split
        · exact h.sealedReply.next
        · split
          · exact h.request.next
          · exact h1.free.next
    · extract_lets
      split
      · exact h.next
      · split
        · exact h.refuse.next
        · split
          · exact h.request.next
          · exact h.spanWrite.next
    · extract_lets _ s1
      have h1 : Keeps false o s1 := by
        dsimp only [s1]
        split
        · exact h.releaseWrites
        · exact h
      split
      · exact h.next
      · split
        · exact h.request.next
        · split
          · exact (h1.recall.ctrAdd.fst ‹_›).free.next
    · extract_lets _ r
      have hr : Keeps false o r := h.recall
      split
      · exact h.next
      · split
        · exact h.request.next
        · exact hr.free.next
    · exact h.privWrite.next
    · exact h.free.next
    · exact h.modSeg.next
    · exact (h.foldl fun _ _ h => h.endWait).next

end Sys2Proof.Machine
end

section

/-! PROOFS. Memory and the writes in flight in fetching, system operations and a whole step (O55). -/

namespace Sys2Proof.Machine

-- Many of these lemmas split the same definition: one after another, so that none waits in a thread of its own.
set_option Elab.async false

variable {b : Bool} {o s t : State}

/-! ### Fetching -/

/-- The state of a fetch. -/
def Fetched.Kept (b : Bool) (o : State) : Fetched → Prop
  | .run _ s => Keeps b o s
  | .stop s => Keeps b o s

theorem Fetched.Kept.run {r : Fetched} {i} (h : r.Kept b o) (e : r = .run i s) : Keeps b o s := by
  subst e
  exact h

theorem Fetched.Kept.stop {r : Fetched} (h : r.Kept b o) (e : r = .stop s) : Keeps b o s := by
  subst e
  exact h

theorem Keeps.fetchWord (h : Keeps b o s) {v} : (Machine.fetchWord s v).Kept b o := by
  unfold Machine.fetchWord
  extract_lets
  split
  · exact h
  · split <;> exact h

theorem Keeps.fetchAt (h : Keeps false o s) {v} : (Machine.fetchAt s v).Kept false o := by
  unfold Machine.fetchAt
  extract_lets _ _ p s1
  have h1 : Keeps false o s1 := by
    dsimp only [s1]
    split
    · exact h
    · exact h.putSlot
  split
  · exact h.stopSlot
  · split
    · exact h1.fetchWord
    · split <;> exact h1

theorem Keeps.nextInstr (h : Keeps false o s) {v} : (Machine.nextInstr s v).Kept false o := by
  unfold Machine.nextInstr
  split
  · exact h.stopSlot
  · split
    · exact h
    · split
      · exact h.putSlot
      · split
        · exact h
        · split
          · exact h
          · exact h.fetchAt

theorem Keeps.execChainHoldLimit (h : Keeps false o s) {sl} : Ends o (Machine.execChainHoldLimit sl s) := by
  unfold Machine.execChainHoldLimit
  split
  · exact h.next
  · split
    · exact h.putSlot.next
    · exact h.next

theorem Keeps.execUnassignedOpcode (h : Keeps false o s) {x₁} : Ends o (Machine.execUnassignedOpcode x₁ s) :=
  h.issue fun _ => h.putSlot

theorem Keeps.pass (h : Keeps b o s) {ns} : Keeps b o (State.pass s ns) := h.refillEgress.chargeLines.free rfl

/-! ### System operations -/

theorem Keeps.execSrd (h : Keeps false o s) {f} : Ends o (Machine.execSrd f s) := by
  unfold Machine.execSrd
  extract_lets
  refine h.issue fun v => ?_
  extract_lets
  split
  · exact h.putWave
  · split
    · exact h.putSlot
    · split
      · exact h.putSlot
      · exact h.putWave

theorem Keeps.execSwr (h : Keeps false o s) {f} : Ends o (Machine.execSwr f s) := by
  unfold Machine.execSwr
  refine h.issue fun v => ?_
  extract_lets
  split
  · exact h.putSlot
  · split
    · exact h.modCtx.putSlot
    · exact h.putSlot
    · exact h.putSlot
    · exact h.putSlot

theorem Keeps.execGrow (h : Keeps false o s) {f} : Ends o (Machine.execGrow f s) := by
  unfold Machine.execGrow
  refine h.issue fun v => ?_
  extract_lets _ _ s1
  have h1 : Keeps false o s1 := h.release
  split
  · exact h.putSlot
  · split
    · exact h.sysStatus
    · split
      · exact h.sysStatus
      · split
        · exact h.request.putSlot
        · exact h1.free.sysStatus

theorem Keeps.unloaded (h : Keeps b o s) {v} : Keeps b o (Machine.unloaded s v) := h.stopSlot

theorem Keeps.execGsw (h : Keeps false o s) {f} : Ends o (Machine.execGsw f s) := by
  unfold Machine.execGsw
  refine h.issue fun v => ?_
  extract_lets
  split
  · exact h.putSlot
  · split
    · exact h.unloaded
    · exact h.putSlot

theorem Keeps.execGret (h : Keeps false o s) {f} : Ends o (Machine.execGret f s) := by
  unfold Machine.execGret
  refine h.issue fun v => ?_
  extract_lets
  split
  · exact h.putSlot
  · split
    · exact h.unloaded
    · exact h.putSlot

/-! ### Dispatch -/

theorem Keeps.exec (h : Keeps false o s) {i} : Ends o (Machine.exec i s) := by
  cases i
  all_goals dsimp only [Machine.exec]
  case sadd | ssub | saddc | ssubb | scmp | smovi | vcmp | vsel | vadd64 | kmovFs | smul | smulhs | smulhz
      | sand | sor | sxor | sandn | sshl | sshrz | sshrs | srot | smins | sminz | smaxs | smaxz | sbfx | sbfi
      | ssel | sclz | sctz | spopc | sbrev | smov | sadd64 | ssub64 | smul64 | sshl64 | sshr64 | vadd | vsub
      | vmul | vmulhs | vmulhz | vand | vor | vxor | vandn | vshl | vshrz | vshrs | vmad | vbfx | vbfi | vmins
      | vminz | vmaxs | vmaxz | vabs | vmov | vpopc | vclz | vqdot | vfclass | kand | kor | kxor | knot | kmov => exact h.alu
  case vfadd | vfsub | vfmul | vfma | vfmin | vfmax | vfcmp | vfcvt | vcvti | vfrnd | vhfma | vhdot => exact h.aluFloat
  case vrcp | vrsq | vsqrt | vexp2 | vlog2 | vsin | vcos | vtanh | vshfl | vshflx | vshflup | vshfldn | vreadl
      | vwritel | vballot | vany | vall | vredadd | vredmin | vredmax | vscan => exact h.late
  case ld => exact h.execLd
  case st => exact h.execSt
  case vld | vldb => exact h.vectorLoad
  case vst | vstb => exact h.vectorStore
  case atom => exact h.execAtom
  case red => exact h.execRed
  case pref => exact h.execPref
  case ipref => exact h.execIpref
  case fence | fencew => exact h.fence
  case cadd => exact h.execCadd
  case caddx => exact h.execCaddx
  case cwait => exact h.execCwait
  case cwait2 => exact h.execCwait2
  case ctest => exact h.execCtest
  case cset => exact h.execCset
  case segnew => exact h.execSegnew
  case segatt => exact h.execSegatt
  case segdet => exact h.execSegdet
  case segrel => exact h.execSegrel
  case segfree => exact h.execSegfree
  case segevict => exact h.execSegevict
  case segqry => exact h.execSegqry
  case cjoin => exact h.execCjoin
  case cleave => exact h.execCleave
  case mzero => exact h.execMzero
  case mldb => exact h.execMldb
  case mma => exact h.execMma
  case mmam => exact h.execMmam
  case mdist => exact h.execMdist
  case mtopk => exact h.execMtopk
  case mstore => exact h.execMstore
  case mepi => exact h.execMepi
  case mspill => exact h.execMspill
  case mfill => exact h.execMfill
  case mgemm => exact h.execMgemm
  case mstat => exact h.execMstat
  case copy | copyh | copyg | copyw => exact h.copyIssue
  case qfence => exact h.execQfence
  case qstat => exact h.execQstat
  case br => exact h.execBr
  case brc => exact h.execBrc
  case brdiv => exact h.execBrdiv
  case join => exact h.execJoin
  case call => exact h.execCall
  case ret | jmpi => exact h.indirectJump
  case exit => exact h.execExit
  case ppt => exact h.execPpt
  case waitc => exact h.execWaitc
  case yield => exact h.execYield
  case nop => exact h.execNop
  case brk => exact h.execBrk
  case trap => exact h.execTrap
  case rep => exact h.execRep
  case srd => exact h.execSrd
  case swr => exact h.execSwr
  case grow => exact h.execGrow
  case launch => exact h.execLaunch
  case gsw => exact h.execGsw
  case gret => exact h.execGret
  case halt => exact h.execHalt
  case chainHoldLimit => exact h.execChainHoldLimit
  case trackedResultWrite => exact h.execTrackedResultWrite
  case writePerform => exact h.execWritePerform
  case tlbFill => exact h.execTlbFill
  case instructionCacheFill => exact h.execInstructionCacheFill
  case guestDecode => exact h.execGuestDecode
  case copyCommandStart => exact h.execCopyCommandStart
  case copyTransfer => exact h.execCopyTransfer
  case copyCompletion => exact h.execCopyCompletion
  case combiningBufferTimeout => exact h.execCombiningBufferTimeout
  case predictorDecay => exact h.execPredictorDecay
  case parkedPollingReread => exact h.execParkedPollingReread
  case waiterWake => exact h.execWaiterWake
  case segmentRefillGranule => exact h.execSegmentRefillGranule
  case segmentWritebackGranule => exact h.execSegmentWritebackGranule
  case windowEnable => exact h.execWindowEnable
  case windowDisable => exact h.execWindowDisable
  case windowFlush => exact h.execWindowFlush
  case windowFlushDone => exact h.execWindowFlushDone
  case carveoutChange => exact h.execCarveoutChange
  case carveoutShrinkProceed => exact h.execCarveoutShrinkProceed
  case carveoutChangeDone => exact h.execCarveoutChangeDone
  case chrsvWrite => exact h.execChrsvWrite
  case shootdown => exact h.execShootdown
  case counterAddWindowWrite => exact h.execCounterAddWindowWrite
  case hostHdmRead => exact h.execHostHdmRead
  case hostHdmWrite => exact h.execHostHdmWrite
  case hostSnoopAnswer => exact h.execHostSnoopAnswer
  case hostSnoop => exact h.execHostSnoop
  case hostLost => exact h.execHostLost
  case peerReadRequest => exact h.execPeerReadRequest
  case peerWrite => exact h.execPeerWrite
  case peerCounterAdd => exact h.execPeerCounterAdd
  case remoteResponse => exact h.execRemoteResponse
  case flitReplay => exact h.execFlitReplay
  case managementMessage => exact h.execManagementMessage
  case timingMessage => exact h.execTimingMessage
  case peerLost => exact h.execPeerLost
  case linkDown => exact h.execLinkDown
  case linkRetry => exact h.execLinkRetry
  case queueEnable => exact h.execQueueEnable
  case qverUpdate => exact h.execQverUpdate
  case reasonClear => exact h.execReasonClear
  case frontEndTake => exact h.execFrontEndTake
  case launchReady => exact h.execLaunchReady
  case gangStagePlace => exact h.execGangStagePlace
  case launchComplete => exact h.execLaunchComplete
  case preemptionRequest => exact h.execPreemptionRequest
  case forcedStop => exact h.execForcedStop
  case teamSave => exact h.execTeamSave
  case teamRestore => exact h.execTeamRestore
  case yieldSwap => exact h.execYieldSwap
  case teamExit => exact h.execTeamExit
  case faultRecordWrite => exact h.execFaultRecordWrite
  case disposition => exact h.execDisposition
  case mchk => exact h.execMchk
  case eqsetWrite => exact h.execEqsetWrite
  case snapgo => exact h.execSnapgo
  case islandControl => exact h.execIslandControl
  case powerLimitThrottle => exact h.execPowerLimitThrottle
  case keyDerive => exact h.execKeyDerive
  case keyClear => exact h.execKeyClear
  case egressRelease => exact h.execEgressRelease
  case almbaseWrite => exact h.execAlmbaseWrite
  case almack => exact h.execAlmack
  case almanacPortSelect => exact h.execAlmanacPortSelect
  case leaderTakeover => exact h.execLeaderTakeover
  case servicePairMismatch => exact h.execServicePairMismatch
  case packageReset => exact Keeps.execPackageReset
  case attestationRequest => exact h.execAttestationRequest
  case sealImport => exact h.execSealImport
  case registerWrite => exact h.execRegisterWrite
  case unassignedOpcode => exact h.execUnassignedOpcode
  case mgemmSequencerStep => exact h.execMgemmSequencerStep
  case matrixAcceptance => exact h.execMatrixAcceptance
  case cxlCacheResponse => exact h.execCxlCacheResponse
  case servicePairAccess => exact h.execServicePairAccess
  case shootdownDone => exact h.execShootdownDone
  case feed => exact h.execFeed
  case startTimeReached => exact h.execStartTimeReached
  case kernelReplace => exact h.execKernelReplace
  case fehbWrite => exact h.heartbeatOf
  case frontEndWatchdog => exact h.execFrontEndWatchdog
  case snapshotLatch => exact h.execSnapshotLatch
  case leaderHeartbeat => exact h.execLeaderHeartbeat

/-! ### A step -/

theorem Keeps.takeTurn (h : Keeps b o s) : Keeps b o s.takeTurn.2 := by
  unfold State.takeTurn
  split <;> exact h.free

theorem Keeps.runTurn (h : Keeps false o s) {t₁} : Ends o (Machine.runTurn t₁ s) := by
  unfold Machine.runTurn
  split
  · extract_lets s1
    have h1 : Keeps false o s1 := h.free
    split
    · exact .fault
    · split
      · exact (h1.nextInstr.run ‹_›).exec
      · exact (h1.nextInstr.stop ‹_›).next
  · split
    · exact h.exec
    · exact .unsupported
  · exact h.pass.next

theorem Keeps.step (h : Keeps false o s) : Ends o (Machine.step s) := h.takeTurn.runTurn

/-- Settles O55: whatever is carried out keeps memory in its canonical form and the writes in flight in their order
(`Keeps`), by a lemma for each function of the model that changes the state. -/
theorem everyStepKeepsMemoryAndWritesInOrder : Obligations.EveryStepKeepsMemoryAndWritesInOrder := by
  unfold Obligations.EveryStepKeepsMemoryAndWritesInOrder
  refine ⟨fun s t h ht => ?_, fun s t h ht => ?_, fun i s t h ht => ?_, fun i s t h ht => ?_⟩
  · exact (Keeps.refl.step t ht).mem h
  · exact (Keeps.refl.step t ht).writes h
  · exact (Keeps.refl.exec t ht).mem h
  · exact (Keeps.refl.exec t ht).writes h

end Sys2Proof.Machine
end

section

/-! PROOFS. Windows, the carve-out and shootdowns (O50). -/

namespace Sys2Proof.Machine

/-! ### What enters the Almanac -/

/-- Asking for a line back leaves all else, and what was asked for before. -/
theorem State.snoop_eq (s : State) (line : Nat) (inv : Bool) : ∃ l, s.snoop line inv = { s with snoops := s.snoops ++ l } := by
  unfold State.snoop
  split
  · exact ⟨[], by rw [List.append_nil]⟩
  · exact ⟨_, rfl⟩

theorem State.snoop_asked (s : State) (line : Nat) : ∃ q ∈ (s.snoop line true).snoops, q.line = line ∧ q.inv = true := by
  unfold State.snoop
  split
  next h =>
    obtain ⟨q, hq, hline⟩ := List.any_eq_true.mp h
    exact ⟨q, hq, by simpa using hline⟩
  next => exact ⟨_, List.mem_append_right _ (List.mem_singleton_self _), rfl, rfl⟩

/-- Lines asked for back, all with invalidation. -/
def State.snoopAll (s : State) (lines : List Nat) : State := lines.foldl (fun s l => s.snoop l true) s

theorem State.snoopAll_eq (lines : List Nat) (s : State) : ∃ l, s.snoopAll lines = { s with snoops := s.snoops ++ l } := by
  induction lines generalizing s with
  | nil => exact ⟨[], by rw [List.append_nil]; rfl⟩
  | cons x r ih =>
    obtain ⟨l, hl⟩ := s.snoop_eq x true
    obtain ⟨l', hl'⟩ := ih (s.snoop x true)
    refine ⟨l ++ l', (hl' : (s.snoop x true).snoopAll r = _).trans ?_⟩
    rw [hl, List.append_assoc]

theorem State.snoopAll_asked {lines : List Nat} (s : State) {x : Nat} (hx : x ∈ lines) :
    ∃ q ∈ (s.snoopAll lines).snoops, q.line = x ∧ q.inv = true := by
  induction lines generalizing s with
  | nil => exact absurd hx List.not_mem_nil
  | cons y r ih =>
    rcases List.mem_cons.mp hx with rfl | hx
    · obtain ⟨q, hq, hasked⟩ := s.snoop_asked x
      obtain ⟨l, hl⟩ := State.snoopAll_eq r (s.snoop x true)
      have hmem : q ∈ ((s.snoop x true).snoopAll r).snoops := by
        rw [hl]
        exact List.mem_append_left l hq
      exact ⟨q, hmem, hasked⟩
    · exact ih (s.snoop y true) hx

/-- What must enter the Almanac while a host holds its lines asks for them (R416, R432). -/
theorem almAsk_spec (s : State) : (almHeld s = [] → s.almAsk = s) ∧ s.almAsk = { s with snoops := s.almAsk.snoops } ∧
    ∀ l ∈ almHeld s, ∃ q ∈ s.almAsk.snoops, q.line = l ∧ q.inv = true := by
  refine ⟨fun h => by rw [State.almAsk, h]; rfl, ?_, fun _ hl => State.snoopAll_asked s hl⟩
  obtain ⟨l, hl⟩ := State.snoopAll_eq (almHeld s) s
  rw [show s.almAsk = _ from hl]

/-! ### Region windows (R100 to R103, R108) -/

theorem execWindowEnable_skips {s : State} {w : Nat} {v : Dword}
    (h : 64 ≤ w ∨ (s.window w).en = true ∨ v.getLsbD 0 = false) : execWindowEnable w v s = .next s :=
  if_pos (by simpa using h)

theorem execWindowEnable_checks {s : State} {w : Nat} {v : Dword} (hw : w < 64) (hen : (s.window w).en = false)
    (hv : v.getLsbD 0 = true) : execWindowEnable w v s = match windowCheck s ((s.window w).withCtl v) v with
      | 0 =>
        if almRoom s then
          .next ((s.modWindow w fun _ => { (s.window w).withCtl v with en := true, sts := 0 }).almAppend 0x01 0
            (bytesOf { (s.window w).withCtl v with en := true, sts := 0 : Window }.ctl.toNat 8))
        else .next s.almAsk
      | n => .next (s.modWindow w fun _ => { (s.window w).withCtl v with sts := n }) := by
  have hgo : ¬(64 ≤ w ∨ (s.window w).en = true ∨ (!v.getLsbD 0) = true) := by simp [hw, hen, hv]
  exact if_neg hgo

theorem execWindowEnable_spec {s : State} {w : Nat} {v : Dword} (hw : w < 64) (hen : (s.window w).en = false)
    (hv : v.getLsbD 0 = true) :
    let x := (s.window w).withCtl v
    (windowCheck s x v ≠ 0 → execWindowEnable w v s =
      .next { s with windows := s.windows.modify w fun _ => { x with sts := windowCheck s x v } }) ∧
    (windowCheck s x v = 0 → almRoom s = false → execWindowEnable w v s = .next s.almAsk) ∧
    (windowCheck s x v = 0 → almRoom s = true → execWindowEnable w v s =
      .next ({ s with windows := s.windows.modify w fun _ => { x with en := true, sts := 0 } }.almAppend 1 0
        (bytesOf { x with en := true, sts := 0 : Window }.ctl.toNat 8))) := by
  intro x
  rw [execWindowEnable_checks hw hen hv]
  refine ⟨fun hbad => ?_, fun hok hroom => ?_, fun hok hroom => ?_⟩
  · split
    · exact absurd ‹_› hbad
    · rfl
  · rw [show windowCheck s ((s.window w).withCtl v) v = 0 from hok, hroom]
    rfl
  · rw [show windowCheck s ((s.window w).withCtl v) v = 0 from hok, hroom]
    rfl

theorem overlapsWindow_eq_false {s : State} {a n : Nat} : overlapsWindow s a n = false ↔
    ∀ y ∈ s.windows, y.en = true → y.base + y.bytes ≤ a ∨ a + n ≤ y.base := by
  simp only [overlapsWindow, List.any_eq_false, Bool.and_eq_true, decide_eq_true_eq, not_and, not_lt]
  refine forall_congr' fun y => imp_congr_right fun _ => ?_
  rw [and_imp]
  exact imp_congr_right fun _ => by omega

/-- The raw base is a number of 64 KiB units (R100). -/
theorem Window.base_mod (x : Window) : x.base % 65536 = 0 := by
  rw [Window.base, BitVec.toNat_and, show 65536 = 2 ^ 16 from rfl, Nat.and_mod_two_pow]
  exact Nat.and_zero _

/-- What the checks of R103 that pass say. -/
theorem windowCheck_passed {s : State} {x : Window} {v : Dword} (h : windowCheck s x v = 0) :
    x.formatOk = true ∧ 0 < x.bytes ∧ x.bytes ≤ 2 ^ 36 ∧ farBase ≤ x.base ∧ x.base + x.bytes ≤ farBase + farSize ∧
    x.base % 65536 = 0 ∧ x.reserved v = false ∧
    (∀ y ∈ s.windows, y.en = true → y.base + y.bytes ≤ x.base ∨ x.base + x.bytes ≤ y.base) ∧
    (x.isSealed = true → ∃ k, s.keys[x.ks]? = some k ∧ k.full = true) := by
  unfold windowCheck at h
  split_ifs at h with hformat hrange hover hscale hunits hkey hres
  simp only [not_or, Bool.not_eq_true', Bool.not_eq_false, not_lt, not_and, Bool.not_eq_true] at hformat hrange hkey hres hover
  obtain ⟨hpos, hmax, hfar⟩ := hrange
  obtain ⟨hlo, hhi⟩ : farBase ≤ x.base ∧ x.base + x.bytes ≤ farBase + farSize := by simpa [inFar] using hfar
  refine ⟨hformat, Nat.pos_of_ne_zero hpos, hmax, hlo, hhi, x.base_mod, hres, overlapsWindow_eq_false.mp hover, fun hsealed => ?_⟩
  have hfull := hkey hsealed
  cases hk : s.keys[x.ks]? with
  | none => rw [hk] at hfull; exact nomatch hfull
  | some k => rw [hk] at hfull; exact ⟨k, rfl, hfull⟩

theorem execWindowDisable_spec (s : State) (w : Nat) (v : Dword) :
    ((s.window w).en = false ∨ v.getLsbD 0 = true → execWindowDisable w v s = .next s) ∧
    ((s.window w).en = true → v.getLsbD 0 = false → almRoom s = false → execWindowDisable w v s = .next s.almAsk) ∧
    ((s.window w).en = true → v.getLsbD 0 = false → almRoom s = true → execWindowDisable w v s =
      .next ({ s with windows := s.windows.modify w fun _ => { s.window w with en := false, bsy := true } }.almAppend 1 0
        (bytesOf { s.window w with en := false, bsy := true : Window }.ctl.toNat 8))) := by
  unfold execWindowDisable
  refine ⟨fun h => if_pos (by simpa using h), fun hen hv hroom => ?_, fun hen hv hroom => ?_⟩
  · rw [if_neg (by rw [hen, hv]; decide), if_pos (by rw [hroom]; rfl)]
  · rw [if_neg (by rw [hen, hv]; decide), if_neg (by rw [hroom]; decide)]
    rfl

theorem execWindowFlushDone_idle {s : State} {w : Nat} (h : (s.window w).bsy = false) : execWindowFlushDone w s =
    .next { s with windows := s.windows.modify w fun (x : Window) => { x with bsy := false } } := by
  unfold execWindowFlushDone
  rw [if_neg (by simp [h])]
  rfl

/-- A flush that is done leaves no decoded line of the window (R108). -/
theorem execWindowFlushDone_busy {s : State} {w : Nat} (h : (s.window w).bsy = true) :
    ∃ u, execWindowFlushDone w s = .next u ∧ (∀ x ∈ u.decoded, x.w ≠ w) ∧
      (∀ x, x.w ≠ w → (x ∈ u.decoded ↔ x ∈ s.decoded)) ∧ u = { s with
        decoded := u.decoded, windows := s.windows.modify w fun (x : Window) => { x with bsy := false } } := by
  unfold execWindowFlushDone
  rw [if_pos h]
  exact ⟨_, rfl, fun x hx => of_decide_eq_true (List.mem_filter.mp hx).2,
    fun x hx => List.mem_filter.trans (and_iff_left (decide_eq_true hx)), rfl⟩

/-! ### The carve-out (R113 to R115) -/

theorem State.carve_eq {s : State} {d : Nat} {x : L2Cfg} (h : s.l2cfg[d]? = some x) : s.carve d = x := by
  rw [State.carve, h]
  rfl

theorem execCarveoutChange_spec {s : State} {d : Nat} (v : Dword) {x : L2Cfg} (h : s.l2cfg[d]? = some x) :
    let b := v.toNat % 16
    let put (y : L2Cfg) : State := { s with l2cfg := s.l2cfg.set d y }
    (x.sts = 1 ∨ x.sts = 2 → execCarveoutChange d v s = .next s) ∧
    (x.sts ≠ 1 → x.sts ≠ 2 → 8 < b → execCarveoutChange d v s = .next (put { x with sts := 3 })) ∧
    (x.sts ≠ 1 → x.sts ≠ 2 → b ≤ 8 → b = x.cur → execCarveoutChange d v s = .next (put { x with sts := 0, csz := b })) ∧
    (x.sts ≠ 1 → x.sts ≠ 2 → b ≤ 8 → b < x.cur → granuleHeld s d (8 * b) = true →
      execCarveoutChange d v s = .next (put { x with sts := 2, csz := b })) ∧
    (x.sts ≠ 1 → x.sts ≠ 2 → b ≤ 8 → b ≠ x.cur → (b < x.cur → granuleHeld s d (8 * b) = false) →
      execCarveoutChange d v s = .next (put { x with sts := 1, csz := b })) := by
  intro b put
  have hb : (v.extractLsb' 0 4).toNat = b := by rw [BitVec.extractLsb'_toNat, Nat.shiftRight_zero]
  have hput (y : L2Cfg) : ({ s with l2cfg := s.l2cfg.modify d fun _ => y } : State) = put y := by
    rw [← List.set_eq_modify]
  unfold execCarveoutChange
  simp only [State.carve_eq h, hb, hput]
  refine ⟨fun hx => if_pos hx, fun h1 h2 hbig => ?_, fun h1 h2 hle heq => ?_, fun h1 h2 hle hlt hheld => ?_,
    fun h1 h2 hle hne hfree => ?_⟩
  all_goals rw [if_neg (not_or.mpr ⟨h1, h2⟩)]
  · rw [if_pos hbig]
  · rw [if_neg (not_lt.mpr hle), if_pos heq]
  · rw [if_neg (not_lt.mpr hle), if_neg hlt.ne, if_pos ⟨hlt, hheld⟩]
  · rw [if_neg (not_lt.mpr hle), if_neg hne, if_neg fun hboth => by simp [hfree hboth.1] at hboth]

theorem execCarveoutShrinkProceed_spec {s : State} {d : Nat} {x : L2Cfg} (h : s.l2cfg[d]? = some x) :
    (x.sts = 2 → granuleHeld s d (8 * x.csz) = false → execCarveoutShrinkProceed d s =
      .next { s with l2cfg := s.l2cfg.set d { x with sts := 1 } }) ∧
    (x.sts ≠ 2 ∨ granuleHeld s d (8 * x.csz) = true → execCarveoutShrinkProceed d s = .next s) := by
  unfold execCarveoutShrinkProceed
  simp only [State.carve_eq h]
  refine ⟨fun hsts hfree => ?_, fun hstay => if_neg ?_⟩
  · rw [if_pos ⟨hsts, by simp [hfree]⟩, List.modify_eq_set_getElem?, h]
    rfl
  · rcases hstay with hne | hheld
    · exact fun hboth => hne hboth.1
    · simp [hheld]

/-- A carve-out in its new size (R113, R115). -/
def State.carved (s : State) (d : Nat) : State :=
  let x := s.carve d
  let lo := chipBase d + min x.cur x.csz * 2 ^ 23
  let hi := chipBase d + max x.cur x.csz * 2 ^ 23
  let low : Dword := BitVec.ofNat 64 (2 ^ (8 * x.csz) - 1)
  { s.dropBytes (Loc.inRange lo hi) with
    mem := cellFilter (fun a => !(decide (lo ≤ a) && decide (a < hi))) s.mem
    poison := s.poison.filter fun n => !(decide (lo ≤ 128 * n) && decide (128 * n < hi))
    chrsv := s.chrsv.modify d fun m => m &&& low, chrsvWant := s.chrsvWant.modify d fun m => m &&& low
    l2cfg := s.l2cfg.modify d fun x => { x with cur := x.csz, sts := 0 } }

theorem execCarveoutChangeDone_idle {s : State} {d : Nat} (h : (s.carve d).sts ≠ 1) : execCarveoutChangeDone d s = .next s :=
  if_pos h

/-- A change that is done leaves the carve-out in its new size and hands over what L2 lines were lost. -/
theorem execCarveoutChangeDone_eq {s : State} {d : Nat} (h : (s.carve d).sts = 1) : ∃ r n,
    execCarveoutChangeDone d s = .next { s.carved d with recs := r, nextRec := n } ∧
    ((∀ l ∈ Config.l2Lines s.tick d, l ∉ s.poison) → r = s.recs) := by
  have heq : execCarveoutChangeDone d s = .next (if (s.carve d).cur < (s.carve d).csz then
      (s.carved d).chargeLines (wayTaken s d (s.carve d).csz) else s.carved d) := if_neg (not_not.mpr h)
  rw [heq]
  split
  · refine ⟨_, _, congrArg _ (State.chargeLines_frame _ _), fun hclean => ?_⟩
    rw [State.chargeLines, List.filter_eq_nil_iff.mpr]
    · rfl
    · intro l hl htaken
      have hin : (Config.l2Lines s.tick d).contains l = true := by
        simp only [wayTaken, Bool.and_eq_true] at htaken
        exact htaken.1.1.1.1.1
      exact hclean l (List.contains_iff_mem.mp hin) (List.mem_filter.mp hl).1
  · exact ⟨_, _, rfl, fun _ => rfl⟩

theorem State.carved_l2cfg {s : State} {d : Nat} {x : L2Cfg} (h : s.l2cfg[d]? = some x) :
    (s.carved d).l2cfg[d]? = some { x with cur := x.csz, sts := 0 } ∧ ∀ e, e ≠ d → (s.carved d).l2cfg[e]? = s.l2cfg[e]? := by
  refine ⟨?_, fun e he => ?_⟩
  · rw [State.carved, List.getElem?_modify_eq, h]
    rfl
  · exact List.getElem?_modify_ne _ _ he.symm

theorem PWrite.at?_drop {w : PWrite} {p : Loc → Bool} {l : Loc} (h : p l = false) :
    ({ w with bytes := w.bytes.filter fun x => !p x.1 } : PWrite).at? l = w.at? l := by
  unfold PWrite.at?
  rw [List.find?_filter]
  congr 2
  funext x
  by_cases hx : x.1 = l
  · simp [hx, h]
  · simp [hx]

/-- Bytes dropped elsewhere leave what a location comes to. -/
theorem finalByte_dropBytes {s : State} {p : Loc → Bool} {l : Loc} (h : p l = false) :
    finalByte (s.dropBytes p) l = finalByte s l := by
  unfold finalByte State.dropBytes
  rw [List.foldl_map]
  simp only [PWrite.at?_drop h]
  cases l <;> rfl

/-- The bytes of the range that changes read zero, and what the others come to is as before (R113, R115). -/
theorem State.carved_bytes (s : State) (d a : Nat) :
    let lo := chipBase d + min (s.carve d).cur (s.carve d).csz * 2 ^ 23
    let hi := chipBase d + max (s.carve d).cur (s.carve d).csz * 2 ^ 23
    (lo ≤ a → a < hi → cellGet (s.carved d).mem a = 0) ∧
      (a < lo ∨ hi ≤ a → finalByte (s.carved d) (.phys a) = finalByte s (.phys a)) := by
  intro lo hi
  refine ⟨fun hlo hhi => ?_, fun hout => ?_⟩
  · rw [State.carved, cellGet_cellFilter]
    simp [lo, hi] at hlo hhi ⊢
    omega
  · have hin : Loc.inRange lo hi (.phys a) = false := by
      rw [Loc.inRange, Bool.and_eq_false_iff, decide_eq_false_iff_not, decide_eq_false_iff_not]
      omega
    refine Eq.trans ?_ (finalByte_dropBytes (p := Loc.inRange lo hi) hin)
    have hbase : locBase (s.carved d) (.phys a) = locBase (s.dropBytes (Loc.inRange lo hi)) (.phys a) := by
      have hmem : (s.carved d).mem = cellFilter (fun a => !(decide (lo ≤ a) && decide (a < hi))) s.mem := rfl
      simp only [locBase, hmem, cellGet_cellFilter]
      exact if_pos (congrArg not hin)
    unfold finalByte
    rw [hbase]
    rfl

/-- Granules beyond the new size are reserved no more (R113). -/
theorem State.carved_chrsv {s : State} {d : Nat} {m : Dword} (h : s.chrsv[d]? = some m) :
    ∃ n, (s.carved d).chrsv[d]? = some n ∧ ∀ g, g < 64 → n.getLsbD g = (m.getLsbD g && decide (g < 8 * (s.carve d).csz)) := by
  refine ⟨_, by rw [State.carved, List.getElem?_modify_eq, h]; rfl, fun g hg => ?_⟩
  rw [BitVec.getLsbD_and, BitVec.getLsbD_ofNat, Nat.testBit_two_pow_sub_one, decide_eq_true hg, Bool.true_and]

/-! ### Reserved granules (R113) -/

/-- The bits below `n` that satisfy `p`. -/
def bitsBelow (p : Nat → Bool) (n : Nat) : Dword := (List.range n).foldl (fun m g => if p g then m ||| (1 <<< g) else m) 0

theorem getLsbD_cast_one_shiftLeft (n g : Nat) (hg : g < 64) : (((1 <<< n : Nat) : Dword)).getLsbD g = decide (n = g) := by
  rw [BitVec.natCast_eq_ofNat, BitVec.getLsbD_ofNat, decide_eq_true hg, Bool.true_and, Nat.one_shiftLeft, Nat.testBit_two_pow]

theorem getLsbD_bitsBelow (p : Nat → Bool) (n g : Nat) (hg : g < 64) : (bitsBelow p n).getLsbD g = (decide (g < n) && p g) := by
  induction n with
  | zero => simp [bitsBelow]
  | succ n ih =>
    have hstep : (bitsBelow p (n + 1)).getLsbD g = ((bitsBelow p n).getLsbD g || (p n && decide (n = g))) := by
      simp only [bitsBelow, List.range_succ, List.foldl_append, List.foldl_cons, List.foldl_nil]
      split
      next hp => rw [BitVec.getLsbD_or, getLsbD_cast_one_shiftLeft n g hg, hp, Bool.true_and]
      next hp => rw [Bool.eq_false_iff.mpr hp, Bool.false_and, Bool.or_false]
    rw [hstep, ih]
    by_cases hgn : n = g
    · simp [hgn]
    · have hlt : decide (g < n + 1) = decide (g < n) := by
        rw [decide_eq_decide]
        omega
      rw [decide_eq_false hgn, Bool.and_false, Bool.or_false, hlt]

/-- The granules of a die that its teams hold. -/
def chipsOf (s : State) (d : Nat) : List Nat := (s.teams.filter fun t => decide (t.cluster / 8 = d)).flatMap Team.chip

/-- The granule is written and may be reserved (R113). -/
def chrsvOk (s : State) (d : Nat) (v : Dword) (g : Nat) : Bool :=
  v.getLsbD g && decide (g < 8 * (if (s.carve d).sts = 1 then min (s.carve d).cur (s.carve d).csz else (s.carve d).cur))

/-- Some team of the die holds the granule. -/
theorem contains_chipsOf (s : State) (d g : Nat) :
    (chipsOf s d).contains g = s.teams.any fun t => decide (t.cluster / 8 = d) && t.chip.contains g := by
  unfold chipsOf
  rw [Bool.eq_iff_iff, List.contains_iff_mem]
  simp [List.mem_flatMap, and_assoc]

theorem execChrsvWrite_spec (s : State) (d : Nat) (v : Dword) :
    ∃ u m n, execChrsvWrite d v s = .next u ∧ u = { s with chrsv := s.chrsv.set d m, chrsvWant := s.chrsvWant.set d n } ∧
      ∀ g, g < 64 →
        let held := s.teams.any fun t => decide (t.cluster / 8 = d) && t.chip.contains g
        let top := if (s.carve d).sts = 1 then min (s.carve d).cur (s.carve d).csz else (s.carve d).cur
        m.getLsbD g = (v.getLsbD g && decide (g < 8 * top) && !held) ∧
        n.getLsbD g = (v.getLsbD g && decide (g < 8 * top) && held) := by
  have heq : execChrsvWrite d v s = .next { s with
      chrsv := s.chrsv.modify d fun _ => bitsBelow (fun g => chrsvOk s d v g && !(chipsOf s d).contains g) 64
      chrsvWant := s.chrsvWant.modify d fun _ => bitsBelow (fun g => chrsvOk s d v g && (chipsOf s d).contains g) 64 } := rfl
  refine ⟨_, _, _, heq, by rw [List.set_eq_modify, List.set_eq_modify], fun g hg => ?_⟩
  simp only [getLsbD_bitsBelow _ _ _ hg, decide_eq_true hg, Bool.true_and, contains_chipsOf]
  exact ⟨rfl, rfl⟩

/-! ### Shootdowns (R123, R124, R356, R384) -/

theorem toNat_extract (v : Dword) (n : Nat) : (v.extractLsb' 0 n).toNat = v.toNat % 2 ^ n := by
  rw [BitVec.extractLsb'_toNat, Nat.shiftRight_zero]

/-- The shootdown a written SDCMD begins. -/
def Shoot.started (x : Shoot) (v : Dword) : Shoot :=
  { x with kind := v.toNat % 4, sts := 0, bsy := true, run := (v.toNat % 4, x.ctx.toNat % 2 ^ 32) }

/-- A translation a copy queue holds, of a page it is to finish if the shootdown covers it. -/
def HeldTr.shot (x : Shoot) (h : HeldTr) : HeldTr := if x.covers h.e.ctx h.e.page h.e.size then { h with stale := true } else h

/-- What a shootdown removes, and marks where it cannot be removed yet. -/
def State.shot (s : State) (x : Shoot) : State :=
  { s with
    shoot := x
    tlb := s.tlb.filter fun e => !x.covers e.ctx e.page e.size
    walkCache := s.walkCache.filter fun e => !x.names e.ctx
    icache := s.icache.filter fun l => !x.covers l.ctx l.va 128
    decOps := s.decOps.filter fun y => !x.covers y.ctx y.va y.len
    cmds := s.cmds.map fun c => { c with trs := c.trs.map (HeldTr.shot x) }
    ctxs := s.ctxs.map fun c => if x.wholly c.num then { c with persDue := c.persNext } else c }

theorem execShootdown_kind {s : State} {v : Dword} (h : v.getLsbD 4 = false) :
    execShootdown v s = .next { s with shoot := { s.shoot with kind := v.toNat % 4 } } := by
  unfold execShootdown
  rw [if_pos (by rw [h]; rfl), toNat_extract]
  rfl

theorem execShootdown_busy {s : State} {v : Dword} (hbsy : s.shoot.bsy = true) (h : v.getLsbD 4 = true) :
    execShootdown v s = .next s := by
  unfold execShootdown
  rw [if_neg (by rw [h]; decide), if_pos hbsy]

theorem execShootdown_malformed {s : State} {v : Dword} (hbsy : s.shoot.bsy = false) (h : v.getLsbD 4 = true)
    (hm : shootMalformed s.shoot v = true) :
    execShootdown v s = .next { s with shoot := { s.shoot with sts := 1, kind := v.toNat % 4 } } := by
  unfold execShootdown
  rw [if_neg (by rw [h]; decide), if_neg (by rw [hbsy]; decide), if_pos hm, toNat_extract]
  rfl

theorem execShootdown_starts {s : State} {v : Dword} (hbsy : s.shoot.bsy = false) (h : v.getLsbD 4 = true)
    (hm : shootMalformed s.shoot v = false) : execShootdown v s = .next (s.shot (s.shoot.started v)) := by
  unfold execShootdown
  rw [if_neg (by rw [h]; decide), if_neg (by rw [hbsy]; decide), if_neg (by rw [hm]; decide), toNat_extract, toNat_extract]
  rfl

theorem mem_filter_not {α : Type} {p : α → Bool} {l : List α} {a : α} :
    (a ∈ l.filter fun x => !p x) ↔ a ∈ l ∧ p a = false := by
  rw [List.mem_filter, Bool.not_eq_true']

/-- A copy queue is to finish what it moves within a page that is shot down. -/
theorem State.shot_stale {s : State} {x : Shoot} {c : CopyCmd} (hc : c ∈ (s.shot x).cmds) {h : HeldTr} (hh : h ∈ c.trs)
    (hcov : x.covers h.e.ctx h.e.page h.e.size = true) : h.stale = true := by
  obtain ⟨c0, -, rfl⟩ := List.mem_map.mp hc
  obtain ⟨h0, -, rfl⟩ := List.mem_map.mp hh
  unfold HeldTr.shot at hcov ⊢
  split at hcov
  next hpos => rw [if_pos hpos]
  next hneg => exact absurd hcov hneg

/-- A page address with its low 12 bits clear is the number that the registers' mask keeps. -/
theorem toNat_and_pageMask {va : Dword} (hlt : va.toNat < 2 ^ 57) (hpage : va.toNat % 4096 = 0) :
    (va &&& 0x01FFFFFFFFFFF000).toNat = va.toNat := by
  obtain ⟨k, hk⟩ := Nat.dvd_of_mod_eq_zero hpage
  have hva : va.toNat = k <<< 12 := by rw [hk, Nat.shiftLeft_eq, Nat.mul_comm]
  have hk45 : k < 2 ^ 45 := by omega
  rw [BitVec.toNat_and, hva, show (0x01FFFFFFFFFFF000 : Dword).toNat = (2 ^ 45 - 1) <<< 12 from rfl, ← Nat.shiftLeft_and_distrib,
    Nat.and_two_pow_sub_one_eq_mod, Nat.mod_eq_of_lt hk45]

theorem Shoot.covers_all {x : Shoot} (h : x.kind = 2) (ctx page size : Nat) : x.covers ctx page size = true := by
  rw [Shoot.covers, h]
  rfl

theorem Shoot.covers_context {x : Shoot} (h : x.kind = 1) (ctx page size : Nat) :
    x.covers ctx page size = decide (x.ctx.toNat % 2 ^ 32 = ctx) := by
  rw [Shoot.covers, h, toNat_extract]
  rfl

/-- A shootdown of a range covers what shares a byte with it. -/
theorem Shoot.covers_range {x : Shoot} {size : Nat} (h : x.kind = 0) (hlen : 0 < x.len.toNat % 2 ^ 36) (hlt : x.va.toNat < 2 ^ 57)
    (hpage : x.va.toNat % 4096 = 0) (hsize : 0 < size) (ctx page : Nat) :
    x.covers ctx page size = true ↔ x.ctx.toNat % 2 ^ 32 = ctx ∧
      ∃ a, page ≤ a ∧ a < page + size ∧ x.va.toNat ≤ a ∧ a < x.va.toNat + 4096 * (x.len.toNat % 2 ^ 36) := by
  rw [Shoot.covers, h]
  simp only [toNat_extract, toNat_and_pageMask hlt hpage, Bool.and_eq_true, decide_eq_true_eq, and_assoc]
  refine and_congr_right fun _ => ⟨fun ⟨hbelow, habove⟩ => ⟨max page x.va.toNat, ?_⟩, fun ⟨a, ha⟩ => ?_⟩
  all_goals omega

/-! ### A shootdown that is done -/

/-- A fold leaves what each of its steps leaves. -/
theorem foldl_leaves {α β : Type} (g : State → β) {f : State → α → State} (hf : ∀ s x, g (f s x) = g s) (l : List α) (s : State) :
    g (l.foldl f s) = g s := by
  induction l generalizing s with
  | nil => rfl
  | cons x l ih => exact (ih _).trans (hf s x)

/-- Writes that reach their place change it and nothing else (R314). -/
def SettleFrame (s t : State) : Prop :=
  t = { s with mem := t.mem, writes := t.writes, decoded := t.decoded, teams := t.teams, segs := t.segs }

theorem SettleFrame.refl (s : State) : SettleFrame s s := rfl

theorem SettleFrame.trans {s t u : State} (h : SettleFrame s t) (h' : SettleFrame t u) : SettleFrame s u := by
  unfold SettleFrame at h h' ⊢
  rw [h', h]

theorem SettleFrame.same {s t : State} (h : SettleFrame s t) : t.comb = s.comb ∧ t.near = s.near ∧ t.poison = s.poison ∧
    t.hostMem = s.hostMem ∧ t.hostLines = s.hostLines ∧ t.cxlReqs = s.cxlReqs := by
  rw [show t = _ from h]
  exact ⟨rfl, rfl, rfl, rfl, rfl, rfl⟩

theorem SettleFrame.foldl {α : Type} {f : State → α → State} (h : ∀ s x, SettleFrame s (f s x)) (l : List α) (s : State) :
    SettleFrame s (l.foldl f s) := by
  induction l generalizing s with
  | nil => exact .refl s
  | cons x l ih => exact (h s x).trans (ih (f s x))

theorem setBase_frame (s : State) (l : Loc) (x : Byte) : SettleFrame s (setBase s l x) ∧ (setBase s l x).writes = s.writes := by
  cases l <;> exact ⟨rfl, rfl⟩

theorem setBases_frame (bytes : List (Loc × Byte)) (s : State) : SettleFrame s (bytes.foldl (fun s p => setBase s p.1 p.2) s) :=
  .foldl (fun s p => (setBase_frame s p.1 p.2).1) bytes s

theorem setBases_writes (bytes : List (Loc × Byte)) (s : State) : (bytes.foldl (fun s p => setBase s p.1 p.2) s).writes = s.writes :=
  foldl_leaves State.writes (f := fun s p => setBase s p.1 p.2) (fun s p => (setBase_frame s p.1 p.2).2) bytes s

theorem State.settle_frame (s : State) : SettleFrame s s.settle := by
  unfold State.settle
  refine SettleFrame.trans ?_ (SettleFrame.foldl (fun s (w : PWrite) => setBases_frame w.bytes s) _ _)
  rfl

theorem State.settle_writes (s : State) : s.settle.writes = s.writes.filter fun w => decide (w.level < 6) := by
  unfold State.settle
  exact foldl_leaves State.writes (fun s (w : PWrite) => setBases_writes w.bytes s) _ _

theorem State.perform_frame (s : State) (lvl : Nat) (p : PWrite → Bool) : SettleFrame s (s.perform lvl p) :=
  SettleFrame.trans (t := { s with writes := s.writes.map fun w =>
    if ((neededFor p s.writes).map PWrite.id).contains w.id then { w with level := max w.level lvl } else w }) rfl
    (State.settle_frame _)

theorem State.perform_comb (s : State) (lvl : Nat) (p : PWrite → Bool) : (s.perform lvl p).comb = s.comb :=
  (s.perform_frame lvl p).same.1

theorem State.hostYield_comb (s : State) (line : Nat) (inv : Bool) : (s.hostYield line inv).comb = s.comb := by
  unfold State.hostYield
  split <;> rfl

theorem State.writeNow_comb (s : State) (bytes : List (Loc × Byte)) : (s.writeNow bytes).comb = s.comb :=
  (setBases_frame bytes _).same.1.trans
    ((foldl_leaves State.comb (f := fun s l => s.hostYield l true) (fun s l => s.hostYield_comb l true) _ _).trans (s.perform_comb _ _))

theorem State.snoop_comb (s : State) (line : Nat) (inv : Bool) : (s.snoop line inv).comb = s.comb := by
  unfold State.snoop
  split <;> rfl

theorem State.request_comb (s : State) (ns : List Need) : (s.request ns).comb = s.comb := by
  refine foldl_leaves State.comb (fun s x => ?_) ns s
  cases x with
  | snoop l inv => exact s.snoop_comb l inv
  | cxl l => dsimp only; split <;> rfl
  | team t => dsimp only; split <;> rfl
  | place => rfl

theorem State.grant_comb (s : State) (core line : Nat) : (s.grant core line).comb = s.comb := by
  unfold State.grant
  dsimp only
  split <;> rfl

theorem State.placeAtomic_comb (s : State) (core pl line : Nat) : (s.placeAtomic core pl line).comb = s.comb := by
  unfold State.placeAtomic
  dsimp only
  split
  · exact s.grant_comb core line
  · split <;> rfl

theorem State.rmw_comb (s : State) (r : Seat) (t : Target) (n : Nat) (f : Nat → Nat) : (s.rmw r t n f).1.comb = s.comb := by
  unfold State.rmw
  split
  · rfl
  · exact (State.writeNow_comb _ _).trans (s.perform_comb _ _)

theorem State.flushEntry_comb (s : State) (e : CombEntry) : (s.flushEntry e).comb = s.comb := by
  unfold State.flushEntry
  split
  · rw [State.charge, State.addRec_frame]
  · split
    · exact State.request_comb _ _
    · exact (State.rmw_comb _ _ _ _ _).trans
        (foldl_leaves State.comb (f := fun s l => s.placeAtomic e.core e.pl l) (fun s l => s.placeAtomic_comb e.core e.pl l) _ s)

/-- A flush of all leaves the combining buffers empty. -/
theorem State.flushComb_all (s : State) : (s.flushComb fun _ => true).comb = [] :=
  (foldl_leaves State.comb State.flushEntry_comb _ _).trans (List.filter_eq_nil_iff.mpr fun _ _ => Bool.false_ne_true)

theorem mem_neededFor {p : PWrite → Bool} {l : List PWrite} {w : PWrite} (hw : w ∈ l) (hp : p w = true) : w ∈ neededFor p l := by
  induction l with
  | nil => exact absurd hw List.not_mem_nil
  | cons x l ih =>
    simp only [neededFor]
    rcases List.mem_cons.mp hw with rfl | hw
    · rw [if_pos (by rw [hp, Bool.true_or])]
      exact List.mem_cons_self
    · split
      · exact List.mem_cons_of_mem _ (ih hw)
      · exact ih hw

/-- What is performed to a scope is performed at least so far. -/
theorem State.perform_level {s : State} {lvl : Nat} {p : PWrite → Bool} {w : PWrite} (hp : ∀ w n, p { w with level := n } = p w)
    (hw : w ∈ (s.perform lvl p).writes) (h : p w = true) : lvl ≤ w.level := by
  rw [State.perform, State.settle_writes] at hw
  obtain ⟨x, hx, rfl⟩ := List.mem_map.mp (List.mem_filter.mp hw).1
  have hpx : p x = true := by
    split at h
    · rwa [hp] at h
    · exact h
  rw [if_pos (List.contains_iff_mem.mpr (List.mem_map_of_mem (mem_neededFor hx hpx)))]
  exact le_max_right _ _

theorem execShootdownDone_waits {s : State} (h : s.shoot.bsy = false ∨ s.cmds.any (fun c => c.trs.any HeldTr.stale) = true) :
    execShootdownDone s = .next s :=
  if_pos (by simpa using h)

theorem execShootdownDone_asks {s : State} (hbsy : s.shoot.bsy = true) (hdone : s.cmds.any (fun c => c.trs.any HeldTr.stale) = false)
    (hns : flushNeeds s (fun _ => true) ++ coverNeeds s PWrite.physical ≠ []) : execShootdownDone s =
      .next (s.request (flushNeeds s (fun _ => true) ++ coverNeeds s PWrite.physical)) := by
  unfold execShootdownDone
  rw [if_neg (by rw [hbsy, hdone]; decide), if_pos hns]

/-- Flushed and performed, the state is the same to the outside, and the shootdown is over (R124, R356). -/
theorem execShootdownDone_ends {s : State} (hbsy : s.shoot.bsy = true)
    (hdone : s.cmds.any (fun c => c.trs.any HeldTr.stale) = false)
    (hns : flushNeeds s (fun _ => true) ++ coverNeeds s PWrite.physical = []) :
    ∃ u, execShootdownDone s = .next u ∧ u.shoot = { s.shoot with bsy := false } ∧ u.comb = [] ∧
      (∀ w ∈ u.writes, w.physical = true → 4 ≤ w.level) ∧
      u.ctxs = s.ctxs.map fun c => if s.shoot.wholly c.num then c.takePers else c := by
  have hin : Inside s ((s.flushComb fun _ => true).perform 4 PWrite.physical) :=
    (Keeps.refl (b := true)).flushComb.perform.inside rfl
  unfold execShootdownDone
  rw [if_neg (by rw [hbsy, hdone]; decide), if_neg (not_not.mpr hns)]
  refine ⟨_, rfl, ?_, (State.perform_comb _ _ _).trans s.flushComb_all,
    fun w hw hphys => State.perform_level (fun _ _ => rfl) hw hphys, ?_⟩
  · rw [hin.shoot]
  · rw [hin.ctxs]

/-- Settles O50, clause by clause. -/
theorem windowCarveoutAndShootdownEventsComplete : Obligations.WindowCarveoutAndShootdownEventsComplete := by
  unfold Obligations.WindowCarveoutAndShootdownEventsComplete
  refine ⟨fun s w v h => execWindowEnable_skips h, fun s w v hw hen hv => execWindowEnable_spec hw hen hv,
    fun s x v h => windowCheck_passed h, fun s w v => ?windows, fun s => almAsk_spec s,
    fun s d v x h => execCarveoutChange_spec v h, fun s d x h => ?carveout,
    fun s d v _ _ => execChrsvWrite_spec s d v, fun s v => ?shootdown, fun x ctx page size hsize => ?covers, fun s => ?done⟩
  case windows =>
    obtain ⟨hskip, hwait, hoff⟩ := execWindowDisable_spec s w v
    exact ⟨hskip, hwait, hoff, rfl, execWindowFlushDone_idle, execWindowFlushDone_busy⟩
  case carveout =>
    have hx := State.carve_eq h
    obtain ⟨hgo, hstay⟩ := execCarveoutShrinkProceed_spec h
    refine ⟨hgo, hstay, fun hsts => execCarveoutChangeDone_idle (hx ▸ hsts), fun hsts _ => ?_, fun hsts => ?_⟩
    all_goals obtain ⟨r, n, heq, hrecs⟩ := execCarveoutChangeDone_eq (hx.symm ▸ hsts)
    · obtain ⟨hd, hother⟩ := State.carved_l2cfg h
      exact ⟨_, heq, hd, hother, fun a => hx ▸ s.carved_bytes d a⟩
    · exact ⟨_, heq, fun m hm => hx ▸ State.carved_chrsv hm, hrecs⟩
  case shootdown =>
    refine ⟨execShootdown_kind, execShootdown_busy, execShootdown_malformed, fun hbsy hgo hm => ?_⟩
    exact ⟨_, execShootdown_starts hbsy hgo hm, rfl, rfl, rfl, rfl, rfl, rfl, fun _ => mem_filter_not, fun _ => mem_filter_not,
      fun _ => mem_filter_not, fun _ => mem_filter_not, fun _ hc _ hh => State.shot_stale hc hh⟩
  case covers =>
    exact ⟨fun h => Shoot.covers_all h .., fun h => Shoot.covers_context h ..,
      fun h hlen hlt hpage => Shoot.covers_range h hlen hlt hpage hsize ..⟩
  case done =>
    refine ⟨execShootdownDone_waits, fun hbsy hdone hns => ?_, execShootdownDone_asks⟩
    obtain ⟨u, heq, hshoot, hcomb, hlevel, hctxs⟩ := execShootdownDone_ends hbsy hdone hns
    refine ⟨u, heq, hshoot, hcomb, hlevel, fun i c hc => ?_⟩
    rw [hctxs, List.getElem?_map, hc]
    rfl

end Sys2Proof.Machine
end

section

/-! PROOFS. The outside parties: the counter-add window, hosts, peers and links (O51). -/

namespace Sys2Proof.Machine

/-! ### Bytes at addresses -/

theorem mem_addrBytes {p : Nat × Byte} {a : Nat} {l : List Byte} :
    p ∈ addrBytes a l ↔ ∃ i, i < l.length ∧ p = (a + i, byteAt l i) := by
  induction l generalizing a with
  | nil => simp [addrBytes]
  | cons b r ih =>
    rw [addrBytes, List.mem_cons, ih]
    constructor
    · rintro (rfl | ⟨i, hi, rfl⟩)
      · exact ⟨0, Nat.succ_pos _, rfl⟩
      · exact ⟨i + 1, Nat.succ_lt_succ hi, by rw [Nat.add_right_comm]; rfl⟩
    · rintro ⟨i, hi, rfl⟩
      cases i with
      | zero => exact .inl rfl
      | succ i => exact .inr ⟨i, Nat.lt_of_succ_lt_succ hi, by rw [Nat.add_right_comm]; rfl⟩

/-- Each address is given its own byte. -/
theorem addrBytes_unique {p : Nat × Byte} {a i : Nat} {l : List Byte} (hp : p ∈ addrBytes a l) (hi : p.1 = a + i) :
    p.2 = byteAt l i := by
  obtain ⟨j, -, rfl⟩ := mem_addrBytes.mp hp
  rw [Nat.add_left_cancel hi]

theorem find?_addrBytes {a i : Nat} {l : List Byte} (hi : i < l.length) :
    (addrBytes a l).find? (fun p => p.1 = a + i) = some (a + i, byteAt l i) := by
  have hmem : (a + i, byteAt l i) ∈ addrBytes a l := mem_addrBytes.mpr ⟨i, hi, rfl⟩
  cases hf : (addrBytes a l).find? (fun p => p.1 = a + i) with
  | none => exact absurd (List.find?_eq_none.mp hf _ hmem) (by simp)
  | some p =>
    have hfst : p.1 = a + i := by simpa using List.find?_some hf
    exact congrArg some (Prod.ext hfst (addrBytes_unique (List.mem_of_find?_eq_some hf) hfst))

theorem cellGet_addrBytes (m : Cells 8) {a i : Nat} {l : List Byte} (hi : i < l.length) :
    cellGet (cellSetAll m (addrBytes a l)) (a + i) = byteAt l i :=
  cellGet_cellSetAll_mem m (mem_addrBytes.mpr ⟨i, hi, rfl⟩) fun _ hp h => addrBytes_unique hp h

theorem cellGet_addrBytes_off (m : Cells 8) {a b : Nat} {l : List Byte} (h : ∀ i, i < l.length → b ≠ a + i) :
    cellGet (cellSetAll m (addrBytes a l)) b = cellGet m b :=
  cellGet_cellSetAll_ne m _ b fun _ hp he => by
    obtain ⟨i, hi, rfl⟩ := mem_addrBytes.mp hp
    exact h i hi he.symm

/-! ### The counter-add window (R306) -/

theorem State.binding?_modBinding {s : State} {slot : Nat} {b : Binding} (h : s.binding? slot = some b) (hb : b.slot = slot)
    {f : Binding → Binding} (hf : ∀ b, (f b).slot = b.slot) :
    (s.modBinding slot f).binding? slot = some (f b) ∧ ∀ j, j ≠ slot → (s.modBinding slot f).binding? j = s.binding? j := by
  have hlist : (s.modBinding slot f).bindings = f b :: s.bindings.filter fun b => decide (b.slot ≠ slot) := by
    rw [State.modBinding, h]
    rfl
  have hslot : (f b).slot = slot := (hf b).trans hb
  refine ⟨?_, fun j hj => ?_⟩
  · rw [State.binding?, hlist, List.find?_cons_of_pos (by simpa using hslot)]
  · rw [State.binding?, hlist, List.find?_cons_of_neg (by simpa [hslot] using hj.symm), List.find?_filter, State.binding?]
    congr 1
    funext x
    by_cases hx : x.slot = j
    · simp [hx, hj]
    · simp [hx]

theorem execCounterAddWindowWrite_drops {s : State} {slot size : Nat} {v : Dword} {b : Binding} (hslot : slot < 4096)
    (h : s.binding? slot = some b) (hb : b.slot = slot) (hbad : b.v = false ∨ size ≠ 8 ∨ v.msb = true) :
    ∃ u, execCounterAddWindowWrite slot size v s = .next u ∧ u = { s with bindings := u.bindings } ∧
      u.binding? slot = some { b with err := true } ∧ ∀ j, j ≠ slot → u.binding? j = s.binding? j := by
  refine ⟨s.modBinding slot fun b => { b with err := true }, ?_, rfl,
    State.binding?_modBinding h hb (f := fun b => { b with err := true }) fun _ => rfl⟩
  unfold execCounterAddWindowWrite
  rw [if_neg (not_le.mpr hslot), h]
  exact if_pos (by simpa using hbad)

theorem execCounterAddWindowWrite_adds {s s1 : State} {slot size : Nat} {v : Dword} {b : Binding} {c : CtrPlace}
    (hslot : slot < 4096) (h : s.binding? slot = some b) (hv : b.v = true) (hsize : size = 8) (hmsb : v.msb = false)
    (hctr : ctrGot s b.ctx b.addr true = (s1, .got c)) : execCounterAddWindowWrite slot size v s = .next (s1.ctrAdd c v).1 := by
  unfold execCounterAddWindowWrite
  rw [if_neg (not_le.mpr hslot), h]
  dsimp only
  rw [if_neg (by simp [hv, hsize, hmsb]), hctr]

/-! ### Host reads and writes (R104, R105, R416) -/

theorem hostEntry_setHostLine (s : State) (host line : Nat) (st : HostState) (dirty : List (Nat × Byte)) :
    hostEntry (s.setHostLine host line st dirty) host line =
      some { line := line, host := host, st := st, dirty := dirty, used := s.tick } :=
  List.find?_cons_of_pos (by simp)

theorem execHostHdmRead_none {s : State} {host dec off : Nat} {own : Bool} (h : hdmAddr dec (off / 128 * 128) = none) :
    execHostHdmRead host dec off own s = .next s := by
  rw [execHostHdmRead, h]

theorem execHostHdmRead_some {s : State} {host dec off a : Nat} {own : Bool} (h : hdmAddr dec (off / 128 * 128) = some a) :
    execHostHdmRead host dec off own s = .next (hostReadAt s host dec off a own) := by
  rw [execHostHdmRead, h]

theorem hostReadAt_sealed {s : State} {host dec off a : Nat} {own : Bool} (h : inSealed s a 128 = true) :
    hostReadAt s host dec off a own = s.sealedReply (List.replicate 128 0xFF) 0 a :=
  if_pos h

/-- A read that nothing stands in the way of is metered. -/
theorem hostReadAt_free {s : State} {host dec off a : Nat} {own : Bool} (h : inSealed s a 128 = false)
    (hneed : hostNeed s host (lineOf a) own = []) (hdec : decodedNeeds s a = [])
    (hvictim : dec ≠ 2 → filterVictim s (lineOf a) = none) :
    hostReadAt s host dec off a own = match s.meter (egressClass s a) 128 with
      | none => s.meterWait { cls := egressClass s a, bytes := 128, what := .hostRead host dec off own }
      | some s1 =>
        let s2 := (s1.recall none [lineOf a]).meterDone (.hostRead host dec off own)
        let s3 := { s2 with reply := hostBytes s2 host a, replyBad := false }
        if dec = 2 then s3
        else s3.setHostLine host (lineOf a) (readState s3 host (lineOf a) own).1 (readState s3 host (lineOf a) own).2 := by
  unfold hostReadAt
  rw [if_neg (by rw [h]; decide)]
  dsimp only
  rw [hneed, hdec]
  cases hf : filterVictim s (lineOf a) with
  | none => exact if_neg (not_not.mpr rfl)
  | some v =>
    obtain rfl : dec = 2 := by_contra fun hd => nomatch hf.symm.trans (hvictim hd)
    exact if_neg (not_not.mpr rfl)

theorem hostReadAt_waits {s : State} {host dec off a : Nat} {own : Bool} (h : inSealed s a 128 = false)
    (hneed : hostNeed s host (lineOf a) own = []) (hdec : decodedNeeds s a = [])
    (hvictim : dec ≠ 2 → filterVictim s (lineOf a) = none) (hm : s.meter (egressClass s a) 128 = none) :
    hostReadAt s host dec off a own =
      s.meterWait { cls := egressClass s a, bytes := 128, what := .hostRead host dec off own } := by
  rw [hostReadAt_free h hneed hdec hvictim, hm]

theorem hostReadAt_reads {s s1 : State} {host dec off a : Nat} {own : Bool} (h : inSealed s a 128 = false)
    (hneed : hostNeed s host (lineOf a) own = []) (hdec : decodedNeeds s a = [])
    (hvictim : dec ≠ 2 → filterVictim s (lineOf a) = none) (hm : s.meter (egressClass s a) 128 = some s1) :
    let u := hostReadAt s host dec off a own
    u.reply = hostBytes ((s1.recall none [lineOf a]).meterDone (.hostRead host dec off own)) host a ∧ u.replyBad = false ∧
      (dec ≠ 2 → ∃ x, hostEntry u host (lineOf a) = some x ∧ x.st = (readState s1 host (lineOf a) own).1) ∧
      (dec = 2 → u.hostLines = s1.hostLines) := by
  intro u
  have hu : u = _ := hostReadAt_free h hneed hdec hvictim
  rw [hm] at hu
  dsimp only at hu
  by_cases hd : dec = 2
  · rw [hu, if_pos hd]
    exact ⟨rfl, rfl, fun hne => absurd hd hne, fun _ => rfl⟩
  · rw [hu, if_neg hd]
    exact ⟨rfl, rfl, fun _ => ⟨_, hostEntry_setHostLine _ _ _ _ _, rfl⟩, fun he => absurd he hd⟩

theorem execHostHdmWrite_refused {s : State} {host dec off a : Nat} {data : List Byte} (h : hdmAddr dec off = some a)
    (hbad : dec = 2 ∨ (data ≠ [] ∧ lineOf a = lineOf (a + data.length - 1) ∧ (inSealed s a data.length = true ∨ isCtPage s a = true))) :
    execHostHdmWrite host dec off data s = .next (s.refuse 0 a) := by
  rw [execHostHdmWrite, h]
  dsimp only
  by_cases hd : dec = 2
  · exact if_pos hd
  · obtain ⟨hne, hline, hkept⟩ := hbad.resolve_left hd
    rw [if_neg hd, if_neg (by simp [hne, hline])]
    exact congrArg _ (if_pos hkept)

/-- The host takes the line and holds the bytes it wrote dirty (R416). -/
theorem execHostHdmWrite_writes {s : State} {host dec off a : Nat} {data : List Byte} (h : hdmAddr dec off = some a) (hd : dec ≠ 2)
    (hne : data ≠ []) (hline : lineOf a = lineOf (a + data.length - 1)) (hsealed : inSealed s a data.length = false)
    (hct : isCtPage s a = false) (hneed : hostNeed s host (lineOf a) true = []) (hvictim : filterVictim s (lineOf a) = none) :
    ∃ u x, execHostHdmWrite host dec off data s = .next u ∧ hostEntry u host (lineOf a) = some x ∧ x.st = .m ∧
      ∀ i, i < data.length → (x.dirty.find? fun p => p.1 = a + i) = some (a + i, byteAt data i) := by
  rw [execHostHdmWrite, h]
  dsimp only
  rw [if_neg hd, if_neg (by simp [hne, hline]), hostWriteAt, if_neg (by simp [hsealed, hct])]
  dsimp only
  rw [hneed, hvictim]
  refine ⟨_, _, congrArg _ (if_neg (not_not.mpr rfl)), hostEntry_setHostLine _ _ _ _ _, rfl, fun i hi => ?_⟩
  rw [hostWriteAt.cellsOver, List.find?_append, find?_addrBytes hi]
  rfl

/-! ### Back-invalidates and losses (R416, R417, R438) -/

theorem State.retryPrefetches_of_none {s : State} (h : s.prefs = []) : s.retryPrefetches = s := by
  rw [State.retryPrefetches, h, List.foldl_nil, ← h]

theorem State.performOwed_of_none {s : State} (h : s.owedAdds = []) : s.performOwed = s := by
  rw [State.performOwed, h, List.foldl_nil, ← h]

theorem State.linesFreed_of_none {s : State} (hl : s.lateReds = []) (ho : s.owedAdds = []) (hp : s.prefs = []) (ha : s.almWait = []) :
    s.linesFreed = s := by
  rw [State.linesFreed, State.performLate_of_none hl, State.performOwed_of_none ho, State.retryPrefetches_of_none hp,
    State.almFlush, ha]
  rfl

/-- What a host that answers for a line leaves of it: nothing asked for, no entry where it was taken back, else a shared one,
and its dirty bytes in memory. -/
theorem State.hostYield_spec (s : State) (line : Nat) (inv : Bool) :
    let u := s.hostYield line inv
    (inv = true → ∀ x ∈ u.hostLines, x.line ≠ line) ∧ (∀ x ∈ u.hostLines, x.line = line → x.st = .s ∧ x.dirty = []) ∧
      ∀ y, s.hostLines.find? (fun x => x.line = line) = some y → (y.dirty.map Prod.fst).Nodup →
        (∀ p ∈ y.dirty, cellGet u.mem p.1 = p.2) ∧ ∀ a, a ∉ y.dirty.map Prod.fst → cellGet u.mem a = cellGet s.mem a := by
  intro u
  have hu : u = s.hostYield line inv := rfl
  unfold State.hostYield at hu
  split at hu
  next hnone =>
    rw [hu]
    have hno (x : HostLine) (hx : x ∈ s.hostLines) : x.line ≠ line := by simpa using List.find?_eq_none.mp hnone x hx
    exact ⟨fun _ => hno, fun x hx he => absurd he (hno x hx), fun y hy => by rw [hnone] at hy; cases hy⟩
  next x hx =>
    rw [hu]
    refine ⟨fun hinv y hy => ?_, fun y hy he => ?_, fun y hy hdistinct => ?_⟩
    · rw [if_pos hinv] at hy
      exact of_decide_eq_true (List.mem_filter.mp hy).2
    · dsimp only at hy
      split at hy
      · exact absurd he (of_decide_eq_true (List.mem_filter.mp hy).2)
      · obtain ⟨z, -, rfl⟩ := List.mem_map.mp hy
        split at he
        next hz => rw [if_pos hz]; exact ⟨rfl, rfl⟩
        next hz => exact absurd he hz
    · obtain rfl : x = y := Option.some.inj (hx.symm.trans hy)
      refine ⟨fun p hp => cellGet_cellSetAll_mem _ hp fun q hq hfst => ?_, fun a ha => ?_⟩
      · rw [List.inj_on_of_nodup_map hdistinct hq hp hfst]
      · exact cellGet_cellSetAll_ne _ _ _ fun q hq hfst => ha (hfst ▸ List.mem_map_of_mem hq)

theorem execHostSnoopAnswer_idle {s : State} {line : Nat} (hask : ¬∃ q ∈ s.snoops, q.line = line)
    (hback : ¬∃ x ∈ s.hostLines, x.line = line ∧ (x.st = .m ∨ x.st = .e)) : execHostSnoopAnswer line s = .next s := by
  have hnone : s.snoops.find? (fun q => q.line = line) = none :=
    List.find?_eq_none.mpr fun q hq hline => hask ⟨q, hq, by simpa using hline⟩
  have hany : s.snoops.any (fun q => decide (q.line = line)) = false :=
    List.any_eq_false.mpr fun q hq hline => hask ⟨q, hq, by simpa using hline⟩
  have hlines : (s.hostLines.any fun x => decide (x.line = line) && (decide (x.st = .m) || decide (x.st = .e))) = false :=
    List.any_eq_false.mpr fun x hx hline => hback ⟨x, hx, by simpa using hline⟩
  unfold execHostSnoopAnswer
  rw [hnone, hany]
  dsimp only
  rw [hlines]
  exact if_pos rfl

/-- Whether a host that answers for a line gives it up (R416). -/
def State.takenBack (s : State) (line : Nat) : Bool :=
  match s.snoops.find? fun q => q.line = line with
  | none => s.hostLines.any fun x => decide (x.line = line) && (decide (x.st = .m) || decide (x.st = .e))
  | some _ => s.snoops.any fun x => decide (x.line = line) && x.inv

theorem State.takenBack_asked {s : State} {line : Nat} (h : ∃ q ∈ s.snoops, q.line = line ∧ q.inv = true) :
    s.takenBack line = true := by
  obtain ⟨q, hq, hline, hinv⟩ := h
  unfold State.takenBack
  split
  next hnone => exact absurd hline (by simpa using List.find?_eq_none.mp hnone q hq)
  · exact List.any_eq_true.mpr ⟨q, hq, by simp [hline, hinv]⟩

theorem State.takenBack_back {s : State} {line : Nat} (hask : ¬∃ q ∈ s.snoops, q.line = line)
    (hback : ∃ x ∈ s.hostLines, x.line = line ∧ (x.st = .m ∨ x.st = .e)) : s.takenBack line = true := by
  obtain ⟨x, hx, hline, hst⟩ := hback
  unfold State.takenBack
  split
  · exact List.any_eq_true.mpr ⟨x, hx, by simpa [hline] using hst⟩
  next q hq => exact absurd ⟨q, List.mem_of_find?_eq_some hq, by simpa using List.find?_some hq⟩ hask

theorem execHostSnoopAnswer_answers {s : State} {line : Nat} (h : (∃ q ∈ s.snoops, q.line = line) ∨
      ∃ x ∈ s.hostLines, x.line = line ∧ (x.st = .m ∨ x.st = .e)) :
    execHostSnoopAnswer line s = .next ({ s.hostYield line (s.takenBack line) with
      snoops := (s.hostYield line (s.takenBack line)).snoops.filter fun x => decide (x.line ≠ line) } : State).linesFreed := by
  have hgo : ¬(!s.snoops.any (fun q => decide (q.line = line)) && !s.takenBack line) = true := by
    intro hno
    rw [Bool.and_eq_true, Bool.not_eq_true', Bool.not_eq_true', List.any_eq_false] at hno
    obtain ⟨hnone, hstay⟩ := hno
    have hask : ¬∃ q ∈ s.snoops, q.line = line := fun ⟨q, hq, hline⟩ => hnone q hq (decide_eq_true hline)
    rw [State.takenBack_back hask (h.resolve_left hask)] at hstay
    exact nomatch hstay
  exact if_neg hgo

/-- A write that touches no byte of the line. -/
theorem onLine_eq_false {line : Nat} {w : PWrite} : onLine line w = false ↔
    ∀ p ∈ w.bytes, ∀ a, p.1 = Loc.phys a → lineOf a ≠ line := by
  rw [onLine, List.any_eq_false]
  refine forall_congr' fun p => imp_congr_right fun _ => ⟨fun h a ha => ?_, fun h => ?_⟩
  · rw [ha] at h
    simpa using h
  · split
    next a ha => simpa using h a ha
    · exact Bool.false_ne_true

/-- A host line that leaves its L2: no grant of it, no write to it in flight, and the others stay (R197, R418). -/
theorem State.leaveL2_spec (s : State) (line : Nat) :
    let u := s.leaveL2 line
    u.hostMem = s.hostMem.filter (fun n => decide (n ≠ line)) ∧ (∀ p ∈ u.near, p.2 ≠ line) ∧ u.poison = s.poison ∧
      u.cxlReqs = s.cxlReqs ∧ ∀ w ∈ u.writes, ∀ p ∈ w.bytes, ∀ a, p.1 = Loc.phys a → lineOf a ≠ line := by
  intro u
  obtain ⟨-, hnear, hpoison, hmem, -, hreqs⟩ := ((s.recall none [line]).perform_frame 6 (onLine line)).same
  refine ⟨?_, fun p hp => ?_, hpoison, hreqs, fun w hw => onLine_eq_false.mp ?_⟩
  · show (((s.recall none [line]).perform 6 (onLine line)).hostMem.filter fun n => decide (n ≠ line)) = _
    rw [hmem]
    rfl
  · have hp : p ∈ (s.recall none [line]).near := hnear ▸ hp
    have hkept := (List.mem_filter.mp hp).2
    simpa using hkept
  · have hw : w ∈ ((s.recall none [line]).perform 6 (onLine line)).writes := hw
    rw [Bool.eq_false_iff]
    intro hon
    have hlevel := State.perform_level (fun _ _ => rfl) hw hon
    rw [State.perform, State.settle_writes] at hw
    have := of_decide_eq_true (List.mem_filter.mp hw).2
    omega

theorem execHostSnoop_absent {s : State} {line : Nat} (h : line ∉ s.hostMem) : execHostSnoop line s = .next s :=
  if_pos (by simpa using h)

theorem execHostSnoop_waits {s : State} {line : Nat} (h : line ∈ s.hostMem) (hns : coverNeeds s (onLine line) ≠ []) :
    execHostSnoop line s = .next (s.request (coverNeeds s (onLine line))) := by
  unfold execHostSnoop
  rw [if_neg (by simpa using h), if_pos hns]

theorem execHostSnoop_takes {s : State} {line : Nat} (h : line ∈ s.hostMem) (hns : coverNeeds s (onLine line) = []) :
    ∃ u, execHostSnoop line s = .next u ∧ line ∉ u.hostMem ∧
      (∀ n, n ≠ line → (n ∈ u.hostMem ↔ n ∈ s.hostMem)) ∧ (∀ p ∈ u.near, p.2 ≠ line) ∧
      (∀ w ∈ u.writes, ∀ p ∈ w.bytes, ∀ a, p.1 = Loc.phys a → lineOf a ≠ line) ∧
      u.reply = cellList u.mem (128 * line) 128 ∧ (line ∉ s.poison → u.replyBad = false) := by
  obtain ⟨hmem, hnear, hpoison, -, hwrites⟩ := s.leaveL2_spec line
  unfold execHostSnoop
  rw [if_neg (by simpa using h), if_neg (not_not.mpr hns)]
  refine ⟨_, rfl, ?_, fun n hn => ?_, hnear, hwrites, rfl, fun hclean => ?_⟩
  · dsimp only
    rw [hmem]
    simp
  · dsimp only
    rw [hmem, List.mem_filter]
    simp [hn]
  · dsimp only
    rw [hpoison]
    simpa using hclean

/-- A lost host's lines are held by no cache any more (R438). -/
theorem execHostLost_loses {s : State} {host : Nat} (h : s.hostsLost.contains host = false) (halm : almRoom s = true ∨ almHeld s ≠ [])
    (hstood : ∃ q ∈ s.snoops, q.since + 100000000 ≤ s.eqx.now.toNat ∧ ∃ x ∈ s.hostLines, x.line = q.line ∧ x.host = host) :
    ∃ u, execHostLost host s = .next u ∧ u.hostsLost = s.hostsLost ++ [host] ∧ ∀ x ∈ u.hostLines, x.host ≠ host := by
  obtain ⟨q, hq, hsince, x, hx, hline, hhost⟩ := hstood
  have hany : (s.snoops.any fun q => (s.hostLines.any fun x => decide (x.line = q.line) && decide (x.host = host)) &&
      decide (q.since + 100000000 ≤ s.eqx.now.toNat)) = true :=
    List.any_eq_true.mpr ⟨q, hq, by simpa [hsince] using ⟨x, hx, hline, hhost⟩⟩
  unfold execHostLost
  dsimp only
  rw [if_neg (by rw [h, hany]; decide), if_neg fun hno => by
    obtain ⟨hroom, hheld⟩ := hno
    exact halm.elim (fun hr => by rw [hr] at hroom; exact nomatch hroom) fun hne => hne hheld]
  have hin (s : State) : Inside s (s.markLost 1 host).linesFreed.almAsk :=
    (Keeps.refl (b := true) (s := s)).markLost.linesFreed.almAsk.inside rfl
  refine ⟨_, rfl, (hin _).hostsLost, fun y hy => ?_⟩
  obtain ⟨z, hz, he⟩ := (hin _).hosts y hy
  exact he ▸ of_decide_eq_true (List.mem_filter.mp hz).2

/-! ### Host lines that arrive (R189, R418) -/

theorem execCxlCacheResponse_unasked {s : State} {line : Nat} {data : List Byte} (h : line ∉ s.cxlReqs ∨ data.length ≠ 128) :
    execCxlCacheResponse line data s = .next s :=
  if_pos (by simpa using h)

theorem execCxlCacheResponse_waits {s : State} {line old : Nat} {data : List Byte} (h : line ∈ s.cxlReqs) (hlen : data.length = 128)
    (hold : hostMemVictim s line = some old) (hns : coverNeeds s (onLine old) ≠ []) :
    execCxlCacheResponse line data s = .next (s.request (coverNeeds s (onLine old))) := by
  unfold execCxlCacheResponse
  rw [if_neg (by simp [h, hlen]), hold]
  exact if_pos hns

/-- The state in which a line has come, and the one held longest of a full die has left for it. -/
def State.cxlArrived (s : State) (line : Nat) (data : List Byte) : State :=
  let s1 := match hostMemVictim s line with
    | some old => s.leaveL2 old
    | none => s
  { s1 with
    mem := cellSetAll s1.mem (addrBytes (128 * line) data), hostMem := s1.hostMem ++ [line]
    cxlReqs := s1.cxlReqs.filter fun n => decide (n ≠ line) }

theorem execCxlCacheResponse_arrives {s : State} {line : Nat} {data : List Byte} (h : line ∈ s.cxlReqs) (hlen : data.length = 128)
    (hns : ∀ old, hostMemVictim s line = some old → coverNeeds s (onLine old) = []) :
    execCxlCacheResponse line data s = .next (s.cxlArrived line data).linesFreed := by
  unfold execCxlCacheResponse
  rw [if_neg (by simp [h, hlen])]
  refine if_neg (not_not.mpr ?_)
  split
  next old hold => exact hns old hold
  · rfl

theorem State.cxlArrived_spec (s : State) (line : Nat) {data : List Byte} (hlen : data.length = 128) :
    let u := s.cxlArrived line data
    let mine := s.hostMem.filter fun n => decide (homeDie (128 * n) = homeDie (128 * line))
    line ∈ u.hostMem ∧ line ∉ u.cxlReqs ∧ (∀ i, i < 128 → cellGet u.mem (128 * line + i) = byteAt data i) ∧
      (mine.length < 4096 → (∀ n ∈ s.hostMem, n ∈ u.hostMem) ∧ ∀ a, a / 128 ≠ line → cellGet u.mem a = cellGet s.mem a) ∧
      (4096 ≤ mine.length → ∀ old, mine.head? = some old → old ≠ line → old ∉ u.hostMem ∧ (∀ p ∈ u.near, p.2 ≠ old) ∧
        ∀ w ∈ u.writes, ∀ p ∈ w.bytes, ∀ a, p.1 = Loc.phys a → lineOf a ≠ old) := by
  intro u mine
  refine ⟨List.mem_append_right _ (List.mem_singleton_self _), fun hmem => of_decide_eq_true (List.mem_filter.mp hmem).2 rfl,
    fun i hi => cellGet_addrBytes _ (hlen ▸ hi), fun hroom => ?_, fun hfull old hold hne => ?_⟩
  · have hvictim : hostMemVictim s line = none := if_neg (not_le.mpr hroom)
    have hu : u = { s with
        mem := cellSetAll s.mem (addrBytes (128 * line) data), hostMem := s.hostMem ++ [line]
        cxlReqs := s.cxlReqs.filter fun n => decide (n ≠ line) } := by
      simp only [u, State.cxlArrived, hvictim]
    rw [hu]
    refine ⟨fun n hn => List.mem_append_left _ hn, fun a ha => cellGet_addrBytes_off _ fun i hi he => ?_⟩
    omega
  · have hvictim : hostMemVictim s line = some old := (if_pos hfull).trans hold
    obtain ⟨hmem, hnear, -, -, hwrites⟩ := s.leaveL2_spec old
    have hu : u = { s.leaveL2 old with
        mem := cellSetAll (s.leaveL2 old).mem (addrBytes (128 * line) data), hostMem := (s.leaveL2 old).hostMem ++ [line]
        cxlReqs := (s.leaveL2 old).cxlReqs.filter fun n => decide (n ≠ line) } := by
      simp only [u, State.cxlArrived, hvictim]
    rw [hu]
    refine ⟨fun hin => ?_, hnear, hwrites⟩
    rw [hmem] at hin
    rcases List.mem_append.mp hin with hin | hin
    · exact of_decide_eq_true (List.mem_filter.mp hin).2 rfl
    · exact hne (List.mem_singleton.mp hin)

/-! ### Peers (R307, R421, R422) -/

section
variable {s s1 : State} {pkg va size tag : Nat} {fctx : Dword} {c : Context} {e : TlbEntry} {data : List Byte}

theorem execPeerReadRequest_unknown (h : fabricCtx s fctx = none) :
    execPeerReadRequest pkg fctx va size tag s = .next (s.answer tag false (faultBytes .mem .notPresent)) := by
  rw [execPeerReadRequest, h]
  rfl

theorem execPeerReadRequest_faults {f : MemFault} (h : fabricCtx s fctx = some c) (hn : walkNeeds s c.num (BitVec.ofNat 64 va) = [])
    (hw : walk s c.num va = (s1, .error f)) :
    execPeerReadRequest pkg fctx va size tag s = .next (s1.answer tag false (faultBytes .mem f)) := by
  rw [execPeerReadRequest, h]
  dsimp only
  rw [if_neg (not_not.mpr hn), hw]
  rfl

theorem execPeerReadRequest_sealed (h : fabricCtx s fctx = some c) (hn : walkNeeds s c.num (BitVec.ofNat 64 va) = [])
    (hw : walk s c.num va = (s1, .ok e)) (hs : inSealed s1 (e.pa + (va - e.page)) size = true) :
    execPeerReadRequest pkg fctx va size tag s =
      .next (s1.sealedReply (bytesOf tag 8 ++ 1 :: List.replicate size 0xFF) c.num (e.pa + (va - e.page))) := by
  rw [execPeerReadRequest, h]
  dsimp only
  rw [if_neg (not_not.mpr hn), hw]
  exact if_pos hs

theorem execPeerReadRequest_reads {s2 : State} (h : fabricCtx s fctx = some c) (hn : walkNeeds s c.num (BitVec.ofNat 64 va) = [])
    (hw : walk s c.num va = (s1, .ok e)) (hs : inSealed s1 (e.pa + (va - e.page)) size = false)
    (hcheck : entryCheck s1 e (e.pa + (va - e.page)) size .load = none)
    (hspan : spanNeeds s1 false size (physTarget s1 (e.pa + (va - e.page)) e.mt) = [])
    (hpoison : spanPoisoned s1 size (physTarget s1 (e.pa + (va - e.page)) e.mt) = false)
    (hm : s1.meter (egressClass s1 (e.pa + (va - e.page))) size = some s2) :
    let t := physTarget s1 (e.pa + (va - e.page)) e.mt
    let s3 := ((s2.recall none (spanLines t size)).fillFor (.of (.peer pkg) 0) t size).meterDone (.peerRead pkg fctx va size tag)
    execPeerReadRequest pkg fctx va size tag s =
      .next (s3.answer tag true (readTarget s3 (.of (.peer pkg) 0) t size)) := by
  rw [execPeerReadRequest, h]
  dsimp only
  rw [if_neg (not_not.mpr hn), hw]
  dsimp only
  rw [if_neg (by rw [hs]; decide), hcheck]
  dsimp only
  rw [if_neg (not_not.mpr hspan), if_neg (by rw [hpoison]; decide), hm]

theorem execPeerWrite_unknown (h : fabricCtx s fctx = none) :
    execPeerWrite tag fctx va data s = .next (s.answer tag false (faultBytes .mem .notPresent)) := by
  rw [execPeerWrite, h]
  rfl

/-- A byte of a decoded alias. -/
theorem dec_region {pa : Nat} : (match regionOf s1 pa 1 with
    | some (.dec _) => true
    | _ => false) = true ↔ ∃ w, regionOf s1 pa 1 = some (.dec w) := by
  constructor
  · intro h
    split at h
    next w hw => exact ⟨w, hw⟩
    · exact nomatch h
  · rintro ⟨w, hw⟩
    rw [hw]

theorem execPeerWrite_refused (h : fabricCtx s fctx = some c) (hn : walkNeeds s c.num (BitVec.ofNat 64 va) = [])
    (hw : walk s c.num va = (s1, .ok e)) (hbad : e.ct = true ∨ inSealed s1 (e.pa + (va - e.page)) data.length = true ∨
      ∃ w, regionOf s1 (e.pa + (va - e.page)) 1 = some (.dec w)) :
    execPeerWrite tag fctx va data s = .next (s1.refuse c.num (e.pa + (va - e.page))) := by
  rw [execPeerWrite, h]
  dsimp only
  rw [if_neg (not_not.mpr hn), hw]
  refine if_pos ?_
  rcases hbad with hct | hs | hdec
  · exact .inr (.inl hct)
  · exact .inr (.inr hs)
  · exact .inl (dec_region.mpr hdec)

/-- A write that is not dropped is checked. -/
theorem execPeerWrite_checked (h : fabricCtx s fctx = some c) (hn : walkNeeds s c.num (BitVec.ofNat 64 va) = [])
    (hw : walk s c.num va = (s1, .ok e)) (hct : e.ct = false) (hs : inSealed s1 (e.pa + (va - e.page)) data.length = false)
    (hdec : ∀ w, regionOf s1 (e.pa + (va - e.page)) 1 ≠ some (.dec w)) :
    execPeerWrite tag fctx va data s = match entryCheck s1 e (e.pa + (va - e.page)) data.length .store with
      | some f => .next (s1.answerBad tag .mem f)
      | none =>
        let t := physTarget s1 (e.pa + (va - e.page)) e.mt
        let ns := spanNeeds s1 true data.length t ++ locNeeds s1 (readLocs s1 data.length t)
        if ns ≠ [] then .next (s1.request ns)
        else .next ((if e.dirty then s1 else orPte s1 (e.leafOf va) 0x80).spanWrite t data) := by
  rw [execPeerWrite, h]
  dsimp only
  rw [if_neg (not_not.mpr hn), hw]
  refine if_neg ?_
  rw [not_or, not_or]
  refine ⟨fun hd => ?_, by rw [hct]; decide, by rw [hs]; decide⟩
  obtain ⟨w, hr⟩ := dec_region.mp hd
  exact hdec w hr

theorem execPeerWrite_faults {f : MemFault} (h : fabricCtx s fctx = some c) (hn : walkNeeds s c.num (BitVec.ofNat 64 va) = [])
    (hw : walk s c.num va = (s1, .ok e)) (hct : e.ct = false) (hs : inSealed s1 (e.pa + (va - e.page)) data.length = false)
    (hdec : ∀ w, regionOf s1 (e.pa + (va - e.page)) 1 ≠ some (.dec w))
    (hcheck : entryCheck s1 e (e.pa + (va - e.page)) data.length .store = some f) :
    execPeerWrite tag fctx va data s = .next (s1.answer tag false (faultBytes .mem f)) := by
  rw [execPeerWrite_checked h hn hw hct hs hdec, hcheck]
  rfl

theorem execPeerWrite_writes (h : fabricCtx s fctx = some c) (hn : walkNeeds s c.num (BitVec.ofNat 64 va) = [])
    (hw : walk s c.num va = (s1, .ok e)) (hct : e.ct = false) (hs : inSealed s1 (e.pa + (va - e.page)) data.length = false)
    (hdec : ∀ w, regionOf s1 (e.pa + (va - e.page)) 1 ≠ some (.dec w))
    (hcheck : entryCheck s1 e (e.pa + (va - e.page)) data.length .store = none)
    (hspan : spanNeeds s1 true data.length (physTarget s1 (e.pa + (va - e.page)) e.mt) = [])
    (hloc : locNeeds s1 (readLocs s1 data.length (physTarget s1 (e.pa + (va - e.page)) e.mt)) = []) :
    execPeerWrite tag fctx va data s = .next ((if e.dirty then s1 else orPte s1 (e.leafOf va) 0x80).spanWrite
      (physTarget s1 (e.pa + (va - e.page)) e.mt) data) := by
  rw [execPeerWrite_checked h hn hw hct hs hdec, hcheck]
  dsimp only
  rw [hspan, hloc]
  exact if_neg (not_not.mpr rfl)

theorem execPeerCounterAdd_lost {v : Dword} {tag : Option Nat} (h : s.peersLost.contains pkg = true) :
    execPeerCounterAdd pkg fctx va v tag s = .next s :=
  if_pos h

theorem execPeerCounterAdd_refused {v : Dword} {tag : Option Nat} {f : MemFault} (hl : s.peersLost.contains pkg = false)
    (h : fabricCtx s fctx = some c) (hctr : ctrGot s c.num (BitVec.ofNat 64 va) (!v.msb) = (s1, .bad f)) :
    execPeerCounterAdd pkg fctx va v tag s =
      .next (s1.answer (tag.getD 0) false (faultBytes (ctrClass s c.num (BitVec.ofNat 64 va)) f)) := by
  unfold execPeerCounterAdd
  dsimp only
  rw [if_neg (by rw [hl]; decide), h]
  dsimp only
  rw [hctr]

theorem execPeerCounterAdd_value {v : Dword} {tag : Option Nat} {p : CtrPlace} (hl : s.peersLost.contains pkg = false)
    (h : fabricCtx s fctx = some c) (hmsb : v.msb = true) (hctr : ctrGot s c.num (BitVec.ofNat 64 va) false = (s1, .got p)) :
    execPeerCounterAdd pkg fctx va v tag s = .next (s1.answer (tag.getD 0) false [3, 0, 3]) := by
  unfold execPeerCounterAdd
  dsimp only
  rw [if_neg (by rw [hl]; decide), h]
  dsimp only
  rw [hmsb, Bool.not_true, hctr]
  rfl

theorem execPeerCounterAdd_adds {v : Dword} {p : CtrPlace} (hl : s.peersLost.contains pkg = false)
    (h : fabricCtx s fctx = some c) (hmsb : v.msb = false) (hctr : ctrGot s c.num (BitVec.ofNat 64 va) true = (s1, .got p)) :
    execPeerCounterAdd pkg fctx va v none s = .next (s1.ctrAdd p v).1 ∧
      ∀ n, execPeerCounterAdd pkg fctx va v (some n) s =
        .next ((s1.ctrAdd p v).1.answer n true (bytesOf (s1.ctrAdd p v).2.toNat 8)) := by
  have hadd (tag : Option Nat) : execPeerCounterAdd pkg fctx va v tag s = .next (if tag.isSome then
      (s1.ctrAdd p v).1.answer (tag.getD 0) true (bytesOf (s1.ctrAdd p v).2.toNat 8) else (s1.ctrAdd p v).1) := by
    unfold execPeerCounterAdd
    dsimp only
    rw [if_neg (by rw [hl]; decide), h]
    dsimp only
    rw [hmsb, Bool.not_false, hctr]
    rfl
  exact ⟨hadd none, fun n => hadd (some n)⟩

end

/-! ### Links and routes (R419, R420, R438, R442) -/

theorem State.modLink_eq {s : State} {n : Nat} {x : Link} (h : s.links[n]? = some x) (f : Link → Link) :
    s.modLink n f = { s with links := s.links.set n (f x) } := by
  rw [State.modLink, List.modify_eq_set_getElem?, h]
  rfl

theorem execLinkRetry_tries {s : State} {n : Nat} {x : Link} (h : s.links[n]? = some x) (lanes : Nat) (hst : x.st = 4)
    (hsince : x.since + 1000000000 ≤ s.eqx.now.toNat) : execLinkRetry n lanes s =
      .next { s with links := s.links.set n (trained s.eqx.now.toNat n lanes false x) } := by
  unfold execLinkRetry
  dsimp only
  rw [State.modLink_eq h, if_pos ⟨hst, hsince⟩]

theorem execLinkRetry_waits {s : State} {n : Nat} {x : Link} (h : s.links[n]? = some x) (lanes : Nat)
    (hstay : x.st ≠ 4 ∨ s.eqx.now.toNat < x.since + 1000000000) : execLinkRetry n lanes s = .next s := by
  unfold execLinkRetry
  dsimp only
  rw [State.modLink_eq h, if_neg (by omega)]
  obtain ⟨hlt, rfl⟩ := List.getElem?_eq_some_iff.mp h
  rw [List.set_getElem_self]

/-- The state of a link after training: down below 4 lanes, full with all its lanes at full rate, else degraded. -/
theorem trained_spec (x : Link) (now n lanes : Nat) (slow : Bool) : ((trained now n lanes slow x).st = 4 ↔ lanes < 4) ∧
    ((trained now n lanes slow x).st = 2 ↔ (if n < 16 then 8 else 16) ≤ lanes ∧ slow = false) ∧
    ((trained now n lanes slow x).st = 2 ∨ (trained now n lanes slow x).st = 3 ∨ (trained now n lanes slow x).st = 4) ∧
    (trained now n lanes slow x).since = now ∧ (trained now n lanes slow x).down = if x.up then now else x.down := by
  have hfull : (if n < 16 then 8 else 16) = 8 ∨ (if n < 16 then 8 else 16) = 16 := by
    split
    · exact .inl rfl
    · exact .inr rfl
  suffices hst : ((trained now n lanes slow x).st = 4 ↔ lanes < 4) ∧
      ((trained now n lanes slow x).st = 2 ↔ (if n < 16 then 8 else 16) ≤ lanes ∧ slow = false) ∧
      ((trained now n lanes slow x).st = 2 ∨ (trained now n lanes slow x).st = 3 ∨ (trained now n lanes slow x).st = 4) from
    ⟨hst.1, hst.2.1, hst.2.2, rfl, rfl⟩
  simp only [trained]
  generalize (if n < 16 then 8 else 16) = full at hfull ⊢
  generalize hwid : (if full ≤ lanes then full else if 8 ≤ lanes then 8 else if 4 ≤ lanes then 4 else 0) = wid
  have hzero : wid = 0 ↔ lanes < 4 := by
    split_ifs at hwid <;> constructor <;> omega
  have hall : wid = full ↔ full ≤ lanes := by
    refine ⟨fun h => not_lt.mp fun hlt => ?_, fun h => hwid ▸ if_pos h⟩
    rw [if_neg (not_le.mpr hlt)] at hwid
    split_ifs at hwid <;> omega
  rw [← hzero, ← hall]
  by_cases h0 : wid = 0
  · have hne : wid ≠ full := by omega
    simp [h0, h0 ▸ hne]
  · by_cases hw : wid = full ∧ slow = false
    · have hfull : full ≠ 0 := hw.1 ▸ h0
      simp [hw, hfull]
    · simp [h0, hw]

theorem State.losePeer_spec (s : State) (pkg : Nat) : (∀ r ∈ (s.losePeer pkg).routes, r.1 ≠ pkg) ∧
    pkg ∈ (s.losePeer pkg).peersLost ∧ ∀ r ∈ (s.losePeer pkg).remote, r.pkg = pkg → r.ans.isSome = true := by
  have hin (s : State) : Inside s (s.markLost 0 pkg) := (Keeps.refl (b := true) (s := s)).markLost.inside rfl
  unfold State.losePeer
  dsimp only
  rw [(hin _).routes, (hin _).peersLost, (hin _).remote]
  refine ⟨fun r hr => of_decide_eq_true (List.mem_filter.mp hr).2, List.mem_append_right _ (List.mem_singleton_self _), ?_⟩
  intro r hr hpkg
  obtain ⟨q, -, rfl⟩ := List.mem_map.mp hr
  split
  · rfl
  next hkeep =>
    rw [if_neg hkeep] at hpkg
    cases hans : q.ans with
    | none => exact absurd ⟨hpkg, by rw [hans]; rfl⟩ hkeep
    | some a => rfl

/-- Settles O51, clause by clause. -/
theorem hostAndFabricEventsComplete : Obligations.HostAndFabricEventsComplete := by
  unfold Obligations.HostAndFabricEventsComplete
  refine ⟨fun s slot size v => ⟨fun h => if_pos h, fun hslot b hb hbs => ⟨execCounterAddWindowWrite_drops hslot hb hbs,
      fun hv hsize hmsb s1 c => execCounterAddWindowWrite_adds hslot hb hv hsize hmsb⟩⟩,
    fun s host dec off own => execHostHdmRead_none, fun s host dec off a own h => ?reads, fun s host dec off a data h => ?writes,
    fun s line => ?answers, fun s => State.linesFreed_of_none, fun s line => ?snoop,
    fun s host => execHostLost_loses, fun s line data => ?arrives, fun s pkg va size tag fctx => execPeerReadRequest_unknown,
    fun s pkg va size tag fctx c h hn => ⟨fun s1 f => execPeerReadRequest_faults h hn, fun s1 e => execPeerReadRequest_sealed h hn⟩,
    fun s s1 s2 pkg va size tag fctx c e => execPeerReadRequest_reads, fun s va tag fctx data => execPeerWrite_unknown,
    fun s s1 va tag fctx data c e h hn hw => ?peerWrite, fun s pkg va fctx v tag => execPeerCounterAdd_lost,
    fun s pkg va fctx v tag c hl h => ?peerAdd, fun s tag ok data => ?response, fun s n x h => ?links, trained_spec, fun s pkg => ?routes⟩
  case reads =>
    rw [show exec (.hostHdmRead host dec off own) s = _ from execHostHdmRead_some h]
    refine ⟨fun hs => congrArg _ (hostReadAt_sealed hs), fun hs hneed hdec hv s1 hm => ⟨_, rfl, hostReadAt_reads hs hneed hdec hv hm⟩,
      fun hs hneed hdec hv hm => congrArg _ (hostReadAt_waits hs hneed hdec hv hm)⟩
  case writes => exact ⟨execHostHdmWrite_refused h, execHostHdmWrite_writes h⟩
  case answers =>
    refine ⟨execHostSnoopAnswer_idle, fun hgo => ⟨_, execHostSnoopAnswer_answers hgo, fun x hx => ?_, fun hinv => ?_, ?_⟩⟩
    · exact of_decide_eq_true (List.mem_filter.mp hx).2
    · refine (s.hostYield_spec line (s.takenBack line)).1 ?_
      rcases hinv with hask | hask
      · exact State.takenBack_back hask (hgo.resolve_left hask)
      · exact State.takenBack_asked hask
    · exact (s.hostYield_spec line (s.takenBack line)).2
  case snoop => exact ⟨execHostSnoop_absent, execHostSnoop_waits, execHostSnoop_takes⟩
  case arrives =>
    refine ⟨execCxlCacheResponse_unasked, fun old => execCxlCacheResponse_waits, fun h hlen hns => ?_⟩
    exact ⟨_, execCxlCacheResponse_arrives h hlen hns, s.cxlArrived_spec line hlen⟩
  case peerWrite => exact ⟨execPeerWrite_refused h hn hw, fun hct hs hdec f => execPeerWrite_faults h hn hw hct hs hdec,
    execPeerWrite_writes h hn hw⟩
  case peerAdd =>
    exact ⟨fun s1 e => execPeerCounterAdd_refused hl h, fun hmsb s1 p => execPeerCounterAdd_value hl h hmsb,
      fun hmsb s1 p => execPeerCounterAdd_adds hl h hmsb⟩
  case response =>
    refine ⟨_, rfl, ?_⟩
    simp only [Option.isNone_iff_eq_none]
  case links =>
    exact ⟨congrArg _ (State.modLink_eq h _), congrArg _ (State.modLink_eq h _), execLinkRetry_tries h, execLinkRetry_waits h,
      fun lanes slow => congrArg _ (State.modLink_eq h _)⟩
  case routes =>
    obtain ⟨hroutes, hlost, hremote⟩ := s.losePeer_spec pkg
    exact ⟨rfl, rfl, fun _ => rfl, hroutes, hlost, hremote⟩

end Sys2Proof.Machine
end

section

/-! PROOFS. Time, snapshots, islands, power, keys and metered traffic (O52). -/

namespace Sys2Proof.Machine

/-! ### The Equinox time base (R423) -/

/-- A measured offset that OFS can hold stands there as it is. -/
theorem clampOfs_of_range {x : Int} (hlo : -2 ^ 31 ≤ x) (hhi : x < 2 ^ 31) : clampOfs x = x := by
  unfold clampOfs
  omega

theorem execTimingMessage_grandmaster {s : State} {o : Int} (h : s.eqx.gm = true) : exec (.timingMessage o) s = .next s :=
  if_pos h

theorem execTimingMessage_measures {s : State} {o : Int} (h : s.eqx.gm = false) :
    ∃ u, exec (.timingMessage o) s = .next u ∧ u = { s with eqx := u.eqx } ∧
      (-2 ^ 31 ≤ o → o < 2 ^ 31 → u.eqx.ofs = o) ∧ u.eqx.now = (if o ≤ -1000000 then s.eqx.now + BitVec.ofInt 64 (-o) else s.eqx.now) ∧
      (1000000 ≤ o → u.eqx.hold = true) ∧ (o ≤ 0 → u.eqx.hold = false) ∧ (0 < o → o < 1000000 → u.eqx.hold = s.eqx.hold) ∧
      u.eqx.fix = (if o.natAbs < 1000000 then -o * 1000000 else 0) ∧
      u.eqx.lockRun = (if o.natAbs < 100 then s.eqx.lockRun + 1 else 0) ∧ u.eqx.lock = decide (16 ≤ u.eqx.lockRun) := by
  refine ⟨_, if_neg (by rw [h]; exact Bool.false_ne_true), rfl, clampOfs_of_range, rfl, fun hahead => ?_, fun hbehind => ?_,
    fun hpos hnear => ?_, rfl, rfl, rfl⟩
  · simp [hahead]
  · have hlow : ¬1000000 ≤ o := by omega
    have hpos : ¬0 < o := by omega
    simp [hlow, hpos]
  · have hlow : ¬1000000 ≤ o := by omega
    simp [hlow, hpos]

/-! ### Snapshots (R439) -/

theorem execSnapshotLatch_early {s : State} {t : Dword} (hgo : s.snapgo = some t) (hearly : s.eqx.now < t) :
    exec .snapshotLatch s = .next s := by
  simp only [exec, execSnapshotLatch, hgo, if_pos hearly]

/-- What the snapshot registers latch, each at its place. -/
def snapCells (s : State) : List (Nat × Dword) := ((snapValues s).zipIdx.map fun x => (x.2, x.1)) ++ condCells s

theorem execSnapshotLatch_latches {s : State} {t : Dword} (hgo : s.snapgo = some t) (hnow : t ≤ s.eqx.now) :
    exec .snapshotLatch s = .next { s with snapgo := none, snap := cellSetAll [] (snapCells s) } := by
  have hlate : ¬s.eqx.now < t := BitVec.not_lt.mpr hnow
  simp only [exec, execSnapshotLatch, hgo, if_neg hlate, snapCells]

theorem mem_insertNat {n a : Nat} {l : List Nat} : a ∈ insertNat n l ↔ a = n ∨ a ∈ l := by
  induction l with
  | nil => exact List.mem_cons
  | cons x r ih =>
    unfold insertNat
    split
    · exact List.mem_cons
    split
    · next hx => subst hx; simp
    · rw [List.mem_cons, ih, List.mem_cons, or_left_comm]

theorem mem_foldr_insertNat {a : Nat} {l : List Nat} : a ∈ l.foldr insertNat [] ↔ a ∈ l := by
  induction l with
  | nil => rfl
  | cons x r ih => rw [List.foldr_cons, mem_insertNat, ih, List.mem_cons]

/-- A condition register's place tells its core, the context's place there, and the condition. -/
theorem condPlace_inj {core core' k k' i i' : Nat} (hk : k < 16) (hk' : k' < 16) (hi : i < 5) (hi' : i' < 5)
    (h : condPlace core k i = condPlace core' k' i') : core = core' ∧ k = k' ∧ i = i' := by
  unfold condPlace at h
  omega

theorem mem_condCells {s : State} {p : Nat × Dword} : p ∈ condCells s ↔
    ∃ core k i, (∃ t ∈ s.teams, t.status = .placed ∧ t.core = core) ∧ k < 16 ∧ i < 5 ∧
      p = (condPlace core k i, condWord s core k i) := by
  simp only [condCells, List.mem_flatMap, mem_foldr_insertNat, List.mem_map, List.mem_filter, List.mem_range,
    decide_eq_true_eq]
  constructor
  · rintro ⟨core, ⟨t, ⟨ht, hplaced⟩, hcore⟩, k, hk, i, hi, rfl⟩
    exact ⟨core, k, i, ⟨t, ht, hplaced, hcore⟩, hk, hi, rfl⟩
  · rintro ⟨core, k, i, ⟨t, ht, hplaced, hcore⟩, hk, hi, rfl⟩
    exact ⟨core, ⟨t, ⟨ht, hplaced⟩, hcore⟩, k, hk, i, hi, rfl⟩

theorem mem_snapCells {s : State} {p : Nat × Dword} :
    p ∈ snapCells s ↔ (snapValues s)[p.1]? = some p.2 ∨ p ∈ condCells s := by
  rw [snapCells, List.mem_append]
  refine or_congr_left ?_
  rw [List.mem_map]
  constructor
  · rintro ⟨x, hx, rfl⟩
    exact List.mk_mem_zipIdx_iff_getElem?.mp hx
  · intro h
    exact ⟨(p.2, p.1), List.mk_mem_zipIdx_iff_getElem?.mpr h, rfl⟩

/-- The first 1,024 snapshot registers latch the values in their order: no condition register stands among them. -/
theorem snapped_value {s : State} {i : Nat} {x : Dword} (hi : i < 1024) (hx : (snapValues s)[i]? = some x) :
    cellGet (cellSetAll [] (snapCells s)) i = x := by
  refine cellGet_cellSetAll_mem [] (mem_snapCells.mpr (.inl hx)) fun p hp hkey => ?_
  rcases mem_snapCells.mp hp with hv | hc
  · rw [hkey, hx] at hv
    exact (Option.some.inj hv).symm
  · obtain ⟨core, k, j, -, -, -, rfl⟩ := mem_condCells.mp hc
    change condPlace core k j = i at hkey
    unfold condPlace at hkey
    omega

/-- The condition registers of a core that holds a team latch its counts, where the first values leave their places alone. -/
theorem snapped_cond {s : State} (hlen : (snapValues s).length ≤ 1024) {y : Team} (hy : y ∈ s.teams)
    (hplaced : y.status = .placed) {k i : Nat} (hk : k < 16) (hi : i < 5) :
    cellGet (cellSetAll [] (snapCells s)) (condPlace y.core k i) = condWord s y.core k i := by
  refine cellGet_cellSetAll_mem []
    (mem_snapCells.mpr (.inr (mem_condCells.mpr ⟨_, k, i, ⟨y, hy, hplaced, rfl⟩, hk, hi, rfl⟩))) fun p hp hkey => ?_
  rcases mem_snapCells.mp hp with hv | hc
  · have hlt := (List.getElem?_eq_some_iff.mp hv).1
    rw [hkey] at hlt
    unfold condPlace at hlt
    omega
  · obtain ⟨core, k', i', -, hk', hi', rfl⟩ := mem_condCells.mp hc
    obtain ⟨rfl, rfl, rfl⟩ := condPlace_inj hk' hk hi' hi hkey
    rfl

/-! ### Waits that end early (R290) -/

/-- Putting a wave back leaves every slot that was found to be found. -/
theorem State.find_putWave_isSome {s : State} {v : View} {w : Wave} {sl : SlotId} (h : (s.find sl).isSome = true) :
    ((s.putWave v w).find sl).isSome = true := by
  obtain ⟨x, hx⟩ := Option.isSome_iff_exists.mp h
  obtain ⟨-, ht, hw, -⟩ := State.find_spec hx
  unfold State.find
  rw [State.putWave_eq, State.team?_modTeam s _ _ (f := fun t => t.setWave v.sl.wave w) (fun t => rfl), ht]
  have hlen : sl.wave < x.t.waves.length := (List.getElem?_eq_some_iff.mp hw).1
  by_cases hid : x.t.id = v.sl.team
  · simp [hid, Team.setWave, hlen]
  · simp [hid, hw]

/-- Where ending waits leaves a state: teams and waiter entries apart it is as before, no entry is new, and every slot that was
found still is. -/
structure WaitFrame (s u : State) : Prop where
  rest : u = { s with teams := u.teams, waiters := u.waiters }
  waiters : ∀ w ∈ u.waiters, w ∈ s.waiters
  found : ∀ sl, (s.find sl).isSome = true → (u.find sl).isSome = true

theorem WaitFrame.refl (s : State) : WaitFrame s s := ⟨rfl, fun _ h => h, fun _ h => h⟩

theorem WaitFrame.trans {s u x : State} (h : WaitFrame s u) (h' : WaitFrame u x) : WaitFrame s x where
  rest := by rw [h'.rest, h.rest]
  waiters := fun w hw => h.waiters w (h'.waiters w hw)
  found := fun sl hsl => h'.found sl (h.found sl hsl)

theorem State.dropWaits_waitFrame (s : State) (q : SlotId → Bool) : WaitFrame s (s.dropWaits q) :=
  ⟨rfl, fun _ h => (List.mem_filter.mp h).1, fun _ h => h⟩

theorem State.putSlot_waitFrame (s : State) (v : View) (p : Slot) : WaitFrame s (s.putSlot v p) :=
  ⟨rfl, fun _ h => h, fun _ h => State.find_putWave_isSome h⟩

/-- Ending a slot's wait keeps the frame, and a slot that is found has no entry left. -/
theorem State.endWait_spec (s : State) (sl : SlotId) :
    WaitFrame s (s.endWait sl) ∧ ((s.find sl).isSome = true → ∀ w ∈ (s.endWait sl).waiters, w.sl ≠ sl) := by
  have hdrop := s.dropWaits_waitFrame fun x => x = sl
  have hgone : ∀ w ∈ (s.dropWaits fun x => x = sl).waiters, w.sl ≠ sl := fun w hw heq => by
    simpa [heq] using (List.mem_filter.mp hw).2
  unfold State.endWait
  split
  · next hnone => exact ⟨.refl s, fun h => by simp [hnone] at h⟩
  dsimp only
  split
  · exact ⟨hdrop.trans (State.putSlot_waitFrame _ _ _), fun _ w hw => hgone w hw⟩
  · exact ⟨hdrop, fun _ => hgone⟩

/-- The waits of a list of slots end: those that are found have no entry left. -/
theorem State.endWaits_spec (l : List SlotId) (s : State) :
    WaitFrame s (l.foldl State.endWait s) ∧
      ((∀ sl ∈ l, (s.find sl).isSome = true) → ∀ w ∈ (l.foldl State.endWait s).waiters, w.sl ∉ l) := by
  induction l generalizing s with
  | nil => exact ⟨.refl s, fun _ _ _ h => nomatch h⟩
  | cons a r ih =>
    obtain ⟨hone, hgone⟩ := s.endWait_spec a
    obtain ⟨hrest, hnone⟩ := ih (s.endWait a)
    refine ⟨hone.trans hrest, fun hfound w hw hmem => ?_⟩
    rcases List.mem_cons.mp hmem with rfl | hr
    · exact hgone (hfound _ List.mem_cons_self) w (hrest.waiters w hw) rfl
    · exact hnone (fun sl hsl => hone.found sl (hfound sl (List.mem_cons_of_mem _ hsl))) w hw hr

/-! ### Islands and power (R440) -/

/-- What emptying islands leaves as it was, and that near lines only go. -/
structure IslandFrame (s u : State) : Prop where
  mem : u.mem = s.mem
  islands : u.islands = s.islands
  near : ∀ p ∈ u.near, p ∈ s.near

theorem IslandFrame.refl (s : State) : IslandFrame s s := ⟨rfl, rfl, fun _ h => h⟩

theorem IslandFrame.trans {s u x : State} (h : IslandFrame s u) (h' : IslandFrame u x) : IslandFrame s x :=
  ⟨h'.mem.trans h.mem, h'.islands.trans h.islands, fun p hp => h.near p (h'.near p hp)⟩

theorem State.emptyIsland_frame (s : State) (n : Nat) : IslandFrame s (s.emptyIsland n) := by
  have hwait := (State.endWaits_spec ((s.waiters.filter fun w => homeInIsland s n w.ctr).map Waiter.sl) s).1.rest
  exact ⟨(congrArg State.mem hwait :), (congrArg State.islands hwait :),
    fun p hp => (congrArg State.near hwait :) ▸ (List.mem_filter.mp hp).1⟩

theorem State.emptyIsland_near (s : State) (n : Nat) : ∀ p ∈ (s.emptyIsland n).near, inIsland n p.1 = false :=
  fun _ hp => Bool.eq_false_of_not_eq_true' (List.mem_filter.mp hp).2

/-- Where every waiter's slot is found, no entry with its home in the island is left. -/
theorem State.emptyIsland_waiters {s : State} {n : Nat} (hfound : ∀ w ∈ s.waiters, (s.find w.sl).isSome = true) :
    ∀ w ∈ (s.emptyIsland n).waiters, homeInIsland s n w.ctr = false := by
  intro w hw
  obtain ⟨hframe, hnone⟩ := State.endWaits_spec ((s.waiters.filter fun w => homeInIsland s n w.ctr).map Waiter.sl) s
  refine Bool.eq_false_iff.mpr fun hhome => hnone (fun sl hsl => ?_) w hw
    (List.mem_map_of_mem (List.mem_filter.mpr ⟨hframe.waiters w hw, hhome⟩))
  obtain ⟨x, hx, rfl⟩ := List.mem_map.mp hsl
  exact hfound x (List.mem_filter.mp hx).1

/-- Emptying several islands takes the near lines of each. -/
theorem State.emptyIslands_spec (l : List Nat) (s : State) :
    IslandFrame s (l.foldl State.emptyIsland s) ∧
      ∀ n ∈ l, ∀ p ∈ (l.foldl State.emptyIsland s).near, inIsland n p.1 = false := by
  induction l generalizing s with
  | nil => exact ⟨.refl s, fun _ h => nomatch h⟩
  | cons a r ih =>
    obtain ⟨hrest, hnear⟩ := ih (s.emptyIsland a)
    refine ⟨(s.emptyIsland_frame a).trans hrest, fun n hn p hp => ?_⟩
    rcases List.mem_cons.mp hn with rfl | hr
    · exact s.emptyIsland_near n p (hrest.near p hp)
    · exact hnear n hr p hp

/-- An island as a write of ISL sets it (R440). -/
def Island.written (halt : Bool) (v : Dword) (x : Island) : Island :=
  let f := v.toNat / 2 ^ 48
  let fm := if 100 ≤ f ∧ f ≤ 850 then f else x.fmhz
  { x with fmhz := fm, cur := if x.thr then min x.cur fm else fm, off := halt }

theorem Island.written_cur_le (halt : Bool) (v : Dword) (x : Island) : (x.written halt v).cur ≤ (x.written halt v).fmhz := by
  unfold Island.written
  dsimp only
  split
  · exact Nat.min_le_right _ _
  · exact le_rfl

theorem toNat_extract_high (v : Dword) : (v.extractLsb' 48 16).toNat = v.toNat / 2 ^ 48 := by
  rw [BitVec.extractLsb'_toNat, Nat.shiftRight_eq_div_pow]
  exact Nat.mod_eq_of_lt (by omega)

theorem execIslandControl_written {s : State} {n : Nat} {v : Dword} {x : Island} (h : s.islands[n]? = some x) :
    let y := x.written (v.getLsbD 0 && !islandBusy s n) v
    let s1 := if y ≠ x then s.emptyIsland n else s
    exec (.islandControl n v) s = .next { s1 with islands := s.islands.set n y } := by
  intro y s1
  have hs1 : s1.islands = s.islands := by
    dsimp only [s1]
    split
    · exact (s.emptyIsland_frame n).islands
    · rfl
  simp only [exec, execIslandControl, h, Option.map_some, ne_eq, Option.some.injEq, toNat_extract_high]
  change Host.Outcome.next { s1 with islands := s1.islands.modify n (Island.written (v.getLsbD 0 && !islandBusy s n) v) } = _
  rw [hs1, List.modify_eq_set_getElem?, h]
  rfl

theorem execIslandControl_spec {s : State} {n : Nat} {v : Dword} {x : Island} (h : s.islands[n]? = some x) :
    ∃ u y, exec (.islandControl n v) s = .next u ∧ u.islands[n]? = some y ∧ (∀ j, j ≠ n → u.islands[j]? = s.islands[j]?) ∧
      y.fmhz = (let f := v.toNat / 2 ^ 48
        if 100 ≤ f ∧ f ≤ 850 then f else x.fmhz) ∧ y.thr = x.thr ∧ (x.thr = false → y.cur = y.fmhz) ∧ y.cur ≤ y.fmhz ∧
      y.off = (v.getLsbD 0 && !islandBusy s n) ∧ u.mem = s.mem ∧
      (y ≠ x → (∀ p ∈ u.near, inIsland n p.1 = false) ∧
        ((∀ w ∈ s.waiters, (s.find w.sl).isSome = true) → ∀ w ∈ u.waiters, homeInIsland s n w.ctr = false)) ∧
      (y = x → u = s) := by
  obtain ⟨hlt, hget⟩ := List.getElem?_eq_some_iff.mp h
  refine ⟨_, x.written (v.getLsbD 0 && !islandBusy s n) v, execIslandControl_written h, List.getElem?_set_self hlt,
    fun j hj => List.getElem?_set_ne (Ne.symm hj), rfl, rfl, fun hthr => if_neg (by rw [hthr]; exact Bool.false_ne_true),
    x.written_cur_le _ v, rfl, ?_, fun hne => ?_, fun heq => ?_⟩
  · split
    · exact (s.emptyIsland_frame n).mem
    · rfl
  · rw [if_pos hne]
    exact ⟨s.emptyIsland_near n, State.emptyIsland_waiters⟩
  · rw [if_neg (not_not_intro heq), heq, ← hget, List.set_getElem_self]

/-- A compute island's clock as measured power sets it (R440). -/
def Island.limited (exceeded : Prop) [Decidable exceeded] (x : Island) : Island :=
  if exceeded then { x with cur := max 100 (x.cur - 25), thr := true } else { x with cur := x.fmhz, thr := false }

/-- The islands whose clock measured power changes. -/
def movedIslands (s : State) (watts : Nat) : List Nat :=
  (List.range 20).filter fun n => computeIsland n &&
    decide ((s.islands[n]?).map (Island.cur ∘ Island.limited (s.pwrlim < watts)) ≠ (s.islands[n]?).map Island.cur)

theorem mem_movedIslands {s : State} {watts n : Nat} {x : Island} (hc : computeIsland n = true) (hx : s.islands[n]? = some x) :
    n ∈ movedIslands s watts ↔ (x.limited (s.pwrlim < watts)).cur ≠ x.cur := by
  have hlt : n < 20 := by
    simp only [computeIsland, Bool.and_eq_true, decide_eq_true_eq] at hc
    exact hc.1
  simp [movedIslands, hc, hx, hlt]

theorem execPowerLimitThrottle_eq (s : State) (watts : Nat) :
    exec (.powerLimitThrottle watts) s = .next { (movedIslands s watts).foldl State.emptyIsland s with
      islands := s.islands.zipIdx.map fun x => if computeIsland x.2 then x.1.limited (s.pwrlim < watts) else x.1 } := by
  rw [← (State.emptyIslands_spec (movedIslands s watts) s).1.islands]
  rfl

/-- An island after the power limit has acted. -/
theorem throttled_getElem? {s : State} {watts i : Nat} {x : Island} (h : s.islands[i]? = some x) :
    (s.islands.zipIdx.map fun x => if computeIsland x.2 then x.1.limited (s.pwrlim < watts) else x.1)[i]? =
      some (if computeIsland i = true then x.limited (s.pwrlim < watts) else x) := by
  simp [List.getElem?_map, List.getElem?_zipIdx, h]

theorem execPowerLimitThrottle_spec (s : State) (watts : Nat) : ∃ u, exec (.powerLimitThrottle watts) s = .next u ∧ u.mem = s.mem ∧
    (∀ (i : Nat) (x : Island), s.islands[i]? = some x → u.islands[i]? = some
      (if computeIsland i = false then x
        else if s.pwrlim < watts then { x with cur := max 100 (x.cur - 25), thr := true }
        else { x with cur := x.fmhz, thr := false })) ∧
    (∀ (i : Nat) (x y : Island), computeIsland i = true → s.islands[i]? = some x → u.islands[i]? = some y → x.cur ≠ y.cur →
      ∀ p ∈ u.near, inIsland i p.1 = false) ∧
    ((∀ (i : Nat) (x y : Island), s.islands[i]? = some x → u.islands[i]? = some y → x.cur = y.cur) →
      u = { s with islands := u.islands }) := by
  obtain ⟨hframe, hnear⟩ := State.emptyIslands_spec (movedIslands s watts) s
  refine ⟨_, execPowerLimitThrottle_eq s watts, hframe.mem, fun i x hx => ?_, fun i x y hc hx hy hne => ?_, fun hsame => ?_⟩
  · rw [throttled_getElem? hx]
    cases hc : computeIsland i <;> rfl
  · rw [throttled_getElem? hx, if_pos hc] at hy
    exact hnear i ((mem_movedIslands hc hx).mpr (Option.some.inj hy ▸ hne.symm))
  · have hnone : movedIslands s watts = [] := by
      refine List.eq_nil_iff_forall_not_mem.mpr fun n hn => ?_
      have hmoved := (List.mem_filter.mp hn).2
      simp only [Bool.and_eq_true, decide_eq_true_eq] at hmoved
      obtain ⟨hc, hmoved⟩ := hmoved
      cases hx : s.islands[n]? with
      | none => simp [hx] at hmoved
      | some x =>
        have hcur := hsame n x _ hx (throttled_getElem? hx)
        rw [if_pos hc] at hcur
        exact (mem_movedIslands hc hx).mp hn hcur.symm
    rw [hnone]
    rfl

/-! ### Key slots (R429) -/

section Keys

variable {s : State} {n : Nat} {k : KeySlot}

theorem execKeyDerive_kept (h : ∀ k, s.keys[n]? = some k → k.full = true) : exec (.keyDerive n) s = .next s := by
  cases hk : s.keys[n]? with
  | none => simp only [exec, execKeyDerive, hk]
  | some k => simp only [exec, execKeyDerive, hk, h k hk, if_true]

theorem execKeyClear_kept (h : ∀ k, s.keys[n]? = some k → k.full = false) : exec (.keyClear n) s = .next s := by
  cases hk : s.keys[n]? with
  | none => simp only [exec, execKeyClear, hk]
  | some k => simp only [exec, execKeyClear, hk, h k hk, Bool.not_false, if_true]

theorem execKeyDerive_empty (hk : s.keys[n]? = some k) (hfull : k.full = false) : exec (.keyDerive n) s =
    if almRoom s = true then .next ({ s with
      keys := s.keys.set n { k with full := true, key := sealKey Config.sealRoot k.salt n } }.almAppend 2 0
        (bytesOf n 4 ++ bytesOf 1 4)) else .next s.almAsk := by
  cases hroom : almRoom s <;> simp only [exec, execKeyDerive, hk, hfull, hroom] <;> rfl

theorem execKeyClear_full (hk : s.keys[n]? = some k) (hfull : k.full = true) : exec (.keyClear n) s =
    if almRoom s = true then .next ({ s with keys := s.keys.set n { k with full := false, key := 0 } }.almAppend 2 0
      (bytesOf n 4 ++ bytesOf 0 4)) else .next s.almAsk := by
  cases hroom : almRoom s <;> simp only [exec, execKeyClear, hk, hfull, hroom] <;> rfl

end Keys

/-! ### The Almanac's entries (R432, R433) -/

theorem State.almWrite_alm (s : State) (off : Nat) (data : List Byte) : (s.almWrite off data).alm = s.alm := by
  unfold State.almWrite
  split <;> rfl

theorem State.almWrite_almWait (s : State) (off : Nat) (data : List Byte) : (s.almWrite off data).almWait = s.almWait := by
  unfold State.almWrite
  split <;> rfl

theorem State.almWrite_egress (s : State) (off : Nat) (data : List Byte) : (s.almWrite off data).egress = s.egress := by
  unfold State.almWrite
  split <;> rfl

/-- An entry that is written counts, the next one will name its hash, and none that waits is touched. -/
theorem State.almWriteEntry_spec (s : State) (evt ctx : Nat) (data : List Byte) :
    (s.almWriteEntry evt ctx data).alm.seq = s.alm.seq + 1 ∧
      (s.almWriteEntry evt ctx data).alm.prev = BitVec.ofNat 512 (ofBytes (sha512 (almEntry s evt ctx data))) ∧
      (s.almWriteEntry evt ctx data).almWait = s.almWait := by
  unfold State.almWriteEntry
  dsimp only
  split <;> simp only [State.almWrite_alm, State.almWrite_almWait, and_self]

theorem State.almWriteEntry_egress (s : State) (evt ctx : Nat) (data : List Byte) :
    (s.almWriteEntry evt ctx data).egress = s.egress := by
  unfold State.almWriteEntry
  dsimp only
  split <;> simp only [State.almWrite_egress]

theorem State.almAppend_written {s : State} {evt ctx : Nat} {data : List Byte} (hroom : almRoom s = true) (hw : s.almWait = []) :
    s.almAppend evt ctx data = s.almWriteEntry evt ctx data :=
  if_pos (by rw [hroom, hw]; rfl)

theorem State.almAppend_waits {s : State} {evt ctx : Nat} {data : List Byte} (h : almRoom s = false ∨ s.almWait ≠ []) :
    s.almAppend evt ctx data = { s with almWait := s.almWait ++ [(evt, ctx, data)] } := by
  refine if_neg fun hyes => ?_
  obtain ⟨hroom, hw⟩ := (Bool.and_eq_true _ _).mp hyes
  rcases h with hno | hno
  · exact absurd hroom (by rw [hno]; exact Bool.false_ne_true)
  · exact hno (List.isEmpty_iff.mp hw)

theorem State.almAppend_egress (s : State) (evt ctx : Nat) (data : List Byte) : (s.almAppend evt ctx data).egress = s.egress := by
  unfold State.almAppend
  split
  · exact s.almWriteEntry_egress evt ctx data
  · rfl

/-! ### Metered traffic (R431) -/

theorem State.meter_none {s : State} {c n : Nat} (hc : 0 < c)
    (h : (s.egressOf c).rate = 0 ∨ (s.egressOf c).bucket < 1000 * n ∨ almRoom s = false) : s.meter c n = none := by
  unfold State.meter
  rw [if_neg hc.ne']
  refine if_pos ?_
  rwa [Bool.not_eq_true]

/-- A class with the tokens for it pays for the bytes and counts them. -/
theorem State.meter_some {s : State} {c n : Nat} (hc : 0 < c) (hlen : c < s.egress.length) (hrate : (s.egressOf c).rate ≠ 0)
    (hbucket : 1000 * n ≤ (s.egressOf c).bucket) (hroom : almRoom s = true) : ∃ u, s.meter c n = some u ∧
      (u.egressOf c).bucket = (s.egressOf c).bucket - 1000 * n ∧ (u.egressOf c).total = (s.egressOf c).total + n := by
  have hpaid : ¬((s.egressOf c).rate = 0 ∨ (s.egressOf c).bucket < 1000 * n ∨ ¬almRoom s = true) := by
    rintro (h | h | h)
    · exact hrate h
    · exact absurd h (Nat.not_lt.mpr hbucket)
    · exact h hroom
  unfold State.meter
  rw [if_neg hc.ne']
  dsimp only
  rw [if_neg hpaid]
  refine ⟨_, rfl, ?_⟩
  suffices h : ∀ u : State, u.egress = s.egress.set c { s.egressOf c with
      bucket := (s.egressOf c).bucket - 1000 * n, total := (s.egressOf c).total + n } →
      (u.egressOf c).bucket = (s.egressOf c).bucket - 1000 * n ∧ (u.egressOf c).total = (s.egressOf c).total + n by
    refine h _ ?_
    split
    · exact State.almAppend_egress _ _ _ _
    · rfl
  intro u hu
  simp [State.egressOf, hu, hlen]

theorem execEgressRelease_none {s : State} {c : Nat} (h : s.metered.find? (fun m => m.cls = c) = none) :
    exec (.egressRelease c) s = .next s := by
  simp only [exec, execEgressRelease, h]

theorem execEgressRelease_waits {s : State} {c : Nat} {m : MeterWait} (h : s.metered.find? (fun m => m.cls = c) = some m)
    (hm : s.meter c m.bytes = none) : exec (.egressRelease c) s = .next s.almAsk := by
  simp only [exec, execEgressRelease, h, hm, Option.isNone_none, if_true]

/-- Metered traffic with tokens goes on as what it is. -/
theorem execEgressRelease_goesOn {s : State} {c : Nat} {m : MeterWait} (h : s.metered.find? (fun m => m.cls = c) = some m)
    (hm : s.meter c m.bytes ≠ none) :
    (∀ w, m.what = .copy w → exec (.egressRelease c) s = .next (s.meterDone (.copy w))) ∧
    (∀ host dec off own, m.what = .hostRead host dec off own →
      exec (.egressRelease c) s = exec (.hostHdmRead host dec off own) s) ∧
    (∀ pkg fctx va size tag, m.what = .peerRead pkg fctx va size tag →
      exec (.egressRelease c) s = exec (.peerReadRequest pkg fctx va size tag) s) ∧
    (∀ pa n, m.what = .debugRead pa n → exec (.egressRelease c) s = .next (debugReadAt s pa n)) := by
  have htokens : (s.meter c m.bytes).isNone = false := Option.isNone_eq_false_iff.mpr (Option.isSome_iff_ne_none.mpr hm)
  simp only [exec, execEgressRelease, h, htokens]
  refine ⟨fun w hw => ?_, fun host dec off own hw => ?_, fun pkg fctx va size tag hw => ?_, fun pa n hw => ?_⟩ <;>
    rw [hw] <;> rfl

/-! ### Seal import (R430) -/

section Sealing

variable {s : State} {w off : Nat} {data : List Byte} {k : KeySlot}

theorem execSealImport_refused (h : (s.window w).en = false ∨ (s.window w).isSealed = false ∨ data = [] ∨
    (s.window w).bytes < off + data.length) : exec (.sealImport w off data) s = .next s := by
  cases hk : s.keys[(s.window w).ks]? with
  | none => simp only [exec, execSealImport, hk]
  | some k =>
    simp only [exec, execSealImport, hk]
    refine if_pos ?_
    rcases h with h | h | h | h
    · exact .inl (by rw [h]; rfl)
    · exact .inr (.inl (by rw [h]; rfl))
    · exact .inr (.inr (.inr (.inl h)))
    · exact .inr (.inr (.inr (.inr h)))

theorem execSealImport_accepted (hen : (s.window w).en = true) (hseal : (s.window w).isSealed = true) (hdata : data ≠ [])
    (hlen : off + data.length ≤ (s.window w).bytes) (hk : s.keys[(s.window w).ks]? = some k) (hfull : k.full = true) :
    exec (.sealImport w off data) s =
      if almRoom s = false then .next s.almAsk
      else
        let x := s.window w
        let us := (List.range ((off + data.length - 1) / 128 - off / 128 + 1)).map fun i => off / 128 + i
        let ns := (us.flatMap fun u => snoopNeed s true (lineOf (x.base + 128 * u)))
          ++ locNeeds s (us.flatMap fun u => (List.range 128).map fun i => Loc.phys (x.base + 128 * u + i))
        if ns ≠ [] then .next (s.request ns)
        else .next (((s.recall none (us.map fun u => lineOf (x.base + 128 * u))).writeNow
          ((us.flatMap fun u => addrBytes (x.base + 128 * u) (sealUnit s x k.key off data u)).map fun p =>
            (Loc.phys p.1, p.2))).almAppend 3 0 (bytesOf w 4 ++ bytesOf 0 4 ++ bytesOf off 8 ++ bytesOf data.length 8)) := by
  have hgood : ¬((!(s.window w).en) = true ∨ (!(s.window w).isSealed) = true ∨ (!k.full) = true ∨ data = [] ∨
      (s.window w).bytes < off + data.length) := by
    simp [hen, hseal, hfull, hdata, hlen]
  simp only [exec, execSealImport, hk, if_neg hgood]
  cases almRoom s <;> rfl

end Sealing

/-- Settles O52, clause by clause. -/
theorem packageEventsComplete : Obligations.PackageEventsComplete := by
  unfold Obligations.PackageEventsComplete
  refine ⟨fun s v => rfl, fun s o => ⟨execTimingMessage_grandmaster, execTimingMessage_measures⟩, fun s t => rfl,
    fun s => ⟨fun hnone => ?_, fun t => execSnapshotLatch_early, fun t hgo hnow => ?latched⟩,
    fun s n v x => execIslandControl_spec, execPowerLimitThrottle_spec, fun s n => execKeyDerive_kept,
    fun s n k hk hroom => ⟨fun hfull => ?_, fun hfull => ?_⟩, fun s n k hk hroom => ⟨fun hfull => ?_, fun hfull => ?_⟩,
    fun s n => execKeyClear_kept, fun s evt ctx data => ⟨fun hroom hw => ?entry, State.almAppend_waits⟩,
    fun s c => ⟨execEgressRelease_none, fun m hm => ⟨execEgressRelease_waits hm, execEgressRelease_goesOn hm⟩⟩,
    fun s c n => ⟨rfl, State.meter_none, State.meter_some⟩,
    fun s w off data => ⟨execSealImport_refused, fun hen hseal hdata hlen hroom k hk hfull => ?asked,
      fun hen hseal hdata hlen hroom k hk hfull hsnoop hlocs => ?sealed⟩⟩
  · simp only [exec, execSnapshotLatch, hnone]
  case latched =>
    exact ⟨_, execSnapshotLatch_latches hgo hnow, rfl, rfl, fun i x => snapped_value,
      fun hlen y hy hplaced k i => snapped_cond hlen hy hplaced⟩
  · rw [execKeyDerive_empty hk hfull, hroom]; rfl
  · rw [execKeyClear_full hk hfull, hroom]; rfl
  · rw [execKeyDerive_empty hk hfull, if_pos hroom]
  · rw [execKeyClear_full hk hfull, if_pos hroom]
  case entry =>
    rw [State.almAppend_written hroom hw, ← hw]
    exact s.almWriteEntry_spec evt ctx data
  case asked => rw [execSealImport_accepted hen hseal hdata hlen hk hfull, if_pos hroom]
  case sealed =>
    rw [execSealImport_accepted hen hseal hdata hlen hk hfull, if_neg (by rw [hroom]; exact Bool.noConfusion)]
    refine if_neg (not_not_intro ?_)
    exact List.append_eq_nil_iff.mpr ⟨hsnoop, hlocs⟩

end Sys2Proof.Machine
end

section

/-! PROOFS. What work on memory leaves alone: writes performed, lines asked for, reductions flushed, addresses translated and
streams released (R119 to R121, R198, R314, R316). -/

namespace Sys2Proof.Machine

theorem EngineFrame.refl (s : State) : EngineFrame s s := ⟨rfl, rfl, rfl⟩

theorem EngineFrame.trans {s t u : State} (h : EngineFrame s t) (h' : EngineFrame t u) : EngineFrame s u := by
  obtain ⟨hrec, hteams, hsegs⟩ := h
  obtain ⟨hrec', hteams', hsegs'⟩ := h'
  exact ⟨by rw [hrec', hrec], hteams'.trans hteams, hsegs'.trans hsegs⟩

theorem EngineFrame.foldl {α : Type} {f : State → α → State} (h : ∀ s x, EngineFrame s (f s x)) (l : List α) (s : State) :
    EngineFrame s (l.foldl f s) := by
  induction l generalizing s with
  | nil => exact .refl s
  | cons x l ih => exact (h s x).trans (ih (f s x))

/-- Of work answered with a result: the state it is answered with. -/
theorem EngineFrame.of_eq {α : Type} {s t : State} {r : State × α} {x : α} (h : EngineFrame s r.1) (e : r = (t, x)) :
    EngineFrame s t := by
  rwa [e] at h

theorem EngineFrame.cmds {s t : State} (h : EngineFrame s t) : t.cmds = s.cmds := by
  rw [h.1]

/-- The queues' counts of every team are as they were. -/
theorem EngineFrame.qstats {s t : State} (h : EngineFrame s t) (id : Nat) :
    (t.team? id).map Team.qstats = (s.team? id).map Team.qstats := by
  have hfind (x : State) : (x.team? id).map Team.qstats = ((x.teams.map Team.still).find? fun y => y.id = id).map Team.qstats := by
    rw [List.find?_map, Option.map_map]
    rfl
  rw [hfind, hfind, h.2.1]

/-! ### Writes -/

theorem engineFrame_setBase (s : State) (l : Loc) (b : Byte) : EngineFrame s (setBase s l b) := by
  cases l with
  | phys a => exact ⟨rfl, rfl, rfl⟩
  | scratch t o =>
    refine ⟨rfl, ?_, rfl⟩
    simp only [setBase, State.modTeam, List.map_map]
    exact List.map_congr_left fun x _ => by simp only [Function.comp_apply]; split <;> rfl
  | seg c n o =>
    refine ⟨rfl, rfl, ?_⟩
    simp only [setBase, State.modSeg, List.map_map]
    exact List.map_congr_left fun x _ => by simp only [Function.comp_apply]; split <;> rfl

theorem engineFrame_setBases (bytes : List (Loc × Byte)) (s : State) :
    EngineFrame s (bytes.foldl (fun s p => setBase s p.1 p.2) s) :=
  .foldl (fun s p => engineFrame_setBase s p.1 p.2) bytes s

theorem engineFrame_dropDecoded (s : State) (lines : List Nat) : EngineFrame s (s.dropDecoded lines) := ⟨rfl, rfl, rfl⟩

/-- Other writes in flight, and where their bytes lie settled. -/
theorem engineFrame_settle (s : State) (ws : List PWrite) : EngineFrame s (State.settle { s with writes := ws }) :=
  EngineFrame.trans ⟨rfl, rfl, rfl⟩ (.foldl (fun s (w : PWrite) => engineFrame_setBases w.bytes s) _ _)

theorem engineFrame_perform (s : State) (lvl : Nat) (p : PWrite → Bool) : EngineFrame s (s.perform lvl p) :=
  engineFrame_settle s _

theorem engineFrame_hostYield (s : State) (line : Nat) (inv : Bool) : EngineFrame s (s.hostYield line inv) := by
  unfold State.hostYield
  split <;> exact ⟨rfl, rfl, rfl⟩

theorem engineFrame_writeNow (s : State) (bytes : List (Loc × Byte)) : EngineFrame s (s.writeNow bytes) :=
  (((engineFrame_perform s _ _).trans (.foldl (fun s l => engineFrame_hostYield s l true) _ _)).trans
    (engineFrame_dropDecoded _ _)).trans (engineFrame_setBases bytes _)

theorem engineFrame_recall (s : State) (keep : Option Nat) (lines : List Nat) : EngineFrame s (s.recall keep lines) :=
  ⟨rfl, rfl, rfl⟩

/-! ### Requests -/

theorem engineFrame_snoop (s : State) (line : Nat) (inv : Bool) : EngineFrame s (s.snoop line inv) := by
  unfold State.snoop
  split <;> exact ⟨rfl, rfl, rfl⟩

theorem engineFrame_request (s : State) (ns : List Need) : EngineFrame s (s.request ns) := by
  refine .foldl (fun s x => ?_) ns s
  cases x with
  | snoop l inv => exact engineFrame_snoop s l inv
  | cxl l => dsimp only; split <;> exact ⟨rfl, rfl, rfl⟩
  | team t => dsimp only; split <;> exact ⟨rfl, rfl, rfl⟩
  | place => exact .refl s

/-! ### Flushes and releases -/

theorem engineFrame_charge (s : State) (ctx code : Nat) (addr : Dword) (info2 : Word) :
    EngineFrame s (s.charge ctx code addr info2) := by
  rw [State.charge, State.addRec_frame]
  exact ⟨rfl, rfl, rfl⟩

theorem engineFrame_comb (s : State) (l : List CombEntry) : EngineFrame s { s with comb := l } := ⟨rfl, rfl, rfl⟩

theorem engineFrame_lateReds (s : State) (l : List CombEntry) : EngineFrame s { s with lateReds := l } := ⟨rfl, rfl, rfl⟩

theorem engineFrame_grant (s : State) (core line : Nat) : EngineFrame s (s.grant core line) := by
  unfold State.grant
  dsimp only
  split <;> exact ⟨rfl, rfl, rfl⟩

theorem engineFrame_placeAtomic (s : State) (core pl line : Nat) : EngineFrame s (s.placeAtomic core pl line) := by
  unfold State.placeAtomic
  dsimp only
  split
  · exact engineFrame_grant s core line
  · split <;> exact ⟨rfl, rfl, rfl⟩

theorem engineFrame_rmw (s : State) (r : Seat) (pa mt n : Nat) (f : Nat → Nat) : EngineFrame s (s.rmw r (.phys pa mt) n f).1 :=
  (engineFrame_perform s _ _).trans (engineFrame_writeNow _ _)

theorem engineFrame_flushEntry (s : State) (e : CombEntry) : EngineFrame s (s.flushEntry e) := by
  unfold State.flushEntry
  split
  · exact engineFrame_charge s _ _ _ _
  · split
    · exact (engineFrame_lateReds s _).trans (engineFrame_request _ _)
    · exact EngineFrame.trans (.foldl (fun s l => engineFrame_placeAtomic s e.core e.pl l) _ s) (engineFrame_rmw _ _ _ _ _ _)

theorem engineFrame_performLate (s : State) : EngineFrame s s.performLate :=
  ((engineFrame_lateReds s _).trans (.foldl engineFrame_flushEntry _ _)).trans (engineFrame_request _ _)

theorem engineFrame_flushComb (s : State) (p : CombEntry → Bool) : EngineFrame s (s.flushComb p) :=
  ((engineFrame_performLate s).trans (engineFrame_comb _ _)).trans (.foldl engineFrame_flushEntry _ _)

theorem engineFrame_release (s : State) (v : View) (mask : BitVec 16) (scope : Nat) : EngineFrame s (s.release v mask scope) :=
  (engineFrame_flushComb s _).trans (engineFrame_perform _ _ _)

/-! ### Translation -/

theorem engineFrame_orPte (s : State) (a : Nat) (bits : Dword) : EngineFrame s (orPte s a bits) :=
  (engineFrame_recall s none _).trans (engineFrame_writeNow _ _)

theorem engineFrame_walkCache (s : State) (c : List WalkEntry) : EngineFrame s { s with walkCache := c } := ⟨rfl, rfl, rfl⟩

theorem engineFrame_tlb (s : State) (t : List TlbEntry) : EngineFrame s { s with tlb := t } := ⟨rfl, rfl, rfl⟩

theorem engineFrame_walkBy (s : State) (die ctx va : Nat) : EngineFrame s (walkBy s die ctx va).1 := by
  unfold walkBy
  split
  · exact .refl s
  · dsimp only
    split
    · exact engineFrame_recall s none _
    · split
      · exact engineFrame_recall s none _
      · exact ((engineFrame_recall s none _).trans (engineFrame_walkCache _ _)).trans (engineFrame_orPte _ _ _)

theorem engineFrame_tlbLook (s : State) (core ctx va : Nat) : EngineFrame s (tlbLook s core ctx va).1 := by
  unfold tlbLook
  have h := engineFrame_walkBy s (dieOf core) ctx va
  split
  · exact engineFrame_tlb s _
  · split
    · exact h.of_eq ‹_›
    · exact (h.of_eq ‹_›).trans (engineFrame_tlb _ _)

theorem engineFrame_refetch (s : State) (core ctx va : Nat) (e : TlbEntry) : EngineFrame s (refetch s core ctx va e).1 := by
  unfold refetch
  dsimp only
  split
  · exact .refl s
  · exact (engineFrame_tlb s _).trans (engineFrame_tlbLook (s.tlbDrop e) core ctx va)

theorem engineFrame_setDirty (s : State) (core : Nat) (e : TlbEntry) (va : Nat) : EngineFrame s (s.setDirty core e va) :=
  (engineFrame_orPte s (e.leafOf va) 0x80).trans (engineFrame_tlb _ _)

theorem engineFrame_xlate (s : State) (core ctx : Nat) (a : Dword) : EngineFrame s (xlate s core ctx a).1 := by
  have hit (va : Nat) : EngineFrame s (match tlbLook s core ctx va with
      | (s1, .error f) => (s1, Xlat.bad f)
      | (s1, .ok e) => (s1, .hit e (e.pa + (va - e.page)))).1 := by
    have h := engineFrame_tlbLook s core ctx va
    split <;> exact h.of_eq ‹_›
  unfold xlate
  split
  · exact .refl s
  · dsimp only
    split
    · exact hit _
    · split
      · exact hit _
      · exact .refl s

theorem engineFrame_globTarget (s : State) (core ctx : Nat) (a : Dword) (n : Nat) (k : Access) :
    EngineFrame s (globTarget s core ctx a n k).1 := by
  unfold globTarget
  have hx := engineFrame_xlate s core ctx a
  split
  · exact .refl s
  · split
    · exact hx.of_eq ‹_›
    · exact hx.of_eq ‹_›
    · next s1 e pa heq =>
      have hx1 := hx.of_eq heq
      split
      · exact hx1
      · split
        · have hr := engineFrame_refetch s1 core ctx (tableVa s1 ctx a) e
          dsimp only
          split
          · exact hx1.trans (hr.of_eq ‹_›)
          · next h2 =>
            split
            · exact hx1.trans (hr.of_eq h2)
            · exact (hx1.trans (hr.of_eq h2)).trans (engineFrame_setDirty _ _ _ _)
        · exact hx1

end Sys2Proof.Machine
end

section

/-! PROOFS. Issuing copy commands, QFENCE and QSTAT (O42). -/

namespace Sys2Proof.Machine

/-! ### Operations with no destination -/

theorem zeroCauses_nil {x : BitVec 8} : zeroCauses x = [] ↔ x = 0 := by
  simp [zeroCauses]

/-- An operation that writes no scalar takes effect when `active` is not empty. -/
theorem View.activeTo_zero (v : View) (c : Ctl) : v.activeTo c 0 = v.active c := rfl

/-- A tracked result goes to no mask word (R38), so `active` decides. -/
theorem View.activeTo_late {v : View} {g : Nat} {d : BitVec 8} (h : dstCauses v (some .ld) (.scal g) d = []) (c : Ctl) :
    v.activeTo c d = v.active c := by
  have hform : dstForm v.inExp true (.scal g) d.toNat = [] := (List.append_eq_nil_iff.mp h).1
  have hmask : ¬(60 ≤ d.toNat ∧ d.toNat ≤ 62) := by
    intro hd
    simp only [dstForm, if_pos (show d.toNat < 0x40 by omega), decide_eq_true hd, Bool.and_self, if_true] at hform
    simp at hform
  rw [View.activeTo, if_neg hmask]

section
variable {c : Ctl} {d : BitVec 8} {run : View → State → State} {v : View} (s : State) (hd : v.activeTo c d = v.active c)
include hd

theorem whenActive_idle (ha : v.active c = 0) : whenActive c d run v s = s.putSlot v (v.p.afterOther c.ch) :=
  if_pos (hd.trans ha)

theorem whenActive_runs (ha : v.active c ≠ 0) : whenActive c d run v s = run v s :=
  if_neg (by rwa [hd])

end

/-! ### The four transfer operations (R128, R138) -/

theorem memoryWork_pushCmd (s : State) (v : View) (op : Nat) (f : FmtW) : MemoryWork s (s.pushCmd v op f) := .of_same rfl rfl

theorem memoryWork_modQStat (s : State) (team q : Nat) (f : QStat → QStat) : MemoryWork s (s.modQStat team q f) :=
  memoryWork_modTeam s team (fun _ => rfl) (fun _ => rfl)

/-- The four operations differ in the number of their command. -/
theorem exec_transfer {f : FmtW} {i : Instr} {op : Nat}
    (h : i = .copy f ∧ op = 0 ∨ i = .copyh f ∧ op = 1 ∨ i = .copyg f ∧ op = 2 ∨ i = .copyw f ∧ op = 3) (s : State) :
    exec i s = copyIssue op f s := by
  rcases h with ⟨rfl, rfl⟩ | ⟨rfl, rfl⟩ | ⟨rfl, rfl⟩ | ⟨rfl, rfl⟩ <;> rfl

/-- A command queued and counted. -/
theorem State.pushCmd_counted (s : State) (v : View) (op : Nat) (f : FmtW) :
    (s.pushCmd v op f).modQStat v.t.id (f.m.extractLsb' 13 3).toNat (fun x => { x with iss := x.iss + 1 }) =
      { s with
          cmds := s.cmds ++ [{ id := s.nextCmd, core := v.t.core, team := v.t.id, ctx := v.t.ctx, sl := v.sl, op := op
                               qid := (f.m.extractLsb' 13 3).toNat, m := f.m
                               words := quadWords v f.sa ++ quadWords v f.sb ++ quadWords v f.sc
                               rowIdx := 0, fenceMask := 0, status := .queued, trs := []
                               after := (s.cmds.filter fun c => decide (c.team = v.t.id) &&
                                 c.inQueue (f.m.extractLsb' 13 3).toNat).map CopyCmd.id }]
          nextCmd := s.nextCmd + 1
          teams := s.teams.map fun x => if x.id = v.t.id then
            { x with qstats := x.qstats.modify (f.m.extractLsb' 13 3).toNat fun y => { y with iss := y.iss + 1 } } else x } := rfl

section
variable {f : FmtW} {s : State} {v : View} {op : Nat} (hv : s.view = some v) (hc : copyCauses f op v = [])
include hc

theorem copyCauses_destination : v.activeTo f.c f.d = v.active f.c := by
  have hd : f.d = 0 := zeroCauses_nil.mp (by simp only [copyCauses, List.append_eq_nil_iff] at hc; tauto)
  rw [hd, View.activeTo_zero]

include hv

theorem copyIssue_idle (ha : v.active f.c = 0) : copyIssue op f s = .next (s.putSlot v (v.p.afterOther f.c.ch)) :=
  (issue_run hv hc (by simp [ha])).trans (congrArg _ (whenActive_idle s (copyCauses_destination hc) ha))

theorem copyIssue_full (ha : v.active f.c ≠ 0) (hfull : 32 ≤ queueUsed s v.t.core (f.m.extractLsb' 13 3).toNat) :
    copyIssue op f s = .next (s.putSlot v { v.p with stalled := true }) :=
  issue_wait hv hc (Bool.and_eq_true_iff.mpr ⟨decide_eq_true ha, decide_eq_true hfull⟩)

/-- With room in the queue and a release that waits for nothing, the command is put behind the others and counted. -/
theorem copyIssue_queues (ha : v.active f.c ≠ 0) (hroom : queueUsed s v.t.core (f.m.extractLsb' 13 3).toNat < 32)
    (hrel : releaseNeeds s v ((readScalarReg v f.sc.toNat 2).extractLsb' 16 16) 1 = []) :
    copyIssue op f s = .next (((((s.release v ((readScalarReg v f.sc.toNat 2).extractLsb' 16 16) 1).pushCmd v op f).modQStat v.t.id
      (f.m.extractLsb' 13 3).toNat fun x => { x with iss := x.iss + 1 })).putSlot v (v.p.afterOther f.c.ch)) :=
  (issue_run hv hc (Bool.and_eq_false_iff.mpr (.inr (decide_eq_false (by omega))))).trans (congrArg _ ((whenActive_runs s (copyCauses_destination hc) ha).trans
    (if_neg (not_not.mpr hrel))))

end

/-! ### QFENCE (R141) -/

/-- The marker a QFENCE leaves behind the team's commands of the named queues. -/
def State.pushMarker (s : State) (v : View) (mask : BitVec 8) : State :=
  let before := s.cmds.filter fun c => decide (c.team = v.t.id) && decide (c.op ≠ 8) && mask.getLsbD c.qid
  { s with
    cmds := s.cmds ++ [{ id := s.nextCmd, core := v.t.core, team := v.t.id, ctx := v.t.ctx, sl := v.sl, op := 8, qid := 0
                         m := 0, words := [], rowIdx := 0, fenceMask := mask, status := .queued, trs := []
                         after := before.map CopyCmd.id }]
    nextCmd := s.nextCmd + 1 }

theorem memoryWork_pushMarker (s : State) (v : View) (mask : BitVec 8) : MemoryWork s (s.pushMarker v mask) := .of_same rfl rfl

section
variable {f : FmtC} {s : State} {v : View} (hv : s.view = some v) (hc : noNwCauses f.c ++ guardCauses v f.c = [])
  (hf : f.d = 0 ∧ f.sa = 0 ∧ f.sb = 0 ∧ f.rsv = false ∧ f.far = false ∧ f.near = false ∧ f.acq = false ∧ f.rel = false ∧
    f.scope = 0 ∧ f.mask.extractLsb' 8 8 = 0)

include hc hf

/-- Nothing is wrong with a QFENCE whose unused fields are zero. -/
theorem qfence_causes : noNwCauses f.c ++ guardCauses v f.c ++ (if f.d ≠ 0 ∨ f.sa ≠ 0 ∨ f.sb ≠ 0 ∨ f.rsv ∨ f.far ∨ f.near ∨
    f.acq ∨ f.rel ∨ f.scope ≠ 0 ∨ f.mask.extractLsb' 8 8 ≠ 0 then [0x02] else []) = [] := by
  obtain ⟨hd, hsa, hsb, hrsv, hfar, hnear, hacq, hrel, hscope, hmask⟩ := hf
  simp [hc, hd, hsa, hsb, hrsv, hfar, hnear, hacq, hrel, hscope, hmask]

include hv

theorem execQfence_idle (ha : v.active f.c = 0) : execQfence f s = .next (s.putSlot v (v.p.afterOther f.c.ch)) := by
  have hactive : v.activeTo f.c f.d = v.active f.c := by rw [hf.1, View.activeTo_zero]
  exact (issue_run hv (qfence_causes hc hf) (Bool.and_eq_false_iff.mpr (.inl (decide_eq_false (not_not.mpr ha))))).trans
    (congrArg _ (whenActive_idle s hactive ha))

theorem execQfence_full (ha : v.active f.c ≠ 0)
    (hfull : ∃ q, q < 8 ∧ (f.mask.extractLsb' 0 8).getLsbD q = true ∧ 32 ≤ queueUsed s v.t.core q) :
    execQfence f s = .next (s.putSlot v { v.p with stalled := true }) := by
  obtain ⟨q, hq, hm, hused⟩ := hfull
  exact issue_wait hv (qfence_causes hc hf) (Bool.and_eq_true_iff.mpr ⟨decide_eq_true ha, List.any_eq_true.mpr
    ⟨q, List.mem_range.mpr hq, Bool.and_eq_true_iff.mpr ⟨hm, decide_eq_true hused⟩⟩⟩)

/-- With room in the named queues it goes on from their writes performed, or from its marker. -/
theorem execQfence_goesOn (ha : v.active f.c ≠ 0)
    (hroom : ∀ q, q < 8 → (f.mask.extractLsb' 0 8).getLsbD q = true → queueUsed s v.t.core q < 32) :
    execQfence f s = .next ((if (s.cmds.filter fun c => decide (c.team = v.t.id) && decide (c.op ≠ 8) &&
        (f.mask.extractLsb' 0 8).getLsbD c.qid) = [] ∧ coverNeeds s (queueOf v.t.id (f.mask.extractLsb' 0 8)) = []
      then s.settleQueues v.t.id (f.mask.extractLsb' 0 8) else s.pushMarker v (f.mask.extractLsb' 0 8)).putSlot v
        (v.p.afterOther f.c.ch)) := by
  have hactive : v.activeTo f.c f.d = v.active f.c := by rw [hf.1, View.activeTo_zero]
  refine (issue_run hv (qfence_causes hc hf) (Bool.and_eq_false_iff.mpr (.inr (List.any_eq_false.mpr fun q hq hfull => ?_)))).trans
    (congrArg _ (whenActive_runs s hactive ha))
  obtain ⟨hm, hused⟩ := Bool.and_eq_true_iff.mp hfull
  exact absurd (hroom q (List.mem_range.mp hq) hm) (Nat.not_lt.mpr (of_decide_eq_true hused))

end

/-! ### QSTAT (R142) -/

theorem queueState_le (s : State) (team q : Nat) : queueState s team q ≤ 3 := by
  unfold queueState
  extract_lets mine
  split
  · exact le_rfl
  · split
    · exact Nat.le_succ 2
    · split <;> omega

theorem queueWord_eq {s : State} {t : Team} {q : Nat} {x : QStat} (hx : t.qstats[q]? = some x) (hfc : x.fcause < 256)
    (hfr : x.frow < 2 ^ 16) : queueWord s t q = x.iss.toNat * 2 ^ 48 + x.cmp.toNat * 2 ^ 32 +
      min (queueUsed s t.core q) 32 * 2 ^ 26 + queueState s t.id q * 2 ^ 24 + x.fcause * 2 ^ 16 + x.frow := by
  simp only [queueWord, hx, Option.getD_some, Nat.mod_eq_of_lt hfc, Nat.mod_eq_of_lt hfr]

/-- The fields of a word with the layout of R142. -/
theorem statusWord_fields {n iss cmp used st fc fr : Nat}
    (hn : n = iss * 2 ^ 48 + cmp * 2 ^ 32 + used * 2 ^ 26 + st * 2 ^ 24 + fc * 2 ^ 16 + fr) (hiss : iss < 2 ^ 16)
    (hcmp : cmp < 2 ^ 16) (hused : used < 2 ^ 6) (hst : st < 2 ^ 2) (hfc : fc < 2 ^ 8) (hfr : fr < 2 ^ 16) :
    let field (lo len : Nat) := ((BitVec.ofNat 64 n).extractLsb' lo len).toNat
    field 48 16 = iss ∧ field 32 16 = cmp ∧ field 26 6 = used ∧ field 24 2 = st ∧ field 16 8 = fc ∧ field 0 16 = fr := by
  simp only [BitVec.extractLsb'_toNat, BitVec.toNat_ofNat, Nat.shiftRight_eq_div_pow]
  refine ⟨?_, ?_, ?_, ?_, ?_, ?_⟩ <;> omega

theorem queueWord_fields {s : State} {t : Team} {q : Nat} {x : QStat} (hx : t.qstats[q]? = some x) (hfc : x.fcause < 256)
    (hfr : x.frow < 2 ^ 16) :
    let w := BitVec.ofNat 64 (queueWord s t q)
    w.extractLsb' 48 16 = x.iss ∧ w.extractLsb' 32 16 = x.cmp ∧ (w.extractLsb' 26 6).toNat = min (queueUsed s t.core q) 32 ∧
      (w.extractLsb' 24 2).toNat = queueState s t.id q ∧ (w.extractLsb' 16 8).toNat = x.fcause ∧
      (w.extractLsb' 0 16).toNat = x.frow := by
  have hst : queueState s t.id q < 2 ^ 2 := Nat.lt_succ_of_le (queueState_le s t.id q)
  have hused : min (queueUsed s t.core q) 32 < 2 ^ 6 := Nat.lt_of_le_of_lt (min_le_right _ _) (by norm_num)
  obtain ⟨hiss, hcmp, hrest⟩ := statusWord_fields (queueWord_eq (s := s) hx hfc hfr) x.iss.isLt x.cmp.isLt hused hst hfc hfr
  exact ⟨BitVec.eq_of_toNat_eq hiss, BitVec.eq_of_toNat_eq hcmp, hrest⟩

/-- Settles O42: the four operations, QFENCE and QSTAT by the answers of their issue, the status word by its fields. -/
theorem copyCommandsComplete : Obligations.CopyCommandsComplete := by
  unfold Obligations.CopyCommandsComplete
  refine ⟨fun f s v i op hv hc hi => ⟨fun ha hroom hrel => ?queued, fun ha hfull => ?_, fun ha => ?_⟩,
    fun f s v hv hc hd hsa hsb hrsv hfar hnear hacq hrel hscope hmask => ?fence, fun f s v hv hcount hc => ?status,
    fun s t q x hx hfc hfr => queueWord_fields hx hfc hfr⟩
  case queued =>
    rw [exec_transfer hi]
    have hwork := ((memoryWork_release s v ((readScalarReg v f.sc.toNat 2).extractLsb' 16 16) 1).trans
      (memoryWork_pushCmd _ v op f)).trans (memoryWork_modQStat _ v.t.id (f.m.extractLsb' 13 3).toNat
        fun x => { x with iss := x.iss + 1 })
    have hmoves := (hwork.holds (State.holds_of_view hv)).movesOn (p := v.p) f.c.ch rfl
    have hqueued := copyIssue_queues hv hc ha hroom hrel
    rw [State.pushCmd_counted] at hmoves hqueued
    exact ⟨_, hqueued, hmoves, (engineFrame_release s v _ 1).cmds⟩
  · rw [exec_transfer hi, copyIssue_full hv hc ha hfull]
  · rw [exec_transfer hi]
    exact ⟨_, copyIssue_idle hv hc ha, (State.holds_of_view hv).movesOn f.c.ch rfl⟩
  case fence =>
    have hf : f.d = 0 ∧ f.sa = 0 ∧ f.sb = 0 ∧ f.rsv = false ∧ f.far = false ∧ f.near = false ∧ f.acq = false ∧ f.rel = false ∧
        f.scope = 0 ∧ f.mask.extractLsb' 8 8 = 0 := ⟨hd, hsa, hsb, hrsv, hfar, hnear, hacq, hrel, hscope, hmask⟩
    have hholds := State.holds_of_view hv
    refine ⟨fun ha => ⟨_, execQfence_idle hv hc hf ha, hholds.movesOn f.c.ch rfl⟩, execQfence_full hv hc hf, fun ha hroom =>
      ⟨fun hb hn => ⟨_, (execQfence_goesOn hv hc hf ha hroom).trans (by rw [if_pos ⟨hb, hn⟩]), ?_⟩,
        fun h => ⟨_, (execQfence_goesOn hv hc hf ha hroom).trans (by rw [if_neg (by tauto)]), ?_⟩⟩⟩
    · exact ((memoryWork_perform s 6 _).holds hholds).movesOn f.c.ch rfl
    · exact ((memoryWork_pushMarker s v _).holds hholds).movesOn f.c.ch rfl
  case status =>
    have hholds := State.holds_of_view hv
    have hactive := View.activeTo_late (List.append_eq_nil_iff.mp hc).2 f.c
    have hrun : exec (.qstat f) s = _ := issue_run hv hc (by simpa [View.full] using hcount)
    refine ⟨_, hrun, ?_⟩
    by_cases ha : v.active f.c = 0
    · rw [if_pos ha, whenActive_idle s hactive ha]
      exact hholds.movesOn f.c.ch rfl
    · rw [if_neg ha, whenActive_runs s hactive ha]
      exact hholds.movesOn f.c.ch rfl

end Sys2Proof.Machine
end

section

/-! PROOFS. What a copy queue does with its commands: their checks, markers, completion (O43). -/

namespace Sys2Proof.Machine

/-! ### Commands of a queue (R125, R130) -/

theorem frontCmd_spec {s : State} {core q team : Nat} {c : CopyCmd} (h : frontCmd s core q team = some c) :
    c ∈ s.cmds ∧ c.team = team ∧ c.qid = q ∧ c.op ≠ 8 := by
  have hfields := List.find?_some h
  simp only [Bool.and_eq_true, decide_eq_true_eq] at hfields
  obtain ⟨⟨⟨-, hteam⟩, hqid⟩, hop⟩ := hfields
  exact ⟨List.mem_of_find?_eq_some h, hteam, hqid, hop⟩

theorem placedTeam_spec {s : State} {id : Nat} {t : Team} (h : placedTeam s id = some t) : s.team? id = some t ∧ t.id = id := by
  have ht : s.team? id = some t := (Option.filter_eq_some_iff.mp h).1
  exact ⟨ht, State.team?_id ht⟩

theorem find?_cmd_id {l : List CopyCmd} {c : CopyCmd} (hc : c ∈ l) (hid : ∀ x ∈ l, x.id = c.id → x = c) :
    l.find? (fun x => x.id = c.id) = some c := by
  have hsome : (l.find? fun x => x.id = c.id).isSome = true := List.find?_isSome.mpr ⟨c, hc, by simp⟩
  obtain ⟨x, hx⟩ := Option.isSome_iff_exists.mp hsome
  have hx' : x.id = c.id := by simpa using List.find?_some hx
  rw [hx, hid x (List.mem_of_find?_eq_some hx) hx']

/-- A changed command is where it was. -/
theorem State.mem_modCmd {s : State} {c : CopyCmd} (hc : c ∈ s.cmds) (f : CopyCmd → CopyCmd) : f c ∈ (s.modCmd c.id f).cmds :=
  List.mem_map.mpr ⟨c, hc, if_pos rfl⟩

theorem State.team?_modTeam_self (s : State) (id : Nat) {f : Team → Team} (hf : ∀ t, (f t).id = t.id) :
    (s.modTeam id f).team? id = (s.team? id).map f := by
  rw [State.team?_modTeam s id id hf]
  cases ht : s.team? id with
  | none => rfl
  | some t => rw [Option.map_some, Option.map_some, if_pos (State.team?_id ht)]

theorem State.team?_modQStat (s : State) (team q : Nat) (f : QStat → QStat) :
    (s.modQStat team q f).team? team = (s.team? team).map fun t => { t with qstats := t.qstats.modify q f } :=
  s.team?_modTeam_self team fun _ => rfl

/-! ### Markers (R141) -/

/-- The markers whose commands have all ended. -/
def State.endedMarkers (s : State) : List CopyCmd :=
  s.cmds.filter fun c => decide (c.op = 8) && !c.after.any (s.cmds.map CopyCmd.id).contains

/-- A marker leaves its queues, and what it ordered is performed, where nothing has to be asked for first. -/
def State.sweepMarker (s : State) (c : CopyCmd) : State :=
  let ns := coverNeeds s (queueOf c.team c.fenceMask)
  if ns ≠ [] then s.request ns
  else { s with cmds := s.cmds.filter fun x => decide (x.id ≠ c.id) }.settleQueues c.team c.fenceMask

theorem State.sweepMarkers_eq (s : State) : s.sweepMarkers = s.endedMarkers.foldl State.sweepMarker s := rfl

theorem State.sweepMarkers_of_none {s : State} (h : ∀ x ∈ s.cmds, x.op = 8 → ∃ i ∈ x.after, ∃ y ∈ s.cmds, y.id = i) :
    s.sweepMarkers = s := by
  have hnone : s.endedMarkers = [] := by
    refine List.filter_eq_nil_iff.mpr fun x hx hend => ?_
    simp only [Bool.and_eq_true, decide_eq_true_eq, Bool.not_eq_true', List.any_eq_false] at hend
    obtain ⟨i, hi, y, hy, rfl⟩ := h x hx hend.1
    exact hend.2 _ hi (List.contains_iff_mem.mpr (List.mem_map_of_mem hy))
  rw [State.sweepMarkers_eq, hnone, List.foldl_nil]

/-- A marker's leaving drops no other command and changes no count. -/
theorem State.sweepMarker_spec (s : State) (c : CopyCmd) : (s.sweepMarker c).cmds ⊆ s.cmds ∧
    (∀ x ∈ s.cmds, x.id ≠ c.id → x ∈ (s.sweepMarker c).cmds) ∧
    ∀ id, ((s.sweepMarker c).team? id).map Team.qstats = (s.team? id).map Team.qstats := by
  unfold State.sweepMarker
  extract_lets ns
  split
  · have hframe := engineFrame_request s ns
    exact ⟨fun x hx => hframe.cmds ▸ hx, fun x hx _ => hframe.cmds.symm ▸ hx, hframe.qstats⟩
  · have hframe := engineFrame_perform { s with cmds := s.cmds.filter fun x => decide (x.id ≠ c.id) } 6
      (queueOf c.team c.fenceMask)
    refine ⟨fun x hx => ?_, fun x hx hid => ?_, hframe.qstats⟩
    · rw [State.settleQueues, hframe.cmds] at hx
      exact (List.mem_filter.mp hx).1
    · rw [State.settleQueues, hframe.cmds]
      exact List.mem_filter.mpr ⟨hx, decide_eq_true hid⟩

theorem State.sweepMarkers_spec (s : State) : s.sweepMarkers.cmds ⊆ s.cmds ∧
    (∀ x ∈ s.cmds, (∀ m ∈ s.endedMarkers, x.id ≠ m.id) → x ∈ s.sweepMarkers.cmds) ∧
    ∀ id, (s.sweepMarkers.team? id).map Team.qstats = (s.team? id).map Team.qstats := by
  rw [State.sweepMarkers_eq]
  generalize s.endedMarkers = l
  induction l generalizing s with
  | nil => exact ⟨fun _ h => h, fun _ h _ => h, fun _ => rfl⟩
  | cons m l ih =>
    obtain ⟨hsub, hkept, hq⟩ := s.sweepMarker_spec m
    obtain ⟨hsub', hkept', hq'⟩ := ih (s.sweepMarker m)
    exact ⟨fun x hx => hsub (hsub' hx), fun x hx hne => hkept' x (hkept x hx (hne m List.mem_cons_self)) fun y hy =>
      hne y (List.mem_cons_of_mem m hy), fun id => (hq' id).trans (hq id)⟩

/-! ### A command leaves its queue (R142) -/

/-- The command taken out and counted, its markers still there. -/
def State.takeCmd (s : State) (c : CopyCmd) : State :=
  { s with cmds := s.cmds.filter fun x => decide (x.id ≠ c.id) }.modQStat c.team c.qid fun x => { x with cmp := x.cmp + 1 }

theorem State.mem_takeCmd {s : State} {c x : CopyCmd} : x ∈ (s.takeCmd c).cmds ↔ x ∈ s.cmds ∧ x.id ≠ c.id :=
  List.mem_filter.trans (and_congr_right' decide_eq_true_iff)

theorem State.endCmd_subset {s : State} {c x : CopyCmd} (hx : x ∈ (s.endCmd c).cmds) : x.id ≠ c.id ∧ x ∈ s.cmds :=
  (State.mem_takeCmd.mp ((s.takeCmd c).sweepMarkers_spec.1 hx)).symm

/-- No other command but markers leaves with it. -/
theorem State.mem_endCmd {s : State} {c x : CopyCmd} (hids : ∀ x ∈ s.cmds, ∀ y ∈ s.cmds, x.id = y.id → x = y) (hx : x ∈ s.cmds)
    (hne : x.id ≠ c.id) (hop : x.op ≠ 8) : x ∈ (s.endCmd c).cmds := by
  refine (s.takeCmd c).sweepMarkers_spec.2.1 x (State.mem_takeCmd.mpr ⟨hx, hne⟩) fun m hm hid => hop ?_
  obtain ⟨hmem, hmark⟩ := List.mem_filter.mp hm
  rw [hids x hx m (State.mem_takeCmd.mp hmem).1 hid]
  exact of_decide_eq_true (Bool.and_eq_true_iff.mp hmark).1

/-- Its team's count of completed commands of the queue rises by one. -/
theorem State.endCmd_counts {s : State} {c : CopyCmd} {t : Team} (ht : s.team? c.team = some t) :
    ((s.endCmd c).team? c.team).map (fun x => (x.qstats[c.qid]?).map QStat.cmp) =
      some ((t.qstats[c.qid]?).map fun x => x.cmp + 1) := by
  have hswept : ((s.endCmd c).team? c.team).map Team.qstats = ((s.takeCmd c).team? c.team).map Team.qstats :=
    (s.takeCmd c).sweepMarkers_spec.2.2 c.team
  have htaken : (s.takeCmd c).team? c.team =
      some { t with qstats := t.qstats.modify c.qid fun x => { x with cmp := x.cmp + 1 } } := by
    rw [State.takeCmd, State.team?_modQStat]
    exact congrArg _ ht
  have hcmp (x : Option Team) : x.map (fun y => (y.qstats[c.qid]?).map QStat.cmp) =
      (x.map Team.qstats).map fun l => (l[c.qid]?).map QStat.cmp := by rw [Option.map_map]; rfl
  rw [hcmp, hswept, htaken, Option.map_some, Option.map_some, List.getElem?_modify_eq]
  cases t.qstats[c.qid]? <;> rfl

/-! ### The check of a command at the front (R130, R144) -/

/-- A copy fault hands over a record of its command when the command and its queue's status have changed. -/
theorem State.copyFault_eq (s : State) (t : Team) (c : CopyCmd) (row off cause sub : Nat) (addr : Dword) :
    ∃ (s2 : State) (r : FRec), s.copyFault t c row off cause sub false addr = s2.addRec r false ∧
      s2.cmds = (s.modCmd c.id fun c => { c with status := .halted, trs := [] }).cmds ∧ s2.recs = s.recs ∧ s2.ctxs = s.ctxs ∧
      r.ctx = t.ctx ∧ r.cls = .copy ∧ r.cause = cause ∧ r.cmd = some c.id ∧ r.qid = c.qid :=
  ⟨_, _, rfl, rfl, rfl, rfl, rfl, rfl, rfl, rfl, rfl⟩

/-- Of a context that has not ended it halts the command and says so in a record. -/
theorem State.copyFault_spec {s : State} {t : Team} {c : CopyCmd} (hc : c ∈ s.cmds)
    (hctx : (s.ctx? t.ctx).map Context.ended ≠ some true) (row off cause sub : Nat) (addr : Dword) :
    ∃ r c', c' ∈ (s.copyFault t c row off cause sub false addr).cmds ∧ c'.id = c.id ∧ c'.status = .halted ∧
      (s.copyFault t c row off cause sub false addr).recs = s.recs ++ [r] ∧ r.cls = .copy ∧ r.cause = cause ∧
      r.cmd = some c.id ∧ r.qid = c.qid := by
  obtain ⟨s2, r, heq, hcmds, hrecs, hctxs, hr, hfields⟩ := s.copyFault_eq t c row off cause sub addr
  have hlive : (s2.ctx? r.ctx).map Context.ended ≠ some true := by rwa [State.ctx?, hctxs, hr]
  refine ⟨{ r with id := s2.nextRec, toOs := s2.recToOs r false, cycle := s2.cycle }, { c with status := .halted, trs := [] },
    ?_, rfl, rfl, ?_, hfields⟩
  · rw [heq, State.addRec_frame]
    exact hcmds ▸ State.mem_modCmd hc _
  · rw [heq, State.addRec_recs false hlive, hrecs]

section
variable {s : State} {core q team : Nat} {c : CopyCmd} {t : Team} (hfront : frontCmd s core q team = some c)
  (ht : placedTeam s team = some t)
include hfront ht

theorem execCopyCommandStart_checks (hst : c.status = .queued) (hafter : ∀ i ∈ c.after, ∀ x ∈ s.cmds, x.id ≠ i)
    (hmark : ∀ x ∈ s.cmds, x.op = 8 → ∃ i ∈ x.after, ∃ y ∈ s.cmds, y.id = i)
    (hns : coverNeeds s (queueOf team (1 <<< q)) = []) : execCopyCommandStart core q team s =
      if copyDescOk s t c then
        .next ((s.settleQueues team (1 <<< q)).modCmd c.id fun c => { c with status := .active 0 0 })
      else .next ((s.settleQueues team (1 <<< q)).copyFault t c 0 0 0x09 0 false 0) := by
  have hwaits : (c.after.any fun i => s.cmds.any fun x => x.id = i) = false :=
    List.any_eq_false.mpr fun i hi => by simpa using hafter i hi
  unfold execCopyCommandStart
  simp only [State.sweepMarkers_of_none hmark, hfront, ht, hst, hwaits, hns]
  rfl

/-! ### Completion (R139) -/

section
variable {row off : Nat} (hst : c.status = .active row off) (hrows : c.rowCount ≤ row)
include hst hrows

theorem execCopyCompletion_silent (ha : c.caddr = 0) : execCopyCompletion core q team s = .next (s.endCmd c) := by
  unfold execCopyCompletion
  simp only [hfront, ht, hst, if_neg (Nat.not_lt.mpr hrows), if_pos ha]

theorem execCopyCompletion_adds {s1 : State} {p : CtrPlace} (ha : c.caddr ≠ 0)
    (hwalk : c.m.getLsbD 1 = false → xlateNeeds s c.core c.ctx c.caddr true = []) (hctr : copyCounter s t c = (s1, .ok (.here p)))
    (hneeds : ctrNeeds s1 true p = []) (hclean : ctrPoisoned s1 p = false)
    (hcover : 4 ≤ c.sco → coverNeeds s1 (coveredBy (.queue t q) fun w => decide (w.seat.who = (Seat.queue t q).who)) = []) :
    execCopyCompletion core q team s =
      .next (((((if c.m.getLsbD 1 then s1 else s1.markCtr c.core c.ctx c.caddr).releaseWrites (.queue t q)
        (fun w => decide (w.seat.who = (Seat.queue t q).who)) c.sco).recall none (targetLines p.target)).ctrAdd p
        (BitVec.ofNat 64 c.val)).1.endCmd c) := by
  have hwalks : (if c.m.getLsbD 1 then [] else xlateNeeds s c.core c.ctx c.caddr true) = [] := by
    split
    · rfl
    · next h => exact hwalk (by simpa using h)
  have hns : ctrNeeds s1 true p ++ (if 4 ≤ c.sco then
      coverNeeds s1 (coveredBy (.queue t q) fun w => decide (w.seat.who = (Seat.queue t q).who)) else []) = [] := by
    rw [hneeds, List.nil_append]
    split
    · next h => exact hcover h
    · rfl
  unfold execCopyCompletion
  simp only [hfront, ht, hst, if_neg (Nat.not_lt.mpr hrows), if_neg ha, hwalks, hctr, hns, hclean, ne_eq, not_true_eq_false,
    if_false, Bool.false_eq_true]

end
end

end Sys2Proof.Machine
end

section

/-! PROOFS. A transfer of a copy command: its source and destination resolved, its bytes moved (O43). -/

namespace Sys2Proof.Machine

/-! ### What resolving addresses leaves of the commands -/

/-- A command but for the translations it holds and the index of its row. -/
def CopyCmd.still (c : CopyCmd) : CopyCmd := { c with trs := [], rowIdx := 0 }

/-- The same commands, but for the translations they hold and the indexes of their rows. -/
def SameCmds (s t : State) : Prop := t.cmds.map CopyCmd.still = s.cmds.map CopyCmd.still

theorem SameCmds.refl (s : State) : SameCmds s s := rfl

theorem SameCmds.trans {s t u : State} (h : SameCmds s t) (h' : SameCmds t u) : SameCmds s u := Eq.trans h' h

theorem EngineFrame.sameCmds {s t : State} (h : EngineFrame s t) : SameCmds s t := by
  rw [SameCmds, h.cmds]

theorem sameCmds_modCmd (s : State) (id : Nat) {f : CopyCmd → CopyCmd} (hf : ∀ c, (f c).still = c.still) :
    SameCmds s (s.modCmd id f) := by
  rw [SameCmds, State.modCmd, List.map_map]
  refine List.map_congr_left fun c _ => ?_
  simp only [Function.comp_apply]
  split
  · exact hf c
  · rfl

/-- A command is found again. -/
theorem SameCmds.find? {s t : State} (h : SameCmds s t) {id : Nat} {c : CopyCmd} (hc : s.cmds.find? (fun x => x.id = id) = some c) :
    ∃ c', t.cmds.find? (fun x => x.id = id) = some c' ∧ c'.still = c.still := by
  have hfind (x : State) : (x.cmds.find? fun x => x.id = id).map CopyCmd.still =
      (x.cmds.map CopyCmd.still).find? fun x => x.id = id := by rw [List.find?_map]; rfl
  have hsame : (t.cmds.find? fun x => x.id = id).map CopyCmd.still = some c.still := by
    rw [hfind, h, ← hfind, hc, Option.map_some]
  exact Option.map_eq_some_iff.mp hsame

theorem sameCmds_copyPoint (s : State) (t : Team) (c : CopyCmd) (dst : Bool) (spc : Nat) (a : Dword) (n : Nat) (k : Access) :
    SameCmds s (copyPoint s t c dst spc a n k).1 := by
  unfold copyPoint
  have hglob := engineFrame_globTarget s c.core c.ctx a n k
  extract_lets
  split
  · exact .refl s
  · split
    · extract_lets
      split <;> exact .refl s
    · split
      · extract_lets
        exact (hglob.of_eq ‹_›).sameCmds.trans (sameCmds_modCmd _ _ fun _ => rfl)
      · exact hglob.sameCmds

theorem sameCmds_copyPieces (t : Team) (dst : Bool) (spc : Nat) (k : Access) (id : Nat) (l : List (Dword × Nat)) (s : State) :
    SameCmds s (copyPieces t dst spc k id l s).1 := by
  induction l generalizing s with
  | nil => exact .refl s
  | cons p l ih =>
    unfold copyPieces
    split
    · exact .refl s
    · next c _ =>
      have hpoint := sameCmds_copyPoint s t c dst spc p.1 p.2 k
      split
      · next h => rw [h] at hpoint; exact hpoint
      · next s1 tg h =>
        rw [h] at hpoint
        have hrest := hpoint.trans (ih s1)
        split
        · next h' => rw [h'] at hrest; exact hrest
        · next h' => rw [h'] at hrest; exact hrest

theorem sameCmds_copySource (s : State) (t : Team) (c : CopyCmd) (row off len : Nat) :
    SameCmds s (copySource s t c row off len).1 := by
  unfold copySource
  extract_lets some'
  split
  · exact .refl s
  · split
    · exact .refl s
    · exact sameCmds_copyPieces t false c.sspc .copySrc c.id _ s

/-! ### Going on past a transfer -/

/-- The status of a command past a transfer of `len` bytes. -/
def CopyCmd.past (c : CopyCmd) (row off len : Nat) : CmdStatus :=
  if off + len < c.rowLen then .active row (off + len) else .active (row + 1) 0

theorem State.advanceCmd_eq (s : State) (t : Team) (c : CopyCmd) (row off len : Nat) : ∃ keep : CopyCmd → List HeldTr,
    s.advanceCmd t c row off len = s.modCmd c.id fun x => { x with status := c.past row off len, trs := keep x } := by
  unfold State.advanceCmd CopyCmd.past
  by_cases h : off + len < c.rowLen
  · simp only [if_pos h]
    exact ⟨_, rfl⟩
  · simp only [if_neg h]
    exact ⟨_, rfl⟩

/-! ### The bytes of a transfer -/

/-- The bytes a transfer reads, a zero where it has no source. -/
def moveData (s : State) (r : Seat) (src : List (Option Piece)) : List Byte :=
  src.flatMap fun x => x.elim [0] fun p => readTarget s r p.t p.n

/-- A piece in this package is not asked for. -/
theorem pieceRemote_local {p : Piece} (h : ∀ pkg va, p.t ≠ .remote pkg va) (s : State) (who : Agent) (kind : Nat) (data : List Byte)
    (i : Nat) : pieceRemote s who kind data i p = (s, some (.ok [])) := by
  obtain ⟨t, n, a⟩ := p
  cases t with
  | remote pkg va => exact absurd rfl (h pkg va)
  | _ => rfl

theorem pieceBytes_local {p : Piece} (h : ∀ pkg va, p.t ≠ .remote pkg va) (s : State) (r : Seat) (i : Nat) :
    pieceBytes s r i p = readTarget s r p.t p.n := by
  obtain ⟨t, n, a⟩ := p
  cases t with
  | remote pkg va => exact absurd rfl (h pkg va)
  | _ => rfl

/-- A fold that only notes an answer for each piece. -/
theorem foldl_noted {α β : Type} {f : State × List β → α → State × List β} {y : β} {l : List α}
    (hf : ∀ a, ∀ x ∈ l, f a x = (a.1, a.2 ++ [y])) (a : State × List β) : l.foldl f a = (a.1, a.2 ++ l.map fun _ => y) := by
  induction l generalizing a with
  | nil => simp
  | cons x l ih =>
    rw [List.foldl_cons, hf a x List.mem_cons_self, ih fun a x hx => hf a x (List.mem_cons_of_mem _ hx)]
    simp

/-- A fold that gathers bytes and counts pieces. -/
theorem foldl_gathered {f : List Byte × Nat → Option Piece → List Byte × Nat} {g : Piece → List Byte} {l : List (Option Piece)}
    (h0 : ∀ a, f a none = (a.1 ++ [0], a.2)) (hf : ∀ a, ∀ p ∈ l.filterMap id, f a (some p) = (a.1 ++ g p, a.2 + 1))
    (a : List Byte × Nat) : l.foldl f a = (a.1 ++ l.flatMap (fun x => x.elim [0] g), a.2 + (l.filterMap id).length) := by
  induction l generalizing a with
  | nil => simp
  | cons x l ih =>
    have hrest : ∀ a, ∀ p ∈ l.filterMap id, f a (some p) = (a.1 ++ g p, a.2 + 1) := fun a p hp => hf a p (by
      cases x <;> simp_all)
    cases x with
    | none => rw [List.foldl_cons, h0, ih hrest]; simp
    | some p => rw [List.foldl_cons, hf a p (by simp), ih hrest]; simp; omega

/-- What a transfer changes before it writes: near lines, decoded lines and what is metered. -/
def ReadFrame (s s' : State) : Prop := s' = { s with near := s'.near, decoded := s'.decoded, metered := s'.metered }

theorem ReadFrame.trans {s s' s'' : State} (h : ReadFrame s s') (h' : ReadFrame s' s'') : ReadFrame s s'' := by
  unfold ReadFrame at h h' ⊢
  rw [h', h]

theorem ReadFrame.foldl {α : Type} {f : State → α → State} (h : ∀ s x, ReadFrame s (f s x)) (l : List α) (s : State) :
    ReadFrame s (l.foldl f s) := by
  induction l generalizing s with
  | nil => rfl
  | cons x l ih => exact (h s x).trans (ih (f s x))

theorem readFrame_fillFor (s : State) (seat : Seat) (t : Target) (n : Nat) : ReadFrame s (s.fillFor seat t n) := by
  cases t <;> rfl

theorem ReadFrame.leavesPackage {s s' : State} (h : ReadFrame s s') (t : Target) : leavesPackage s' t = leavesPackage s t := by
  rw [h]
  rfl

theorem readTarget_recall (s : State) (keep : Option Nat) (lines : List Nat) (r : Seat) (t : Target) (n : Nat) :
    readTarget (s.recall keep lines) r t n = readTarget s r t n := rfl

/-- With no reduction of the core resting and none late, making way for the pieces only recalls near lines. -/
theorem foldl_recalled {core : Nat} (ps : List Piece) {s : State} (hc : ∀ e ∈ s.comb, e.core ≠ core) (hl : s.lateReds = []) :
    let s' := ps.foldl (fun s p => (s.flushFor core p.t p.n).recall (some core) (readLines s p.n p.t)) s
    ReadFrame s s' ∧ ∀ r t n, readTarget s' r t n = readTarget s r t n := by
  induction ps generalizing s with
  | nil => exact ⟨rfl, fun _ _ _ => rfl⟩
  | cons p ps ih =>
    obtain ⟨hframe, hread⟩ := ih (s := s.recall (some core) (readLines s p.n p.t)) hc hl
    have hstep : ReadFrame s (s.recall (some core) (readLines s p.n p.t)) := rfl
    simp only [List.foldl_cons, State.flushFor_of_none p.t p.n hc hl]
    exact ⟨hstep.trans hframe, fun r t n => (hread r t n).trans (readTarget_recall s _ _ r t n)⟩

/-- A transfer that waits for nothing and meets no error writes its bytes and moves its command on. -/
theorem copyMove_ready {s : State} {t : Team} {c : CopyCmd} (row off len : Nat) {src : List (Option Piece)} {d : Piece}
    (hlocal : ∀ p ∈ d :: src.filterMap id, ∀ pkg va, p.t ≠ .remote pkg va) (hread : pieceNeeds s false (src.filterMap id) = [])
    (hwrite : pieceNeeds s true [d] = []) (hclean : ∀ p ∈ src.filterMap id, spanPoisoned s p.n p.t = false)
    (hcomb : ∀ e ∈ s.comb, e.core ≠ c.core) (hlate : s.lateReds = []) (hstay : leavesPackage s d.t = false) :
    ∃ s', ReadFrame s s' ∧ copyMove s t c row off len src d =
      ((copyWrite s' t c d (if c.op = 0 then copyElems c (moveData s (.queue t c.qid) src)
        else moveData s (.queue t c.qid) src)).advanceCmd t c row off len).clearRemote (Seat.queue t c.qid).who := by
  obtain ⟨hrecalled, hsame⟩ := foldl_recalled (src.filterMap id) hcomb hlate
  have htouch : ((src.filterMap id ++ [d]).flatMap fun p => touchNeeds s c.core p.t p.n) = [] :=
    List.flatMap_eq_nil_iff.mpr fun p _ => touchNeeds_of_none hcomb hlate p.t p.n
  unfold copyMove
  extract_lets seat ps ns metered
  have hns : ns = [] := by
    dsimp only [ns]
    rw [hread, hwrite, htouch]
    rfl
  have hnoted (a : State × List (Option (Except MemFault (List Byte)))) (p : Piece × Nat) (hp : p ∈ ps.zipIdx) :
      (match pieceRemote a.1 seat.who 0 [] p.2 p.1 with
        | (s', x) => (s', a.2 ++ [x])) = (a.1, a.2 ++ [some (.ok [])]) := by
    have hmem : p.1 ∈ ps := List.fst_mem_of_mem_zipIdx hp
    rw [pieceRemote_local (hlocal p.1 (List.mem_cons_of_mem d hmem))]
  rw [if_neg (not_not.mpr hns), foldl_noted hnoted]
  dsimp only
  generalize hs2 : ps.foldl (fun s p => (s.flushFor c.core p.t p.n).recall (some c.core) (readLines s p.n p.t)) s = s2
  rw [hs2] at hrecalled hsame
  have hfilled := ReadFrame.foldl (fun s (p : Piece) => readFrame_fillFor s seat p.t p.n) ps s2
  generalize ps.foldl (fun s p => s.fillFor seat p.t p.n) s2 = s3 at hfilled ⊢
  have hready : ReadFrame s s3 := hrecalled.trans hfilled
  have hmetered (k : State → State) : metered s3 k = k (s3.meterDone (.copy seat.who)) := by
    dsimp only [metered]
    rw [if_neg (by rw [hready.leavesPackage, hstay]; exact Bool.false_ne_true)]
  clear_value metered
  refine ⟨s3.meterDone (.copy seat.who), hready.trans rfl, ?_⟩
  have hanswers (x : Option (Except MemFault (List Byte))) (hx : x ∈ ps.zipIdx.map fun _ => some (.ok [])) :
      x = some (.ok []) := by
    obtain ⟨_, _, rfl⟩ := List.mem_map.mp hx
    rfl
  have hall : (ps.zipIdx.map fun _ => some (Except.ok (ε := MemFault) ([] : List Byte))).any Option.isNone = false :=
    List.any_eq_false.mpr fun x hx => by rw [hanswers x hx]; exact Bool.false_ne_true
  have hgood : (ps.any fun p => spanPoisoned s p.n p.t) = false :=
    List.any_eq_false.mpr fun p hp => by rw [hclean p hp]; exact Bool.false_ne_true
  rw [List.nil_append, List.findSome?_eq_none_iff.mpr fun x hx => by rw [hanswers x hx]]
  dsimp only
  rw [hall, hgood, if_neg Bool.false_ne_true, if_neg Bool.false_ne_true,
    foldl_gathered (g := fun p => readTarget s seat p.t p.n) (fun _ => rfl) fun a p hp => ?gather]
  case gather =>
    dsimp only
    rw [pieceBytes_local (hlocal p (List.mem_cons_of_mem d hp)), hsame]
  split
  · next pkg va h => exact absurd h (hlocal d List.mem_cons_self pkg va)
  · rw [hmetered]
    rfl

end Sys2Proof.Machine
end

section

/-! PROOFS. The writes of a copy transfer, and a transfer as a whole (O43). -/

namespace Sys2Proof.Machine

/-! ### The writes a transfer leaves (R131, R314) -/

/-- A copy queue shares the narrowest scope with no agent. -/
theorem joinScope_queue (t : Team) (q : Nat) (r : Seat) : joinScope (Seat.queue t q) r ≠ 0 := by
  unfold joinScope
  split
  · decide
  · decide
  · split <;> decide
  · decide
  · decide
  · decide
  · split
    · decide
    · split <;> decide
  · simp only [Seat.queue, agentOfTeam, agentIsSlot, Bool.not_true, Bool.false_and, Bool.false_eq_true, if_false]
    grind

/-- Writes sent one after the other stand behind the others, one for each unit. -/
theorem addWrites_appended (seat : Seat) (stream : Option (BitVec 4)) (deps : List Nat) (us : List (List (Loc × Byte))) (s : State) :
    ∃ new, (us.foldl (fun s u => s.addWrite seat stream none deps u) s).writes = s.writes ++ new ∧ new.map PWrite.bytes = us ∧
      ∀ w ∈ new, w.seat = seat ∧ w.stream = stream ∧ w.level = 0 ∧ w.deps = deps := by
  induction us generalizing s with
  | nil => exact ⟨[], (List.append_nil _).symm, rfl, fun _ h => absurd h List.not_mem_nil⟩
  | cons u us ih =>
    obtain ⟨gs, h, -⟩ := s.addWrite_eq seat stream none deps u
    obtain ⟨new, hnew, hbytes, hall⟩ := ih (s.addWrite seat stream none deps u)
    refine ⟨{ id := s.nextWrite, seat := seat, stream := stream, lane := none, bytes := u, level := 0, deps := deps } :: new, ?_,
      congrArg (u :: ·) hbytes, List.forall_mem_cons.mpr ⟨⟨rfl, rfl, rfl, rfl⟩, hall⟩⟩
    rw [List.foldl_cons, hnew, h, List.append_assoc]
    rfl

theorem SendFrame.finalByte {s t : State} (h : SendFrame s t) {new : List PWrite} (hw : t.writes = s.writes ++ new) (l : Loc) :
    finalByte t l = (new.map PWrite.bytes).foldl (fun b u => overwrite u l b) (Machine.finalByte s l) := by
  rw [Machine.finalByte, hw, List.foldl_append, h.locBase, List.foldl_map]
  rfl

theorem ReadFrame.finalByte {s s' : State} (h : ReadFrame s s') (l : Loc) : finalByte s' l = Machine.finalByte s l := by
  rw [h]
  rfl

theorem ReadFrame.seenByte {s s' : State} (h : ReadFrame s s') (r : Seat) (l : Loc) : seenByte s' r l = Machine.seenByte s r l := by
  rw [h]
  rfl

/-- With no reduction of the core resting and none late, a transfer's bytes are left as the queue's writes to its destination,
which no agent sees yet. -/
theorem copyWrite_spec {s : State} (t : Team) {c : CopyCmd} (d : Piece) (data : List Byte) (hcomb : ∀ e ∈ s.comb, e.core ≠ c.core)
    (hlate : s.lateReds = []) : SendFrame s (copyWrite s t c d data) ∧
      (∃ new, (copyWrite s t c d data).writes = s.writes ++ new ∧
        ∀ w ∈ new, w.seat = .queue t c.qid ∧ w.stream = none ∧ w.level = 0 ∧ w.deps = []) ∧
      (∀ l, finalByte (copyWrite s t c d data) l = (storedAt d.t data l).getD (finalByte s l)) ∧
      ∀ r l, seenByte (copyWrite s t c d data) r l = seenByte s r l := by
  have hdef : copyWrite s t c d data = (alignedUnits d.t data).foldl (fun s u => s.addWrite (.queue t c.qid) none none [] u)
      (s.recall (some c.core) (targetLines d.t)) := by
    rw [copyWrite, State.flushFor_of_none d.t d.n hcomb hlate]
  obtain ⟨hsend, hseen⟩ := addWrites_spec (.queue t c.qid) none [] (alignedUnits d.t data)
    (s.recall (some c.core) (targetLines d.t))
  obtain ⟨new, hnew, hbytes, hall⟩ := addWrites_appended (.queue t c.qid) none [] (alignedUnits d.t data)
    (s.recall (some c.core) (targetLines d.t))
  have hnodup : ((alignedUnits d.t data).flatten.map Prod.fst).Nodup := by
    rw [flatten_alignedUnits]
    exact targetBytes_nodup d.t data
  rw [hdef]
  refine ⟨(sendFrame_recall s _ _).trans hsend, ⟨new, hnew, hall⟩, fun l => ?_, fun r l => ?_⟩
  · rw [hsend.finalByte hnew, hbytes, foldl_overwrite hnodup, flatten_alignedUnits, overwrite_targetBytes]
    rfl
  · rw [hseen, if_neg (joinScope_queue t c.qid r), seenByte_recall]

/-- What a transfer of a command leaves in `u` of what `s` held: the bytes `data` as its queue's writes to `dst`, which no agent
sees yet, and the command at a new status. -/
def QueueMoved (s u : State) (seat : Seat) (id : Nat) (status : CmdStatus) (dst : Target) (data : List Byte) : Prop :=
  ∃ c' new, c' ∈ u.cmds ∧ c'.id = id ∧ c'.status = status ∧ u.waiters = s.waiters ∧ u.recs = s.recs ∧
    u.mem = s.mem ∧ u.writes = s.writes ++ new ∧
    (∀ w ∈ new, w.seat = seat ∧ w.stream = none ∧ w.level = 0 ∧ w.deps = []) ∧
    (∀ l, finalByte u l = (storedAt dst data l).getD (finalByte s l)) ∧ ∀ r l, seenByte u r l = seenByte s r l

/-- A transfer that waits for nothing and meets no error leaves its writes, and its command past it. -/
theorem copyMove_effect {s : State} {t : Team} {c : CopyCmd} (row off len : Nat) {src : List (Option Piece)} {d : Piece}
    (hc : c ∈ s.cmds) (hlocal : ∀ p ∈ d :: src.filterMap id, ∀ pkg va, p.t ≠ .remote pkg va)
    (hread : pieceNeeds s false (src.filterMap id) = []) (hwrite : pieceNeeds s true [d] = [])
    (hclean : ∀ p ∈ src.filterMap id, spanPoisoned s p.n p.t = false) (hcomb : ∀ e ∈ s.comb, e.core ≠ c.core)
    (hlate : s.lateReds = []) (hstay : leavesPackage s d.t = false) :
    QueueMoved s (copyMove s t c row off len src d) (.queue t c.qid) c.id (c.past row off len) d.t
      (if c.op = 0 then copyElems c (moveData s (.queue t c.qid) src) else moveData s (.queue t c.qid) src) := by
  obtain ⟨s', hframe, hu⟩ := copyMove_ready (t := t) row off len hlocal hread hwrite hclean hcomb hlate hstay
  rw [hu]
  generalize (if c.op = 0 then copyElems c (moveData s (.queue t c.qid) src) else moveData s (.queue t c.qid) src) = data
  have hcomb' : ∀ e ∈ s'.comb, e.core ≠ c.core := by rw [hframe]; exact hcomb
  have hlate' : s'.lateReds = [] := by rw [hframe]; exact hlate
  obtain ⟨hsend, ⟨new, hnew, hall⟩, hfinal, hseen⟩ := copyWrite_spec t d data hcomb' hlate'
  generalize copyWrite s' t c d data = x at hsend hnew hfinal hseen ⊢
  obtain ⟨keep, hadv⟩ := x.advanceCmd_eq t c row off len
  have hkept : x.cmds = s.cmds ∧ x.waiters = s.waiters ∧ x.recs = s.recs ∧ x.mem = s.mem ∧ s'.writes = s.writes := by
    rw [hsend.1, hframe]
    exact ⟨rfl, rfl, rfl, rfl, rfl⟩
  obtain ⟨hcmds, hwaiters, hrecs, hmem, hwrites⟩ := hkept
  rw [hadv]
  exact ⟨_, new, State.mem_modCmd (s := x) (hcmds ▸ hc) _, rfl, rfl, hwaiters, hrecs, hmem,
    hnew.trans (congrArg (· ++ new) hwrites), hall, fun l => (hfinal l).trans (by rw [hframe.finalByte]),
    fun r l => (hseen r l).trans (hframe.seenByte r l)⟩

end Sys2Proof.Machine
end

section

/-! PROOFS. A transfer of COPY, COPYH or COPYG from its command's turn to its writes (O43). -/

namespace Sys2Proof.Machine

/-! ### Its turn (R125) -/

/-- The command at the front of the queue whose turn it is makes its next transfer. -/
theorem execCopyTransfer_serves {s : State} {core q team row off : Nat} {c : CopyCmd} {t : Team}
    (hfront : frontCmd s core q team = some c) (ht : placedTeam s team = some t) (hturn : nextQueue s core = some q)
    (hst : c.status = .active row off) (hrow : row < c.rowCount) : execCopyTransfer core q team s =
      .next (if c.op = 3 then copyLine (s.serve core q) t c row else copyStep (s.serve core q) t c row off) := by
  unfold execCopyTransfer
  simp only [hfront, ht, hst, hturn, ne_eq, not_true_eq_false, or_false, if_neg (Nat.not_le.mpr hrow)]

/-! ### Its addresses resolved (R131, R132, R135) -/

/-- The destination address of a transfer. -/
def CopyCmd.destAt (c : CopyCmd) (row off : Nat) : Dword :=
  c.dbase + BitVec.ofNat 64 row * (c.word 7).signExtend 64 + BitVec.ofNat 64 off

/-- The bytes of a transfer: the rest of the row, at most to the end of the destination block. -/
def CopyCmd.stepLen (c : CopyCmd) (row off : Nat) : Nat := min (c.rowLen - off) (128 - (c.destAt row off).toNat % 128)

/-- A transfer goes on to its addresses at once, or with the index of its row, which the row's first transfer of COPYG reads. -/
inductive RowReady (s : State) (t : Team) (c : CopyCmd) (row off : Nat) : State → CopyCmd → Prop
  | plain (h : ¬(c.op = 2 ∧ off = 0)) : RowReady s t c row off s c
  | indexed {tg : Target} {n : Nat} (h : c.op = 2 ∧ off = 0) (hread : readIndex s t c row = .ok (tg, n))
      (hclean : targetPoisoned s c.isz tg = false) (hneeds : targetNeeds s false c.isz tg = []) :
      RowReady s t c row off (s.modCmd c.id fun x => { x with rowIdx := n }) { c with rowIdx := n }

theorem RowReady.sameCmds {s sc : State} {t : Team} {c c1 : CopyCmd} {row off : Nat} (h : RowReady s t c row off sc c1) :
    SameCmds s sc := by
  cases h with
  | plain => exact .refl s
  | indexed => exact sameCmds_modCmd s c.id fun _ => rfl

/-- A transfer whose row is ready, whose translations need no walk and whose addresses resolve moves its bytes. -/
theorem copyStep_resolved {s sc s1 s2 : State} {t : Team} {c c1 c2 : CopyCmd} {row off : Nat} {src : List (Option Piece)} {d : Piece}
    (hrow : RowReady s t c row off sc c1)
    (hwalk : runNeeds sc c1 c1.sspc false ((copyRun c1 row off (c.stepLen row off)).toList.flatMap fun r => cutRun (r.2 + 1) r.1 r.2) = [])
    (hdwalk : runNeeds sc c1 c1.dspc true [(c.destAt row off, c.stepLen row off)] = [])
    (hfab : c1.dspc = 0 → canonical (c.destAt row off) = true → fabricOf sc c1.ctx (c.destAt row off) = none)
    (hsrc : copySource sc t c1 row off (c.stepLen row off) = (s1, .ok src))
    (hdst : copyPieces t true c1.dspc .copyDst c1.id [(c.destAt row off, c.stepLen row off)] s1 = (s2, .ok [d]))
    (hfind : s2.cmds.find? (fun x => x.id = c1.id) = some c2) :
    copyStep s t c row off = copyMove s2 t c2 row off (c.stepLen row off) src d := by
  unfold copyStep
  extract_lets da len fault go
  have hda : da = c.destAt row off := rfl
  have hlen : len = c.stepLen row off := rfl
  have hgo : go sc c1 = copyMove s2 t c2 row off (c.stepLen row off) src d := by
    clear_value da len
    subst hda hlen
    have hfar : (decide (c1.dspc = 0) && canonical (c.destAt row off) && (fabricOf sc c1.ctx (c.destAt row off)).isSome) = false := by
      simp only [Bool.and_eq_false_iff, decide_eq_false_iff_not, Option.isSome_eq_false_iff, Option.isNone_iff_eq_none]
      by_cases h0 : c1.dspc = 0
      · cases hc : canonical (c.destAt row off) with
        | false => exact .inl (.inr rfl)
        | true => exact .inr (hfab h0 hc)
      · exact .inl (.inl h0)
    dsimp only [go]
    rw [hwalk, hdwalk, if_neg (not_not.mpr (List.append_nil [])), hsrc]
    dsimp only
    rw [hdst]
    dsimp only
    rw [hfind, if_neg (by rw [hfar, Bool.false_and]; exact Bool.false_ne_true)]
  clear_value go
  cases hrow with
  | plain h => rw [if_neg h, hgo]
  | indexed h hread hclean hneeds =>
    rw [if_pos h, hread]
    dsimp only
    rw [hclean, if_neg Bool.false_ne_true, if_neg (not_not.mpr hneeds), hgo]

/-! ### The transfer as a whole -/

theorem runNeeds_eq_nil {s : State} {c : CopyCmd} {spc : Nat} {writes : Bool} {l : List (Dword × Nat)} :
    runNeeds s c spc writes l = [] ↔ (spc = 0 → ∀ r ∈ l, xlateNeeds s c.core c.ctx r.1 writes = []) := by
  unfold runNeeds
  split
  · next h => rw [List.flatMap_eq_nil_iff]; exact ⟨fun hl _ => hl, fun hl => hl h⟩
  · next h => exact ⟨fun _ h0 => absurd h0 h, fun _ => rfl⟩

/-- What does not look at translations held or at the row's index is the same of a command found again. -/
theorem CopyCmd.eq_of_still {α : Type} (f : CopyCmd → α) (hf : ∀ x : CopyCmd, f x.still = f x) {c c' : CopyCmd}
    (h : c'.still = c.still) : f c' = f c := by rw [← hf c', h, hf c]

/-- So too for the command as it was found, whose translations and index resolving may have changed. -/
theorem queueMoved_copyMove {s : State} {t : Team} {c c2 : CopyCmd} (row off len : Nat) {src : List (Option Piece)} {d : Piece}
    (hc : c2 ∈ s.cmds) (hstill : c2.still = c.still) (hlocal : ∀ p ∈ d :: src.filterMap id, ∀ pkg va, p.t ≠ .remote pkg va)
    (hread : pieceNeeds s false (src.filterMap id) = []) (hwrite : pieceNeeds s true [d] = [])
    (hclean : ∀ p ∈ src.filterMap id, spanPoisoned s p.n p.t = false) (hcomb : ∀ e ∈ s.comb, e.core ≠ c.core)
    (hlate : s.lateReds = []) (hstay : leavesPackage s d.t = false) :
    QueueMoved s (copyMove s t c2 row off len src d) (.queue t c.qid) c.id (c.past row off len) d.t
      (if c.op = 0 then copyElems c (moveData s (.queue t c.qid) src) else moveData s (.queue t c.qid) src) := by
  have hid : c2.id = c.id := CopyCmd.eq_of_still CopyCmd.id (fun _ => rfl) hstill
  have hqid : c2.qid = c.qid := CopyCmd.eq_of_still CopyCmd.qid (fun _ => rfl) hstill
  have hcore : c2.core = c.core := CopyCmd.eq_of_still CopyCmd.core (fun _ => rfl) hstill
  have hop : c2.op = c.op := CopyCmd.eq_of_still CopyCmd.op (fun _ => rfl) hstill
  have helems : copyElems c2 = copyElems c := CopyCmd.eq_of_still copyElems (fun _ => rfl) hstill
  have hpast : c2.past row off len = c.past row off len := CopyCmd.eq_of_still (·.past row off len) (fun _ => rfl) hstill
  have heffect := copyMove_effect (t := t) row off len hc hlocal hread hwrite hclean (hcore ▸ hcomb) hlate hstay
  rw [hid, hqid, hop, helems, hpast] at heffect
  exact heffect

theorem copyTransfer_moves {s sc s1 s2 : State} {core q team row off : Nat} {c c1 : CopyCmd} {t : Team}
    {src : List (Option Piece)} {d : Piece} (hfront : frontCmd s core q team = some c) (ht : placedTeam s team = some t)
    (hturn : nextQueue s core = some q) (hids : ∀ x ∈ s.cmds, x.id = c.id → x = c) (hst : c.status = .active row off)
    (hrow : row < c.rowCount) (hop : c.op < 3) (hready : RowReady (s.serve core q) t c row off sc c1)
    (hwalk : c.sspc = 0 → ∀ r ∈ (copyRun c1 row off (c.stepLen row off)).toList, ∀ y ∈ cutRun (r.2 + 1) r.1 r.2,
      xlateNeeds sc c.core c.ctx y.1 false = [])
    (hdest : c.dspc = 0 → xlateNeeds sc c.core c.ctx (c.destAt row off) true = [] ∧
      (canonical (c.destAt row off) = true → fabricOf sc c.ctx (c.destAt row off) = none))
    (hsrc : copySource sc t c1 row off (c.stepLen row off) = (s1, .ok src))
    (hdst : copyPieces t true c.dspc .copyDst c.id [(c.destAt row off, c.stepLen row off)] s1 = (s2, .ok [d]))
    (hlocal : ∀ p ∈ d :: src.filterMap id, ∀ pkg va, p.t ≠ .remote pkg va)
    (hread : pieceNeeds s2 false (src.filterMap id) = []) (hwrite : pieceNeeds s2 true [d] = [])
    (hclean : ∀ p ∈ src.filterMap id, spanPoisoned s2 p.n p.t = false) (hcomb : ∀ e ∈ s2.comb, e.core ≠ c.core)
    (hlate : s2.lateReds = []) (hstay : leavesPackage s2 d.t = false) :
    ∃ u, exec (.copyTransfer core q team) s = .next u ∧
      QueueMoved s2 u (.queue t c.qid) c.id (c.past row off (c.stepLen row off)) d.t
        (if c.op = 0 then copyElems c (moveData s2 (.queue t c.qid) src) else moveData s2 (.queue t c.qid) src) := by
  have hstill : c1.still = c.still := by cases hready <;> rfl
  have hid : c1.id = c.id := CopyCmd.eq_of_still CopyCmd.id (fun _ => rfl) hstill
  have hcore : c1.core = c.core := CopyCmd.eq_of_still CopyCmd.core (fun _ => rfl) hstill
  have hctx : c1.ctx = c.ctx := CopyCmd.eq_of_still CopyCmd.ctx (fun _ => rfl) hstill
  have hsspc : c1.sspc = c.sspc := CopyCmd.eq_of_still CopyCmd.sspc (fun _ => rfl) hstill
  have hdspc : c1.dspc = c.dspc := CopyCmd.eq_of_still CopyCmd.dspc (fun _ => rfl) hstill
  have hsame1 : SameCmds sc s1 := by
    have h := sameCmds_copySource sc t c1 row off (c.stepLen row off)
    rwa [hsrc] at h
  have hsame2 : SameCmds s1 s2 := by
    have h := sameCmds_copyPieces t true c.dspc .copyDst c.id [(c.destAt row off, c.stepLen row off)] s1
    rwa [hdst] at h
  have hsame : SameCmds s s2 := SameCmds.trans hready.sameCmds (hsame1.trans hsame2)
  obtain ⟨c2, hfind, hstill2⟩ := hsame.find? (find?_cmd_id (frontCmd_spec hfront).1 hids)
  refine ⟨copyMove s2 t c2 row off (c.stepLen row off) src d, ?_,
    queueMoved_copyMove row off _ (List.mem_of_find?_eq_some hfind) hstill2 hlocal hread hwrite hclean hcomb hlate hstay⟩
  have hexec : exec (.copyTransfer core q team) s = execCopyTransfer core q team s := rfl
  rw [hexec, execCopyTransfer_serves hfront ht hturn hst hrow, if_neg hop.ne,
    copyStep_resolved hready ?_ ?_ ?_ hsrc (hdspc.symm ▸ hid.symm ▸ hdst) (hid.symm ▸ hfind)]
  · rw [runNeeds_eq_nil, hsspc, hcore, hctx]
    intro h0 y hy
    obtain ⟨r, hr, hy⟩ := List.mem_flatMap.mp hy
    exact hwalk h0 r hr y hy
  · rw [runNeeds_eq_nil, hdspc, hcore, hctx]
    intro h0 y hy
    rw [List.mem_singleton.mp hy]
    exact (hdest h0).1
  · rw [hdspc, hctx]
    exact fun h0 => (hdest h0).2

end Sys2Proof.Machine
end

section

/-! PROOFS. A plain transfer between spaces of a team (O43). -/

namespace Sys2Proof.Machine

/-! ### Addresses of .core, .clus and .chip stay in the package (R112, R150 to R157) -/

/-- The target lies in this package. -/
def Target.Near (t : Target) : Prop := ∀ pkg va, t ≠ .remote pkg va

theorem segTarget_near {s : State} {t : Team} {coreSpace : Bool} {a : Dword} {n al : Nat} {k : Access} {tg : Target}
    (h : segTarget s t coreSpace a n al k = .ok tg) : tg.Near := by
  unfold segTarget at h
  rintro pkg va rfl
  split at h
  · cases h
  · dsimp only at h
    split_ifs at h
    cases h

theorem clusTarget_near {s : State} {t : Team} {a : Dword} {n al : Nat} {tg : Target} (h : clusTarget s t a n al = .ok tg) :
    tg.Near := by
  unfold clusTarget at h
  rintro pkg va rfl
  dsimp only at h
  split at h
  · cases h
  · split at h
    · cases h
    · split_ifs at h
      cases h

theorem chipTarget_near {s : State} {t : Team} {a : Dword} {n al : Nat} {tg : Target} (h : chipTarget s t a n al = .ok tg) :
    tg.Near := by
  unfold chipTarget at h
  rintro pkg va rfl
  dsimp only at h
  split_ifs at h
  cases h

theorem teamTarget_near {s : State} {t : Team} {spc : Nat} {a : Dword} {n al : Nat} {k : Access} {tg : Target}
    (h : teamTarget s t spc a n al k = .ok tg) : tg.Near := by
  unfold teamTarget at h
  split at h
  · split at h
    · exact segTarget_near h
    · rintro pkg va rfl
      split_ifs at h
      cases h
  · split at h
    · exact segTarget_near h
    · exact clusTarget_near h
  · exact chipTarget_near h

/-! ### Runs of one piece -/

theorem cutRun_one {a : Dword} {n : Nat} (hn : 0 < n) (h : a.toNat % 128 + n ≤ 128) : cutRun (n + 1) a n = [(a, n)] := by
  have hk : min n (128 - a.toNat % 128) = n := by omega
  have hrest (b : Dword) : cutRun n b 0 = [] := by
    cases n <;> rfl
  rw [cutRun, if_neg hn.ne']
  dsimp only
  rw [hk, Nat.sub_self, hrest]

/-- One piece in a space of the team is resolved at once. -/
theorem copyPieces_team {s : State} {t : Team} {c : CopyCmd} {dst : Bool} {spc : Nat} {a : Dword} {n : Nat} {k : Access}
    {tg : Target} (hc : ∃ x, s.cmds.find? (fun x => x.id = c.id) = some x) (hspc : spc ≠ 0)
    (htg : teamTarget s t spc a n 1 k = .ok tg) :
    copyPieces t dst spc k c.id [(a, n)] s = (s, .ok [{ t := tg, n := n, addr := a }]) := by
  obtain ⟨x, hx⟩ := hc
  have hpoint : copyPoint s t x dst spc a n k = (s, .ok tg) := by rw [copyPoint, if_pos hspc, htg]
  rw [copyPieces, hx]
  dsimp only
  rw [hpoint]
  rfl

theorem pieceNeeds_one (s : State) (write : Bool) (p : Piece) : pieceNeeds s write [p] = spanNeeds s write p.n p.t :=
  List.append_nil _

theorem moveData_one (s : State) (r : Seat) (p : Piece) : moveData s r [some p] = readTarget s r p.t p.n :=
  List.append_nil _

theorem copyElems_same {c : CopyCmd} (h : c.sty = c.dty) (data : List Byte) : copyElems c data = data := if_pos h

/-- A plain copy moves the bytes of its source run. -/
theorem copyTransfer_plain {s : State} {core q team row off : Nat} {c : CopyCmd} {t : Team} {src dst : Target} {sa : Dword}
    (hfront : frontCmd s core q team = some c) (ht : placedTeam s team = some t)
    (hturn : nextQueue s core = some q) (hids : ∀ x ∈ s.cmds, x.id = c.id → x = c) (hst : c.status = .active row off)
    (hrow : row < c.rowCount) (hop : c.op = 0) (hty : c.sty = c.dty) (hsspc : c.sspc ≠ 0) (hdspc : c.dspc ≠ 0)
    (hoff : off < c.rowLen) (hrun : copyRun c row off (c.stepLen row off) = some (sa, c.stepLen row off))
    (hblock : sa.toNat % 128 + c.stepLen row off ≤ 128)
    (hsrc : teamTarget s t c.sspc sa (c.stepLen row off) 1 .copySrc = .ok src)
    (hdst : teamTarget s t c.dspc (c.destAt row off) (c.stepLen row off) 1 .copyDst = .ok dst)
    (hread : spanNeeds s false (c.stepLen row off) src = []) (hwrite : spanNeeds s true (c.stepLen row off) dst = [])
    (hclean : spanPoisoned s (c.stepLen row off) src = false) (hcomb : ∀ e ∈ s.comb, e.core ≠ c.core)
    (hlate : s.lateReds = []) (hstay : leavesPackage s dst = false) :
    ∃ u, exec (.copyTransfer core q team) s = .next u ∧
      QueueMoved s u (.queue t c.qid) c.id (c.past row off (c.stepLen row off)) dst
        (readTarget s (.queue t c.qid) src (c.stepLen row off)) := by
  have hlen : 0 < c.stepLen row off := by
    have := Nat.mod_lt (c.destAt row off).toNat (y := 128) (by decide)
    unfold CopyCmd.stepLen
    omega
  have hfind : ∃ x, (s.serve core q).cmds.find? (fun x => x.id = c.id) = some x :=
    ⟨c, find?_cmd_id (frontCmd_spec hfront).1 hids⟩
  have hsource : copySource (s.serve core q) t c row off (c.stepLen row off) =
      (s.serve core q, .ok [some { t := src, n := c.stepLen row off, addr := sa }]) := by
    unfold copySource
    rw [hop, hrun]
    dsimp only
    rw [cutRun_one hlen hblock, copyPieces_team hfind hsspc hsrc]
    rfl
  obtain ⟨u, hexec, hmoved⟩ := copyTransfer_moves hfront ht hturn hids hst hrow (hop ▸ Nat.zero_lt_succ 2)
    (.plain (by rw [hop]; exact fun h => absurd h.1 (by decide))) (fun h => absurd h hsspc) (fun h => absurd h hdspc) hsource
    (copyPieces_team hfind hdspc hdst)
    (List.forall_mem_cons.mpr ⟨teamTarget_near hdst, fun p hp => List.mem_singleton.mp hp ▸ teamTarget_near hsrc⟩)
    ((pieceNeeds_one _ _ _).trans hread) ((pieceNeeds_one _ _ _).trans hwrite) (fun p hp => List.mem_singleton.mp hp ▸ hclean)
    hcomb hlate hstay
  rw [if_pos hop, copyElems_same hty, moveData_one] at hmoved
  exact ⟨u, hexec, hmoved⟩

end Sys2Proof.Machine
end

section

/-! PROOFS. Where a transfer's bytes come from, and the elements COPY converts (O43). -/

namespace Sys2Proof.Machine

/-! ### Sources (R132, R134, R135) -/

section
variable {c : CopyCmd}

theorem copySource_halo (s : State) (t : Team) (row off len : Nat) (h : c.op = 1) :
    copySource s t c row off len = (s, haloPieces s t c row ((List.range len).map fun i => off + i)) := by
  unfold copySource
  rw [h]
  rfl

theorem copyRun_skipped (row off len : Nat) (h : c.op = 2) (hidx : c.rowIdx = 2 ^ (8 * c.isz) - 1) :
    copyRun c row off len = none := by
  unfold copyRun
  rw [h]
  exact if_pos hidx

theorem copyRun_indexed (row off len : Nat) (h : c.op = 2) (hidx : c.rowIdx ≠ 2 ^ (8 * c.isz) - 1) : copyRun c row off len =
    some (c.sbase + BitVec.ofNat 64 c.rowIdx * (c.word 6).signExtend 64 + BitVec.ofNat 64 off, len) := by
  unfold copyRun
  rw [h]
  exact if_neg hidx

theorem copyRun_rows (row off len : Nat) (h : c.op = 0) : copyRun c row off len =
    some (c.sbase + BitVec.ofNat 64 row * (c.word 6).signExtend 64 + BitVec.ofNat 64 (off / copySize c.dty * copySize c.sty),
      len / copySize c.dty * copySize c.sty) := by
  unfold copyRun
  rw [h]
  rfl

theorem copySource_skipped (s : State) (t : Team) (row off len : Nat) (h : c.op = 2) (hidx : c.rowIdx = 2 ^ (8 * c.isz) - 1) :
    copySource s t c row off len = (s, .ok (List.replicate len none)) := by
  unfold copySource
  rw [copyRun_skipped row off len h hidx, h]
  rfl

/-! ### Elements (R133) -/

theorem copySize_pos (ty : Nat) : 0 < copySize ty := by
  unfold copySize
  split <;> decide

/-- Whole blocks of a list are its chunks. -/
theorem chunks_getElem? {n k i : Nat} {l : List Byte} (hn : 0 < n) (hl : n * k ≤ l.length) (hi : i < k) :
    (chunks n k l)[i]? = some ((l.drop (n * i)).take n) := by
  induction k generalizing l i with
  | zero => omega
  | succ k ih =>
    have hlen : n + n * k ≤ l.length := by rwa [Nat.mul_succ, Nat.add_comm] at hl
    have hne : l.isEmpty = false := by
      cases l with
      | nil => simp at hlen; omega
      | cons => rfl
    rw [chunks, hne, if_neg Bool.false_ne_true]
    cases i with
    | zero => rfl
    | succ i =>
      rw [List.getElem?_cons_succ, ih (by rw [List.length_drop]; omega) (Nat.lt_of_succ_lt_succ hi), List.drop_drop, Nat.mul_succ,
        Nat.add_comm]

/-- Each element is converted on its own. -/
theorem copyElems_element {data : List Byte} {n i : Nat} (hty : c.sty ≠ c.dty) (hdata : data.length = n * copySize c.sty)
    (hi : i < n) : ofBytes (((copyElems c data).drop (copySize c.dty * i)).take (copySize c.dty)) =
      copyConvert c (ofBytes ((data.drop (copySize c.sty * i)).take (copySize c.sty))) % 2 ^ (8 * copySize c.dty) := by
  have hpos := copySize_pos c.sty
  have hcount : data.length / copySize c.sty = n := by rw [hdata, Nat.mul_div_cancel _ hpos]
  have hchunk := chunks_getElem? hpos (by rw [hdata, Nat.mul_comm]) hi
  obtain ⟨hlt, hget⟩ := List.getElem?_eq_some_iff.mp hchunk
  have hblock := block_flatMap (f := fun e => bytesOf (copyConvert c (ofBytes e)) (copySize c.dty)) (fun _ => bytesOf_length _ _)
    [] hlt
  have hdef : copyElems c data =
      (chunks (copySize c.sty) n data).flatMap fun e => bytesOf (copyConvert c (ofBytes e)) (copySize c.dty) := by
    rw [copyElems, if_neg hty, ← hcount]
  rw [List.append_nil, ← hdef, hget] at hblock
  rw [hblock, ofBytes_bytesOf, Nat.pow_mul]

end

end Sys2Proof.Machine
end

section

/-! PROOFS. A transfer of COPYW: a line and its scale data into a weight-store slot (O43). -/

namespace Sys2Proof.Machine

/-! ### What a loaded line leaves in its slot (R136, R253) -/

/-- Blocks of a store that is written one block at a time. -/
theorem cellGet_block (m : Cells 8) {n i j col : Nat} {l : List Byte} (hl : l.length = n) (hj : j < n) :
    cellGet (cellSetAll m (addrBytes (n * col) l)) (n * i + j) = if i = col then byteAt l j else cellGet m (n * i + j) := by
  split
  · next h => rw [h]; exact cellGet_addrBytes m (hl ▸ hj)
  · next h =>
    refine cellGet_addrBytes_off m fun k hk heq => h ?_
    have hdiv (x y : Nat) (hy : y < n) : (n * x + y) / n = x := by
      rw [Nat.mul_add_div (by omega), Nat.div_eq_of_lt hy, Nat.add_zero]
    rw [← hdiv i j hj, heq, hdiv col k (hl ▸ hk)]

theorem byteAt_padded {l : List Byte} {n j : Nat} (h : j < n) :
    byteAt ((l ++ List.replicate n 0).take n) j = (l[j]?).getD 0 := by
  rw [byteAt, List.getElem?_take_of_lt h]
  by_cases hj : j < l.length
  · rw [List.getElem?_append_left hj]
  · rw [List.getElem?_append_right (Nat.le_of_not_lt hj), List.getElem?_replicate, if_pos (by omega),
      List.getElem?_eq_none (Nat.le_of_not_lt hj)]
    rfl

section
variable (s : State) (r : Seat) (load : List (Option Nat × Nat)) (win : Option Nat) (pa col : Nat) (w : WSlot)

theorem loadLine_cells (data : List Byte) :
    (loadLine s r load win pa col data w).lines = cellSetAll w.lines (addrBytes (128 * col) data) ∧
    (loadLine s r load win pa col data w).scale = cellSetAll w.scale
      (addrBytes (8 * col) (((lineScale s win pa).map (physByte s r) ++ List.replicate 8 0).take 8)) := by
  unfold loadLine
  dsimp only
  split <;> exact ⟨rfl, rfl⟩

theorem loadLine_lines {data : List Byte} (hdata : data.length = 128) {i j : Nat} (hj : j < 128) :
    cellGet (loadLine s r load win pa col data w).lines (128 * i + j) =
      if i = col then byteAt data j else cellGet w.lines (128 * i + j) := by
  rw [(loadLine_cells s r load win pa col w data).1, cellGet_block w.lines hdata hj]

theorem loadLine_scale (data : List Byte) {i j : Nat} (hj : j < 8) :
    cellGet (loadLine s r load win pa col data w).scale (8 * i + j) =
      if i = col then (((lineScale s win pa)[j]?).map (physByte s r)).getD 0 else cellGet w.scale (8 * i + j) := by
  rw [(loadLine_cells s r load win pa col w data).2, cellGet_block w.scale (by simp) hj, byteAt_padded hj, List.getElem?_map]

theorem loadLine_tag (data : List Byte) : (col ≠ 31 → (loadLine s r load win pa col data w).v = w.v) ∧
    (col = 31 → let y := loadLine s r load win pa col data w
      let x := (win.map s.window).getD .zero
      y.v = true ∧ y.win = win.isSome ∧ y.sk = 0 ∧ y.stf = x.stf ∧ y.ks = x.ks) := by
  unfold loadLine
  dsimp only
  constructor
  · intro h
    rw [if_neg h]
  · intro h
    rw [if_pos h]
    exact ⟨rfl, rfl, rfl, rfl, rfl⟩

end

/-! ### A line whose bytes can be read -/

/-- Change a weight-store slot of a team. -/
def State.modWSlot (s : State) (team n : Nat) (f : WSlot → WSlot) : State :=
  s.modTeam team fun t => { t with wslots := t.wslots.modify n f }

theorem State.wslot_modWSlot {s : State} {team n : Nat} {f : WSlot → WSlot} {w : WSlot}
    (h : ((s.team? team).bind fun t => t.wslots[n]?) = some w) :
    (((s.modWSlot team n f).team? team).bind fun t => t.wslots[n]?) = some (f w) := by
  obtain ⟨t, ht, hw⟩ := Option.bind_eq_some_iff.mp h
  have hmod : (s.modWSlot team n f).team? team = some { t with wslots := t.wslots.modify n f } := by
    rw [State.modWSlot, State.team?_modTeam_self s team fun _ => by rfl, ht, Option.map_some]
  rw [hmod, Option.bind_some, List.getElem?_modify_eq, hw]
  rfl

/-- With the line and its scale bytes at hand, and its window as it must be, the line goes into its slot. -/
theorem copyLine_ready {s s1 : State} {t : Team} {c : CopyCmd} {row pa mt : Nat} {p : Piece}
    (hwalk : xlateNeeds s c.core c.ctx (copyLineAddr c row) false = [])
    (hpiece : copyPieces t false 0 .weight c.id [(copyLineAddr c row, 128)] s = (s1, .ok [p])) (hp : p.t = .phys pa mt)
    (hneeds : spanNeeds s1 false 128 p.t = []) (hclean : spanPoisoned s1 128 p.t = false)
    (hscale : ∀ b ∈ lineScale s1 (rawWindow s1 pa) pa,
      snoopNeed s1 false (lineOf b) = [] ∧ s1.poison.contains (lineOf b) = false)
    (hcomb : ∀ e ∈ s1.comb, e.core ≠ c.core) (hlate : s1.lateReds = [])
    (hstored : (rawWindow s1 pa).isSome = true → (((rawWindow s1 pa).map s1.window).getD .zero).stored ≠ 4)
    (hwin : row % 32 = 0 ∨ c.load.head?.map Prod.fst = some (rawWindow s1 pa)) :
    ∃ s' load, ReadFrame s1 s' ∧ copyLine s t c row =
      ((s'.modWSlot t.id (c.slot0 + row / 32) (loadLine s' (.queue t c.qid) load (rawWindow s1 pa) pa (row % 32)
        (readTarget s' (.queue t c.qid) p.t 128))).modCmd c.id fun c => { c with load := load }).advanceCmd t c row 0 128 := by
  have hwalks : runNeeds s c 0 false [(copyLineAddr c row, 128)] = [] := runNeeds_eq_nil.mpr fun _ r hr => by
    rw [List.mem_singleton.mp hr]; exact hwalk
  unfold copyLine
  extract_lets n col a seat fault walks
  have ha : walks = [] := hwalks
  clear_value fault walks
  rw [if_neg (not_not.mpr ha)]
  dsimp only [a]
  rw [hpiece]
  dsimp only
  rw [hp] at hneeds hclean ⊢
  dsimp only
  have hmem (l : Nat) (hl : l ∈ ((lineScale s1 (rawWindow s1 pa) pa).map lineOf).foldr insertNat []) :
      snoopNeed s1 false l = [] ∧ s1.poison.contains l = false := by
    obtain ⟨b, hb, rfl⟩ := List.mem_map.mp (mem_foldr_insertNat.mp hl)
    exact hscale b hb
  generalize ((lineScale s1 (rawWindow s1 pa) pa).map lineOf).foldr insertNat [] = scales at hmem ⊢
  have hbehind (e : CombEntry) (he : e ∈ s1.comb) : (decide (e.core = c.core) && scales.contains (lineOf e.pa)) = false := by
    rw [decide_eq_false (hcomb e he), Bool.false_and]
  have hflush : flushNeeds s1 (fun e => decide (e.core = c.core) && scales.contains (lineOf e.pa)) = [] := by
    rw [flushNeeds, hlate, List.append_nil, List.filter_eq_nil_iff.mpr fun e he => by rw [hbehind e he]; exact Bool.false_ne_true,
      List.flatMap_nil]
  have hsnoop : scales.flatMap (snoopNeed s1 false) = [] := List.flatMap_eq_nil_iff.mpr fun l hl => (hmem l hl).1
  have hpoison : scales.any s1.poison.contains = false :=
    List.any_eq_false.mpr fun l hl => by rw [(hmem l hl).2]; exact Bool.false_ne_true
  have hnone : ¬([] ++ [] ++ [] ++ [] : List Need) ≠ [] := not_not.mpr rfl
  rw [hneeds, hsnoop, touchNeeds_of_none hcomb hlate, hflush, if_neg hnone, hclean, hpoison,
    Bool.false_or, if_neg Bool.false_ne_true, State.flushFor_of_none _ _ hcomb hlate, State.flushComb_of_none hbehind hlate]
  have hframe : ReadFrame s1 (s1.recall (some c.core) (readLines s1 128 (.phys pa mt) ++ scales)) := rfl
  have hwindow : (s1.recall (some c.core) (readLines s1 128 (.phys pa mt) ++ scales)).window = s1.window := rfl
  generalize s1.recall (some c.core) (readLines s1 128 (.phys pa mt) ++ scales) = s' at hframe hwindow ⊢
  rw [hwindow, if_neg]
  · exact ⟨s', _, hframe, rfl⟩
  · rintro (h | ⟨hcol, hload⟩)
    · obtain ⟨hsome, hst⟩ := Bool.and_eq_true_iff.mp h
      exact hstored hsome (of_decide_eq_true hst)
    · exact hload (hwin.resolve_left hcol)

/-! ### What it leaves -/

section
variable {s s' : State} (h : ReadFrame s s')
include h

theorem ReadFrame.window : s'.window = s.window := by
  rw [h]
  rfl

theorem ReadFrame.lineScale (win : Option Nat) (pa : Nat) : lineScale s' win pa = Machine.lineScale s win pa := by
  rw [h]
  rfl

theorem ReadFrame.physByte (r : Seat) : physByte s' r = Machine.physByte s r := funext fun a => h.seenByte r (.phys a)

theorem ReadFrame.team? (id : Nat) : s'.team? id = s.team? id := by
  rw [h]
  rfl

end

theorem readTarget_phys_length (s : State) (r : Seat) (pa mt n : Nat) : (readTarget s r (.phys pa mt) n).length = n := by
  simp [readTarget]

theorem byteAt_readTarget_phys (s : State) (r : Seat) (pa mt : Nat) {n j : Nat} (hj : j < n) :
    byteAt (readTarget s r (.phys pa mt) n) j = physByte s r (pa + j) := by
  simp [byteAt, readTarget, hj, targetLoc, physByte]

/-- What a line's transfer leaves in `u` of what `s` held: its command at the next line, the line's bytes and its scale bytes in its
column of the slot, and with the last column the slot's tag. -/
def LineMoved (s u : State) (seat : Seat) (team id n row pa : Nat) (w : WSlot) : Prop :=
  let win := rawWindow s pa
  let x := (win.map s.window).getD .zero
  ∃ c' y, c' ∈ u.cmds ∧ c'.id = id ∧ c'.status = .active (row + 1) 0 ∧
    u.mem = s.mem ∧ u.writes = s.writes ∧ u.recs = s.recs ∧ u.waiters = s.waiters ∧
    ((u.team? team).bind fun t => t.wslots[n]?) = some y ∧
    (∀ i j, j < 128 → cellGet y.lines (128 * i + j) =
      if i = row % 32 then physByte s seat (pa + j) else cellGet w.lines (128 * i + j)) ∧
    (∀ i j, j < 8 → cellGet y.scale (8 * i + j) =
      if i = row % 32 then (((lineScale s win pa)[j]?).map (physByte s seat)).getD 0 else cellGet w.scale (8 * i + j)) ∧
    (row % 32 ≠ 31 → y.v = w.v) ∧
    (row % 32 = 31 → y.v = true ∧ y.win = win.isSome ∧ y.sk = 0 ∧ y.stf = x.stf ∧ y.ks = x.ks)

theorem CopyCmd.past_line {c : CopyCmd} (row : Nat) (h : c.op = 3) : c.past row 0 128 = .active (row + 1) 0 := by
  have hlen : c.rowLen = 128 := by rw [CopyCmd.rowLen, h]; rfl
  rw [CopyCmd.past, hlen]
  rfl

/-- A line loaded into its slot, and its command past it. -/
theorem lineMoved_loadLine {s s' : State} {t : Team} {c c2 : CopyCmd} {row pa mt : Nat} {w : WSlot} {load : List (Option Nat × Nat)}
    (hframe : ReadFrame s s') (hc : c2 ∈ s.cmds) (hid : c2.id = c.id) (hop : c.op = 3)
    (hw : ((s.team? t.id).bind fun t => t.wslots[c.slot0 + row / 32]?) = some w) (seat : Seat) :
    LineMoved s (((s'.modWSlot t.id (c.slot0 + row / 32) (loadLine s' seat load (rawWindow s pa) pa (row % 32)
      (readTarget s' seat (.phys pa mt) 128))).modCmd c.id fun c => { c with load := load }).advanceCmd t c row 0 128)
      seat t.id c.id (c.slot0 + row / 32) row pa w := by
  have hdata : (readTarget s' seat (.phys pa mt) 128).length = 128 := readTarget_phys_length s' seat pa mt 128
  have hbyte (j : Nat) (hj : j < 128) : byteAt (readTarget s' seat (.phys pa mt) 128) j = physByte s seat (pa + j) := by
    rw [byteAt_readTarget_phys s' seat pa mt hj, hframe.physByte]
  generalize readTarget s' seat (.phys pa mt) 128 = data at hdata hbyte ⊢
  have hslot := State.wslot_modWSlot (f := loadLine s' seat load (rawWindow s pa) pa (row % 32) data)
    ((hframe.team? t.id).symm ▸ hw)
  obtain ⟨hkeep, hset⟩ := loadLine_tag s' seat load (rawWindow s pa) pa (row % 32) w data
  have hlines (i j : Nat) (hj : j < 128) := loadLine_lines s' seat load (rawWindow s pa) pa (row % 32) w hdata (i := i) hj
  have hscale (i j : Nat) (hj : j < 8) := loadLine_scale s' seat load (rawWindow s pa) pa (row % 32) w data (i := i) hj
  generalize hf : loadLine s' seat load (rawWindow s pa) pa (row % 32) data = f at *
  have hkept : (s'.modWSlot t.id (c.slot0 + row / 32) f).cmds = s.cmds ∧ s'.mem = s.mem ∧ s'.writes = s.writes ∧
      s'.recs = s.recs ∧ s'.waiters = s.waiters := by
    rw [hframe]
    exact ⟨rfl, rfl, rfl, rfl, rfl⟩
  obtain ⟨hcmds, hmem, hwrites, hrecs, hwaiters⟩ := hkept
  obtain ⟨keep, hadv⟩ := State.advanceCmd_eq ((s'.modWSlot t.id (c.slot0 + row / 32) f).modCmd c.id fun c => { c with load := load })
    t c row 0 128
  rw [hadv, CopyCmd.past_line row hop, ← hid]
  exact ⟨_, f w, State.mem_modCmd (State.mem_modCmd (hcmds ▸ hc) fun c => { c with load := load }) _, rfl, rfl, hmem, hwrites, hrecs,
    hwaiters, hslot, fun i j hj => (hlines i j hj).trans (by rw [hbyte j hj]),
    fun i j hj => (hscale i j hj).trans (by rw [hframe.lineScale, hframe.physByte]), hkeep, fun h => by
      obtain ⟨hv, hwin, hsk, hstf, hks⟩ := hset h
      rw [hframe.window] at hstf hks
      exact ⟨hv, hwin, hsk, hstf, hks⟩⟩

/-- The transfer of COPYW as a whole. -/
theorem copyTransfer_line {s s1 : State} {core q team row pa mt : Nat} {c : CopyCmd} {t : Team} {p : Piece} {w : WSlot}
    (hfront : frontCmd s core q team = some c) (ht : placedTeam s team = some t) (hturn : nextQueue s core = some q)
    (hids : ∀ x ∈ s.cmds, x.id = c.id → x = c) (hst : c.status = .active row 0) (hrow : row < c.rowCount) (hop : c.op = 3)
    (hwalk : xlateNeeds (s.serve core q) c.core c.ctx (copyLineAddr c row) false = [])
    (hpiece : copyPieces t false 0 .weight c.id [(copyLineAddr c row, 128)] (s.serve core q) = (s1, .ok [p]))
    (hp : p.t = .phys pa mt) (hneeds : spanNeeds s1 false 128 p.t = []) (hclean : spanPoisoned s1 128 p.t = false)
    (hscale : ∀ b ∈ lineScale s1 (rawWindow s1 pa) pa,
      snoopNeed s1 false (lineOf b) = [] ∧ s1.poison.contains (lineOf b) = false)
    (hcomb : ∀ e ∈ s1.comb, e.core ≠ c.core) (hlate : s1.lateReds = [])
    (hstored : (rawWindow s1 pa).isSome = true → (((rawWindow s1 pa).map s1.window).getD .zero).stored ≠ 4)
    (hwin : row % 32 = 0 ∨ c.load.head?.map Prod.fst = some (rawWindow s1 pa))
    (hw : ((s1.team? team).bind fun t => t.wslots[c.slot0 + row / 32]?) = some w) :
    ∃ u, exec (.copyTransfer core q team) s = .next u ∧
      LineMoved s1 u (.queue t c.qid) team c.id (c.slot0 + row / 32) row pa w := by
  have hsame : SameCmds s s1 := by
    have h := sameCmds_copyPieces t false 0 .weight c.id [(copyLineAddr c row, 128)] (s.serve core q)
    rwa [hpiece] at h
  obtain ⟨c2, hfind, hstill⟩ := hsame.find? (find?_cmd_id (frontCmd_spec hfront).1 hids)
  have hid : c2.id = c.id := CopyCmd.eq_of_still CopyCmd.id (fun _ => rfl) hstill
  obtain ⟨-, rfl⟩ := placedTeam_spec ht
  obtain ⟨s', load, hframe, hline⟩ := copyLine_ready hwalk hpiece hp hneeds hclean hscale hcomb hlate hstored hwin
  have hexec : exec (.copyTransfer core q t.id) s = execCopyTransfer core q t.id s := rfl
  rw [hexec, execCopyTransfer_serves hfront ht hturn hst hrow, if_pos hop, hline, hp]
  exact ⟨_, rfl, lineMoved_loadLine hframe (List.mem_of_find?_eq_some hfind) hid hop hw (.queue t c.qid)⟩

end Sys2Proof.Machine
end

section

/-! PROOFS. A copy command from the front of its queue to its completion (O43). -/

namespace Sys2Proof.Machine

/-- Performing a queue's writes leaves commands, records and contexts alone. -/
theorem State.settleQueues_same (s : State) (team : Nat) (mask : BitVec 8) : (s.settleQueues team mask).cmds = s.cmds ∧
    (s.settleQueues team mask).recs = s.recs ∧ (s.settleQueues team mask).ctxs = s.ctxs := by
  rw [State.settleQueues, s.perform_frame 6 (queueOf team mask)]
  exact ⟨rfl, rfl, rfl⟩

/-- Settles O43: at each event what is asked for leaves one branch to take. Resolving a transfer's addresses changes of its command
no more than the translations held and its row's index, so the command found again is the one at the front; its bytes are its queue's
writes, and a queue shares the narrowest scope with no agent, so none sees them yet. -/
theorem copyEventsComplete : Obligations.CopyEventsComplete := by
  unfold Obligations.CopyEventsComplete
  refine ⟨?start, ?plain, ?moved, ?sources, ?line, ?completion⟩
  case start =>
    intro s core q team c t hfront ht hst hafter hids hmark hneeds
    have hexec : exec (.copyCommandStart core q team) s = execCopyCommandStart core q team s := rfl
    rw [hexec, execCopyCommandStart_checks hfront ht hst hafter hmark hneeds]
    refine ⟨fun hok => if_pos hok, fun hbad hctx => ?_⟩
    obtain ⟨hcmds, hrecs, hctxs⟩ := s.settleQueues_same team (1 <<< q)
    obtain ⟨r, c', hc', hid, hhalt, hrec, hcls, hcause, hcmd, hqid⟩ := State.copyFault_spec (hcmds ▸ (frontCmd_spec hfront).1)
      (by rwa [State.ctx?, hctxs]) 0 0 0x09 0 0
    exact ⟨_, r, c', if_neg (by rw [hbad]; exact Bool.false_ne_true), hc', hid, hhalt, hrecs ▸ hrec, hcls, hcause, hcmd, hqid⟩
  case plain =>
    intro s core q team row off c t src dst hfront ht hturn hids hst hrow hop hsty hdty hsspc hdspc hoff da sa len hblock hsrc hdst
      hread hwrite hclean hcomb hlate hstay
    have hrows : c.rowCount = c.rows := by rw [CopyCmd.rowCount, hop]; rfl
    have hrowLen : c.rowLen = c.rowb := by rw [CopyCmd.rowLen, hop, hsty, hdty]; exact (Nat.mul_one _).trans (Nat.div_one _)
    have hlen : c.stepLen row off = len := by rw [CopyCmd.stepLen, hrowLen]; rfl
    have hrun : copyRun c row off len = some (sa, len) := by
      rw [copyRun_rows row off len hop, hsty, hdty]
      have hone : copySize 0 = 1 := rfl
      rw [hone, Nat.div_one, Nat.mul_one, Nat.div_one, Nat.mul_one]
    have hpast : c.past row off len = if off + len < c.rowb then .active row (off + len) else .active (row + 1) 0 := by
      rw [CopyCmd.past, hrowLen]
    rw [← hlen] at hblock hsrc hdst hread hwrite hclean hrun
    obtain ⟨u, hexec, c', new, hmoved⟩ := copyTransfer_plain hfront ht hturn hids hst (hrows.symm ▸ hrow) hop (hsty.trans hdty.symm)
      hsspc hdspc (hrowLen.symm ▸ hoff) hrun hblock hsrc hdst hread hwrite hclean hcomb hlate hstay
    rw [hlen, hpast] at hmoved
    exact ⟨u, c', new, hexec, hmoved⟩
  case moved =>
    intro s sc s1 s2 core q team row off c c1 t src d hfront ht hturn hids hst hrow hop hoff da len s0 ps seat hplain hindexed hwalk
      hdest hsrc hdst hlocal hread hwrite hclean hcomb hlate hstay data
    have hready : RowReady s0 t c row off sc c1 := by
      by_cases h : c.op = 2 ∧ off = 0
      · obtain ⟨tg, n, hidx, hpoison, hneeds, rfl, rfl⟩ := hindexed h.1 h.2
        exact .indexed h hidx hpoison hneeds
      · obtain ⟨rfl, rfl⟩ := hplain (by omega)
        exact .plain h
    obtain ⟨u, hexec, c', new, hmoved⟩ := copyTransfer_moves hfront ht hturn hids hst hrow hop hready hwalk hdest hsrc hdst hlocal
      hread hwrite hclean hcomb hlate hstay
    have hdata : data = moveData s2 seat src := by
      refine congrArg (src.flatMap ·) (funext fun x => ?_)
      cases x <;> rfl
    rw [hdata]
    exact ⟨u, c', new, hexec, hmoved⟩
  case sources =>
    exact fun s t c row off len => ⟨copySource_halo s t row off len, copySource_skipped s t row off len, copyRun_indexed row off len,
      copyRun_rows row off len, fun _ _ _ hty hdata _ hi => copyElems_element hty hdata hi⟩
  case line =>
    intro s s1 core q team row pa mt c t p w hfront ht hturn hids hst hrow hop a n col seat hwalk hpiece _ hp win x scale hneeds
      hclean hscale hcomb hlate hstored hwin hw
    obtain ⟨u, hexec, c', y, hmoved⟩ := copyTransfer_line hfront ht hturn hids hst hrow hop hwalk hpiece hp hneeds hclean hscale
      hcomb hlate hstored hwin hw
    exact ⟨u, c', y, hexec, hmoved⟩
  case completion =>
    intro s core q team row off c t hfront ht hst hrows
    obtain ⟨hc, rfl, rfl, hop⟩ := frontCmd_spec hfront
    obtain ⟨hteam, hid⟩ := placedTeam_spec ht
    exact ⟨execCopyCompletion_silent hfront ht hst hrows, fun s1 p => execCopyCompletion_adds hfront ht hst hrows,
      fun x hx => State.endCmd_subset hx, fun hids x hx hne hop => State.mem_endCmd hids hx hne hop,
      fun _ => State.endCmd_counts hteam⟩

end Sys2Proof.Machine
end

section
/-!
PROOFS. Accesses: one for each active lane in ascending order, and the checks of an address in their order (R150, R151, R180,
R181, R183).
-/

namespace Sys2Proof.Machine

/-! ### The accesses of an operation (R180) -/

theorem mem_lanesList {act : Lanes} {l : Nat} : l ∈ lanesList act ↔ l < 96 ∧ act.getLsbD l = true := by
  simp [lanesList]

theorem lanesList_ascending (act : Lanes) : (lanesList act).Pairwise (· < ·) := List.pairwise_lt_range.filter _

theorem mem_gatherParts {v : View} {f : FmtM} {p : Part} : p ∈ gatherParts v f ↔
    p.lane ∈ lanesList (memActive v f.c) ∧ p.addr = readS64 v f.sa + (readV32 v 32 f.sb p.lane).signExtend 64 := by
  obtain ⟨l, a⟩ := p
  simp [gatherParts, eq_comm]

theorem mem_blockParts {v : View} {f : FmtM} {p : Part} : p ∈ blockParts v f ↔ p.lane ∈ lanesList (memActive v f.c) ∧
    p.addr = readS64 v f.sa + (readS32 v f.sb).signExtend 64 + BitVec.ofNat 64 (p.lane * szBytes f.sz.toNat) := by
  obtain ⟨l, a⟩ := p
  simp [blockParts, eq_comm]

theorem memActive_first {v : View} (h : v.p.replay = false) (c : Ctl) : memActive v c = v.active c := by simp [memActive, h]

theorem memActive_replay {v : View} (h : v.p.replay = true) (c : Ctl) : memActive v c = v.p.fmask := by simp [memActive, h]

/-! ### Offsets (R150, R151) -/

section
variable {o : Nat} (ho : o < 2 ^ 32)
include ho

theorem toNat_offset : (BitVec.ofNat 64 o).toNat = o := Nat.mod_eq_of_lt (by omega)

theorem upperHalf_offset : upperHalf (BitVec.ofNat 64 o) = 0 := by
  apply BitVec.eq_of_toNat_eq
  rw [upperHalf, BitVec.extractLsb'_toNat, toNat_offset ho, Nat.shiftRight_eq_div_pow, Nat.div_eq_of_lt ho]
  rfl

theorem lowerHalf_offset : lowerHalf (BitVec.ofNat 64 o) = o := by
  rw [lowerHalf, BitVec.extractLsb'_toNat, toNat_offset ho, Nat.shiftRight_zero, Nat.mod_eq_of_lt ho]

/-- An offset of .core: range first, then alignment, and then its own byte of the scratchpad. -/
theorem slotTarget_core_offset (s : State) (v : View) (lane n : Nat) (k : Access) :
    slotTarget s v 1 lane (BitVec.ofNat 64 o) n k = (s, if v.t.scratchSize < o + n then .error (.plain 1)
      else if o % n ≠ 0 then .error (.plain 4) else .ok (.scratch v.t.id o)) := by
  simp only [slotTarget, teamTarget, upperHalf_offset ho, lowerHalf_offset ho, toNat_offset ho, ne_eq, not_true_eq_false,
    if_false]

/-- An offset of the lane slice: range first, then alignment, and then its own byte of the lane's slice. -/
theorem slotTarget_lane_offset (s : State) (v : View) (lane n : Nat) (k : Access) :
    slotTarget s v 4 lane (BitVec.ofNat 64 o) n k = if v.t.laneBytes < o + n then (s, .error (.plain 1))
      else if o % n ≠ 0 then (s, .error (.plain 4))
      else (s, .ok (.lane ((v.sl.wave * 96 + lane) * v.t.laneBytes + o))) := by
  simp only [slotTarget, upperHalf_offset ho, lowerHalf_offset ho, toNat_offset ho, ne_eq, not_true_eq_false, false_or]

end

/-! ### Addresses of .glob, and handles (R156, R183) -/

section
variable {s : State} {v : View} (lane n : Nat) {a : Dword} (k : Access)

theorem slotTarget_glob_misaligned (h : a.toNat % n ≠ 0) : slotTarget s v 0 lane a n k = (s, .error (.plain 4)) := if_pos h

theorem slotTarget_glob_nonCanonical (h : a.toNat % n = 0) (hc : canonical a = false) :
    slotTarget s v 0 lane a n k = (s, .error .nonCanonical) := by
  have hx : xlate s v.t.core v.t.ctx a = (s, .bad .nonCanonical) := by simp [xlate, hc]
  simp [slotTarget, globTarget, h, hc, hx]

/-- No address of the lane slice names a handle. -/
theorem slotTarget_lane_handle (h : upperHalf a ≠ 0) : slotTarget s v 4 lane a n k = (s, .error (.plain 1)) := if_pos (.inl h)

theorem slotTarget_core_unattached (h : upperHalf a ≠ 0) (hseg : attachedSeg s v.t (upperHalf a) = none) :
    slotTarget s v 1 lane a n k = (s, .error (.plain 2)) := by
  simp only [slotTarget, teamTarget, if_pos h, segTarget, hseg]

end

/-- Settles O28: the parts by the lanes they are listed for, the checks of each space in their order. -/
theorem accessAddressesAndChecks : Obligations.AccessAddressesAndChecks := by
  refine ⟨fun v f => ⟨rfl, fun p hp => ?gather, fun l hl hact => ?each, ?orderG, ?orderB, fun p hp => ?block,
      fun h => memActive_first h f.c, fun h => memActive_replay h f.c⟩,
    fun s v lane n o k _ ho => ?offsets, fun s v lane n a k => ⟨slotTarget_glob_misaligned lane n k,
      slotTarget_glob_nonCanonical lane n k, slotTarget_lane_handle lane n k, slotTarget_core_unattached lane n k⟩⟩
  case gather =>
    obtain ⟨hlane, haddr⟩ := mem_gatherParts.mp hp
    exact ⟨(mem_lanesList.mp hlane).2, haddr⟩
  case block =>
    obtain ⟨hlane, haddr⟩ := mem_blockParts.mp hp
    exact ⟨(mem_lanesList.mp hlane).2, haddr⟩
  case each =>
    have hmem := mem_lanesList.mpr ⟨hl, hact⟩
    exact ⟨⟨_, List.mem_map_of_mem hmem, rfl⟩, _, List.mem_map_of_mem hmem, rfl⟩
  case orderG => exact gatherParts_lanes v f ▸ lanesList_ascending _
  case orderB => exact blockParts_lanes v f ▸ lanesList_ascending _
  case offsets =>
    dsimp only
    rw [slotTarget_core_offset ho, slotTarget_lane_offset ho]
    refine ⟨fun hin hal => ?_, fun hout => ?_, fun hin hal => ?_, fun hin hal => ?_, fun hout => ?_, fun hin hal => ?_⟩
    · rw [if_neg (by omega), if_neg (by omega)]
    · rw [if_pos hout]
    · rw [if_neg (by omega), if_pos hal]
    · rw [if_neg (by omega), if_neg (by omega)]
    · rw [if_pos hout]
    · rw [if_neg (by omega), if_pos hal]

end Sys2Proof.Machine
end

section
/-!
PROOFS. Stores: what one access leaves, what the accesses of an operation leave together, and the bytes they write (R160, R180,
R181, R186, R187, R312, R314).
-/

namespace Sys2Proof.Machine

/-! ### The marks of segments (R160, R167) -/

/-- A segment after a byte is written at a location: only one of its own marks it. -/
def Segment.touchAt (g : Segment) : Loc → Segment
  | .seg c n o => if g.ctx = c ∧ g.name = n then g.touch o else g
  | _ => g

theorem State.segment?_map (s : State) (c n : Nat) {f : Segment → Segment} (hc : ∀ g, (f g).ctx = g.ctx)
    (hn : ∀ g, (f g).name = g.name) : ({ s with segs := s.segs.map f } : State).segment? c n = (s.segment? c n).map f := by
  simp only [State.segment?, List.find?_map, Function.comp_def, hc, hn]

theorem Segment.touchAt_name (g : Segment) (l : Loc) : (g.touchAt l).ctx = g.ctx ∧ (g.touchAt l).name = g.name := by
  cases l with
  | phys a => exact ⟨rfl, rfl⟩
  | scratch t o => exact ⟨rfl, rfl⟩
  | seg c n o =>
    simp only [Segment.touchAt]
    split <;> exact ⟨rfl, rfl⟩

theorem State.touchLoc_eq (s : State) (l : Loc) : s.touchLoc l = { s with segs := s.segs.map fun g => g.touchAt l } := by
  cases l with
  | phys a => simp [State.touchLoc, Segment.touchAt]
  | scratch t o => simp [State.touchLoc, Segment.touchAt]
  | seg c n o => rfl

theorem State.segment?_touchAll (s : State) (bytes : List (Loc × Byte)) (c n : Nat) :
    (s.touchAll bytes).segment? c n = (s.segment? c n).map fun g => (bytes.map Prod.fst).foldl Segment.touchAt g := by
  induction bytes generalizing s with
  | nil => exact Option.map_id'.symm
  | cons p bytes ih =>
    have hstep : s.touchAll (p :: bytes) = (s.touchLoc p.1).touchAll bytes := rfl
    rw [hstep, ih, State.touchLoc_eq,
      State.segment?_map s c n (fun g => (g.touchAt_name p.1).1) (fun g => (g.touchAt_name p.1).2), Option.map_map]
    rfl

/-- Bytes written at locations leave of a segment all but its marks: dirty are the granules of its own bytes besides those
before, and without such a byte its poison is as it was. -/
theorem Segment.touchAt_marks (locs : List Loc) (g : Segment) :
    ∃ d p, locs.foldl Segment.touchAt g = { g with dirty := d, poison := p } ∧
      (∀ x, x ∈ d ↔ x ∈ g.dirty ∨ ∃ o, .seg g.ctx g.name o ∈ locs ∧ o / 4096 = x) ∧
      ((∀ o, .seg g.ctx g.name o ∉ locs) → p = g.poison) := by
  induction locs generalizing g with
  | nil => exact ⟨g.dirty, g.poison, rfl, by simp, fun _ => rfl⟩
  | cons l locs ih =>
    obtain ⟨d, p, heq, hd, hp⟩ := ih (g.touchAt l)
    rw [List.foldl_cons, heq]
    obtain ⟨hctx, hname⟩ := g.touchAt_name l
    rw [hctx, hname] at hd hp
    by_cases hl : ∃ o, l = .seg g.ctx g.name o
    · obtain ⟨o, rfl⟩ := hl
      have htouch : g.touchAt (.seg g.ctx g.name o) = g.touch o := if_pos ⟨rfl, rfl⟩
      rw [htouch] at hd ⊢
      refine ⟨d, p, rfl, fun x => ?_, fun h => absurd List.mem_cons_self (h o)⟩
      have hdirty : x ∈ (g.touch o).dirty ↔ o / 4096 = x ∨ x ∈ g.dirty := by rw [eq_comm]; exact mem_insertNat
      rw [hd, hdirty]
      simp only [List.mem_cons, Loc.seg.injEq, true_and, or_and_right, exists_or, exists_eq_left]
      rw [or_comm (a := _ = x), or_assoc]
    · have hsame : g.touchAt l = g := by
        cases l with
        | phys a => rfl
        | scratch t o => rfl
        | seg c n o => exact if_neg fun h => hl ⟨o, by rw [h.1, h.2]⟩
      have hmem (o : Nat) : Loc.seg g.ctx g.name o ∈ l :: locs ↔ .seg g.ctx g.name o ∈ locs :=
        ⟨fun h => (List.mem_cons.mp h).resolve_left fun h => hl ⟨o, h.symm⟩, List.mem_cons_of_mem l⟩
      rw [hsame] at hd hp ⊢
      refine ⟨d, p, rfl, fun x => ?_, fun h => hp fun o ho => h o ((hmem o).mpr ho)⟩
      simp only [hd, hmem]

/-! ### The writes of one access (R181, R314) -/

theorem flatten_units (bytes : List (Loc × Byte)) : (units bytes).flatten = bytes := by
  unfold units
  split <;> simp

section
variable (seat : Seat) (stream : Option (BitVec 4)) (lane : Option Nat) (deps : List Nat)

theorem seenByte_addWrites (us : List (List (Loc × Byte))) (s : State) (r : Seat) (l : Loc) :
    seenByte (us.foldl (fun s u => s.addWrite seat stream lane deps u) s) r l =
      if joinScope seat r = 0 then us.foldl (fun b u => overwrite u l b) (seenByte s r l) else seenByte s r l := by
  induction us generalizing s with
  | nil => exact (ite_self _).symm
  | cons u us ih =>
    rw [List.foldl_cons, ih, seenByte_addWrite, List.foldl_cons]
    split <;> rfl

theorem segment?_addWrites (us : List (List (Loc × Byte))) (s : State) (c n : Nat) :
    (us.foldl (fun s u => s.addWrite seat stream lane deps u) s).segment? c n =
      (s.segment? c n).map fun g => (us.flatten.map Prod.fst).foldl Segment.touchAt g := by
  induction us generalizing s with
  | nil => exact Option.map_id'.symm
  | cons u us ih =>
    have hone : (s.addWrite seat stream lane deps u).segment? c n = (s.touchAll u).segment? c n := rfl
    rw [List.foldl_cons, ih, hone, State.segment?_touchAll, Option.map_map]
    simp only [Function.comp_def, List.flatten_cons, List.map_append, List.foldl_append]

theorem mem_writes_addWrites (us : List (List (Loc × Byte))) (s : State) {w : PWrite}
    (h : w ∈ (us.foldl (fun s u => s.addWrite seat stream lane deps u) s).writes) :
    w ∈ s.writes ∨ (w.seat = seat ∧ w.stream = stream ∧ w.level = 0 ∧ w.lane = lane ∧ w.deps = deps) := by
  induction us generalizing s with
  | nil => exact .inl h
  | cons u us ih =>
    obtain ⟨gs, hadd, -⟩ := s.addWrite_eq seat stream lane deps u
    rw [List.foldl_cons] at h
    refine (ih _ h).elim (fun hmem => ?_) .inr
    rw [hadd] at hmem
    rcases List.mem_append.mp hmem with hold | hnew
    · exact .inl hold
    · obtain rfl := List.mem_singleton.mp hnew
      exact .inr ⟨rfl, rfl, rfl, rfl, rfl⟩

end

/-! ### One access of a store -/

/-- The location of each byte of an access. -/
def storeLocs (data : Nat → List Byte) (g : Good) : List Loc := (targetBytes g.t (data g.lane)).map Prod.fst

theorem mem_storeLocs {data : Nat → List Byte} {g : Good} {l : Loc} :
    l ∈ storeLocs data g ↔ ∃ i, i < (data g.lane).length ∧ targetLoc g.t i = some l := by
  simp [storeLocs, targetBytes]

/-- A team after bytes are stored into its lane slices from a key on. -/
def Team.storeLane (key : Nat) (bytes : List Byte) (x : Team) : Team := { x with lane := cellSetAll x.lane (addrBytes key bytes) }

/-- A team's lane slices after an access to them. -/
def storeSlice (data : Nat → List Byte) (m : Cells 8) (g : Good) : Cells 8 := match g.t with
  | .lane key => cellSetAll m (addrBytes key (data g.lane))
  | _ => m

/-- A byte of them is the one stored there, or as it was. -/
theorem cellGet_storeSlice (data : Nat → List Byte) (m : Cells 8) (g : Good) (key : Nat) :
    cellGet (storeSlice data m g) key = (storedLane g.t (data g.lane) key).getD (cellGet m key) := by
  obtain ⟨lane, addr, t⟩ := g
  cases t with
  | lane k =>
    simp only [storeSlice, storedLane]
    split
    · next h =>
      obtain ⟨i, rfl⟩ := Nat.exists_eq_add_of_le h.1
      rw [cellGet_addrBytes m (by omega), Nat.add_sub_cancel_left]
      rfl
    · exact cellGet_addrBytes_off m fun i hi => by omega
  | _ => rfl

/-- All but writes, near lines, the marks of segments and the lane slices of teams is as it was. -/
def StoreFrame (s t : State) : Prop :=
  t = { s with writes := t.writes, nextWrite := t.nextWrite, segs := t.segs, teams := t.teams, near := t.near }

theorem StoreFrame.trans {s t u : State} (h : StoreFrame s t) (h' : StoreFrame t u) : StoreFrame s u := by
  rw [StoreFrame, h', h]

theorem SendFrame.storeFrame {s t : State} (h : SendFrame s t) : StoreFrame s t := by
  rw [StoreFrame, h.1]

/-- A change of teams that keeps the identities and scratchpads changes no byte of a location. -/
theorem seenByte_modTeam (s : State) (id : Nat) {f : Team → Team} (hid : ∀ t, (f t).id = t.id)
    (hscratch : ∀ t, (f t).scratch = t.scratch) (r : Seat) (l : Loc) : seenByte (s.modTeam id f) r l = seenByte s r l := by
  have hbase : locBase (s.modTeam id f) l = locBase s l := by
    cases l with
    | phys a => rfl
    | seg c n o => rfl
    | scratch tm o =>
      simp only [locBase, State.team?_modTeam s id tm hid]
      cases s.team? tm with
      | none => rfl
      | some t =>
        simp only [Option.map_some]
        split
        · rw [hscratch]
        · rfl
  simp only [seenByte, hbase]
  rfl

section
variable (v : View) (str : BitVec 4) (scalar : Bool) (deps : Option Nat → List Nat) (data : Nat → List Byte)

/-- One access of a store; one to another package has been answered there. -/
def storeOne (s : State) (g : Good) : State := match g.t with
  | .remote _ _ => s
  | t => storeTarget s v.seat v.t.core (some str) (laneOf scalar g) (deps (laneOf scalar g)) t (data g.lane)

/-- An access puts bytes into the lane slices, or has been made already, or sends its bytes as writes of its units. -/
theorem storeOne_cases (s : State) (g : Good) :
    (∃ key, g.t = .lane key ∧ storeOne v str scalar deps data s g = s.modTeam v.t.id (Team.storeLane key (data g.lane))) ∨
    (∃ pkg va, g.t = .remote pkg va ∧ storeOne v str scalar deps data s g = s) ∨
    (∀ m, storeSlice data m g = m) ∧ storeOne v str scalar deps data s g = (units (targetBytes g.t (data g.lane))).foldl
      (fun s u => s.addWrite v.seat (some str) (laneOf scalar g) (deps (laneOf scalar g)) u)
      (s.recall (some v.t.core) (targetLines g.t)) := by
  obtain ⟨lane, addr, t⟩ := g
  cases t with
  | lane key => exact .inl ⟨key, rfl, rfl⟩
  | remote pkg va => exact .inr (.inl ⟨pkg, va, rfl, rfl⟩)
  | _ => exact .inr (.inr ⟨fun _ => rfl, rfl⟩)

theorem storeFrame_storeOne (s : State) (g : Good) : StoreFrame s (storeOne v str scalar deps data s g) := by
  rcases storeOne_cases v str scalar deps data s g with ⟨key, -, h⟩ | ⟨pkg, va, -, h⟩ | ⟨-, h⟩
  · rw [h]; rfl
  · rw [h]; rfl
  · rw [h]
    exact ((sendFrame_recall s _ _).trans (SendFrame.foldl (fun s u => sendFrame_addWrite s _ _ _ _ u) _ _)).storeFrame

theorem seenByte_storeOne (s : State) (g : Good) (r : Seat) (l : Loc) : seenByte (storeOne v str scalar deps data s g) r l =
    if joinScope v.seat r = 0 then (storedAt g.t (data g.lane) l).getD (seenByte s r l) else seenByte s r l := by
  rcases storeOne_cases v str scalar deps data s g with ⟨key, ht, h⟩ | ⟨pkg, va, ht, h⟩ | ⟨-, h⟩
  · have hnone : storedAt g.t (data g.lane) l = none := by simp [ht, storedAt, targetBytes, targetLoc]
    rw [h, hnone, Option.getD_none, ite_self]
    exact seenByte_modTeam s v.t.id (f := Team.storeLane key (data g.lane)) (fun _ => rfl) (fun _ => rfl) r l
  · have hnone : storedAt g.t (data g.lane) l = none := by simp [ht, storedAt, targetBytes, targetLoc]
    rw [h, hnone, Option.getD_none, ite_self]
  · have hnodup : ((units (targetBytes g.t (data g.lane))).flatten.map Prod.fst).Nodup := by
      rw [flatten_units]
      exact targetBytes_nodup g.t (data g.lane)
    rw [h, seenByte_addWrites, seenByte_recall, foldl_overwrite hnodup, flatten_units, overwrite_targetBytes]

theorem team?_storeOne (s : State) (g : Good) (id : Nat) : (storeOne v str scalar deps data s g).team? id =
    (s.team? id).map fun x => { x with lane := if x.id = v.t.id then storeSlice data x.lane g else x.lane } := by
  have hsame {t : State} (hteams : t.teams = s.teams) (hslice : ∀ m, storeSlice data m g = m) : t.team? id =
      (s.team? id).map fun x => { x with lane := if x.id = v.t.id then storeSlice data x.lane g else x.lane } := by
    simp only [hslice, ite_self, State.team?, hteams]
    exact Option.map_id'.symm
  rcases storeOne_cases v str scalar deps data s g with ⟨key, ht, h⟩ | ⟨pkg, va, ht, h⟩ | ⟨hslice, h⟩
  · rw [h, State.team?_modTeam s v.t.id id (f := Team.storeLane key (data g.lane)) fun _ => rfl]
    congr 1
    funext x
    simp only [storeSlice, ht]
    split <;> rfl
  · exact hsame (by rw [h]) fun m => by simp only [storeSlice, ht]
  · refine hsame ?_ hslice
    rw [h, (SendFrame.foldl (fun s u => sendFrame_addWrite s _ _ _ _ u) _ _).same.1]
    rfl

theorem segment?_storeOne (s : State) (g : Good) (c n : Nat) : (storeOne v str scalar deps data s g).segment? c n =
    (s.segment? c n).map fun x => (storeLocs data g).foldl Segment.touchAt x := by
  rcases storeOne_cases v str scalar deps data s g with ⟨key, ht, h⟩ | ⟨pkg, va, ht, h⟩ | ⟨-, h⟩
  · have hnone : storeLocs data g = [] := by simp [storeLocs, ht, targetBytes, targetLoc]
    rw [h, hnone]
    exact Option.map_id'.symm
  · have hnone : storeLocs data g = [] := by simp [storeLocs, ht, targetBytes, targetLoc]
    rw [h, hnone]
    exact Option.map_id'.symm
  · rw [h, segment?_addWrites, flatten_units]
    rfl

theorem mem_writes_storeOne (s : State) (g : Good) {w : PWrite} (h : w ∈ (storeOne v str scalar deps data s g).writes) :
    w ∈ s.writes ∨ (w.seat = v.seat ∧ w.stream = some str ∧ w.level = 0 ∧ w.lane = laneOf scalar g ∧
      w.deps = deps (laneOf scalar g)) := by
  rcases storeOne_cases v str scalar deps data s g with ⟨key, -, heq⟩ | ⟨pkg, va, -, heq⟩ | ⟨-, heq⟩
  · rw [heq] at h
    exact .inl h
  · rw [heq] at h
    exact .inl h
  · rw [heq] at h
    have hmem := mem_writes_addWrites _ _ _ _ _ _ h
    exact hmem

/-! ### The accesses of a store, in ascending lane order (R187) -/

theorem storeFrame_stores (s : State) (gs : List Good) : StoreFrame s (gs.foldl (storeOne v str scalar deps data) s) := by
  induction gs generalizing s with
  | nil => rfl
  | cons g gs ih => exact (storeFrame_storeOne v str scalar deps data s g).trans (ih _)

theorem seenByte_stores (s : State) (gs : List Good) (r : Seat) (l : Loc) :
    seenByte (gs.foldl (storeOne v str scalar deps data) s) r l =
      if joinScope v.seat r = 0 then gs.foldl (fun b g => (storedAt g.t (data g.lane) l).getD b) (seenByte s r l)
      else seenByte s r l := by
  induction gs generalizing s with
  | nil => exact (ite_self _).symm
  | cons g gs ih =>
    rw [List.foldl_cons, ih, seenByte_storeOne, List.foldl_cons]
    split <;> rfl

theorem team?_stores (s : State) (gs : List Good) (id : Nat) : (gs.foldl (storeOne v str scalar deps data) s).team? id =
    (s.team? id).map fun x => { x with lane := if x.id = v.t.id then gs.foldl (storeSlice data) x.lane else x.lane } := by
  induction gs generalizing s with
  | nil =>
    simp only [List.foldl_nil, ite_self]
    exact Option.map_id'.symm
  | cons g gs ih =>
    rw [List.foldl_cons, ih, team?_storeOne, Option.map_map]
    congr 1
    funext x
    by_cases hx : x.id = v.t.id <;> simp [hx]

theorem segment?_stores (s : State) (gs : List Good) (c n : Nat) :
    (gs.foldl (storeOne v str scalar deps data) s).segment? c n =
      (s.segment? c n).map fun x => (gs.flatMap (storeLocs data)).foldl Segment.touchAt x := by
  induction gs generalizing s with
  | nil => exact Option.map_id'.symm
  | cons g gs ih =>
    rw [List.foldl_cons, ih, segment?_storeOne, Option.map_map]
    simp only [Function.comp_def, List.flatMap_cons, List.foldl_append]

theorem mem_writes_stores (s : State) (gs : List Good) {w : PWrite}
    (h : w ∈ (gs.foldl (storeOne v str scalar deps data) s).writes) : w ∈ s.writes ∨ (w.seat = v.seat ∧ w.stream = some str ∧
      w.level = 0 ∧ ∃ g ∈ gs, w.lane = laneOf scalar g ∧ w.deps = deps (laneOf scalar g)) := by
  induction gs generalizing s with
  | nil => exact .inl h
  | cons g gs ih =>
    rcases ih _ h with hmem | ⟨hseat, hstr, hlev, g', hg', hnew⟩
    · refine (mem_writes_storeOne v str scalar deps data s g hmem).imp id fun ⟨hseat, hstr, hlev, hnew⟩ => ?_
      exact ⟨hseat, hstr, hlev, g, List.mem_cons_self, hnew⟩
    · exact .inr ⟨hseat, hstr, hlev, g', List.mem_cons_of_mem g hg', hnew⟩

/-- A byte of the team's lane slices is the last one stored there, or as it was. -/
theorem laneByte_stores {s : State} {x : Team} (hx : s.team? v.t.id = some x) (gs : List Good) (key : Nat) :
    laneByte (gs.foldl (storeOne v str scalar deps data) s) v.t.id key =
      gs.foldl (fun b g => (storedLane g.t (data g.lane) key).getD b) (laneByte s v.t.id key) := by
  have hteam : (gs.foldl (storeOne v str scalar deps data) s).team? v.t.id =
      some { x with lane := gs.foldl (storeSlice data) x.lane } := by
    rw [team?_stores, hx, Option.map_some, if_pos (State.team?_id hx)]
  simp only [laneByte, hteam, hx]
  exact (List.foldl_hom (cellGet · key) fun m g => (cellGet_storeSlice data m g key).symm).symm

/-- A segment keeps all but its marks: dirty are the granules stored to besides those before, and where none of its bytes is
stored its poison is as it was. -/
theorem segment?_stores_marks {s : State} {c m n : Nat} {x : Segment} (hx : s.segment? c m = some x) {gs : List Good}
    (hlen : ∀ l, (data l).length = n) : ∃ d p,
      (gs.foldl (storeOne v str scalar deps data) s).segment? c m = some { x with dirty := d, poison := p } ∧
      (∀ y, y ∈ d ↔ y ∈ x.dirty ∨ ∃ g ∈ gs, ∃ i o, i < n ∧ targetLoc g.t i = some (.seg c m o) ∧ o / 4096 = y) ∧
      ((∀ g ∈ gs, ∀ i o, i < n → targetLoc g.t i ≠ some (.seg c m o)) → p = x.poison) := by
  obtain ⟨rfl, rfl⟩ : x.ctx = c ∧ x.name = m := by simpa using List.find?_some hx
  obtain ⟨d, p, heq, hd, hp⟩ := Segment.touchAt_marks (gs.flatMap (storeLocs data)) x
  have hmem (o : Nat) : Loc.seg x.ctx x.name o ∈ gs.flatMap (storeLocs data) ↔
      ∃ g ∈ gs, ∃ i, i < n ∧ targetLoc g.t i = some (.seg x.ctx x.name o) := by
    simp only [List.mem_flatMap, mem_storeLocs, hlen]
  refine ⟨d, p, by rw [segment?_stores, hx, Option.map_some, heq], fun y => ?_, fun hnone => hp fun o ho => ?_⟩
  · rw [hd]
    refine or_congr_right ⟨fun ⟨o, ho, hy⟩ => ?_, fun ⟨g, hg, i, o, hi, hloc, hy⟩ => ⟨o, (hmem o).mpr ⟨g, hg, i, hi, hloc⟩, hy⟩⟩
    obtain ⟨g, hg, i, hi, hloc⟩ := (hmem o).mp ho
    exact ⟨g, hg, i, o, hi, hloc, hy⟩
  · obtain ⟨g, hg, i, hi, hloc⟩ := (hmem o).mp ho
    exact hnone g hg i o hi hloc

theorem memoryWork_stores (s : State) (gs : List Good) : MemoryWork s (gs.foldl (storeOne v str scalar deps data) s) := by
  refine ⟨fun id => ?_, by rw [storeFrame_stores v str scalar deps data s gs]⟩
  rw [team?_stores, Option.map_map]
  rfl

end

/-! ### Stores complete -/

theorem storeAct_eq (f : FmtM) (scalar : Bool) (data : Nat → List Byte) (v : View) (s : State) (gs : List Good) :
    let s2 := s.quiet v.t.core (szBytes f.sz.toNat) gs
    storeAct f scalar data v s gs =
      (gs.foldl (storeOne v f.str scalar (orderedBefore s2 v.sl v.p f.str) data) s2, v.p) := rfl

/-- A store completes, given its issue and that each access has as many bytes as its size says. -/
theorem storeCompletes_of_issue {i : FmtM → Instr} {causes : FmtM → View → List Nat} {scalar : Bool}
    {parts : FmtM → View → List Part} {data : FmtM → View → Nat → List Byte}
    (he : ∀ f s, exec (i f) s = issue s (causes f) (fun _ => false) fun v =>
      memRun f.c f.str (szBytes f.sz.toNat) .store f.spc.toNat true scalar (parts f v) (data f v)
        (storeAct f scalar (data f v) v) v s)
    (hlen : ∀ f v l, causes f v = [] → (data f v l).length = szBytes f.sz.toNat) :
    StoreCompletes i causes scalar parts data := by
  intro f s v s1 gs hv hc h s2
  let stored := gs.foldl (storeOne v f.str scalar (orderedBefore s2 v.sl v.p f.str) (data f v)) s2
  have hid : v.t.id = v.sl.team := by
    obtain ⟨hsl, ht, -⟩ := State.view_spec hv
    rw [hsl]
    exact State.team?_id ht
  have hres : MemoryWork s s1 := by
    have := memoryWork_resolve s v f.spc.toNat (szBytes f.sz.toNat) .store true (parts f v)
    rwa [h.2.1] at this
  have hs2 : s2.Holds v.sl :=
    (hres.trans (memoryWork_quiet s1 v.t.core (szBytes f.sz.toNat) gs)).holds (State.holds_of_view hv)
  have hs3 : (stored.clearRemote (.slot v.sl)).Holds v.sl :=
    ((memoryWork_stores v f.str scalar _ (data f v) s2 gs).trans (memoryWork_clearRemote _ (.slot v.sl))).holds hs2
  have hmoves := hs3.movesOn f.c.ch (p := { v.p with fmask := fmaskAfter v, replay := false, idle := 0 }) rfl
  have honly := hmoves.1
  obtain ⟨x2, hx2, -⟩ := hs2
  obtain ⟨x3, hx3, -⟩ := hs3
  refine ⟨_, stored.clearRemote (.slot v.sl), ((he f s).trans (issue_run hv hc rfl)).trans
      (congrArg _ ((memRun_ready h _ _).trans (by rw [storeAct_eq]))), hmoves, ?frame, fun r l => ?seen, fun key => ?lane,
    fun id x hx => ?teams, fun c m g hg => ?segs, fun w hw hnew => ?writes⟩
  case frame =>
    have hframe : StoreFrame s2 stored := storeFrame_stores v f.str scalar _ (data f v) s2 gs
    rw [hframe]
    rfl
  case seen => exact (honly.seenByte hx3 r l).trans (seenByte_stores v f.str scalar _ (data f v) s2 gs r l)
  case lane =>
    rw [honly.laneByte hx3, ← hid]
    exact laneByte_stores v f.str scalar _ (data f v) (hid ▸ hx2) gs key
  case teams =>
    refine ⟨_, (team?_stores v f.str scalar _ (data f v) s2 gs id).trans (by rw [hx]; rfl), fun hne => if_neg fun heq => hne ?_⟩
    rw [← State.team?_id hx, heq, hid]
  case segs => exact segment?_stores_marks v f.str scalar _ (data f v) hg fun l => hlen f v l hc
  case writes =>
    have hw3 : w ∈ stored.writes := by rw [honly.1] at hw; exact hw
    obtain ⟨hseat, hstr, hlev, hby⟩ := (mem_writes_stores v f.str scalar _ (data f v) s2 gs hw3).resolve_left hnew
    exact ⟨hseat, hstr, hlev, hby⟩

/-! ### The bytes of registers (R178, R186) -/

theorem byteAt_bytesOf (x : Word) {n i : Nat} (hi : i < n) : byteAt (bytesOf x.toNat n) i = x.extractLsb' (8 * i) 8 := by
  have key (y : Nat) : byteAt (bytesOf y n) i = BitVec.ofNat 8 (y / 256 ^ i) := by
    induction n generalizing i y with
    | zero => nomatch hi
    | succ n ih =>
      cases i with
      | zero => simp [bytesOf, byteAt]
      | succ i =>
        rw [Nat.pow_succ', ← Nat.div_div_eq_div_mul]
        exact ih (Nat.lt_of_succ_lt_succ hi) (y / 256)
  apply BitVec.eq_of_toNat_eq
  rw [key, BitVec.extractLsb'_toNat, BitVec.toNat_ofNat, Nat.shiftRight_eq_div_pow, Nat.pow_mul]

theorem byteAt_take {l : List Byte} {n i : Nat} (h : i < n) : byteAt (l.take n) i = byteAt l i := by
  rw [byteAt, List.getElem?_take_of_lt h, byteAt]

theorem regsBytes_length {n g : Nat} (h : n ≤ 4 * g) (r : Nat → Word) : (regsBytes n g r).length = n := by
  have hall : ((List.range g).flatMap fun i => bytesOf (r i).toNat 4).length = 4 * g := by
    simp [List.length_flatMap, bytesOf_length, Nat.mul_comm]
  rw [regsBytes, List.length_take, hall, Nat.min_eq_left h]

/-- Byte `i` of the registers of a group is a byte of register `i / 4`. -/
theorem byteAt_regsBytes {n g i : Nat} (h : n ≤ 4 * g) (hi : i < n) (r : Nat → Word) :
    byteAt (regsBytes n g r) i = (r (i / 4)).extractLsb' (8 * (i % 4)) 8 := by
  have hg : i / 4 < (List.range g).length := by rw [List.length_range]; omega
  have hblock := block_flatMap (f := fun i => bytesOf (r i).toNat 4) (fun _ => bytesOf_length _ 4) [] hg
  rw [List.append_nil, List.getElem_range] at hblock
  have hat : byteAt ((List.range g).flatMap fun i => bytesOf (r i).toNat 4) i = byteAt (bytesOf (r (i / 4)).toNat 4) (i % 4) := by
    rw [← hblock, byteAt_take (Nat.mod_lt i (by decide)), byteAt, byteAt, List.getElem?_drop, Nat.div_add_mod]
  rw [regsBytes, byteAt_take hi, hat, byteAt_bytesOf _ (Nat.mod_lt i (by decide))]

theorem szBytes_le_group {sz : Nat} (h : sz ≤ 4) : szBytes sz ≤ 4 * szGroup sz := by
  interval_cases sz <;> decide

theorem size_of_memCauses {f : FmtM} {spcMax : Nat} {sb : Src} {v : View} (h : memCauses f spcMax sb v = []) :
    f.sz.toNat ≤ 4 := by
  simp only [memCauses, modCauses, List.append_eq_nil_iff] at h
  by_contra hsz
  simp [show 4 < f.sz.toNat by omega] at h

theorem scalarData_length {f : FmtM} (h : f.sz.toNat ≤ 4) (v : View) : (scalarData v f).length = szBytes f.sz.toNat :=
  regsBytes_length (szBytes_le_group h) _

theorem vectorData_length {f : FmtM} (h : f.sz.toNat ≤ 4) (v : View) (l : Nat) : (vectorData v f l).length = szBytes f.sz.toNat :=
  regsBytes_length (szBytes_le_group h) _

/-! ### What a location is given -/

theorem mem_targetBytes {t : Target} {data : List Byte} {p : Loc × Byte} :
    p ∈ targetBytes t data ↔ ∃ i, i < data.length ∧ targetLoc t i = some p.1 ∧ p.2 = byteAt data i := by
  obtain ⟨l, b⟩ := p
  simp [targetBytes, eq_comm]

/-- The location of a byte is given that byte. -/
theorem storedAt_located {t : Target} {data : List Byte} {l : Loc} {i : Nat} (hi : i < data.length)
    (hl : targetLoc t i = some l) : storedAt t data l = some (byteAt data i) := by
  have hmem : (l, byteAt data i) ∈ targetBytes t data := mem_targetBytes.mpr ⟨i, hi, hl, rfl⟩
  cases hf : (targetBytes t data).find? fun p => p.1 = l with
  | none => exact absurd (List.find?_eq_none.mp hf _ hmem) (by simp)
  | some p =>
    have hp : p.1 = l := by simpa using List.find?_some hf
    obtain ⟨j, -, hj, hb⟩ := mem_targetBytes.mp (List.mem_of_find?_eq_some hf)
    have hji : j = i := targetLoc_inj (hj.trans (congrArg some hp)) hl
    rw [storedAt, hf, Option.map_some, hb, hji]

/-- A location of no byte is given none. -/
theorem storedAt_elsewhere {t : Target} {data : List Byte} {l : Loc} (h : ∀ i, i < data.length → targetLoc t i ≠ some l) :
    storedAt t data l = none := by
  have hf : (targetBytes t data).find? (fun p => p.1 = l) = none := List.find?_eq_none.mpr fun p hp => by
    obtain ⟨i, hi, hl, -⟩ := mem_targetBytes.mp hp
    simpa using fun heq => h i hi (hl.trans (congrArg some heq))
  rw [storedAt, hf, Option.map_none]

/-- Settles O27: the common course of the stores, what their accesses leave together, and the bytes of registers. -/
theorem storesComplete : Obligations.StoresComplete := by
  have hsize {f : FmtM} {spcMax : Nat} {sb : Src} {v : View} {l : List Nat} (h : memCauses f spcMax sb v ++ l = []) :
      f.sz.toNat ≤ 4 := size_of_memCauses (List.append_eq_nil_iff.mp h).1
  refine ⟨storeCompletes_of_issue (fun _ _ => rfl) fun f v _ hc => scalarData_length (hsize hc) v,
    storeCompletes_of_issue (fun _ _ => rfl) fun f v l hc => vectorData_length (hsize hc) v l,
    storeCompletes_of_issue (fun _ _ => rfl) fun f v l hc => vectorData_length (hsize hc) v l,
    fun t data l i hi hl => storedAt_located hi hl, fun t data l h => storedAt_elsewhere h, fun v f l i hsz hi => ?_⟩
  exact ⟨byteAt_regsBytes (szBytes_le_group hsz) hi _, byteAt_regsBytes (szBytes_le_group hsz) hi _⟩

end Sys2Proof.Machine
end

section

/-! PROOFS. A read-modify-write of bytes that a write in flight lists twice (O30). -/

namespace Sys2Proof.Machine

/-- It performs the write first, and so reads the byte listed last (R195). -/
theorem rmw_twiceListed : (twiceListed.rmw homeSeat (.phys 0 0) 1 id).2 = 2 := rfl

/-- Refutes O30: in `twiceListed`, whose writes are in order and where no host cache holds a line, the one write in flight lists
physical address 0 with 1 and then with 2; what it leaves there counts as the byte listed first, and a read-modify-write of
that byte answers the one listed last. -/
theorem not_atomicsAndReductions : ¬ Obligations.AtomicsAndReductions := by
  unfold Obligations.AtomicsAndReductions
  intro ⟨hrmw, _⟩
  obtain ⟨hold, -⟩ := hrmw twiceListed homeSeat (.phys 0 0) 1 id writesOk_twiceListed (fun _ h => nomatch h) (.inl ⟨0, 0, rfl⟩)
  have hleft : ofBytes ((List.range 1).map fun i => ((targetLoc (.phys 0 0) i).map (finalByte twiceListed)).getD 0) = 1 := by
    simp only [List.range_one, List.map_cons, List.map_nil, targetLoc, Option.map_some, Nat.add_zero, finalByte_twiceListed]
    rfl
  rw [rmw_twiceListed, hleft] at hold
  exact absurd hold (by decide)

end Sys2Proof.Machine
end

section

/-! PROOFS. Failing accesses (O29): which of an operation's accesses failed, the slot that stops on the lowest of them, and what
the good lanes do (R182 to R185, R192, R193, R371, R393, R397, R398). -/

namespace Sys2Proof.Machine

/-! ### The accesses that failed (R182, R183) -/

/-- The access a failed check is of. -/
def Bad.part (b : Bad) : Part := ⟨b.lane, b.addr⟩

/-- Checking one access adds it to the failed ones or leaves them. -/
theorem resolveOne_bad (v : View) (spc n : Nat) (k : Access) (ok : Bool) (acc : State × Resolved) (p : Part) :
    (resolveOne v spc n k ok acc p).2.bad = acc.2.bad ∨
      ∃ b : Bad, b.part = p ∧ (resolveOne v spc n k ok acc p).2.bad = acc.2.bad ++ [b] := by
  unfold resolveOne
  split
  · exact .inr ⟨_, rfl, rfl⟩
  · dsimp only
    split
    · exact .inr ⟨_, rfl, rfl⟩
    · exact .inl rfl
  · exact .inl rfl

/-- The failed accesses are some of those checked, in their order. -/
theorem resolve_bad (s : State) (v : View) (spc n : Nat) (k : Access) (ok : Bool) (ps : List Part) :
    ((resolve s v spc n k ok ps).2.bad.map Bad.part).Sublist ps := by
  have key (acc : State × Resolved) : ∃ l : List Part, l.Sublist ps ∧
      (ps.foldl (resolveOne v spc n k ok) acc).2.bad.map Bad.part = acc.2.bad.map Bad.part ++ l := by
    induction ps generalizing acc with
    | nil => exact ⟨[], List.Sublist.refl _, by simp⟩
    | cons p ps ih =>
      obtain ⟨l, hl, heq⟩ := ih (resolveOne v spc n k ok acc p)
      rcases resolveOne_bad v spc n k ok acc p with hb | ⟨b, hpart, hb⟩
      · exact ⟨l, hl.cons _, by rw [List.foldl_cons, heq, hb]⟩
      · exact ⟨p :: l, hl.cons_cons _, by rw [List.foldl_cons, heq, hb]; simp [hpart]⟩
  obtain ⟨l, hl, heq⟩ := key (s, ⟨[], []⟩)
  exact heq ▸ hl

/-- Where accesses are checked in ascending lane order, the first that failed has the lowest lane. -/
theorem resolve_bad_lowest {s s1 : State} {v : View} {spc n : Nat} {k : Access} {ok : Bool} {ps : List Part} {gs : List Good}
    {b : Bad} {bs : List Bad} (hps : (ps.map Part.lane).Pairwise (· < ·))
    (hr : resolve s v spc n k ok ps = (s1, ⟨gs, b :: bs⟩)) : ∀ x ∈ bs, b.lane < x.lane := by
  have hsub := (resolve_bad s v spc n k ok ps).map Part.lane
  rw [hr, List.map_map] at hsub
  intro x hx
  exact (List.pairwise_cons.mp (hps.sublist hsub)).1 x.lane (List.mem_map_of_mem hx)

/-- A bit of the mask of faulted lanes (R185). -/
theorem Resolved.mask_getLsbD (r : Resolved) {l : Nat} (hl : l < 96) : r.mask.getLsbD l = true ↔ ∃ x ∈ r.bad, x.lane = l := by
  have hbit (i : Nat) : ((1 <<< i : Nat) : Lanes).getLsbD l = decide (i = l) := by
    rw [BitVec.natCast_eq_ofNat, BitVec.getLsbD_ofNat, decide_eq_true hl, Bool.true_and, Nat.one_shiftLeft, Nat.testBit_two_pow]
  have key (bs : List Bad) (m : Lanes) : (bs.foldl (fun (m : Lanes) b => m ||| (1 <<< b.lane)) m).getLsbD l = true ↔
      m.getLsbD l = true ∨ ∃ x ∈ bs, x.lane = l := by
    induction bs generalizing m with
    | nil => simp
    | cons b bs ih =>
      rw [List.foldl_cons, ih, BitVec.getLsbD_or, hbit]
      simp [or_assoc]
  have hmask := key r.bad 0
  simpa [Resolved.mask] using hmask

/-! ### The slot that stops (R393, R397, R398) -/

/-- The slot held on a fault stays at its operation, with its fault mask and the replay it owes; outside an expansion it keeps its
results and its REP. -/
theorem Slot.holdOn_frame (p : Slot) (id : Nat) : (p.holdOn id).pc = p.pc ∧ (p.holdOn id).status = .held id ∧
    (p.holdOn id).fmask = p.fmask ∧ (p.holdOn id).replay = p.replay ∧ (p.holdOn id).exp = none ∧
    (p.exp = none → (p.holdOn id).pend = p.pend ∧ (p.holdOn id).rep = p.rep) := by
  cases he : p.exp with
  | none =>
    rw [Slot.holdOn_plain he]
    exact ⟨rfl, rfl, rfl, rfl, he, fun _ => ⟨rfl, rfl⟩⟩
  | some x =>
    have hhold : p.holdOn id = { ({ p.endChain with idle := 0 } : Slot).leaveExp with status := .held id, rep := none } := by
      simp [Slot.holdOn, Slot.endChain, he]
    rw [hhold]
    exact ⟨rfl, rfl, rfl, rfl, rfl, fun h => nomatch h⟩

/-- A record of a context that has not ended, or of none, takes the next number behind the others (R402). -/
theorem State.addRec_live {s : State} {r : FRec} (priv : Bool) (h : (s.ctx? r.ctx).map Context.ended ≠ some true) :
    s.addRec r priv = { s with
      recs := s.recs ++ [{ r with id := s.nextRec, toOs := s.recToOs r priv, cycle := s.cycle }], nextRec := s.nextRec + 1 } := by
  unfold State.addRec
  dsimp only
  cases hc : s.ctx? r.ctx with
  | none => rfl
  | some c =>
    have hlive : c.ended = false := by simpa [hc] using h
    simp [hlive]

/-- The slot of `v` has stopped on a memory fault: of the package nothing differs from `s` but the slot and one record more. The
slot, `u` afterwards, stands at its operation with the results `pend` and the faulted lanes `m`; the record `r` is that of the
failed access `b`. -/
structure FaultStop (v : View) (pend : List Pend) (m : Lanes) (b : Bad) (s t : State) (u : View) (r : FRec) : Prop where
  only : OnlyWave v.sl { s with recs := s.recs ++ [r], nextRec := s.nextRec + 1 } t
  find : t.find v.sl = some u
  slot : OnlySlot v u
  pc : u.p.pc = v.p.pc
  status : u.p.status = .held s.nextRec
  fmask : u.p.fmask = m
  replay : u.p.replay = !v.inExp
  exp : u.p.exp = none
  plain : v.p.exp = none → u.p.pend = pend ∧ u.p.rep = v.p.rep
  id : r.id = s.nextRec
  cls : r.cls = .mem
  cause : r.cause = b.f.cause
  sub : r.sub = b.f.sub
  rst : r.rst = b.f.rst
  addr : r.addr = b.addr
  recPc : r.pc = v.p.pc
  recExp : r.exp = v.p.exp.isSome
  info : r.info = m.extractLsb' 0 64
  info2 : r.info2 = m.extractLsb' 64 32
  sl : r.sl = some v.sl

/-- A slot that has done its good accesses, of which only its results and the poison it has met differ, stops on the lowest failed
one. -/
theorem State.Holds.faultStop {s : State} {v : View} (hs : s.Holds v.sl)
    (hctx : (s.ctx? v.t.ctx).map Context.ended ≠ some true) {p : Slot}
    (hp : p = { v.p with pend := p.pend, poisonStop := p.poisonStop }) (m : Lanes) (b : Bad) (vec : Bool) :
    ∃ u r, FaultStop v p.pend m b s (s.stopSlot { v with p := { p with fmask := m, replay := !v.inExp } }
      { memRec s v b.f b.addr m with vec := vec }) u r := by
  have hexp : p.exp = v.p.exp := by rw [hp]
  have hpc : p.pc = v.p.pc := by rw [hp]
  have hrep : p.rep = v.p.rep := by rw [hp]
  unfold State.stopSlot
  rw [State.addRec_live _ hctx]
  obtain ⟨honly, t, hfind⟩ := State.Holds.putWave (v := v) (s := { s with recs := _, nextRec := s.nextRec + 1 }) hs
    (v.w.setSlot v.sl.b (Slot.holdOn { p with fmask := m, replay := !v.inExp } s.nextRec))
  rw [Wave.slot_setSlot] at hfind
  obtain ⟨hholdPc, hstatus, hfmask, hreplay, hnone, hplain⟩ :=
    Slot.holdOn_frame { p with fmask := m, replay := !v.inExp } s.nextRec
  exact ⟨_, _, honly, hfind, ⟨rfl, rfl⟩, hholdPc.trans hpc, hstatus, hfmask, hreplay, hnone,
    fun he => (hplain (hexp.trans he)).imp id fun h => h.trans hrep, rfl, rfl, rfl, rfl, rfl, rfl, rfl, rfl, rfl, rfl, rfl⟩

section
variable {v : View} {pend : List Pend} {m : Lanes} {b : Bad} {s t : State} {u : View} {r : FRec}
  (h : FaultStop v pend m b s t u r)
include h

theorem FaultStop.recs : t.recs = s.recs ++ [r] := by rw [h.only.1]

theorem FaultStop.memory : t.mem = s.mem ∧ t.writes = s.writes ∧ t.comb = s.comb := by
  rw [h.only.1]
  exact ⟨rfl, rfl, rfl⟩

theorem FaultStop.seenByte (hs : s.Holds v.sl) (a : Seat) (l : Loc) : seenByte t a l = Machine.seenByte s a l := by
  obtain ⟨x, hx, -⟩ := hs
  exact h.only.seenByte (x := x) hx a l

end

/-! ### The course of an operation of which some accesses fail (R182 to R185) -/

/-- Of an operation's accesses `b` and `bs` fail their checks, which leave `s1`, and none of the others, `gs`, has to wait. -/
structure AccessesFault (s : State) (v : View) (n : Nat) (k : Access) (f : FmtM) (ok scalar : Bool) (ps : List Part)
    (s1 : State) (gs : List Good) (b : Bad) (bs : List Bad) : Prop where
  walks : partNeeds s v f.spc.toNat k ps = []
  resolved : resolve s v f.spc.toNat n k ok ps = (s1, ⟨gs, b :: bs⟩)
  targets : ∀ g ∈ gs, targetNeeds s1 (decide (k ≠ .load)) n g.t = [] ∧ touchNeeds s1 v.t.core g.t n = []
  answered : unanswered s1 (.slot v.sl) gs = []
  locs : k = .atomic → locNeeds s1 (goodLocs s1 n gs) = []
  before : k ≠ .store → beforeNeeds s1 v f.str (gs.map (laneOf scalar)) (goodLocs s1 n gs) = []

/-- The faulted lanes an operation leaves: none where it is scalar. -/
def faultMask (scalar : Bool) (gs : List Good) (bs : List Bad) : Lanes := if scalar then 0 else (⟨gs, bs⟩ : Resolved).mask

section
variable {s s1 : State} {v : View} {n : Nat} {k : Access} {f : FmtM} {ok scalar : Bool} {ps : List Part} {gs : List Good}
  {b : Bad} {bs : List Bad} (h : AccessesFault s v n k f ok scalar ps s1 gs b bs)
include h

/-- The good accesses are made, and the slot stops on the lowest failed one. -/
theorem memRun_fault (data : Nat → List Byte) (act : State → List Good → State × Slot) :
    let s3 := (act s1 gs).1.clearRemote (.slot v.sl)
    let m := faultMask scalar gs (b :: bs)
    memRun f.c f.str n k f.spc.toNat ok scalar ps data act v s =
      s3.stopSlot { v with p := { (act s1 gs).2 with fmask := m, replay := !v.inExp } }
        { memRec s3 v b.f b.addr m with vec := !scalar } := by
  obtain ⟨hwalks, hres, hneeds, hfar, hatomic, hbefore⟩ := h
  have htargets : (gs.flatMap fun g => targetNeeds s1 (decide (k ≠ .load)) n g.t ++ touchNeeds s1 v.t.core g.t n) = [] := by
    simpa [List.flatMap_eq_nil_iff] using hneeds
  have hloc : (if k = .atomic then locNeeds s1 (gs.flatMap fun g => readLocs s1 n g.t) else []) = [] := by
    split
    · next hk => exact hatomic hk
    · rfl
  have hord : (if k = .store then beforeNeeds s1 v f.str
        (([] : List Good).map fun g => if scalar then none else some g.lane) []
      else beforeNeeds s1 v f.str (gs.map fun g => if scalar then none else some g.lane)
        (gs.flatMap fun g => readLocs s1 n g.t)) = [] := by
    split
    · exact beforeNeeds_nil s1 v f.str
    · next hk => exact hbefore hk
  simp only [memRun, hwalks, hres, htargets, hloc, hfar, hord]
  rfl

/-- Whatever memory work the good accesses do, the slot has stopped on the lowest failed one. -/
theorem faultStop_memRun (hv : s.view = some v) (hctx : (s1.ctx? v.t.ctx).map Context.ended ≠ some true)
    (data : Nat → List Byte) {act : State → List Good → State × Slot} (hwork : MemoryWork s1 (act s1 gs).1)
    (hctxs : (act s1 gs).1.ctxs = s1.ctxs)
    (hp : (act s1 gs).2 = { v.p with pend := (act s1 gs).2.pend, poisonStop := (act s1 gs).2.poisonStop }) :
    ((act s1 gs).1.clearRemote (.slot v.sl)).Holds v.sl ∧
    ∃ u r, FaultStop v (act s1 gs).2.pend (faultMask scalar gs (b :: bs)) b ((act s1 gs).1.clearRemote (.slot v.sl))
      (memRun f.c f.str n k f.spc.toNat ok scalar ps data act v s) u r := by
  have hres : MemoryWork s s1 := by
    have := memoryWork_resolve s v f.spc.toNat n k ok ps
    rwa [h.resolved] at this
  have hs3 := ((hres.trans hwork).trans (memoryWork_clearRemote _ (.slot v.sl))).holds (State.holds_of_view hv)
  have hctx3 : (((act s1 gs).1.clearRemote (.slot v.sl)).ctx? v.t.ctx).map Context.ended ≠ some true := by
    have hsame : ((act s1 gs).1.clearRemote (.slot v.sl)).ctx? v.t.ctx = s1.ctx? v.t.ctx := by
      simp only [State.ctx?, State.clearRemote, hctxs]
    rwa [hsame]
  rw [memRun_fault h data act]
  exact ⟨hs3, hs3.faultStop hctx3 hp _ b _⟩

end

/-! ### Scalar operations (R182) -/

/-- One access that fails leaves nothing to wait for. -/
theorem accessesFault_alone {s s1 : State} {v : View} {n : Nat} {k : Access} {f : FmtM} {ok scalar : Bool} {ps : List Part}
    {b : Bad} (hwalks : partNeeds s v f.spc.toNat k ps = [])
    (hres : resolve s v f.spc.toNat n k ok ps = (s1, ⟨[], [b]⟩)) : AccessesFault s v n k f ok scalar ps s1 [] b [] where
  walks := hwalks
  resolved := hres
  targets := fun _ hg => nomatch hg
  answered := rfl
  locs := fun _ => by simp [goodLocs, locNeeds, coverNeeds, writeSnoops, neededFor_none]
  before := fun _ => beforeNeeds_nil s1 v f.str

/-- Without an access a load performs no write and leaves no result. -/
theorem loadAct_none (f : FmtM) (v : View) {s : State} (hlev : ∀ w ∈ s.writes, w.level < 6) :
    ∃ dec, loadAct f true v s [] = ({ s with decoded := dec }, v.p) := by
  obtain ⟨dec, h⟩ := State.forceBefore_of_none (s := s) (v := v) (k := f.str) (ls := []) (locs := []) (fun _ hl => nomatch hl)
    (by simp [sameAddress]) hlev
  exact ⟨dec, Prod.ext h rfl⟩

/-- A scalar operation whose act does nothing without an access stops its slot on the access that failed. -/
theorem scalar_faults {s s1 : State} {v : View} {n : Nat} {k : Access} {f : FmtM} {ok : Bool} {p : Part} {b : Bad}
    {dec : List DecLine} (hv : s.view = some v) (hctx : (s1.ctx? v.t.ctx).map Context.ended ≠ some true)
    (h : AccessesFault s v n k f ok true [p] s1 [] b []) (data : Nat → List Byte) {act : State → List Good → State × Slot}
    (hact : act s1 [] = ({ s1 with decoded := dec }, v.p)) :
    b.addr = p.addr ∧ ∃ u r, FaultStop v v.p.pend 0 b (({ s1 with decoded := dec } : State).clearRemote (.slot v.sl))
      (memRun f.c f.str n k f.spc.toNat ok true [p] data act v s) u r := by
  have hpart := resolve_bad s v f.spc.toNat n k ok [p]
  rw [h.resolved] at hpart
  obtain ⟨hb⟩ : b.part = p ∧ True := by simpa using hpart
  obtain ⟨-, u, r, hstop⟩ := faultStop_memRun h hv hctx data (act := act) (by rw [hact]; exact .of_same rfl rfl)
    (by rw [hact]) (by rw [hact])
  rw [hact] at hstop
  exact ⟨congrArg Part.addr hb, u, r, hstop⟩

/-! ### Loads and stores of good lanes (R186, R187) -/

theorem memoryWork_loadAct (f : FmtM) (scalar : Bool) (v : View) (s : State) (gs : List Good) :
    MemoryWork s (loadAct f scalar v s gs).1 :=
  ((memoryWork_quiet s _ _ gs).trans (memoryWork_forceBefore _ v f.str _ _)).trans (memoryWork_fillGood _ v.seat _ gs)

theorem memoryWork_storeAct (f : FmtM) (scalar : Bool) (data : Nat → List Byte) (v : View) (s : State) (gs : List Good) :
    MemoryWork s (storeAct f scalar data v s gs).1 :=
  (memoryWork_quiet s _ _ gs).trans (memoryWork_stores v f.str scalar _ data _ gs)

/-- The slot of a vector load has one result more. -/
theorem loadAct_slot (f : FmtM) (v : View) (s : State) (gs : List Good) :
    let n := szBytes f.sz.toNat
    let s2 := (s.quiet v.t.core n gs).forceBefore v f.str (gs.map (laneOf false)) (goodLocs s n gs)
    (loadAct f false v s gs).2 = v.p.addPend (loadPend f false v s2 gs) := by
  intro n s2
  rw [loadAct_eq, if_neg fun h => Bool.false_ne_true h.1]

theorem Keeps.ctxs {s t : State} (h : Keeps true s t) : t.ctxs = s.ctxs := (h.inside rfl).ctxs

/-! ### No new poison (R167, R183) -/

/-- What meets no uncorrectable error in `s` meets none in `t`. -/
def NoNewPoison (s t : State) : Prop := ∀ n x, targetPoisoned s n x = false → targetPoisoned t n x = false

theorem NoNewPoison.refl (s : State) : NoNewPoison s s := fun _ _ => id

theorem NoNewPoison.trans {s t u : State} (h : NoNewPoison s t) (h' : NoNewPoison t u) : NoNewPoison s u :=
  fun n x hx => h' n x (h n x hx)

theorem NoNewPoison.foldl {α : Type} {f : State → α → State} (h : ∀ s x, NoNewPoison s (f s x)) (l : List α) (s : State) :
    NoNewPoison s (l.foldl f s) := by
  induction l generalizing s with
  | nil => exact .refl s
  | cons x l ih => exact (h s x).trans (ih (f s x))

/-- The lines with errors, the windows and the segments decide. -/
theorem NoNewPoison.of_same {s t : State} (hp : t.poison = s.poison) (hw : t.windows = s.windows) (hs : t.segs = s.segs) :
    NoNewPoison s t := by
  have hwin : t.window = s.window := funext fun w => by rw [State.window, hw, State.window]
  have hseg (c m : Nat) : t.segment? c m = s.segment? c m := by rw [State.segment?, hs, State.segment?]
  intro n x hx
  rw [← hx]
  cases x with
  | dec w q =>
    have hdec : decodedFrom t w q n = decodedFrom s w q n := by unfold decodedFrom decodedOf; rw [hwin]
    simp only [targetPoisoned, hdec, hp]
  | _ => simp only [targetPoisoned, hseg, hp]

theorem noNewPoison_writes (s : State) (ws : List PWrite) : NoNewPoison s { s with writes := ws } := .of_same rfl rfl rfl

theorem noNewPoison_dropDecoded (s : State) (lines : List Nat) : NoNewPoison s (s.dropDecoded lines) := .of_same rfl rfl rfl

theorem noNewPoison_comb (s : State) (l : List CombEntry) : NoNewPoison s { s with comb := l } := .of_same rfl rfl rfl

theorem noNewPoison_lateReds (s : State) (l : List CombEntry) : NoNewPoison s { s with lateReds := l } := .of_same rfl rfl rfl

/-- A byte written into a segment takes errors away and adds none. -/
theorem Segment.touch_poison (g : Segment) (o x : Nat) (h : (g.poison.any fun p => p.1 = x) = false) :
    ((g.touch o).poison.any fun p => p.1 = x) = false := by
  simp only [List.any_eq_false, decide_eq_true_eq] at h ⊢
  intro p hp
  obtain ⟨q, hq, rfl⟩ := List.mem_map.mp (List.mem_filter.mp hp).1
  have hkey : (if q.1 = o / 4096 then (q.1, insertNat o q.2) else q).1 = q.1 := by split <;> rfl
  rw [hkey]
  exact h q hq

theorem noNewPoison_setBase (s : State) (l : Loc) (x : Byte) : NoNewPoison s (setBase s l x) := by
  cases l with
  | phys a => exact .of_same rfl rfl rfl
  | scratch t o => exact .of_same rfl rfl rfl
  | seg c m o =>
    intro n t ht
    cases t with
    | seg c' m' o' =>
      have hseg : (setBase s (.seg c m o) x).segment? c' m' = (s.segment? c' m').map fun g =>
          if g.ctx = c ∧ g.name = m then { g.touch o with data := cellSet g.data o x } else g :=
        s.segment?_map c' m' (fun g => by split <;> rfl) (fun g => by split <;> rfl)
      simp only [targetPoisoned, hseg] at ht ⊢
      cases hg : s.segment? c' m' with
      | none => rfl
      | some g =>
        rw [hg] at ht
        simp only [Option.map_some]
        split
        · exact g.touch_poison o _ ht
        · exact ht
    | _ => exact ht

theorem noNewPoison_setBases (s : State) (bytes : List (Loc × Byte)) :
    NoNewPoison s (bytes.foldl (fun s p => setBase s p.1 p.2) s) := .foldl (fun s p => noNewPoison_setBase s p.1 p.2) bytes s

theorem noNewPoison_perform (s : State) (lvl : Nat) (p : PWrite → Bool) : NoNewPoison s (s.perform lvl p) :=
  (((noNewPoison_writes s _).trans (noNewPoison_writes _ _)).trans (noNewPoison_dropDecoded _ _)).trans
    (.foldl (fun s (w : PWrite) => noNewPoison_setBases s w.bytes) _ _)

theorem noNewPoison_hostYield (s : State) (line : Nat) (inv : Bool) : NoNewPoison s (s.hostYield line inv) := by
  unfold State.hostYield
  split <;> exact .of_same rfl rfl rfl

theorem noNewPoison_writeNow (s : State) (bytes : List (Loc × Byte)) : NoNewPoison s (s.writeNow bytes) :=
  (((noNewPoison_perform s 6 _).trans (.foldl (fun s l => noNewPoison_hostYield s l true) _ _)).trans
    (noNewPoison_dropDecoded _ _)).trans (noNewPoison_setBases _ bytes)

theorem noNewPoison_request (s : State) (ns : List Need) : NoNewPoison s (s.request ns) := by
  refine .foldl (fun s x => ?_) ns s
  cases x with
  | snoop l inv =>
    dsimp only
    unfold State.snoop
    split <;> exact .of_same rfl rfl rfl
  | cxl l => dsimp only; split <;> exact .of_same rfl rfl rfl
  | team t => dsimp only; split <;> exact .of_same rfl rfl rfl
  | place => exact .refl s

theorem noNewPoison_placeAtomic (s : State) (core pl line : Nat) : NoNewPoison s (s.placeAtomic core pl line) := by
  unfold State.placeAtomic
  dsimp only
  split
  · unfold State.grant
    dsimp only
    split <;> exact .of_same rfl rfl rfl
  · split <;> exact .of_same rfl rfl rfl

theorem noNewPoison_flushEntry (s : State) (e : CombEntry) : NoNewPoison s (s.flushEntry e) := by
  unfold State.flushEntry
  split
  · rw [State.charge, State.addRec_frame]
    exact .of_same rfl rfl rfl
  · split
    · exact (noNewPoison_lateReds s _).trans (noNewPoison_request _ _)
    · exact (NoNewPoison.foldl (fun s l => noNewPoison_placeAtomic s e.core e.pl l) _ s).trans
        ((noNewPoison_perform _ 6 _).trans (noNewPoison_writeNow _ _))

theorem noNewPoison_flushComb (s : State) (p : CombEntry → Bool) : NoNewPoison s (s.flushComb p) := by
  have hlate : NoNewPoison s s.performLate :=
    ((noNewPoison_lateReds s _).trans (.foldl noNewPoison_flushEntry _ _)).trans (noNewPoison_request _ _)
  exact (hlate.trans (noNewPoison_comb _ _)).trans (.foldl noNewPoison_flushEntry _ _)

theorem noNewPoison_flushFor (s : State) (core : Nat) (t : Target) (n : Nat) : NoNewPoison s (s.flushFor core t n) := by
  cases t with
  | phys pa mt => exact noNewPoison_flushComb s _
  | dec w q => exact noNewPoison_flushComb s _
  | _ => exact .refl s

theorem noNewPoison_atomStart (v : View) (f : FmtM) (s : State) (gs : List Good) : NoNewPoison s (atomStart v f s gs) :=
  NoNewPoison.trans (.foldl (fun s (g : Good) => noNewPoison_flushFor s v.t.core g.t _) gs s) (noNewPoison_perform _ 6 _)

/-! ### ATOM in good lanes (R192, R195) -/

theorem memoryWork_atomLane (v : View) (f : FmtM) (s : State) (g : Good) : MemoryWork s (atomLane v f s g).1 :=
  MemoryWork.trans (.foldl (fun s l => memoryWork_placeAtomic s v.t.core (atomPl f) l) _ s) (memoryWork_rmw _ _ _ _ _)

theorem memoryWork_atomStart (v : View) (f : FmtM) (s : State) (gs : List Good) : MemoryWork s (atomStart v f s gs) :=
  MemoryWork.trans (.foldl (fun s (g : Good) => memoryWork_flushFor s v.t.core g.t _) gs s) (memoryWork_forceBefore _ v f.str _ _)

theorem memoryWork_atomRun (v : View) (f : FmtM) (s : State) (gs : List Good) : MemoryWork s (atomRun v f s gs).1 := by
  induction gs generalizing s with
  | nil => exact .refl s
  | cons g gs ih => exact (memoryWork_atomLane v f s g).trans (ih _)

theorem Keeps.atomStart {b : Bool} {o s : State} (h : Keeps b o s) {v f gs} : Keeps b o (Machine.atomStart v f s gs) :=
  (h.foldl fun _ _ h => h.flushFor).forceBefore

theorem Keeps.atomRun {b : Bool} {o s : State} (h : Keeps b o s) {v f gs} : Keeps b o (Machine.atomRun v f s gs).1 := by
  induction gs generalizing s with
  | nil => exact h
  | cons g gs ih => exact ih h.atomLane

/-- Register `i` of lane `l`, from the old value of each lane. -/
def oldOfLane (vals : List (Nat × Nat)) (i l : Nat) : Word :=
  match vals.find? fun x => x.1 = l with
  | none => 0
  | some x => BitVec.ofNat 32 (x.2 / 2 ^ (32 * i))

/-- The lanes of an ATOM in turn, each with its old value behind those before. -/
theorem foldl_atomLane (v : View) (f : FmtM) (s : State) (gs : List Good) (vals : List (Nat × Nat)) :
    gs.foldl (fun a x => ((atomLane v f a.1 x).1, a.2 ++ [(x.lane, (atomLane v f a.1 x).2)])) (s, vals) =
      ((atomRun v f s gs).1, vals ++ (gs.zip (atomRun v f s gs).2).map fun x => (x.1.lane, x.2)) := by
  induction gs generalizing s vals with
  | nil => simp [atomRun]
  | cons g gs ih => simp [ih, atomRun]

/-- The result an ATOM leaves where no lane meets an error. -/
def atomPend (f : FmtM) (v : View) (gs : List Good) (olds : List Nat) : Pend :=
  v.ordered (Pend.vec .ld f.d (szGroup f.sz.toNat) (goodMask gs) (oldOfLane ((gs.zip olds).map fun x => (x.1.lane, x.2))))

/-- Where no lane meets an error, an ATOM runs its lanes in turn and leaves their old values pending. -/
theorem atomAct_clean {f : FmtM} {v : View} {s : State} {gs : List Good}
    (h : ∀ g ∈ gs, targetPoisoned (atomStart v f s gs) (szBytes f.sz.toNat) g.t = false) :
    let run := atomRun v f (atomStart v f s gs) gs
    atomAct f v s gs = (run.1, v.p.addPend (atomPend f v gs run.2)) := by
  have hsplit := splitPoison_clean (v := v) h
  have hfold := foldl_atomLane v f (atomStart v f s gs) gs []
  have hact : atomAct f v s gs =
      let x := splitPoison (atomStart v f s gs) v (szBytes f.sz.toNat) gs
      let y := x.1.foldl (fun a x => ((atomLane v f a.1 x).1, a.2 ++ [(x.lane, (atomLane v f a.1 x).2)])) (atomStart v f s gs, [])
      (y.1, v.p.addPend (v.ordered
        { Pend.vec .ld f.d (szGroup f.sz.toNat) (goodMask x.1) (oldOfLane y.2) with poison := x.2 })) := rfl
  rw [hact, hsplit]
  dsimp only
  rw [hfold, Pend.with_poison_none (Pend.vec_poison ..)]
  rfl

/-- In accesses of distinct lanes, the old value of a lane is found by it. -/
theorem oldOfLane_zip {gs : List Good} (hl : (gs.map Good.lane).Nodup) {olds : List Nat} {g : Good} {old : Nat}
    (h : (g, old) ∈ gs.zip olds) (j : Nat) :
    oldOfLane ((gs.zip olds).map fun x => (x.1.lane, x.2)) j g.lane = BitVec.ofNat 32 (old / 2 ^ (32 * j)) := by
  have hfind : ((gs.zip olds).map fun x => (x.1.lane, x.2)).find? (fun x => x.1 = g.lane) = some (g.lane, old) := by
    induction gs generalizing olds with
    | nil => nomatch h
    | cons x gs ih =>
      cases olds with
      | nil => nomatch h
      | cons y olds =>
        obtain ⟨hx, hl⟩ := List.nodup_cons.mp hl
        rcases List.mem_cons.mp h with heq | hmem
        · cases heq
          simp
        · have hne : x.lane ≠ g.lane := fun he => hx (he ▸ List.mem_map_of_mem (List.of_mem_zip hmem).1)
          rw [List.zip_cons_cons, List.map_cons, List.find?_cons_of_neg (by simpa using hne), ih hl hmem]
  rw [oldOfLane, hfind]

/-! ### RED in good lanes (R193, R198) -/

theorem memoryWork_rest (s : State) (e : CombEntry) : MemoryWork s (s.rest e) := by
  unfold State.rest
  extract_lets n s1 same mine s2
  have h1 : MemoryWork s s1 := memoryWork_flushComb s _
  have h2 : MemoryWork s s2 := by
    dsimp only [s2]
    generalize mine = l
    cases l with
    | nil => exact h1
    | cons o l =>
      dsimp only
      split
      · exact h1
      · exact (h1.trans (memoryWork_comb s1 _)).trans (memoryWork_flushEntry _ o)
  split
  · exact h1.trans (memoryWork_comb s1 _)
  · exact h2.trans (memoryWork_comb s2 _)

theorem memoryWork_redLane (v : View) (f : FmtM) (s : State) (g : Good) : MemoryWork s (redLane v f s g) := by
  unfold redLane
  split
  · exact memoryWork_rest s _
  · exact memoryWork_atomLane v f s g

/-- A list is what is kept of it by either of a property and not being dropped for its lack. -/
theorem filter_or_contains {α : Type} [BEq α] [LawfulBEq α] (p : α → Bool) (l : List α) :
    l.filter (fun x => p x || (l.filter fun y => !p y).contains x) = l :=
  List.filter_eq_self.mpr fun x hx => by cases hp : p x <;> simp [hp, hx]

/-- Where no lane meets an error, a RED makes its reductions in turn. -/
theorem redAct_clean {f : FmtM} {v : View} {s : State} {gs : List Good}
    (h : ∀ g ∈ gs, targetPoisoned (s.forceFenced v f.str (gs.map (laneOf false))) (szBytes f.sz.toNat) g.t = false) :
    redAct f v s gs = (gs.foldl (redLane v f) (s.forceFenced v f.str (gs.map (laneOf false))), v.p) := by
  unfold redAct
  extract_lets n rests s1
  have hsplit : splitPoison s1 v n (gs.filter fun g => !rests g) = (gs.filter fun g => !rests g, none) :=
    splitPoison_clean fun g hg => h g (List.mem_filter.mp hg).1
  rw [hsplit]
  dsimp only
  rw [filter_or_contains]
  have hnone : (v.p.poisonStop <|> none) = v.p.poisonStop := by cases v.p.poisonStop <;> rfl
  exact Prod.ext rfl (congrArg (fun x => { v.p with poisonStop := x }) hnone)

/-! ### What the good lanes have done -/

section
variable (v : View) (f : FmtM) (s1 : State) (gs : List Good) (t : State) (u : View)

/-- A vector store: the wave's own agents see the bytes of the good lanes, in ascending order, and no other byte differs. -/
def StoredGood : Prop :=
  let n := szBytes f.sz.toNat
  (v.p.exp = none → u.p.pend = v.p.pend) ∧ ∀ a l, seenByte t a l =
    if joinScope v.seat a = 0 then
      gs.foldl (fun y g => (storedAt g.t (vectorData v f g.lane) l).getD y) (seenByte (s1.quiet v.t.core n gs) a l)
    else seenByte (s1.quiet v.t.core n gs) a l

/-- A vector load: the values read are pending in the good lanes. -/
def LoadedGood : Prop :=
  let n := szBytes f.sz.toNat
  let s2 := (s1.quiet v.t.core n gs).forceBefore v f.str (gs.map (laneOf false)) (goodLocs s1 n gs)
  v.p.exp = none → (∀ g ∈ gs, targetPoisoned s2 n g.t = false) →
    ∃ val, u.p.pend = v.p.pend ++ [v.ordered (Pend.vec .ld f.d (szGroup f.sz.toNat) (goodMask gs) val)] ∧
      ∀ g ∈ gs, ∀ j, val j g.lane = regOfBytes (goodBytes s2 v.seat n g) j

/-- ATOM: the good lanes have run in turn, and their old values are pending in them. -/
def AtomGood : Prop :=
  v.p.exp = none → ∃ val, u.p.pend = v.p.pend ++ [v.ordered (Pend.vec .ld f.d (szGroup f.sz.toNat) (goodMask gs) val)] ∧
    let run := atomRun v f (atomStart v f s1 gs) gs
    t.mem = run.1.mem ∧ t.writes = run.1.writes ∧
      ∀ g old, (g, old) ∈ gs.zip run.2 → ∀ j, val j g.lane = BitVec.ofNat 32 (old / 2 ^ (32 * j))

/-- RED: the reductions of the good lanes are made in turn. -/
def RedGood : Prop :=
  (v.p.exp = none → u.p.pend = v.p.pend) ∧
    let run := gs.foldl (redLane v f) (s1.forceFenced v f.str (gs.map (laneOf false)))
    t.mem = run.mem ∧ t.writes = run.writes ∧ t.comb = run.comb

end

section
variable {s s1 : State} {v : View} {f : FmtM} {ps : List Part} {gs : List Good} {b : Bad} {bs : List Bad}
  (hv : s.view = some v) (hctx : (s1.ctx? v.t.ctx).map Context.ended ≠ some true)
include hv hctx

theorem vectorStore_fault {data : Nat → List Byte}
    (h : AccessesFault s v (szBytes f.sz.toNat) .store f true false ps s1 gs b bs) :
    let t := memRun f.c f.str (szBytes f.sz.toNat) .store f.spc.toNat true false ps data (storeAct f false (vectorData v f) v) v s
    ∃ s3 pend u r, FaultStop v pend (faultMask false gs (b :: bs)) b s3 t u r ∧ StoredGood v f s1 gs t u := by
  obtain ⟨hs3, u, r, hstop⟩ := faultStop_memRun h hv hctx data (memoryWork_storeAct f false (vectorData v f) v s1 gs)
    (Keeps.ctxs Keeps.refl.storeAct) rfl
  refine ⟨_, _, u, r, hstop, fun he => (hstop.plain he).1, fun a l => (hstop.seenByte hs3 a l).trans ?_⟩
  exact seenByte_stores v f.str false _ (vectorData v f) (s1.quiet v.t.core (szBytes f.sz.toNat) gs) gs a l

theorem vectorLoad_fault (hlanes : (ps.map Part.lane).Pairwise (· < ·))
    (h : AccessesFault s v (szBytes f.sz.toNat) .load f true false ps s1 gs b bs) :
    let t := memRun f.c f.str (szBytes f.sz.toNat) .load f.spc.toNat true false ps (fun _ => []) (loadAct f false v) v s
    ∃ s3 pend u r, FaultStop v pend (faultMask false gs (b :: bs)) b s3 t u r ∧ LoadedGood v f s1 gs u := by
  have hslot := loadAct_slot f v s1 gs
  obtain ⟨-, u, r, hstop⟩ := faultStop_memRun h hv hctx (fun _ => []) (memoryWork_loadAct f false v s1 gs)
    (Keeps.ctxs Keeps.refl.loadAct) (by rw [hslot]; rfl)
  refine ⟨_, _, u, r, hstop, fun he hclean => ?_⟩
  have hgood := resolve_lanes s v f.spc.toNat (szBytes f.sz.toNat) .load true ps
  rw [h.resolved] at hgood
  obtain ⟨val, hpend, hval⟩ := loadPend_vector (hgood.nodup (hlanes.imp Nat.ne_of_lt)) hclean
  refine ⟨val, (hstop.plain he).1.trans ?_, hval⟩
  rw [hslot, ← hpend]
  rfl

theorem atom_fault (hlanes : (ps.map Part.lane).Pairwise (· < ·))
    (h : AccessesFault s v (szBytes f.sz.toNat) .atomic f false false ps s1 gs b bs)
    (hclean : ∀ g ∈ gs, targetPoisoned s1 (szBytes f.sz.toNat) g.t = false) :
    let t := memRun f.c f.str (szBytes f.sz.toNat) .atomic f.spc.toNat false false ps (fun _ => []) (atomAct f v) v s
    ∃ s3 pend u r, FaultStop v pend (faultMask false gs (b :: bs)) b s3 t u r ∧ AtomGood v f s1 gs t u := by
  have hact := atomAct_clean (f := f) (v := v) fun g hg => noNewPoison_atomStart v f s1 gs _ _ (hclean g hg)
  obtain ⟨-, u, r, hstop⟩ := faultStop_memRun (act := atomAct f v) h hv hctx (fun _ => [])
    (by rw [hact]; exact (memoryWork_atomStart v f s1 gs).trans (memoryWork_atomRun v f _ gs))
    (by rw [hact]; exact Keeps.ctxs Keeps.refl.atomStart.atomRun) (by rw [hact]; rfl)
  rw [hact] at hstop
  obtain ⟨hmem, hwrites, -⟩ := hstop.memory
  have hgood := resolve_lanes s v f.spc.toNat (szBytes f.sz.toNat) .atomic false ps
  rw [h.resolved] at hgood
  exact ⟨_, _, u, r, hstop, fun he => ⟨_, (hstop.plain he).1, hmem, hwrites,
    fun g old hold j => oldOfLane_zip (hgood.nodup (hlanes.imp Nat.ne_of_lt)) hold j⟩⟩

theorem red_fault (h : AccessesFault s v (szBytes f.sz.toNat) .atomic f false false ps s1 gs b bs)
    (hclean : ∀ g ∈ gs, targetPoisoned s1 (szBytes f.sz.toNat) g.t = false) :
    let t := memRun f.c f.str (szBytes f.sz.toNat) .atomic f.spc.toNat false false ps (fun _ => []) (redAct f v) v s
    ∃ s3 pend u r, FaultStop v pend (faultMask false gs (b :: bs)) b s3 t u r ∧ RedGood v f s1 gs t u := by
  have hact := redAct_clean (f := f) (v := v) (s := s1) (gs := gs) fun g hg => noNewPoison_perform s1 6 _ _ _ (hclean g hg)
  obtain ⟨-, u, r, hstop⟩ := faultStop_memRun (act := redAct f v) h hv hctx (fun _ => [])
    (by rw [hact]; exact (memoryWork_perform s1 6 _).trans (.foldl (memoryWork_redLane v f) gs _))
    (Keeps.ctxs Keeps.refl.redAct) (by rw [hact])
  rw [hact] at hstop
  exact ⟨_, _, u, r, hstop, fun he => (hstop.plain he).1, hstop.memory⟩

end

/-- Settles O29: a scalar operation's act does nothing but stop the slot; a vector operation's good lanes are acted on first, by the
kind of the operation. -/
theorem faultingAccessesStopTheSlot : Obligations.FaultingAccessesStopTheSlot := by
  refine ⟨fun f s v s1 b i k hv hact hlev hctx hi hwalks hres => ?scalar,
    fun f s v s1 gs b bs i k parts hv hctx hi hwalks hres htargets hfar hloc hbefore hclean => ?vector⟩
  case scalar =>
    obtain ⟨t, u, r, dec, hexec, haddr, hstop⟩ : ∃ t u r dec, exec i s = .next t ∧ b.addr = (scalarPart v f).addr ∧
        FaultStop v v.p.pend 0 b (({ s1 with decoded := dec } : State).clearRemote (.slot v.sl)) t u r := by
      have hfault := accessesFault_alone (scalar := true) hwalks hres
      have hparts : (if scalarActive v f.c then [scalarPart v f] else []) = [scalarPart v f] := if_pos hact
      rcases hi with ⟨rfl, rfl, hcount, hc⟩ | ⟨rfl, rfl, hc⟩
      · obtain ⟨dec, hnone⟩ := loadAct_none f v hlev
        obtain ⟨haddr, u, r, hstop⟩ := scalar_faults hv hctx hfault (fun _ => []) hnone
        have hfull : v.full .ld = false := decide_eq_false (by omega)
        exact ⟨_, u, r, dec, (issue_run hv hc hfull).trans (by rw [hparts]), haddr, hstop⟩
      · obtain ⟨haddr, u, r, hstop⟩ := scalar_faults hv hctx hfault (fun _ => scalarData v f)
          (act := storeAct f true (fun _ => scalarData v f) v) (dec := s1.decoded) rfl
        exact ⟨_, u, r, s1.decoded, (issue_run hv hc rfl).trans (by rw [hparts]), haddr, hstop⟩
    obtain ⟨hmem, hwrites, -⟩ := hstop.memory
    exact ⟨t, u, r, hexec, hstop.find, hstop.slot, hstop.pc, hstop.status, hstop.fmask, hstop.replay, hstop.exp, hstop.plain,
      hstop.recs, hstop.cls, hstop.cause, hstop.sub, hstop.rst, hstop.addr.trans haddr, hstop.recPc, hstop.recExp, hstop.sl,
      hstop.info, hmem, hwrites⟩
  case vector =>
    have hgather : ((gatherParts v f).map Part.lane).Pairwise (· < ·) := gatherParts_lanes v f ▸ lanesList_ascending _
    have hblock : ((blockParts v f).map Part.lane).Pairwise (· < ·) := blockParts_lanes v f ▸ lanesList_ascending _
    have hfault : AccessesFault s v (szBytes f.sz.toNat) k f (decide (k ≠ .atomic)) false parts s1 gs b bs :=
      ⟨hwalks, hres, htargets, hfar, hloc, hbefore⟩
    obtain ⟨hlanes, t, s3, pend, u, r, hexec, hstop, hstore, hload, hatom, hred⟩ :
        (parts.map Part.lane).Pairwise (· < ·) ∧ ∃ t s3 pend u r, exec i s = .next t ∧
          FaultStop v pend (faultMask false gs (b :: bs)) b s3 t u r ∧ (k = .store → StoredGood v f s1 gs t u) ∧
          (k = .load → LoadedGood v f s1 gs u) ∧ (i = .atom f → AtomGood v f s1 gs t u) ∧
          (i = .red f → RedGood v f s1 gs t u) := by
      rcases hi with ⟨rfl, hcount, hi⟩ | ⟨rfl, hi⟩ | ⟨rfl, rfl, hi⟩
      · have hfull : v.full .ld = false := decide_eq_false (by omega)
        rcases hi with ⟨rfl, rfl, hc⟩ | ⟨rfl, rfl, hc⟩
        · obtain ⟨s3, pend, u, r, hstop, hdone⟩ := vectorLoad_fault hv hctx hgather hfault
          exact ⟨hgather, _, s3, pend, u, r, issue_run hv hc hfull, hstop, nofun, fun _ => hdone, nofun, nofun⟩
        · obtain ⟨s3, pend, u, r, hstop, hdone⟩ := vectorLoad_fault hv hctx hblock hfault
          exact ⟨hblock, _, s3, pend, u, r, issue_run hv hc hfull, hstop, nofun, fun _ => hdone, nofun, nofun⟩
      · rcases hi with ⟨rfl, rfl, hc⟩ | ⟨rfl, rfl, hc⟩
        · obtain ⟨s3, pend, u, r, hstop, hdone⟩ := vectorStore_fault hv hctx (data := vectorData v f) hfault
          exact ⟨hgather, _, s3, pend, u, r, issue_run hv hc rfl, hstop, fun _ => hdone, nofun, nofun, nofun⟩
        · obtain ⟨s3, pend, u, r, hstop, hdone⟩ := vectorStore_fault hv hctx (data := vectorData v f) hfault
          exact ⟨hblock, _, s3, pend, u, r, issue_run hv hc rfl, hstop, fun _ => hdone, nofun, nofun, nofun⟩
      · rcases hi with ⟨rfl, hwait, hc⟩ | ⟨rfl, hc⟩
        · obtain ⟨s3, pend, u, r, hstop, hdone⟩ := atom_fault hv hctx hgather hfault hclean
          exact ⟨hgather, _, s3, pend, u, r, issue_run hv hc hwait, hstop, nofun, nofun, fun _ => hdone, nofun⟩
        · obtain ⟨s3, pend, u, r, hstop, hdone⟩ := red_fault hv hctx hfault hclean
          exact ⟨hgather, _, s3, pend, u, r, issue_run hv hc rfl, hstop, nofun, nofun, nofun, fun _ => hdone⟩
    have hmask : u.p.fmask = (⟨gs, b :: bs⟩ : Resolved).mask := hstop.fmask
    refine ⟨resolve_bad_lowest hlanes hres, t, u, r, hexec, hstop.find, hstop.slot, hstop.pc, hstop.status.trans (by rw [hstop.id]),
      fun l hl => hmask ▸ Resolved.mask_getLsbD _ hl, hstop.replay, hstop.exp, fun he => (hstop.plain he).2, ⟨_, hstop.recs⟩,
      hstop.cls, hstop.cause, hstop.rst, hstop.addr, hstop.recPc, hstop.recExp, ?_, ?_, hstop.sl, hstore, hload, hatom, hred⟩
    · rw [hstop.info, hstop.fmask]
    · rw [hstop.info2, hstop.fmask]

end Sys2Proof.Machine
end

section
/-!
PROOFS. The integer operations of classes 0 and 1 complete with the values of their rules (R215 to R226). Each is the ALU
course with a result of its destination's kind; where the rule's value is written otherwise than the model's function, a lemma
says that they agree.
-/

namespace Sys2Proof.Machine

/-! ### Operations whose exec is one of the shared forms -/

section
variable {i : FmtA → Instr}

/-- The ALU course completes with any way to write its result. -/
theorem aluCompletes_of_value {m : FmtA → AluForm} {r r' : FmtA → View → AluResult}
    (he : ∀ f s, exec (i f) s = alu (m f) f (r f) s) (hr : ∀ f v, r f v = r' f v) (hk : ∀ f v, KindOk (m f).d (r f v)) :
    AluCompletes i m r' :=
  (funext fun f => funext (hr f) : r = r') ▸ aluCompletes_of_alu he hk

theorem scal1_of_exec {g : Word → Word} (he : ∀ f s, exec (i f) s = scal1 f g s) : Scal1 i g :=
  aluCompletes_of_alu he fun _ _ => rfl

theorem scal2_of_exec {g : FmtA → Word → Word → Word} (he : ∀ f s, exec (i f) s = scal2 f (g f) s) : Scal2 i g :=
  aluCompletes_of_alu he fun _ _ => rfl

theorem scal3_of_exec {g : FmtA → Word → Word → Word → Word} (he : ∀ f s, exec (i f) s = scal3 f (g f) s) : Scal3 i g :=
  aluCompletes_of_alu he fun _ _ => rfl

theorem scal64_of_exec {g : Dword → Dword → Dword} (he : ∀ f s, exec (i f) s = scal64 f g s) : Scal64 i g :=
  aluCompletes_of_alu he fun _ _ => rfl

theorem vec1_of_exec {g : Word → Word} (he : ∀ f s, exec (i f) s = vec1 f g s) : Vec1 i g :=
  aluCompletes_of_alu he fun _ _ => rfl

theorem vec2_of_exec {g : Word → Word → Word} (he : ∀ f s, exec (i f) s = vec2 f g s) : Vec2 i g :=
  aluCompletes_of_alu he fun _ _ => rfl

theorem vec3_of_exec {g : FmtA → Word → Word → Word → Word} (he : ∀ f s, exec (i f) s = vec3 f (g f) s) : Vec3 i g :=
  aluCompletes_of_alu he fun _ _ => rfl

theorem packed_of_exec {g : Int → Int → Int} (he : ∀ f s, exec (i f) s = vecElems f true (fun _ _ => g) s) : Packed i g :=
  aluCompletes_of_alu he fun _ _ => rfl

theorem packedPick_of_exec {sg up : Bool} (he : ∀ f s, exec (i f) s = vecMinMax f sg up s) : PackedPick i sg up :=
  aluCompletes_of_alu he fun _ _ => rfl

end

/-! ### Pairs of registers (R3, R219) -/

/-- A pair is its upper register in front of its lower one. -/
theorem pairOf_eq_append (lo hi : Word) : pairOf lo hi = hi ++ lo := by
  refine BitVec.eq_of_getLsbD_eq fun j hj => ?_
  simp only [pairOf, BitVec.getLsbD_or, BitVec.getLsbD_shiftLeft, BitVec.truncate_eq_setWidth, BitVec.getLsbD_setWidth,
    BitVec.getLsbD_append]
  by_cases h : j < 32
  · simp [h, hj]
  · simp [h, hj, BitVec.getLsbD_of_ge lo j (by omega), show j - 32 < 64 by omega]

/-- A number below 2^64 is its upper word in front of its lower one. -/
theorem ofNat_eq_append (t : Nat) : BitVec.ofNat 64 t = BitVec.ofNat 32 (t / 2 ^ 32) ++ BitVec.ofNat 32 t := by
  refine BitVec.eq_of_getLsbD_eq fun j hj => ?_
  rw [BitVec.getLsbD_append, BitVec.getLsbD_ofNat, BitVec.getLsbD_ofNat, BitVec.getLsbD_ofNat, Nat.testBit_div_two_pow]
  by_cases h : j < 32
  · simp [h, hj]
  · simp [h, hj, show j - 32 < 32 by omega, show j - 32 + 32 = j by omega]

/-! ### Shifts of 64 bits (R217, R221) -/

/-- A shift left by the width or more leaves nothing. -/
theorem shiftLeft_cut (a : Dword) (n : Nat) : (if n < 64 then a <<< n else 0) = a <<< n := by
  split
  · rfl
  · exact (BitVec.shiftLeft_eq_zero (by omega)).symm

/-- A logical shift right by the width or more leaves nothing. -/
theorem ushiftRight_cut (a : Dword) (n : Nat) : (if n < 64 then a >>> n else 0) = a >>> n := by
  split
  · rfl
  · exact (BitVec.ushiftRight_eq_zero (by omega)).symm

/-- An arithmetic shift right by the width or more leaves the sign. -/
theorem sshiftRight_cut (a : Dword) (n : Nat) :
    (if n < 64 then a.sshiftRight n else if a.msb then BitVec.allOnes 64 else 0) = a.sshiftRight n := by
  split
  · rfl
  · next h =>
    refine BitVec.eq_of_getLsbD_eq fun j hj => ?_
    rw [BitVec.getLsbD_sshiftRight, if_neg (show ¬n + j < 64 by omega), decide_eq_false (show ¬64 ≤ j by omega)]
    cases a.msb
    · exact BitVec.getLsbD_zero
    · exact (BitVec.getLsbD_allOnes ..).trans (decide_eq_true hj)

/-- The magnitude of VABS is the greater of the value and its negation (R222). -/
theorem natAbs_eq_max (x : Int) : (x.natAbs : Int) = max x (-x) := (Int.natCast_natAbs x).trans abs_eq_max_neg

/-! ### The operations of classes 0 and 1 -/

/-- Settles O1: each is one of the forms of one, two or three 32-bit sources with the function of its rule. -/
theorem scalarOperationsComplete : Obligations.ScalarOperationsComplete :=
  ⟨scal2_of_exec fun _ _ => rfl, scal2_of_exec fun _ _ => rfl, scal2_of_exec fun _ _ => rfl, scal2_of_exec fun _ _ => rfl,
    scal2_of_exec fun _ _ => rfl, scal2_of_exec fun _ _ => rfl, scal2_of_exec fun _ _ => rfl, scal2_of_exec fun _ _ => rfl,
    scal2_of_exec fun _ _ => rfl, scal2_of_exec fun _ _ => rfl, scal2_of_exec fun _ _ => rfl, scal3_of_exec fun _ _ => rfl,
    scal3_of_exec fun _ _ => rfl, scal1_of_exec fun _ _ => rfl, scal1_of_exec fun _ _ => rfl, scal1_of_exec fun _ _ => rfl,
    scal1_of_exec fun _ _ => rfl, scal2_of_exec fun _ _ => rfl, scal2_of_exec fun _ _ => rfl, scal2_of_exec fun _ _ => rfl,
    scal2_of_exec fun _ _ => rfl, scal3_of_exec fun _ _ => rfl, scal1_of_exec fun _ _ => rfl⟩

/-- Settles O2: each is the ALU course; the pairs of SADDC and SSUBB and the cuts of the 64-bit shifts by the lemmas above. -/
theorem scalarWideOperationsComplete : Obligations.ScalarWideOperationsComplete := by
  refine ⟨aluCompletes_of_alu (fun _ _ => rfl) fun _ _ => rfl, aluCompletes_of_alu (fun _ _ => rfl) fun _ _ => rfl, ?saddc, ?ssubb,
    aluCompletes_of_alu (fun _ _ => rfl) fun _ _ => rfl, ?smovi, scal64_of_exec fun _ _ => rfl, scal64_of_exec fun _ _ => rfl,
    scal64_of_exec fun _ _ => rfl, ?sshl64, ?sshr64⟩
  case saddc =>
    exact aluCompletes_of_value (fun _ _ => rfl) (fun _ _ => congrArg (AluResult.scal 2) (ofNat_eq_append _)) fun _ _ => rfl
  case ssubb =>
    exact aluCompletes_of_value (fun _ _ => rfl) (fun _ _ => congrArg (AluResult.scal 2) (pairOf_eq_append ..)) fun _ _ => rfl
  case smovi => exact fun f s v hv hc => ⟨_, issue_run hv hc rfl, alu_effect hv hc rfl⟩
  case sshl64 =>
    exact aluCompletes_of_value (fun _ _ => rfl) (fun _ _ => congrArg (AluResult.scal 2) (shiftLeft_cut ..)) fun _ _ => rfl
  case sshr64 =>
    refine aluCompletes_of_value (fun _ _ => rfl) (fun f v => congrArg (AluResult.scal 2) ?_) fun _ _ => rfl
    simp only [sshiftRight_cut, ushiftRight_cut]

/-- Settles O4: each is one of the forms of one, two or three 32-bit sources with the function of its rule, VSEL the same with a
predicate and VADD64 with pairs. -/
theorem vectorIntegerOperationsComplete : Obligations.VectorIntegerOperationsComplete :=
  ⟨vec2_of_exec fun _ _ => rfl, vec2_of_exec fun _ _ => rfl, vec2_of_exec fun _ _ => rfl, vec3_of_exec fun _ _ => rfl,
    vec2_of_exec fun _ _ => rfl, vec2_of_exec fun _ _ => rfl, vec2_of_exec fun _ _ => rfl, vec2_of_exec fun _ _ => rfl,
    vec2_of_exec fun _ _ => rfl, vec2_of_exec fun _ _ => rfl, vec2_of_exec fun _ _ => rfl, vec1_of_exec fun _ _ => rfl,
    vec3_of_exec fun _ _ => rfl, vec3_of_exec fun _ _ => rfl, vec1_of_exec fun _ _ => rfl, vec1_of_exec fun _ _ => rfl,
    aluCompletes_of_alu (fun _ _ => rfl) fun _ _ => rfl, aluCompletes_of_alu (fun _ _ => rfl) fun _ _ => rfl⟩

/-- Settles O5: the packed forms with the exact operation of each; VABS by its magnitude, VQDOT by its sum written out. -/
theorem packedOperationsComplete : Obligations.PackedOperationsComplete := by
  refine ⟨packed_of_exec fun _ _ => rfl, packed_of_exec fun _ _ => rfl, packedPick_of_exec fun _ _ => rfl,
    packedPick_of_exec fun _ _ => rfl, packedPick_of_exec fun _ _ => rfl, packedPick_of_exec fun _ _ => rfl, ?vabs, ?vqdot⟩
  case vabs =>
    refine aluCompletes_of_value (fun _ _ => rfl) (fun f v => congrArg AluResult.v32 (funext fun l => ?_)) fun _ _ => rfl
    simp only [natAbs_eq_max]
  case vqdot =>
    exact aluCompletes_of_alu (fun _ _ => rfl) fun _ _ => rfl

end Sys2Proof.Machine
end

section
/-!
PROOFS. The mask words s60 to s62 (R38, R207).
-/

namespace Sys2Proof.Machine

/-- A lane's bit of a mask lies in the mask word of that lane. -/
theorem getLsbD_mask_eq (m : Lanes) {l : Nat} : m.getLsbD l = (maskWord m (l / 32)).getLsbD (l % 32) := by
  rw [getLsbD_maskWord, Nat.div_add_mod]
  simp [Nat.mod_lt]

/-- s60 to s62 read the mask (R207). -/
theorem readSReg_maskWord (w : Wave) (p : Slot) {i : Nat} (hi : i < 3) : readSReg w p (60 + i) = maskWord p.mask i := by
  rw [readSReg, if_neg (by omega), if_pos (by omega), Nat.add_sub_cancel_left]

/-- What a mask word keeps of a value: the bits of owned lanes. -/
theorem getLsbD_ownedCut (p : Slot) (x : Word) {i j : Nat} (hi : i < 3) (hj : j < 32) :
    (ownedCut p (60 + i) x).getLsbD j = (x.getLsbD j && p.owned.getLsbD (32 * i + j)) := by
  rw [ownedCut, if_pos (by omega), BitVec.getLsbD_and, getLsbD_maskWord, Nat.add_sub_cancel_left]
  simp [hj]

/-- After an ALU-class operation with a 32-bit scalar result that names a mask word, the mask holds the result's bits in the owned
lanes of that word where an owned lane is active, and is otherwise as it was (R207). -/
theorem AluEffect.mask {f : FmtA} {x : Word} {v : View} {s t : State} (h : AluEffect f (.s32 x) v s t) (hn : f.c.nw = false)
    (hlo : 60 ≤ f.d.toNat) (hhi : f.d.toNat ≤ 62) :
    ∃ u, t.find v.sl = some u ∧ u.p.owned = v.p.owned ∧ ∀ l, l < 96 → u.p.mask.getLsbD l =
      if v.p.owned &&& guardLanes v.w f.c ≠ 0 ∧ l / 32 = f.d.toNat - 60 then x.getLsbD (l % 32) && v.p.owned.getLsbD l
      else v.p.mask.getLsbD l := by
  obtain ⟨-, u, hfind, -, -, -, hregs, -, -, -, ⟨hslot, -⟩, -⟩ := h
  have hact : effLanes f (.s32 x) v = v.p.owned &&& guardLanes v.w f.c := by
    simp [effLanes, AluResult.s32, hn, View.activeTo, hlo, hhi]
  refine ⟨u, hfind, by rw [hslot], fun l hl => ?_⟩
  have hi : l / 32 < 3 := by omega
  have hj : l % 32 < 32 := by omega
  have hword := hregs (60 + l / 32) (by omega)
  rw [readSReg_maskWord _ _ hi, hact, AluResult.s32, AluResult.sregAfter, readSReg_maskWord _ _ hi] at hword
  rw [getLsbD_mask_eq, hword]
  by_cases hc : v.p.owned &&& guardLanes v.w f.c ≠ 0 ∧ l / 32 = f.d.toNat - 60
  · have hd : 60 + l / 32 - f.d.toNat = 0 := by omega
    rw [if_pos hc, if_pos ⟨hn, hc.1, by omega, by omega⟩, getLsbD_ownedCut _ _ hi hj, hd, extract_zeroExtend _ (by decide),
      Nat.mul_zero, BitVec.extractLsb'_eq_self, Nat.div_add_mod]
  · rw [if_neg hc, if_neg fun h => hc ⟨h.2.1, by omega⟩, ← getLsbD_mask_eq]

/-! ### Groups that begin at a mask word -/

/-- A scalar pair is written lowest register first. -/
theorem writeScal_pair (w : Wave) (b : Bool) {sel : BitVec 8} (h : sel.toNat < 0x40) (x : BitVec 128) :
    writeScal w b 2 sel x =
      writeSReg (writeSReg w b sel.toNat (x.extractLsb' 0 32)) b (sel.toNat + 1) (x.extractLsb' 32 32) := by
  simp [writeScal, writeScalarReg, List.range_succ, h]

theorem slot_writeSReg_maskWord (w : Wave) (b : Bool) {n : Nat} (hlo : 60 ≤ n) (hhi : n ≤ 62) (x : Word) :
    (writeSReg w b n x).slot b =
      { w.slot b with mask := setMaskWord (w.slot b).mask (n - 60) (x &&& maskWord (w.slot b).owned (n - 60)) } := by
  rw [writeSReg, if_neg (by omega)]
  simp only [hlo, hhi, and_self, if_true, Wave.slot_setSlot]

theorem slot_writeSReg_s63 (w : Wave) (b : Bool) (x : Word) :
    (writeSReg w b 63 x).slot b = { w.slot b with bank := cellSet (w.slot b).bank 63 x } := by
  simp [writeSReg]

/-- A group of a late result that begins at a mask word is reserved (R38). -/
theorem lateDst_maskWord (v : View) (c : ResClass) (g : Nat) {d : BitVec 8} (hlo : 60 ≤ d.toNat) (hhi : d.toNat ≤ 62) :
    0x03 ∈ dstCauses v (some c) (.scal g) d := by
  simp [dstCauses, dstForm, hlo, hhi, show d.toNat < 64 by omega]

/-- Settles O16: the mask after SMOVI from the effect of the ALU course, pairs register by register. -/
theorem maskWordsKeepOwnedLanes : Obligations.MaskWordsKeepOwnedLanes := by
  refine ⟨fun w p i => readSReg_maskWord w p, fun f s v hv hc hn hlo hhi => ?smovi, fun w p x n hn => ?pair,
    fun v d g c hlo hhi _ => lateDst_maskWord v c g hlo hhi⟩
  case smovi =>
    obtain ⟨u, hfind, howned, hmask⟩ :=
      AluEffect.mask (alu_effect (m := smoviForm) (r := fun _ => .s32 f.imm) hv hc rfl) hn hlo hhi
    exact ⟨_, u, issue_run hv hc rfl, hfind, hmask, howned, rfl⟩
  case pair =>
    have hlow : (x.zeroExtend 128).extractLsb' 0 32 = x.extractLsb' 0 32 := extract_zeroExtend x (by decide) 0 32
    have hhigh : (x.zeroExtend 128).extractLsb' 32 32 = x.extractLsb' 32 32 := extract_zeroExtend x (by decide) 32 32
    obtain rfl | rfl := hn
    · rw [writeScal_pair _ _ (by decide), hlow, hhigh]
      show (writeSReg (writeSReg _ _ 60 _) _ 61 _).slot _ = _
      rw [slot_writeSReg_maskWord _ _ (by decide) (by decide), slot_writeSReg_maskWord _ _ (by decide) (by decide), Wave.slot_setSlot]
      rfl
    · rw [writeScal_pair _ _ (by decide), hlow, hhigh]
      show (writeSReg (writeSReg _ _ 62 _) _ 63 _).slot _ = _
      rw [slot_writeSReg_s63, slot_writeSReg_maskWord _ _ (by decide) (by decide), Wave.slot_setSlot]
      rfl

end Sys2Proof.Machine
end

section
/-!
PROOFS. JOIN and EXIT: the wave each leaves in the cases of R342 and R343.
-/

namespace Sys2Proof.Machine

/-! ### Slots that go on, park and stop -/

@[simp] theorem Slot.goTo_owned (p : Slot) (a : Dword) : (p.goTo a).owned = p.owned := by
  unfold Slot.goTo Slot.jump
  split <;> rfl

@[simp] theorem Slot.goTo_live (p : Slot) (a : Dword) : (p.goTo a).live = p.live := by
  unfold Slot.goTo Slot.jump
  split <;> rfl

/-- Outside an expansion the address of the next operation is that of the next word (R340). -/
theorem Slot.linkAddr_plain {p : Slot} (h : p.exp = none) : p.linkAddr = p.pc + 8 := by
  simp [Slot.linkAddr, h]

/-- The slot that waits at its JOIN for the other one: parked, or stopped while a pre-emption request stands (R342, R344). -/
def View.parked (v : View) : Slot :=
  if v.t.preempt.isSome then v.p.stopHere else { v.p.endChain with status := .parkedJoin, idle := 0 }

theorem View.parked_status (v : View) : v.parked.status = if v.t.preempt.isSome then .stopped else .parkedJoin := by
  unfold View.parked
  split <;> rfl

theorem View.parked_pc (v : View) : v.parked.pc = v.p.pc := by
  unfold View.parked Slot.stopHere
  split
  · split <;> rfl
  · rfl

/-! ### Waves with another stack -/

/-- The wave with another divergence stack. -/
def Wave.withStack (w : Wave) (st : List DivEntry) : Wave := { w with stack := st }

@[simp] theorem Wave.withStack_slot (w : Wave) (st : List DivEntry) (b : Bool) : (w.withStack st).slot b = w.slot b := rfl
@[simp] theorem Wave.withStack_stack (w : Wave) (st : List DivEntry) : (w.withStack st).stack = st := rfl
@[simp] theorem Wave.withStack_status (w : Wave) (st : List DivEntry) : (w.withStack st).status = w.status := rfl

/-- Two waves that share their registers. -/
def Wave.SameRegs (w x : Wave) : Prop := x.v = w.v ∧ x.s = w.s ∧ x.k = w.k

theorem Wave.SameRegs.refl (w : Wave) : w.SameRegs w := ⟨rfl, rfl, rfl⟩

theorem Wave.SameRegs.setSlot {w x : Wave} (h : w.SameRegs x) (b : Bool) (p : Slot) : w.SameRegs (x.setSlot b p) := by
  cases b <;> exact h

theorem Wave.SameRegs.withStack {w x : Wave} (h : w.SameRegs x) (st : List DivEntry) : w.SameRegs (x.withStack st) := h

theorem Wave.SameRegs.merge {w x : Wave} (h : w.SameRegs x) (s : State) (sl : SlotId) : w.SameRegs (mergeInto s sl x) :=
  ((h.withStack _).setSlot _ _).setSlot _ _

/-! ### Merging and freeing slots -/

/-- Outside a REP and an expansion the slot a SPLIT's owner merges into goes on with the lanes of both, and the other is free. -/
theorem mergeInto_spec (s : State) {sl : SlotId} {w : Wave} (hr : (w.slot sl.b).rep = none) (he : (w.slot sl.b).exp = none) :
    ((mergeInto s sl w).slot sl.b).pc = (w.slot sl.b).pc + 8 ∧
      ((mergeInto s sl w).slot sl.b).owned = (w.slot sl.b).owned ||| (w.slot (!sl.b)).owned ∧
      ((mergeInto s sl w).slot sl.b).mask = (w.slot sl.b).owned ||| (w.slot (!sl.b)).owned ∧
      ((mergeInto s sl w).slot (!sl.b)).live = false ∧ (mergeInto s sl w).stack = popSplit sl.b w.stack := by
  simp only [mergeInto, Wave.slot_not_setSlot, Wave.slot_setSlot, Wave.setSlot_stack, Slot.onward_owned, Slot.onward_mask,
    Slot.onward_pc]
  refine ⟨?_, rfl, rfl, rfl, trivial⟩
  rw [Slot.retire_word]
  · rfl
  · exact hr
  · exact he

/-- The slot that gave up its lanes is free, whatever its partner does. -/
theorem freeSlot_live (s : State) (sl : SlotId) (w : Wave) : ((freeSlot s sl w).slot sl.b).live = false := by
  unfold freeSlot
  dsimp only
  split
  · split
    · have hb : sl.b = !(partner sl).b := (Bool.not_not _).symm
      rw [mergeInto, hb, Wave.slot_setSlot]
      rfl
    · rw [Wave.slot_not_setSlot, Wave.slot_setSlot]
      rfl
  · split
    · rw [Wave.slot_setSlot]
      rfl
    · show ((w.setSlot sl.b .free).slot sl.b).live = false
      rw [Wave.slot_setSlot]
      rfl

theorem freeSlot_last (s : State) {sl : SlotId} {w : Wave} (h : (w.slot (!sl.b)).live = false) :
    freeSlot s sl w = { w.setSlot sl.b .free with status := .exited } := by
  simp [freeSlot, Slot.atJoin, h]

theorem freeSlot_beside (s : State) {sl : SlotId} {w : Wave} (h : (w.slot (!sl.b)).live = true)
    (hs : (w.slot (!sl.b)).status ≠ .parkedJoin) : freeSlot s sl w = w.setSlot sl.b .free := by
  simp [freeSlot, Slot.atJoin, h, hs]

theorem Wave.SameRegs.free {w x : Wave} (h : w.SameRegs x) (s : State) (sl : SlotId) : w.SameRegs (freeSlot s sl x) := by
  unfold freeSlot
  dsimp only
  split
  · split
    · exact (h.setSlot _ _).merge _ _
    · exact (h.setSlot _ _).setSlot _ _
  · split
    · exact h.setSlot _ _
    · exact h.setSlot sl.b .free

/-! ### JOIN (R342) -/

section
variable (s : State) {v : View}

section
variable {e : DivEntry} (htop : topOwned v.w.stack v.sl.b = some e)
include htop

/-- UNIF: the entry is popped, and the slot goes on. -/
theorem joinWave_unif (hk : e.kind = .unif) :
    joinWave s v = (v.w.withStack (popOwned v.sl.b v.w.stack)).setSlot v.sl.b v.p.onward := by
  simp only [joinWave, htop, hk, Wave.withStack]

/-- DEFER: the deferred lanes run, and the others wait on a MERGE. -/
theorem joinWave_defer (hk : e.kind = .defer) :
    joinWave s v = (v.w.withStack
        ({ kind := .merge, ownerB := v.sl.b, pc := v.p.linkAddr, lanes := v.p.owned } :: popOwned v.sl.b v.w.stack)).setSlot v.sl.b
      ({ v.p with owned := e.lanes, mask := e.lanes }.goTo e.pc) := by
  simp only [joinWave, htop, hk, Wave.withStack]

/-- MERGE: the slot goes on with the lanes that waited too. -/
theorem joinWave_merge (hk : e.kind = .merge) :
    joinWave s v = (v.w.withStack (popOwned v.sl.b v.w.stack)).setSlot v.sl.b
      ({ v.p with owned := v.p.owned ||| e.lanes, mask := v.p.owned ||| e.lanes }.goTo e.pc) := by
  simp only [joinWave, htop, hk, Wave.withStack]

/-- SPLIT beside a slot that has not joined: the slot parks. -/
theorem joinWave_park (hk : e.kind = .split) (hl : (v.w.slot (!v.sl.b)).live = true)
    (hs : (v.w.slot (!v.sl.b)).status ≠ .parkedJoin) : joinWave s v = v.w.setSlot v.sl.b v.parked := by
  simp [joinWave, htop, hk, hl, Slot.atJoin, hs, View.parked]

/-- SPLIT beside a slot that has joined and owns no entry: the two are one again. -/
theorem joinWave_reunite (hk : e.kind = .split) (hl : (v.w.slot (!v.sl.b)).live = true)
    (hs : (v.w.slot (!v.sl.b)).status = .parkedJoin) (hn : topOwned v.w.stack (!v.sl.b) = none) :
    joinWave s v = mergeInto s v.sl v.w := by
  simp [joinWave, htop, hk, hl, Slot.atJoin, hs, hn]

end

/-- No entry, and no other slot: the slot goes on. -/
theorem joinWave_alone (htop : topOwned v.w.stack v.sl.b = none) (hl : (v.w.slot (!v.sl.b)).live = false) :
    joinWave s v = v.w.setSlot v.sl.b v.p.onward := by
  simp [joinWave, htop, hl]

/-- JOIN writes no register the slots share. -/
theorem joinWave_sameRegs : v.w.SameRegs (joinWave s v) := by
  have h := Wave.SameRegs.refl v.w
  unfold joinWave
  dsimp only
  split
  · split
    · exact (h.withStack _).setSlot _ _
    · exact (h.withStack _).setSlot _ _
    · exact (h.withStack _).setSlot _ _
    · split
      · exact h.merge _ _
      · exact h.setSlot _ _
  · split
    · split
      · exact h.merge _ _
      · exact h.setSlot _ _
    · exact h.setSlot _ _

/-! ### EXIT (R343) -/

/-- Lanes are left: the slot goes on with them. -/
theorem exitWave_lanes {act : Lanes} (h : v.p.owned &&& ~~~act ≠ 0) :
    exitWave s v act = v.w.setSlot v.sl.b (v.p.withoutLanes act).onward := by
  simp only [exitWave, h, ne_eq, not_false_eq_true, if_true, Slot.withoutLanes]

/-- No lane is left and no entry: the slot becomes free. -/
theorem exitWave_free {act : Lanes} (h : v.p.owned &&& ~~~act = 0) (hst : v.w.stack = []) :
    exitWave s v act = freeSlot s v.sl (v.w.withStack []) := by
  simp only [exitWave, h, ne_eq, not_true, if_false, hst, unwind, Wave.withStack]

/-- No lane is left beside a DEFER on top: the slot runs the deferred lanes. -/
theorem exitWave_defer {act : Lanes} {e : DivEntry} {rest : List DivEntry} (h : v.p.owned &&& ~~~act = 0)
    (hst : v.w.stack = e :: rest) (ho : e.ownerB = v.sl.b) (hk : e.kind = .defer) :
    exitWave s v act = (v.w.withStack rest).setSlot v.sl.b
      ({ v.p.withoutLanes act with owned := e.lanes, mask := e.lanes }.goTo e.pc) := by
  simp [exitWave, h, hst, unwind, ho, hk, Wave.withStack, Slot.withoutLanes]

/-- EXIT writes no register the slots share. -/
theorem exitWave_sameRegs (act : Lanes) : v.w.SameRegs (exitWave s v act) := by
  have h := Wave.SameRegs.refl v.w
  unfold exitWave
  dsimp only
  split
  · exact h.setSlot _ _
  · split
    · exact (h.withStack _).setSlot _ _
    · exact (h.withStack _).free _ _

end

/-- Settles O23: the wave of each case of R342 and of R343. -/
theorem joinsAndExitsComplete : Obligations.JoinsAndExitsComplete := by
  refine ⟨?join, ?exit⟩
  case join =>
    intro f s v hv hc hp hq he hr b
    obtain ⟨-, -, -, hvp, -⟩ := State.view_spec hv
    obtain ⟨hregV, hregS, hregK⟩ := joinWave_sameRegs s (v := v)
    obtain ⟨hpc, hmask, howned⟩ := Slot.onward_word hr he
    refine ⟨_, _, issue_run hv hc (by simp [hp, hq]), onlyWave_putWave hv _, State.find_putWave_view hv _, hregV, hregS, hregK,
      fun e htop => ⟨fun hk => ?unif, fun hk => ?defer, fun hk => ?merge, fun hk hl hs => ?park, fun hk hl hs hn => ?reunite⟩,
      fun htop hl => ?alone⟩
    case unif =>
      rw [joinWave_unif s htop hk]
      simp only [Wave.slot_setSlot, Wave.setSlot_stack, Wave.withStack_stack]
      exact ⟨hpc, howned, hmask, rfl⟩
    case defer =>
      rw [joinWave_defer s htop hk]
      simp [b, Slot.linkAddr_plain he]
    case merge =>
      rw [joinWave_merge s htop hk]
      simp [b]
    case park =>
      rw [joinWave_park s htop hk hl hs]
      simp [View.parked_status, View.parked_pc]
    case reunite =>
      rw [joinWave_reunite s htop hk hl hs hn]
      obtain ⟨hpc, howned, hmask, hfree, hstack⟩ := mergeInto_spec s (hvp ▸ hr) (hvp ▸ he)
      rw [hvp]
      exact ⟨hpc, howned, hmask.trans howned.symm, hfree, hstack⟩
    case alone =>
      rw [joinWave_alone s htop hl]
      simp only [Wave.slot_setSlot, Wave.setSlot_stack]
      exact ⟨hpc, trivial⟩
  case exit =>
    intro f s v hv hc hp he hr b
    obtain ⟨-, -, -, -, -, hrun, hlive, -⟩ := State.view_spec hv
    obtain ⟨hregV, hregS, hregK⟩ := exitWave_sameRegs s (v := v) (v.active f.c)
    refine ⟨_, _, issue_run hv hc (by simp [hp]), onlyWave_putWave hv _, State.find_putWave_view hv _, hregV, hregS, hregK,
      fun h => ?lanes, fun h hst => ?free, fun h e rest hst ho hk => ?defer⟩
    case lanes =>
      rw [exitWave_lanes s h]
      obtain ⟨hpc, hmask, howned⟩ := Slot.withoutLanes_onward hr he (v.active f.c)
      simp only [Wave.slot_setSlot, Wave.setSlot_status]
      exact ⟨hpc, howned, hmask, hrun⟩
    case free =>
      rw [exitWave_free s h hst]
      refine ⟨freeSlot_live .., fun hl => ?_, fun hl hs => ?_⟩
      · rw [freeSlot_last s (w := v.w.withStack []) hl]
      · rw [freeSlot_beside s (w := v.w.withStack []) hl hs]
        simp [b, hrun]
    case defer =>
      rw [exitWave_defer s h hst ho hk]
      simp [hlive, Slot.withoutLanes]

end Sys2Proof.Machine
end

section
/-!
PROOFS. The float operations of class 1 complete with the values of their rules (R232 to R239). Each is the ALU course with the
conditions of its lanes counted.
-/

namespace Sys2Proof.Machine

/-! ### The ALU course with conditions counted (R231) -/

section
variable {i : FmtA → Instr} {m : FmtA → AluForm}

/-- An operation that is the float course with a result of its destination's kind completes. -/
theorem floatCompletes_of_aluFloat {r : FmtA → View → AluResult} {g : FmtA → View → Nat → Conds}
    (he : ∀ f s, exec (i f) s = aluFloat (m f) f (r f) (g f) s) (hk : ∀ f v, KindOk (m f).d (r f v)) :
    FloatCompletes i m r g := fun f s v hv hc =>
  ⟨_, (he f s).trans (issue_run hv hc rfl), alu_effect hv hc (hk f v)⟩

/-- An operation given by its result and conditions in each lane completes. -/
theorem floatLanes_of_exec {g : FmtA → View → Nat → Word × Conds}
    (he : ∀ f s, exec (i f) s = floatLanes (m f) f (g f) s) (hd : ∀ f, (m f).d = .vec 1) : FloatLanes i m g :=
  floatCompletes_of_aluFloat he fun f _ => (hd f).symm ▸ rfl

end

/-- Settles O7: each is the float course with one rounded sum in each lane or element. -/
theorem floatArithmeticCompletes : Obligations.FloatArithmeticCompletes := by
  refine ⟨?_, ?_, ?_, ?_, ?_, ?_⟩
  all_goals exact floatLanes_of_exec (fun _ _ => rfl) fun _ => rfl

/-! ### Conversions (R237, R238) -/

/-- A conversion writes one vector register, whatever types its codes name. -/
theorem cvtForm_d (ints : Bool) (f : FmtA) : (cvtForm ints f).d = .vec 1 := by
  unfold cvtForm
  split <;> rfl

theorem exec_conversion (ints : Bool) (f : FmtA) (s : State) :
    exec (if ints then .vcvti f else .vfcvt f) s = convert ints f s := by
  cases ints <;> rfl

/-- A conversion whose codes name an accepted pair of types converts the elements of each lane between them. -/
theorem convert_of_types {ints : Bool} {f : FmtA} {a d : CvtTy} (h : cvtTypes ints f = some (a, d)) (s : State) :
    convert ints f s = floatLanes (cvtForm ints f) f (fun v l =>
      cvtLane a d (RMode.ofBits f.rm) f.sat (cvtGroup f) ((readVec v a.opTy 1 f.sa l).truncate 32) (readV32 v 32 f.sc l)) s := by
  simp only [convert, h]

/-- Settles O8: the conversions by the pair of types their codes name, the others as the ALU course with their rules' values. -/
theorem floatCompareAndConvertComplete : Obligations.FloatCompareAndConvertComplete := by
  refine ⟨?vfcmp, ?vfclass, fun ints f a d s v hv hty hc => ?convert, ?vfrnd⟩
  case vfcmp => exact floatCompletes_of_aluFloat (fun _ _ => rfl) fun _ _ => trivial
  case vfclass => exact aluCompletes_of_alu (fun _ _ => rfl) fun _ _ => rfl
  case convert =>
    exact ⟨_, (exec_conversion ints f s).trans ((convert_of_types hty s).trans (issue_run hv hc rfl)),
      alu_effect hv hc ((cvtForm_d ints f).symm ▸ rfl)⟩
  case vfrnd => exact floatLanes_of_exec (fun _ _ => rfl) fun _ => rfl

/-! ### Minimum and maximum (R234) -/

/-- The order key of an encoding: its magnitude, or with the sign set what lies as far below -0 (R234). -/
theorem forderBits_eq (bits : Nat) :
    forderBits bits = if bits / 2 ^ 31 % 2 = 1 then -((bits : Int) % 2 ^ 31) - 1 else (bits : Int) % 2 ^ 31 := rfl

/-- The order key tells all FP32 encodings apart, the two zeros too. -/
theorem forderBits_inj {a b : Word} : forderBits a.toNat = forderBits b.toNat ↔ a = b := by
  refine ⟨fun h => BitVec.eq_of_toNat_eq ?_, fun h => h ▸ rfl⟩
  have ha := a.isLt
  have hb := b.isLt
  rw [forderBits_eq, forderBits_eq] at h
  omega

/-- A number below another in value is below it in the order of VFMIN and VFMAX. -/
theorem forderBits_lt_of_fcompare {a b : Nat} (h : fcompare a b = .lt) : forderBits a < forderBits b := by
  have hkey := compare_lt_iff_lt.mp h
  dsimp only at hkey
  rw [forderBits_eq, forderBits_eq]
  omega

section
variable {up : Bool} {a b : Nat}

/-- Of two numbers VFMIN and VFMAX choose by the order key. -/
theorem fminmax_numbers (ha : (fread .f32 a).isNan = false) (hb : (fread .f32 b).isNan = false) :
    (fminmax up a b).1 = if decide (forderBits a ≤ forderBits b) = up then b else a := by
  simp only [fminmax, ha, hb, Bool.false_eq_true, if_false]

theorem fminmax_lt (ha : (fread .f32 a).isNan = false) (hb : (fread .f32 b).isNan = false)
    (h : forderBits a < forderBits b) : (fminmax up a b).1 = if up then b else a := by
  rw [fminmax_numbers ha hb, decide_eq_true h.le]
  cases up <;> rfl

theorem fminmax_gt (ha : (fread .f32 a).isNan = false) (hb : (fread .f32 b).isNan = false)
    (h : forderBits b < forderBits a) : (fminmax up a b).1 = if up then a else b := by
  rw [fminmax_numbers ha hb, decide_eq_false h.not_ge]
  cases up <;> rfl

theorem fminmax_two_nans (ha : (fread .f32 a).isNan = true) (hb : (fread .f32 b).isNan = true) :
    (fminmax up a b).1 = 0x7FC00000 := by
  simp only [fminmax, ha, hb, if_true]
  rfl

theorem fminmax_left_nan (ha : (fread .f32 a).isNan = true) (hb : (fread .f32 b).isNan = false) :
    (fminmax up a b).1 = b := by
  simp only [fminmax, ha, hb, if_true, Bool.false_eq_true, if_false]

theorem fminmax_right_nan (ha : (fread .f32 a).isNan = false) (hb : (fread .f32 b).isNan = true) :
    (fminmax up a b).1 = a := by
  simp only [fminmax, ha, hb, if_true, Bool.false_eq_true, if_false]

end

/-- The result of VFMIN and VFMAX does not depend on the order of the operands. -/
theorem fminmax_comm (up : Bool) (a b : Word) : (fminmax up a.toNat b.toNat).1 = (fminmax up b.toNat a.toNat).1 := by
  cases ha : (fread .f32 a.toNat).isNan <;> cases hb : (fread .f32 b.toNat).isNan
  case false.false =>
    rcases lt_trichotomy (forderBits a.toNat) (forderBits b.toNat) with h | h | h
    · rw [fminmax_lt ha hb h, fminmax_gt hb ha h]
    · rw [forderBits_inj.mp h]
    · rw [fminmax_gt ha hb h, fminmax_lt hb ha h]
  case false.true => rw [fminmax_right_nan ha hb, fminmax_left_nan hb ha]
  case true.false => rw [fminmax_left_nan ha hb, fminmax_right_nan hb ha]
  case true.true => rw [fminmax_two_nans ha hb, fminmax_two_nans hb ha]

/-- Settles O9: the two operations as the float course, and the choice by what the operands are. -/
theorem floatMinimumAndMaximum : Obligations.FloatMinimumAndMaximum := by
  refine ⟨fun up => ?completes, fun f => ⟨rfl, rfl⟩, rfl, rfl, rfl, fun up a b => ⟨fminmax_comm up a b, rfl,
    fminmax_two_nans, fminmax_left_nan, fminmax_right_nan, fun ha hb => ?either, fun ha hb h => fminmax_lt ha hb (forderBits_lt_of_fcompare h),
    ?zeros⟩⟩
  case completes => cases up <;> exact floatLanes_of_exec (fun _ _ => rfl) fun _ => rfl
  case either =>
    rw [fminmax_numbers ha hb]
    exact (ite_eq_or_eq ..).symm
  case zeros =>
    rintro rfl rfl
    exact fminmax_lt (by decide) (by decide) (by decide)

end Sys2Proof.Machine
end

section
/-!
PROOFS. The lanes the shuffles read, and the sums of the integer scan and reduction (R244, R245, R247, R249).
-/

namespace Sys2Proof.Machine

/-! ### Source lanes (R245) -/

section
variable {w l : Nat} (i : Nat)

/-- A lane less than a width from the base of a group lies in that group. -/
theorem groupBase_add_div {k : Nat} (h : k < w) : (l - l % w + k) / w = l / w := by
  have hbase : l - l % w = w * (l / w) := Nat.sub_eq_of_eq_add (Nat.div_add_mod l w).symm
  rw [hbase, Nat.mul_add_div (by omega), Nat.div_eq_of_lt h, Nat.add_zero]

/-- The groups of 8, 16 or 32 lanes divide the wave. -/
theorem groupBase_add_lt {k : Nat} (hw : w = 8 ∨ w = 16 ∨ w = 32) (hl : l < 96) (hk : k < w) : l - l % w + k < 96 := by
  rcases hw with rfl | rfl | rfl <;> omega

theorem srcShfl_group (h : w < 96) : srcShfl w (l - l % w) l i = l - l % w + i % w := by
  rw [srcShfl, if_pos h]

/-- In a group of a power of two lanes VSHFLX changes the lane's place in its group. -/
theorem srcShflx_group (hw : w = 8 ∨ w = 16 ∨ w = 32) :
    srcShflx w (l - l % w) l i = l - l % w + ((l % w) ^^^ (i % w)) := by
  obtain ⟨n, rfl⟩ : ∃ n, w = 2 ^ n := by
    rcases hw with rfl | rfl | rfl
    exacts [⟨3, rfl⟩, ⟨4, rfl⟩, ⟨5, rfl⟩]
  rw [srcShflx, if_pos (by omega), Nat.xor_mod_two_pow]

theorem srcShflup_eq (hw : 0 < w) : srcShflup w (l - l % w) l i = if i ≤ l % w then l - i else l := by
  have hbase := Nat.sub_add_cancel (Nat.mod_le l w)
  have hlt := Nat.mod_lt l hw
  exact if_congr (by omega) rfl rfl

theorem srcShfldn_eq : srcShfldn w (l - l % w) l i = if l % w + i < w then l + i else l := by
  have hbase := Nat.sub_add_cancel (Nat.mod_le l w)
  exact if_congr (by omega) rfl rfl

theorem srcShfl_wave : srcShfl 96 0 l i = if i < 96 then i else l := by
  rw [srcShfl, if_neg (by decide)]

theorem srcShflx_wave : srcShflx 96 0 l i = if l ^^^ (i % 128) < 96 then l ^^^ (i % 128) else l := by
  rw [srcShflx, if_neg (by decide)]

/-- In a group of 8, 16 or 32 lanes every shuffle reads the lane's own group. -/
theorem shuffle_src_group (hw : w = 8 ∨ w = 16 ∨ w = 32) {src : Nat → Nat → Nat → Nat → Nat}
    (hs : src ∈ [srcShfl, srcShflx, srcShflup, srcShfldn]) : ∃ k, k < w ∧ src w (l - l % w) l i = l - l % w + k := by
  have hpos : 0 < w := by omega
  have hbase := Nat.sub_add_cancel (Nat.mod_le l w)
  have hlt := Nat.mod_lt l hpos
  simp only [List.mem_cons, List.not_mem_nil, or_false] at hs
  rcases hs with rfl | rfl | rfl | rfl
  · exact ⟨i % w, Nat.mod_lt _ hpos, srcShfl_group i (by omega)⟩
  · exact ⟨(l ^^^ i) % w, Nat.mod_lt _ hpos, if_pos (by omega)⟩
  · rw [srcShflup_eq i hpos]
    split
    · exact ⟨l % w - i, by omega, by omega⟩
    · exact ⟨l % w, hlt, hbase.symm⟩
  · rw [srcShfldn_eq]
    split
    · exact ⟨l % w + i, by omega, by omega⟩
    · exact ⟨l % w, hlt, hbase.symm⟩

/-- With width 96 every shuffle reads a lane of the wave. -/
theorem shuffle_src_wave (hl : l < 96) {src : Nat → Nat → Nat → Nat → Nat}
    (hs : src ∈ [srcShfl, srcShflx, srcShflup, srcShfldn]) : src 96 (l - l % 96) l i < 96 := by
  have hzero : l - l % 96 = 0 := by omega
  simp only [List.mem_cons, List.not_mem_nil, or_false] at hs
  rcases hs with rfl | rfl | rfl | rfl
  · rw [hzero, srcShfl_wave]
    split <;> omega
  · rw [hzero, srcShflx_wave]
    split <;> omega
  · rw [srcShflup_eq i (by decide)]
    split <;> omega
  · rw [srcShfldn_eq]
    split <;> omega

end

/-! ### The inclusive wrapping .add scan of integers (R249) -/

section
variable {f : FmtA}

/-- One lane of the scan: the exact sum goes on, and the lane takes it wrapped. -/
def scanAddStep (f : FmtA) (x : Nat → Word) (a : ScanAcc) (l : Nat) : ScanAcc :=
  let t := a.p.getD 0 + toNum (redSigned f) (x l)
  { a with p := some t, out := cellSet a.out l (BitVec.ofInt 32 t) }

theorem Conds.or_none (c : Conds) : c.or {} = c := by
  simp [Conds.or]

theorem redFloat_of_integer (hty : f.ty ≠ 9) : redFloat f = false := decide_eq_false hty

theorem scanStep_add (hty : f.ty ≠ 9) (p : Option Int) (x : Word) :
    scanStep f 0 p x = (p.getD 0 + toNum (redSigned f) x, {}) := by
  cases p <;> simp [scanStep, redFloat_of_integer hty]

theorem scanWrite_wraps (hty : f.ty ≠ 9) (hsat : f.sat = false) (q : Int) : scanWrite f q = BitVec.ofInt 32 q := by
  simp only [scanWrite, redFloat_of_integer hty, hsat, narrowInt_wraps, Bool.false_eq_true, if_false]

theorem scanRun_add (hty : f.ty ≠ 9) (hsat : f.sat = false) (hopb : f.opb = 0) (act : Lanes) (x : Nat → Word) :
    scanRun f act x = (lanesList act).foldl (scanAddStep f x) { p := none, out := [], cs := {} } := by
  have hfn : f.opb.toNat % 4 = 0 := by rw [hopb]; rfl
  have hincl : decide (4 ≤ f.opb.toNat) = false := by rw [hopb]; rfl
  simp only [scanRun, hfn, hincl, scanStep_add hty, scanWrite_wraps hty hsat, Conds.or_none, Bool.false_eq_true, if_false]
  rfl

/-- A lane the scan does not come to keeps what it held. -/
theorem scanAdd_other (x : Nat → Word) {ls : List Nat} {l : Nat} (h : l ∉ ls) (a : ScanAcc) :
    cellGet (ls.foldl (scanAddStep f x) a).out l = cellGet a.out l := by
  induction ls generalizing a with
  | nil => rfl
  | cons k ls ih =>
    obtain ⟨hk, hls⟩ := List.ne_and_not_mem_of_not_mem_cons h
    rw [List.foldl_cons, ih hls, scanAddStep, cellGet_cellSet_ne _ _ hk]

/-- A scan in ascending order gives each lane the sum so far over the lanes not above it. -/
theorem scanAdd_sum (x : Nat → Word) {ls : List Nat} {l : Nat} (hord : ls.Pairwise (· < ·)) (hl : l ∈ ls) (a : ScanAcc) :
    cellGet (ls.foldl (scanAddStep f x) a).out l =
      BitVec.ofInt 32 ((ls.filter fun k => k ≤ l).foldl (fun t k => t + toNum (redSigned f) (x k)) (a.p.getD 0)) := by
  induction ls generalizing a with
  | nil => cases hl
  | cons k ls ih =>
    obtain ⟨hk, hord⟩ := List.pairwise_cons.mp hord
    rw [List.foldl_cons]
    rcases List.mem_cons.mp hl with rfl | hl
    · have hnone : ls.filter (fun k => k ≤ l) = [] := List.filter_eq_nil_iff.mpr fun j hj => by simpa using hk j hj
      rw [scanAdd_other x (fun h => (hk l h).false), List.filter_cons_of_pos (by simp), hnone]
      exact cellGet_cellSet_self ..
    · rw [ih hord hl, List.filter_cons_of_pos (by simpa using (hk l hl).le)]
      rfl

/-- The wrapped integer VREDADD is the sum over all active lanes (R247). -/
theorem redAdd_wraps (hty : f.ty ≠ 9) (hsat : f.sat = false) {act : Lanes} (ha : act ≠ 0) (x : Nat → Word) :
    redAdd f act x = some ((BitVec.ofInt 32
      ((lanesList act).foldl (fun t k => t + toNum (redSigned f) (x k)) 0)).toNat, {}) := by
  simp only [redAdd, redFloat_of_integer hty, hsat, narrowInt_wraps, if_neg ha, Bool.false_eq_true, if_false]

end

/-- Settles O13: the source lanes shuffle by shuffle, the scan lane by lane in ascending order. -/
theorem shufflesAndScans : Obligations.ShufflesAndScans := by
  refine ⟨⟨fun w l i hw _ src hs => ?group, fun w l i hw hl src hs => ?wave,
    fun w l i hw _ => ⟨srcShflup_eq i (by omega), srcShfldn_eq i⟩,
    fun w l i hw _ => ⟨srcShfl_group i (by omega), srcShflx_group i hw⟩,
    fun l i _ => ⟨srcShfl_wave i, srcShflx_wave i⟩⟩,
    fun f act x hty hsat hopb => ⟨fun l hl hact => ?scan, fun ha => redAdd_wraps hty hsat ha x⟩⟩
  case group =>
    obtain ⟨k, hk, heq⟩ := shuffle_src_group (l := l) i hw hs
    rw [heq, groupBase_add_div hk]
  case wave =>
    rcases or_assoc.mpr (or_assoc.mpr hw) with hgroup | rfl
    · obtain ⟨k, hk, heq⟩ := shuffle_src_group (l := l) i (or_assoc.mp hgroup) hs
      rw [heq]
      exact groupBase_add_lt (or_assoc.mp hgroup) hl hk
    · exact shuffle_src_wave i hl hs
  case scan =>
    rw [scanRun_add hty hsat hopb]
    exact scanAdd_sum x (lanesList_ascending act) (mem_lanesList.mpr ⟨hl, hact⟩) _

end Sys2Proof.Machine
end

section

/-! PROOFS. Runs of `.core` as the matrix engine reads them: their targets, their pieces, and what a read of them answers (R150,
R156, R183, R260, R275, R312). -/

namespace Sys2Proof.Machine

/-! ### Addresses of one block of 128 bytes -/

section
variable {a : Dword} {j : Nat} (h : a.toNat % 128 + j < 128)
include h

theorem toNat_add_inBlock : (a + BitVec.ofNat 64 j).toNat = a.toNat + j := by
  have := a.isLt
  rw [BitVec.toNat_add, BitVec.toNat_ofNat]
  omega

theorem upperHalf_add_inBlock : upperHalf (a + BitVec.ofNat 64 j) = upperHalf a := by
  apply BitVec.eq_of_toNat_eq
  rw [upperHalf, upperHalf, BitVec.extractLsb'_toNat, BitVec.extractLsb'_toNat, toNat_add_inBlock h, Nat.shiftRight_eq_div_pow,
    Nat.shiftRight_eq_div_pow]
  omega

theorem lowerHalf_add_inBlock : lowerHalf (a + BitVec.ofNat 64 j) = lowerHalf a + j := by
  rw [lowerHalf, lowerHalf, BitVec.extractLsb'_toNat, BitVec.extractLsb'_toNat, toNat_add_inBlock h, Nat.shiftRight_zero,
    Nat.shiftRight_zero]
  omega

end

/-! ### Targets of `.core` (R150, R156) -/

/-- The target lies in a scratchpad or in a segment. -/
inductive Target.InCore : Target → Prop
  | scratch (team off : Nat) : InCore (.scratch team off)
  | seg (ctx name off : Nat) : InCore (.seg ctx name off)

/-- The target `j` bytes on. -/
def Target.plus (j : Nat) : Target → Target
  | .scratch tm o => .scratch tm (o + j)
  | .seg c n o => .seg c n (o + j)
  | t => t

/-- An access within a block is accepted where its first and its last byte are, and its bytes lie one after the other. -/
theorem teamTarget_core_span {s : State} {t : Team} {a : Dword} {n : Nat} {k : Access} {first last : Target} (hn : 0 < n)
    (hblock : a.toNat % 128 + n ≤ 128) (hfirst : teamTarget s t 1 a 1 1 k = .ok first)
    (hlast : teamTarget s t 1 (a + BitVec.ofNat 64 (n - 1)) 1 1 k = .ok last) :
    first.InCore ∧ teamTarget s t 1 a n 1 k = .ok first ∧
      ∀ j, j < n → teamTarget s t 1 (a + BitVec.ofNat 64 j) 1 1 k = .ok (first.plus j) := by
  have hup (j : Nat) (hj : j < n) := upperHalf_add_inBlock (a := a) (j := j) (by omega)
  have hlow (j : Nat) (hj : j < n) := lowerHalf_add_inBlock (a := a) (j := j) (by omega)
  simp only [teamTarget, Nat.mod_one, ne_eq, not_true_eq_false, if_false, segTarget, hup (n - 1) (by omega),
    hlow (n - 1) (by omega)] at hfirst hlast ⊢
  split at hfirst
  · next hu =>
    simp only [hu, not_false_eq_true, if_true] at hlast ⊢
    cases hseg : attachedSeg s t (upperHalf a) with
    | none => simp [hseg] at hfirst
    | some g =>
      simp only [hseg] at hfirst hlast ⊢
      split_ifs at hfirst hlast with h1 h2 h3
      cases hfirst
      push Not at h1 h3
      refine ⟨.seg _ _ _, ?_, fun j hj => ?_⟩
      · rw [if_neg (by push Not; exact ⟨by omega, h3.2⟩), if_neg h2]
      · rw [hup j hj, if_pos hu]
        simp only [hseg, hlow j hj]
        rw [if_neg (by push Not; exact ⟨by omega, h3.2⟩), if_neg h2, Target.plus]
  · next hu =>
    split_ifs at hfirst hlast with h1 h2
    cases hfirst
    refine ⟨.scratch _ _, ?_, fun j hj => ?_⟩
    · rw [if_neg hu, if_neg (by omega)]
    · rw [hup j hj, if_neg hu, hlow j hj, if_neg (by omega), Target.plus]

section
variable {t : Target} (h : t.InCore)
include h

theorem Target.InCore.plus_loc (j : Nat) : targetLoc (t.plus j) 0 = targetLoc t j := by
  cases h <;> rfl

theorem Target.InCore.spanNeeds (s : State) (write : Bool) (n : Nat) : spanNeeds s write n t = targetNeeds s write 1 t := by
  cases h <;> rfl

theorem Target.InCore.spanPoisoned (s : State) (n : Nat) : spanPoisoned s n t = targetPoisoned s 1 t := by
  cases h <;> rfl

theorem Target.InCore.touchNeeds (s : State) (core n : Nat) : touchNeeds s core t n = [] := by
  have hnone (l : List CombEntry) : l.filter (fun _ => false) = [] := List.filter_eq_nil_iff.mpr fun _ _ => Bool.false_ne_true
  cases h <;> simp only [Machine.touchNeeds, flushNeeds, touches, hnone, List.flatMap_nil]

theorem Target.InCore.flushFor (s : State) (core n : Nat) : s.flushFor core t n = s := by
  cases h <;> rfl

theorem Target.InCore.fillFor (s : State) (r : Seat) (n : Nat) : s.fillFor r t n = s := by
  cases h <;> rfl

/-- No near line holds a byte of it. -/
theorem Target.InCore.lines (s : State) (n : Nat) : spanLines t n = [] ∧ readLines s n t = [] := by
  cases h <;> exact ⟨rfl, rfl⟩

theorem Target.InCore.readLocs (s : State) (n : Nat) : readLocs s n t = (List.range n).filterMap (targetLoc t) := by
  cases h <;> rfl

theorem Target.InCore.readTarget (s : State) (r : Seat) (n : Nat) :
    readTarget s r t n = (List.range n).map fun i => ((targetLoc t i).map (seenByte s r)).getD 0 := by
  cases h <;> rfl

end

/-- Recalling no line changes nothing. -/
theorem State.recall_none (s : State) (keep : Option Nat) : s.recall keep [] = s := by
  have hkeep : (s.near.filter fun p => decide (some p.1 = keep) || !([] : List Nat).contains p.2) = s.near :=
    List.filter_eq_self.mpr fun p _ => by simp
  rw [State.recall, hkeep]

/-! ### Runs and their pieces (R181, R260) -/

/-- The addresses of a run. -/
def Run.addrs (r : Run) : List Dword := (List.range r.n).map fun j => r.addr + BitVec.ofNat 64 j

theorem coreBytes_eq (s : State) (v : View) (r : Run) : coreBytes s v r.addr r.n = r.addrs.map (coreByte s v) :=
  by rw [Run.addrs, List.map_map]; rfl

theorem coreLocs_eq (s : State) (v : View) (rs : List Run) :
    coreLocs s v rs = (rs.flatMap Run.addrs).filterMap (coreLoc s v .load) := by
  rw [List.filterMap_flatMap]
  exact List.flatMap_congr fun r _ => by rw [Run.addrs, List.filterMap_map]; rfl

/-- A run within a block whose bytes may be accessed and are in place. -/
structure Run.Piece (s : State) (v : View) (k : Access) (r : Run) : Prop where
  pos : 0 < r.n
  block : r.addr.toNat % 128 + r.n ≤ 128
  aligned : r.addr.toNat % r.al = 0
  ready : ∀ j, j < r.n → CoreByteReady s v k (r.addr + BitVec.ofNat 64 j)

/-- The target of the byte at an address of `.core`. -/
def coreTarget (s : State) (v : View) (k : Access) (a : Dword) : Target := match teamTarget s v.t 1 a 1 1 k with
  | .ok t => t
  | .error _ => .lane 0

/-- The target and length of a run that lies within a block. -/
def Run.target (s : State) (v : View) (k : Access) (r : Run) : Target × Nat := (coreTarget s v k r.addr, r.n)

section
variable {s : State} {v : View} {k : Access} {r : Run} (h : r.Piece s v k)
include h

/-- The engine's access to such a run is accepted, waits for nothing, and takes the locations of its addresses. -/
theorem Run.Piece.spec : (coreTarget s v k r.addr).InCore ∧
    teamTarget s v.t 1 r.addr r.n 1 k = .ok (coreTarget s v k r.addr) ∧
    targetNeeds s (decide (k ≠ .load)) 1 (coreTarget s v k r.addr) = [] ∧
    (k = .load → targetPoisoned s 1 (coreTarget s v k r.addr) = false) ∧
    ∀ j, j < r.n → coreLoc s v k (r.addr + BitVec.ofNat 64 j) = targetLoc (coreTarget s v k r.addr) j := by
  obtain ⟨first, hfirst, hneeds, hpoison⟩ := h.ready 0 h.pos
  obtain ⟨last, hlast, -⟩ := h.ready (r.n - 1) (Nat.sub_lt h.pos Nat.one_pos)
  rw [BitVec.add_zero] at hfirst
  obtain ⟨hcore, hspan, hplus⟩ := teamTarget_core_span h.pos h.block hfirst hlast
  have htarget : coreTarget s v k r.addr = first := by rw [coreTarget, hfirst]
  rw [htarget]
  refine ⟨hcore, hspan, hneeds, hpoison, fun j hj => ?_⟩
  rw [coreLoc, hplus j hj]
  exact hcore.plus_loc j

theorem Run.Piece.inCore : (coreTarget s v k r.addr).InCore := h.spec.1

theorem Run.Piece.runTarget : runTarget s v 1 r k = (s, .ok (coreTarget s v k r.addr)) := by
  rw [Machine.runTarget, if_pos h.aligned, engTarget, if_neg (by decide), h.spec.2.1]

/-- It lies at the locations of its addresses. -/
theorem Run.Piece.locs (x : State) :
    readLocs x r.n (coreTarget s v k r.addr) = r.addrs.filterMap (coreLoc s v k) := by
  obtain ⟨hcore, -, -, -, hloc⟩ := h.spec
  rw [hcore.readLocs, Run.addrs, List.filterMap_map]
  exact List.filterMap_congr fun j hj => (hloc j (List.mem_range.mp hj)).symm

/-- It is read as the bytes of its addresses. -/
theorem Run.Piece.read (x : State) (hx : coreLoc x v .load = coreLoc s v k) :
    readTarget x v.seat (coreTarget s v k r.addr) r.n = r.addrs.map (coreByte x v) := by
  obtain ⟨hcore, -, -, -, hloc⟩ := h.spec
  rw [hcore.readTarget, Run.addrs, List.map_map]
  refine List.map_congr_left fun j hj => ?_
  rw [← hloc j (List.mem_range.mp hj), Function.comp_apply, coreByte, hx]

end

/-- Pieces are resolved one after the other, and nothing changes. -/
theorem engPieces_core {s : State} {v : View} {k : Access} {rs : List Run} (h : ∀ r ∈ rs, r.Piece s v k) :
    engPieces v 1 k rs s = (s, .ok (rs.map (Run.target s v k))) := by
  induction rs with
  | nil => rfl
  | cons r rs ih =>
    obtain ⟨hr, hrs⟩ := List.forall_mem_cons.mp h
    obtain ⟨hcore, -, -, hpoison, -⟩ := hr.spec
    have hclean : (decide (k = .load) && spanPoisoned s r.n (coreTarget s v k r.addr)) = false := by
      rw [hcore.spanPoisoned, Bool.and_eq_false_imp]
      exact fun hk => hpoison (of_decide_eq_true hk)
    rw [engPieces, hr.runTarget]
    dsimp only
    rw [hclean, if_neg Bool.false_ne_true, ih hrs]
    rfl

/-- Outside `.glob` no walk is needed. -/
theorem engWalks_core (s : State) (v : View) (k : Access) (rs : List Run) : engWalks s v 1 k rs = [] := if_neg (by decide)

/-- Pieces wait for nothing. -/
theorem engNeeds_core {s : State} {v : View} {k : Access} {rs : List Run} (h : ∀ r ∈ rs, r.Piece s v k) (core : Nat) :
    ((rs.map (Run.target s v k)).flatMap fun p => spanNeeds s (decide (k ≠ .load)) p.2 p.1 ++ touchNeeds s core p.1 p.2) = [] := by
  refine List.flatMap_eq_nil_iff.mpr fun p hp => ?_
  obtain ⟨r, hr, rfl⟩ := List.mem_map.mp hp
  obtain ⟨hcore, -, hneeds, -⟩ := (h r hr).spec
  rw [Run.target, hcore.spanNeeds, hcore.touchNeeds, hneeds, List.append_nil]

theorem foldl_id {α β : Type} {f : β → α → β} {l : List α} (b : β) (h : ∀ x ∈ l, ∀ b, f b x = b) : l.foldl f b = b := by
  induction l with
  | nil => rfl
  | cons x l ih =>
    obtain ⟨hx, hl⟩ := List.forall_mem_cons.mp h
    rw [List.foldl_cons, hx, ih hl]

/-! ### Cutting a run at blocks -/

theorem ofNat_add_assoc (a : Dword) (k j : Nat) : a + BitVec.ofNat 64 k + BitVec.ofNat 64 j = a + BitVec.ofNat 64 (k + j) := by
  rw [BitVec.add_assoc, BitVec.ofNat_add]

theorem range_split {α : Type} (f : Nat → α) {k n : Nat} (h : k ≤ n) :
    (List.range n).map f = (List.range k).map f ++ (List.range (n - k)).map fun j => f (k + j) := by
  obtain ⟨m, rfl⟩ := Nat.exists_eq_add_of_le h
  rw [List.range_add, List.map_append, List.map_map, Nat.add_sub_cancel_left]
  rfl

/-- The pieces of a run take its addresses in order, each within a block, and where they are not the first begin at one. -/
theorem cutRun_spec (fuel : Nat) (a : Dword) (n : Nat) (h : n = 0 ∨ a.toNat % 128 + n ≤ 128 * fuel) :
    ((cutRun fuel a n).flatMap fun p => (List.range p.2).map fun j => p.1 + BitVec.ofNat 64 j) =
        (List.range n).map (fun j => a + BitVec.ofNat 64 j) ∧
      ∀ p ∈ cutRun fuel a n, 0 < p.2 ∧ p.1.toNat % 128 + p.2 ≤ 128 ∧ (p.1 = a ∨ p.1.toNat % 128 = 0) ∧
        ∃ i, i + p.2 ≤ n ∧ p.1 = a + BitVec.ofNat 64 i := by
  induction fuel generalizing a n with
  | zero =>
    obtain rfl : n = 0 := by omega
    exact ⟨rfl, fun p hp => nomatch hp⟩
  | succ fuel ih =>
    rw [cutRun]
    split
    · next hn => subst hn; exact ⟨rfl, fun p hp => nomatch hp⟩
    · next hn =>
      dsimp only
      generalize hk : min n (128 - a.toNat % 128) = k
      have hmod : (a + BitVec.ofNat 64 k).toNat % 128 = (a.toNat % 128 + k) % 128 := by
        rw [BitVec.toNat_add, BitVec.toNat_ofNat]
        omega
      obtain ⟨hall, hpieces⟩ := ih (a + BitVec.ofNat 64 k) (n - k) (by omega)
      refine ⟨?_, List.forall_mem_cons.mpr
        ⟨⟨by omega, by dsimp only; omega, .inl rfl, 0, by omega, (BitVec.add_zero a).symm⟩, fun p hp => ?_⟩⟩
      · rw [List.flatMap_cons, hall, range_split _ (show k ≤ n by omega)]
        simp only [ofNat_add_assoc]
      · obtain ⟨hpos, hblock, hstart, i, hi, hp1⟩ := hpieces p hp
        refine ⟨hpos, hblock, .inr (hstart.elim (fun heq => ?_) id), k + i, by omega, by rw [hp1, ofNat_add_assoc]⟩
        rw [heq, hmod]
        omega

/-- The pieces of a run take its addresses. -/
theorem Run.cut_addrs {r : Run} (h : r.n ≤ 256) : r.cut.flatMap Run.addrs = r.addrs := by
  rw [Run.cut, List.flatMap_map]
  exact (cutRun_spec 3 r.addr r.n (.inr (by omega))).1

theorem cuts_addrs {rs : List Run} (h : ∀ r ∈ rs, r.n ≤ 256) : (rs.flatMap Run.cut).flatMap Run.addrs = rs.flatMap Run.addrs := by
  rw [List.flatMap_assoc]
  exact List.flatMap_congr fun r hr => Run.cut_addrs (h r hr)

/-- The alignments of the engine's accesses divide the length of a block. -/
def Run.Even (r : Run) : Prop := r.al ∣ 128

theorem Run.cut_pieces {s : State} {v : View} {k : Access} {r : Run} (hn : r.n ≤ 256) (heven : r.Even)
    (hal : r.addr.toNat % r.al = 0) (hready : ∀ j, j < r.n → CoreByteReady s v k (r.addr + BitVec.ofNat 64 j)) :
    ∀ x ∈ r.cut, x.Piece s v k := by
  intro x hx
  obtain ⟨p, hp, rfl⟩ := List.mem_map.mp hx
  obtain ⟨hpos, hblock, hstart, i, hi, hp1⟩ := (cutRun_spec 3 r.addr r.n (.inr (by omega))).2 p hp
  refine ⟨hpos, hblock, hstart.elim (fun heq => ?_) fun h0 => ?_, fun j hj => ?_⟩
  · dsimp only
    rw [heq, hal]
  · exact Nat.mod_eq_zero_of_dvd (heven.trans (Nat.dvd_of_mod_eq_zero h0))
  · rw [hp1, ofNat_add_assoc]
    exact hready (i + j) (by dsimp only at hj; omega)

/-! ### What a change of bytes leaves of `.core` -/

/-- A segment is found as it was, but for its bytes and marks. -/
theorem EngineFrame.segment? {s t : State} (h : EngineFrame s t) (c n : Nat) :
    (t.segment? c n).map Segment.still = (s.segment? c n).map Segment.still := by
  have hfind (x : State) : (x.segment? c n).map Segment.still =
      (x.segs.map Segment.still).find? fun g => g.ctx = c ∧ g.name = n := by
    rw [List.find?_map]; rfl
  rw [hfind, hfind, h.2.2]

/-- A byte of `.core` lies where it lay. -/
theorem EngineFrame.coreLoc {s t : State} (h : EngineFrame s t) (v : View) (k : Access) : coreLoc t v k = Machine.coreLoc s v k := by
  have hseg (hd : Word) : (attachedSeg t v.t hd).map Segment.still = (attachedSeg s v.t hd).map Segment.still := by
    unfold attachedSeg
    split
    · rfl
    · exact h.segment? _ _
  have htarget (a : Dword) (n al : Nat) : segTarget t v.t true a n al k = segTarget s v.t true a n al k := by
    have := hseg (upperHalf a)
    unfold segTarget
    cases ht : attachedSeg t v.t (upperHalf a) <;> cases hs : attachedSeg s v.t (upperHalf a) <;>
      simp only [ht, hs, Option.map_none, Option.map_some, Option.some.injEq, reduceCtorEq] at this ⊢
    next g g' =>
      have hcnt : g.cnt = g'.cnt := (congrArg Segment.cnt this :)
      have hsize : g.size = g'.size := (congrArg Segment.size this :)
      have hlevel : g.level1 = g'.level1 := (congrArg Segment.level1 this :)
      have hstripe : g.stripe = g'.stripe := (congrArg Segment.stripe this :)
      have hname : g.name = g'.name := (congrArg Segment.name this :)
      rw [hcnt, hsize, hlevel, hstripe, hname]
  funext a
  simp only [Machine.coreLoc, teamTarget, htarget]

/-! ### A read of runs (R260, R275, R312) -/

theorem engineFrame_coreAfter (s : State) (v : View) (str : BitVec 4) (rs : List Run) : EngineFrame s (coreAfter s v str rs) :=
  engineFrame_perform s 6 _

theorem cutLengths_runs (rs : List Run) (g : Dword → Byte) :
    cutLengths (rs.map Run.n) ((rs.flatMap Run.addrs).map g) = rs.map fun r => r.addrs.map g := by
  induction rs with
  | nil => rfl
  | cons r rs ih =>
    have hlen : (r.addrs.map g).length = r.n := by simp [Run.addrs]
    rw [List.map_cons, List.flatMap_cons, List.map_append, cutLengths, List.take_left' hlen, List.drop_left' hlen, ih,
      List.map_cons]

/-- What preserved order puts before a read depends on which locations it takes, not on their order. -/
theorem sameAddress_congr {s : State} {sl : SlotId} {p : Slot} {l l' : List Loc} (h : ∀ x, x ∈ l ↔ x ∈ l') :
    sameAddress s sl p l = sameAddress s sl p l' := by
  have hany (f : Loc → Bool) : l.any f = l'.any f := by
    rw [Bool.eq_iff_iff, List.any_eq_true, List.any_eq_true]
    simp only [h]
  simp only [sameAddress, hany]

/-- Runs of `.core` that can be read are read as the slot sees their bytes once what comes first is performed. -/
theorem engRead_core {s : State} {v : View} {str : BitVec 4} {rs : List Run} (h : CoreReadable s v str rs)
    (heven : ∀ r ∈ rs, r.Even) : engRead s v 1 str rs =
      (coreAfter s v str rs, .ok (rs.map fun r => coreBytes (coreAfter s v str rs) v r.addr r.n)) := by
  obtain ⟨hready, hbefore⟩ := h
  unfold engRead
  extract_lets cuts
  have hpieces : ∀ x ∈ cuts, x.Piece s v .load := fun x hx => by
    obtain ⟨r, hr, hx⟩ := List.mem_flatMap.mp hx
    obtain ⟨hn, hal, hbytes⟩ := hready r hr
    exact Run.cut_pieces hn (heven r hr) hal hbytes x hx
  have haddrs : cuts.flatMap Run.addrs = rs.flatMap Run.addrs := cuts_addrs fun r hr => (hready r hr).1
  clear_value cuts
  have hlocs (x : State) : ((cuts.map (Run.target s v .load)).flatMap fun p => readLocs x p.2 p.1) = coreLocs s v rs := by
    rw [List.flatMap_map, coreLocs_eq, ← haddrs, List.filterMap_flatMap]
    exact List.flatMap_congr fun r hr => (hpieces r hr).locs x
  have hread : ((cuts.map (Run.target s v .load)).flatMap fun p => readTarget (coreAfter s v str rs) v.seat p.1 p.2) =
      (rs.flatMap Run.addrs).map (coreByte (coreAfter s v str rs) v) := by
    rw [List.flatMap_map, ← haddrs, List.map_flatMap]
    exact List.flatMap_congr fun r hr =>
      (hpieces r hr).read _ ((engineFrame_coreAfter s v str rs).coreLoc v .load)
  have hquiet (x : State) : (cuts.map (Run.target s v .load)).foldl (fun s p =>
      (s.flushFor v.t.core p.1 p.2).recall (some v.t.core) (spanLines p.1 p.2 ++ readLines s p.2 p.1)) x = x :=
    foldl_id x fun p hp b => by
      obtain ⟨r, hr, rfl⟩ := List.mem_map.mp hp
      have hcore := (hpieces r hr).inCore
      obtain ⟨hspan, hlines⟩ := hcore.lines b r.n
      rw [Run.target, hcore.flushFor, hspan, hlines, List.append_nil, State.recall_none]
  have hfill (x : State) : (cuts.map (Run.target s v .load)).foldl (fun s p => s.fillFor v.seat p.1 p.2) x = x :=
    foldl_id x fun p hp b => by
      obtain ⟨r, hr, rfl⟩ := List.mem_map.mp hp
      exact (hpieces r hr).inCore.fillFor b v.seat r.n
  have hneeds := engNeeds_core hpieces v.t.core
  rw [engWalks_core, if_neg (not_not.mpr rfl), engPieces_core hpieces]
  dsimp only [mxThen]
  rw [hlocs, hbefore, List.append_nil]
  rw [show decide (Access.load ≠ Access.load) = false from rfl] at hneeds
  rw [hneeds, hquiet]
  dsimp only
  rw [hfill]
  have hafter : s.forceBefore v str [none] (coreLocs s v rs) = coreAfter s v str rs := rfl
  rw [hafter, hread, cutLengths_runs]
  simp only [coreBytes_eq]

end Sys2Proof.Machine
end

section

/-! PROOFS. Lines of `.core` with their scale data as the matrix engine reads them, and runs of `.core` as it writes them (R257,
R260, R271, R272, R275, R314). -/

namespace Sys2Proof.Machine

/-! ### Lines and their scale data (R257, R260) -/

/-- The bytes of a run of `.core`. -/
def Run.bytes (s : State) (v : View) (r : Run) : List Byte := coreBytes s v r.addr r.n

/-- What was read for lines is given back to each of them. -/
theorem splitLines_runs (s : State) (v : View) (rs : List LineRef) :
    splitLines rs ((rs.flatMap LineRef.runs).map (Run.bytes s v)) = rs.map (LineRef.coreBytes s v) := by
  induction rs with
  | nil => rfl
  | cons r rs ih =>
    obtain ⟨line, scale⟩ := r
    rw [List.flatMap_cons, List.map_append, List.map_cons, ← ih]
    cases scale with
    | none => rfl
    | some x =>
      simp only [LineRef.runs]
      split <;> simp [splitLines, *, Run.bytes, LineRef.coreBytes]

/-- The runs of lines whose scale data has an even alignment. -/
theorem LineRef.runs_even {r : LineRef} (h : ∀ x, r.scale = some x → x.Even) : ∀ x ∈ r.runs, x.Even := by
  obtain ⟨line, scale⟩ := r
  have hline : Run.Even { addr := line, n := 128, al := 1 } := one_dvd 128
  cases scale with
  | none => exact List.forall_mem_singleton.mpr hline
  | some y =>
    have hy := h y rfl
    simp only [LineRef.runs]
    split
    · exact List.forall_mem_cons.mpr ⟨hy, List.forall_mem_singleton.mpr hline⟩
    · exact List.forall_mem_cons.mpr ⟨hline, List.forall_mem_singleton.mpr hy⟩

theorem Tile.lineRef_even (d : Tile) (sb i : Nat) : ∀ x ∈ (d.lineRef sb i).runs, x.Even := by
  refine LineRef.runs_even fun x hx => ?_
  simp only [Tile.lineRef] at hx
  split at hx <;> cases hx
  · exact one_dvd 128
  · exact ⟨32, rfl⟩

theorem MgRun.lineRef_even (r : MgRun) : ∀ x ∈ r.lineRef.runs, x.Even := by
  refine LineRef.runs_even fun x hx => ?_
  simp only [MgRun.lineRef] at hx
  split at hx <;> cases hx
  · exact one_dvd 128
  · exact ⟨32, rfl⟩

/-- Lines of `.core` that can be read are read as the slot sees them, with their scale data. -/
theorem engLines_core {s : State} {v : View} {str : BitVec 4} {rs : List LineRef}
    (h : CoreReadable s v str (rs.flatMap LineRef.runs)) (heven : ∀ r ∈ rs, ∀ x ∈ r.runs, x.Even) :
    engLines s v 1 str rs = (coreAfter s v str (rs.flatMap LineRef.runs),
      .ok (rs.map (LineRef.coreBytes (coreAfter s v str (rs.flatMap LineRef.runs)) v))) := by
  have heven' : ∀ x ∈ rs.flatMap LineRef.runs, x.Even := fun x hx => by
    obtain ⟨r, hr, hx⟩ := List.mem_flatMap.mp hx
    exact heven r hr x hx
  rw [engLines, engRead_core h heven', ← splitLines_runs]
  rfl

/-! ### Bytes placed at addresses -/

theorem placed_append (a : Dword) (xs ys : List Byte) :
    placed a (xs ++ ys) = placed a xs ++ placed (a + BitVec.ofNat 64 xs.length) ys := by
  have hshift : ys.zipIdx xs.length = ys.zipIdx.map fun x => (x.1, x.2 + xs.length) := by
    rw [List.zipIdx_eq_map_add]
    exact List.map_congr_left fun x _ => by rw [Nat.add_comm]
  rw [placed, List.zipIdx_append, List.map_append, Nat.zero_add, hshift, List.map_map]
  congr 1
  refine List.map_congr_left fun x _ => ?_
  rw [Function.comp_apply, ofNat_add_assoc, Nat.add_comm]

theorem mem_placed {a : Dword} {bs : List Byte} {x : Dword × Byte} :
    x ∈ placed a bs ↔ ∃ j, j < bs.length ∧ x = (a + BitVec.ofNat 64 j, byteAt bs j) := by
  simp only [placed, List.mem_map, Prod.exists, List.mk_mem_zipIdx_iff_getElem?, byteAt]
  constructor
  · rintro ⟨b, j, hj, rfl⟩
    exact ⟨j, (List.getElem?_eq_some_iff.mp hj).1, by rw [hj]; rfl⟩
  · rintro ⟨j, hj, rfl⟩
    exact ⟨bs[j], j, List.getElem?_eq_getElem hj, by rw [List.getElem?_eq_getElem hj]; rfl⟩

/-- The bytes of runs, each with its address. -/
def outBytes (runs : List Out) : List (Dword × Byte) := runs.flatMap fun r => placed r.addr r.data

/-! ### A write of runs (R271, R275, R314) -/

/-- The run of an engine write. -/
def Out.run (o : Out) : Run := { addr := o.addr, n := o.data.length, al := o.al }

/-- The units in which a run of `.core` is written. -/
def Out.units (s : State) (v : View) (o : Out) : List (List (Loc × Byte)) := alignedUnits (coreTarget s v .store o.addr) o.data

/-- Writes sent one after the other stand behind the others, numbered on from the next. -/
theorem addWrites_behind (seat : Seat) (stream : Option (BitVec 4)) (deps : List Nat) (us : List (List (Loc × Byte))) (s : State) :
    let t := us.foldl (fun s u => s.addWrite seat stream none deps u) s
    ∃ new, t = { s with writes := s.writes ++ new, nextWrite := s.nextWrite + new.length, segs := t.segs } ∧
      ∀ w ∈ new, w.seat = seat ∧ w.stream = stream ∧ w.lane = none ∧ w.level = 0 ∧ w.deps = deps := by
  induction us generalizing s with
  | nil => exact ⟨[], by simp, fun _ h => absurd h List.not_mem_nil⟩
  | cons u us ih =>
    obtain ⟨gs, h, -⟩ := s.addWrite_eq seat stream none deps u
    obtain ⟨new, hnew, hall⟩ := ih (s.addWrite seat stream none deps u)
    refine ⟨{ id := s.nextWrite, seat := seat, stream := stream, lane := none, bytes := u, level := 0, deps := deps } :: new, ?_,
      List.forall_mem_cons.mpr ⟨⟨rfl, rfl, rfl, rfl, rfl⟩, hall⟩⟩
    rw [List.foldl_cons]
    refine hnew.trans ?_
    rw [h, List.append_assoc, List.length_cons, Nat.add_assoc, Nat.add_comm 1]
    rfl

/-- A run of pieces is written as the units of each, in order. -/
theorem engWrite_core_eq {s : State} {v : View} (str : BitVec 4) {runs : List Out} (h : ∀ o ∈ runs, o.run.Piece s v .store) :
    engWrite s v 1 str runs = ((runs.flatMap (Out.units s v)).foldl
      (fun x u => x.addWrite v.seat (some str) none (orderedBefore s v.sl v.p str none) u) s, .ok ()) := by
  have hpieces : ∀ r ∈ runs.map Out.run, r.Piece s v .store := List.forall_mem_map.mpr h
  have hneeds := engNeeds_core hpieces v.t.core
  rw [show decide (Access.store ≠ Access.load) = true from rfl] at hneeds
  have hsends (deps : List Nat) (x : State) (hruns : ∀ o ∈ runs, o.run.Piece s v .store) :
      (((runs.map Out.run).map (Run.target s v .store)).zip runs).foldl (engSend v str deps) x =
        (runs.flatMap (Out.units s v)).foldl (fun s u => s.addWrite v.seat (some str) none deps u) x := by
    clear h hpieces hneeds
    induction runs generalizing x with
    | nil => rfl
    | cons o runs ih =>
      obtain ⟨ho, hruns⟩ := List.forall_mem_cons.mp hruns
      have hsend : engSend v str deps x (o.run.target s v .store, o) =
          (o.units s v).foldl (fun s u => s.addWrite v.seat (some str) none deps u) x := by
        rw [engSend, Run.target, ho.inCore.flushFor, (ho.inCore.lines x o.run.n).1, State.recall_none]
        rfl
      rw [List.map_cons, List.map_cons, List.zip_cons_cons, List.foldl_cons, hsend, ih _ hruns, List.flatMap_cons, List.foldl_append]
  have hruns : (runs.map fun r => { addr := r.addr, n := r.data.length, al := r.al : Run }) = runs.map Out.run := rfl
  unfold engWrite
  dsimp only
  rw [hruns, engWalks_core, if_neg (not_not.mpr rfl), engPieces_core hpieces]
  dsimp only
  rw [hneeds]
  exact congrArg (·, Except.ok ()) (hsends _ s h)

/-- The last of some bytes placed at a location of `.core`, if any. -/
def lastPlaced (s : State) (v : View) (bs : List (Dword × Byte)) (l : Loc) : Option Byte :=
  (bs.reverse.find? fun x => decide (coreLoc s v .store x.1 = some l)).map Prod.snd

theorem lastPlaced_append (s : State) (v : View) (xs ys : List (Dword × Byte)) (l : Loc) :
    lastPlaced s v (xs ++ ys) l = (lastPlaced s v ys l).or (lastPlaced s v xs l) := by
  rw [lastPlaced, List.reverse_append, List.find?_append, Option.map_or]
  rfl

/-- The bytes of a piece lie at different locations: at each, its own. -/
theorem lastPlaced_piece {s : State} {v : View} {o : Out} (h : o.run.Piece s v .store) (l : Loc) :
    lastPlaced s v (placed o.addr o.data) l = storedAt (coreTarget s v .store o.addr) o.data l := by
  obtain ⟨-, -, -, -, hloc⟩ := h.spec
  cases hf : (placed o.addr o.data).reverse.find? fun x => decide (coreLoc s v .store x.1 = some l) with
  | none =>
    rw [lastPlaced, hf, Option.map_none]
    refine (storedAt_elsewhere fun j hj heq => ?_).symm
    have := List.find?_eq_none.mp hf _ (List.mem_reverse.mpr (mem_placed.mpr ⟨j, hj, rfl⟩))
    exact this (decide_eq_true ((hloc j hj).trans heq))
  | some x =>
    obtain ⟨j, hj, rfl⟩ := mem_placed.mp (List.mem_reverse.mp (List.mem_of_find?_eq_some hf))
    rw [lastPlaced, hf, Option.map_some]
    have hx : coreLoc s v .store (o.addr + BitVec.ofNat 64 j) = some l := by simpa using List.find?_some hf
    exact (storedAt_located hj ((hloc j hj).symm.trans hx)).symm

/-- The units of pieces make of a byte the last one placed at its location. -/
theorem foldl_units {s : State} {v : View} {runs : List Out} (h : ∀ o ∈ runs, o.run.Piece s v .store) (l : Loc) (b : Byte) :
    (runs.flatMap (Out.units s v)).foldl (fun b u => overwrite u l b) b = (lastPlaced s v (outBytes runs) l).getD b := by
  induction runs generalizing b with
  | nil => rfl
  | cons o runs ih =>
    obtain ⟨ho, hruns⟩ := List.forall_mem_cons.mp h
    have hone : (o.units s v).foldl (fun b u => overwrite u l b) b = (lastPlaced s v (placed o.addr o.data) l).getD b := by
      rw [lastPlaced_piece ho, Out.units, foldl_overwrite (by rw [flatten_alignedUnits]; exact targetBytes_nodup _ _),
        flatten_alignedUnits, overwrite_targetBytes]
    rw [List.flatMap_cons, List.foldl_append, hone, ih hruns]
    have hcons : outBytes (o :: runs) = placed o.addr o.data ++ outBytes runs := rfl
    rw [hcons, lastPlaced_append]
    exact Option.getD_or.symm

/-- Pieces of `.core` are written: their bytes stand behind the other writes, and the wave's own agents see them. -/
theorem engWrite_core {s : State} {v : View} (str : BitVec 4) {runs : List Out} (h : ∀ o ∈ runs, o.run.Piece s v .store) :
    ∃ t, engWrite s v 1 str runs = (t, .ok ()) ∧ CoreWrites v str (outBytes runs) s t := by
  obtain ⟨new, hnew, hall⟩ := addWrites_behind v.seat (some str) (orderedBefore s v.sl v.p str none) (runs.flatMap (Out.units s v)) s
  obtain ⟨hsend, hseen⟩ := addWrites_spec v.seat (some str) (orderedBefore s v.sl v.p str none) (runs.flatMap (Out.units s v)) s
  refine ⟨_, engWrite_core_eq str h, ⟨new, hnew, hall⟩, hsend.engineFrame.2.2, fun r l => ?_⟩
  rw [hseen, foldl_units h]
  rfl

/-! ### An image cut into pieces (R272) -/

/-- The bytes of an image's row are written as they lie, in pieces that end at multiples of 16. -/
theorem sixteens_spec (al fuel : Nat) (a : Dword) (bs : List Byte) (h : bs = [] ∨ a.toNat % 16 + bs.length ≤ 16 * fuel) :
    outBytes (sixteens al fuel a bs) = placed a bs ∧ ∀ o ∈ sixteens al fuel a bs, 0 < o.data.length ∧
      o.addr.toNat % 16 + o.data.length ≤ 16 ∧ o.al = al ∧ (o.addr = a ∨ o.addr.toNat % 16 = 0) := by
  induction fuel generalizing a bs with
  | zero =>
    have hbs : bs = [] := h.elim id fun h => List.length_eq_zero_iff.mp (by omega)
    exact ⟨by rw [hbs]; rfl, fun o ho => nomatch ho⟩
  | succ fuel ih =>
    rw [sixteens]
    split
    · next hnil => rw [List.isEmpty_iff.mp hnil]; exact ⟨rfl, fun o ho => nomatch ho⟩
    · next hne =>
      have hpos : 0 < bs.length := List.length_pos_iff.mpr fun h => hne (List.isEmpty_iff.mpr h)
      have hlen := h.resolve_left (List.length_pos_iff.mp hpos)
      dsimp only
      generalize hk : 16 - a.toNat % 16 = k
      have hmod : (a + BitVec.ofNat 64 k).toNat % 16 = 0 := by
        rw [BitVec.toNat_add, BitVec.toNat_ofNat]
        omega
      obtain ⟨hall, hpieces⟩ := ih (a + BitVec.ofNat 64 k) (bs.drop k) (by
        rcases Nat.lt_or_ge k bs.length with hlt | hge
        · exact .inr (by rw [List.length_drop]; omega)
        · exact .inl (List.drop_eq_nil_of_le hge))
      refine ⟨?_, List.forall_mem_cons.mpr ⟨?_, fun o ho => ?_⟩⟩
      · have hcons : outBytes ({ addr := a, al := al, data := bs.take k } :: sixteens al fuel (a + BitVec.ofNat 64 k) (bs.drop k)) =
            placed a (bs.take k) ++ placed (a + BitVec.ofNat 64 k) (bs.drop k) := by
          rw [← hall]; rfl
        rw [hcons]
        rcases Nat.lt_or_ge k bs.length with hlt | hge
        · conv_rhs => rw [← List.take_append_drop k bs, placed_append, List.length_take, Nat.min_eq_left hlt.le]
        · rw [List.take_of_length_le hge, List.drop_eq_nil_of_le hge]
          exact List.append_nil _
      · dsimp only
        rw [List.length_take]
        exact ⟨by omega, by omega, rfl, .inl rfl⟩
      · obtain ⟨hpos', hblock, hal, hstart⟩ := hpieces o ho
        exact ⟨hpos', hblock, hal, .inr (hstart.elim (fun heq => by rw [heq, hmod]) id)⟩

/-- A piece that lies within 16 bytes and whose bytes are ready. -/
theorem Out.piece_of_placed {s : State} {v : View} {o : Out} (hpos : 0 < o.data.length)
    (hblock : o.addr.toNat % 128 + o.data.length ≤ 128) (hal : o.addr.toNat % o.al = 0)
    (hready : ∀ x ∈ placed o.addr o.data, CoreByteReady s v .store x.1) : o.run.Piece s v .store :=
  ⟨hpos, hblock, hal, fun j hj => hready (_, byteAt o.data j) (mem_placed.mpr ⟨j, hj, rfl⟩)⟩

theorem outBytes_flatMap {α : Type} (l : List α) (f : α → List Out) : outBytes (l.flatMap f) = l.flatMap fun x => outBytes (f x) :=
  List.flatMap_assoc

theorem outBytes_append (xs ys : List Out) : outBytes (xs ++ ys) = outBytes xs ++ outBytes ys := List.flatMap_append

theorem placed_subset_outBytes {o : Out} {runs : List Out} (h : o ∈ runs) : placed o.addr o.data ⊆ outBytes runs :=
  fun _ hx => List.mem_flatMap.mpr ⟨o, h, hx⟩

end Sys2Proof.Machine
end

section

/-! PROOFS. Class 4 operations accepted as they issue (O39): the common course, what each leaves of accumulators, slots, registers
and bytes (R254, R260 to R263, R265, R266, R268, R272, R273). -/

namespace Sys2Proof.Machine

/-! ### Issuing (R255, R260, R274) -/

/-- An operation of whom nothing is wrong is tried as it issues, and where its effect succeeds it goes on. -/
theorem mxIssue_accepts {s s0 s1 : State} {v : View} {c : Ctl} {word : Dword} {causes : View → List Nat} {wait : View → Bool}
    {names : MxArgs → List Nat × List Nat} {args : View → MxArgs} {body : MxBody} {p : Slot} {i : Instr}
    (hi : exec i s = mxIssue c word causes wait names args body s) (hv : s.view = some v)
    (hc : mxCtlCauses c v ++ causes v = []) (hfree : MatrixFree v c (names (args v))) (hwait : wait v = false)
    (hbody : body (args v) v s = (s0, .ok (s1, p))) :
    exec i s = .next (s1.putSlot v ({ p with replay := false }.afterOther c.ch)) := by
  obtain ⟨hactive, hbusy⟩ := hfree
  obtain ⟨-, -, -, -, -, -, hlive, -⟩ := State.view_spec hv
  refine hi.trans ((issue_run hv hc (by rw [hwait, hbusy]; exact Bool.and_false _)).trans (congrArg _ ?_))
  rw [if_neg fun h => hactive h.1, hbody]
  exact congrArg (s1.putSlot v) (if_pos hlive)

/-- A slot whose epilogue block changes moves on as one whose block does not. -/
theorem MovesOn.rebound {pend : List Pend} {fm : Lanes} {v : View} {s t : State} {e : Option (BitVec 512)} {b : Dword}
    (h : MovesOn pend fm { v with p := { v.p with epi := e, epib := b } } s t) : MovesOn pend fm v s t := by
  obtain ⟨honly, u, hfind, hslot, hpc, hrest⟩ := h
  exact ⟨honly, u, hfind, hslot, hpc.trans (Slot.retire_pc_congr rfl rfl rfl), hrest⟩

/-- What is accepted changes its slot in no more than its results and its epilogue block. -/
def Slot.Accepted (p q : Slot) : Prop := q = { p with pend := q.pend, epi := q.epi, epib := q.epib }

theorem Slot.accepted_refl (p : Slot) : p.Accepted p := rfl

/-- A slot put back past an accepted operation, after work that leaves the waves alone. -/
theorem movesOn_accepted {s s1 : State} {v : View} {p : Slot} (hs : s.Holds v.sl) (hwork : MemoryWork s s1) (hp : v.p.Accepted p)
    (ch : Bool) : MovesOn p.pend v.p.fmask v s1 (s1.putSlot v ({ p with replay := false }.afterOther ch)) := by
  have hfmask : v.p.fmask = p.fmask := by rw [hp]
  rw [hfmask]
  refine MovesOn.rebound (e := p.epi) (b := p.epib) ?_
  refine State.Holds.movesOn (v := { v with p := { v.p with epi := p.epi, epib := p.epib } }) (p := { p with replay := false })
    (hwork.holds hs) ch ?_
  rw [hp]

/-- Such an operation answers a next state in which its slot has moved on. -/
theorem mxIssue_movesOn {s s0 s1 : State} {v : View} {c : Ctl} {word : Dword} {causes : View → List Nat} {wait : View → Bool}
    {names : MxArgs → List Nat × List Nat} {args : View → MxArgs} {body : MxBody} {p : Slot} {i : Instr}
    (hi : exec i s = mxIssue c word causes wait names args body s) (hv : s.view = some v)
    (hc : mxCtlCauses c v ++ causes v = []) (hfree : MatrixFree v c (names (args v))) (hwait : wait v = false)
    (hbody : body (args v) v s = (s0, .ok (s1, p))) (hwork : MemoryWork s s1) (hp : v.p.Accepted p) :
    ∃ t, exec i s = .next t ∧ MovesOn p.pend v.p.fmask v s1 t :=
  ⟨_, mxIssue_accepts hi hv hc hfree hwait hbody, movesOn_accepted (State.holds_of_view hv) hwork hp c.ch⟩

/-! ### Accumulators and weight-store slots -/

theorem memoryWork_setAcc (s : State) (t n : Nat) (a : Acc) : MemoryWork s (s.setAcc t n a) :=
  memoryWork_modTeam s t (fun _ => rfl) (fun _ => rfl)

/-- A weight-store slot of a team set. -/
def State.setWSlot (s : State) (t n : Nat) (w : WSlot) : State := s.modTeam t fun t => { t with wslots := t.wslots.set n w }

theorem memoryWork_setWSlot (s : State) (t n : Nat) (w : WSlot) : MemoryWork s (s.setWSlot t n w) :=
  memoryWork_modTeam s t (fun _ => rfl) (fun _ => rfl)

theorem memoryWork_coreAfter (s : State) (v : View) (str : BitVec 4) (rs : List Run) : MemoryWork s (coreAfter s v str rs) :=
  memoryWork_perform s 6 _

/-- Writes put behind the others leave every team as it was. -/
theorem CoreWrites.memoryWork {v : View} {str : BitVec 4} {bs : List (Dword × Byte)} {s t : State} (h : CoreWrites v str bs s t) :
    MemoryWork s t := by
  obtain ⟨⟨new, heq, -⟩, -⟩ := h
  rw [heq]
  exact .of_same rfl rfl

theorem mxAcc_some {α : Type} {v : View} {n : Nat} {a : Acc} (h : v.t.accs[n]? = some a) (s : State) (f : Acc → Mx α) :
    mxAcc v s n f = f a := by
  rw [mxAcc, h]

theorem mxSlot_some {α : Type} {v : View} {n : Nat} {w : WSlot} (h : v.t.wslots[n]? = some w) (s : State) (f : WSlot → Mx α) :
    mxSlot v s n f = f w := by
  rw [mxSlot, h]

theorem mxCheck_pass {α : Type} {ok : Bool} (h : ok = true) (cause : Nat) (s : State) (r : Mx α) : mxCheck ok cause s r = r := if_pos h

/-- Keys are as they were, so a slot's column lines are too. -/
theorem EngineFrame.columns {s t : State} (h : EngineFrame s t) (w : WSlot) (fb : Nat) : w.columns t fb = w.columns s fb := by
  have hkeys : t.keys = s.keys := by rw [h.1]
  have hkey : w.key t = w.key s := by rw [WSlot.key, WSlot.key, hkeys]
  exact List.map_congr_left fun j _ => by simp only [WSlot.column, hkey]

/-! ### Cells filled row by row -/

/-- The cells of rows of at most `n` elements. -/
def gridCells {w : Nat} (n : Nat) (rows : List (List (BitVec w))) : List (Nat × BitVec w) :=
  rows.zipIdx.flatMap fun r => r.1.zipIdx.map fun c => (n * r.2 + c.2, c.1)

theorem mem_gridCells {w n : Nat} {rows : List (List (BitVec w))} {p : Nat × BitVec w} :
    p ∈ gridCells n rows ↔ ∃ i j, ∃ r, rows[i]? = some r ∧ r[j]? = some p.2 ∧ p.1 = n * i + j := by
  obtain ⟨a, x⟩ := p
  simp only [gridCells, List.mem_flatMap, List.mem_map, Prod.exists, List.mk_mem_zipIdx_iff_getElem?, Prod.mk.injEq]
  constructor
  · rintro ⟨r, i, hr, x, j, hx, rfl, rfl⟩
    exact ⟨i, j, r, hr, hx, rfl⟩
  · rintro ⟨i, j, r, hr, hx, rfl⟩
    exact ⟨r, i, hr, x, j, hx, rfl, rfl⟩

/-- Element `j` of row `i` is read at its place. -/
theorem cellGet_gridCells {w n : Nat} {rows : List (List (BitVec w))} (hlen : ∀ r ∈ rows, r.length ≤ n) {i j : Nat} (hj : j < n) :
    cellGet (cellSetAll [] (gridCells n rows)) (n * i + j) = ((rows[i]?.getD [])[j]?).getD 0 := by
  have hplace {p : Nat × BitVec w} (hp : p ∈ gridCells n rows) (hkey : p.1 = n * i + j) : (rows[i]?.getD [])[j]? = some p.2 := by
    obtain ⟨i', j', r, hr, hx, hp1⟩ := mem_gridCells.mp hp
    have hj' : j' < n := (List.getElem?_eq_some_iff.mp hx).1.trans_le (hlen r (List.mem_of_getElem? hr))
    have heq : n * i' + j' = n * i + j := hp1.symm.trans hkey
    have hi : i' = i := by
      have hdiv := congrArg (· / n) heq
      simpa only [Nat.mul_add_div (Nat.zero_lt_of_lt hj), Nat.div_eq_of_lt hj, Nat.div_eq_of_lt hj', Nat.add_zero] using hdiv
    subst hi
    obtain rfl : j' = j := Nat.add_left_cancel heq
    rw [hr, Option.getD_some, hx]
  cases hx : (rows[i]?.getD [])[j]? with
  | none =>
    rw [cellGet_cellSetAll_ne _ _ _ fun p hp hkey => ?_, cellGet_nil]
    · rfl
    · exact absurd (hx.symm.trans (hplace hp hkey)) (by simp)
  | some x =>
    refine cellGet_cellSetAll_mem [] (mem_gridCells.mpr ⟨i, j, rows[i]?.getD [], ?_, hx, rfl⟩) fun p hp hkey => ?_
    · cases hr : rows[i]? with
      | none => rw [hr] at hx; exact nomatch hx
      | some r => rfl
    · exact (Option.some.inj (hx.symm.trans (hplace hp hkey))).symm

theorem addrBytes_eq (a : Nat) (bs : List Byte) : addrBytes a bs = bs.zipIdx.map fun c => (a + c.2, c.1) := by
  induction bs generalizing a with
  | nil => rfl
  | cons b bs ih =>
    rw [addrBytes, ih, List.zipIdx_cons, List.map_cons, Nat.zero_add, List.zipIdx_succ, List.map_map]
    exact congrArg _ (List.map_congr_left fun c _ => by rw [Function.comp_apply, Nat.add_right_comm, Nat.add_assoc])

/-! ### MLDB (R262) -/

/-- The slot MLDB leaves, from the lines it read with their scale data. -/
def loadedSlot (sk : Nat) (ls : List (List Byte × List Byte)) : WSlot :=
  { v := true, win := false, sk := sk, stf := 0, window := 0, ks := 0, roff := []
    lines := cellSetAll [] (addrBytes 0 (ls.flatMap Prod.fst))
    scale := cellSetAll [] (ls.zipIdx.flatMap fun l => addrBytes (8 * l.2) l.1.2) }

theorem loadedSlot_lines {n : Nat} (sk : Nat) {line : Nat → List Byte × List Byte} (hlen : ∀ i, (line i).1.length = 128) {i j : Nat}
    (hi : i < n) (hj : j < 128) :
    cellGet (loadedSlot sk ((List.range n).map line)).lines (128 * i + j) = byteAt (line i).1 j := by
  have hfst : ((List.range n).map line).flatMap Prod.fst = (List.range n).flatMap fun i => (line i).1 := List.flatMap_map ..
  have hblock := block_flatMap (f := fun i => (line i).1) hlen [] (xs := List.range n) (j := i) (by simpa using hi)
  rw [List.append_nil, List.getElem_range] at hblock
  have hbound : 128 * i + j < ((List.range n).flatMap fun i => (line i).1).length := by
    simp only [List.length_flatMap, hlen, List.map_const', List.length_range, List.sum_replicate, smul_eq_mul]
    omega
  have hget := cellGet_addrBytes [] (a := 0) hbound
  rw [Nat.zero_add] at hget
  rw [loadedSlot, hfst, hget, ← hblock, byteAt_take hj, byteAt, byteAt, List.getElem?_drop]

theorem loadedSlot_scale {n : Nat} (sk : Nat) {line : Nat → List Byte × List Byte} (hlen : ∀ i, (line i).2.length ≤ 8) {i j : Nat}
    (hi : i < n) (hj : j < 8) :
    cellGet (loadedSlot sk ((List.range n).map line)).scale (8 * i + j) = byteAt (line i).2 j := by
  have hcells (ls : List (List Byte × List Byte)) :
      (ls.zipIdx.flatMap fun l => addrBytes (8 * l.2) l.1.2) = gridCells 8 (ls.map Prod.snd) := by
    rw [gridCells, List.zipIdx_map, List.flatMap_map]
    exact List.flatMap_congr fun l _ => addrBytes_eq _ _
  rw [loadedSlot, hcells, cellGet_gridCells (by simpa using fun i _ => hlen i) hj]
  simp [hi, byteAt]

/-- The lines of a tile that can be read are read together. -/
theorem engLines_tile {s : State} {v : View} {str : BitVec 4} (d : Tile) (sb : Nat)
    (h : CoreReadable s v str ((List.range 32).flatMap fun i => (d.lineRef sb i).runs)) :
    let s1 := coreAfter s v str ((List.range 32).flatMap fun i => (d.lineRef sb i).runs)
    engLines s v 1 str ((List.range 32).map (d.lineRef sb)) =
      (s1, .ok ((List.range 32).map fun i => (d.lineRef sb i).coreBytes s1 v)) := by
  have hruns : ((List.range 32).map (d.lineRef sb)).flatMap LineRef.runs = (List.range 32).flatMap fun i => (d.lineRef sb i).runs :=
    List.flatMap_map ..
  have hlines := engLines_core (rs := (List.range 32).map (d.lineRef sb)) (hruns ▸ h)
    (List.forall_mem_map.mpr fun i _ => d.lineRef_even sb i)
  rw [hruns, List.map_map] at hlines
  exact hlines

theorem mldbBody_core {f : FmtX} {x : MxArgs} {v : View} {s : State} (hn : x.b.toNat < v.t.wslots.length)
    (hok : (tileOf x.a).readOk = true)
    (hread : CoreReadable s v f.str ((List.range 32).flatMap fun i => ((tileOf x.a).lineRef 8 i).runs)) :
    let s1 := coreAfter s v f.str ((List.range 32).flatMap fun i => ((tileOf x.a).lineRef 8 i).runs)
    mldbBody f x v s = (s1, .ok (s1.setWSlot v.t.id x.b.toNat
      (loadedSlot (tileOf x.a).sk ((List.range 32).map fun i => ((tileOf x.a).lineRef 8 i).coreBytes s1 v)), v.p)) := by
  rw [mldbBody, mxSlot_some (List.getElem?_eq_getElem hn)]
  dsimp only
  rw [mxCheck_pass hok, engLines_tile (tileOf x.a) 8 hread]
  rfl

/-! ### MMA, MMAM and MDIST (R263 to R265) -/

theorem zipIdx_map_range {α : Type} (n : Nat) (f : Nat → α) :
    ((List.range n).map f).zipIdx = (List.range n).map fun i => (f i, i) := by
  refine List.ext_getElem (by simp) fun i hi hi' => ?_
  simp

/-- What a K step applies besides its operand lines. -/
def stepKind (f : FmtX) (masked dist : Bool) (x : MxArgs) : KStep :=
  let m := if masked then x.c else fullMask
  { keep := !dist && f.xb.getLsbD 0, dist := dist, rm := rowMask m, cm := colMask m
    dep := if masked && decide (f.sc ≠ 0x87) then maskDepth x.c else mxDepth f.fa.toNat }

theorem stepBody_core {f : FmtX} {masked dist : Bool} {x : MxArgs} {v : View} {s : State} {a : Acc} {w : WSlot}
    (ha : v.t.accs[f.d.toNat]? = some a) (hw : v.t.wslots[x.b.toNat]? = some w) (hv : w.v = true)
    (hok : (tileOf x.a).readOk = true) (hscale : scaleTyOk (tileOf x.a).sk f.fa.toNat = true)
    (hquad : (masked && decide (f.sc ≠ 0x87)) = true → maskDepth x.c ≤ mxDepth f.fa.toNat ∧ x.c.extractLsb' 96 32 = 0)
    (hty : a.tyI = mxInt f.fa.toNat) (hres : a.tyI = true ∨ a.res = false) (hfits : w.fits s f.fb.toNat = true)
    (hread : CoreReadable s v f.str ((List.range 32).flatMap fun i => ((tileOf x.a).lineRef (mxDepth f.fa.toNat / 32) i).runs)) :
    let line := (tileOf x.a).lineRef (mxDepth f.fa.toNat / 32)
    let s1 := coreAfter s v f.str ((List.range 32).flatMap fun i => (line i).runs)
    stepBody f masked dist x v s = (s1, .ok (s1.setAcc v.t.id f.d.toNat (a.step (stepKind f masked dist x)
      ((List.range 32).map fun i =>
        (i, opLine f.fa.toNat (tileOf x.a).sk ((line i).coreBytes s1 v).2 ((line i).coreBytes s1 v).1))
      (w.columns s f.fb.toNat)), v.p)) := by
  intro line s1
  have hmask : (!(masked && decide (f.sc ≠ 0x87)) || (decide ((if masked && decide (f.sc ≠ 0x87) then maskDepth x.c
      else mxDepth f.fa.toNat) ≤ mxDepth f.fa.toNat) && decide (x.c.extractLsb' 96 32 = 0))) = true := by
    cases hq : masked && decide (f.sc ≠ 0x87) with
    | false => rfl
    | true =>
      obtain ⟨hdep, hhigh⟩ := hquad hq
      rw [if_pos rfl, decide_eq_true hdep, decide_eq_true hhigh]
      rfl
  have htype : (decide (a.tyI = mxInt f.fa.toNat) && (a.tyI || !a.res)) = true := by
    rw [decide_eq_true hty, Bool.true_and]
    rcases hres with h | h <;> simp [h]
  have hlines := engLines_tile (tileOf x.a) (mxDepth f.fa.toNat / 32) hread
  unfold stepBody
  dsimp only
  rw [mxAcc_some ha, mxSlot_some hw, mxCheck_pass hv, mxCheck_pass (by rw [hok, hscale, hmask]; rfl), mxCheck_pass htype,
    mxCheck_pass hfits, hlines, mxThen, zipIdx_map_range, List.map_map, (engineFrame_coreAfter s v f.str _).columns]
  rfl

/-! ### The epilogue block (R268) -/

theorem readEpi_core {s : State} {v : View} {str : BitVec 4} {a : Dword} (hal : a.toNat % 64 = 0)
    (h : CoreReadable s v str [{ addr := a, n := 64, al := 1 }])
    (hok : epiOk (BitVec.ofNat 512 (coreNum (coreAfter s v str [{ addr := a, n := 64, al := 1 }]) v a 64)) = true) :
    readEpi s v str a = (coreAfter s v str [{ addr := a, n := 64, al := 1 }],
      .ok (BitVec.ofNat 512 (coreNum (coreAfter s v str [{ addr := a, n := 64, al := 1 }]) v a 64))) := by
  have hread := engRead_core h (List.forall_mem_singleton.mpr (one_dvd 128))
  rw [readEpi, mxCheck_pass (decide_eq_true hal), hread, mxThen, List.map_singleton, List.flatten_singleton]
  exact mxCheck_pass hok _ _ _

/-! ### Images (R272) -/

/-- The bytes of an accumulator's image, each with its address. -/
def imageBytes (d : Tile) (a : Acc) : List (Dword × Byte) :=
  ((List.range 32).flatMap fun i => placed (d.row i) (imageRow a i)) ++ placed (d.row 32) (bytesOf (0xA5000000 + a.bits) 16)

/-- The pieces in which it is written. -/
def imageParts (d : Tile) (a : Acc) : List Out :=
  ((List.range 32).flatMap fun i => sixteens (if a.res then 1 else 4) 9 (d.row i) (imageRow a i)) ++
    sixteens 4 2 (d.row 32) (bytesOf (0xA5000000 + a.bits) 16)

theorem imageRow_length (a : Acc) (i : Nat) : (imageRow a i).length = 128 := by
  have hflat (n : Nat) : ((a.rowElems i).flatMap fun x => bytesOf x n).length = 32 * n := by
    simp only [List.length_flatMap, bytesOf_length, List.map_const', Acc.rowElems, List.length_map, List.length_range, List.sum_replicate,
      smul_eq_mul]
  cases h : a.res with
  | true => rw [imageRow_residues h, List.length_append, hflat, List.length_replicate]
  | false => rw [imageRow_plain h, List.append_nil, hflat]

/-- A row of an image begins at a multiple of 4. -/
theorem Tile.row_aligned {d : Tile} (hbase : d.base.toNat % 4 = 0) (hstride : d.stride % 16 = 0) (i : Nat) :
    (d.row i).toNat % 4 = 0 := by
  obtain ⟨m, hm⟩ := Nat.dvd_of_mod_eq_zero hstride
  have hmul : i * d.stride = 16 * (i * m) := by rw [hm, Nat.mul_left_comm]
  rw [Tile.row, BitVec.toNat_add, BitVec.toNat_ofNat, hmul]
  omega

theorem outBytes_imageParts (d : Tile) (a : Acc) : outBytes (imageParts d a) = imageBytes d a := by
  have hrow (i : Nat) (al : Nat) : outBytes (sixteens al 9 (d.row i) (imageRow a i)) = placed (d.row i) (imageRow a i) :=
    (sixteens_spec al 9 _ _ (.inr (by rw [imageRow_length]; omega))).1
  rw [imageParts, outBytes_append, outBytes_flatMap, (sixteens_spec 4 2 _ _ (.inr (by rw [bytesOf_length]; omega))).1, imageBytes]
  simp only [hrow]

theorem imageParts_pieces {s : State} {v : View} {d : Tile} {a : Acc} (hbase : d.base.toNat % 4 = 0) (hstride : d.stride % 16 = 0)
    (hready : ∀ x ∈ imageBytes d a, CoreByteReady s v .store x.1) : ∀ o ∈ imageParts d a, o.run.Piece s v .store := by
  have hpiece {o : Out} {al fuel i : Nat} {bs : List Byte} (hal : al ∣ 4)
      (hfuel : (d.row i).toNat % 16 + bs.length ≤ 16 * fuel) (ho : o ∈ sixteens al fuel (d.row i) bs)
      (hmem : o ∈ imageParts d a) : o.run.Piece s v .store := by
    obtain ⟨hpos, hblock, hoal, hstart⟩ := (sixteens_spec al fuel (d.row i) bs (.inr hfuel)).2 o ho
    have hfour : o.addr.toNat % 4 = 0 := hstart.elim (fun h => h ▸ Tile.row_aligned hbase hstride i) fun h => by omega
    refine Out.piece_of_placed hpos (by omega) ?_ fun x hx => hready x (outBytes_imageParts d a ▸ placed_subset_outBytes hmem hx)
    rw [hoal]
    exact Nat.mod_eq_zero_of_dvd (hal.trans (Nat.dvd_of_mod_eq_zero hfour))
  intro o ho
  rcases List.mem_append.mp ho with h | h
  · obtain ⟨i, -, hi⟩ := List.mem_flatMap.mp h
    refine hpiece ?_ (by rw [imageRow_length]; omega) hi ho
    split <;> decide
  · exact hpiece (by decide) (by rw [bytesOf_length]; omega) h ho

theorem Tile.imageOk_stride {d : Tile} (h : d.imageOk = true) : d.stride % 16 = 0 := by
  simp only [Tile.imageOk, Bool.and_eq_true, decide_eq_true_eq] at h
  exact h.1.2

theorem mspillBody_core {f : FmtX} {x : MxArgs} {v : View} {s : State} {a : Acc} (ha : v.t.accs[f.d.toNat]? = some a)
    (hok : (tileOf x.a).imageOk = true) (hbase : (tileOf x.a).base.toNat % 4 = 0)
    (hready : ∀ y ∈ imageBytes (tileOf x.a) a, CoreByteReady s v .store y.1) :
    ∃ s1, mspillBody f x v s = (s1, .ok (s1, v.p)) ∧ CoreWrites v f.str (imageBytes (tileOf x.a) a) s s1 := by
  obtain ⟨t, hwrite, hbytes⟩ := engWrite_core f.str (imageParts_pieces hbase (Tile.imageOk_stride hok) hready)
  refine ⟨t, ?_, outBytes_imageParts (tileOf x.a) a ▸ hbytes⟩
  rw [mspillBody, mxAcc_some ha]
  dsimp only
  rw [mxCheck_pass hok]
  exact congrArg (mxThen · _) hwrite

/-- The runs of an image: 32 rows and the word behind them. -/
def imageRuns (d : Tile) : List Run :=
  ((List.range 32).map fun i => { addr := d.row i, n := 128, al := 1 }) ++ [{ addr := d.row 32, n := 16, al := 4 }]

/-- The accumulator of an image's word and rows. -/
def filledAcc (word : Nat) (rows : List (List Byte)) : Acc :=
  { tyI := decide (word % 2 = 1), res := decide (word / 2 % 2 = 1), sat := decide (word / 4 % 2 = 1)
    el := cellSetAll [] (gridCells 32 (rows.map (fillRow (decide (word / 2 % 2 = 1))))) }

theorem filledAcc_bits (word : Nat) (rows : List (List Byte)) : (filledAcc word rows).bits = word % 8 := by
  have hbit (n : Nat) : (decide (n % 2 = 1)).toNat = n % 2 := by
    rcases Nat.mod_two_eq_zero_or_one n with h | h <;> simp [h]
  simp only [filledAcc, Acc.bits, hbit]
  omega

theorem filledAcc_el (word : Nat) {n : Nat} (row : Nat → List Byte) {i j : Nat} (hi : i < n) (hj : j < 32) :
    cellGet (filledAcc word ((List.range n).map row)).el (32 * i + j) =
      ((fillRow (filledAcc word ((List.range n).map row)).res (row i))[j]?).getD 0 := by
  have hlen : ∀ r ∈ ((List.range n).map row).map (fillRow (decide (word / 2 % 2 = 1))), r.length ≤ 32 := by
    simp [fillRow]
  rw [filledAcc, cellGet_gridCells hlen hj]
  simp [hi]

theorem mfillBody_core {f : FmtX} {x : MxArgs} {v : View} {s : State} {a : Acc} (ha : v.t.accs[f.d.toNat]? = some a)
    (hok : (tileOf x.a).imageOk = true) (hread : CoreReadable s v f.str (imageRuns (tileOf x.a))) :
    let s1 := coreAfter s v f.str (imageRuns (tileOf x.a))
    let rows := (List.range 32).map fun i => coreBytes s1 v ((tileOf x.a).row i) 128
    let word := coreNum s1 v ((tileOf x.a).row 32) 16
    imageStateOk word rows = true →
    mfillBody f x v s = (s1, .ok (s1.setAcc v.t.id f.d.toNat (filledAcc word rows), v.p)) := by
  intro s1 rows word himage
  have heven : ∀ r ∈ imageRuns (tileOf x.a), r.Even := by
    refine List.forall_mem_append.mpr ⟨List.forall_mem_map.mpr fun i _ => one_dvd 128, List.forall_mem_singleton.mpr ⟨32, rfl⟩⟩
  have hbytes : (imageRuns (tileOf x.a)).map (fun r => coreBytes s1 v r.addr r.n) =
      rows ++ [coreBytes s1 v ((tileOf x.a).row 32) 16] := by
    rw [imageRuns, List.map_append, List.map_map]
    rfl
  have hrows : rows.length = 32 := by simp [rows]
  have hlast : (rows ++ [coreBytes s1 v ((tileOf x.a).row 32) 16])[32]? = some (coreBytes s1 v ((tileOf x.a).row 32) 16) := by
    rw [List.getElem?_append_right (by omega), hrows]
    rfl
  have hdata := engRead_core hread heven
  rw [hbytes] at hdata
  rw [mfillBody, mxAcc_some ha]
  dsimp only
  rw [mxCheck_pass hok]
  have hruns : ((List.range 32).map fun i => ({ addr := (tileOf x.a).row i, n := 128, al := 1 } : Run)) ++
    [{ addr := (tileOf x.a).row 32, n := 16, al := 4 }] = imageRuns (tileOf x.a) := rfl
  rw [hruns, hdata, mxThen, hlast, List.take_left' hrows]
  refine (mxCheck_pass himage _ _ _).trans ?_
  have hcells (res : Bool) : (rows.zipIdx.flatMap fun r => (fillRow res r.1).zipIdx.map fun c => (32 * r.2 + c.2, c.1)) =
      gridCells 32 (rows.map (fillRow res)) := by
    rw [gridCells, List.zipIdx_map, List.flatMap_map]
    rfl
  rw [hcells]
  rfl

/-! ### The operations of O39 -/

theorem getLsbD_topkLanes (r : Word) (owned : Lanes) {l : Nat} (hl : l < 96) :
    (((r.zeroExtend 96 : Lanes) ||| (r.zeroExtend 96 : Lanes) <<< 32) &&& owned).getLsbD l =
      (decide (l < 64) && r.getLsbD (l % 32) && owned.getLsbD l) := by
  simp only [BitVec.getLsbD_and, BitVec.getLsbD_or, BitVec.getLsbD_shiftLeft, BitVec.truncate_eq_setWidth,
    BitVec.getLsbD_setWidth]
  congr 1
  rcases Nat.lt_or_ge l 32 with h | h
  · simp [h, hl, Nat.mod_eq_of_lt h, show l < 64 by omega]
  · rcases Nat.lt_or_ge l 64 with h' | h'
    · have hmod : l % 32 = l - 32 := by omega
      simp [hmod, hl, h', Nat.not_lt.mpr h, BitVec.getLsbD_of_ge r l (by omega), show l - 32 < 96 by omega]
    · simp [hl, Nat.not_lt.mpr h, Nat.not_lt.mpr h', BitVec.getLsbD_of_ge r l (by omega), BitVec.getLsbD_of_ge r (l - 32) (by omega)]

theorem byteAt_coreBytes (s : State) (v : View) (a : Dword) {n j : Nat} (h : j < n) :
    byteAt (coreBytes s v a n) j = coreByte s v (a + BitVec.ofNat 64 j) := by
  simp [byteAt, coreBytes, h]

/-- The scale data of a line is read at its own run. -/
theorem LineRef.coreBytes_scale {r : LineRef} {x : Run} (h : r.scale = some x) (s : State) (v : View) :
    (r.coreBytes s v).2 = Machine.coreBytes s v x.addr x.n := by
  rw [LineRef.coreBytes, h]

theorem LineRef.coreBytes_lengths (d : Tile) (i : Nat) (s : State) (v : View) :
    ((d.lineRef 8 i).coreBytes s v).1.length = 128 ∧ ((d.lineRef 8 i).coreBytes s v).2.length ≤ 8 := by
  refine ⟨by simp [LineRef.coreBytes, Machine.coreBytes], ?_⟩
  simp only [LineRef.coreBytes, Tile.lineRef]
  split
  · exact Nat.zero_le 8
  · next x hx =>
    rw [Machine.coreBytes, List.length_map, List.length_range]
    split at hx <;> cases hx
    · exact le_refl 8
    · exact (by decide : 4 ≤ 8)

/-- Settles O39: every operation issues by `mxIssue`, so each case is the value of its body (`…Body_core`) and the clauses of
`MovesOn` that any accepted operation meets. -/
theorem matrixOperationsComplete : Obligations.MatrixOperationsComplete := by
  unfold Obligations.MatrixOperationsComplete
  refine ⟨?mzero, ?mldb, ?steps, ?mtopk, ?mepi, ?mspill, ?mfill, ?mstat⟩
  case mzero =>
    intro f s v a hv hc hfree ha
    have hbody : mzeroBody f default v s = (s, .ok (s.setAcc v.t.id f.d.toNat (.zero (decide (f.fa = 3)) (f.xb.getLsbD 0)), v.p)) :=
      mxAcc_some ha s _
    exact mxIssue_movesOn (i := .mzero f) rfl hv hc hfree rfl hbody (memoryWork_setAcc s _ _ _) v.p.accepted_refl
  case mldb =>
    intro f s v hv hc n d runs hfree hn hok hread s1
    have hbody := mldbBody_core (x := slotArgs f v) hn hok hread
    obtain ⟨t, hexec, hmoves⟩ := mxIssue_movesOn (i := .mldb f) rfl hv hc hfree rfl hbody
      ((memoryWork_coreAfter s v f.str runs).trans (memoryWork_setWSlot _ _ _ _)) v.p.accepted_refl
    have hlengths (i : Nat) := LineRef.coreBytes_lengths d i s1 v
    refine ⟨t, _, hexec, hmoves, rfl, rfl, rfl, fun i j hi hj => ?_, fun i j hi hsk hj => ?_, fun i j hi hsk hj => ?_⟩
    · exact (loadedSlot_lines _ (fun i => (hlengths i).1) hi hj).trans (byteAt_coreBytes s1 v _ hj)
    · refine (loadedSlot_scale _ (fun i => (hlengths i).2) hi hj).trans ?_
      have hrun : (d.lineRef 8 i).scale = some { addr := d.base + BitVec.ofNat 64 (d.soff + 8 * i), n := 8, al := 1 } := by
        rw [Tile.lineRef, hsk]
        rfl
      rw [LineRef.coreBytes_scale hrun]
      exact byteAt_coreBytes s1 v _ hj
    · refine (loadedSlot_scale _ (fun i => (hlengths i).2) hi (by omega)).trans ?_
      have hrun : (d.lineRef 8 i).scale = some { addr := d.base + BitVec.ofNat 64 (d.soff + 4 * i), n := 4, al := 4 } := by
        rw [Tile.lineRef, hsk]
        rfl
      rw [LineRef.coreBytes_scale hrun]
      exact byteAt_coreBytes s1 v _ hj
  case steps =>
    intro f s v a w i masked dist x hv hi d quad dep m line runs hfree ha hw hwv hok hscale hquad hty hres hfits hread s1 row
    have hgo {causes : View → List Nat} {word : Dword} {args : View → MxArgs} (hargs : args v = x)
        (hx : x.a = readQuad v f.sa ∧ x.b = readS32 v f.sb)
        (hexec : exec i s = mxIssue f.c word causes (fun _ => false) (fun x => ([f.d.toNat], [x.b.toNat])) args
          (stepBody f masked dist) s) (hc : mxCtlCauses f.c v ++ causes v = []) :
        ∃ t, exec i s = .next t ∧ MovesOn v.p.pend v.p.fmask v (s1.setAcc v.t.id f.d.toNat
          (a.step (stepKind f masked dist x) ((List.range 32).map fun i => (i, row i)) (w.columns s f.fb.toNat))) t := by
      obtain ⟨hxa, hxb⟩ := hx
      have hbody := stepBody_core (f := f) (masked := masked) (dist := dist) (x := x) (s := s) ha (hxb ▸ hw) hwv (hxa ▸ hok)
        (hxa ▸ hscale) (fun hq => by have := hquad hq; rwa [show dep = maskDepth x.c from if_pos hq] at this) hty hres hfits
        (hxa ▸ hread)
      rw [hxa] at hbody
      exact mxIssue_movesOn hexec hv hc (by rw [hargs, hxb]; exact hfree) rfl (by rw [hargs]; exact hbody)
        ((memoryWork_coreAfter s v f.str _).trans (memoryWork_setAcc _ _ _ _)) v.p.accepted_refl
    rcases hi with ⟨rfl, rfl, rfl, rfl, hc⟩ | ⟨rfl, rfl, rfl, rfl, hc⟩ | ⟨rfl, rfl, rfl, rfl, hc⟩
    · exact hgo rfl ⟨rfl, rfl⟩ rfl hc
    · exact hgo rfl ⟨rfl, rfl⟩ rfl hc
    · exact hgo rfl ⟨rfl, rfl⟩ rfl hc
  case mtopk =>
    intro f s v a hv hcount hc hfree ha hty
    have hbody : mtopkBody f { (default : MxArgs) with c := argMask v f.sc } v s = (s, .ok (s, v.p.addPend (v.ordered
        (Pend.vec .ld f.sa (topkCount f) _ (topkLane a (f.xb.getLsbD 3) (colMask (argMask v f.sc))))))) :=
      (mxAcc_some ha s _).trans (mxCheck_pass (decide_eq_true hty) 4 s _)
    obtain ⟨t, hexec, hmoves⟩ := mxIssue_movesOn (i := .mtopk f) rfl hv hc hfree (decide_eq_false (Nat.not_le.mpr hcount)) hbody
      (MemoryWork.refl s) rfl
    exact ⟨t, _, hexec, hmoves, fun l hl => getLsbD_topkLanes _ _ hl⟩
  case mepi =>
    intro f s v hv hc hfree a str runs hal hread s1 e hok
    have hbody : mepiBody f (pairArgs f v) v s = (s1, .ok (s1, { v.p with epi := some e, epib := a })) := by
      have ha : (pairArgs f v).a.extractLsb' 0 64 = a := by
        refine BitVec.eq_of_toNat_eq ?_
        simp [pairArgs, a]
        omega
      rw [mepiBody]
      dsimp only
      rw [ha]
      exact congrArg (mxThen · _) (readEpi_core hal hread hok)
    have hwork := memoryWork_coreAfter s v str runs
    obtain ⟨-, x, hfind⟩ := (hwork.holds (State.holds_of_view hv)).putWave
      (v.w.setSlot v.sl.b ({ v.p with epi := some e, epib := a, replay := false }.afterOther f.c.ch))
    obtain ⟨-, -, -, -, -, -, -, -, hepib, hepi, -⟩ :=
      ({ v.p with epi := some e, epib := a, replay := false } : Slot).afterOther_frame f.c.ch
    rw [Wave.slot_setSlot] at hfind
    have hexec := mxIssue_accepts (show exec (.mepi f) s = execMepi f s from rfl) hv hc hfree rfl hbody
    exact ⟨_, _, hexec,
      movesOn_accepted (p := { v.p with epi := some e, epib := a }) (State.holds_of_view hv) hwork rfl f.c.ch,
      hfind, hepi, hepib⟩
  case mspill =>
    intro f s v a hv hc hfree ha d image hok hbase hready
    obtain ⟨s1, hbody, hwrites⟩ := mspillBody_core (x := quadArgs f v) ha hok hbase hready
    obtain ⟨t, hexec, hmoves⟩ := mxIssue_movesOn (i := .mspill f) rfl hv hc hfree rfl hbody
      hwrites.memoryWork v.p.accepted_refl
    exact ⟨t, s1, hexec, hmoves, hwrites⟩
  case mfill =>
    intro f s v a hv hc hfree ha d runs hok hread s1 row word himage
    have hbody := mfillBody_core (x := quadArgs f v) ha hok hread himage
    obtain ⟨t, hexec, hmoves⟩ := mxIssue_movesOn (i := .mfill f) rfl hv hc hfree rfl hbody
      ((memoryWork_coreAfter s v f.str runs).trans (memoryWork_setAcc _ _ _ _)) v.p.accepted_refl
    exact ⟨t, _, hexec, hmoves, filledAcc_bits _ _, fun i j hi hj => filledAcc_el _ row hi hj⟩
  case mstat =>
    intro f s v hv hcount hc hfree hruns y hy
    have hbody : mstatBody f { (default : MxArgs) with b := if mstatKind f = 2 then readS32 v f.sa else 0 } v s =
        (s, .ok (s, v.p.addPend (v.ordered (Pend.scal .ld f.d 4 (some (BitVec.ofNat 128 y)))))) := by
      rw [mstatBody]
      dsimp only
      rcases hy with ⟨hkind, hacc⟩ | ⟨hkind, hslot⟩ | ⟨hkind, a, hacc, hy⟩
      · obtain ⟨a, ha, rfl⟩ := Option.map_eq_some_iff.mp hacc
        rw [hkind]
        exact mxAcc_some ha s _
      · obtain ⟨w, hw, rfl⟩ := Option.map_eq_some_iff.mp hslot
        rw [hkind]
        exact mxSlot_some hw s _
      · simp only [hkind, mxAcc_some hacc, if_true, hy, Nat.add_comm]
    have hwait : (v.full .ld || mgRuns v (mstatNames f)) = false := by
      rw [View.full, decide_eq_false (Nat.not_le.mpr hcount), hruns, Bool.or_false]
    exact mxIssue_movesOn (show exec (.mstat f) s = execMstat f s from rfl) hv hc hfree hwait hbody (MemoryWork.refl s) rfl

end Sys2Proof.Machine
end

section

/-! PROOFS. What the accesses of the matrix engine leave alone in any space (R271, R275, R276). -/

namespace Sys2Proof.Machine

theorem EngineFrame.memoryWork {s t : State} (h : EngineFrame s t) : MemoryWork s t := by
  refine ⟨fun id => ?_, by rw [h.1]⟩
  have hfind (x : State) : (x.team? id).map Team.waves = ((x.teams.map Team.still).find? fun y => y.id = id).map Team.waves := by
    rw [List.find?_map, Option.map_map]
    rfl
  rw [hfind, hfind, h.2.1]

section
variable {α β : Type} {s : State}

theorem engineFrame_mxThen {r : Mx α} {f : State → α → Mx β} (h : EngineFrame s r.1)
    (hf : ∀ s1 x, EngineFrame s s1 → EngineFrame s (f s1 x).1) : EngineFrame s (mxThen r f).1 := by
  match r, h with
  | (_, .error _), h => exact h
  | (s1, .ok x), h => exact hf s1 x h

theorem engineFrame_mxCheck {s1 : State} (h : EngineFrame s s1) {ok : Bool} {cause : Nat} {r : Mx α} (hr : EngineFrame s r.1) :
    EngineFrame s (mxCheck ok cause s1 r).1 := by
  unfold mxCheck
  split
  · exact hr
  · exact h

end

/-! ### Runs (R183, R260) -/

theorem engineFrame_engTarget (s : State) (v : View) (spc : Nat) (a : Dword) (n : Nat) (k : Access) :
    EngineFrame s (engTarget s v spc a n k).1 := by
  unfold engTarget
  split
  · split
    · exact .refl s
    · exact engineFrame_globTarget s _ _ a n k
  · exact .refl s

theorem engineFrame_runTarget (s : State) (v : View) (spc : Nat) (r : Run) (k : Access) :
    EngineFrame s (runTarget s v spc r k).1 := by
  unfold runTarget
  split
  · exact engineFrame_engTarget s v spc _ _ k
  · split
    · exact .refl s
    · split <;> exact .refl s

theorem engineFrame_engPieces (v : View) (spc : Nat) (k : Access) (l : List Run) (s : State) :
    EngineFrame s (engPieces v spc k l s).1 := by
  induction l generalizing s with
  | nil => exact .refl s
  | cons x l ih =>
    have hx := engineFrame_runTarget s v spc x k
    unfold engPieces
    split
    · exact hx.of_eq ‹_›
    · have h1 := hx.of_eq ‹_›
      split
      · exact h1
      · exact engineFrame_mxThen (h1.trans (ih _)) fun _ _ h => h

theorem engineFrame_flushFor (s : State) (core : Nat) (t : Target) (n : Nat) : EngineFrame s (s.flushFor core t n) := by
  cases t with
  | phys pa mt => exact engineFrame_flushComb s _
  | dec w q => exact engineFrame_flushComb s _
  | _ => exact .refl s

theorem engineFrame_fillFor (s : State) (r : Seat) (t : Target) (n : Nat) : EngineFrame s (s.fillFor r t n) := by
  cases t <;> exact ⟨rfl, rfl, rfl⟩

theorem engineFrame_forceBefore (s : State) (v : View) (str : BitVec 4) (ls : List (Option Nat)) (locs : List Loc) :
    EngineFrame s (s.forceBefore v str ls locs) := engineFrame_perform s 6 _

theorem engineFrame_addWrite (s : State) (seat : Seat) (stream : Option (BitVec 4)) (lane : Option Nat) (deps : List Nat)
    (bytes : List (Loc × Byte)) : EngineFrame s (s.addWrite seat stream lane deps bytes) :=
  (sendFrame_addWrite s seat stream lane deps bytes).engineFrame

/-! ### Reads and writes (R271, R275) -/

theorem engineFrame_engRead (s : State) (v : View) (spc : Nat) (str : BitVec 4) (runs : List Run) :
    EngineFrame s (engRead s v spc str runs).1 := by
  unfold engRead
  extract_lets cuts
  split
  · exact .refl s
  · refine engineFrame_mxThen (engineFrame_engPieces v spc .load cuts s) fun s1 ps h1 => ?_
    extract_lets locs s2 s3
    split
    · have h2 : EngineFrame s1 s2 := .foldl (fun s p => (engineFrame_flushFor s _ p.1 p.2).trans (engineFrame_recall _ _ _)) ps s1
      have h3 : EngineFrame s2 s3 := engineFrame_forceBefore s2 v str _ _
      exact ((h1.trans h2).trans h3).trans (.foldl (fun s p => engineFrame_fillFor s v.seat p.1 p.2) ps s3)
    · exact h1

theorem engineFrame_engWrite (s : State) (v : View) (spc : Nat) (str : BitVec 4) (runs : List Out) :
    EngineFrame s (engWrite s v spc str runs).1 := by
  unfold engWrite
  extract_lets rs
  split
  · exact .refl s
  · split
    · exact .refl s
    · next he =>
      split
      · refine ((engineFrame_engPieces v spc .store rs s).of_eq he).trans (.foldl (fun s x => ?_) _ _)
        exact ((engineFrame_flushFor s _ _ _).trans (engineFrame_recall _ _ _)).trans
          (.foldl (fun s u => engineFrame_addWrite s _ _ _ _ u) _ _)
      · exact .refl s

/-! ### Epilogue blocks, rows stored, plans (R267, R268, R271, R276) -/

theorem engineFrame_readEpi (s : State) (v : View) (str : BitVec 4) (a : Dword) : EngineFrame s (readEpi s v str a).1 :=
  engineFrame_mxCheck (.refl s) (engineFrame_mxThen (engineFrame_engRead s v 1 str _) fun _ _ h => engineFrame_mxCheck h h)

theorem engineFrame_epiVectors (s : State) (v : View) (str : BitVec 4) (e : BitVec 512) (c0 : Nat) (cols : List Nat) :
    EngineFrame s (epiVectors s v str e c0 cols).1 :=
  engineFrame_mxThen (engineFrame_engRead s v _ str _) fun _ _ h => h

theorem engineFrame_storeRows (s : State) (v : View) (str : BitVec 4) (spc : Nat) (e : BitVec 512) (a : Acc) (base : Dword)
    (stride c0 : Nat) (rows cols : List Nat) : EngineFrame s (storeRows s v str spc e a base stride c0 rows cols).1 := by
  unfold storeRows
  split
  · exact .refl s
  · exact engineFrame_mxThen (engineFrame_epiVectors s v str e c0 cols) fun s1 _ h => h.trans (engineFrame_engWrite s1 v spc str _)

theorem engineFrame_mgemmPlan (f : FmtW) (a : Dword) (v : View) (s : State) : EngineFrame s (mgemmPlan f a v s).1 := by
  refine engineFrame_mxCheck (.refl s) (engineFrame_mxThen (engineFrame_engRead s v _ _ _) fun s1 ds h1 => ?_)
  refine engineFrame_mxCheck h1 (engineFrame_mxCheck h1 (engineFrame_mxCheck h1 ?_))
  dsimp only
  split
  · exact engineFrame_mxCheck h1 h1
  · exact engineFrame_mxThen (h1.trans (engineFrame_readEpi s1 v _ _)) fun _ _ h => engineFrame_mxCheck h h

end Sys2Proof.Machine
end

section

/-! PROOFS. MSTORE: the epilogue block it uses, the vectors it reads, and the rows it stores (R267, R268, R271). -/

namespace Sys2Proof.Machine

/-! ### The block (R268) -/

/-- The block MSTORE uses is read and bound where it has to be; nothing else of the slot changes. -/
theorem EpiBound.spec {s s1 : State} {v : View} {tyI : Bool} {e : BitVec 512} (h : EpiBound s v tyI s1 e) :
    (∃ p, boundEpi s v tyI = (s1, .ok (e, p)) ∧ v.p.Accepted p ∧ p.pend = v.p.pend) ∧ EngineFrame s s1 := by
  rcases h with ⟨hepi, rfl⟩ | ⟨hepi, hb, rfl, rfl⟩ | ⟨hepi, hb, hal, hread, rfl, he, hok⟩
  · exact ⟨⟨v.p, by rw [boundEpi, hepi], rfl, rfl⟩, .refl s1⟩
  · exact ⟨⟨v.p, by rw [boundEpi, hepi]; exact if_pos hb, rfl, rfl⟩, .refl s1⟩
  · refine ⟨⟨{ v.p with epi := some e }, ?_, rfl, rfl⟩, engineFrame_coreAfter s v 0 _⟩
    subst he
    rw [boundEpi, hepi]
    exact (if_neg hb).trans (by rw [readEpi_core hal hread hok]; rfl)

/-! ### Runs in any order (R260) -/

theorem coreLocs_congr {s : State} {v : View} {rs rs' : List Run} (h : ∀ r, r ∈ rs ↔ r ∈ rs') (l : Loc) :
    l ∈ coreLocs s v rs ↔ l ∈ coreLocs s v rs' := by
  simp only [coreLocs, List.mem_flatMap, h]

theorem coreAfter_congr {s : State} {v : View} {str : BitVec 4} {rs rs' : List Run} (h : ∀ r, r ∈ rs ↔ r ∈ rs') :
    coreAfter s v str rs = coreAfter s v str rs' := by
  unfold coreAfter State.forceBefore
  rw [sameAddress_congr (coreLocs_congr h)]

theorem CoreReadable.congr {s : State} {v : View} {str : BitVec 4} {rs rs' : List Run} (h : ∀ r, r ∈ rs ↔ r ∈ rs')
    (hread : CoreReadable s v str rs) : CoreReadable s v str rs' := by
  obtain ⟨hready, hbefore⟩ := hread
  refine ⟨fun r hr => hready r ((h r).mpr hr), ?_⟩
  unfold beforeNeeds at hbefore ⊢
  rwa [← sameAddress_congr (coreLocs_congr h)]

theorem insertRun_perm (x : Nat × Run) (l : List (Nat × Run)) : (insertRun x l).Perm (x :: l) := by
  induction l with
  | nil => exact .refl _
  | cons y r ih =>
    rw [insertRun]
    split
    · exact .refl _
    · exact (ih.cons y).trans (.swap x y r)

/-- Runs in address order are the numbered runs. -/
theorem byAddress_perm (l : List Run) : (byAddress l).Perm (l.zipIdx.map fun x => (x.2, x.1)) := by
  have key (ys acc : List (Nat × Run)) : (ys.foldl (fun r x => insertRun x r) acc).Perm (ys ++ acc) := by
    induction ys generalizing acc with
    | nil => exact .refl _
    | cons y ys ih =>
      exact (ih _).trans (((insertRun_perm y acc).append_left ys).trans List.perm_middle)
  have hperm := key (l.zipIdx.map fun x => (x.2, x.1)) []
  rwa [List.append_nil] at hperm

theorem mem_byAddress {l : List Run} {x : Nat × Run} : x ∈ byAddress l ↔ l[x.1]? = some x.2 := by
  obtain ⟨i, r⟩ := x
  rw [(byAddress_perm l).mem_iff]
  simp [List.mem_zipIdx_iff_getElem?]

theorem mem_byAddress_run (l : List Run) (r : Run) : r ∈ (byAddress l).map Prod.snd ↔ r ∈ l := by
  simp only [List.mem_map, Prod.exists, mem_byAddress, exists_eq_right]
  exact List.mem_iff_getElem?.symm

/-- What was read for a run is found by its number. -/
theorem runData_byAddress (l : List Run) (g : Run → List Byte) (i : Nat) :
    runData (byAddress l) (((byAddress l).map Prod.snd).map g) i = ((l[i]?).map fun r => ofBytes (g r)).getD 0 := by
  have hzip : (byAddress l).zip (((byAddress l).map Prod.snd).map g) = (byAddress l).map fun x => (x, g x.2) := by
    have hmap := List.zip_map' (f := id) (g := fun x : Nat × Run => g x.2) (l := byAddress l)
    rwa [List.map_id, ← Function.comp_def g Prod.snd, ← List.map_map] at hmap
  rw [runData, hzip, List.find?_map]
  cases hf : (byAddress l).find? ((fun x : (Nat × Run) × List Byte => decide (x.1.1 = i)) ∘ fun x => (x, g x.2)) with
  | none =>
    have hnone : l[i]? = none := by
      cases hi : l[i]? with
      | none => rfl
      | some r => exact absurd (List.find?_eq_none.mp hf (i, r) (mem_byAddress.mpr hi)) (by simp)
    rw [hnone]
    rfl
  | some x =>
    have hx : x.1 = i := by simpa using List.find?_some hf
    have hi := mem_byAddress.mp (List.mem_of_find?_eq_some hf)
    rw [← hx, hi]
    rfl

/-! ### The vectors of bias and scales (R267) -/

/-- An output or bias element has 1, 2 or 4 bytes. -/
theorem epiSize_cases (ty : Nat) : epiSize ty = 1 ∨ epiSize ty = 2 ∨ epiSize ty = 4 := by
  unfold epiSize epiTy
  split <;> simp

theorem epiSize_dvd (ty : Nat) : epiSize ty ∣ 128 := by
  rcases epiSize_cases ty with h | h | h <;> rw [h] <;> decide

theorem vecRuns_even {n : Nat} (hn : n ∣ 128) (used : Bool) (a c0 : Nat) (cols : List Nat) :
    ∀ r ∈ vecRuns used a n c0 cols, r.Even := by
  cases used with
  | false => exact fun r hr => nomatch hr
  | true => exact List.forall_mem_map.mpr fun _ _ => hn

/-- No run is read in any space at once. -/
theorem engRead_nil {s : State} {v : View} {str : BitVec 4} (spc : Nat) (h : CoreReadable s v str []) :
    engRead s v spc str [] = (coreAfter s v str [], .ok []) := by
  obtain ⟨-, hbefore⟩ := h
  have hwalk : engWalks s v spc .load [] = [] := by
    unfold engWalks
    split <;> rfl
  have hneeds : beforeNeeds s v str [none] [] = [] := hbefore
  unfold engRead
  simp only [List.flatMap_nil, hwalk, ne_eq, not_true_eq_false, if_false, engPieces, mxThen, hneeds, List.append_nil]
  rfl

/-- The runs of the bias of some columns. -/
def biasRuns (e : BitVec 512) (c0 : Nat) (cols : List Nat) : List Run :=
  vecRuns (decide (epiBias e ≠ 0)) (epiBias e) (epiSize (epiBty e)) c0 cols

/-- The runs of the scales of some columns. -/
def scaleRuns (e : BitVec 512) (c0 : Nat) (cols : List Nat) : List Run :=
  vecRuns (decide (epiSmd e = 2)) (epiScla e) 4 c0 cols

/-- The number read at run `j` of some, 0 where there is none. -/
def numAt (s : State) (v : View) (l : List Run) (j : Nat) : Nat := ((l[j]?).map fun r => coreNum s v r.addr r.n).getD 0

theorem numAt_append_left {s : State} {v : View} (l l' : List Run) {j : Nat} (h : j < l.length) :
    numAt s v (l ++ l') j = numAt s v l j := by
  rw [numAt, List.getElem?_append_left h, numAt]

theorem numAt_append_right {s : State} {v : View} (l l' : List Run) (j : Nat) : numAt s v (l ++ l') (l.length + j) = numAt s v l' j := by
  rw [numAt, List.getElem?_append_right (Nat.le_add_right _ _), Nat.add_sub_cancel_left, numAt]

/-- Bias and scale of each column, as they are read: its number, then the two. -/
def epiNums (s : State) (v : View) (e : BitVec 512) (c0 : Nat) (cols : List Nat) : List (Nat × Nat × Nat) :=
  cols.zipIdx.map fun c => (c.1, numAt s v (biasRuns e c0 cols) c.2, numAt s v (scaleRuns e c0 cols) c.2)

theorem epiVectors_core {s : State} {v : View} {str : BitVec 4} {e : BitVec 512} {c0 : Nat} {cols : List Nat}
    (hspc : biasRuns e c0 cols ++ scaleRuns e c0 cols = [] ∨ epiField e 0x10 16 3 = 1)
    (hread : CoreReadable s v str (biasRuns e c0 cols ++ scaleRuns e c0 cols)) :
    let s1 := coreAfter s v str (biasRuns e c0 cols ++ scaleRuns e c0 cols)
    epiVectors s v str e c0 cols = (s1, .ok (epiNums s1 v e c0 cols)) := by
  intro s1
  have hmem := mem_byAddress_run (biasRuns e c0 cols ++ scaleRuns e c0 cols)
  have hafter : coreAfter s v str ((byAddress (biasRuns e c0 cols ++ scaleRuns e c0 cols)).map Prod.snd) = s1 := coreAfter_congr hmem
  have hread' := hread.congr fun r => (hmem r).symm
  have hdata : engRead s v (epiField e 0x10 16 3) str ((byAddress (biasRuns e c0 cols ++ scaleRuns e c0 cols)).map Prod.snd) =
      (s1, .ok (((byAddress (biasRuns e c0 cols ++ scaleRuns e c0 cols)).map Prod.snd).map fun r => coreBytes s1 v r.addr r.n)) := by
    rw [← hafter]
    rcases hspc with hnil | hspc
    · rw [hnil] at hread' ⊢
      exact engRead_nil _ hread'
    · rw [hspc]
      refine engRead_core hread' fun r hr => ?_
      exact (List.mem_append.mp ((hmem r).mp hr)).elim (vecRuns_even (epiSize_dvd _) _ _ _ _ r)
        (vecRuns_even (by decide) _ _ _ _ r)
  have hnum (i : Nat) : runData (byAddress (biasRuns e c0 cols ++ scaleRuns e c0 cols))
      (((byAddress (biasRuns e c0 cols ++ scaleRuns e c0 cols)).map Prod.snd).map fun r => coreBytes s1 v r.addr r.n) i =
      numAt s1 v (biasRuns e c0 cols ++ scaleRuns e c0 cols) i := runData_byAddress _ _ i
  have hbias {j : Nat} (hj : j < cols.length) : (if decide (epiBias e ≠ 0) = true then
      numAt s1 v (biasRuns e c0 cols ++ scaleRuns e c0 cols) j else 0) = numAt s1 v (biasRuns e c0 cols) j := by
    cases hb : decide (epiBias e ≠ 0) with
    | false => simp [biasRuns, hb, vecRuns, numAt]
    | true =>
      have hlen : (biasRuns e c0 cols).length = cols.length := by simp [biasRuns, hb, vecRuns]
      rw [if_pos rfl, numAt_append_left _ _ (hlen ▸ hj)]
  have hscale (j : Nat) : (if decide (epiSmd e = 2) = true then
      numAt s1 v (biasRuns e c0 cols ++ scaleRuns e c0 cols) ((biasRuns e c0 cols).length + j) else 0) =
      numAt s1 v (scaleRuns e c0 cols) j := by
    cases hb : decide (epiSmd e = 2) with
    | false => simp [scaleRuns, hb, vecRuns, numAt]
    | true => rw [if_pos rfl, numAt_append_right]
  have hunfold : epiVectors s v str e c0 cols =
      mxThen (engRead s v (epiField e 0x10 16 3) str ((byAddress (biasRuns e c0 cols ++ scaleRuns e c0 cols)).map Prod.snd))
        fun s1 ds => (s1, .ok (cols.zipIdx.map fun c =>
          (c.1, if decide (epiBias e ≠ 0) then runData (byAddress (biasRuns e c0 cols ++ scaleRuns e c0 cols)) ds c.2 else 0,
            if decide (epiSmd e = 2) then
              runData (byAddress (biasRuns e c0 cols ++ scaleRuns e c0 cols)) ds ((biasRuns e c0 cols).length + c.2) else 0))) := rfl
  rw [hunfold, hdata, mxThen]
  simp only [hnum]
  refine congrArg (fun l => (s1, Except.ok l)) (List.map_congr_left fun c hc => ?_)
  have hc2 : c.2 < cols.length := (List.getElem?_eq_some_iff.mp (List.mk_mem_zipIdx_iff_getElem?.mp hc)).1
  rw [hbias hc2, hscale]

end Sys2Proof.Machine
end

section

/-! PROOFS. MSTORE: the rows it stores, and the operation as it issues (R260, R271). -/

namespace Sys2Proof.Machine

/-- The rows stored, one run for each element (R271). -/
def storedRuns (e : BitVec 512) (a : Acc) (base : Dword) (stride : Nat) (rows : List Nat) (vs : List (Nat × Nat × Nat)) :
    List Out :=
  rows.flatMap fun i => vs.map fun c =>
    { addr := base + BitVec.ofNat 64 (i * stride + c.1 * epiSize (epiOty e)), al := epiSize (epiOty e)
      data := bytesOf (epiElem e a.tyI (a.value i c.1) c.2.1 c.2.2) (epiSize (epiOty e)) }

section
variable {s : State} {v : View} {str : BitVec 4} {spc : Nat} {e : BitVec 512} {a : Acc} {base : Dword} {stride c0 : Nat}
  {rows cols : List Nat}

theorem storeRows_nil (h : rows = [] ∨ cols = []) : storeRows s v str spc e a base stride c0 rows cols = (s, .ok ()) := by
  rw [storeRows, if_pos (by rcases h with rfl | rfl <;> simp)]

theorem storeRows_of_vectors {s1 : State} {vs : List (Nat × Nat × Nat)} (hrows : rows ≠ []) (hcols : cols ≠ [])
    (hvs : epiVectors s v str e c0 cols = (s1, .ok vs)) :
    storeRows s v str spc e a base stride c0 rows cols = engWrite s1 v spc str (storedRuns e a base stride rows vs) := by
  rw [storeRows, if_neg (by simp [hrows, hcols]), hvs]
  rfl

end

/-- An element's address is a multiple of its size. -/
theorem element_aligned {n stride : Nat} {base : Dword} (hn : n = 1 ∨ n = 2 ∨ n = 4) (hbase : base.toNat % n = 0)
    (hstride : stride % n = 0) (i j : Nat) : (base + BitVec.ofNat 64 (i * stride + j * n)).toNat % n = 0 := by
  have hoff : (i * stride + j * n) % n = 0 :=
    Nat.mod_eq_zero_of_dvd (((Nat.dvd_of_mod_eq_zero hstride).mul_left i).add (Dvd.intro_left j rfl))
  rw [BitVec.toNat_add, BitVec.toNat_ofNat]
  generalize i * stride + j * n = k at hoff
  rcases hn with rfl | rfl | rfl <;> omega

/-- An aligned element does not reach past its block. -/
theorem inBlock_of_aligned {n x : Nat} (hn : n = 1 ∨ n = 2 ∨ n = 4) (h : x % n = 0) : x % 128 + n ≤ 128 := by
  rcases hn with rfl | rfl | rfl <;> omega

theorem storedRuns_pieces {s : State} {v : View} {e : BitVec 512} {a : Acc} {base : Dword} {stride : Nat} {rows : List Nat}
    {vs : List (Nat × Nat × Nat)} (hbase : base.toNat % epiSize (epiOty e) = 0) (hstride : stride % epiSize (epiOty e) = 0)
    (hready : ∀ x ∈ outBytes (storedRuns e a base stride rows vs), CoreByteReady s v .store x.1) :
    ∀ o ∈ storedRuns e a base stride rows vs, o.run.Piece s v .store := by
  intro o ho
  have hplaced := fun x hx => hready x (placed_subset_outBytes ho hx)
  obtain ⟨i, -, hi⟩ := List.mem_flatMap.mp ho
  obtain ⟨c, -, rfl⟩ := List.mem_map.mp hi
  have hsize := epiSize_cases (epiOty e)
  have hal := element_aligned hsize hbase hstride i c.1
  exact Out.piece_of_placed (by rw [bytesOf_length]; omega) (by rw [bytesOf_length]; exact inBlock_of_aligned hsize hal) hal hplaced

/-- Rows stored in `.core`: the bytes of each element, row by row. -/
theorem storeRows_core {s : State} {v : View} {str : BitVec 4} {e : BitVec 512} {a : Acc} {base : Dword}
    {stride c0 : Nat} {rows cols : List Nat} (hrows : rows ≠ []) (hcols : cols ≠ [])
    (hspc : biasRuns e c0 cols ++ scaleRuns e c0 cols = [] ∨ epiField e 0x10 16 3 = 1)
    (hread : CoreReadable s v str (biasRuns e c0 cols ++ scaleRuns e c0 cols))
    (hbase : base.toNat % epiSize (epiOty e) = 0) (hstride : stride % epiSize (epiOty e) = 0) :
    let s1 := coreAfter s v str (biasRuns e c0 cols ++ scaleRuns e c0 cols)
    let out := rows.flatMap fun i => cols.zipIdx.flatMap fun c =>
      placed (base + BitVec.ofNat 64 (i * stride + c.1 * epiSize (epiOty e)))
        (bytesOf (epiElem e a.tyI (a.value i c.1) (numAt s1 v (biasRuns e c0 cols) c.2) (numAt s1 v (scaleRuns e c0 cols) c.2))
          (epiSize (epiOty e)))
    (∀ x ∈ out, CoreByteReady s1 v .store x.1) →
    ∃ t, storeRows s v str 1 e a base stride c0 rows cols = (t, .ok ()) ∧ CoreWrites v str out s1 t := by
  intro s1 out hready
  have hout : outBytes (storedRuns e a base stride rows (epiNums s1 v e c0 cols)) = out := by
    simp only [outBytes, storedRuns, epiNums, List.flatMap_assoc, List.flatMap_map, out]
  obtain ⟨t, hwrite, hbytes⟩ := engWrite_core str (storedRuns_pieces hbase hstride (hout ▸ hready))
  exact ⟨t, (storeRows_of_vectors hrows hcols (epiVectors_core hspc hread)).trans hwrite, hout ▸ hbytes⟩

/-- A descriptor MSTORE takes for elements of `n` bytes (R271). -/
structure Tile.StoreOk (d : Tile) (n : Nat) : Prop where
  rsv : d.rsv = false
  sk : d.sk = 0
  soff : d.soff = 0
  base : d.base.toNat % n = 0
  stride : d.stride % n = 0

/-- The rows an MSTORE under a block and a mask stores. -/
def mstoreRows (e : BitVec 512) (m : BitVec 128) : List Nat := maskBits (BitVec.ofNat 32 (epiField e 0x20 0 32) &&& rowMask m)

/-- The columns an MSTORE under a block and a mask stores. -/
def mstoreCols (e : BitVec 512) (m : BitVec 128) : List Nat := maskBits (BitVec.ofNat 32 (epiField e 0x24 0 32) &&& colMask m)

/-- MSTORE's effect where its descriptor and block are right and the rows it names are stored. -/
theorem mstoreBody_rows {f : FmtX} {x : MxArgs} {s s1 s2 : State} {v : View} {a : Acc} {e : BitVec 512} {p : Slot}
    (ha : v.t.accs[f.d.toNat]? = some a) (hepi : boundEpi s v a.tyI = (s1, .ok (e, p)))
    (hok : (tileOf x.a).StoreOk (epiSize (epiOty e)))
    (hstore : storeRows s1 v f.str (outSpace (f.xb.toNat % 4)) e a (tileOf x.a).base (tileOf x.a).stride 0
      (mstoreRows e x.c) (mstoreCols e x.c) = (s2, .ok ())) :
    mstoreBody f x v s = (s2, .ok (s2, p)) := by
  obtain ⟨hrsv, hsk, hsoff, hbase, hstride⟩ := hok
  unfold mstoreRows mstoreCols at hstore
  rw [mstoreBody, mxAcc_some ha]
  dsimp only
  rw [mxCheck_pass (by simp [hrsv, hsk, hsoff]), hepi, mxThen]
  dsimp only
  rw [mxCheck_pass (by simp [hbase, hstride]), hstore]
  rfl

/-! ### The operation as it issues -/

/-- Output code 0 is `.core`. -/
theorem outSpace_core {xb : BitVec 4} (h : xb.extractLsb' 0 2 = 0) : outSpace (xb.toNat % 4) = 1 := by
  have hcode : xb.toNat % 4 = 0 := by simpa using congrArg BitVec.toNat h
  rw [hcode]
  rfl

/-- An MSTORE of whom nothing is wrong, whose rows are stored, goes on from what storing them left. -/
theorem mstore_movesOn {f : FmtX} {s s1 s2 : State} {v : View} {a : Acc} {e : BitVec 512} (hv : s.view = some v)
    (hc : mxCtlCauses f.c v ++ (accCauses f.d ++ srcCauses v false (.plain 4) f.sa ++ zeroCauses f.sb ++ maskCauses v true f.sc ++
      usedCauses f.fa ++ usedCauses f.fb ++ usedCauses (f.xb.extractLsb' 2 2) ++
      (if f.xb.extractLsb' 0 2 = 3 then [0x04] else [])) = [])
    (hfree : MatrixFree v f.c ([f.d.toNat], [])) (ha : v.t.accs[f.d.toNat]? = some a) (hepi : EpiBound s v a.tyI s1 e) :
    let d := tileOf (readQuad v f.sa)
    let m := argMask v f.sc
    d.StoreOk (epiSize (epiOty e)) →
    storeRows s1 v f.str (outSpace (f.xb.toNat % 4)) e a d.base d.stride 0 (mstoreRows e m) (mstoreCols e m) = (s2, .ok ()) →
    MemoryWork s1 s2 → ∃ t, exec (.mstore f) s = .next t ∧ MovesOn v.p.pend v.p.fmask v s2 t := by
  intro d m hok hstore hwork
  obtain ⟨⟨p, hbound, haccepted, hpend⟩, hframe⟩ := hepi.spec
  have hbody := mstoreBody_rows (x := { a := readQuad v f.sa, b := 0, c := m }) ha hbound hok hstore
  rw [← hpend]
  exact mxIssue_movesOn (i := .mstore f) rfl hv hc hfree rfl hbody (hframe.memoryWork.trans hwork) haccepted

end Sys2Proof.Machine
end

section

/-! PROOFS. MGEMM as it issues, the plan it makes of its descriptor, and the steps of its sequencer (R276 to R280). -/

namespace Sys2Proof.Machine

/-! ### The descriptor (R277) -/

/-- The run a descriptor and an epilogue block give, at the place `%mxst` holds. -/
def plannedRun (f : FmtW) (v : View) (d : BitVec 1024) (e : Option (BitVec 512)) : MgRun :=
  let p := mgStart v.p.mxst
  { desc := d, epi := e, m := p.1, n := p.2.1, k := p.2.2.1, row := p.2.2.2.1, store := p.2.2.2.2
    str := (f.m.extractLsb' 12 4).toNat, started := v.p.mxst.getLsbD 63 }

/-- The checks of a descriptor before its epilogue block. -/
structure DescriptorOk (v : View) (d : BitVec 1024) : Prop where
  acc : mgAcc d < v.t.accs.length
  slots : mgSlot0 d + mgNt d * mgKs d ≤ v.t.wslots.length
  ok : mgOk d = true
  m : (mgStart v.p.mxst).1 < mgMt d
  n : (mgStart v.p.mxst).2.1 < mgNt d
  k : (mgStart v.p.mxst).2.2.1 < mgKs d

/-- A descriptor in `.core` that passes leaves its epilogue block to be read. -/
theorem mgemmPlan_core {f : FmtW} {a : Dword} {v : View} {s : State} (hspc : f.m.getLsbD 11 = false) (hal : a.toNat % 128 = 0)
    (hread : CoreReadable s v (f.m.extractLsb' 12 4) [{ addr := a, n := 128, al := 1 }]) :
    let str := f.m.extractLsb' 12 4
    let s1 := coreAfter s v str [{ addr := a, n := 128, al := 1 }]
    let d := BitVec.ofNat 1024 (coreNum s1 v a 128)
    let b : Dword := d.extractLsb' 0x100 64
    DescriptorOk v d → mgemmPlan f a v s =
      if b = 0 then mxCheck (mgOutOk d 4) 5 s1 (s1, .ok (plannedRun f v d none))
      else mxThen (readEpi s1 v str b) fun s2 e =>
        mxCheck (mgOutOk d (epiSize (epiOty e))) 5 s2 (s2, .ok (plannedRun f v d (some e))) := by
  intro str s1 d b hd
  have hdesc := engRead_core hread (List.forall_mem_singleton.mpr (one_dvd 128))
  obtain ⟨hacc, hslots, hok, hm, hn, hk⟩ := hd
  have hplace : (mgOk d && decide ((mgStart v.p.mxst).1 < mgMt d) && decide ((mgStart v.p.mxst).2.1 < mgNt d) &&
      decide ((mgStart v.p.mxst).2.2.1 < mgKs d)) = true := by
    rw [hok, decide_eq_true hm, decide_eq_true hn, decide_eq_true hk]
    rfl
  rw [mgemmPlan]
  dsimp only
  rw [mxCheck_pass (decide_eq_true hal), if_neg (by rw [hspc]; decide), hdesc, mxThen, List.map_singleton, List.flatten_singleton]
  dsimp only
  exact (mxCheck_pass (decide_eq_true hacc) _ _ _).trans ((mxCheck_pass (decide_eq_true hslots) _ _ _).trans (mxCheck_pass hplace _ _ _))

theorem execMgemm_plan {f : FmtW} {s s1 : State} {v : View} {r : MgRun} (hv : s.view = some v) (hc : mgemmCauses f v = [])
    (hactive : v.active f.c ≠ 0) (hplan : mgemmPlan f (readS64 v f.sa) v s = (s1, .ok r)) :
    exec (.mgemm f) s = .next (s1.putSlot v { v.p with replay := false, status := .mgemm, mg := some r }) := by
  refine (show exec (.mgemm f) s = execMgemm f s from rfl).trans ((issue_run hv hc rfl).trans (congrArg _ ?_))
  rw [if_neg fun h => hactive h.1, hplan]

/-- Without an active lane an MGEMM only goes on. -/
theorem execMgemm_inactive {f : FmtW} {s : State} {v : View} (hv : s.view = some v) (hc : mgemmCauses f v = [])
    (hactive : v.active f.c = 0) (hreplay : v.p.replay = false) :
    exec (.mgemm f) s = .next (s.putSlot v (v.p.afterOther false)) := by
  refine (show exec (.mgemm f) s = execMgemm f s from rfl).trans ((issue_run hv hc rfl).trans (congrArg _ ?_))
  exact if_pos ⟨hactive, by rw [hreplay]; rfl⟩

/-! ### The sequencer (R278) -/

/-- The state once a new tile's accumulator is clear. -/
def State.clearTile (s : State) (t : Nat) (r : MgRun) : State :=
  if r.started then s else s.setAcc t (mgAcc r.desc) (.zero (mxInt (mgFa r.desc)) (decide (mgField r.desc 0x38 13 1 = 1)))

theorem State.team?_setAcc (s : State) (t n : Nat) (a : Acc) :
    (s.setAcc t n a).team? t = (s.team? t).map fun t => { t with accs := t.accs.set n a } :=
  State.team?_modTeam_self s t fun _ => rfl

/-- Clearing a tile leaves the slot and what asks it to stop as they are. -/
theorem State.find_clearTile {s : State} {v v0 : View} {r : MgRun} (hv : s.find v.sl = some v)
    (h : (s.clearTile v.t.id r).find v.sl = some v0) : v0.p = v.p ∧ v0.t.preempt = v.t.preempt := by
  unfold State.clearTile at h
  split at h
  · obtain rfl := Option.some.inj (hv.symm.trans h)
    exact ⟨rfl, rfl⟩
  · obtain ⟨-, ht, hw, hp⟩ := State.find_spec hv
    obtain ⟨-, ht0, hw0, hp0⟩ := State.find_spec h
    rw [← State.team?_id ht, State.team?_setAcc, State.team?_id ht, ht] at ht0
    have hteam := Option.some.inj ht0
    rw [← hteam] at hw0 ⊢
    have hwave := Option.some.inj (hw.symm.trans hw0)
    exact ⟨by rw [hp0, ← hwave, ← hp], rfl⟩

/-- What a slot in an MGEMM does when nothing it works on is held by another. -/
theorem exec_sequencerStep {s : State} {v : View} {r : MgRun} (hv : s.find v.sl = some v) (hstatus : v.p.status = .mgemm)
    (hmg : v.p.mg = some r) (hbusy : r.m < mgMt r.desc → r.store = true ∨ r.row = 0 → mxBusy v true r.names = false) :
    exec (.mgemmSequencerStep v.sl) s = .next (mgAdvance v r s) := by
  have hfree : ¬((r.store || decide (r.row = 0)) && decide (r.m < mgMt r.desc) && mxBusy v true r.names) = true := by
    simp only [Bool.and_eq_true, Bool.or_eq_true, decide_eq_true_eq]
    rintro ⟨⟨hat, hm⟩, hbusy'⟩
    rw [hbusy hm hat] at hbusy'
    exact absurd hbusy' (by decide)
  refine (show exec (.mgemmSequencerStep v.sl) s = execMgemmSequencerStep v.sl s from rfl).trans ?_
  rw [execMgemmSequencerStep, hv]
  dsimp only
  rw [hstatus, hmg]
  exact if_neg hfree

/-- A row of a run that nobody asks to stop. -/
theorem mgAdvance_row {s s1 s2 : State} {v v0 : View} {r : MgRun} (hv : s.find v.sl = some v) (hm : r.m < mgMt r.desc)
    (hlive : v.p.live = true) (hpreempt : v.t.preempt = none) (hv0 : (s.clearTile v.t.id r).find v.sl = some v0)
    (hrow : (if r.store then mgStoreRow v0 { r with started := true } (s.clearTile v.t.id r)
      else mgStepRow v0 { r with started := true } (s.clearTile v.t.id r)) = (s1, .ok s2)) :
    mgAdvance v r s = s2.putSlot v0 { v.p with mg := some { r with started := true }.next, waitTeam := none } := by
  obtain ⟨hp, hpre⟩ := State.find_clearTile hv hv0
  have hview : { v0 with p := { v0.p with stopAtBoundary := v0.p.stopAtBoundary || (v0.inExp && v0.t.preempt.isSome) } } = v0 := by
    rw [hpre, hpreempt]
    simp
  rw [mgAdvance, if_neg (Nat.not_le.mpr hm), hlive, hpreempt]
  have hclear : (if r.started = true then s else s.setAcc v.t.id (mgAcc r.desc)
      (.zero (mxInt (mgFa r.desc)) (decide (mgField r.desc 0x38 13 1 = 1)))) = s.clearTile v.t.id r := rfl
  dsimp only
  rw [hclear, hv0]
  simp only [Bool.not_true, Bool.and_false, Bool.false_and, Option.isSome_none, Bool.false_eq_true, if_false]
  rw [hview, mgRow, hrow, hp]

/-- At a pre-emption point a run that is asked to stops, its place in `%mxst`. -/
theorem mgAdvance_stop {s : State} {v : View} {r : MgRun} (hm : r.m < mgMt r.desc) (hstarted : r.started = true)
    (hstore : r.store = false) (hrow : r.row = 0) (hlive : v.p.live = true) (hpreempt : v.t.preempt.isSome = true)
    (hexp : v.p.exp = none) :
    mgAdvance v r s = s.putSlot v { v.p with status := .stopped, mg := none, mxst := r.mxst 0 } := by
  have hr : { r with started := true } = r := by rw [← hstarted]
  have hpoint : r.atPoint = true := by rw [MgRun.atPoint, hstore, hrow, decide_eq_true hm]; rfl
  have hinexp : v.inExp = false := by rw [View.inExp, hexp]; rfl
  rw [mgAdvance, if_neg (Nat.not_le.mpr hm)]
  dsimp only
  rw [hr, hpoint, hlive, hpreempt, hinexp, hstarted]
  rfl

theorem MgRun.next_spec (r : MgRun) (h : r.row < 32) :
    r.next.row = (r.row + 1) % 32 ∧ (r.row < 31 → r.next = { r with row := r.row + 1 }) ∧
    (r.row = 31 → r.store = false → r.next.store = decide (mgKs r.desc ≤ r.k + 1) ∧ r.next.m = r.m ∧ r.next.n = r.n) ∧
    (r.row = 31 → r.store = true → r.next.store = false ∧ r.next.k = 0 ∧ r.next.started = false ∧
      (r.n + 1 < mgNt r.desc → r.next.n = r.n + 1 ∧ r.next.m = r.m) ∧
      (mgNt r.desc ≤ r.n + 1 → r.next.n = 0 ∧ r.next.m = r.m + 1)) := by
  obtain hr | hr : r.row < 31 ∨ r.row = 31 := by omega
  · have hnext : r.next = { r with row := r.row + 1 } := if_pos hr
    refine ⟨by rw [hnext, Nat.mod_eq_of_lt (by omega)], fun _ => hnext, fun h => by omega, fun h => by omega⟩
  · refine ⟨?_, fun h => by omega, fun _ hs => ?_, fun _ hs => ?_⟩
    · rw [hr, MgRun.next, if_neg (by omega)]
      split
      · dsimp only
        split <;> rfl
      · split <;> rfl
    · by_cases hk : r.k + 1 < mgKs r.desc
      · simp [MgRun.next, hr, hs, hk, Nat.not_le.mpr hk]
      · simp [MgRun.next, hr, hs, hk, Nat.not_lt.mp hk]
    · by_cases hn : r.n + 1 < mgNt r.desc
      · simp [MgRun.next, hr, hs, hn, Nat.not_le.mpr hn]
      · simp [MgRun.next, hr, hs, hn]

/-- What a step row reads and applies, in `.core` (R278). -/
theorem mgStepRow_core {s : State} {v : View} {r : MgRun} {a : Acc} {w : WSlot} (ha : v.t.accs[mgAcc r.desc]? = some a)
    (hw : v.t.wslots[mgSlot0 r.desc + r.n * mgKs r.desc + r.k]? = some w) (hv : w.v = true) (hty : a.tyI = mxInt (mgFa r.desc))
    (hres : a.tyI = true ∨ a.res = false) (hfits : w.fits s (mgFb r.desc) = true) (hspc : mgField r.desc 0x38 20 2 = 0)
    (hread : CoreReadable s v (BitVec.ofNat 4 r.str) r.lineRef.runs) :
    let fa := mgFa r.desc
    let s1 := coreAfter s v (BitVec.ofNat 4 r.str) r.lineRef.runs
    let bytes := r.lineRef.coreBytes s1 v
    mgStepRow v r s = (s1, .ok (s1.setAcc v.t.id (mgAcc r.desc) (a.step
      { keep := a.res && decide (r.row < 31), dist := false, rm := rowMask fullMask, cm := colMask fullMask, dep := mxDepth fa }
      [(r.row, opLine fa (mgAsk r.desc) bytes.2 bytes.1)] (w.columns s (mgFb r.desc))))) := by
  intro fa s1 bytes
  have hlines := engLines_core (rs := [r.lineRef]) (by rwa [List.flatMap_singleton])
    (List.forall_mem_singleton.mpr r.lineRef_even)
  rw [List.flatMap_singleton] at hlines
  have htype : (decide (a.tyI = mxInt (mgFa r.desc)) && (a.tyI || !a.res)) = true := by
    rw [decide_eq_true hty, Bool.true_and]
    rcases hres with h | h <;> simp [h]
  rw [mgStepRow]
  dsimp only
  rw [mxAcc_some ha, mxSlot_some hw, mxCheck_pass hv, mxCheck_pass htype, mxCheck_pass hfits, if_neg (by rw [hspc]; decide), hlines,
    mxThen, (engineFrame_coreAfter s v _ _).columns]
  rfl

/-! ### The end of a run (R280) -/

theorem mgAdvance_end {s : State} {v : View} {r : MgRun} (hm : mgMt r.desc ≤ r.m) (hlive : v.p.live = true) :
    mgAdvance v r s = mgComplete v r s := by
  rw [mgAdvance, if_pos hm, if_pos hlive]

theorem mgComplete_add {s s1 : State} {v : View} {r : MgRun} {c : CtrPlace} (ha : mgCaddr r.desc ≠ 0)
    (hwalk : decide (mgField r.desc 0x38 17 1 = 1) = false →
      xlateNeeds s v.t.core v.t.ctx (mgCaddr r.desc) true = [] ∧ fabricOf s v.t.ctx (mgCaddr r.desc) = none)
    (hctr : (if decide (mgField r.desc 0x38 17 1 = 1) then (s, ctrSeg s v.t (mgCaddr r.desc))
      else ctrGlob s v.t.core v.t.ctx (mgCaddr r.desc) true) = (s1, .ok (.here c)))
    (hneeds : ctrNeeds s1 true c = []) (hrelease : releaseNeeds s1 v (1 <<< r.str) (mgField r.desc 0x38 14 3) = [])
    (hpoison : ctrPoisoned s1 c = false) :
    mgComplete v r s = ((((((if decide (mgField r.desc 0x38 17 1 = 1) then s1 else s1.markCtr v.t.core v.t.ctx (mgCaddr r.desc)).release
      v (1 <<< r.str) (mgField r.desc 0x38 14 3)).recall none (targetLines c.target)).ctrAdd c
        (BitVec.ofNat 64 (mgField r.desc 0x3C 0 16))).1).putSlot v v.p.mgEnd) := by
  have hwalks : (if decide (mgField r.desc 0x38 17 1 = 1) = true then []
      else xlateNeeds s v.t.core v.t.ctx (mgCaddr r.desc) true) = [] := by
    split
    · rfl
    · next h => exact (hwalk (Bool.eq_false_iff.mpr h)).1
  have hfabric : ¬(!decide (mgField r.desc 0x38 17 1 = 1) && (fabricOf s v.t.ctx (mgCaddr r.desc)).isSome) = true := by
    cases hclus : decide (mgField r.desc 0x38 17 1 = 1) with
    | true => simp
    | false => simp [(hwalk hclus).2]
  rw [mgComplete]
  dsimp only
  rw [if_neg ha, hwalks, if_neg (not_not.mpr rfl), if_neg hfabric, hctr]
  dsimp only
  rw [hneeds, hrelease, List.append_nil]
  dsimp only
  rw [hpoison]
  rfl

/-- Past its MGEMM a slot runs none, and `%mxst` is clear. -/
theorem Slot.mgEnd_spec (p : Slot) : p.mgEnd.mg = none ∧ p.mgEnd.mxst = 0 ∧
    (p.exp = none → p.rep = none → p.mgEnd.pc = p.pc + 8 ∧ p.mgEnd.status = .running ∧ p.mgEnd.pend = p.pend) := by
  obtain ⟨hpc, -, -, -, hmxst, -, -, -, -, -, hplain, -⟩ :=
    ({ p with status := .running, mg := none, mxst := 0 } : Slot).afterOther_frame false
  refine ⟨?_, hmxst, fun hexp hrep => ?_⟩
  · unfold Slot.mgEnd Slot.afterOther
    rcases Slot.retire_cases (({ p with status := .running, mg := none, mxst := 0 } : Slot).dropLatches.chainStep false)
      with ⟨pc, rep, exp, hretire, -⟩ | ⟨x, -, hretire⟩ <;> rw [hretire] <;> rfl
  · obtain ⟨hpend, -, hstatus⟩ := hplain hexp
    refine ⟨hpc.trans ?_, hstatus, hpend⟩
    exact congrArg Slot.pc (Slot.retire_word (p := { p with status := .running, mg := none, mxst := 0 }) hrep hexp)

/-! ### Acceptance later (R260) -/

/-- An operation that waited is accepted with the effect it has. -/
theorem exec_matrixAcceptance {s s0 s1 : State} {v : View} {word : Dword} {x : MxArgs} {c : Ctl} {body : MxBody} {p : Slot}
    (hv : s.find v.sl = some v) (hstatus : v.p.status = .accepting word x) (hword : mxBody (decodeWord word) = some (c, body))
    (hbusy : mxBusy v false (mxNames (decodeWord word) x) = false) (hlive : v.p.live = true)
    (hbody : body x { v with p := { v.p with status := .running, waitTeam := none } } s = (s0, .ok (s1, p))) :
    exec (.matrixAcceptance v.sl) s = .next (s1.putSlot { v with p := { v.p with status := .running, waitTeam := none } }
      ({ p with replay := false }.afterOther c.ch)) := by
  refine (show exec (.matrixAcceptance v.sl) s = execMatrixAcceptance v.sl s from rfl).trans ?_
  rw [execMatrixAcceptance, hv]
  dsimp only
  rw [hstatus]
  dsimp only
  rw [hword]
  dsimp only
  rw [if_neg (by rw [hbusy]; decide), hbody, mxFinish, if_pos hlive]

end Sys2Proof.Machine
end

section

/-! PROOFS. What MSTORE, MGEMM, its sequencer and a later acceptance do (O41). -/

namespace Sys2Proof.Machine

/-- Settles O41: MSTORE and MGEMM by what their bodies and plans answer, the sequencer by the branches of `mgAdvance`, and a later
acceptance by the same bodies. -/
theorem matrixStoresWaitsAndSequences : Obligations.MatrixStoresWaitsAndSequences := by
  unfold Obligations.MatrixStoresWaitsAndSequences
  refine ⟨?mstore, ?rows, ?planned, ?mgemm, ?inactive, ?row, ?step, MgRun.next_spec, ?stop, ?complete, Slot.mgEnd_spec, ?accepted,
    ?spilled⟩
  case mstore =>
    intro f s s1 v a e hv hc hfree ha hepi d n m rows cols hrsv hsk hsoff hbase hstride
    have hok : d.StoreOk n := ⟨hrsv, hsk, hsoff, hbase, hstride⟩
    refine ⟨fun hnone => ?_, fun s2 hstore => ?_, ?_⟩
    · exact mstore_movesOn hv hc hfree ha hepi hok (storeRows_nil hnone) (.refl s1)
    · have hframe := (engineFrame_storeRows s1 v f.str (outSpace (f.xb.toNat % 4)) e a d.base d.stride 0 rows cols).of_eq hstore
      obtain ⟨t, hexec, hmoves⟩ := mstore_movesOn hv hc hfree ha hepi hok hstore hframe.memoryWork
      exact ⟨t, hexec, hmoves, hframe⟩
    · intro bias scl s2 num out hrows hcols hspc hvec hread hready
      obtain ⟨s3, hstore, hwrites⟩ := storeRows_core (c0 := 0) hrows hcols hvec hread hbase hstride hready
      rw [← outSpace_core hspc] at hstore
      obtain ⟨t, hexec, hmoves⟩ := mstore_movesOn hv hc hfree ha hepi hok hstore
        ((memoryWork_coreAfter s1 v f.str _).trans hwrites.memoryWork)
      exact ⟨t, s3, hexec, hmoves, hwrites⟩
  case rows => exact fun s s1 v str spc e a base stride c0 rows cols vs hrows hcols hvs => storeRows_of_vectors hrows hcols hvs
  case planned =>
    intro f s s1 v r hv hc hactive hplan
    exact ⟨execMgemm_plan hv hc hactive hplan, (engineFrame_mgemmPlan f (readS64 v f.sa) v s).of_eq hplan⟩
  case mgemm =>
    intro f s v hv hc hactive hspc a str head hal hread s1 d p b block e hacc hslots hok hm hn hk run
    have hplan := mgemmPlan_core hspc hal hread ⟨hacc, hslots, hok, hm, hn, hk⟩
    refine ⟨fun hb hout => ?_, fun hb hbal hblock heok hout => ?_⟩
    · refine execMgemm_plan hv hc hactive (hplan.trans ((if_pos hb).trans (mxCheck_pass hout _ _ _)))
    · refine execMgemm_plan hv hc hactive (hplan.trans ((if_neg hb).trans ?_))
      rw [readEpi_core hbal hblock heok]
      exact mxCheck_pass hout _ _ _
  case inactive =>
    intro f s v hv hc hactive hreplay
    exact ⟨_, execMgemm_inactive hv hc hactive hreplay, (State.holds_of_view hv).movesOn (p := v.p) false rfl⟩
  case row =>
    intro s v r hv hstatus hmg hm hlive hpreempt hbusy s0 q v0 s1 s2 hv0 hrow
    exact (exec_sequencerStep hv hstatus hmg fun _ => hbusy).trans (congrArg _ (mgAdvance_row hv hm hlive hpreempt hv0 hrow))
  case step =>
    intro s v r a w d fa str runs ha hw hwv hty hres hfits hspc hread s1 bytes
    exact ⟨_, mgStepRow_core ha hw hwv hty hres hfits hspc hread⟩
  case stop =>
    intro s v r hv hstatus hmg hm hstarted hstore hrow hlive hpreempt hexp hbusy
    exact (exec_sequencerStep hv hstatus hmg fun _ _ => hbusy).trans
      (congrArg _ (mgAdvance_stop hm hstarted hstore hrow hlive hpreempt hexp))
  case complete =>
    intro s s1 v r hv hstatus hmg hm hlive a clus str sco
    have hexec := (exec_sequencerStep hv hstatus hmg fun h => absurd h (Nat.not_lt.mpr hm)).trans
      (congrArg _ (mgAdvance_end hm hlive))
    refine ⟨fun ha => hexec.trans (congrArg _ ?_), fun c ha hwalk hctr hneeds hrelease hpoison => hexec.trans (congrArg _ ?_)⟩
    · exact if_pos ha
    · exact mgComplete_add ha hwalk hctr hneeds hrelease hpoison
  case accepted =>
    intro s s0 s1 v word x c body p hv hstatus hword hbusy hlive v1 hbody
    exact exec_matrixAcceptance hv hstatus hword hbusy hlive hbody
  case spilled =>
    intro s v f word x a hv hstatus hword hbusy hlive ha v1 d image hok hbase hready
    obtain ⟨s1, hbody, hwrites⟩ := mspillBody_core (f := f) (x := x) (v := v1) ha hok hbase hready
    refine ⟨_, s1, exec_matrixAcceptance hv hstatus (by rw [hword]; rfl) (by rw [hword]; exact hbusy) hlive hbody, ?_, hwrites⟩
    exact movesOn_accepted (v := v1) (p := v1.p) (State.holds_of_find hv) hwrites.memoryWork rfl f.c.ch

end Sys2Proof.Machine
end
